-- ==== Sys2Proof/Word.lean ====
section
/-! DEFINITION. The words of the machine, and the sparse table (an association list sorted by key) that
holds every large array of `State`. -/

namespace Sys2Proof

/-- A 64-bit register value (R188). -/
abbrev W := BitVec 64
/-- A byte of memory. -/
abbrev Byte := BitVec 8
/-- A halfword of instruction memory (R15). -/
abbrev HW := BitVec 16
/-- The number of a register field d, a or b (R17). -/
abbrev Reg := BitVec 5
/-- The number of a predicate register P0–P7. -/
abbrev PReg := BitVec 3

/-- A sparse table: an association list with strictly rising keys; an unlisted key reads as a default. -/
abbrev Tbl (α : Type) := List (Nat × α)

namespace Tbl

/-- The entry at key `k`, if one is listed. -/
def find? {α : Type} (t : Tbl α) (k : Nat) : Option α :=
  match t with
  | [] => none
  | e :: r => if e.1 = k then some e.2 else find? r k

/-- The entry at key `k`, or the default. -/
def getD {α : Type} (t : Tbl α) (k : Nat) (d : α) : α := (find? t k).getD d

/-- Sets the entry at key `k`, keeping the keys in rising order. -/
def insert {α : Type} (t : Tbl α) (k : Nat) (v : α) : Tbl α :=
  match t with
  | [] => [(k, v)]
  | e :: r => if k < e.1 then (k, v) :: e :: r
              else if k = e.1 then (k, v) :: r
              else e :: insert r k v

/-- Removes the entry at key `k`. -/
def erase {α : Type} (t : Tbl α) (k : Nat) : Tbl α :=
  match t with
  | [] => []
  | e :: r => if e.1 = k then erase r k else e :: erase r k

/-- Writes `v` at key `k` of a table whose unlisted keys read as `d`. -/
def put {α : Type} [DecidableEq α] (d : α) (t : Tbl α) (k : Nat) (v : α) : Tbl α :=
  if v = d then erase t k else insert t k v

end Tbl

/-- A number as a register value. -/
abbrev w64 (n : Nat) : W := BitVec.ofNat 64 n

end Sys2Proof
end

