-- ==== Sys2Proof/Formats.lean ====
section
/-! DEFINITION. The coded sub-fields of the instruction formats (R27) and the operand records of
the instructions, one record type per shape of the formats of R17. -/

namespace Sys2Proof

/-- The guard of a 32-bit form (R22): sense bit and predicate number. -/
structure Guard where
  sense : Bool
  p : PReg
  deriving DecidableEq, Repr

/-- The guard 0000: always. -/
def Guard.always : Guard := ⟨false, 0⟩

/-- Access sizes of the M format (R27). -/
inductive Size where
  | b | h | w | d | n
  deriving DecidableEq, Repr

/-- Conditions of CMP (R27). -/
inductive CmpCond where
  | eq | ne | lt | ge | ltu | geu | le | gt | leu | gtu
  deriving DecidableEq, Repr

/-- Conditions of CMPI (R27). -/
inductive CmpiCond where
  | eq | ne | lt | ge
  deriving DecidableEq, Repr

/-- Conditions of VCMP (R27). -/
inductive VcmpCond where
  | eq | ne | lt | le
  deriving DecidableEq, Repr

/-- Conditions of FCMP (R27). -/
inductive FcmpCond where
  | eq | ne | lt | le | un
  deriving DecidableEq, Repr

/-- Conditions of BR (R27). -/
inductive BrCond where
  | eq | ne | lt | ge | gt | le
  deriving DecidableEq, Repr

/-- Conditions of BP (R27). -/
inductive BpCond where
  | any | all | none | b0 | nb0
  deriving DecidableEq, Repr

/-- FCVT codes (R27). -/
inductive CvtTy where
  | f64 | f32 | f16 | bf16 | i64 | n64 | i32 | n32
  deriving DecidableEq, Repr

/-- Operations of AMO and RAMO (R27). -/
inductive AmoOp where
  | add | and | or | xor | min | max | minu | maxu | swap | fadd
  deriving DecidableEq, Repr

/-- Width codes of EXT (R27). -/
inductive ExtWidth where
  | w8 | w16 | w32
  deriving DecidableEq, Repr

/-- Operations of MUPSERT and MUPSERTV (R27). -/
inductive MapOp where
  | add | adds | fadd | min | max | or | and | replace | keep
  deriving DecidableEq, Repr

/-- General vector types (R27). -/
inductive Ty where
  | f32 | f16 | bf16 | i32 | n32 | i16 | n16
  deriving DecidableEq, Repr

/-- Element formats of the F format and of windows (R27). -/
inductive Fmt where
  | f32 | f16 | bf16 | e4m3 | e5m2 | e2m1 | t8 | i8 | i16 | i32 | n8 | n16 | n32 | q8r | q4r
  deriving DecidableEq, Repr

/-- Fence and invalidation scopes (R27). -/
inductive Scope where
  | core | cluster | package | system
  deriving DecidableEq, Repr

/-- Operations of VRED (R28). -/
inductive RedOp where
  | add | min | max | and | or | xor
  deriving DecidableEq, Repr

/-- Operations of VSCAN (R28). -/
inductive ScanOp where
  | add | min | max
  deriving DecidableEq, Repr

/-- Q format: port bits, operands b and a, destination d. -/
structure QForm where
  pb : Bool
  pd : Bool
  b : Reg
  a : Reg
  d : Reg
  g : Guard
  deriving DecidableEq, Repr

/-- Q format with a literal in place of operand b (R20). -/
structure QLit where
  pd : Bool
  a : Reg
  d : Reg
  g : Guard
  lit : BitVec 32
  deriving DecidableEq, Repr

/-- Q format with operand a alone. -/
structure Q1 where
  pd : Bool
  a : Reg
  d : Reg
  g : Guard
  deriving DecidableEq, Repr

/-- EXT. -/
structure ExtForm where
  pd : Bool
  uns : Bool
  width : ExtWidth
  a : Reg
  d : Reg
  g : Guard
  deriving DecidableEq, Repr

/-- SEL: predicate c. -/
structure SelForm where
  c : PReg
  b : Reg
  a : Reg
  d : Reg
  g : Guard
  deriving DecidableEq, Repr

/-- SEL with a literal. -/
structure SelLit where
  c : PReg
  a : Reg
  d : Reg
  g : Guard
  lit : BitVec 32
  deriving DecidableEq, Repr

/-- Three registers. -/
structure R3 where
  b : Reg
  a : Reg
  d : Reg
  g : Guard
  deriving DecidableEq, Repr

/-- Registers a and d. -/
structure R2 where
  a : Reg
  d : Reg
  g : Guard
  deriving DecidableEq, Repr

/-- Registers b and a. -/
structure Rba where
  b : Reg
  a : Reg
  g : Guard
  deriving DecidableEq, Repr

/-- Register a. -/
structure Ra where
  a : Reg
  g : Guard
  deriving DecidableEq, Repr

/-- Register d. -/
structure Rd where
  d : Reg
  g : Guard
  deriving DecidableEq, Repr

/-- A guard and nothing else. -/
structure G0 where
  g : Guard
  deriving DecidableEq, Repr

/-- Registers a and d with a literal. -/
structure R2Lit where
  a : Reg
  d : Reg
  g : Guard
  lit : BitVec 32
  deriving DecidableEq, Repr

/-- CMP: condition and predicate destination. -/
structure CmpForm where
  pb : Bool
  cond : CmpCond
  b : Reg
  a : Reg
  pd : PReg
  g : Guard
  deriving DecidableEq, Repr

/-- CMP with a literal. -/
structure CmpLit where
  cond : CmpCond
  a : Reg
  pd : PReg
  g : Guard
  lit : BitVec 32
  deriving DecidableEq, Repr

/-- I format. -/
structure IForm where
  imm : BitVec 9
  a : Reg
  d : Reg
  g : Guard
  deriving DecidableEq, Repr

/-- Immediate shifts. -/
structure ShiftI where
  n : BitVec 6
  a : Reg
  d : Reg
  g : Guard
  deriving DecidableEq, Repr

/-- CMPI. -/
structure CmpiForm where
  imm : BitVec 9
  cond : CmpiCond
  a : Reg
  pd : PReg
  g : Guard
  deriving DecidableEq, Repr

/-- CMPI with a literal. -/
structure CmpiLit where
  cond : CmpiCond
  a : Reg
  pd : PReg
  g : Guard
  lit : BitVec 32
  deriving DecidableEq, Repr

/-- MOVI and MOVHI. -/
structure MovForm where
  imm : BitVec 9
  d : Reg
  g : Guard
  deriving DecidableEq, Repr

/-- MOVI and MOVHI with a literal. -/
structure MovLit where
  d : Reg
  g : Guard
  lit : BitVec 32
  deriving DecidableEq, Repr

/-- FCMP: precision, condition, predicate destination. -/
structure FcmpForm where
  dbl : Bool
  cond : FcmpCond
  b : Reg
  a : Reg
  pd : PReg
  g : Guard
  deriving DecidableEq, Repr

/-- FCVT. -/
structure FcvtForm where
  dst : CvtTy
  src : CvtTy
  a : Reg
  d : Reg
  g : Guard
  deriving DecidableEq, Repr

/-- BR. -/
structure BrForm where
  off : BitVec 9
  cond : BrCond
  a : Reg
  g : Guard
  deriving DecidableEq, Repr

/-- BR with a literal offset. -/
structure BrLit where
  cond : BrCond
  a : Reg
  g : Guard
  lit : BitVec 32
  deriving DecidableEq, Repr

/-- BP. -/
structure BpForm where
  off : BitVec 9
  cond : BpCond
  a : PReg
  g : Guard
  deriving DecidableEq, Repr

/-- BP with a literal offset. -/
structure BpLit where
  cond : BpCond
  a : PReg
  g : Guard
  lit : BitVec 32
  deriving DecidableEq, Repr

/-- J. -/
structure JForm where
  off : BitVec 9
  g : Guard
  deriving DecidableEq, Repr

/-- J with a literal offset. -/
structure JLit where
  g : Guard
  lit : BitVec 32
  deriving DecidableEq, Repr

/-- JL: link register a. -/
structure JlForm where
  off : BitVec 9
  a : Reg
  g : Guard
  deriving DecidableEq, Repr

/-- JL with a literal offset. -/
structure JlLit where
  a : Reg
  g : Guard
  lit : BitVec 32
  deriving DecidableEq, Repr

/-- PLOG: truth table. -/
structure PlogForm where
  tt : BitVec 4
  b : PReg
  a : PReg
  d : PReg
  g : Guard
  deriving DecidableEq, Repr

/-- PSET. -/
structure PsetForm where
  a : Reg
  d : PReg
  g : Guard
  deriving DecidableEq, Repr

/-- PGET and PCNT. -/
structure PgetForm where
  a : PReg
  d : Reg
  g : Guard
  deriving DecidableEq, Repr

/-- REPB with its literal's fields (R29). -/
structure RepbForm where
  a : Reg
  g : Guard
  stride : BitVec 5
  fmask : BitVec 3
  pmask : BitVec 16
  deriving DecidableEq, Repr

/-- M format loads. -/
structure MemForm where
  disp : BitVec 5
  sx : Bool
  sz : Size
  a : Reg
  d : Reg
  g : Guard
  deriving DecidableEq, Repr

/-- M format loads with a literal displacement. -/
structure MemLit where
  sx : Bool
  sz : Size
  a : Reg
  d : Reg
  g : Guard
  lit : BitVec 32
  deriving DecidableEq, Repr

/-- M format stores. -/
structure StForm where
  disp : BitVec 5
  sz : Size
  a : Reg
  d : Reg
  g : Guard
  deriving DecidableEq, Repr

/-- M format stores with a literal displacement. -/
structure StLit where
  sz : Size
  a : Reg
  d : Reg
  g : Guard
  lit : BitVec 32
  deriving DecidableEq, Repr

/-- M format of one size. -/
structure DispForm where
  disp : BitVec 5
  a : Reg
  d : Reg
  g : Guard
  deriving DecidableEq, Repr

/-- LDX. -/
structure LdxForm where
  sx : Bool
  sz : Size
  b : Reg
  a : Reg
  d : Reg
  g : Guard
  deriving DecidableEq, Repr

/-- STX. -/
structure StxForm where
  sz : Size
  b : Reg
  a : Reg
  d : Reg
  g : Guard
  deriving DecidableEq, Repr

/-- AMO and RAMO. -/
structure AmoForm where
  op : AmoOp
  b : Reg
  a : Reg
  d : Reg
  g : Guard
  deriving DecidableEq, Repr

/-- SEND. -/
structure SendForm where
  n : BitVec 3
  b : Reg
  a : Reg
  g : Guard
  deriving DecidableEq, Repr

/-- SENDW. -/
structure SendwForm where
  n : BitVec 3
  b : Reg
  a : Reg
  d : Reg
  g : Guard
  deriving DecidableEq, Repr

/-- SENDC: n is the halfword count minus 1. -/
structure SendcForm where
  n : BitVec 4
  b : Reg
  a : Reg
  d : Reg
  g : Guard
  deriving DecidableEq, Repr

/-- MRD. -/
structure MrdForm where
  b : PReg
  a : Reg
  d : Reg
  g : Guard
  deriving DecidableEq, Repr

/-- Copies: channel, argument block a, ID destination d. -/
structure CopyForm where
  ch : BitVec 4
  a : Reg
  d : Reg
  g : Guard
  deriving DecidableEq, Repr

/-- SLOTRET: n is the slot count minus 1. -/
structure SlotretForm where
  n : BitVec 4
  a : Reg
  g : Guard
  deriving DecidableEq, Repr

/-- SBIND. -/
structure SbindForm where
  ch : BitVec 4
  a : Reg
  n : BitVec 2
  g : Guard
  deriving DecidableEq, Repr

/-- CWAIT. -/
structure ChForm where
  ch : BitVec 4
  a : Reg
  g : Guard
  deriving DecidableEq, Repr

/-- K format with a predicate. -/
structure MapForm where
  k : PReg
  b : Reg
  a : Reg
  d : Reg
  g : Guard
  deriving DecidableEq, Repr

/-- K format with an operation. -/
structure MapOpForm where
  op : MapOp
  b : Reg
  a : Reg
  d : Reg
  g : Guard
  deriving DecidableEq, Repr

/-- V format with a type. -/
structure VForm where
  p : Bool
  ty : Ty
  b : Reg
  a : Reg
  d : Reg
  g : Guard
  deriving DecidableEq, Repr

/-- V format without a type. -/
structure VBin where
  p : Bool
  b : Reg
  a : Reg
  d : Reg
  g : Guard
  deriving DecidableEq, Repr

/-- V format shifts: half selects 16-bit lanes. -/
structure VShForm where
  p : Bool
  half : Bool
  b : Reg
  a : Reg
  d : Reg
  g : Guard
  deriving DecidableEq, Repr

/-- VCMP. -/
structure VcmpForm where
  p : Bool
  ty : Ty
  b : Reg
  a : Reg
  cond : VcmpCond
  pd : PReg
  g : Guard
  deriving DecidableEq, Repr

/-- VSEL: predicate c. -/
structure VselForm where
  p : Bool
  c : PReg
  b : Reg
  a : Reg
  d : Reg
  g : Guard
  deriving DecidableEq, Repr

/-- Unary vector operation with a type. -/
structure VUn where
  p : Bool
  ty : Ty
  a : Reg
  d : Reg
  g : Guard
  deriving DecidableEq, Repr

/-- Unary vector operation without a type. -/
structure VUn0 where
  p : Bool
  a : Reg
  d : Reg
  g : Guard
  deriving DecidableEq, Repr

/-- VCOMP: predicate c. -/
structure VcompForm where
  p : Bool
  c : PReg
  a : Reg
  d : Reg
  g : Guard
  deriving DecidableEq, Repr

/-- VMOV to queue Q4 + q. -/
structure VmovqForm where
  a : Reg
  q : BitVec 2
  g : Guard
  deriving DecidableEq, Repr

/-- VRED. -/
structure VredForm where
  p : Bool
  ty : Ty
  op : RedOp
  a : Reg
  d : Reg
  g : Guard
  deriving DecidableEq, Repr

/-- VSCAN. -/
structure VscanForm where
  p : Bool
  ty : Ty
  op : ScanOp
  a : Reg
  d : Reg
  g : Guard
  deriving DecidableEq, Repr

/-- F format with the no-saturate bit. -/
structure CvtForm where
  ns : Bool
  dst : Fmt
  src : Fmt
  a : Reg
  d : Reg
  g : Guard
  deriving DecidableEq, Repr

/-- VDEC and VDQNT: part p and source format. -/
structure UnpackForm where
  p : BitVec 4
  src : Fmt
  a : Reg
  d : Reg
  g : Guard
  deriving DecidableEq, Repr

/-- VENC: part p and destination format. -/
structure PackForm where
  ns : Bool
  dst : Fmt
  p : BitVec 4
  a : Reg
  d : Reg
  g : Guard
  deriving DecidableEq, Repr

/-- VQNT: part p and destination format. -/
structure QuantForm where
  dst : Fmt
  p : BitVec 4
  a : Reg
  d : Reg
  g : Guard
  deriving DecidableEq, Repr

/-- MMA. -/
structure MmaForm where
  a : Reg
  t : PReg
  g : Guard
  deriving DecidableEq, Repr

/-- MMAT: source tile s. -/
structure MmatForm where
  s : PReg
  t : PReg
  g : Guard
  deriving DecidableEq, Repr

/-- T format with a tile alone. -/
structure TForm where
  t : PReg
  g : Guard
  deriving DecidableEq, Repr

/-- Tile loads and stores. -/
structure TileForm where
  b : Reg
  a : Reg
  t : PReg
  g : Guard
  deriving DecidableEq, Repr

/-- FENCE. -/
structure FenceForm where
  scope : Scope
  g : Guard
  deriving DecidableEq, Repr

/-- TRAP. -/
structure TrapForm where
  code : BitVec 9
  g : Guard
  deriving DecidableEq, Repr

/-- SRD. -/
structure SrdForm where
  n : BitVec 9
  d : Reg
  g : Guard
  deriving DecidableEq, Repr

/-- SWR. -/
structure SwrForm where
  n : BitVec 9
  a : Reg
  g : Guard
  deriving DecidableEq, Repr

/-- TLBINV. -/
structure TlbForm where
  scope : Scope
  b : Reg
  a : Reg
  g : Guard
  deriving DecidableEq, Repr

/-- Compact form with two registers (f2 in b, f1 in d). -/
structure C2 where
  b : Reg
  d : Reg
  deriving DecidableEq, Repr

/-- Compact form with one register (f1). -/
structure C1 where
  a : Reg
  deriving DecidableEq, Repr

/-- Compact form with an immediate (f2) and a register (f1). -/
structure CImm where
  imm : BitVec 5
  d : Reg
  deriving DecidableEq, Repr

/-- Compact form with an immediate (f2). -/
structure CZ where
  imm : BitVec 5
  deriving DecidableEq, Repr

/-- The header of a command-window write that starts an Ebpex command (R334): the slot, its
FLAGS.IRQ bit, its TAG, and whether the parameters hold a set reserved bit. -/
structure CmdHead where
  slot : Nat
  irq : Bool
  tag : Nat
  reserved : Bool
  deriving DecidableEq, Repr

/-- What the parameter address of a command names (R335): the host physical address `src`, and the elements there, of which
the device reads those in HBM itself; `given` counts for the part that lies in host memory. -/
structure Param (α : Type) where
  src : Nat
  given : List α
  deriving DecidableEq, Repr

/-- A rectangle of cores: cluster columns x0–x1, rows y0–y1, and the core positions of cmask. -/
structure Rect where
  x0 : Nat
  x1 : Nat
  y0 : Nat
  y1 : Nat
  cmask : Nat
  deriving DecidableEq, Repr

end Sys2Proof
end

