-- ==== Sys2Proof/Syntax.lean ====
section
/-! DEFINITION. The instruction set: one constructor per row of spec/opcode_table.json. The rows with
a word are the Isdex instructions; the other rows are the steps of the device's agents (homes, ports,
controllers, map units, schedulers, firmware, host), named by the events that cause them. -/

namespace Sys2Proof

/-- One step of the machine, by the row of the opcode table that names it. -/
inductive Instr where
  /-- ADD (R263): Writes the 64-bit wrapping sum of X[a] and operand b to X[d] or a port. -/
  | add (f : QForm)
  /-- ADD_LIT (R263): ADD with operand b taken from a sign-extended 32-bit literal word. -/
  | addLit (f : QLit)
  /-- SUB (R263): Writes the 64-bit wrapping difference of X[a] and operand b. -/
  | sub (f : QForm)
  /-- SUB_LIT (R263): SUB with a literal operand b. -/
  | subLit (f : QLit)
  /-- MIN (R263): Writes the signed minimum of X[a] and operand b. -/
  | min (f : QForm)
  /-- MIN_LIT (R263): MIN with a literal operand b. -/
  | minLit (f : QLit)
  /-- MAX (R263): Writes the signed maximum of X[a] and operand b. -/
  | max (f : QForm)
  /-- MAX_LIT (R263): MAX with a literal operand b. -/
  | maxLit (f : QLit)
  /-- MINU (R263): Writes the unsigned minimum of X[a] and operand b. -/
  | minu (f : QForm)
  /-- MINU_LIT (R263): MINU with a literal operand b. -/
  | minuLit (f : QLit)
  /-- MAXU (R263): Writes the unsigned maximum of X[a] and operand b. -/
  | maxu (f : QForm)
  /-- MAXU_LIT (R263): MAXU with a literal operand b. -/
  | maxuLit (f : QLit)
  /-- ANDN (R263): Writes X[a] AND NOT operand b. -/
  | andn (f : QForm)
  /-- ANDN_LIT (R263): ANDN with a literal operand b. -/
  | andnLit (f : QLit)
  /-- BFX (R266): Extracts a bit field of X[a] described by operand b, optionally sign-extended. -/
  | bfx (f : QForm)
  /-- BFX_LIT (R266): BFX with the field control in a literal. -/
  | bfxLit (f : QLit)
  /-- AND (R263): Writes the bitwise AND of X[a] and operand b. -/
  | and (f : QForm)
  /-- AND_LIT (R263): AND with a literal operand b. -/
  | andLit (f : QLit)
  /-- OR (R263): Writes the bitwise OR of X[a] and operand b. -/
  | or (f : QForm)
  /-- OR_LIT (R263): OR with a literal operand b. -/
  | orLit (f : QLit)
  /-- XOR (R263): Writes the bitwise XOR of X[a] and operand b. -/
  | xor (f : QForm)
  /-- XOR_LIT (R263): XOR with a literal operand b. -/
  | xorLit (f : QLit)
  /-- BFI (R266): Inserts the low bits of X[a] into a field of X[d] described by operand b. -/
  | bfi (f : QForm)
  /-- BFI_LIT (R266): BFI with the field control in a literal. -/
  | bfiLit (f : QLit)
  /-- SHL (R267): Shifts X[a] left by operand b, giving 0 for amounts of 64 or more. -/
  | shl (f : QForm)
  /-- SHL_LIT (R267): SHL with a literal shift amount. -/
  | shlLit (f : QLit)
  /-- SHR (R267): Shifts X[a] right with zero fill by operand b. -/
  | shr (f : QForm)
  /-- SHR_LIT (R267): SHR with a literal shift amount. -/
  | shrLit (f : QLit)
  /-- SAR (R267): Shifts X[a] right with sign fill by operand b. -/
  | sar (f : QForm)
  /-- SAR_LIT (R267): SAR with a literal shift amount. -/
  | sarLit (f : QLit)
  /-- ROL (R267): Rotates X[a] left by operand b modulo 64. -/
  | rol (f : QForm)
  /-- ROL_LIT (R267): ROL with a literal rotate amount. -/
  | rolLit (f : QLit)
  /-- MUL (R263): Writes the low 64 bits of the product of X[a] and operand b. -/
  | mul (f : QForm)
  /-- MUL_LIT (R263): MUL with a literal operand b. -/
  | mulLit (f : QLit)
  /-- MULH (R263): Writes the high 64 bits of the signed 128-bit product. -/
  | mulh (f : QForm)
  /-- MULH_LIT (R263): MULH with a literal operand b. -/
  | mulhLit (f : QLit)
  /-- MULHU (R263): Writes the high 64 bits of the unsigned 128-bit product. -/
  | mulhu (f : QForm)
  /-- MULHU_LIT (R263): MULHU with a literal operand b. -/
  | mulhuLit (f : QLit)
  /-- XYADDR (R271): Composes a region 0x8 local address from a core number and a window and offset. -/
  | xyaddr (f : QForm)
  /-- XYADDR_LIT (R271): XYADDR with window and offset in a literal. -/
  | xyaddrLit (f : QLit)
  /-- DIV (R265): Writes the signed quotient truncated toward zero, never trapping. -/
  | div (f : QForm)
  /-- DIV_LIT (R265): DIV with a literal divisor. -/
  | divLit (f : QLit)
  /-- DIVU (R265): Writes the unsigned quotient, all ones for a zero divisor. -/
  | divu (f : QForm)
  /-- DIVU_LIT (R265): DIVU with a literal divisor. -/
  | divuLit (f : QLit)
  /-- REM (R265): Writes the signed remainder with the sign of the dividend. -/
  | rem (f : QForm)
  /-- REM_LIT (R265): REM with a literal divisor. -/
  | remLit (f : QLit)
  /-- REMU (R265): Writes the unsigned remainder. -/
  | remu (f : QForm)
  /-- REMU_LIT (R265): REMU with a literal divisor. -/
  | remuLit (f : QLit)
  /-- CLZ (R264): Counts leading zero bits of X[a]. -/
  | clz (f : Q1)
  /-- CTZ (R264): Counts trailing zero bits of X[a]. -/
  | ctz (f : Q1)
  /-- POPC (R264): Counts the set bits of X[a]. -/
  | popc (f : Q1)
  /-- EXT (R264): Sign- or zero-extends the low 8, 16 or 32 bits of X[a]. -/
  | ext (f : ExtForm)
  /-- SEL (R269): Selects X[a] or operand b by bit 0 of predicate Pc. -/
  | sel (f : SelForm)
  /-- SEL_LIT (R269): SEL with operand b from a literal. -/
  | selLit (f : SelLit)
  /-- WFLD (R269): Replaces the window field [49:46] of X[a] with b[3:0]. -/
  | wfld (f : R3)
  /-- WFLD_LIT (R269): WFLD with the window number in a literal. -/
  | wfldLit (f : R2Lit)
  /-- CMP (R270): Compares X[a] with operand b under a 4-bit condition and writes an all-ones or zero predicate. -/
  | cmp (f : CmpForm)
  /-- CMP_LIT (R270): CMP with operand b from a literal. -/
  | cmpLit (f : CmpLit)
  /-- ADDI (R268): Adds a sign-extended immediate to X[a]. -/
  | addi (f : IForm)
  /-- ADDI_LIT (R268): ADDI with a 32-bit literal immediate. -/
  | addiLit (f : R2Lit)
  /-- ANDI (R268): ANDs X[a] with a sign-extended immediate. -/
  | andi (f : IForm)
  /-- ANDI_LIT (R268): ANDI with a literal immediate. -/
  | andiLit (f : R2Lit)
  /-- ORI (R268): ORs X[a] with a sign-extended immediate. -/
  | ori (f : IForm)
  /-- ORI_LIT (R268): ORI with a literal immediate. -/
  | oriLit (f : R2Lit)
  /-- XORI (R268): XORs X[a] with a sign-extended immediate. -/
  | xori (f : IForm)
  /-- XORI_LIT (R268): XORI with a literal immediate. -/
  | xoriLit (f : R2Lit)
  /-- SHLI (R268): Shifts X[a] left by an immediate amount. -/
  | shli (f : ShiftI)
  /-- SHRI (R268): Shifts X[a] right with zero fill by an immediate amount. -/
  | shri (f : ShiftI)
  /-- SARI (R268): Shifts X[a] right with sign fill by an immediate amount. -/
  | sari (f : ShiftI)
  /-- CMPI (R270): Compares X[a] with an immediate under a 2-bit condition and writes a predicate. -/
  | cmpi (f : CmpiForm)
  /-- CMPI_LIT (R270): CMPI with a literal immediate. -/
  | cmpiLit (f : CmpiLit)
  /-- MOVI (R268): Writes a sign-extended immediate to X[d]. -/
  | movi (f : MovForm)
  /-- MOVI_LIT (R268): MOVI with a sign-extended 32-bit literal. -/
  | moviLit (f : MovLit)
  /-- MOVHI (R268): Writes an immediate into X[d][63:32], keeping the low half. -/
  | movhi (f : MovForm)
  /-- MOVHI_LIT (R268): MOVHI with an unextended 32-bit literal. -/
  | movhiLit (f : MovLit)
  /-- FADD_F32 (R275): Adds two F32 values, rounding by SR.RMODE. -/
  | faddF32 (f : R3)
  /-- FSUB_F32 (R275): Subtracts two F32 values. -/
  | fsubF32 (f : R3)
  /-- FMUL_F32 (R275): Multiplies two F32 values. -/
  | fmulF32 (f : R3)
  /-- FDIV_F32 (R275): Divides two F32 values. -/
  | fdivF32 (f : R3)
  /-- FADD_F64 (R275): Adds two F64 values. -/
  | faddF64 (f : R3)
  /-- FSUB_F64 (R275): Subtracts two F64 values. -/
  | fsubF64 (f : R3)
  /-- FMUL_F64 (R275): Multiplies two F64 values. -/
  | fmulF64 (f : R3)
  /-- FDIV_F64 (R275): Divides two F64 values. -/
  | fdivF64 (f : R3)
  /-- FSQRT_F32 (R275): Takes the F32 square root of X[a]. -/
  | fsqrtF32 (f : R2)
  /-- FMIN_F32 (R275): Writes the F32 minimum, following the VMIN NaN rules. -/
  | fminF32 (f : R3)
  /-- FMAX_F32 (R275): Writes the F32 maximum. -/
  | fmaxF32 (f : R3)
  /-- FSQRT_F64 (R275): Takes the F64 square root of X[a]. -/
  | fsqrtF64 (f : R2)
  /-- FMIN_F64 (R275): Writes the F64 minimum. -/
  | fminF64 (f : R3)
  /-- FMAX_F64 (R275): Writes the F64 maximum. -/
  | fmaxF64 (f : R3)
  /-- FFMA_F32 (R275): Computes X[a] times X[b] plus X[d] in F32 with one rounding. -/
  | ffmaF32 (f : R3)
  /-- FFMA_F64 (R275): Computes X[a] times X[b] plus X[d] in F64 with one rounding. -/
  | ffmaF64 (f : R3)
  /-- FCMP (R277): Compares two F32 or F64 values under EQ, NE, LT, LE or UN and writes a predicate. -/
  | fcmp (f : FcmpForm)
  /-- FCVT (R278): Converts X[a] between scalar float and integer formats by convert(). -/
  | fcvt (f : FcvtForm)
  /-- BR (R273): Branches when X[a] compared signed with zero satisfies the condition. -/
  | br (f : BrForm)
  /-- BR_LIT (R273): BR with a literal halfword offset. -/
  | brLit (f : BrLit)
  /-- BP (R273): Branches on ANY, ALL, NONE, B0 or NB0 of predicate Pa. -/
  | bp (f : BpForm)
  /-- BP_LIT (R273): BP with a literal halfword offset. -/
  | bpLit (f : BpLit)
  /-- J (R273): Jumps unconditionally by a halfword offset. -/
  | j (f : JForm)
  /-- J_LIT (R273): J with a literal halfword offset. -/
  | jLit (f : JLit)
  /-- JL (R273): Jumps and writes the following halfword index to the link register. -/
  | jl (f : JlForm)
  /-- JL_LIT (R273): JL with a literal halfword offset. -/
  | jlLit (f : JlLit)
  /-- JR (R274): Jumps to the halfword index held in X[a]. -/
  | jr (f : Ra)
  /-- JLR (R274): Jumps to X[a] and writes the return index to X[d]. -/
  | jlr (f : R2)
  /-- PLOG (R272): Combines two predicates bitwise through a 4-bit truth table. -/
  | plog (f : PlogForm)
  /-- PSET (R272): Writes X[a] into predicate Pd. -/
  | pset (f : PsetForm)
  /-- PGET (R272): Writes predicate Pa into X[d]. -/
  | pget (f : PgetForm)
  /-- PCNT (R272): Counts the set bits of Pa below SR.VL. -/
  | pcnt (f : PgetForm)
  /-- REPB (R214): Opens a repetition-buffer recording with a count register and a stagger literal. -/
  | repb (f : RepbForm)
  /-- REPE (R215): Closes the recording and starts the sequencer replaying it count times. -/
  | repe
  /-- LD (R104): Loads 1 to 8 bytes, zero- or sign-extended, through the L1 or the scratchpad. -/
  | ld (f : MemForm)
  /-- LD_LIT (R104): LD with an unscaled literal byte displacement. -/
  | ldLit (f : MemLit)
  /-- LD_ACQ (R104): Loads and then acquires at PACKAGE scope. -/
  | ldAcq (f : MemForm)
  /-- LD_ACQ_LIT (R104): LD.ACQ with a literal displacement. -/
  | ldAcqLit (f : MemLit)
  /-- ST (R104): Stores 1 to 8 bytes, registering global words at their home. -/
  | st (f : StForm)
  /-- ST_LIT (R104): ST with a literal displacement. -/
  | stLit (f : StLit)
  /-- ST_REL (R104): Waits for the PACKAGE release conditions and then stores. -/
  | stRel (f : StForm)
  /-- ST_REL_LIT (R104): ST.REL with a literal displacement. -/
  | stRelLit (f : StLit)
  /-- LDX (R104): Loads from X[a] + X[b]. -/
  | ldx (f : LdxForm)
  /-- STX (R104): Stores to X[a] + X[b]. -/
  | stx (f : StxForm)
  /-- LDP (R105): Loads a register pair as one single-copy-atomic 16-byte access. -/
  | ldp (f : DispForm)
  /-- LDP_LIT (R105): LDP with a literal displacement. -/
  | ldpLit (f : R2Lit)
  /-- STP (R105): Stores a register pair as one 16-byte access. -/
  | stp (f : DispForm)
  /-- STP_LIT (R105): STP with a literal displacement. -/
  | stpLit (f : R2Lit)
  /-- AMO_W (R106): Performs an indivisible 4-byte read-modify-write at the home or owner port and returns the old value. -/
  | amoW (f : AmoForm)
  /-- AMO_D (R106): Performs an indivisible 8-byte read-modify-write and returns the old value. -/
  | amoD (f : AmoForm)
  /-- CAS_W (R107): Compares and swaps a 4-byte word. -/
  | casW (f : R3)
  /-- CAS_D (R107): Compares and swaps an 8-byte word. -/
  | casD (f : R3)
  /-- CAS2 (R107): Compares and swaps 16 bytes using register pairs. -/
  | cas2 (f : R3)
  /-- CWB (R108): Writes back and releases registered words of a global range and waits for the acknowledgements. -/
  | cwb (f : Rba)
  /-- CINV (R108): Writes back registered words and clears SV for every line of a global range. -/
  | cinv (f : Rba)
  /-- RLD (R158): Loads from a scratchpad through its owner port and stalls for the reply. -/
  | rld (f : MemForm)
  /-- RLD_LIT (R158): RLD with a literal displacement. -/
  | rldLit (f : MemLit)
  /-- RST (R158): Posts a store to a scratchpad on the ordered or a bulk plane, taking a Waybill entry. -/
  | rst (f : MemForm)
  /-- RST_LIT (R158): RST with a literal displacement. -/
  | rstLit (f : MemLit)
  /-- RAMO_W (R158): Performs a 4-byte atomic at a scratchpad owner port and stalls for the old value. -/
  | ramoW (f : AmoForm)
  /-- RAMO_D (R158): Performs an 8-byte atomic at a scratchpad owner port. -/
  | ramoD (f : AmoForm)
  /-- SEND (R161): Posts a message of 1 to 6 words to a handler channel on a core, taking a Waybill entry. -/
  | send (f : SendForm)
  /-- SENDW (R161): Sends a message and stalls until its acceptance status returns. -/
  | sendw (f : SendwForm)
  /-- SENDC (R162): Sends up to 16 halfwords of carried code to run as a HI task at the target and stalls for status. -/
  | sendc (f : SendcForm)
  /-- MRD (R163): Takes the next inbox word of a channel without waiting. -/
  | mrd (f : MrdForm)
  /-- TSWAP (R164): Exchanges a 2 KiB tile with the mirror core's paired TSWAP. -/
  | tswap (f : Ra)
  /-- MXCMD (R166): Sends a capability-checked matrix command to another core's command queue and stalls for status. -/
  | mxcmd (f : R3)
  /-- CAPSET (R165): Sets SR.CAP from X[a] in supervisor mode. -/
  | capset (f : Ra)
  /-- GET (R69): Issues a bulk copy from a far range or tensor box into the local scratchpad on a channel. -/
  | get (f : CopyForm)
  /-- PUT (R69): Issues a bulk copy from the local scratchpad to a far range or tensor box. -/
  | put (f : CopyForm)
  /-- GETX (R69): Issues a gather of indexed rows into the local scratchpad. -/
  | getx (f : CopyForm)
  /-- PUTX (R69): Issues a scatter of local rows to indexed rows. -/
  | putx (f : CopyForm)
  /-- PUTXA (R80): Issues a scatter-add of local rows into indexed rows. -/
  | putxa (f : CopyForm)
  /-- PUTR (R81): Contributes LEN bytes to the next reduction round of a group. -/
  | putr (f : CopyForm)
  /-- MCAST (R82): Multicasts LEN local bytes to every receiver in RMASK after taking their slots. -/
  | mcast (f : CopyForm)
  /-- SLOTRET (R83): Sends a multicast slot return of n to a core. -/
  | slotret (f : SlotretForm)
  /-- SBIND (R84): Binds a stream register to a recent GET or GETX on a channel. -/
  | sbind (f : SbindForm)
  /-- CWAIT (R85): Stalls until a named transfer on a channel has completed. -/
  | cwait (f : ChForm)
  /-- LDF (R87): Loads a scratchpad word once its full bit is set. -/
  | ldf (f : MemForm)
  /-- LDF_LIT (R87): LDF with a literal displacement. -/
  | ldfLit (f : MemLit)
  /-- LDFE (R87): Loads a full scratchpad word and empties it. -/
  | ldfe (f : MemForm)
  /-- LDFE_LIT (R87): LDFE with a literal displacement. -/
  | ldfeLit (f : MemLit)
  /-- STF (R87): Stores to a scratchpad word and sets its full bit. -/
  | stf (f : StForm)
  /-- STF_LIT (R87): STF with a literal displacement. -/
  | stfLit (f : StLit)
  /-- FECLR (R88): Empties the full bits of a scratchpad word range in one owner-port arrival. -/
  | feclr (f : Rba)
  /-- MPROBE (R129): Looks up a key at its bucket home and returns its value or 0. -/
  | mprobe (f : MapForm)
  /-- MINSERT (R130): Places a key that is not yet present. -/
  | minsert (f : MapForm)
  /-- MUPSERT (R131): Combines an operand into a key's value, or places the key. -/
  | mupsert (f : MapOpForm)
  /-- MREMOVE (R132): Removes a key and returns its old value. -/
  | mremove (f : MapForm)
  /-- MCAS (R133): Replaces a key's value only if it equals an expected value. -/
  | mcas (f : MapForm)
  /-- MPROBEV (R135): Probes one key per lane below VL. -/
  | mprobev (f : MapForm)
  /-- MUPSERTV (R136): Upserts one key per lane, combining duplicate keys in lane order. -/
  | mupsertv (f : MapOpForm)
  /-- MROWGET (R138): Copies a key's row into the scratchpad in one arrival. -/
  | mrowget (f : MapForm)
  /-- MROWPUT (R139): Replaces a key's row, or places the key with it, as one tile access. -/
  | mrowput (f : MapForm)
  /-- MSCAN (R140): Copies the entries of one primary bucket's chain into the scratchpad. -/
  | mscan (f : MapForm)
  /-- MSTAT (R141): Reads descriptor level and split state or an arena header. -/
  | mstat (f : MapForm)
  /-- MREPL (R142): Marks or withdraws a key as hot for row replication. -/
  | mrepl (f : MapForm)
  /-- VADD (R199): Adds lanes of Va and Vb. -/
  | vadd (f : VForm)
  /-- VSUB (R199): Subtracts lanes. -/
  | vsub (f : VForm)
  /-- VMUL (R199): Multiplies lanes. -/
  | vmul (f : VForm)
  /-- VFMA (R199): Fused multiply-add into Vd. -/
  | vfma (f : VForm)
  /-- VFMS (R199): Fused multiply-subtract of Vd. -/
  | vfms (f : VForm)
  /-- VFNMA (R199): Fused negated multiply-add into Vd. -/
  | vfnma (f : VForm)
  /-- VDIV (R200): Divides lanes. -/
  | vdiv (f : VForm)
  /-- VMIN (R200): Lane minimum. -/
  | vmin (f : VForm)
  /-- VMAX (R200): Lane maximum. -/
  | vmax (f : VForm)
  /-- VAND (R203): Bitwise AND of whole lanes. -/
  | vand (f : VBin)
  /-- VOR (R203): Bitwise OR of whole lanes. -/
  | vor (f : VBin)
  /-- VXOR (R203): Bitwise XOR of whole lanes. -/
  | vxor (f : VBin)
  /-- VSHL (R203): Shifts 32- or 16-bit lanes left. -/
  | vshl (f : VShForm)
  /-- VSHR (R203): Shifts lanes right with zero fill. -/
  | vshr (f : VShForm)
  /-- VSAR (R203): Shifts lanes right with sign fill. -/
  | vsar (f : VShForm)
  /-- VCMP (R204): Compares lanes and writes one predicate bit per active lane. -/
  | vcmp (f : VcmpForm)
  /-- VSEL (R205): Selects each lane from Va or Vb by predicate Pc. -/
  | vsel (f : VselForm)
  /-- VPERM (R206): Permutes lanes of Va by indices in Vb. -/
  | vperm (f : VBin)
  /-- VEXT (R206): Extracts lane X[b] of Va into X[d]. -/
  | vext (f : R3)
  /-- VINS (R206): Inserts X[a][31:0] into lane X[b] of Vd. -/
  | vins (f : R3)
  /-- VDOT4_I8 (R206): Accumulates signed 4-byte dot products per lane. -/
  | vdot4I8 (f : VBin)
  /-- VDOT4_N8 (R206): Accumulates unsigned 4-byte dot products per lane. -/
  | vdot4N8 (f : VBin)
  /-- VMOV (R201): Copies lanes of Va, or a port, into Vd. -/
  | vmov (f : VUn0)
  /-- VABS (R201): Absolute value per lane. -/
  | vabs (f : VUn)
  /-- VNEG (R201): Negation per lane. -/
  | vneg (f : VUn)
  /-- VSQRT (R201): Square root per lane. -/
  | vsqrt (f : VUn)
  /-- VRCP (R201): Reciprocal per lane. -/
  | vrcp (f : VUn)
  /-- VRSQ (R201): Reciprocal square root per lane. -/
  | vrsq (f : VUn)
  /-- VEXP2 (R201): Base-2 exponential per lane. -/
  | vexp2 (f : VUn)
  /-- VLOG2 (R201): Base-2 logarithm per lane. -/
  | vlog2 (f : VUn)
  /-- VBCAST (R201): Broadcasts X[a][31:0] or a port value to every active lane. -/
  | vbcast (f : VUn0)
  /-- VIOTA (R201): Writes each active lane's index. -/
  | viota (f : Rd)
  /-- VCOMP (R207): Packs lanes selected by Pc into the low lanes of Vd. -/
  | vcomp (f : VcompForm)
  /-- VLEN (R202): Sets SR.VL from X[a] and writes the clamped count to X[d]. -/
  | vlen (f : R2)
  /-- VMOV_Q (R194): Pushes lanes 0 and 1 of Va into queue Q4–Q7. -/
  | vmovQ (f : VmovqForm)
  /-- VRED (R208): Reduces active lanes by a fixed pairwise tree into lane 0. -/
  | vred (f : VredForm)
  /-- VSCAN (R209): Forms an inclusive prefix ADD, MIN or MAX over active lanes. -/
  | vscan (f : VscanForm)
  /-- VLD (R211): Loads 64 lanes from global memory or the own scratchpad, decoding through the window. -/
  | vld (f : DispForm)
  /-- VLD_LIT (R211): VLD with a literal byte displacement. -/
  | vldLit (f : R2Lit)
  /-- VST (R211): Stores 64 lanes, encoding through the window. -/
  | vst (f : DispForm)
  /-- VST_LIT (R211): VST with a literal byte displacement. -/
  | vstLit (f : R2Lit)
  /-- VLDS (R211): Loads lanes at a signed element stride. -/
  | vlds (f : R3)
  /-- VSTS (R211): Stores lanes at a signed element stride. -/
  | vsts (f : R3)
  /-- VLDX (R211): Gathers lanes from the own scratchpad by element indices. -/
  | vldx (f : R3)
  /-- VSTX (R211): Scatters lanes to the own scratchpad by element indices. -/
  | vstx (f : R3)
  /-- TBLLD (R185): Loads the 256-entry T8 decode table from 1 KiB of scratchpad. -/
  | tblld (f : Ra)
  /-- WINSET (R186): Binds or unbinds a window to a format descriptor. -/
  | winset (f : Rba)
  /-- VCVT (R181): Converts each active lane between formats. -/
  | vcvt (f : CvtForm)
  /-- VDEC (R182): Decodes one part of a packed image into F32 lanes. -/
  | vdec (f : UnpackForm)
  /-- VENC (R182): Encodes F32 lanes into one part of a packed image. -/
  | venc (f : PackForm)
  /-- VQNT (R183): Quantises F32 lanes into packed codes with block scales or row parameters. -/
  | vqnt (f : QuantForm)
  /-- VDQNT (R184): Dequantises packed codes into F32 lanes. -/
  | vdqnt (f : UnpackForm)
  /-- MMA (R234): Adds the product of a scratchpad A tile and the latch B tile into a tile register with one rounding. -/
  | mma (f : MmaForm)
  /-- MMAT (R235): Adds the product of tile Ta and the latch B tile into Td. -/
  | mmat (f : MmatForm)
  /-- TZERO (R236): Zeroes a tile register and resets its scale pair. -/
  | tzero (f : TForm)
  /-- TLD (R223): Loads a 32x32 tile into a tile register. -/
  | tld (f : TileForm)
  /-- TLD_T (R223): Loads a tile transposed. -/
  | tldT (f : TileForm)
  /-- TST (R224): Stores a tile register, or copies a raw local tile, to memory or another scratchpad. -/
  | tst (f : TileForm)
  /-- TSTN (R224): Stores a tile scaled by its tensor scales and rounded into the target format. -/
  | tstn (f : TileForm)
  /-- TROW (R237): Moves two tile rows to or from a V register. -/
  | trow (f : TileForm)
  /-- CLLD (R230): Loads the CUR slot of the operand latch from the scratchpad. -/
  | clld (f : Ra)
  /-- CLROT (R231): Waits for ring credit and sends a copy of CUR to the successor's INC. -/
  | clrot (f : G0)
  /-- CLWAIT (R232): Waits for an arrived tile, moves it into CUR and returns the credit. -/
  | clwait (f : G0)
  /-- PGBOUND (R241): Writes per-page upper bounds of query scores from key-page summaries. -/
  | pgbound (f : Rba)
  /-- PGPICK (R242): Selects pages by threshold or top-k and writes a selection list. -/
  | pgpick (f : Rba)
  /-- PGSUM (R239): Rebuilds page summaries from the page data. -/
  | pgsum (f : Ra)
  /-- PGCLR (R239): Sets page summaries to the empty state. -/
  | pgclr (f : Ra)
  /-- DQPUSH (R294): Pushes a WID range onto the own deque. -/
  | dqpush (f : R3)
  /-- DQPOP (R295): Pops the newest deque range if its template matches the task's. -/
  | dqpop (f : Rd)
  /-- DQSPLIT (R296): Splits a range and pushes its upper half. -/
  | dqsplit (f : R2)
  /-- DQSTEAL (R297): Sends one steal request to a victim core and stalls for the answer. -/
  | dqsteal (f : R2)
  /-- DONE (R298): Ends the task after draining the vector stream and map replies. -/
  | done (f : G0)
  /-- IDEM (R299): Opens an idempotent region recording the restart point and X8-X15. -/
  | idem (f : G0)
  /-- IDEM_END (R299): Closes the idempotent region. -/
  | idemEnd (f : G0)
  /-- HSET (R300): Writes a handler table entry in supervisor mode. -/
  | hset (f : Rba)
  /-- HMASK (R300): Sets the MASK bits of selected handler entries and returns the old masks. -/
  | hmask (f : R3)
  /-- LAUNCH (R301): Sends a one-WID range to a core's deque and stalls for the answer. -/
  | launch (f : R2)
  /-- LAUNCH_H (R302): Reads a launch header and sends its parts to the target cores in order. -/
  | launchH (f : R2)
  /-- BARV (R303): Releases at the record's scope and arrives at a barrier record. -/
  | barv (f : R3)
  /-- BARW (R304): Parks at a barrier record until its phase changes, then acquires. -/
  | barw (f : R3)
  /-- FENCE_ACQ (R255): Acquires at the given scope. -/
  | fenceAcq (f : FenceForm)
  /-- FENCE_REL (R255): Waits for the release conditions of the scope. -/
  | fenceRel (f : FenceForm)
  /-- FENCE_FULL (R255): Releases and then acquires at the scope. -/
  | fenceFull (f : FenceForm)
  /-- FENCE_M (R255): Releases, holds later map requests until then, and acquires. -/
  | fenceM (f : FenceForm)
  /-- RFENCE (R256): Waits until SR.UNACK reads 0. -/
  | rfence (f : G0)
  /-- TRAP (R326): Raises SOFT exactly with the given code. -/
  | trap (f : TrapForm)
  /-- RTT (R327): Leaves a trap handler, resuming, skipping or ending the task. -/
  | rtt (f : G0)
  /-- SRD (R325): Reads a system register into X[d]. -/
  | srd (f : SrdForm)
  /-- SWR (R325): Writes X[a] to a system register by its access rules. -/
  | swr (f : SwrForm)
  /-- TLBINV (R328): Invalidates matching TLB entries at a scope and waits for completion. -/
  | tlbinv (f : TlbForm)
  /-- WAIT (R329): Stalls the scalar stream for X[a] core cycles. -/
  | wait (f : Ra)
  /-- C_ADD (R21): Compact ADD Xf1, Xf1, Xf2. -/
  | cAdd (f : C2)
  /-- C_SUB (R21): Compact SUB Xf1, Xf1, Xf2. -/
  | cSub (f : C2)
  /-- C_AND (R21): Compact AND. -/
  | cAnd (f : C2)
  /-- C_OR (R21): Compact OR. -/
  | cOr (f : C2)
  /-- C_XOR (R21): Compact XOR. -/
  | cXor (f : C2)
  /-- C_MOV (R21): Compact OR Xf1, Xf2, X0 copying a register. -/
  | cMov (f : C2)
  /-- C_ADDI (R21): Compact ADDI Xf1, Xf1, s5. -/
  | cAddi (f : CImm)
  /-- C_ADDI_X0 (R21): Compact ADDI Xf1, X0, s5. -/
  | cAddiX0 (f : CImm)
  /-- C_SHLI (R21): Compact SHLI. -/
  | cShli (f : CImm)
  /-- C_SHRI (R21): Compact SHRI. -/
  | cShri (f : CImm)
  /-- C_SARI (R21): Compact SARI. -/
  | cSari (f : CImm)
  /-- C_ANDI (R21): Compact ANDI. -/
  | cAndi (f : CImm)
  /-- C_LD_D_X2 (R21): Compact LD.D from X2 plus scaled displacement. -/
  | cLdDX2 (f : CImm)
  /-- C_ST_D_X2 (R21): Compact ST.D to X2 plus scaled displacement. -/
  | cStDX2 (f : CImm)
  /-- C_LD_W_X2 (R21): Compact LD.W from X2 plus scaled displacement. -/
  | cLdWX2 (f : CImm)
  /-- C_ST_W_X2 (R21): Compact ST.W to X2 plus scaled displacement. -/
  | cStWX2 (f : CImm)
  /-- C_LD_W (R21): Compact LD.W from [Xf2]. -/
  | cLdW (f : C2)
  /-- C_ST_W (R21): Compact ST.W to [Xf2]. -/
  | cStW (f : C2)
  /-- C_LD_D (R21): Compact LD.D from [Xf2]. -/
  | cLdD (f : C2)
  /-- C_ST_D (R21): Compact ST.D to [Xf2]. -/
  | cStD (f : C2)
  /-- C_BR_EQ (R21): Compact BR.EQ with a 5-bit offset. -/
  | cBrEq (f : CImm)
  /-- C_BR_NE (R21): Compact BR.NE with a 5-bit offset. -/
  | cBrNe (f : CImm)
  /-- C_MUL (R21): Compact MUL. -/
  | cMul (f : C2)
  /-- C_CMP_EQ (R21): Compact CMP.EQ writing Pf1 from Xf1 and Xf2. -/
  | cCmpEq (f : C2)
  /-- C_JR (R21): Compact JR. -/
  | cJr (f : C1)
  /-- C_JLR (R21): Compact JLR X1, Xf1. -/
  | cJlr (f : C1)
  /-- C_SRD (R21): Compact SRD for registers 0-31. -/
  | cSrd (f : CImm)
  /-- C_DONE (R21): Compact DONE. -/
  | cDone
  /-- C_RFENCE (R21): Compact RFENCE. -/
  | cRfence
  /-- C_TRAP (R21): Compact TRAP for codes 0-31. -/
  | cTrap (f : CZ)
  /-- NOP (R21): Compact NOP, equal to ADDI X0, X0, 0. -/
  | nop
  /-- REGISTRATION_REQUEST (R91): A home receives a word registration, recalls other registrants and records the new one. -/
  | registrationRequest (k : Nat)
  /-- REGISTRATION_GRANT (R91): An L1 receives a grant, merges unwritten bytes, sets REG and DRT and records LV. -/
  | registrationGrant (k : Nat)
  /-- LOAD_MISS_REQUEST (R92): A home receives a sector request from a missing L1 load and gathers each word's current value. -/
  | loadMissRequest (k : Nat)
  /-- FILTER_SWAP (R35): The 65,536th counted miss clears the inactive filter and makes it active. -/
  | filterSwap (k : Nat)
  /-- FORWARD_REQUEST (R92): A registrant L1 answers a home's forward with the word's value, keeping its registration. -/
  | forwardRequest (k : Nat)
  /-- FORWARD_ANSWER (R92): A home receives a forwarded word value for a pending sector reply. -/
  | forwardAnswer (k : Nat)
  /-- SECTOR_FILL (R92): An L1 installs the sectors returned by the home with SV set and resumes the load. -/
  | sectorFill (k : Nat)
  /-- RECALL (R93): A registrant L1 answers a recall with the word's value, from its line or a pending writeback, and clears REG and DRT. -/
  | recall (k : Nat)
  /-- RECALL_ANSWER (R93): A home records a recalled value, makes the word home-current and increments the line version. -/
  | recallAnswer (k : Nat)
  /-- WRITEBACK (R95): A home applies or rejects an arriving writeback by comparing its LV with V and acknowledges it. -/
  | writeback (k : Nat)
  /-- RESEND_REQUEST (R95): A writer receives a request to resend still-registered words of a stale writeback. -/
  | resendRequest (k : Nat)
  /-- WRITEBACK_ACK (R94): An L1 receives the home's acknowledgement and frees the writeback buffer. -/
  | writebackAck (k : Nat)
  /-- AMO_AT_HOME (R106): A home performs an atomic, CAS or CAS2 under the line lock after recalling the word. -/
  | amoAtHome (k : Nat)
  /-- TILE_ACCESS_AT_HOME (R226): A global tile access takes its line locks in ascending address order, reads or writes, and releases them. -/
  | tileAccessAtHome (k : Nat)
  /-- PAGE_WALK (R320): A home-slice walker walks the page tables for a die TLB miss, coalescing concurrent walks. -/
  | pageWalk (k : Nat)
  /-- TLB_FILL (R320): A walk result is installed in the die and core TLBs and the waiting access proceeds or traps. -/
  | tlbFill (k : Nat)
  /-- CONTROLLER_SELECT (R38): An HBM controller chooses its next request by deadline and performs the access. -/
  | controllerSelect (ctl i : Nat)
  /-- REQUEST_PROMOTION (R38): A normal request that has waited 8,192 controller cycles is promoted to the deadline class with slack 0. -/
  | requestPromotion (ctl i : Nat)
  /-- PATROL_SCRUB (R42): A patrol scrub that finds an uncorrectable granule poisons it and raises a machine check. -/
  | patrolScrub (granule : Nat)
  /-- HOST_SNOOP_OWNERSHIP (R97): A host ownership snoop recalls the sector's registrations, writes it back and moves it to I. -/
  | hostSnoopOwnership (pa : Nat)
  /-- HOST_SNOOP_SHARING (R97): A host sharing snoop of an M or O sector writes it back and moves it to S. -/
  | hostSnoopSharing (pa : Nat)
  /-- CXL_EXCHANGE_COMPLETE (R97): A CXL.cache read or ownership exchange completes and the waiting device access proceeds. -/
  | cxlExchangeComplete (k : Nat) (excl poisoned : Bool) (data : List Byte)
  /-- HOST_CXL_MEM_ACCESS (R99): A host CXL.mem access to a device-bias page is served at the line's home as a core access. -/
  | hostCxlMemAccess (write : Bool) (pa len : Nat) (data : List Byte)
  /-- FLIP_MARKER (R100): A home takes a page's lines out of service on the arrival of its bias-flip marker. -/
  | flipMarker (k : Nat)
  /-- BIAS_FLIP_COMPLETE (R100): Once cleaning and host snoops end, the flip releases at SYSTEM scope, changes the bias bit and resumes waiting accesses. -/
  | biasFlipComplete (page : Nat)
  /-- TRANSFER_PIECE (R70): A Porter or link agent serves one piece of a transfer coherently under its line lock. -/
  | transferPiece (x piece : Nat) (data : List Byte)
  /-- OWNER_PORT_PIECE (R86): A memory port writes or reads a transfer piece in its scratchpad, setting full bits when requested. -/
  | ownerPortPiece (k : Nat)
  /-- TRANSFER_COMPLETION (R75): When every source and destination byte is done, a transfer updates SR.OOBCNT and lets SR.CDONE advance. -/
  | transferCompletion (x : Nat)
  /-- BARRIER_DECREMENT (R75): A transfer's byte count is subtracted from a barrier record's AWAIT, followed by the completion check. -/
  | barrierDecrement (k : Nat)
  /-- SLOT_RETURN (R83): A slot return raises the matching multicast counters of the receiving core, saturating at CRED. -/
  | slotReturn (k : Nat)
  /-- ROUND_CHUNK_FINAL (R339): A reduction chunk becomes final at the root of the group tree and is written at every member's FAR. -/
  | roundChunkFinal (group chunk : Nat) (remote : List (Nat × List Byte))
  /-- PEER_PORT_FAILURE (R340): A Hololel port fails; routes are rebuilt and unfinished chunks and pieces are replayed. -/
  | peerPortFailure (port : Nat) (reach : List Nat)
  /-- MEMBER_UNREACHABLE (R340): After 10 ms with a remote member unreachable the round fails, members end with XFER and DOWN is set. -/
  | memberUnreachable (group : Nat)
  /-- REMOTE_LOAD_ARRIVAL (R158): An owner port checks and performs an RLD and replies. -/
  | remoteLoadArrival (k : Nat)
  /-- REMOTE_STORE_ARRIVAL (R152): An owner port checks and performs or refuses a posted RST and returns an acknowledgement or refusal. -/
  | remoteStoreArrival (k : Nat)
  /-- REMOTE_ATOMIC_ARRIVAL (R158): An owner port performs a RAMO as one arrival and returns the old value. -/
  | remoteAtomicArrival (k : Nat)
  /-- REMOTE_TILE_STORE_ARRIVAL (R225): An owner port converts and writes a whole remote tile, or refuses it. -/
  | remoteTileStoreArrival (k : Nat)
  /-- REMOTE_TILE_LOAD_ARRIVAL (R223): An owner port reads a tile for a remote TLD as one arrival and replies. -/
  | remoteTileLoadArrival (k : Nat)
  /-- FULL_EMPTY_ARRIVAL (R87): An owner port performs or parks an LDF or LDFE, or performs an STF and serves waiters. -/
  | fullEmptyArrival (k : Nat)
  /-- FECLR_ARRIVAL (R88): An owner port empties a range of full bits as one arrival. -/
  | feclrArrival (k : Nat)
  /-- REMOTE_REPLY (R248): A reply to an RLD, RAMO, remote LDF, LDFE or STF or remote TLD reaches the issuer and ends its stall. -/
  | remoteReply (k : Nat)
  /-- POSTED_ACK (R153): An acknowledgement frees a Waybill entry and decrements SR.UNACK. -/
  | postedAck (k : Nat)
  /-- POSTED_REFUSAL (R153): A refusal marks the Waybill entry refused, makes WAYBILL or MBOXREF pending and decrements SR.UNACK. -/
  | postedRefusal (k : Nat)
  /-- BARRIER_UPDATE (R303): A BARV update arrives at the record, adds its bytes and arrival and runs the completion check. -/
  | barrierUpdate (k : Nat)
  /-- BARRIER_PARK (R304): A BARW arrives at a record and either returns at once or parks until the phase changes. -/
  | barrierPark (k : Nat)
  /-- MESSAGE_ARRIVAL (R160): A target accepts a whole message into a handler FIFO or carried-code queue, or refuses it. -/
  | messageArrival (k : Nat)
  /-- MESSAGE_STATUS (R161): The acceptance status of a SENDW or SENDC reaches the sender and ends its stall. -/
  | messageStatus (k : Nat)
  /-- MXCMD_ARRIVAL (R166): A target checks a matrix command and queues it or returns a status. -/
  | mxcmdArrival (k : Nat)
  /-- MXCMD_EXECUTE (R166): A queued matrix command executes in the target's vector/matrix stream and writes its completion word. -/
  | mxcmdExecute (c : Nat)
  /-- MXCMD_STATUS (R166): The status of an MXCMD reaches the issuer and ends its stall. -/
  | mxcmdStatus (k : Nat)
  /-- TSWAP_ARRIVAL (R164): A mirror's paired TSWAP offset arrives, and each side reads its tile and sends it. -/
  | tswapArrival (k : Nat)
  /-- TSWAP_TILE_ARRIVAL (R164): An arriving swapped tile is written at its owner's offset, completing the TSWAP when both writes are done. -/
  | tswapTileArrival (k : Nat)
  /-- LATCH_ARRIVAL (R231): A rotated B tile arrives at the successor's INC, or is dropped with the credit returned. -/
  | latchArrival (k : Nat)
  /-- RING_CREDIT (R232): A returned ring credit sets the sender's CR to 1. -/
  | ringCredit (k : Nat)
  /-- BULK_DEADLOCK_PROBE (R150): A bulk input buffer whose head has not moved for 4,096 router cycles sends a probe. -/
  | bulkDeadlockProbe (router : Nat)
  /-- DEADLOCK_RECOVERY (R150): A probe that returns to its origin makes the cycle's routers move every head packet one hop in one step. -/
  | deadlockRecovery (ring : List Nat)
  /-- FLIT_REPLAY (R369): A flit failing its CRC is replayed from the sender's buffer. -/
  | flitReplay (link : Nat) (again : Bool)
  /-- LINK_RETRAIN (R369): After 16 consecutive replays a link is retrained, with a machine check if it fails. -/
  | linkRetrain (link : Nat) (ok : Bool)
  /-- MAP_REQUEST_ARRIVAL (R122): A map request at a primary bucket queues behind LOCK, forwards by local level, or executes. -/
  | mapRequestArrival (k : Nat)
  /-- MAP_QUEUED_EXECUTE (R122): A request queued behind a bucket's LOCK is forwarded or executed once the lock clears. -/
  | mapQueuedExecute (k : Nat)
  /-- MAP_REPLY (R127): A map reply writes registers, predicate and SR.MST and drops the cached descriptor on a hop. -/
  | mapReply (k : Nat)
  /-- ARENA_ALLOCATE (R117): An arena header's home allocates an overflow bucket or row from the free list or NEXT. -/
  | arenaAllocate (k : Nat)
  /-- ARENA_FREE (R117): An arena header's home zeroes a bucket or row and links it onto the free list. -/
  | arenaFree (k : Nat)
  /-- GROWTH_REQUEST (R121): The descriptor home claims or discards a growth request and commands the split of bucket S. -/
  | growthRequest (k : Nat)
  /-- SPLIT_COMMAND (R121): The home of bucket S receives the split command. -/
  | splitCommand (k : Nat)
  /-- SPLIT_LOCK (R121): Once no operation executes on bucket S, its home sets LOCK and SPLITTING and reserves overflow buckets. -/
  | splitLock (g : Nat)
  /-- SPLIT_CREATE (R121): The new bucket is written empty and locked and matching entries are moved, then the old chain is tidied and both reopened. -/
  | splitCreate (g : Nat)
  /-- SPLIT_REPORT (R121): The descriptor home advances S and L on done, or clears SPLIT on declined. -/
  | splitReport (k : Nat)
  /-- REPLICA_FILL (R143): A replica slice stores a row as filling and answers filled v. -/
  | replicaFill (k : Nat)
  /-- FILLED_REPLY (R143): The home confirms a replica if the key's version is still v, or refuses it and starts a new fill. -/
  | filledReply (k : Nat)
  /-- REPLICA_INVALIDATE (R143): A replica slice discards its copy of a key and acknowledges. -/
  | replicaInvalidate (k : Nat)
  /-- INVALIDATE_ACK (R143): An invalidation acknowledgement reaches the home; the last one lets the waiting update proceed. -/
  | invalidateAck (k : Nat)
  /-- REPLICA_READ (R144): An MROWGET visits its die's replica slice and is served there or continues to the bucket home. -/
  | replicaRead (k : Nat)
  /-- TASK_SELECT (R282): The scheduler selects a runnable entry by class, priority and recency, or resumes a suspended LO task. -/
  | taskSelect (c : Nat)
  /-- HI_SUSPEND (R283): A HI entry becoming runnable suspends the running LO task at its next boundary and fires. -/
  | hiSuspend (c : Nat)
  /-- STEAL_ROUND (R289): An idle core with no runnable entry sends steal requests to its victims in order. -/
  | stealRound (c : Nat)
  /-- STEAL_BACKOFF_EXPIRY (R289): 2,048 cycles after a failed round the core may start a new steal round. -/
  | stealBackoffExpiry (c : Nat)
  /-- STEAL_REQUEST (R287): A victim's deque unit answers a steal with an entry, a split half or a refusal. -/
  | stealRequest (k : Nat)
  /-- STEAL_ANSWER (R287): A thief pushes a stolen range into its held deque entry or frees the entry. -/
  | stealAnswer (k : Nat)
  /-- LAUNCH_ARRIVAL (R301): A target's deque unit pushes a launched range or answers full, invalid or context. -/
  | launchArrival (k : Nat)
  /-- LAUNCH_ANSWER (R301): A launch answer reaches the launching core. -/
  | launchAnswer (k : Nat)
  /-- LAUNCH_PART_RETRY (R302): A LAUNCH.H part answered full is sent again after 256 cycles. -/
  | launchPartRetry (c : Nat)
  /-- PENDING_TRAP_DELIVERY (R309): The oldest pending asynchronous trap is taken at the next scalar boundary when no handler runs. -/
  | pendingTrapDelivery (c : Nat)
  /-- TASKLESS_TRAP_DELIVERY (R310): A core holding no task delivers a pending trap in a fresh LO bank with TASKLESS set. -/
  | tasklessTrapDelivery (c : Nat)
  /-- SERVICE_CALL (R311): A pending runtime call is taken in supervisor mode on a core holding no task of the context. -/
  | serviceCall (c : Nat)
  /-- WATCHDOG_EXPIRY (R313): A task's cycle count reaching LIMIT raises WDOG at the next boundary, resolving waits. -/
  | watchdogExpiry (c : Nat)
  /-- WAIT_EXPIRY (R329): A WAIT ends when SR.CYC has advanced by its count. -/
  | waitExpiry (c : Nat)
  /-- MACHINE_CHECK (R305): A management core receives a machine check, logs it and marks the affected context failed where required. -/
  | machineCheck (i : Nat)
  /-- CONTEXT_STOP (R305): A stop for a failed context reaches a core, which then takes no instruction of it and refuses its arrivals. -/
  | contextStop (k : Nat)
  /-- QUIESCE (R315): A core of a context being pre-empted finishes its tasks and transfers and performs RFENCE and a SYSTEM release. -/
  | quiesce (c : Nat)
  /-- IDEM_ABORT (R316): In an urgent pre-emption a LO task in an idempotent region is aborted and its abort record written. -/
  | idemAbort (c : Nat)
  /-- SAVE_COPY (R317): Once every core is quiescent each core's state is copied to its save area and saved is reported. -/
  | saveCopy (ctx : Nat)
  /-- LAUNCH_WINDOW_GO (R332): A host write to GO captures ARG0 and ARG1 and queues a launch, or drops it with code 6. -/
  | launchWindowGo (n : Nat) (arg0 arg1 go : W)
  /-- LAUNCH_WINDOW_PERFORM (R332): A queued launch-window launch is performed as LAUNCH and its result written to STATUS. -/
  | launchWindowPerform (n : Nat)
  /-- CTXCREATE (R335): Creates a context with its ASID, page-table root, descriptor table and save areas. -/
  | ctxcreate (h : CmdHead) (ptroot dtab : Nat) (areas : List (Nat × Nat))
  /-- CTXDESTROY (R335): Destroys a saved, failed or unrun context, releasing its slots, ASID and peer table. -/
  | ctxdestroy (h : CmdHead) (ctx : Nat)
  /-- CODELOAD (R335): Copies a code image into instruction memory of a rectangle of cores. -/
  | codeload (h : CmdHead) (ctx : Nat) (r : Rect) (dst : Nat) (image : Param HW)
  /-- RUNTIMELOAD (R342): Loads the doubly signed supervisor runtime and sets SR.TVEC. -/
  | runtimeload (h : CmdHead) (ctx : Nat) (r : Rect) (dst tvec : Nat) (image : Param HW) (digest : Nat) (ecdsaOk lmsOk : Bool)
  /-- DESCSET (R335): Writes an empty descriptor slot with its generation and returns the handle, initialising map arena headers. -/
  | descset (h : CmdHead) (ctx slot : Nat) (desc : Param Byte)
  /-- DESCRELEASE (R58): Releases a slot by advancing its generation and waiting for old operations and caches. -/
  | descrelease (h : CmdHead) (ctx slot : Nat)
  /-- PREEMPT (R315): Starts an orderly or urgent pre-emption of a context and completes at saved. -/
  | preempt (h : CmdHead) (ctx : Nat) (urgent : Bool) (areas : List (Nat × Nat))
  /-- RESTORE (R318): Restores a context on a named core set from its save areas. -/
  | restore (h : CmdHead) (ctx : Nat) (cores : List (Nat × Nat))
  /-- BIASFLIP (R100): Flips the bias of a 512 KiB HBM page by sending flip markers and cleaning. -/
  | biasflip (h : CmdHead) (page : Nat) (toHost : Bool)
  /-- GROUPSET (R341): Writes a reduction group entry on all dies and resets its round counts. -/
  | groupset (h : CmdHead) (group : Nat) (valid : Bool) (slack : Nat) (members : List Nat)
  /-- PEERBIND (R336): Writes a context's peer table entry. -/
  | peerbind (h : CmdHead) (ctx dev fabric peerCtx : Nat) (valid : Bool)
  /-- MONREAD (R365): Copies snapshots of monitor blocks to host memory. -/
  | monread (h : CmdHead) (units : List Nat) (dst : Nat)
  /-- HOSTTIER (R45): Sets the host-tier base and size while no context exists. -/
  | hosttier (h : CmdHead) (base size : Nat)
  /-- PATCHLOAD (R342): Installs a doubly signed firmware patch with a higher version. -/
  | patchload (h : CmdHead) (version digest : Nat) (ecdsaOk lmsOk : Bool)
  /-- EVENTS (R335): Copies and clears the event log. -/
  | events (h : CmdHead) (dst : Nat)
  /-- RUNTIMECALL (R311): Delivers a service call with two argument words to a core of a context. -/
  | runtimecall (h : CmdHead) (ctx core : Nat) (a0 a1 : W)
  /-- GET_VERSION (R343): SPDM request returning the supported versions. -/
  | getVersion
  /-- GET_CAPABILITIES (R343): SPDM request returning the device capabilities. -/
  | getCapabilities
  /-- NEGOTIATE_ALGORITHMS (R343): SPDM request selecting SHA-384 and ECDSA P-384. -/
  | negotiateAlgorithms (sha384 p384 : Bool)
  /-- GET_DIGESTS (R343): SPDM request returning certificate chain digests. -/
  | getDigests
  /-- GET_CERTIFICATE (R343): SPDM request returning the identity certificate chain. -/
  | getCertificate (off len : Nat)
  /-- CHALLENGE (R343): SPDM challenge answered with ECDSA and LMS signatures while LMS signatures remain. -/
  | challenge (nonce : Nat)
  /-- GET_MEASUREMENTS (R343): SPDM request returning ROM, patch, runtime and version measurements. -/
  | getMeasurements (index : Nat) (signed : Bool)
  /-- POWER_TICK (R366): Every 10 us the power manager estimates input power and steps one die clock down or up. -/
  | powerTick (total : Nat) (dies : List Nat)
  /-- POWER_LIMIT_TIMEOUT (R367): Power above 2,800 W for 1 ms at minimum clocks raises machine checks and ends service. -/
  | powerLimitTimeout
  /-- JUNCTION_OVERTEMP (R367): A junction reaching 115 C raises machine checks and ends service. -/
  | junctionOvertemp (die : Nat)
  /-- PARITY_ERROR (R369): A parity error in architectural state raises a machine check and fails the running context. -/
  | parityError (c : Nat)
  /-- COLD_RESET (R368): Runs ROM, built-in test, HBM zeroing, training and register reset, clearing RWS fields. -/
  | coldReset (patchOk : Bool)
  /-- WARM_RESET (R368): Resets while keeping HBM contents, poison, bias and RWS fields. -/
  | warmReset (patchOk : Bool)
  /-- SR_MCR_WRITE (R82): A write of SR.MCR sets four receiver entries and resets their slot counters to CRED or 0. -/
  | srMcrWrite (c k : Nat) (v : W)
  /-- WAYBILL_FREE (R155): A supervisor ST.D to a refused Waybill entry's offset 56 frees the entry. -/
  | waybillFree (c n : Nat)
  /-- SR_PEND_LOST_CLEAR (R309): Writing 1 to SR.PEND.LOST clears it. -/
  | srPendLostClear (c : Nat) (v : W)
  /-- SR_VL_WRITE (R196): A write of SR.VL stores the field clamped to 1-64. -/
  | srVlWrite (c : Nat) (v : W)
  /-- SR_RMODE_WRITE (R172): A write of SR.RMODE stores 0 for values 5-7 and governs all later instructions. -/
  | srRmodeWrite (c : Nat) (v : W)
  /-- SR_DTAB_WRITE (R54): A write of SR.DTAB stores LOG2N clamped to 20. -/
  | srDtabWrite (c : Nat) (v : W)
  /-- SR_BUDGET_WRITE (R313): A supervisor write of SR.BUDGET.LIMIT takes effect at once against the running count. -/
  | srBudgetWrite (c : Nat) (v : W)
  /-- MONITOR_COUNT_CLEAR (R362): A write to a monitor block's COUNT clears COUNT, SUM and histogram and resets MIN and MAX. -/
  | monitorCountClear (u m : Nat)
  /-- REGISTER_WRITE (R325): A write to any other register stores its RW fields and ignores RO and reserved ones. -/
  | registerWrite (c n : Nat) (v : W)
  /-- ILLEGAL_ENCODING (R30): Fetching a pattern that decodes to no instruction (compact op 0, an unassigned major, major 0x7F, or a halfword beyond index 0x7FFF) traps ILLEGAL exactly. -/
  | illegalEncoding (word : BitVec 32)
  deriving DecidableEq, Repr

end Sys2Proof
end

