-- ==== Sys2Proof/Config.lean ====
section
/-! DEFINITION. What the spec fixes for the part (sizes and capacities), who moves next, and the
values the spec leaves open: opaque constants without a body, of which nothing can be proved. -/

namespace Sys2Proof

/-- Who moves next. The order in which the device's agents act is not given by the spec (R3,
R147); the model takes each choice from `Config.schedule`. -/
inductive Turn where
  /-- Core `c` takes its next scalar-stream step. With `lag`, a vector/matrix instruction it passes
  waits in the queue of R191, and a load or a release store is put off where R245 or R252 lets later accesses go first;
  without it, they execute at once. -/
  | core (c : Nat) (lag : Bool)
  /-- The vector/matrix stream of core `c` executes the oldest instruction passed to it. -/
  | vector (c : Nat)
  /-- An agent of the device, or the outside, takes the step of this row. -/
  | event (e : Instr)
  /-- A put-off load or release store of core `c`'s HI or LO task is performed (R245, R252). -/
  | late (c : Nat) (hi : Bool) (i : Nat)
  /-- The packet at index `k` of the mesh reaches its endpoint and waits there (R149, R151, R358). -/
  | reach (k : Nat)
  /-- The host reads `n` bytes of BAR0 (R331). -/
  | barRead (off n : Nat)
  /-- The host writes bytes to BAR0; the starting write of a command slot is the row of its command (R331, R334). -/
  | barWrite (off : Nat) (bytes : List Byte)
  /-- A starting write with an OP that names no command (R334). -/
  | unknownCommand (h : CmdHead)
  /-- The oldest posted host write that waits is looked at again (R333). -/
  | posted
  /-- A member of a group on another device joins the group's oldest round that it has not joined (R341). -/
  | remoteJoin (group i len rop rty : Nat)
  /-- Step 6 of a reset completes (R368). -/
  | served
  /-- A soft error makes a 64-byte granule of HBM uncorrectable (R41, R42). -/
  | upsetMem (granule : Nat)
  /-- A soft error makes an 8-byte scratchpad word of core `c` uncorrectable (R152, R369). -/
  | upsetSpad (c word : Nat)
  /-- A soft error makes a sector's data in the SRAM of its home slice uncorrectable (R369). -/
  | upsetSlice (sector : Nat)
  /-- A soft error makes sector `k` of a line in core `c`'s L1 uncorrectable (R369). -/
  | upsetL1 (c line k : Nat)
  /-- A soft error of one bit is corrected in the SRAM of a home slice or in the HBM of a Porter, by monitor unit
  (R41, R364, R369). -/
  | corrected (unit : Nat)
  deriving DecidableEq, Repr, Inhabited

namespace Config

/-- Free value (assumption 2): who moves at tick `n`. -/
opaque schedule : Nat → Turn
/-- Free value (assumption 3): the cycles a core step takes, beyond one, at tick `n`. -/
opaque cycles : Nat → Nat
/-- Free value (assumption 4): a 64-bit value that the spec leaves open, fresh for each number. -/
opaque freeWord : Nat → W
/-- Free value (assumption 4): a choice that the spec leaves open, fresh for each number. -/
opaque freeBit : Nat → Bool
/-- Free value (assumption 5): the digest of the ROM (R343). -/
opaque romDigest : Nat
/-- The identity certificate chain (R342, R343), whose bytes the spec does not give. -/
opaque certChain : List Byte
/-- The signature bytes of an SPDM response over a transcript number (R343); `lms` chooses the
LMS signature. The keys are the part's own. -/
opaque signature : Bool → Nat → List Byte

/-- Free value (assumption 5): the digest of the identity certificate chain (R343). -/
opaque certDigest : Nat
/-- Free value (assumption 5): the SHA-384 digest of a transcript and the next message, by number (R343). -/
opaque absorb : Nat → Nat → Nat
/-- Free value (assumption 31): the bytes of an EVENTS log entry, from its kind and two numbers (R335). -/
opaque eventBytes : Nat → Nat → Nat → List Byte
/-- Free value (assumption 28): the device's own fabric ID (R336), which the spec does not give. -/
opaque fabricId : Nat

/-- Free value (assumption 30): the bank of its controller that a granule lies in (R38), which the spec does not give. -/
opaque bankOf : Nat → Nat

/-- Cores of the module (R1, R7). -/
def numCores : Nat := 1024
/-- Home slices, one per cluster (R1, R10). -/
def numSlices : Nat := 256
/-- Porters (R9). -/
def numPorters : Nat := 128
/-- Scratchpad bytes (R48). -/
def spadSize : Nat := 0x30000
/-- Instruction memory in halfwords (R15). -/
def imemHalfwords : Nat := 0x8000
/-- Lines of an L1 (R89): ways per set. -/
def l1Ways : Nat := 12
/-- Writeback buffers of an L1 (R94). -/
def wbufs : Nat := 16
/-- Registry entries of a slice (R90). -/
def registryLines : Nat := 8192
/-- Lines of 256 bytes that a 2 MiB slice holds (R1). -/
def sliceLines : Nat := 8192
/-- Counted misses between two filter swaps (R35). -/
def filterPeriod : Nat := 65536
/-- Waybill entries (R153). -/
def waybillSize : Nat := 64
/-- Pending traps held (R309). -/
def pendSize : Nat := 32
/-- Deque entries (R285). -/
def dequeSize : Nat := 64
/-- Inbox words of a core (R160). -/
def inboxWords : Nat := 1024
/-- Carried-code queue entries (R160). -/
def codeqSize : Nat := 4
/-- Matrix command queue entries (R166). -/
def mxqSize : Nat := 8
/-- Entries of a queue register (R194). -/
def queueSize : Nat := 16
/-- The vector/matrix instruction queue (R191). -/
def viqSize : Nat := 32
/-- Descriptor cache entries of a core (R111). -/
def dcacheSize : Nat := 32
/-- Core TLB and die TLB entries (R320). -/
def tlbSize : Nat := 256
/-- Die TLB entries (R320). -/
def dieTlbSize : Nat := 16384
/-- Outstanding transfers of a channel (R68). -/
def maxTransfers : Nat := 32
/-- Hot marks and replicas of a slice (R142, R143). -/
def hotMarks : Nat := 256
/-- Contexts at once (R335). -/
def maxContexts : Nat := 64
/-- Launches that wait in a launch window (R332). -/
def windowQueue : Nat := 8
/-- Power ticks of 10 µs above the limit that end service, 1 ms (R366, R367). -/
def hotTicks : Nat := 100
/-- Cycles between a failed steal round and the next (R289). -/
def stealBackoff : Nat := 2048
/-- Cycles between two tries of a full launch part (R302). -/
def launchRetry : Nat := 256
/-- Controller cycles after which a normal request is promoted (R38). -/
def promoteAfter : Nat := 8192
/-- HBM bytes (R32). -/
def hbmSize : Nat := 2 ^ 40
/-- First byte of the host tier (R32). -/
def hostTierPa : Nat := 2 ^ 48
/-- Top clock of a die in MHz, the lowest, and one step (R366). -/
def clockMax : Nat := 2250
/-- Lowest clock of a die in MHz (R366). -/
def clockMin : Nat := 1000
/-- A clock step in MHz (R366). -/
def clockStep : Nat := 125
/-- Signatures of the device's LMS key (R343). -/
def lmsLimit : Nat := 2 ^ 30

end Config

end Sys2Proof
end

