-- ==== Sys2Proof/Machine/Bits.lean ====
section
/-! DEFINITION. Bit fields, byte order, sign extension and lanes (R5), on numbers. -/

namespace Sys2Proof

/-- The number that a little-endian byte string stands for (R5). -/
def leNat : List Byte → Nat
  | [] => 0
  | b :: r => b.toNat + 256 * leNat r

/-- The `n` low bytes of a number, lowest first (R5). -/
def leBytes : Nat → Nat → List Byte
  | 0, _ => []
  | n + 1, v => BitVec.ofNat 8 v :: leBytes n (v / 256)

/-- Bits [hi:lo] of a number (R5 `bits`). -/
def bitsOf (x hi lo : Nat) : Nat := x / 2 ^ lo % 2 ^ (hi + 1 - lo)

/-- Bit `i` of a number. -/
def bitOf (x i : Nat) : Bool := x.testBit i

/-- Bits [hi:lo] of a register value, as a number. -/
def W.bits (x : W) (hi lo : Nat) : Nat := bitsOf x.toNat hi lo

/-- A truth value as a number. -/
def b2n (b : Bool) : Nat := if b then 1 else 0

/-- An unsigned number of `w` bits read as two's complement. -/
def signed (w : Nat) (x : Nat) : Int :=
  if 2 ^ (w - 1) ≤ x % 2 ^ w then (x % 2 ^ w : Nat) - (2 ^ w : Nat) else (x % 2 ^ w : Nat)

/-- An integer wrapped to `w` bits. -/
def wrap (w : Nat) (z : Int) : Nat := (z % (2 ^ w : Nat)).toNat

/-- `n` consecutive numbers from `a`. -/
def rangeFrom (a n : Nat) : List Nat := (List.range n).map (a + ·)

/-- Writes `v` at index `i` of a list, if the index is in range. -/
def setAt {α : Type} (l : List α) (i : Nat) (v : α) : List α := l.set i v

/-- Lane `i`, of `w` bits, of a wide register (lanes counted from the low end). -/
def lane (w : Nat) (x : Nat) (i : Nat) : Nat := x / 2 ^ (w * i) % 2 ^ w

/-- The wide value whose lanes of `w` bits are given, lowest first. -/
def ofLanes (w : Nat) : List Nat → Nat
  | [] => 0
  | a :: r => a % 2 ^ w + 2 ^ w * ofLanes w r

/-- A value of `n` bits sign-extended to 64 (R5 `sext`). -/
def sextW (n : Nat) (v : Nat) : W := BitVec.ofInt 64 (signed n v)

/-- Sign or zero extension of `n` bits to 64 (R27 x). -/
def extW (sx : Bool) (n v : Nat) : W := if sx then sextW n v else w64 (v % 2 ^ n)

/-- Whether a mask has bit `i`. -/
def maskSet (m i : Nat) : Nat := m ||| 2 ^ i

/-- A mask without the bits of another. -/
def maskClear (m k : Nat) : Nat := m - (m &&& k)

/-- The mask of bits a … a+n−1. -/
def maskOf (a n : Nat) : Nat := (2 ^ n - 1) * 2 ^ a

/-- The bit numbers set in the low `n` bits of a mask, rising. -/
def maskList (n m : Nat) : List Nat := (List.range n).filter (m.testBit ·)

/-- The number of set bits below `n`. -/
def popcount (n m : Nat) : Nat := (maskList n m).length

/-- The position of the highest set bit, counted from 0; 0 for 0. -/
def topBit (x : Nat) : Nat := Nat.log2 x

/-- Bytes of an access size; a nibble lies in one byte (R27). -/
def Size.bytes (z : Size) : Nat :=
  match z with
  | .b | .n => 1
  | .h => 2
  | .w => 4
  | .d => 8

end Sys2Proof
end

