-- ==== Sys2Proof/WellFormed.lean ====
section
/-! DEFINITION. What makes an instruction well formed: the field constraints that the decode checks of R24
step 2 make beyond the coded fields' own values (R18, R19, R20, R22). -/

namespace Sys2Proof

/-- The guard 1000 traps ILLEGAL (R22). -/
def Guard.ok (g : Guard) : Bool := !(g.sense && g.p == 0)

/-- A register that names the lower half of a pair (R18). -/
def evenReg (r : Reg) : Bool := !r.getLsbD 0

/-- A register that names an argument block of four: 4, 8, …, 28 (R65, R301). -/
def blockReg (r : Reg) : Bool := r.toNat % 4 == 0 && r.toNat != 0

/-- A register that names the block of a PG instruction: 8, 16 or 24 (R240). -/
def pgReg (r : Reg) : Bool := r.toNat % 8 == 0 && r.toNat != 0

/-- Port sources of the scalar stream: Q4–Q7 and S0–S3 (R19). -/
def scalarSrcPort (r : Reg) : Bool := 4 ≤ r.toNat && r.toNat ≤ 11

/-- Port destinations of the scalar stream: Q0–Q3 (R19). -/
def scalarDstPort (r : Reg) : Bool := r.toNat ≤ 3

/-- Port sources of the vector/matrix stream: Q0–Q3 and S0–S3 (R19). -/
def vectorSrcPort (r : Reg) : Bool := r.toNat ≤ 3 || (8 ≤ r.toNat && r.toNat ≤ 11)

/-- Integer codes of FCVT; two together are illegal (R27). -/
def CvtTy.isInt : CvtTy → Bool
  | .i64 | .n64 | .i32 | .n32 => true
  | .f64 | .f32 | .f16 | .bf16 => false

/-- Floating lane types (R199). -/
def Ty.isFloat : Ty → Bool
  | .f32 | .f16 | .bf16 => true
  | .i32 | .n32 | .i16 | .n16 => false

/-- The types VABS and VNEG admit: 0–3 and 5 (R201). -/
def Ty.signedOrFloat : Ty → Bool
  | .f32 | .f16 | .bf16 | .i32 | .i16 => true
  | .n32 | .n16 => false

/-- The types VRED admits for its operation (R208). -/
def RedOp.admits : RedOp → Ty → Bool
  | .add, _ | .min, _ | .max, _ => true
  | .and, t | .or, t | .xor, t => t == .f32

/-- Element width in bits of a format (R167, R169). -/
def Fmt.width : Fmt → Nat
  | .f32 | .i32 | .n32 => 32
  | .f16 | .bf16 | .i16 | .n16 => 16
  | .e4m3 | .e5m2 | .t8 | .i8 | .n8 | .q8r => 8
  | .e2m1 | .q4r => 4

/-- The packed set of VDEC and VENC (R179). -/
def Fmt.packed : Fmt → Bool
  | .f16 | .bf16 | .e4m3 | .e5m2 | .e2m1 | .t8 | .i8 | .i16 | .n8 | .n16 => true
  | .f32 | .i32 | .n32 | .q8r | .q4r => false

/-- The quantised set of VQNT and VDQNT (R179). -/
def Fmt.quantised : Fmt → Bool
  | .e4m3 | .e5m2 | .e2m1 | .q8r | .q4r => true
  | .f32 | .f16 | .bf16 | .t8 | .i8 | .i16 | .i32 | .n8 | .n16 | .n32 => false

/-- The codes 0–12 that VCVT and WINSET admit (R179, R186). -/
def Fmt.plain : Fmt → Bool
  | .q8r | .q4r => false
  | .f32 | .f16 | .bf16 | .e4m3 | .e5m2 | .e2m1 | .t8 | .i8 | .i16 | .i32 | .n8 | .n16 | .n32 => true

/-- The parts of a packed register of elements of a format (R179). -/
def Fmt.parts (f : Fmt) : Nat := 32 / f.width

/-- The system register numbers of R324. -/
def srListed (n : BitVec 9) : Bool :=
  n.toNat ≤ 0x2F || (0x100 ≤ n.toNat && n.toNat ≤ 0x110)

/-- Whether an instruction meets the decode constraints on its fields (R18, R19, R22). The steps of other
agents have no encoding and are always well formed. -/
def Instr.wellFormed : Instr → Bool
  | .add f => f.g.ok && (!f.pb || scalarSrcPort f.b) && (!f.pd || scalarDstPort f.d)
  | .addLit f => f.g.ok && (!f.pd || scalarDstPort f.d)
  | .sub f => f.g.ok && (!f.pb || scalarSrcPort f.b) && (!f.pd || scalarDstPort f.d)
  | .subLit f => f.g.ok && (!f.pd || scalarDstPort f.d)
  | .min f => f.g.ok && (!f.pb || scalarSrcPort f.b) && (!f.pd || scalarDstPort f.d)
  | .minLit f => f.g.ok && (!f.pd || scalarDstPort f.d)
  | .max f => f.g.ok && (!f.pb || scalarSrcPort f.b) && (!f.pd || scalarDstPort f.d)
  | .maxLit f => f.g.ok && (!f.pd || scalarDstPort f.d)
  | .minu f => f.g.ok && (!f.pb || scalarSrcPort f.b) && (!f.pd || scalarDstPort f.d)
  | .minuLit f => f.g.ok && (!f.pd || scalarDstPort f.d)
  | .maxu f => f.g.ok && (!f.pb || scalarSrcPort f.b) && (!f.pd || scalarDstPort f.d)
  | .maxuLit f => f.g.ok && (!f.pd || scalarDstPort f.d)
  | .andn f => f.g.ok && (!f.pb || scalarSrcPort f.b) && (!f.pd || scalarDstPort f.d)
  | .andnLit f => f.g.ok && (!f.pd || scalarDstPort f.d)
  | .bfx f => f.g.ok && (!f.pb || scalarSrcPort f.b) && (!f.pd || scalarDstPort f.d)
  | .bfxLit f => f.g.ok && (!f.pd || scalarDstPort f.d)
  | .and f => f.g.ok && (!f.pb || scalarSrcPort f.b) && (!f.pd || scalarDstPort f.d)
  | .andLit f => f.g.ok && (!f.pd || scalarDstPort f.d)
  | .or f => f.g.ok && (!f.pb || scalarSrcPort f.b) && (!f.pd || scalarDstPort f.d)
  | .orLit f => f.g.ok && (!f.pd || scalarDstPort f.d)
  | .xor f => f.g.ok && (!f.pb || scalarSrcPort f.b) && (!f.pd || scalarDstPort f.d)
  | .xorLit f => f.g.ok && (!f.pd || scalarDstPort f.d)
  | .bfi f => f.g.ok && (!f.pb || scalarSrcPort f.b) && (!f.pd || scalarDstPort f.d)
  | .bfiLit f => f.g.ok && (!f.pd || scalarDstPort f.d)
  | .shl f => f.g.ok && (!f.pb || scalarSrcPort f.b) && (!f.pd || scalarDstPort f.d)
  | .shlLit f => f.g.ok && (!f.pd || scalarDstPort f.d)
  | .shr f => f.g.ok && (!f.pb || scalarSrcPort f.b) && (!f.pd || scalarDstPort f.d)
  | .shrLit f => f.g.ok && (!f.pd || scalarDstPort f.d)
  | .sar f => f.g.ok && (!f.pb || scalarSrcPort f.b) && (!f.pd || scalarDstPort f.d)
  | .sarLit f => f.g.ok && (!f.pd || scalarDstPort f.d)
  | .rol f => f.g.ok && (!f.pb || scalarSrcPort f.b) && (!f.pd || scalarDstPort f.d)
  | .rolLit f => f.g.ok && (!f.pd || scalarDstPort f.d)
  | .mul f => f.g.ok && (!f.pb || scalarSrcPort f.b) && (!f.pd || scalarDstPort f.d)
  | .mulLit f => f.g.ok && (!f.pd || scalarDstPort f.d)
  | .mulh f => f.g.ok && (!f.pb || scalarSrcPort f.b) && (!f.pd || scalarDstPort f.d)
  | .mulhLit f => f.g.ok && (!f.pd || scalarDstPort f.d)
  | .mulhu f => f.g.ok && (!f.pb || scalarSrcPort f.b) && (!f.pd || scalarDstPort f.d)
  | .mulhuLit f => f.g.ok && (!f.pd || scalarDstPort f.d)
  | .xyaddr f => f.g.ok && (!f.pb || scalarSrcPort f.b) && (!f.pd || scalarDstPort f.d)
  | .xyaddrLit f => f.g.ok && (!f.pd || scalarDstPort f.d)
  | .div f => f.g.ok && (!f.pb || scalarSrcPort f.b) && (!f.pd || scalarDstPort f.d)
  | .divLit f => f.g.ok && (!f.pd || scalarDstPort f.d)
  | .divu f => f.g.ok && (!f.pb || scalarSrcPort f.b) && (!f.pd || scalarDstPort f.d)
  | .divuLit f => f.g.ok && (!f.pd || scalarDstPort f.d)
  | .rem f => f.g.ok && (!f.pb || scalarSrcPort f.b) && (!f.pd || scalarDstPort f.d)
  | .remLit f => f.g.ok && (!f.pd || scalarDstPort f.d)
  | .remu f => f.g.ok && (!f.pb || scalarSrcPort f.b) && (!f.pd || scalarDstPort f.d)
  | .remuLit f => f.g.ok && (!f.pd || scalarDstPort f.d)
  | .clz f => f.g.ok && (!f.pd || scalarDstPort f.d)
  | .ctz f => f.g.ok && (!f.pd || scalarDstPort f.d)
  | .popc f => f.g.ok && (!f.pd || scalarDstPort f.d)
  | .ext f => f.g.ok && (!f.pd || scalarDstPort f.d)
  | .sel f => f.g.ok
  | .selLit f => f.g.ok
  | .wfld f => f.g.ok
  | .wfldLit f => f.g.ok
  | .cmp f => f.g.ok && (!f.pb || scalarSrcPort f.b)
  | .cmpLit f => f.g.ok
  | .addi f => f.g.ok
  | .addiLit f => f.g.ok
  | .andi f => f.g.ok
  | .andiLit f => f.g.ok
  | .ori f => f.g.ok
  | .oriLit f => f.g.ok
  | .xori f => f.g.ok
  | .xoriLit f => f.g.ok
  | .shli f => f.g.ok
  | .shri f => f.g.ok
  | .sari f => f.g.ok
  | .cmpi f => f.g.ok
  | .cmpiLit f => f.g.ok
  | .movi f => f.g.ok
  | .moviLit f => f.g.ok
  | .movhi f => f.g.ok
  | .movhiLit f => f.g.ok
  | .faddF32 f => f.g.ok
  | .fsubF32 f => f.g.ok
  | .fmulF32 f => f.g.ok
  | .fdivF32 f => f.g.ok
  | .faddF64 f => f.g.ok
  | .fsubF64 f => f.g.ok
  | .fmulF64 f => f.g.ok
  | .fdivF64 f => f.g.ok
  | .fsqrtF32 f => f.g.ok
  | .fminF32 f => f.g.ok
  | .fmaxF32 f => f.g.ok
  | .fsqrtF64 f => f.g.ok
  | .fminF64 f => f.g.ok
  | .fmaxF64 f => f.g.ok
  | .ffmaF32 f => f.g.ok
  | .ffmaF64 f => f.g.ok
  | .fcmp f => f.g.ok
  | .fcvt f => f.g.ok && !(f.dst.isInt && f.src.isInt)
  | .br f => f.g.ok
  | .brLit f => f.g.ok
  | .bp f => f.g.ok
  | .bpLit f => f.g.ok
  | .j f => f.g.ok
  | .jLit f => f.g.ok
  | .jl f => f.g.ok && f.a != 0
  | .jlLit f => f.g.ok && f.a != 0
  | .jr f => f.g.ok
  | .jlr f => f.g.ok
  | .plog f => f.g.ok
  | .pset f => f.g.ok
  | .pget f => f.g.ok
  | .pcnt f => f.g.ok
  | .repb f => f.g.ok
  | .repe => true
  | .ld f => f.g.ok && f.sz != .n && !(f.sx && f.sz == .d)
  | .ldLit f => f.g.ok && f.sz != .n && !(f.sx && f.sz == .d)
  | .ldAcq f => f.g.ok && f.sz != .n && !(f.sx && f.sz == .d)
  | .ldAcqLit f => f.g.ok && f.sz != .n && !(f.sx && f.sz == .d)
  | .st f => f.g.ok && f.sz != .n
  | .stLit f => f.g.ok && f.sz != .n
  | .stRel f => f.g.ok && f.sz != .n
  | .stRelLit f => f.g.ok && f.sz != .n
  | .ldx f => f.g.ok && f.sz != .n && !(f.sx && f.sz == .d)
  | .stx f => f.g.ok && f.sz != .n
  | .ldp f => f.g.ok && evenReg f.d
  | .ldpLit f => f.g.ok && evenReg f.d
  | .stp f => f.g.ok && evenReg f.d
  | .stpLit f => f.g.ok && evenReg f.d
  | .amoW f => f.g.ok
  | .amoD f => f.g.ok
  | .casW f => f.g.ok
  | .casD f => f.g.ok
  | .cas2 f => f.g.ok && evenReg f.d && evenReg f.b
  | .cwb f => f.g.ok
  | .cinv f => f.g.ok
  | .rld f => f.g.ok && !(f.sx && f.sz == .n)
  | .rldLit f => f.g.ok && !(f.sx && f.sz == .n)
  | .rst f => f.g.ok
  | .rstLit f => f.g.ok
  | .ramoW f => f.g.ok
  | .ramoD f => f.g.ok
  | .send f => f.g.ok && f.n != 0 && f.n != 7 && decide (f.b.toNat + f.n.toNat ≤ 32)
  | .sendw f => f.g.ok && f.n != 0 && f.n != 7 && decide (f.b.toNat + f.n.toNat ≤ 32)
  | .sendc f => f.g.ok && decide (f.b.toNat + f.n.toNat / 4 ≤ 31)
  | .mrd f => f.g.ok
  | .tswap f => f.g.ok
  | .mxcmd f => f.g.ok && f.b.toNat % 4 == 0
  | .capset f => f.g.ok
  | .get f => f.g.ok && blockReg f.a
  | .put f => f.g.ok && blockReg f.a
  | .getx f => f.g.ok && blockReg f.a
  | .putx f => f.g.ok && blockReg f.a
  | .putxa f => f.g.ok && blockReg f.a
  | .putr f => f.g.ok && blockReg f.a
  | .mcast f => f.g.ok && blockReg f.a
  | .slotret f => f.g.ok
  | .sbind f => f.g.ok
  | .cwait f => f.g.ok
  | .ldf f => f.g.ok && f.sz != .n
  | .ldfLit f => f.g.ok && f.sz != .n
  | .ldfe f => f.g.ok && f.sz != .n
  | .ldfeLit f => f.g.ok && f.sz != .n
  | .stf f => f.g.ok && f.sz != .n
  | .stfLit f => f.g.ok && f.sz != .n
  | .feclr f => f.g.ok
  | .mprobe f => f.g.ok
  | .minsert f => f.g.ok
  | .mupsert f => f.g.ok
  | .mremove f => f.g.ok
  | .mcas f => f.g.ok
  | .mprobev f => f.g.ok
  | .mupsertv f => f.g.ok
  | .mrowget f => f.g.ok
  | .mrowput f => f.g.ok
  | .mscan f => f.g.ok && evenReg f.b
  | .mstat f => f.g.ok
  | .mrepl f => f.g.ok
  | .vadd f => f.g.ok && (!f.p || vectorSrcPort f.b)
  | .vsub f => f.g.ok && (!f.p || vectorSrcPort f.b)
  | .vmul f => f.g.ok && (!f.p || vectorSrcPort f.b)
  | .vfma f => f.g.ok && (!f.p || vectorSrcPort f.b) && f.ty.isFloat
  | .vfms f => f.g.ok && (!f.p || vectorSrcPort f.b) && f.ty.isFloat
  | .vfnma f => f.g.ok && (!f.p || vectorSrcPort f.b) && f.ty.isFloat
  | .vdiv f => f.g.ok && (!f.p || vectorSrcPort f.b)
  | .vmin f => f.g.ok && (!f.p || vectorSrcPort f.b)
  | .vmax f => f.g.ok && (!f.p || vectorSrcPort f.b)
  | .vand f => f.g.ok && (!f.p || vectorSrcPort f.b)
  | .vor f => f.g.ok && (!f.p || vectorSrcPort f.b)
  | .vxor f => f.g.ok && (!f.p || vectorSrcPort f.b)
  | .vshl f => f.g.ok && (!f.p || vectorSrcPort f.b)
  | .vshr f => f.g.ok && (!f.p || vectorSrcPort f.b)
  | .vsar f => f.g.ok && (!f.p || vectorSrcPort f.b)
  | .vcmp f => f.g.ok && (!f.p || vectorSrcPort f.b)
  | .vsel f => f.g.ok && (!f.p || vectorSrcPort f.b)
  | .vperm f => f.g.ok && (!f.p || vectorSrcPort f.b)
  | .vext f => f.g.ok
  | .vins f => f.g.ok
  | .vdot4I8 f => f.g.ok && (!f.p || vectorSrcPort f.b)
  | .vdot4N8 f => f.g.ok && (!f.p || vectorSrcPort f.b)
  | .vmov f => f.g.ok && (!f.p || vectorSrcPort f.a)
  | .vabs f => f.g.ok && (!f.p || vectorSrcPort f.a) && f.ty.signedOrFloat
  | .vneg f => f.g.ok && (!f.p || vectorSrcPort f.a) && f.ty.signedOrFloat
  | .vsqrt f => f.g.ok && (!f.p || vectorSrcPort f.a) && f.ty.isFloat
  | .vrcp f => f.g.ok && (!f.p || vectorSrcPort f.a) && f.ty.isFloat
  | .vrsq f => f.g.ok && (!f.p || vectorSrcPort f.a) && f.ty.isFloat
  | .vexp2 f => f.g.ok && (!f.p || vectorSrcPort f.a) && f.ty.isFloat
  | .vlog2 f => f.g.ok && (!f.p || vectorSrcPort f.a) && f.ty.isFloat
  | .vbcast f => f.g.ok && (!f.p || vectorSrcPort f.a)
  | .viota f => f.g.ok
  | .vcomp f => f.g.ok && (!f.p || vectorSrcPort f.a)
  | .vlen f => f.g.ok
  | .vmovQ f => f.g.ok
  | .vred f => f.g.ok && (!f.p || vectorSrcPort f.a) && f.op.admits f.ty
  | .vscan f => f.g.ok && (!f.p || vectorSrcPort f.a)
  | .vld f => f.g.ok
  | .vldLit f => f.g.ok
  | .vst f => f.g.ok
  | .vstLit f => f.g.ok
  | .vlds f => f.g.ok
  | .vsts f => f.g.ok
  | .vldx f => f.g.ok
  | .vstx f => f.g.ok
  | .tblld f => f.g.ok
  | .winset f => f.g.ok && evenReg f.b
  | .vcvt f => f.g.ok && f.dst.plain && f.src.plain
  | .vdec f => f.g.ok && f.src.packed && decide (f.p.toNat < f.src.parts)
  | .venc f => f.g.ok && f.dst.packed && decide (f.p.toNat < f.dst.parts)
  | .vqnt f => f.g.ok && f.dst.quantised && decide (f.p.toNat < f.dst.parts) && evenReg f.d
  | .vdqnt f => f.g.ok && f.src.quantised && decide (f.p.toNat < f.src.parts) && evenReg f.a
  | .mma f => f.g.ok
  | .mmat f => f.g.ok
  | .tzero f => f.g.ok
  | .tld f => f.g.ok
  | .tldT f => f.g.ok
  | .tst f => f.g.ok
  | .tstn f => f.g.ok
  | .trow f => f.g.ok
  | .clld f => f.g.ok
  | .clrot f => f.g.ok
  | .clwait f => f.g.ok
  | .pgbound f => f.g.ok && pgReg f.a
  | .pgpick f => f.g.ok && pgReg f.a
  | .pgsum f => f.g.ok && pgReg f.a
  | .pgclr f => f.g.ok && pgReg f.a
  | .dqpush f => f.g.ok && evenReg f.a
  | .dqpop f => f.g.ok && evenReg f.d
  | .dqsplit f => f.g.ok && evenReg f.a
  | .dqsteal f => f.g.ok
  | .done f => f.g.ok
  | .idem f => f.g.ok
  | .idemEnd f => f.g.ok
  | .hset f => f.g.ok
  | .hmask f => f.g.ok
  | .launch f => f.g.ok && blockReg f.a
  | .launchH f => f.g.ok
  | .barv f => f.g.ok
  | .barw f => f.g.ok
  | .fenceAcq f => f.g.ok
  | .fenceRel f => f.g.ok
  | .fenceFull f => f.g.ok
  | .fenceM f => f.g.ok
  | .rfence f => f.g.ok
  | .trap f => f.g.ok
  | .rtt f => f.g.ok
  | .srd f => f.g.ok && srListed f.n
  | .swr f => f.g.ok && srListed f.n
  | .tlbinv f => f.g.ok
  | .wait f => f.g.ok
  | .cAdd _ => true
  | .cSub _ => true
  | .cAnd _ => true
  | .cOr _ => true
  | .cXor _ => true
  | .cMov _ => true
  | .cAddi _ => true
  | .cAddiX0 _ => true
  | .cShli _ => true
  | .cShri _ => true
  | .cSari _ => true
  | .cAndi _ => true
  | .cLdDX2 _ => true
  | .cStDX2 _ => true
  | .cLdWX2 _ => true
  | .cStWX2 _ => true
  | .cLdW _ => true
  | .cStW _ => true
  | .cLdD _ => true
  | .cStD _ => true
  | .cBrEq _ => true
  | .cBrNe _ => true
  | .cMul _ => true
  | .cCmpEq f => decide (f.d.toNat ≤ 7)
  | .cJr _ => true
  | .cJlr _ => true
  | .cSrd _ => true
  | .cDone => true
  | .cRfence => true
  | .cTrap _ => true
  | .nop => true
  | .registrationRequest _ => true
  | .registrationGrant _ => true
  | .loadMissRequest _ => true
  | .filterSwap _ => true
  | .forwardRequest _ => true
  | .forwardAnswer _ => true
  | .sectorFill _ => true
  | .recall _ => true
  | .recallAnswer _ => true
  | .writeback _ => true
  | .resendRequest _ => true
  | .writebackAck _ => true
  | .amoAtHome _ => true
  | .tileAccessAtHome _ => true
  | .pageWalk _ => true
  | .tlbFill _ => true
  | .controllerSelect _ _ => true
  | .requestPromotion _ _ => true
  | .patrolScrub _ => true
  | .hostSnoopOwnership _ => true
  | .hostSnoopSharing _ => true
  | .cxlExchangeComplete _ _ _ _ => true
  | .hostCxlMemAccess _ _ _ _ => true
  | .flipMarker _ => true
  | .biasFlipComplete _ => true
  | .transferPiece _ _ _ => true
  | .ownerPortPiece _ => true
  | .transferCompletion _ => true
  | .barrierDecrement _ => true
  | .slotReturn _ => true
  | .roundChunkFinal _ _ _ => true
  | .peerPortFailure _ _ => true
  | .memberUnreachable _ => true
  | .remoteLoadArrival _ => true
  | .remoteStoreArrival _ => true
  | .remoteAtomicArrival _ => true
  | .remoteTileStoreArrival _ => true
  | .remoteTileLoadArrival _ => true
  | .fullEmptyArrival _ => true
  | .feclrArrival _ => true
  | .remoteReply _ => true
  | .postedAck _ => true
  | .postedRefusal _ => true
  | .barrierUpdate _ => true
  | .barrierPark _ => true
  | .messageArrival _ => true
  | .messageStatus _ => true
  | .mxcmdArrival _ => true
  | .mxcmdExecute _ => true
  | .mxcmdStatus _ => true
  | .tswapArrival _ => true
  | .tswapTileArrival _ => true
  | .latchArrival _ => true
  | .ringCredit _ => true
  | .bulkDeadlockProbe _ => true
  | .deadlockRecovery _ => true
  | .flitReplay _ _ => true
  | .linkRetrain _ _ => true
  | .mapRequestArrival _ => true
  | .mapQueuedExecute _ => true
  | .mapReply _ => true
  | .arenaAllocate _ => true
  | .arenaFree _ => true
  | .growthRequest _ => true
  | .splitCommand _ => true
  | .splitLock _ => true
  | .splitCreate _ => true
  | .splitReport _ => true
  | .replicaFill _ => true
  | .filledReply _ => true
  | .replicaInvalidate _ => true
  | .invalidateAck _ => true
  | .replicaRead _ => true
  | .taskSelect _ => true
  | .hiSuspend _ => true
  | .stealRound _ => true
  | .stealBackoffExpiry _ => true
  | .stealRequest _ => true
  | .stealAnswer _ => true
  | .launchArrival _ => true
  | .launchAnswer _ => true
  | .launchPartRetry _ => true
  | .pendingTrapDelivery _ => true
  | .tasklessTrapDelivery _ => true
  | .serviceCall _ => true
  | .watchdogExpiry _ => true
  | .waitExpiry _ => true
  | .machineCheck _ => true
  | .contextStop _ => true
  | .quiesce _ => true
  | .idemAbort _ => true
  | .saveCopy _ => true
  | .launchWindowGo _ _ _ _ => true
  | .launchWindowPerform _ => true
  | .ctxcreate _ _ _ _ => true
  | .ctxdestroy _ _ => true
  | .codeload _ _ _ _ _ => true
  | .runtimeload _ _ _ _ _ _ _ _ _ => true
  | .descset _ _ _ _ => true
  | .descrelease _ _ _ => true
  | .preempt _ _ _ _ => true
  | .restore _ _ _ => true
  | .biasflip _ _ _ => true
  | .groupset _ _ _ _ _ => true
  | .peerbind _ _ _ _ _ _ => true
  | .monread _ _ _ => true
  | .hosttier _ _ _ => true
  | .patchload _ _ _ _ _ => true
  | .events _ _ => true
  | .runtimecall _ _ _ _ _ => true
  | .getVersion => true
  | .getCapabilities => true
  | .negotiateAlgorithms _ _ => true
  | .getDigests => true
  | .getCertificate _ _ => true
  | .challenge _ => true
  | .getMeasurements _ _ => true
  | .powerTick _ _ => true
  | .powerLimitTimeout => true
  | .junctionOvertemp _ => true
  | .parityError _ => true
  | .coldReset _ => true
  | .warmReset _ => true
  | .srMcrWrite _ _ _ => true
  | .waybillFree _ _ => true
  | .srPendLostClear _ _ => true
  | .srVlWrite _ _ => true
  | .srRmodeWrite _ _ => true
  | .srDtabWrite _ _ => true
  | .srBudgetWrite _ _ => true
  | .monitorCountClear _ _ => true
  | .registerWrite _ _ _ => true
  | .illegalEncoding _ => true

end Sys2Proof
end

