-- ==== Sys2Proof/Machine/Float.lean ====
section
/-! DEFINITION. Numbers: exact values, the formats of R167, rounding in the five modes of R172, the
conversions of R174, the T8 table of R171, and the operations of R198–R201 and R275–R278. -/

namespace Sys2Proof

/-- The map mixing function (R112). -/
def mix64 (x : W) : W :=
  let x := x ^^^ (x >>> 32)
  let x := x * 0xA3B195C72E4DF10B#64
  let x := x ^^^ (x >>> 29)
  let x := x * 0x5C2F7E81B94A6D35#64
  x ^^^ (x >>> 32)

/-- An exact value: NaN, an infinity, or (−1)^neg × m × 2^e. With `more`, the magnitude lies strictly
between m and m + 1 units of 2^e (a result whose later digits are not written out). -/
inductive FVal where
  | nan
  | inf (neg : Bool)
  | fin (neg : Bool) (m : Nat) (e : Int) (more : Bool)
  deriving DecidableEq, Repr

/-- A finite value written out exactly. -/
def FVal.ex (neg : Bool) (m : Nat) (e : Int) : FVal := .fin neg m e false

/-- Rounding: mode of R172 (0 RNE, 1 RTZ, 2 RDN, 3 RUP, 4 SR) and r_i of R173. -/
structure Rnd where
  mode : Nat
  r : Nat
  deriving DecidableEq, Repr

/-- Round to nearest even. -/
def rne : Rnd := ⟨0, 0⟩

/-- r_i of R173 for a counter STATE. -/
def rOf (state : W) (i : Nat) : Nat := (mix64 (state + w64 i)).bits 15 0

/-- A binary floating format (R167): exponent and mantissa widths, bias, whether it has infinities, its
canonical NaN (R168), and its largest finite value as significand and exponent. -/
structure FSpec where
  ebits : Nat
  mbits : Nat
  bias : Nat
  inf : Bool
  nan : Option Nat
  maxM : Nat
  maxE : Int
  deriving DecidableEq, Repr

/-- F64 (R167). -/
def sF64 : FSpec := ⟨11, 52, 1023, true, some 0x7FF8000000000000, 2 ^ 53 - 1, 971⟩
/-- F32. -/
def sF32 : FSpec := ⟨8, 23, 127, true, some 0x7FC00000, 2 ^ 24 - 1, 104⟩
/-- F16. -/
def sF16 : FSpec := ⟨5, 10, 15, true, some 0x7E00, 2 ^ 11 - 1, 5⟩
/-- BF16. -/
def sBF16 : FSpec := ⟨8, 7, 127, true, some 0x7FC0, 2 ^ 8 - 1, 120⟩
/-- E4M3: no infinity, one NaN code. -/
def sE4M3 : FSpec := ⟨4, 3, 7, false, some 0x7F, 14, 5⟩
/-- E5M2. -/
def sE5M2 : FSpec := ⟨5, 2, 15, true, some 0x7E, 7, 13⟩
/-- E2M1: neither infinity nor NaN. -/
def sE2M1 : FSpec := ⟨2, 1, 1, false, none, 3, 1⟩

/-- Width of a format's encodings. -/
def FSpec.width (f : FSpec) : Nat := 1 + f.ebits + f.mbits

/-- The value of an encoding (R167). -/
def FSpec.decode (f : FSpec) (v : Nat) : FVal :=
  let neg := v.testBit (f.ebits + f.mbits)
  let ex := v / 2 ^ f.mbits % 2 ^ f.ebits
  let m := v % 2 ^ f.mbits
  if f.inf && ex == 2 ^ f.ebits - 1 then (if m = 0 then .inf neg else .nan)
  else if !f.inf && f.nan.isSome && ex == 2 ^ f.ebits - 1 && m == 2 ^ f.mbits - 1 then .nan
  else if ex = 0 then .ex neg m (1 - f.bias - f.mbits)
  else .ex neg (2 ^ f.mbits + m) (ex - f.bias - f.mbits)

/-- Rounds the magnitude m × 2^e to a multiple of 2^q (R172, R173): how many units of 2^q. -/
def roundAt (rd : Rnd) (neg : Bool) (m : Nat) (e : Int) (more : Bool) (q : Int) : Nat :=
  if q ≤ e then m * 2 ^ (e - q).toNat
  else
    let d := (q - e).toNat
    let (lo, rem, d, more) :=
      if topBit m + 20 < d then (0, 0, 1, more || m != 0) else (m / 2 ^ d, m % 2 ^ d, d, more)
    if rem = 0 && !more then lo
    else
      let up : Bool :=
        match rd.mode with
        | 1 => false
        | 2 => neg
        | 3 => !neg
        | 4 => decide (2 ^ 16 ≤ rd.r + rem * 2 ^ 16 / 2 ^ d)
        | _ => decide (2 ^ d < 2 * rem) || (decide (2 * rem = 2 ^ d) && (more || lo % 2 == 1))
      if up then lo + 1 else lo

/-- The unit of a format at a magnitude: its spacing, no finer than that of its subnormals. -/
def FSpec.unit (f : FSpec) (m : Nat) (e : Int) : Int :=
  max (1 - f.bias - f.mbits : Int) (topBit m + e - f.mbits)

/-- m × 2^e > n × 2^k for natural significands. -/
def magGt (m : Nat) (e : Int) (n : Nat) (k : Int) : Bool :=
  if m = 0 then false
  else if n = 0 then true
  else
    let a : Int := topBit m + e
    let b : Int := topBit n + k
    if a ≠ b then decide (b < a)
    else if k ≤ e then decide (n < m * 2 ^ (e - k).toNat) else decide (n * 2 ^ (k - e).toNat < m)

/-- Encodes m × 2^q, m in range for unit 2^q. -/
def FSpec.pack (f : FSpec) (neg : Bool) (m : Nat) (q : Int) : Nat :=
  let s := b2n neg * 2 ^ (f.ebits + f.mbits)
  if m < 2 ^ f.mbits then s + m
  else if m = 2 ^ (f.mbits + 1) then s + (q + 1 + f.mbits + f.bias).toNat * 2 ^ f.mbits
  else s + (q + f.mbits + f.bias).toNat * 2 ^ f.mbits + (m - 2 ^ f.mbits)

/-- ±∞ of a format that has it. -/
def FSpec.infCode (f : FSpec) (neg : Bool) : Nat :=
  b2n neg * 2 ^ (f.ebits + f.mbits) + (2 ^ f.ebits - 1) * 2 ^ f.mbits

/-- ± the largest finite value. -/
def FSpec.maxCode (f : FSpec) (neg : Bool) : Nat := f.pack neg f.maxM f.maxE

/-- The canonical NaN, or +0 for a format without one (R168, R174). -/
def FSpec.nanCode (f : FSpec) : Nat := f.nan.getD 0

/-- convert(v, fmt) for a floating format (R174). -/
def FSpec.convert (f : FSpec) (rd : Rnd) (ns : Bool) (v : FVal) : Nat :=
  match v with
  | .nan => f.nanCode
  | .inf neg =>
    if f.inf then f.infCode neg
    else if ns && f.nan.isSome then f.nanCode else f.maxCode neg
  | .fin neg m e more =>
    let q := f.unit m e
    let r := roundAt rd neg m e more q
    if magGt r q f.maxM f.maxE then
      if f.inf then
        match rd.mode with
        | 1 => f.maxCode neg
        | 2 => if neg then f.infCode neg else f.maxCode neg
        | 3 => if neg then f.maxCode neg else f.infCode neg
        | _ => f.infCode neg
      else if ns && f.nan.isSome then f.nanCode
      else f.maxCode neg
    else f.pack neg r q

/-- convert(v, fmt) for an integer format of `w` bits (R174): the result's w bits. -/
def convertInt (sgn : Bool) (w : Nat) (rd : Rnd) (v : FVal) : Nat :=
  let hi : Int := if sgn then 2 ^ (w - 1) - 1 else 2 ^ w - 1
  let lo : Int := if sgn then -(2 ^ (w - 1)) else 0
  match v with
  | .nan => 0
  | .inf neg => wrap w (if neg then lo else hi)
  | .fin neg m e more =>
    if topBit m + e > 80 ∧ m ≠ 0 then wrap w (if neg then lo else hi)
    else
      let n : Int := roundAt rd neg m e more 0
      let z := if neg then -n else n
      wrap w (max lo (min hi z))

/-! ## Exact operations -/

/-- −v. -/
def FVal.neg : FVal → FVal
  | .nan => .nan
  | .inf n => .inf (!n)
  | .fin n m e more => .fin (!n) m e more

/-- Whether the value is a NaN. -/
def FVal.isNan (v : FVal) : Bool := v == .nan

/-- Whether a value is ±0. -/
def FVal.isZero : FVal → Bool
  | .fin _ m _ more => m == 0 && !more
  | .nan | .inf _ => false

/-- An exact finite value as an integer multiple of 2^k, k at most its exponent. -/
def scaled (neg : Bool) (m : Nat) (e k : Int) : Int :=
  let n : Int := (m * 2 ^ (e - k).toNat : Nat)
  if neg then -n else n

/-- The exact sum; an exact zero sum of opposite signs is +0, or −0 under RDN (R198). -/
def FVal.add (mode : Nat) (a b : FVal) : FVal :=
  match a, b with
  | .nan, _ | _, .nan => .nan
  | .inf x, .inf y => if x = y then .inf x else .nan
  | .inf x, _ => .inf x
  | _, .inf y => .inf y
  | .fin na ma ea _, .fin nb mb eb _ =>
    if ma = 0 && mb = 0 then .ex (if na = nb then na else mode == 2) 0 0
    else if ma = 0 then b
    else if mb = 0 then a
    else
      let k := min ea eb
      let z := scaled na ma ea k + scaled nb mb eb k
      if z = 0 then .ex (mode == 2) 0 0 else .ex (decide (z < 0)) z.natAbs k

/-- The exact product. -/
def FVal.mul (a b : FVal) : FVal :=
  match a, b with
  | .nan, _ | _, .nan => .nan
  | .inf x, .inf y => .inf (x != y)
  | .inf x, .fin nb mb _ _ => if mb = 0 then .nan else .inf (x != nb)
  | .fin na ma _ _, .inf y => if ma = 0 then .nan else .inf (na != y)
  | .fin na ma ea _, .fin nb mb eb _ => .ex (na != nb) (ma * mb) (ea + eb)

/-- The quotient, written out to at least 128 significant bits. -/
def FVal.div (a b : FVal) : FVal :=
  match a, b with
  | .nan, _ | _, .nan => .nan
  | .inf _, .inf _ => .nan
  | .inf x, .fin nb _ _ _ => .inf (x != nb)
  | .fin na _ _ _, .inf y => .ex (na != y) 0 0
  | .fin na ma ea _, .fin nb mb eb _ =>
    if mb = 0 then (if ma = 0 then .nan else .inf (na != nb))
    else
      let k := 130 + topBit mb
      let n := ma * 2 ^ k
      .fin (na != nb) (n / mb) (ea - eb - k) (n % mb != 0)

/-- The integer square root, by digits from bit `i` − 1 down. -/
def isqrtFrom : Nat → Nat → Nat → Nat
  | 0, _, r => r
  | i + 1, n, r => isqrtFrom i n (if (r + 2 ^ i) * (r + 2 ^ i) ≤ n then r + 2 ^ i else r)

/-- The integer square root. -/
def isqrt (n : Nat) : Nat := isqrtFrom (topBit n / 2 + 1) n 0

/-- The square root, written out to at least 128 significant bits (R201, R276). -/
def FVal.sqrt : FVal → FVal
  | .nan => .nan
  | .inf n => if n then .nan else .inf false
  | .fin n m e _ =>
    if m = 0 then .ex n 0 0
    else if n then .nan
    else
      let (m, e) := if e % 2 = 0 then (m, e) else (2 * m, e - 1)
      let x := m * 2 ^ 260
      let r := isqrt x
      .fin false r (e / 2 - 130) (r * r != x)

/-- 1/√v, written out to at least 128 significant bits (R201). -/
def FVal.rsqrt : FVal → FVal
  | .nan => .nan
  | .inf n => if n then .nan else .ex false 0 0
  | .fin n m e _ =>
    if m = 0 then .inf n
    else if n then .nan
    else
      let (m, e) := if e % 2 = 0 then (m, e) else (2 * m, e - 1)
      let k := 140 + topBit m
      let r := isqrt (2 ^ (2 * k) / m)
      .fin false r (-(e / 2) - k) (r * r * m != 2 ^ (2 * k))

/-- 1/v (R201). -/
def FVal.rcp (v : FVal) : FVal := (FVal.ex false 1 0).div v

/-- Bits of precision of 2^x. -/
def expBits : Nat := 160

/-- Multiplies up bounds of 2^f over the binary digits of f = n / 2^k from digit `i` on: (lo, hi) bounds of
the running product and (cl, cu) bounds of 2^(2^−i), in units of 2^−expBits. -/
def exp2Digits : Nat → Nat → Nat → Nat → Nat → Nat → Nat → Nat → Nat × Nat
  | 0, _, _, _, lo, hi, _, _ => (lo, hi)
  | fuel + 1, n, k, i, lo, hi, cl, cu =>
    if k < i then (lo, hi)
    else
      let cl := isqrt (cl * 2 ^ expBits)
      let cu := isqrt (cu * 2 ^ expBits) + 1
      let (lo, hi) :=
        if n.testBit (k - i) then (lo * cl / 2 ^ expBits, hi * cu / 2 ^ expBits + 1) else (lo, hi)
      exp2Digits fuel n k (i + 1) lo hi cl cu

/-- 2^v between two values (R201): exact for integers, else a lower and an upper bound that the true value lies
strictly between. -/
def FVal.exp2 : FVal → FVal × FVal
  | .nan => (.nan, .nan)
  | .inf n => if n then (.ex false 0 0, .ex false 0 0) else (.inf false, .inf false)
  | .fin neg m e _ =>
    if m = 0 then (.ex false 1 0, .ex false 1 0)
    else if topBit m + e > 20 then
      (if neg then (.ex false 1 (-2000000), .ex false 1 (-2000000)) else (.ex false 1 2000000, .ex false 1 2000000))
    else
      let k := (-(min e 0)).toNat
      let z : Int := scaled neg m (max e 0) 0
      let n : Int := z / (2 ^ k : Nat)
      let f : Nat := (z % (2 ^ k : Nat)).toNat
      if f = 0 then (.ex false 1 n, .ex false 1 n)
      else
        let one := 2 ^ expBits
        let (lo, hi) := exp2Digits (min k expBits) f k 1 one one (2 * one) (2 * one)
        let hi := if expBits < k then hi + hi / one + 2 else hi + 1
        (.fin false lo (n - expBits) true, .fin false (hi - 1) (n - expBits) true)

/-- 2^v rounded down to a multiple of its unit, between two such bounds: x ≤ 2^(B + r / 2^k) exactly where
x^(2^k) ≤ 2^(B × 2^k + r). The true value lies strictly above. -/
def FVal.exp2Floor (v lo hi : FVal) : FVal :=
  match v, lo, hi with
  | .fin neg m e _, .fin _ a _ _, .fin _ b _ _ =>
    let k := (-(min e 0)).toNat
    let z : Int := scaled neg m (max e 0) 0
    let r : Nat := (z % (2 ^ k : Nat)).toNat
    let below := fun (x : Nat) => decide (x ^ 2 ^ k ≤ 2 ^ (expBits * 2 ^ k + r))
    .fin false (((List.range (b + 1 - a)).filter fun i => below (a + i)).foldl (fun x i => Nat.max x (a + i)) a)
      (z / (2 ^ k : Nat) - expBits) true
  | _, _, _ => lo

/-- Digits of log2 of y (a bound pair in units of 2^−256, 1 ≤ y < 2) by repeated squaring; none if a digit is
not decided. -/
def log2Digits : Nat → Nat → Nat → Nat → Option Nat
  | 0, _, _, acc => some acc
  | fuel + 1, lo, hi, acc =>
    let one := 2 ^ 256
    let lo := lo * lo / one
    let hi := hi * hi / one + 1
    if 2 * one ≤ lo then log2Digits fuel (lo / 2) (hi / 2 + 1) (2 * acc + 1)
    else if hi < 2 * one then log2Digits fuel lo hi (2 * acc)
    else none

/-- log2 v, to 110 digits after the point (R201). Where the bounds do not decide them, they are those of
log2 m^(2^110), which is 2^110 times log2 m. -/
def FVal.log2 : FVal → FVal
  | .nan => .nan
  | .inf n => if n then .nan else .inf false
  | .fin neg m e _ =>
    if m = 0 then .inf true
    else if neg then .nan
    else
      let t := topBit m
      let x : Int := t + e
      if m = 2 ^ t then .ex (decide (x < 0)) x.natAbs 0
      else
        let y := m * 2 ^ 256 / 2 ^ t
        let d := match log2Digits 110 y (y + 1) 0 with
          | some d => d
          | none => Nat.log2 (m ^ 2 ^ 110) - t * 2 ^ 110
        let z : Int := x * 2 ^ 110 + d
        if z < 0 then .fin true (z.natAbs - 1) (-110) true else .fin false z.toNat (-110) true

/-! ## Comparison -/

/-- a ≤ b numerically; −0 = +0; false with a NaN. -/
def FVal.le (a b : FVal) : Bool :=
  match a, b with
  | .nan, _ | _, .nan => false
  | .inf x, .inf y => x || !y
  | .inf x, .fin _ _ _ _ => x
  | .fin _ _ _ _, .inf y => !y
  | .fin na ma ea _, .fin nb mb eb _ =>
    let k := min ea eb
    decide (scaled na ma ea k ≤ scaled nb mb eb k)

/-- a < b numerically. -/
def FVal.lt (a b : FVal) : Bool := !a.isNan && !b.isNan && !(b.le a)

/-- a = b numerically. -/
def FVal.eqv (a b : FVal) : Bool := a.le b && b.le a

/-- The sign of a value. -/
def FVal.sign : FVal → Bool
  | .nan => false
  | .inf n => n
  | .fin n _ _ _ => n

/-- Whether a orders at or below b with −0 below +0 (R200), neither a NaN. -/
def FVal.orderLe (a b : FVal) : Bool :=
  if a.isZero && b.isZero then a.sign || !b.sign else a.le b

/-! ## T8 (R170, R171) -/

/-- Entry k of a decode table as a value: an E8M10 word is an F32 word. -/
def t8Entry (t : Nat → Nat) (k : Nat) : FVal := sF32.decode (t k)

/-- dist(e, x) of R171 as an exact comparison key: 0 a NaN entry (greatest), else the magnitude. -/
def t8Dist (e x : FVal) : FVal :=
  match e, x with
  | .nan, _ => .nan
  | .inf a, .inf b => if a = b then .ex false 0 0 else .inf false
  | _, _ =>
    match (e.add 0 x.neg) with
    | .fin _ m k s => .fin false m k s
    | .inf _ => .inf false
    | .nan => .nan

/-- d1 < d0 among distances, a NaN distance being the greatest. -/
def distLt (d1 d0 : FVal) : Bool :=
  if d1.isNan then false else if d0.isNan then true else d1.lt d0

/-- The binary search of R171 from step 2^s down. -/
def t8Search (t : Nat → Nat) (x : FVal) : Nat → Nat → Nat
  | 0, lo => lo
  | s + 1, lo => t8Search t x s (if (t8Entry t (lo + 2 ^ s)).le x then lo + 2 ^ s else lo)

/-- The lowest code of the list with the least |T[k]|, NaN entries excluded. -/
def t8Least (t : Nat → Nat) : List Nat → Option (Nat × FVal) → Nat
  | [], best => match best with
    | some (k, _) => k
    | none => 0
  | k :: r, best =>
    let d := t8Dist (t8Entry t k) (.ex false 0 0)
    if d.isNan then t8Least t r best
    else match best with
      | none => t8Least t r (some (k, d))
      | some (_, b) => if d.lt b then t8Least t r (some (k, d)) else t8Least t r best

/-- t8_encode (R171). -/
def t8Encode (t : Nat → Nat) (x : FVal) : Nat :=
  let ks := List.range 256
  if x.isNan then (ks.find? fun k => (t8Entry t k).isNan).getD 0
  else if x.isZero && x.sign && !(ks.any fun k => (t8Entry t k).isZero && (t8Entry t k).sign) then
    match ks.find? (fun k => (t8Entry t k).isZero) with
    | some k => k
    | none => t8Least t ks none
  else
    let lo := t8Search t x 8 0
    if lo = 255 then 255
    else
      let d0 := t8Dist (t8Entry t lo) x
      let d1 := t8Dist (t8Entry t (lo + 1)) x
      if distLt d1 d0 then lo + 1
      else if distLt d0 d1 then lo
      else if lo % 2 = 0 then lo else lo + 1

/-! ## Element formats (R167, R174) -/

/-- The floating layout of an element format, none for integers, T8 and row codes. -/
def Fmt.spec : Fmt → Option FSpec
  | .f32 => some sF32
  | .f16 => some sF16
  | .bf16 => some sBF16
  | .e4m3 => some sE4M3
  | .e5m2 => some sE5M2
  | .e2m1 => some sE2M1
  | .t8 | .i8 | .i16 | .i32 | .n8 | .n16 | .n32 | .q8r | .q4r => none

/-- The exact value of an integer. -/
def FVal.ofInt (z : Int) : FVal := .ex (decide (z < 0)) z.natAbs 0

/-- Whether an integer format is signed. -/
def Fmt.signedInt : Fmt → Bool
  | .i8 | .i16 | .i32 => true
  | .f32 | .f16 | .bf16 | .e4m3 | .e5m2 | .e2m1 | .t8 | .n8 | .n16 | .n32 | .q8r | .q4r => false

/-- The exact value of an element of a format, through the decode table for T8 (R167, R170). Row codes decode
with their header (R169) and read here as plain unsigned codes. -/
def Fmt.value (f : Fmt) (t : Nat → Nat) (v : Nat) : FVal :=
  match f.spec with
  | some s => s.decode (v % 2 ^ f.width)
  | none =>
    match f with
    | .t8 => t8Entry t (v % 256)
    | _ => if f.signedInt then .ofInt (signed f.width v) else .ofInt (v % 2 ^ f.width : Nat)

/-- convert(v, fmt) (R174). -/
def Fmt.convert (f : Fmt) (t : Nat → Nat) (rd : Rnd) (ns : Bool) (v : FVal) : Nat :=
  match f.spec with
  | some s => s.convert rd ns v
  | none =>
    match f with
    | .t8 => t8Encode t v
    | _ => convertInt f.signedInt f.width rd v

/-- Whether an element format rounds by SR.RMODE into itself (R371): every floating format but T8. -/
def Fmt.rounds (f : Fmt) : Bool := f.spec.isSome

/-! ## Arithmetic in a format -/

/-- minimum or maximum of two encodings (R200): a single NaN yields the other operand bit for bit. -/
def FSpec.minmax (f : FSpec) (wantMax : Bool) (a b : Nat) : Nat :=
  let x := f.decode a
  let y := f.decode b
  if x.isNan && y.isNan then f.nanCode
  else if x.isNan then b
  else if y.isNan then a
  else if x.orderLe y then (if wantMax then b else a) else (if wantMax then a else b)

/-- a + b rounded once. -/
def FSpec.add (f : FSpec) (rd : Rnd) (a b : Nat) : Nat := f.convert rd false ((f.decode a).add rd.mode (f.decode b))
/-- a − b rounded once. -/
def FSpec.sub (f : FSpec) (rd : Rnd) (a b : Nat) : Nat := f.convert rd false ((f.decode a).add rd.mode (f.decode b).neg)
/-- a × b rounded once. -/
def FSpec.mul (f : FSpec) (rd : Rnd) (a b : Nat) : Nat := f.convert rd false ((f.decode a).mul (f.decode b))
/-- a / b rounded once. -/
def FSpec.div (f : FSpec) (rd : Rnd) (a b : Nat) : Nat := f.convert rd false ((f.decode a).div (f.decode b))
/-- √a rounded once. -/
def FSpec.sqrt (f : FSpec) (rd : Rnd) (a : Nat) : Nat := f.convert rd false (f.decode a).sqrt
/-- a × b + c, exact before its one rounding (R199, R275). -/
def FSpec.fma (f : FSpec) (rd : Rnd) (a b c : FVal) : Nat := f.convert rd false ((a.mul b).add rd.mode c)

/-- 2^a rounded once (R201): its bounds, and where they round apart the exact comparison. -/
def FSpec.exp2 (f : FSpec) (rd : Rnd) (a : Nat) : Nat :=
  let (lo, hi) := (f.decode a).exp2
  let x := f.convert rd false lo
  if x = f.convert rd false hi then x else f.convert rd false ((f.decode a).exp2Floor lo hi)

/-- log2 a rounded once (R201). -/
def FSpec.log2 (f : FSpec) (rd : Rnd) (a : Nat) : Nat := f.convert rd false (f.decode a).log2

end Sys2Proof
end

