-- ==== Sys2Proof/Machine/Flags.lean ====
section
/-! DEFINITION. Conditions and predicates: the comparisons of R204, R270, R273 and R277, and the
predicate values they write. -/

namespace Sys2Proof.Machine

/-- The predicate value of a scalar comparison: every bit set or clear (R270, R277). -/
def predOf (t : Bool) : W := if t then BitVec.allOnes 64 else 0

/-- A CMP condition on two registers (R27, R270). -/
def cmpHolds (c : CmpCond) (a b : W) : Bool :=
  match c with
  | .eq => a == b
  | .ne => a != b
  | .lt => a.slt b
  | .ge => !(a.slt b)
  | .ltu => a.ult b
  | .geu => !(a.ult b)
  | .le => !(b.slt a)
  | .gt => b.slt a
  | .leu => !(b.ult a)
  | .gtu => b.ult a

/-- A CMPI condition (R27, R270). -/
def cmpiHolds (c : CmpiCond) (a b : W) : Bool :=
  match c with
  | .eq => a == b
  | .ne => a != b
  | .lt => a.slt b
  | .ge => !(a.slt b)

/-- A BR condition: a register compared with zero, signed (R273). -/
def brHolds (c : BrCond) (a : W) : Bool :=
  match c with
  | .eq => a == 0
  | .ne => a != 0
  | .lt => a.slt 0
  | .ge => !(a.slt 0)
  | .gt => BitVec.slt 0 a
  | .le => !(BitVec.slt 0 a)

/-- A BP condition over the low `n` bits of a predicate (R273). -/
def bpHolds (c : BpCond) (n : Nat) (p : W) : Bool :=
  let m := p.toNat % 2 ^ n
  match c with
  | .any => m != 0
  | .all => m == 2 ^ n - 1
  | .none => m == 0
  | .b0 => p.getLsbD 0
  | .nb0 => !p.getLsbD 0

/-- An FCMP condition (R277). -/
def fcmpHolds (c : FcmpCond) (a b : FVal) : Bool :=
  let un := a.isNan || b.isNan
  match c with
  | .eq => a.eqv b
  | .ne => un || !(a.eqv b)
  | .lt => a.lt b
  | .le => a.le b
  | .un => un

/-- A VCMP condition on floating lanes (R204). -/
def vcmpFloat (c : VcmpCond) (a b : FVal) : Bool :=
  match c with
  | .eq => a.eqv b
  | .ne => !(a.eqv b)
  | .lt => a.lt b
  | .le => a.le b

/-- A VCMP condition on integer lanes (R204). -/
def vcmpInt (c : VcmpCond) (a b : Int) : Bool :=
  match c with
  | .eq => a == b
  | .ne => a != b
  | .lt => decide (a < b)
  | .le => decide (a ≤ b)

/-- PLOG's truth table, bit by bit (R272). -/
def plog (tt : BitVec 4) (a b : W) : W :=
  let row (i : Nat) (v : W) : W := if tt.getLsbD i then v else 0
  row 0 (~~~a &&& ~~~b) ||| row 1 (~~~a &&& b) ||| row 2 (a &&& ~~~b) ||| row 3 (a &&& b)

end Sys2Proof.Machine
end

