-- ==== Sys2Proof/Machine/State.lean ====
section
/-! DEFINITION. The state of the module as plain data: cores, L1s, home slices, main memory, mesh
packets, transfers, maps in growth, contexts, firmware, host interface and monitors; why a step
stops; and the state after a cold reset. -/

namespace Sys2Proof.Machine

/-- Bytes of a memory: addresses strictly rising, no entry equal to 0, which unlisted addresses read as. -/
abbrev Memory := List Host.Cell

/-- Why a step stops with a fault. -/
inductive Fault where
  /-- HOST_CXL_MEM_ACCESS at a physical address outside the HDM decoder's range (R330, R331), where the
  spec says there is nothing. Safe: the model stops where the outside did what the part does not offer. -/
  | unpopulated (pa : Nat)
  deriving DecidableEq, Repr

/-- Why a step is refused. -/
inductive Refusal where
  /-- Raised by an arm of the dispatch whose instruction has no meaning yet. Safe. -/
  | notModelled (mnemonic : String)
  deriving DecidableEq, Repr

/-! ## Mesh endpoints, requests and packets -/

/-- An endpoint of mesh traffic (R147). -/
inductive Endpoint where
  | core (n : Nat)
  | slice (n : Nat)
  | porter (n : Nat)
  | mgmt (die : Nat)
  | hostAgent
  | peerAgent (port : Nat)
  deriving DecidableEq, Repr

/-- The lane a packet travels on (R147, R148). -/
inductive Plane where
  | request
  | reply
  | bulk
  deriving DecidableEq, Repr

/-- The task bank a request belongs to: core, HI or LO, and the context and mode it carries (R53). -/
structure Requester where
  core : Nat
  hi : Bool
  ctx : Option Nat
  sup : Bool
  deriving DecidableEq, Repr

/-- A read-modify-write at a home or an owner port (R106, R107, R158). -/
inductive Rmw where
  | amo (op : AmoOp) (operand : Nat)
  | cas (expected new : Nat)
  deriving DecidableEq, Repr

/-- Full/empty operations at an owner port (R87). -/
inductive FullOp where
  | ldf
  | ldfe
  | stf (v : Nat)
  deriving DecidableEq, Repr

/-- The operation a map request carries (R129–R142). -/
inductive MapKind where
  | probe
  | insert
  | upsert (op : MapOp)
  | remove
  | cas
  | rowGet (dst : Nat)
  | rowPut (bytes : List Byte)
  | scan (bucket skip dst cap : Nat)
  | stat (item : Nat)
  | repl (mark : Bool)
  deriving DecidableEq, Repr

/-- The map that an instruction names: its handle, the physical address of its descriptor slot, and the address
space it was named in, with the core whose translations serve it (R120). -/
structure MapRef where
  handle : Nat
  slot : Nat
  core : Nat
  asid : Nat
  root : Nat
  deriving DecidableEq, Repr

/-- A map request (R127): its map, key, hash, bucket and hops, and for each lane its number and operand. A scalar
form has the one lane 0. `first`: it makes a stop before its bucket (R140, R144). -/
structure MapReq where
  req : Requester
  kind : MapKind
  vec : Bool
  map : MapRef
  key : Nat
  hash : Nat
  bucket : Nat
  hops : Nat
  lanes : List (Nat × Nat)
  first : Bool
  deriving DecidableEq, Repr

/-- What a failed check reports: the cause code of R308 and its SR.TRAPV value. -/
structure Trap where
  code : Nat
  v : W
  deriving DecidableEq, Repr

/-- The answer of one lane of a map request (R127): code of R124, value words, and a failure. -/
structure LaneAns where
  lane : Nat
  code : Nat
  vals : List Nat
  fail : Option Trap
  deriving DecidableEq, Repr

/-- A range template (R284): PC, arguments and the six field widths. -/
structure Template where
  pc : Nat
  arg0 : W
  arg1 : W
  widths : List Nat
  deriving DecidableEq, Repr

/-- A deque entry (R285). `firm`: it was pushed while its core held no task and no pre-emption request waited, so the
core fires it before it takes one (R355). -/
structure WRange where
  lo : W
  hi : W
  tpl : Template
  src : Nat
  firm : Bool
  deriving DecidableEq, Repr

/-- A latch slot's content (R230): tile, format, 128 scale bytes, TSCALE. -/
structure LatchTile where
  bytes : BitVec 16384
  fmt : Fmt
  scales : List Byte
  tscale : BitVec 32
  deriving DecidableEq, Repr

/-- One access of a global tile (R226): runs (virtual address, physical address, and length or bytes). -/
inductive TileOp where
  | read (runs : List (Nat × Nat × Nat))
  | write (runs : List (Nat × Nat × List Byte))
  deriving DecidableEq, Repr

/-- A remote tile store (R225): the elements in F32 with the rounding mode and STATE, or raw rows of bytes. -/
inductive TilePay where
  | elems (mode : Nat) (rng : W) (codes : List Nat)
  | raw (rows : List (List Byte))
  deriving DecidableEq, Repr

/-- What a packet carries. -/
inductive Body where
  -- registration and caching (R91–R95)
  | regReq (line mask va full : Nat)
  | regGrant (line mask ver : Nat) (values : List (Nat × Nat)) (bad : Nat)
  | missReq (line sectors id : Nat) (got : List (Nat × Nat)) (asked : Bool)
  | fwdReq (line mask : Nat)
  | fwdAns (line : Nat) (values : List (Nat × Nat))
  | fill (line sectors id poison : Nat) (values : List (Nat × Nat))
  | recall (line mask : Nat)
  | recallAns (line dirty : Nat) (vas : Tbl Nat) (values : List (Nat × Nat)) (late : List (Nat × Nat))
  | wback (id line ver : Nat) (vas : Tbl Nat) (words : List (Nat × Nat × Bool))
  | resend (line ver mask : Nat)
  | wbackAck (id : Nat)
  -- atomics and tiles at homes, reply to the issuer (R106, R226)
  | amo (r : Requester) (pa n va : Nat) (op : Rmw)
  | tile (r : Requester) (op : TileOp)
  | tileData (bytes : List (List Byte))
  | tileDone
  | tileFailed (t : Trap)
  -- owner port arrivals (R151–R158)
  | rld (r : Requester) (addr n : Nat) (nib : Option Bool)
  | rst (r : Requester) (addr n v : Nat) (nib : Option Bool) (entry : Nat)
  | ramo (r : Requester) (addr n : Nat) (op : Rmw)
  | tileStore (r : Requester) (addr pitch : Nat) (pay : TilePay) (entry : Nat)
  | tileLoad (r : Requester) (addr pitch : Nat)
  | fullOp (r : Requester) (addr n : Nat) (op : FullOp)
  | feclr (r : Requester) (addr len : Nat)
  | cancel (r : Requester)
  -- replies to a stalled task (R248): values, or a failure
  | reply (hi : Bool) (vals : List Nat)
  | failed (hi : Bool) (t : Trap)
  | cancelled (hi : Bool)
  -- posted stores (R153)
  | ack (entry : Nat)
  | refusal (entry cause : Nat)
  -- barrier records (R292)
  | barRead (r : Requester) (addr : Nat) (pa : Option Nat)
  | barUpdate (r : Requester) (addr : Nat) (pa : Option Nat) (bytes : Nat)
  | barPark (r : Requester) (addr : Nat) (pa : Option Nat) (seen : Nat)
  | barDec (xfer addr : Nat) (pa : Option Nat) (bytes : Nat)
  -- messages (R159–R162)
  | msg (r : Requester) (ch : Nat) (words : List W) (entry : Option Nat)
  | code (r : Requester) (halves : List HW)
  | msgStatus (hi : Bool) (status : Nat)
  -- matrix commands and tile exchange (R164, R166)
  | mxcmd (r : Requester) (cap word operand done : W)
  | mxDone (r : Requester) (addr : Nat)
  | mxStatus (hi : Bool) (status : Nat)
  | tswap (count : Nat)
  | tswapTile (count : Nat) (bytes : List Byte) (bad : List Nat)
  -- operand latch ring (R231, R232)
  | latch (ctx : Option Nat) (t : LatchTile)
  | credit
  -- maps (R122, R143)
  | mapReq (m : MapReq)
  | mapReply (hi vec : Bool) (hops : Nat) (lanes : List LaneAns) (lvl : Option (Nat × Nat))
  | arenaAlloc (growth n : Nat)
  | arenaFree (g : Nat) (idx : List Nat)
  | growth (map : MapRef)
  | splitCmd (growth : Nat)
  | splitReport (growth : Nat) (done : Bool) (fault : Bool)
  | repFill (map key ver : Nat) (bytes : List Byte)
  | filled (map key ver : Nat) (room : Bool)
  | repConfirm (map key ver : Nat) (ok : Bool)
  | repInval (map key : Nat)
  | invalAck (map key : Nat)
  -- scheduler (R287, R301)
  | steal (r : Requester) (instr : Bool)
  | stealAns (hi instr : Bool) (status : Nat) (range : Option WRange)
  | launch (r : Requester) (range : WRange) (live : W) (win : Option Nat)
  | launchAns (hi : Bool) (win : Option Nat) (status : Nat)
  -- transfers (R70, R83, R86)
  | piece (xfer idx : Nat) (r : Requester) (addr : Nat) (write : Option (List Byte)) (full : Bool) (add : Option Nat)
  | slotRet (src n : Nat)
  -- firmware (R100, R305)
  | ctxStop (ctx : Nat)
  | flipMarker (page slice : Nat)
  deriving DecidableEq, Repr

/-- A packet in the mesh; the list that holds it keeps the order of sending. -/
structure Packet where
  src : Endpoint
  dst : Endpoint
  plane : Plane
  body : Body
  deriving DecidableEq, Repr

/-! ## Cores -/

/-- The idempotent marker (R299): restart point and the copy of X8–X15. -/
structure Idem where
  pc : Nat
  xs : List W
  deriving DecidableEq, Repr

/-- What a stalled task waits for. `len` is the length of the stalled instruction in halfwords. -/
inductive Wait where
  | none
  /-- A value (or status) for X[d], extended from `bits` bits; `cancellable` by R314. -/
  | value (d : Reg) (sx : Bool) (bits len : Nat) (cancellable : Bool)
  /-- Two halves for X[d], X[d+1] (CAS2). -/
  | pair (d : Reg) (len : Nat)
  /-- A scalar map reply: destination, predicate (none for MUPSERT), the words it writes to registers, the
  scratchpad offset for the bytes that follow, and its handle, first cycle and monitors. -/
  | map (d : Reg) (k : Option PReg) (words : Nat) (spad : Option Nat) (handle start mask : Nat)
  /-- A vector map form: the same, lanes below VL, replies owed, answers and largest hop count so far. -/
  | mapV (d : Reg) (k : Option PReg) (words vl owed : Nat) (got : List LaneAns) (hops handle start mask : Nat)
  /-- BARV: 0 before its read of word 0, 1 while it reads, 2 + SCOPE while it releases, 6 while it updates. -/
  | barv (d : Reg) (stage : Nat)
  /-- BARW parked on a record (R304); the reply carries PHASE and SCOPE. -/
  | barw (d : Reg)
  /-- TSWAP number `count` of this core (R164). -/
  | tswap (count : Nat)
  /-- WAIT, with the cycles that SR.CYC has still to advance. -/
  | cycles (left : Nat)
  /-- LAUNCH.H: parts still to send, parts dropped, whether one is in flight, cycle of the next try. -/
  | parts (d : Reg) (todo : List (Nat × WRange)) (live : W) (dropped : Nat) (flying : Bool) (retry : Nat)
  deriving DecidableEq, Repr

/-- A load or a release store that is put off: later accesses may be performed before it (R245, R252). Its checks and
translations are done; it has no physical address in the own scratchpad. A load names its register, extension and size (16 for
a pair); `store` holds the value of a release store. -/
structure Late where
  d : Reg
  sx : Bool
  n : Nat
  va : Nat
  pas : List Nat
  store : Option Nat
  deriving DecidableEq, Repr

/-- A misaligned global access under way, byte by byte (R103): its physical addresses, and the bytes performed. -/
structure Bytewise where
  pas : List Nat
  done : List Byte
  deriving DecidableEq, Repr

/-- A task in one register bank (R284, R188). `fail` is what its stalled instruction raises when the task next runs,
with SKIP set when `skip` (R370). `stalled`: its instruction at the pc has issued and waits inside the core, so the
task is at no instruction boundary. `late` holds its put-off accesses, `bytewise` its misaligned access under way.
`stale` holds halfwords of instruction memory as they were before
a write that came while the task ran (R52). -/
structure Task where
  hi : Bool
  entry : Nat
  carried : Bool
  code : List HW
  stale : List (Nat × HW)
  pc : Nat
  sup : Bool
  x : Tbl W
  p : Tbl W
  wid : W
  src : Nat
  tpl : Option Template
  idem : Option Idem
  wait : Wait
  fail : Option Trap
  skip : Bool
  stalled : Bool
  late : List Late
  bytewise : Option Bytewise
  count : Nat
  service : Bool
  deriving DecidableEq, Repr

/-- Banked system registers (R189). -/
structure Bank where
  rmode : Nat
  rng : W
  mst : W
  deriving DecidableEq, Repr

/-- An instruction passed to the vector/matrix stream with its captured X values (R191), its first 32 bits, its
task's mode, and the Waybill entry it took when passed (R225). `xdead` are X registers whose result a later scalar
instruction has replaced, `pvs` the P registers that such an instruction has replaced, with their place in `VecUnit.pv`
(R192). -/
structure VItem where
  instr : Instr
  word : W
  caps : List (Nat × W)
  sup : Bool
  pc : Nat
  marked : Bool
  entry : Option Nat
  xdead : List Nat
  pvs : List (Nat × Nat)
  deriving DecidableEq, Repr

/-- An entry of the vector/matrix instruction queue: one instruction, or a replay of a recording. -/
structure VEntry where
  items : List VItem
  stride : Nat
  fmask : Nat
  count : Nat
  iter : Nat
  pos : Nat
  replay : Bool
  deriving DecidableEq, Repr

/-- An open recording of the repetition buffer (R214). -/
structure Recording where
  items : List VItem
  stride : Nat
  fmask : Nat
  pmask : Nat
  count : Nat
  pc : Nat
  deriving DecidableEq, Repr

/-- A fault of the vector/matrix stream held with its SR.REPST values (R312). -/
structure VFault where
  trap : Trap
  pc : Nat
  repst : W
  deriving DecidableEq, Repr

/-- A stream register's binding (R84): channel, ID, base, length, position, reader (0 none, 1 scalar, 2 vector). -/
structure Binding where
  ch : Nat
  id : Nat
  base : Nat
  len : Nat
  pos : Nat
  reader : Nat
  deriving DecidableEq, Repr

/-- The vector/matrix unit: registers, queues, streams, latch, instruction queue and repetition buffer, and the values
of replaced P registers that queued instructions go on using. -/
structure VecUnit where
  v : Tbl (BitVec 2048)
  t : Tbl (BitVec 32768)
  sa : Tbl (BitVec 32)
  sb : Tbl (BitVec 32)
  cur : Option LatchTile
  inc : Option (Nat × LatchTile)
  q : Tbl (List W)
  s : Tbl Binding
  vl : Nat
  viq : List VEntry
  pv : List W
  wait : Bool
  reply : Option (List (List Byte))
  failed : Option Trap
  fault : Option VFault
  stopped : Bool
  recording : Option Recording
  mxWait : Bool
  deriving DecidableEq, Repr

/-- A handler entry (R280), by its fields. -/
structure Handler where
  v : Bool
  hi : Bool
  prio : Nat
  cons : Nat
  prod : Nat
  mask : Bool
  ch : Nat
  depth : Nat
  rmask : Nat
  pc : Nat
  deriving DecidableEq, Repr

/-- An inbox word with its tag (R160, R317). -/
structure InboxWord where
  w : W
  src : Nat
  ch : Nat
  first : Bool
  deriving DecidableEq, Repr

/-- A carried-code queue entry (R162). -/
structure CodeEntry where
  halves : List HW
  src : Nat
  deriving DecidableEq, Repr

/-- A queued matrix command (R166). -/
structure MxCmd where
  word : BitVec 32
  operand : W
  done : W
  src : Nat
  deriving DecidableEq, Repr

/-- The scheduler's state of a core. `abandoned`: the steal round whose request is in flight was abandoned (R289). -/
structure Sched where
  handlers : Tbl Handler
  recency : List Nat
  starve : Tbl Nat
  hiRun : Nat
  resel : Bool
  inbox : List InboxWord
  codeq : List CodeEntry
  deque : List WRange
  held : Nat
  roundLeft : List Nat
  stealing : Bool
  abandoned : Bool
  backoff : Nat
  deriving DecidableEq, Repr

/-- A Waybill entry (R155). STATE: 0 free, 1 outstanding, 2 refused. -/
structure WbEntry where
  target : W
  data : List W
  pc : Nat
  task : Nat
  kind : Nat
  state : Nat
  cause : Nat
  seq : Nat
  deriving DecidableEq, Repr

/-- A waiter on a full bit (R87). -/
structure FullWaiter where
  r : Requester
  addr : Nat
  n : Nat
  take : Bool
  deriving DecidableEq, Repr

/-- A BARW parked on a record in this scratchpad or at a home (R304). -/
structure BarWaiter where
  r : Requester
  key : Nat
  seen : Nat
  deriving DecidableEq, Repr

/-- The memories a core owns: scratchpad, full bits, instruction memory, windows, decode table. `passed`: its port has
taken an own access while an arrival from the mesh waited there, and takes the arrival next (R358). -/
structure Local where
  spad : Memory
  full : Memory
  poison : Tbl Bool
  imem : Memory
  win : Tbl W
  tscale : Tbl W
  table : Tbl (BitVec 32)
  fullWait : List FullWaiter
  barWait : List BarWaiter
  passed : Bool
  deriving DecidableEq, Repr

/-- Host state of a sector (R97). -/
inductive HostState where
  | i
  | s
  | e
  | m
  | o
  deriving DecidableEq, Repr

/-- A line of an L1 (R89). Masks count words (64) or sectors (4); `pend` and `bytes` hold the words that wait
for their grant and the bytes stored to them; `vas` gives the virtual address of the last store to a word. `units` are
the masks of stores to several words that are not performed yet, and `old` the value and DRT that other agents meet in
the registered words of those. `used` is the time of the last use. -/
structure L1Line where
  vas : Tbl Nat
  units : List Nat
  old : Tbl (Nat × Bool)
  sv : Nat
  reg : Nat
  drt : Nat
  pend : Nat
  bytes : Nat
  hs : List HostState
  psn : Nat
  lv : Nat
  data : Tbl Byte
  used : Nat
  deriving DecidableEq, Repr

/-- A writeback buffer (R94): line, version, words not recalled from it (word, value, dirty), and their stores. -/
structure WBuf where
  id : Nat
  line : Nat
  vas : Tbl Nat
  ver : Nat
  words : List (Nat × Nat × Bool)
  deriving DecidableEq, Repr

/-- The L1 (R89): lines, outstanding sector requests (line, sector, request), writeback buffers, and a count
of its accesses, which orders uses and names requests. -/
structure L1 where
  lines : Tbl L1Line
  missing : List (Nat × Nat × Nat)
  wb : List WBuf
  clock : Nat
  deriving DecidableEq, Repr

/-- A TLB entry (R320). -/
structure TlbEntry where
  asid : Nat
  g : Bool
  sz : Nat
  page : Nat
  ppn : Nat
  u : Bool
  w : Bool
  deriving DecidableEq, Repr

/-- The system registers of a core that are not banked (R189, R306, R324). -/
structure Regs where
  cyc : W
  mlane : W
  oobcnt : W
  cnext : Tbl Nat
  cdone : Tbl Nat
  ringNext : Nat
  cr : Bool
  rprot : Bool
  mcr : Tbl Nat
  mcs : Tbl Nat
  cap : W
  stealCnt : Nat
  stealScope : Nat
  budget : Nat
  trapc : W
  trappc : W
  trapv : W
  tstat : W
  tvec : W
  tscr : W
  pend : List Trap
  lost : Bool
  live : W
  dtab : W
  asid : W
  ptroot : W
  repst : W
  deriving DecidableEq, Repr

/-- One core (R7). -/
structure Core where
  ctx : Option Nat
  stopped : Bool
  quiescing : Bool
  quiet : Bool
  lo : Option Task
  hi : Option Task
  bankLo : Bank
  bankHi : Bank
  vu : VecUnit
  sched : Sched
  regs : Regs
  lcl : Local
  l1 : L1
  tlb : List TlbEntry
  walkFail : List (Nat × Nat)
  dcache : List (Nat × Nat × Nat)
  waybill : Tbl WbEntry
  seq : Nat
  mxq : List MxCmd
  calls : List (Nat × W × W)
  tswSent : Nat
  tswGot : Nat
  tswOff : Option Nat
  tswTile : Bool
  abortRec : Option Task
  deriving DecidableEq, Repr

/-! ## Homes, memory, controllers -/

/-- A registry entry of a line (R90): registrants by word, V, late recalls (core, word, LV), time of the last
grant, words being recalled, whether the entry is being reclaimed, and the words of stale writebacks that arrived and
that their writer was asked to send again (R95). -/
structure HomeLine where
  owner : Tbl Nat
  ver : Nat
  late : List (Nat × Nat × Nat)
  granted : Nat
  recalling : List Nat
  reclaim : Bool
  resent : List (Nat × Nat × Nat)
  deriving DecidableEq, Repr

/-- A hot key's mark (R142, R143): the map's slot and handle as one number, the key, the row's bytes (physical
address, length), its version, the dies whose replica is confirmed and those being filled; `busy` while an update
withdraws its replicas, with the acknowledgements still owed. -/
structure HotMark where
  map : Nat
  key : Nat
  row : List (Nat × Nat)
  ver : Nat
  dies : List Nat
  filling : List Nat
  busy : Bool
  acks : Nat
  deriving DecidableEq, Repr

/-- A replica of a hot row (R143). -/
structure Replica where
  map : Nat
  key : Nat
  ver : Nat
  confirmed : Bool
  bytes : List Byte
  deriving DecidableEq, Repr

/-- A home slice's own state. -/
structure Slice where
  filterA : Tbl Bool
  filterB : Tbl Bool
  activeB : Bool
  missCount : Nat
  present : List Nat
  marks : List HotMark
  replicas : List Replica
  deriving DecidableEq, Repr

/-- Whose request a controller has: a piece of a transfer, the fetch of a line by its home, or the save or restore of a
context, with whether a word saved is poisoned (R39). -/
inductive Origin where
  | xfer (x idx : Nat)
  | fetch (line : Nat)
  | save (ctx : Nat) (bad : Bool)
  deriving DecidableEq, Repr

/-- A request at an HBM controller (R38), a read where it writes nothing, with the monitors that time its line piece. -/
structure CtlReq where
  granule : Nat
  write : List (Nat × Byte)
  origin : Origin
  deadline : Option Nat
  arrived : Nat
  promoted : Bool
  mask : Nat
  deriving DecidableEq, Repr

/-- A request parked at a home: the packet, handled again when its wait ends, and for a map request the physical
address of the bucket that it queues at (R122). -/
structure Parked where
  pkt : Packet
  bucket : Option Nat
  deriving DecidableEq, Repr

/-- A CXL exchange under way (R97). -/
structure Exchange where
  sector : Nat
  own : Bool
  deriving DecidableEq, Repr

/-- A page walk (R320, R321): the requesters (core, and 0 for its LO task, 1 HI task, 2 vector/matrix stream),
ASID, root, VA, and its result once walked. -/
structure Walk where
  who : List (Nat × Nat)
  asid : Nat
  ptroot : Nat
  va : Nat
  result : Option (Option TlbEntry)
  dead : Bool
  deriving DecidableEq, Repr

/-! ## Transfers -/

/-- Where one end of a piece lies (R70). -/
inductive Spot where
  /-- Global virtual address. -/
  | global (va : Nat)
  /-- Scratchpad address of region 0x8 in canonical form. -/
  | scratch (addr : Nat)
  /-- Peer device and peer virtual address. -/
  | peer (dev va : Nat)
  /-- Nothing: fill bytes on reading, dropped on writing (R72). -/
  | fill (bytes : List Byte)
  deriving DecidableEq, Repr

/-- A piece: source, destination, length, and progress. Phase 0: its source is read, part by part; 1: a far port, a
controller or a peer was asked; 2: read; 3: sent or queued; 4: written. `landed` bytes are written at a local
destination. `holes` are byte ranges whose source was poisoned, which are not written (R43). -/
structure Piece where
  src : Spot
  dst : Spot
  len : Nat
  phase : Nat
  landed : Nat
  data : List Byte
  holes : List (Nat × Nat)
  deriving DecidableEq, Repr

/-- A transfer (R65–R77): the copy and its issuer, its pieces, what completion needs, its first error, the local
range, the far side, for PUTR its group, round, operation and type, and the chunks final; `lost`: its XFER trap was
dropped, and SR.CDONE does not pass it (R309). `stop`: its error ends its other reads and writes (R77). -/
structure Xfer where
  op : Nat
  core : Nat
  ctx : Option Nat
  sup : Bool
  asid : Nat
  ptroot : Nat
  ch : Nat
  id : Nat
  pieces : List Piece
  add : Option Nat
  full : Bool
  deadline : Option Nat
  aux : Option (Nat × Option Nat)
  bend : Bool
  decSent : Bool
  decDone : Bool
  nominal : Nat
  oob : Nat
  err : Option Nat
  stop : Bool
  fin : Bool
  base : Nat
  len : Nat
  loc : Nat
  far : Spot
  group : Option (Nat × Nat × Nat × Nat)
  chunks : Nat
  lost : Bool
  deriving DecidableEq, Repr

/-- A reduction round of a group (R339, R341): joined members with their transfers, the members of other devices that
have joined with their LEN, ROP and RTY, and the chunks final. -/
structure Round where
  number : Nat
  joined : List (Nat × Nat)
  far : List (Nat × Nat × Nat × Nat)
  final : List Nat
  deriving DecidableEq, Repr

/-- A group table entry (R338). -/
structure Group where
  valid : Bool
  down : Bool
  slack : Nat
  members : List Nat
  counts : Tbl Nat
  rounds : List Round
  deriving DecidableEq, Repr

/-- A growth step of a map (R121): the descriptor that its claim read, which it goes on using (R58), level and split
pointer, the physical address of bucket S, and the buckets reserved. Stage: 0 commanded, 1 at the home of bucket S,
2 locked and reserving, 3 reserved, 4 reported, 5 over. -/
structure Growth where
  map : MapRef
  desc : Nat
  l : Nat
  s : Nat
  pa : Nat
  stage : Nat
  reserved : List Nat
  deriving DecidableEq, Repr

/-! ## Contexts, firmware, host -/

/-- State of a context (R335). -/
inductive CtxState where
  | fresh
  | running
  | saved
  | failed
  deriving DecidableEq, Repr

/-- A context (R335): page tables, descriptor table, save areas, peers, pre-emption; `moving` while the traffic of its
copy or of its restore is under way (R39, R315). -/
structure Context where
  state : CtxState
  ptroot : Nat
  dtab : Nat
  areas : List (Nat × Nat)
  peers : Tbl (Nat × Nat)
  preempt : Option (CmdHead × Bool)
  moving : Bool
  deriving DecidableEq, Repr

/-- A queued launch (R332): ARG0, ARG1 and GO as they stood, and the number of the first host write posted later (R333). -/
structure Launch where
  arg0 : W
  arg1 : W
  go : W
  before : Nat
  deriving DecidableEq, Repr

/-- A launch window (R332): ARG0, ARG1, queued launches, one in flight, STATUS. -/
structure Window where
  arg0 : W
  arg1 : W
  queue : List Launch
  flying : Bool
  result : Nat
  pushed : Nat
  deriving DecidableEq, Repr

/-- A command slot (R334): running flag, completion code, TAG, results, and the bytes the host wrote to it. While the
command has not taken effect, `waits` holds its head and parameters, the context it names and the time of its start. -/
structure CmdSlot where
  running : Bool
  code : Nat
  tag : Nat
  irq : Bool
  out : List Nat
  param : Memory
  waits : Option (CmdHead × List Nat)
  ctx : Option Nat
  since : Nat
  deriving DecidableEq, Repr

/-- A machine check (R305, R42, R123, R369). -/
inductive MCheck where
  | doubleTrap (core code : Nat) (v pc : W)
  | granule (g : Nat)
  | mapGrowth (handle : Nat)
  | link (n : Nat)
  | parity (core : Nat)
  | power
  | overTemp (die : Nat)
  deriving DecidableEq, Repr

/-- An entry of the EVENTS log (R335, R366, R369). -/
inductive LogEntry where
  | check (die : Nat) (m : MCheck)
  | ctxFailed (ctx : Nat)
  | clock (die mhz : Nat)
  | port (n : Nat) (up : Bool)
  deriving DecidableEq, Repr

/-- A monitor block (R362). -/
structure Monitor where
  ctl : W
  count : Nat
  min : Nat
  max : Nat
  sum : Nat
  hist : Tbl Nat
  deriving DecidableEq, Repr

/-- A page's bias flip (R100): markers arrived, host sectors still to snoop. -/
structure Flip where
  page : Nat
  toHost : Bool
  arrived : List Nat
  head : CmdHead
  deriving DecidableEq, Repr

/-- An SPDM response (R343). -/
inductive SpdmResp where
  | version (supported : List Nat)
  | capabilities (keyExchange sessions : Bool)
  | algorithms (ok : Bool)
  | digests (d : List Nat)
  | certificate (bytes : List Byte)
  | challengeAuth (ecdsa lms : List Byte)
  | measurements (values : List (Nat × Nat)) (sig : Option (List Byte × List Byte))
  | unspecified
  deriving DecidableEq, Repr

/-- Firmware and attestation state (R342, R343). -/
structure Firmware where
  patchVersion : Nat
  patchDigest : Nat
  runtimeDigest : Nat
  lmsUsed : Nat
  transcript : Nat
  response : Option SpdmResp
  deriving DecidableEq, Repr

/-- The whole module. The agents' turns and the free values' counters (`turn`, `tick`, `fresh`) are the model's own.
`net` holds the packets in the mesh and `held` those that reached their endpoints and wait there; `hostPosted` the
host's writes that wait, by number (R333); `hostGot` what the host's last read returned; `booting` holds from a reset
until its step 6 completes (R368). -/
structure State where
  turn : Turn
  tick : Nat
  fresh : Nat
  cores : Tbl Core
  mem : Memory
  hostMem : Memory
  poison : Tbl Bool
  latent : Tbl Bool
  hostBias : Tbl Bool
  hostSectors : Tbl HostState
  homeLines : Tbl HomeLine
  slices : Tbl Slice
  net : List Packet
  held : List Packet
  parked : List Parked
  exchanges : List Exchange
  walks : List Walk
  dieTlb : Tbl (List TlbEntry)
  homeBar : List BarWaiter
  ctls : Tbl (List CtlReq)
  xfers : List Xfer
  groups : Tbl Group
  downPorts : Tbl Bool
  replays : Tbl Nat
  growths : List Growth
  flips : List Flip
  contexts : Tbl Context
  windows : Tbl Window
  slots : Tbl CmdSlot
  msix : Nat
  checks : List (Nat × MCheck)
  log : List LogEntry
  monitors : Tbl Monitor
  clocks : Tbl Nat
  hot : Nat
  ended : Bool
  releases : List (Nat × Nat × CmdHead)
  runtimeCalls : List (CmdHead × Nat)
  fw : Firmware
  hostBase : Nat
  hostSize : Nat
  hostPosted : List (Nat × Nat × List Byte)
  postedNext : Nat
  hostGot : List Byte
  booting : Bool
  deriving DecidableEq, Repr

/-! ## Reset -/

/-- Banked registers at reset (R172, R173, R124). -/
def Bank.reset : Bank := { rmode := 0, rng := 0, mst := 0 }

/-- An empty handler entry (R280). -/
def Handler.reset : Handler :=
  { v := false, hi := false, prio := 0, cons := 0, prod := 0, mask := false, ch := 0, depth := 0, rmask := 0, pc := 0 }

/-- The vector/matrix unit at reset and at task entry (R190, R217). -/
def VecUnit.reset : VecUnit :=
  { v := [], t := [], sa := [], sb := [], cur := none, inc := none, q := [], s := [], vl := 64, viq := [], pv := [],
    wait := false, reply := none, failed := none, fault := none, stopped := false, recording := none,
    mxWait := false }

/-- The scheduler at reset: recency in ascending index (R282). -/
def Sched.reset : Sched :=
  { handlers := [], recency := List.range 33, starve := [], hiRun := 0, resel := false, inbox := [], codeq := [],
    deque := [], held := 0, roundLeft := [], stealing := false, abandoned := false, backoff := 0 }

/-- The unbanked system registers at reset, by their Reset columns. -/
def Regs.reset : Regs :=
  { cyc := 0, mlane := 0, oobcnt := 0, cnext := [], cdone := [], ringNext := 0, cr := true, rprot := false,
    mcr := [], mcs := [], cap := 0, stealCnt := 0, stealScope := 3, budget := 0x400000, trapc := 0, trappc := 0,
    trapv := 0, tstat := 0, tvec := 0, tscr := 0, pend := [], lost := false, live := 0, dtab := 0, asid := 0,
    ptroot := 0, repst := 0 }

/-- A core's memories at reset. Scratchpad, full bits and instruction memory read as zero (assumption 6). -/
def Local.reset : Local :=
  { spad := [], full := [], poison := [], imem := [], win := [], tscale := [], table := [],
    fullWait := [], barWait := [], passed := false }

/-- An empty L1 (R368 step 2). -/
def L1.reset : L1 := { lines := [], missing := [], wb := [], clock := 0 }

/-- A core at reset (R368 step 5): it holds no context and no task. -/
def Core.reset : Core :=
  { ctx := none, stopped := false, quiescing := false, quiet := false, lo := none, hi := none,
    bankLo := Bank.reset, bankHi := Bank.reset, vu := VecUnit.reset, sched := Sched.reset, regs := Regs.reset,
    lcl := Local.reset, l1 := L1.reset, tlb := [], walkFail := [], dcache := [], waybill := [], seq := 0, mxq := [],
    calls := [], tswSent := 0, tswGot := 0, tswOff := none, tswTile := false, abortRec := none }

/-- A slice at cold reset (R35): empty filters; the rule does not say which filter is the active one, here A
(DESIGN CHOICE, assumption 77). -/
def Slice.reset : Slice :=
  { filterA := [], filterB := [], activeB := false, missCount := 0, present := [], marks := [], replicas := [] }

/-- An empty Waybill entry (R155). -/
def WbEntry.free : WbEntry :=
  { target := 0, data := [], pc := 0, task := 0, kind := 0, state := 0, cause := 0, seq := 0 }

/-- A registry entry when it is created (R90). -/
def HomeLine.new : HomeLine :=
  { owner := [], ver := 0, late := [], granted := 0, recalling := [], reclaim := false, resent := [] }

/-- A monitor block at reset (R362): MIN is all ones and MAX 0 as after clearing (assumption 7). -/
def Monitor.reset : Monitor := { ctl := 0, count := 0, min := 2 ^ 64 - 1, max := 0, sum := 0, hist := [] }

/-- A launch window at reset. -/
def Window.reset : Window :=
  { arg0 := 0, arg1 := 0, queue := [], flying := false, result := 0, pushed := 0 }

/-- A command slot that runs nothing. -/
def CmdSlot.reset : CmdSlot :=
  { running := false, code := 0, tag := 0, irq := false, out := [], param := [], waits := none, ctx := none, since := 0 }

/-- A group entry that holds nothing. -/
def Group.reset : Group :=
  { valid := false, down := false, slack := 0, members := [], counts := [], rounds := [] }

/-- Firmware without a patch and without a runtime (R342). -/
def Firmware.reset : Firmware :=
  { patchVersion := 0, patchDigest := 0, runtimeDigest := 0, lmsUsed := 0, transcript := 0,
    response := none }

/-- The module right after a cold reset (R368): memory zero, every register at its Reset value, no
context and no task on any core; the host link is up. -/
def State.reset : State :=
  { turn := .core 0 false, tick := 0, fresh := 0, cores := [], mem := [], hostMem := [], poison := [], latent := [],
    hostBias := [], hostSectors := [], homeLines := [], slices := [], net := [], held := [], parked := [], exchanges := [],
    walks := [], dieTlb := [], homeBar := [], ctls := [], xfers := [], groups := [], downPorts := [], replays := [], growths := [],
    flips := [], contexts := [], windows := [], slots := [], msix := 0, checks := [], log := [], monitors := [],
    clocks := [], hot := 0, ended := false, releases := [], runtimeCalls := [], fw := Firmware.reset,
    hostBase := 0, hostSize := 0, hostPosted := [], postedNext := 0, hostGot := [], booting := false }

end Sys2Proof.Machine
end

