-- ==== Sys2Proof/Machine/Ops.lean ====
section
/-! DEFINITION. The named operations over the state that the meanings share: memories, registers,
mesh packets, monitors, machine checks, taking a trap and the return from one, and the frame that
every scalar-stream and vector/matrix-stream instruction runs in. -/

namespace Sys2Proof.Machine

/-- The outcome of a step of this machine. -/
abbrev Out := Host.Outcome State Fault Refusal

/-! ## Memories -/

/-- The byte at an address; an unlisted address reads as 0 (assumption 6). -/
def Memory.read (m : Memory) (a : Nat) : Byte := Tbl.getD m a 0

/-- Writes a byte, keeping the canonical form. -/
def Memory.write (m : Memory) (a : Nat) (b : Byte) : Memory := Tbl.put 0 m a b

/-- The `n` bytes from an address. -/
def Memory.readN (m : Memory) (a n : Nat) : List Byte := (List.range n).map fun i => m.read (a + i)

/-- Writes bytes from an address upwards. -/
def Memory.writeN (m : Memory) (a : Nat) : List Byte → Memory
  | [] => m
  | b :: r => Memory.writeN (m.write a b) (a + 1) r

/-- The little-endian number of the `n` bytes from an address (R5). -/
def Memory.num (m : Memory) (a n : Nat) : Nat := leNat (m.readN a n)

/-- The canonical form: addresses strictly rising from `lo`, no listed byte 0. -/
def Memory.wfFrom (lo : Nat) : Memory → Bool
  | [] => true
  | e :: r => decide (lo ≤ e.1) && decide (e.2 ≠ 0) && Memory.wfFrom (e.1 + 1) r

/-- The canonical form of a memory. -/
def Memory.wf (m : Memory) : Bool := Memory.wfFrom 0 m

/-! ## Places (R6, R7, R9, R33, R34) -/

/-- Column of a core's or slice's cluster. -/
def clusterX (cl : Nat) : Nat := cl % 16
/-- Row of a cluster. -/
def clusterY (cl : Nat) : Nat := cl / 16
/-- The die of a cluster (R6). -/
def dieOfCluster (cl : Nat) : Nat := 2 * b2n (decide (8 ≤ clusterY cl)) + b2n (decide (8 ≤ clusterX cl))
/-- The cluster of a core (R7). -/
def clusterOf (c : Nat) : Nat := c / 4
/-- The die of a core. -/
def dieOf (c : Nat) : Nat := dieOfCluster (clusterOf c)
/-- SR.CORE of a core (R7). -/
def coreId (c : Nat) : W :=
  w64 (clusterY (clusterOf c) * 2 ^ 16 + clusterX (clusterOf c) * 2 ^ 12 + dieOf c * 2 ^ 10 + c)

/-- The HBM stack of a physical address (R33). -/
def stackOf (pa : Nat) : Nat := bitsOf pa 11 8 ^^^ bitsOf pa 23 20 ^^^ bitsOf pa 35 32
/-- The channel group of a physical address (R33). -/
def groupOf (pa : Nat) : Nat := bitsOf pa 14 12 ^^^ bitsOf pa 26 24
/-- The channel within the group (R33). -/
def channelOf (pa : Nat) : Nat := bitsOf pa 16 15
/-- The row and column address within the channel (R33). -/
def rowColOf (pa : Nat) : Nat := bitsOf pa 39 17 * 256 + bitsOf pa 7 0
/-- The owning Porter of an HBM address (R33). -/
def porterOf (pa : Nat) : Nat := 8 * stackOf pa + groupOf pa
/-- The controller of an HBM address: one per channel, numbered over the stacks. -/
def controllerOf (pa : Nat) : Nat := porterOf pa * 4 + channelOf pa
/-- The home slice of a physical address (R34). -/
def homeOf (pa : Nat) : Nat :=
  bitsOf pa 15 8 ^^^ bitsOf pa 23 16 ^^^ bitsOf pa 31 24 ^^^ bitsOf pa 39 32 ^^^ bitsOf pa 47 40 ^^^ bitsOf pa 51 48
/-- Die of a stack (R9). -/
def dieOfStack (st : Nat) : Nat := st / 4

/-! ## Cores, tasks and registers -/

/-- The core whose turn it is. -/
def State.actor (s : State) : Nat :=
  match s.turn with
  | .core c _ => c
  | .vector c => c
  | .late c _ _ => c
  | _ => 0

/-- A core of the module. -/
def State.core (s : State) (c : Nat) : Core := Tbl.getD s.cores c Core.reset

/-- Replaces a core. -/
def State.setCore (s : State) (c : Nat) (k : Core) : State := { s with cores := Tbl.insert s.cores c k }

/-- Changes a core. -/
def State.onCore (s : State) (c : Nat) (f : Core → Core) : State := s.setCore c (f (s.core c))

/-- A free 64-bit value and the state that has used it up. -/
def State.freeW (s : State) : W × State := (Config.freeWord s.fresh, { s with fresh := s.fresh + 1 })

/-- The task that holds the core: the HI task, else the LO task (R283). -/
def Core.task? (k : Core) : Option Task :=
  match k.hi with
  | some t => some t
  | none => k.lo

/-- Whether the core's running task is a HI task. -/
def Core.inHi (k : Core) : Bool := k.hi.isSome

/-- The task of a bank. -/
def Core.bankTask (k : Core) (hi : Bool) : Option Task := if hi then k.hi else k.lo

/-- Replaces the task of a bank. -/
def Core.setTask (k : Core) (hi : Bool) (t : Task) : Core :=
  if hi then { k with hi := some t } else { k with lo := some t }

/-- The banked registers of a bank (R189). -/
def Core.bank (k : Core) (hi : Bool) : Bank := if hi then k.bankHi else k.bankLo

/-- Replaces banked registers. -/
def Core.setBank (k : Core) (hi : Bool) (b : Bank) : Core :=
  if hi then { k with bankHi := b } else { k with bankLo := b }

/-- X register `r`; X0 reads zero (R18). -/
def Task.reg (t : Task) (r : Reg) : W := if r = 0 then 0 else Tbl.getD t.x r.toNat 0

/-- Writes X register `r`; X0 discards (R18). -/
def Task.setReg (t : Task) (r : Reg) (v : W) : Task :=
  if r = 0 then t else { t with x := Tbl.put 0 t.x r.toNat v }

/-- P register `p`; P0 reads all ones (R18). -/
def Task.pred (t : Task) (p : PReg) : W := if p = 0 then BitVec.allOnes 64 else Tbl.getD t.p p.toNat 0

/-- Writes P register `p`; P0 discards (R18). -/
def Task.setPred (t : Task) (p : PReg) (v : W) : Task :=
  if p = 0 then t else { t with p := Tbl.put 0 t.p p.toNat v }

/-- Changes the task of a bank, if there is one. -/
def Core.onTask (k : Core) (hi : Bool) (f : Task → Task) : Core :=
  match k.bankTask hi with
  | some t => k.setTask hi (f t)
  | none => k

/-- Writes an X register of a bank. -/
def Core.setX (k : Core) (hi : Bool) (r : Reg) (v : W) : Core := k.onTask hi (·.setReg r v)

/-- Writes a P register of a bank. -/
def Core.setP (k : Core) (hi : Bool) (p : PReg) (v : W) : Core := k.onTask hi (·.setPred p v)

/-- V register `r`. -/
def VecUnit.reg (u : VecUnit) (r : Nat) : Nat := (Tbl.getD u.v r 0).toNat

/-- Writes V register `r`. -/
def VecUnit.setReg (u : VecUnit) (r : Nat) (v : Nat) : VecUnit := { u with v := Tbl.put 0 u.v r (BitVec.ofNat 2048 v) }

/-- Tile register `t` as a number of 1,024 lanes of 32 bits, row by row. -/
def VecUnit.tile (u : VecUnit) (t : Nat) : Nat := (Tbl.getD u.t t 0).toNat

/-- Writes a tile register. -/
def VecUnit.setTile (u : VecUnit) (t : Nat) (v : Nat) : VecUnit := { u with t := Tbl.put 0 u.t t (BitVec.ofNat 32768 v) }

/-- 1.0 in F32. -/
def f32One : BitVec 32 := 0x3F800000

/-- The scale pair of a tile (R217). -/
def VecUnit.scales (u : VecUnit) (t : Nat) : BitVec 32 × BitVec 32 := (Tbl.getD u.sa t f32One, Tbl.getD u.sb t f32One)

/-- Writes the scale pair of a tile. -/
def VecUnit.setScales (u : VecUnit) (t : Nat) (a b : BitVec 32) : VecUnit :=
  { u with sa := Tbl.put f32One u.sa t a, sb := Tbl.put f32One u.sb t b }

/-- The entries of queue register `n`, oldest first. -/
def VecUnit.queue (u : VecUnit) (n : Nat) : List W := Tbl.getD u.q n []

/-- Replaces the entries of queue register `n`. -/
def VecUnit.setQueue (u : VecUnit) (n : Nat) (l : List W) : VecUnit := { u with q := Tbl.put [] u.q n l }

/-! ## Mesh -/

/-- Sends a packet (R147). -/
def State.send (s : State) (src dst : Endpoint) (plane : Plane) (body : Body) : State :=
  { s with net := s.net ++ [{ src := src, dst := dst, plane := plane, body := body }] }

/-- Whether a packet is of the same ordered lane as another (R147); bulk packets have no order. -/
def Packet.sameLane (p q : Packet) : Bool :=
  p.plane != .bulk && p.plane == q.plane && p.src == q.src && p.dst == q.dst

/-- The packet in the mesh at index `k`, if nothing earlier on its lane is still in the mesh. -/
def State.arriving? (s : State) (k : Nat) : Option Packet :=
  match s.net[k]? with
  | none => none
  | some p => if (s.net.take k).any (p.sameLane ·) then none else some p

/-- Whether a core held in reset, which takes nothing, is a packet's endpoint (R367). -/
def State.shut (s : State) (p : Packet) : Bool :=
  s.ended && match p.dst with
    | .core _ => true
    | _ => false

/-- The packet at index `k` of the mesh and then of what waits at endpoints, if its endpoint may take it: nothing earlier
on its lane is in the mesh or waits (R147, R149). -/
def State.packet? (s : State) (k : Nat) : Option Packet :=
  if k < s.net.length then (s.arriving? k).bind fun p => if s.held.any (p.sameLane ·) || s.shut p then none else some p
  else
    match s.held[k - s.net.length]? with
    | none => none
    | some p => if (s.held.take (k - s.net.length)).any (p.sameLane ·) || s.shut p then none else some p

/-- Removes the packet at index `k`. -/
def State.drop (s : State) (k : Nat) : State :=
  if k < s.net.length then { s with net := s.net.eraseIdx k } else { s with held := s.held.eraseIdx (k - s.net.length) }

/-- The packet at index `k` reaches its endpoint, which has room for every arrival, and waits there (R149). -/
def State.reach (s : State) (k : Nat) : State :=
  match s.arriving? k with
  | none => s
  | some p => { s with net := s.net.eraseIdx k, held := s.held ++ [p] }

/-- The packet at index `k` of state `s`, taken out in `t`, goes on waiting at its endpoint. -/
def State.hold (t s : State) (k : Nat) (p : Packet) : State :=
  if k < s.net.length then { t with held := t.held ++ [p] }
  else { t with held := t.held.take (k - s.net.length) ++ p :: t.held.drop (k - s.net.length) }

/-- What an endpoint makes of an arrival: it is no arrival of this row, it must wait, or its effect. -/
inductive Take where
  | no
  | wait (s : State)
  | did (s : State)

/-- Whether a packet at a core is an access of the core's memory port (R151). -/
def Body.atPort (b : Body) : Bool :=
  match b with
  | .rld .. | .rst .. | .ramo .. | .tileStore .. | .tileLoad .. | .fullOp .. | .feclr .. | .piece .. => true
  | .barRead .. | .barUpdate .. | .barPark .. | .barDec .. | .mxDone .. | .tswapTile .. => true
  | _ => false

/-- Whether an arrival from the mesh waits at a core's port. -/
def State.portWaits (s : State) (c : Nat) : Bool := s.held.any fun p => p.dst == .core c && p.body.atPort

/-- Whether the port of a core must take a waiting arrival before another own access (R151, R358). -/
def State.portOwes (s : State) (c : Nat) : Bool := (s.core c).lcl.passed && s.portWaits c

/-- The port of a core takes an own access: an arrival that waits is next (R358). -/
def State.ownAccess (s : State) (c : Nat) : State :=
  if s.portWaits c then s.onCore c fun k => { k with lcl := { k.lcl with passed := true } } else s

/-- The port of a core has taken an arrival (R358). -/
def State.portTook (s : State) (p : Packet) : State :=
  match p.dst with
  | .core c => if p.body.atPort && (s.core c).lcl.passed then s.onCore c fun k => { k with lcl := { k.lcl with passed := false } } else s
  | _ => s

/-- A step on the packet at index `k`: `f` is its effect in the state without it. A packet that must wait waits at its
endpoint (R149). -/
def State.take (s : State) (k : Nat) (f : Packet → State → Take) : State :=
  match s.packet? k with
  | none => s
  | some p =>
    match f p (s.drop k) with
    | .no => s
    | .wait t => t.hold s k p
    | .did t => t.portTook p

/-! ## Monitors (R362–R364) -/

/-- The unit number of a core, a slice, a router or a Porter in the monitor table. -/
def unitCore (c : Nat) : Nat := c
/-- Unit number of a home slice. -/
def unitSlice (h : Nat) : Nat := 1024 + h
/-- Unit number of a router. -/
def unitRouter (r : Nat) : Nat := 1280 + r
/-- Unit number of a Porter. -/
def unitPorter (p : Nat) : Nat := 1536 + p

/-- A 64-bit count that saturates (R363). -/
def satAdd (a b : Nat) : Nat := min (a + b) (2 ^ 64 - 1)

/-- Whether a unit lists an event code, and with which kinds (R364). -/
def eventKinds (u code : Nat) : List Nat :=
  if u < 1024 then
    match code with
    | 0x01 => [0, 1]
    | 0x02 | 0x03 | 0x04 | 0x05 => [0]
    | 0x06 => [2]
    | _ => []
  else if u < 1280 then
    match code with
    | 0x10 | 0x11 | 0x12 | 0x13 | 0x14 => [0]
    | 0x15 => [2]
    | _ => []
  else if u < 1536 then
    match code with
    | 0x20 | 0x21 | 0x22 => [0]
    | 0x23 => [2]
    | _ => []
  else
    match code with
    | 0x30 | 0x31 | 0x32 => [0]
    | 0x33 => [0, 1]
    | _ => []

/-- Whether a block captures an event of this code and kind. -/
def Monitor.captures (m : Monitor) (u code kind : Nat) : Bool :=
  m.ctl.getLsbD 63 && m.ctl.bits 61 60 == kind && m.ctl.bits 15 0 == code && (eventKinds u code).contains kind

/-- Captures a value (R363). -/
def Monitor.value (m : Monitor) (v : Nat) : Monitor :=
  let b := Nat.min (v / 2 ^ m.ctl.bits 59 56) 15
  { m with count := satAdd m.count 1, sum := satAdd m.sum v, min := Nat.min m.min v, max := Nat.max m.max v,
           hist := Tbl.put 0 m.hist b (satAdd (Tbl.getD m.hist b 0) 1) }

/-- Block `m` of unit `u`. -/
def State.monitor (s : State) (u m : Nat) : Monitor := Tbl.getD s.monitors (u * 8 + m) Monitor.reset

/-- Replaces block `m` of unit `u`. -/
def State.setMonitor (s : State) (u m : Nat) (b : Monitor) : State :=
  { s with monitors := Tbl.put Monitor.reset s.monitors (u * 8 + m) b }

/-- An event happens at a unit: every block that counts it counts it. -/
def State.event (s : State) (u code : Nat) : State :=
  { s with monitors := s.monitors.map fun (i, m) =>
      if i / 8 = u && m.captures u code 0 then (i, { m with count := satAdd m.count 1 }) else (i, m) }

/-- The mask of a unit's blocks that may capture the latency of an event that starts now: those enabled (R363). -/
def State.latencyMask (s : State) (u : Nat) : Nat :=
  ((List.range 8).filter fun m => (s.monitor u m).ctl.getLsbD 63).foldl maskSet 0

/-- A latency event ends with value `v`; only blocks that captured at its start record it (R363). -/
def State.latency (s : State) (u code mask v : Nat) : State :=
  { s with monitors := s.monitors.map fun (i, m) =>
      if i / 8 = u && mask.testBit (i % 8) && m.captures u code 1 then (i, m.value v) else (i, m) }

/-! ## Machine checks (R305, R335, R369) -/

/-- A machine check reaches the queue of a die's management core. -/
def State.machineCheck (s : State) (die : Nat) (m : MCheck) : State := { s with checks := s.checks ++ [(die, m)] }

/-! ## Pending traps (R309) -/

/-- An asynchronous trap enters the core's pending list, or is lost when the list is full. -/
def Regs.addPending (r : Regs) (t : Trap) : Regs :=
  if r.pend.length < Config.pendSize then { r with pend := r.pend ++ [t] } else { r with lost := true }

/-- Makes an asynchronous trap pending at core `c`. -/
def State.pending (s : State) (c code : Nat) (v : W) : State :=
  s.onCore c fun k => { k with regs := k.regs.addPending ⟨code, v⟩ }

/-! ## Instruction memory (R15, R16, R162) -/

/-- Old or new: a task may fetch a halfword that was written while it ran either way (R52). The choice among the
values replaced while it ran and the newest is free, fresh for each cycle, halfword and value (assumption 10). -/
def fetchChoice (n i : Nat) (now : HW) (olds : List (Nat × HW)) : HW :=
  ((List.range olds.length).zip olds).foldl
    (fun h e => if e.2.1 = i && Config.freeBit ((n * 65536 + i) * 2 ^ 32 + e.1) then e.2.2 else h) now

/-- The halfword at index `i` of the task's code: the carried buffer, or instruction memory. -/
def Core.half? (k : Core) (t : Task) (i : Nat) : Option HW :=
  if t.carried then t.code[i]?
  else if i < Config.imemHalfwords then
    some (fetchChoice k.regs.cyc.toNat i (BitVec.ofNat 16 (k.lcl.imem.num (2 * i) 2)) t.stale)
  else none

/-- Writes bytes of instruction memory, remembering for the tasks that run what they replace (R52). -/
def Core.writeImem (k : Core) (off : Nat) (bytes : List Byte) : Core :=
  let is := if bytes.isEmpty then [] else rangeFrom (off / 2) ((off + bytes.length - 1) / 2 + 1 - off / 2)
  let old := is.map fun i => (i, (BitVec.ofNat 16 (k.lcl.imem.num (2 * i) 2) : HW))
  let keep := fun (t : Task) => { t with stale := t.stale ++ old }
  { k with lcl := { k.lcl with imem := k.lcl.imem.writeN off bytes }, lo := k.lo.map keep, hi := k.hi.map keep }

/-- The halfwords of the task's code from index `i`, at most four. -/
def Core.halves (k : Core) (t : Task) (i : Nat) : List HW :=
  ([i, i + 1, i + 2, i + 3].map (k.half? t)).takeWhile Option.isSome |>.filterMap id

/-- The first 32 bits of the instruction at the task's pc, a compact form in [15:0] (R308). DESIGN CHOICE (assumption
76): halfwords that lie beyond the end of the code read as zero (R16). -/
def Core.instrWord (k : Core) (t : Task) : W :=
  match k.halves t t.pc with
  | [] => 0
  | [h0] => w64 h0.toNat
  | h0 :: h1 :: _ => if h0.getLsbD 0 = false then w64 h0.toNat else w64 (h1.toNat * 65536 + h0.toNat)

/-! ## Taking a trap (R305) and the return (R327) -/

/-- Cause codes (R308, R309). -/
def cILLEGAL : Nat := 0x01
/-- PRIV. -/
def cPRIV : Nat := 0x02
/-- ALIGN. -/
def cALIGN : Nat := 0x03
/-- PAGE.NP. -/
def cPAGENP : Nat := 0x04
/-- PAGE.PROT. -/
def cPAGEPROT : Nat := 0x05
/-- WINDOW. -/
def cWINDOW : Nat := 0x06
/-- HANDLE. -/
def cHANDLE : Nat := 0x07
/-- ADDR. -/
def cADDR : Nat := 0x08
/-- HIVEC. -/
def cHIVEC : Nat := 0x09
/-- IDEMSCAT. -/
def cIDEMSCAT : Nat := 0x0A
/-- WDOG. -/
def cWDOG : Nat := 0x0B
/-- SOFT. -/
def cSOFT : Nat := 0x0C
/-- CONTEXT. -/
def cCONTEXT : Nat := 0x0D
/-- WAYBILL. -/
def cWAYBILL : Nat := 0x20
/-- XFER. -/
def cXFER : Nat := 0x21
/-- POISON. -/
def cPOISON : Nat := 0x22
/-- MBOXREF. -/
def cMBOXREF : Nat := 0x23
/-- LINKDOWN. -/
def cLINKDOWN : Nat := 0x24

/-- Whether a handler runs on the core (SR.TSTAT.INTRAP). -/
def Regs.inTrap (r : Regs) : Bool := r.tstat.getLsbD 15

/-- SR.TSTAT as take_trap writes it (R305, R306). -/
def tstatOf (sup hi carried taskless inidem skip : Bool) (entry : Nat) : W :=
  w64 (2 ^ 15 + b2n sup * 2 ^ 14 + b2n hi * 2 ^ 13 + b2n carried * 2 ^ 12 + b2n taskless * 2 ^ 11
    + b2n inidem * 2 ^ 10 + b2n skip * 2 ^ 9 + entry % 64)

/-- SR.TRAPPC for halfword index `pc` of a task (R162, R306). -/
def trapPc (t : Task) (pc : Nat) : W := if t.carried then w64 (2 ^ 63 + pc) else w64 pc

/-- Drops what page walks have told, or will tell, to a stream of a core: a failed translation is not cached
(R321). -/
def State.forgetWalks (s : State) (c who : Nat) : State :=
  let walks := s.walks.map fun w => { w with who := w.who.filter (· != (c, who)) }
  { s with walks := walks }.onCore c fun k => { k with walkFail := k.walkFail.filter (·.1 != who) }

/-- take_trap (R305): the task `t` of bank `hi` enters the handler; a trap inside a handler is a double
trap, which raises a machine check and stops the context on this core. SR.REPST.V becomes 0 (R312); a fault of the
vector/matrix stream sets it afterwards. -/
def takeTrap (s : State) (c : Nat) (hi : Bool) (t : Task) (code : Nat) (v pc : W) (taskless skip : Bool) : State :=
  let k := s.core c
  if k.regs.inTrap then
    (s.machineCheck (dieOf c) (.doubleTrap c code v pc)).onCore c fun k => { k with stopped := true }
  else
    let regs := { k.regs with
      trapc := w64 code, trapv := v, trappc := pc, repst := k.regs.repst &&& w64 (2 ^ 63 - 1),
      tstat := tstatOf t.sup hi t.carried taskless (t.idem.isSome && !hi) skip t.entry }
    let t' := { t with sup := true, pc := k.regs.tvec.bits 14 0, carried := false, stalled := false, bytewise := none }
    (s.setCore c ({ k with regs := regs }.setTask hi t')).forgetWalks c (b2n hi)

/-- Whether every instruction before the one at a task's pc has taken its effect, which an exact trap waits for (R307):
no access is put off, and the vector/matrix stream owes nothing but what it keeps behind a fault. -/
def Core.drained (k : Core) (hi : Bool) (t : Task) : Bool :=
  t.late.isEmpty && (hi || k.vu.stopped || k.vu.viq.isEmpty)

/-- An exact trap of the scalar stream at the task's pc (R307). -/
def exactTrap (s : State) (c : Nat) (hi : Bool) (t : Task) (code : Nat) (v : W) : State :=
  takeTrap s c hi t code v (trapPc t t.pc) false false

/-! ## The frame of a scalar-stream instruction (R22–R25) -/

/-- What an instruction's own part runs on: the state, the acting core and its task. -/
structure Cx where
  s : State
  c : Nat
  k : Core
  t : Task
  hi : Bool

/-- X register of the running task. -/
def Cx.x (cx : Cx) (r : Reg) : W := cx.t.reg r

/-- The predicate of the running task. -/
def Cx.p (cx : Cx) (p : PReg) : W := cx.t.pred p

/-- The requester that the running task's requests name (R53). -/
def Cx.req (cx : Cx) : Requester := { core := cx.c, hi := cx.hi, ctx := cx.k.ctx, sup := cx.t.sup }

/-- How an instruction's own part ends: complete and go on; complete and go to a pc; stay at the
instruction (waiting, or its request sent); or an exact trap without effect. -/
inductive Ret where
  | done (s : State)
  | goto (s : State) (pc : Nat)
  | stay (s : State)
  | trap (code : Nat) (v : W)

/-- What the frame must know of an instruction: its length in halfwords, its guard, whether it needs
supervisor mode, whether HI tasks and carried code may run it, and the registers it shares with the
vector/matrix stream: X registers read (`xs`) or written at completion (`xd`), P registers read (`pr`), written at
completion (`pd`) or written later (`pw`), V registers; whether it touches SR.VL, rounds, or reads or writes the
rounding registers themselves; whether it may be performed before an earlier load (`pass`) or release store (`rel`) that
is put off. -/
structure Need where
  len : Nat
  g : Guard
  sup : Bool
  noHi : Bool
  carried : Bool
  xs : List Reg
  xd : List Reg
  pr : List PReg
  pd : List PReg
  pw : List PReg
  vr : List Reg
  vw : List Reg
  readVl : Bool
  setVl : Bool
  round : Bool
  modes : Bool
  matrix : Bool
  pass : Bool
  rel : Bool

/-- A need without special demands. -/
def Need.plain (len : Nat) (g : Guard) (xs : List Reg) : Need :=
  { len := len, g := g, sup := false, noHi := false, carried := true, xs := xs, xd := [], pr := [], pd := [], pw := [],
    vr := [], vw := [], readVl := false, setVl := false, round := false, modes := false, matrix := false, pass := true,
    rel := true }

/-- A load: it writes its registers at completion, and may go before an earlier load or release store (R245, R252). -/
def Need.loads (len : Nat) (g : Guard) (xs xd : List Reg) : Need := { Need.plain len g xs with xd := xd }

/-- A store or atomic: no release store that is put off stays behind it (R252). -/
def Need.stores (len : Nat) (g : Guard) (xs : List Reg) : Need := { Need.plain len g xs with rel := false }

/-- An instruction that waits for every access that is put off. -/
def Need.fence (len : Nat) (g : Guard) (xs : List Reg) : Need := { Need.plain len g xs with pass := false, rel := false }

/-- The need of the guard alone. -/
def Need.guardOnly (n : Need) : Need := Need.plain n.len n.g []

/-- What a vector/matrix instruction shares with the scalar stream (R192): the X register and P
register it writes, the P registers and V registers it reads, the V registers it writes, whether it
writes or reads SR.VL, whether it uses the rounding state, and whether it sends on the latch ring. -/
structure VUse where
  xw : List Reg
  pw : List PReg
  pr : List PReg
  vr : List Reg
  vw : List Reg
  setVl : Bool
  useVl : Bool
  round : Bool
  ring : Bool

/-- An instruction that shares nothing. -/
def VUse.none : VUse :=
  { xw := [], pw := [], pr := [], vr := [], vw := [], setVl := false, useVl := false, round := false, ring := false }

/-- Whether two lists share an element. -/
def meets {α : Type} [BEq α] (a b : List α) : Bool := a.any (b.contains ·)

/-- Whether a scalar instruction must wait for a queued vector/matrix instruction (R192). `sr`: rounding writes SR.RNG. A
staggered instruction of a replay may name any register of the kinds it names. An X or P result that a later scalar
instruction has replaced is not waited for. -/
def Need.waitsOn (n : Need) (u : VUse) (it : VItem) (staggered sr : Bool) : Bool :=
  let hit {α : Type} [BEq α] (a b : List α) : Bool := if staggered then !a.isEmpty && !b.isEmpty else meets a b
  let live := fun (l : List PReg) => l.filter fun p => !(it.pvs.any fun e => e.1 == p.toNat)
  meets n.xs (u.xw.filter fun r => r != 0 && !it.xdead.contains r.toNat) ||
  hit ((if n.g.p = 0 then [] else [n.g.p]) ++ n.pr) (live u.pw) || hit n.pw (live u.pw) || hit n.pw (live u.pr) ||
  hit n.vr u.vw || hit n.vw u.vw || hit n.vw u.vr ||
  (n.readVl && u.setVl) || (n.setVl && (u.setVl || u.useVl)) || ((n.modes || (n.round && sr)) && u.round) ||
  (n.matrix && u.ring)

/-- Scalar results replace X and P registers that queued instructions still name: what they read and write of these
from now on is their own (R192). Instructions kept behind a fault go on naming the task's registers, which the handler may
change (R312). -/
def VecUnit.replace (u : VecUnit) (xd : List Reg) (pd : List PReg) (old : PReg → W) : VecUnit :=
  if u.viq.isEmpty || (xd.isEmpty && pd.isEmpty) then u
  else
    let n := u.pv.length
    let vs := ((List.range pd.length).zip pd).map fun e => (e.2.toNat, n + e.1)
    let item := fun (it : VItem) =>
      { it with xdead := it.xdead ++ xd.map (·.toNat),
                pvs := it.pvs ++ vs.filter fun e => !(it.pvs.any fun q => q.1 == e.1) }
    { u with pv := u.pv ++ pd.map old, viq := u.viq.map fun e => { e with items := e.items.map item } }

/-- Whether the guard passes for a whole instruction: bit 0 of the predicate (R22). -/
def guardPasses (g : Guard) (t : Task) : Bool := (t.pred g.p).getLsbD 0 != g.sense

/-- An exact trap of the scalar stream out of a state, once everything before it has taken its effect (R307). -/
def Cx.trapTo (cx : Cx) (s : State) (code : Nat) (v : W) : State :=
  if cx.k.drained cx.hi cx.t then exactTrap s cx.c cx.hi cx.t code v else cx.s

/-- Such a trap as an outcome. -/
def Cx.trapOut (cx : Cx) (s : State) (code : Nat) (v : W) : Out := .next (cx.trapTo s code v)

/-- A completed instruction leaves the pc at `pc`, and replaces what it writes in the queued instructions' view. -/
def Cx.complete (cx : Cx) (n : Need) (s : State) (pc : Nat) : State :=
  s.onCore cx.c fun k =>
    let k := if cx.hi || k.vu.stopped then k else { k with vu := k.vu.replace n.xd n.pd cx.t.pred }
    k.onTask cx.hi fun t => { t with pc := pc, stalled := false, bytewise := none }

/-- Finishes a scalar instruction. -/
def Ret.finish (r : Ret) (cx : Cx) (n : Need) : Out :=
  match r with
  | .done s => .next (cx.complete n s (cx.t.pc + n.len))
  | .goto s pc => .next (cx.complete n s pc)
  | .stay s => .next s
  | .trap code v => cx.trapOut cx.s code v

/-- The task of a bank has issued the instruction at its pc; until that completes, or traps, it is at no boundary. -/
def State.issue (s : State) (c : Nat) (hi : Bool) : State := s.onCore c fun k => k.onTask hi fun t => { t with stalled := true }

/-- The X registers that a put-off load writes. -/
def Late.regs (e : Late) : List Reg := (if e.n = 16 then [e.d, e.d + 1] else [e.d]).filter (· != 0)

/-- Whether an instruction must wait for accesses of its task that are put off (R245, R252). -/
def Need.waitsLate (n : Need) (l : List Late) : Bool :=
  l.any fun e =>
    match e.store with
    | none => !n.pass || meets (n.xs ++ n.xd) e.regs
    | some _ => !n.rel

/-- The frame of a scalar-stream instruction: the checks of R24 in order, the guard, the waits of
R192, then the instruction's own part. `uses` tells what a queued instruction shares. With no task on
the core nothing executes. DESIGN CHOICE (assumption 75): R162's ILLEGAL in carried code, and then R214's in an open
recording, come before PRIV and HIVEC, and whatever the guard. While a handler runs, an open recording is kept and shut,
and instructions kept behind a fault are not waited for (DEDUCED, assumption 21). -/
def scalarWith (uses : Local → VItem → VUse) (n : Need) (body : Cx → Ret) (s : State) : Out :=
  let c := s.actor
  let k := s.core c
  match k.task? with
  | none => .next s
  | some t =>
    let hi := k.inHi
    let s := s.issue c hi
    let k := s.core c
    let cx : Cx := { s := s, c := c, k := k, t := t, hi := hi }
    let busy := fun (m : Need) => !hi && !k.vu.stopped && k.vu.viq.any fun e =>
      e.items.any fun it => m.waitsOn (uses k.lcl it) it (e.replay && it.marked && e.stride != 0) (k.bankLo.rmode == 4)
    if t.carried && !n.carried then cx.trapOut s cILLEGAL (k.instrWord t)
    else if !hi && k.vu.recording.isSome && !k.regs.inTrap then
      cx.trapOut (s.onCore c fun k => { k with vu := { k.vu with recording := none } }) cILLEGAL (k.instrWord t)
    else if n.sup && !t.sup then cx.trapOut s cPRIV (k.instrWord t)
    else if n.noHi && hi then cx.trapOut s cHIVEC (k.instrWord t)
    else if busy n.guardOnly then .next s
    else if !guardPasses n.g t then (Ret.done s).finish cx { n with xd := [], pd := [] }
    else if busy n || n.waitsLate t.late then .next s
    else (body cx).finish cx n

end Sys2Proof.Machine
end

