-- ==== Sys2Proof/Machine/Local.lean ====
section
/-! DEFINITION. A core's own memories behind its port: scratchpad with poison, full bits, instruction
memory, the alias windows of R48–R50 and the decode table, and the address regions of R11. -/

namespace Sys2Proof.Machine

/-! ## Address regions (R11, R46, R47) -/

/-- What an address names. -/
inductive Place where
  /-- Global virtual address. -/
  | global (va : Nat)
  /-- Offset `off` of window `win` of core `core`. -/
  | loc (core win off : Nat)
  /-- Peer device and virtual address. -/
  | peer (dev va : Nat)
  /-- Configuration register `off` of unit `unit` of cluster `cl`. -/
  | config (cl unit off : Nat)
  deriving DecidableEq, Repr

/-- The region decode of R11 for the bytes a … a+n−1 as core `c` forms the address in mode `sup`: the
place, or the cause of the exact trap. A range that leaves its region's address field traps as a bit of
that field would (R103). -/
def decodeAddr (c : Nat) (sup : Bool) (a n : Nat) : Except Nat Place :=
  let off := bitsOf a 17 0
  let win := bitsOf a 49 46
  match bitsOf a 63 60 with
  | 0x0 =>
    if bitsOf a 59 56 ≠ 0 then .error cADDR
    else if 2 ^ 56 < a + n then .error cADDR
    else .ok (.global a)
  | 0x8 =>
    if bitsOf a 45 18 ≠ 0 then .error cADDR
    else if Config.spadSize < off + Nat.max n 1 then .error cWINDOW
    else .ok (.loc ((bitsOf a 59 56 * 16 + bitsOf a 55 52) * 4 + bitsOf a 51 50) win off)
  | 0x9 =>
    if bitsOf a 59 50 ≠ 0 ∨ bitsOf a 45 18 ≠ 0 then .error cADDR
    else if Config.spadSize < off + Nat.max n 1 then .error cWINDOW
    else .ok (.loc c win off)
  | 0xA => .ok (.peer (bitsOf a 59 56) (bitsOf a 55 0))
  | 0xF => if sup then .ok (.config (bitsOf a 59 56 * 16 + bitsOf a 55 52) (bitsOf a 51 48) (bitsOf a 47 0)) else .error cPRIV
  | _ => .error cADDR

/-- The window and offset of an own-scratchpad address, which leaves its offset limit to a later check, or the cause of the
trap (R164, R185, R294). DEDUCED (assumption 85): region 0xF traps PRIV in user mode (R11, R47). -/
def ownParts (c : Nat) (sup : Bool) (a : Nat) : Except Nat (Nat × Nat) :=
  let core := (bitsOf a 59 56 * 16 + bitsOf a 55 52) * 4 + bitsOf a 51 50
  match bitsOf a 63 60 with
  | 0x8 => if bitsOf a 45 18 ≠ 0 ∨ core ≠ c then .error cADDR else .ok (bitsOf a 49 46, bitsOf a 17 0)
  | 0x9 => if bitsOf a 59 50 ≠ 0 ∨ bitsOf a 45 18 ≠ 0 then .error cADDR else .ok (bitsOf a 49 46, bitsOf a 17 0)
  | 0xF => .error (if sup then cADDR else cPRIV)
  | _ => .error cADDR

/-- The region 0x8 address of an offset in a window of a core (R11, R271). -/
def localAddr (core win off : Nat) : Nat :=
  8 * 2 ^ 60 + clusterY (clusterOf core) * 2 ^ 56 + clusterX (clusterOf core) * 2 ^ 52 + core % 4 * 2 ^ 50 + win * 2 ^ 46 + off

/-- The coordinates of an address in region 0x8 form: core, window, offset. -/
def localParts (a : Nat) : Nat × Nat × Nat :=
  ((bitsOf a 59 56 * 16 + bitsOf a 55 52) * 4 + bitsOf a 51 50, bitsOf a 49 46, bitsOf a 17 0)

/-! ## Windows (R48–R50, R176) -/

/-- The classes of access of R50. -/
inductive Access where
  | load
  | store
  | atomic
  | vector
  | porter
  deriving DecidableEq, Repr

/-- Whether a window is configured: 0 always, 1–12 by WINSET, 13 and 15 as R49 says, 14 never. -/
def Local.configured (l : Local) (w : Nat) : Bool :=
  w == 0 || (decide (w ≤ 12) && (Tbl.getD l.win w 0).getLsbD 63)

/-- Offsets below this limit exist in a window (R50). -/
def windowLimit (w : Nat) : Nat := if w = 13 then 0x10000 else if w = 15 then 0xC00 else 0x30000

/-- The window rules of R50 for the bytes off … off+n−1: none if allowed, else the cause. -/
def Local.windowCheck (l : Local) (acc : Access) (sup : Bool) (w off n : Nat) : Option Nat :=
  if w ≤ 12 then
    if l.configured w && decide (off + n ≤ 0x30000) then none else some cWINDOW
  else if w = 14 then some cWINDOW
  else if windowLimit w < off + n then some cWINDOW
  else if w = 13 then
    match acc with
    | .load => none
    | .store => if sup then none else some cPRIV
    | .porter => if sup then none else some cPRIV
    | .atomic | .vector => some cWINDOW
  else
    match acc with
    | .load | .store => none
    | .atomic | .vector | .porter => some cWINDOW

/-- The format bound to a window; window 0 is raw, read as 32-bit words (R211). -/
def Local.fmtOf (l : Local) (w : Nat) : Option Fmt :=
  if w = 0 then none
  else
    match (Tbl.getD l.win w 0).bits 47 44 with
    | 0 => some .f32 | 1 => some .f16 | 2 => some .bf16 | 3 => some .e4m3 | 4 => some .e5m2 | 5 => some .e2m1
    | 6 => some .t8 | 7 => some .i8 | 8 => some .i16 | 9 => some .i32 | 10 => some .n8 | 11 => some .n16
    | 12 => some .n32
    | _ => none

/-- BSP of a window: whether block scales apply (R176). -/
def Local.scaled (l : Local) (w : Nat) : Bool := w != 0 && (Tbl.getD l.win w 0).bits 43 42 == 1

/-- SBASE of a window. -/
def Local.sbase (l : Local) (w : Nat) : Nat := (Tbl.getD l.win w 0).bits 35 18
/-- DBASE of a window. -/
def Local.dbase (l : Local) (w : Nat) : Nat := (Tbl.getD l.win w 0).bits 17 0
/-- TSCALE of a window, 1.0 for window 0 and for a window that is not configured. -/
def Local.tscaleOf (l : Local) (w : Nat) : BitVec 32 :=
  if w = 0 then f32One else (Tbl.getD l.tscale w 0).extractLsb' 0 32

/-- The decode table as 32-bit E8M10 words (R170). -/
def Local.t8 (l : Local) (k : Nat) : Nat := (Tbl.getD l.table k 0).toNat

/-! ## Scratchpad bytes and poison (R152) -/

/-- Whether any 8-byte word that the bytes touch is poisoned. -/
def Local.poisoned (l : Local) (off n : Nat) : Bool :=
  n != 0 && (rangeFrom (off / 8) ((off + n - 1) / 8 + 1 - off / 8)).any fun w => Tbl.getD l.poison w false

/-- The offset of the first poisoned byte among `n` from `off`. -/
def Local.firstPoison (l : Local) (off n : Nat) : Option Nat :=
  (rangeFrom off n).find? fun o => Tbl.getD l.poison (o / 8) false

/-- Writes the part of one store that falls in the 8-byte word `w`: a whole word clears poison, a part of a
poisoned word is abandoned (R152). -/
def Local.writeWord (l : Local) (w off : Nat) (bytes : List Byte) : Local :=
  let mine := (List.range bytes.length).filter fun i => (off + i) / 8 == w
  if mine.length = 8 then
    { l with poison := Tbl.put false l.poison w false,
             spad := mine.foldl (fun m i => m.write (off + i) (bytes.getD i 0)) l.spad }
  else if Tbl.getD l.poison w false then l
  else { l with spad := mine.foldl (fun m i => m.write (off + i) (bytes.getD i 0)) l.spad }

/-- Writes bytes into the scratchpad, word by word. -/
def Local.writeSpad (l : Local) (off : Nat) (bytes : List Byte) : Local :=
  if bytes.isEmpty then l
  else (rangeFrom (off / 8) ((off + bytes.length - 1) / 8 + 1 - off / 8)).foldl (fun l w => l.writeWord w off bytes) l

/-- Whether a store of bytes meets a poisoned word that it does not cover. -/
def Local.mergeFails (l : Local) (off n : Nat) : Bool :=
  n != 0 && (rangeFrom (off / 8) ((off + n - 1) / 8 + 1 - off / 8)).any fun w =>
    Tbl.getD l.poison w false && !(decide (off ≤ 8 * w) && decide (8 * w + 8 ≤ off + n))

/-! ## Full bits (R49, R51, R86) -/

/-- The full bit of the 8-byte word at offset 8 × w. -/
def Local.isFull (l : Local) (w : Nat) : Bool := (l.full.read (w / 8)).getLsbD (w % 8)

/-- Sets the full bit of a word. -/
def Local.setFull (l : Local) (w : Nat) (b : Bool) : Local :=
  let v := (l.full.read (w / 8)).toNat
  let m := 2 ^ (w % 8)
  { l with full := l.full.write (w / 8) (BitVec.ofNat 8 (if b then v ||| m else v - (v &&& m))) }

/-- Words whose full bit is 1 among those that the bytes touch (R156). -/
def Local.anyFull (l : Local) (off n : Nat) : Bool :=
  n != 0 && (rangeFrom (off / 8) ((off + n - 1) / 8 + 1 - off / 8)).any l.isFull

/-! ## Whole accesses at the port -/

/-- The bytes of a load through a window; none if a byte is poisoned. -/
def Local.load (l : Local) (w off n : Nat) : Option (List Byte) :=
  if w = 13 then some (l.imem.readN off n)
  else if w = 15 then some (l.full.readN off n)
  else if l.poisoned off n then none else some (l.spad.readN off n)

/-- A store through a window. -/
def Core.store (k : Core) (w off : Nat) (bytes : List Byte) : Core :=
  if w = 13 then k.writeImem off bytes
  else if w = 15 then { k with lcl := { k.lcl with full := k.lcl.full.writeN off bytes } }
  else { k with lcl := k.lcl.writeSpad off bytes }

/-- The value an element read through a window has: the element of `width` bits at bit offset `bit` of byte
offset `o`, decoded in the window's format, and scaled when BSP = 1 (R177). The result says which trap a scale
address outside its range raises. -/
def Local.element (l : Local) (w o : Nat) (raw : Nat) : Except Nat FVal :=
  match l.fmtOf w with
  | none => .ok (.ofInt (raw : Nat))
  | some f =>
    let v := f.value l.t8 raw
    if l.scaled w then
      if o < l.dbase w then .error cWINDOW
      else
        let j := (o - l.dbase w) * 8 / (32 * f.width)
        if Config.spadSize ≤ l.sbase w + j then .error cWINDOW
        else
          let sb := (l.spad.read (l.sbase w + j)).toNat
          .ok (if sb = 0xFF then .nan else v.mul (.ex false 1 ((sb : Int) - 127)))
    else .ok v

/-- The offset of the scale byte of an element at offset `o`, for a window with BSP = 1 (R177). -/
def Local.scaleOffset (l : Local) (w o : Nat) : Option Nat :=
  match l.fmtOf w with
  | none => none
  | some f => if l.scaled w && decide (l.dbase w ≤ o) then some (l.sbase w + (o - l.dbase w) * 8 / (32 * f.width)) else none

end Sys2Proof.Machine
end

