-- ==== Sys2Proof/Machine/Operands.lean ====
section
/-! DEFINITION. Every operand form: registers, literals, queue and stream ports of both streams (R19, R84,
R194, R195), and what each vector/matrix instruction shares with the scalar stream (R192). -/

namespace Sys2Proof.Machine

/-- How an operand is got: its value and the core after a pop, a wait and the core meanwhile, or a trap. -/
inductive Got (α : Type) where
  | ok (v : α) (k : Core)
  | wait (k : Core)
  | trap (code : Nat) (v : W)
  deriving DecidableEq, Repr

/-- A literal as a 64-bit operand (R20). -/
def litVal (lit : BitVec 32) : W := lit.signExtend 64

/-- imm9 as a 64-bit operand (R17). -/
def immVal (imm : BitVec 9) : W := imm.signExtend 64

/-! ## Stream registers (R84) -/

/-- Whether bytes lo … hi−1 of the core's scratchpad have been written by a transfer, or it has completed. -/
def streamReady (s : State) (c ch id lo hi : Nat) : Bool :=
  match s.xfers.reverse.find? fun x => x.core == c && x.ch == ch && x.id == id with
  | none => true
  | some x =>
    x.fin || (rangeFrom lo (hi - lo)).all fun o =>
      x.pieces.any fun p =>
        match p.dst with
        | .scratch a =>
          let (_, _, po) := localParts a
          decide (po ≤ o) && decide (o < po + (if p.phase = 4 then p.len else p.landed))
        | _ => false

/-- Reads `n` bytes of stream register `j` for reader 1 (scalar) or 2 (vector/matrix); a stream that waits for its bytes
has already claimed it (R84). DESIGN CHOICE (assumption 79): SR.TRAPV names the register when the other stream reads it. -/
def streamRead (s : State) (c : Nat) (k : Core) (j n reader : Nat) : Got (List Byte) :=
  match Tbl.find? k.vu.s j with
  | none => .trap cILLEGAL (w64 j)
  | some b =>
    if b.len ≤ b.pos then .trap cILLEGAL (w64 j)
    else if b.reader ≠ 0 ∧ b.reader ≠ reader then .trap cILLEGAL (w64 j)
    else
      let m := Nat.min n (b.len - b.pos)
      let bind := fun (b : Binding) => { k with vu := { k.vu with s := Tbl.insert k.vu.s j b } }
      if !streamReady s c b.ch b.id (b.base + b.pos) (b.base + b.pos + m) then .wait (bind { b with reader := reader })
      else
        match k.lcl.load 0 (b.base + b.pos) m with
        | none => .trap cPOISON (w64 (localAddr c 0 ((k.lcl.firstPoison (b.base + b.pos) m).getD (b.base + b.pos))))
        | some bytes =>
          .ok (bytes ++ List.replicate (n - m) 0) (bind { b with pos := b.pos + n, reader := reader })

/-! ## Scalar ports (R19, R194) -/

/-- Pops scalar port source `n`: Q4–Q7 or S0–S3. -/
def scalarPop (s : State) (c : Nat) (k : Core) (n : Nat) : Got W :=
  if n < 8 then
    match k.vu.queue n with
    | [] => .wait k
    | w :: r => .ok w { k with vu := k.vu.setQueue n r }
  else
    match streamRead s c k (n - 8) 8 1 with
    | .ok bytes k => .ok (w64 (leNat bytes)) k
    | .wait k => .wait k
    | .trap code v => .trap code v

/-- Operand b of a Q-format instruction: a register, or a port when pb is set. -/
def Cx.operandB (cx : Cx) (pb : Bool) (b : Reg) : Got W :=
  if pb then scalarPop cx.s cx.c cx.k b.toNat else .ok (cx.x b) cx.k

/-- Writes a result to X[d], or pushes it into queue d when pd is set; a full queue makes the stream wait
(R194). -/
def Cx.result (cx : Cx) (k : Core) (pd : Bool) (d : Reg) (v : W) : Ret :=
  if pd then
    let q := k.vu.queue d.toNat
    if Config.queueSize ≤ q.length then .stay cx.s
    else .done (cx.s.setCore cx.c { k with vu := k.vu.setQueue d.toNat (q ++ [v]) })
  else .done (cx.s.setCore cx.c (k.setX cx.hi d v))

/-- A scalar instruction with operand b from a register, port or literal, and its result to X[d] or a port. -/
def Cx.alu (cx : Cx) (b : Got W) (pd : Bool) (d : Reg) (f : W → W) : Ret :=
  match b with
  | .ok v k => cx.result k pd d (f v)
  | .wait k => .stay (cx.s.setCore cx.c k)
  | .trap code v => .trap code v

/-! ## Rounding state (R172, R173, R371) -/

/-- The rounding of lane `i` in a bank. -/
def Bank.rnd (b : Bank) (i : Nat) : Rnd := ⟨b.rmode, if b.rmode = 4 then rOf b.rng i else 0⟩

/-- Advances STATE in SR mode (R173). -/
def Bank.advance (b : Bank) (n : Nat) : Bank := if b.rmode = 4 then { b with rng := b.rng + w64 n } else b

/-- The formats whose stores round by the mode (R371). -/
def roundingFmt (f : Option Fmt) : Bool :=
  match f with
  | some .f16 | some .bf16 | some .e4m3 | some .e5m2 | some .e2m1 => true
  | _ => false

/-! ## What vector/matrix instructions share with the scalar stream (R192) -/

/-- The guard's predicate as a list. -/
def guardReg (g : Guard) : List PReg := if g.p = 0 then [] else [g.p]

/-- The V register of field b, unless it names a port. -/
def vregB (p : Bool) (b : Reg) : List Reg := if p then [] else [b]

/-- A lane instruction: reads its guard and SR.VL. -/
def VUse.lanes (g : Guard) (vr vw : List Reg) (round : Bool) : VUse :=
  { VUse.none with pr := guardReg g, vr := vr, vw := vw, useVl := true, round := round }

/-- A matrix instruction: reads its guard only. -/
def VUse.matrix (g : Guard) : VUse := { VUse.none with pr := guardReg g }

/-- What an instruction of the vector/matrix stream shares. Instructions of the scalar stream and the
steps of other agents never stand in its queue and share nothing. -/
def vUse (i : Instr) : VUse :=
  match i with
  | .vadd f | .vsub f | .vmul f | .vdiv f => .lanes f.g (f.a :: vregB f.p f.b) [f.d] f.ty.isFloat
  | .vfma f | .vfms f | .vfnma f => .lanes f.g (f.a :: f.d :: vregB f.p f.b) [f.d] true
  | .vmin f | .vmax f => .lanes f.g (f.a :: vregB f.p f.b) [f.d] false
  | .vand f | .vor f | .vxor f | .vperm f => .lanes f.g (f.a :: vregB f.p f.b) [f.d] false
  | .vdot4I8 f | .vdot4N8 f => .lanes f.g (f.a :: f.d :: vregB f.p f.b) [f.d] false
  | .vshl f | .vshr f | .vsar f => .lanes f.g (f.a :: vregB f.p f.b) [f.d] false
  | .vcmp f => { VUse.lanes f.g (f.a :: vregB f.p f.b) [] false with pw := if f.pd = 0 then [] else [f.pd] }
  | .vsel f => { VUse.lanes f.g (f.a :: vregB f.p f.b) [f.d] false with pr := f.c :: guardReg f.g }
  | .vext f => { VUse.lanes f.g [f.a] [] false with xw := [f.d] }
  | .vins f => .lanes f.g [f.d] [f.d] false
  | .vmov f => .lanes f.g (vregB f.p f.a) [f.d] false
  | .vabs f | .vneg f => .lanes f.g (vregB f.p f.a) [f.d] false
  | .vsqrt f | .vrcp f | .vrsq f | .vexp2 f | .vlog2 f => .lanes f.g (vregB f.p f.a) [f.d] true
  | .vbcast f => .lanes f.g [] [f.d] false
  | .viota f => .lanes f.g [] [f.d] false
  | .vcomp f => { VUse.lanes f.g (vregB f.p f.a) [f.d] false with pr := f.c :: guardReg f.g }
  | .vlen f => { VUse.lanes f.g [] [] false with xw := [f.d], setVl := true }
  | .vmovQ f => .lanes f.g [f.a] [] false
  | .vred f => .lanes f.g (vregB f.p f.a) [f.d] (f.op == .add && f.ty.isFloat)
  | .vscan f => .lanes f.g (vregB f.p f.a) [f.d] (f.op == .add && f.ty.isFloat)
  | .vld f => .lanes f.g [] [f.d] true
  | .vldLit f => .lanes f.g [] [f.d] true
  | .vst f => .lanes f.g [f.d] [] true
  | .vstLit f => .lanes f.g [f.d] [] true
  | .vlds f => .lanes f.g [] [f.d] true
  | .vsts f => .lanes f.g [f.d] [] true
  | .vldx f => .lanes f.g [f.b] [f.d] true
  | .vstx f => .lanes f.g [f.b, f.d] [] true
  | .vcvt f => .lanes f.g [f.a] [f.d] (f.dst != f.src && f.dst != .t8)
  | .vdec f => .lanes f.g [f.a] [f.d] false
  | .venc f => .lanes f.g [f.a, f.d] [f.d] (f.dst != .t8)
  | .vqnt f => .lanes f.g [f.a, f.d, f.d + 1] [f.d, f.d + 1] true
  | .vdqnt f => .lanes f.g [f.a, f.a + 1] [f.d] true
  | .mma f => .matrix f.g
  | .mmat f => .matrix f.g
  | .tzero f => .matrix f.g
  | .tld f | .tldT f => .matrix f.g
  | .tst f | .tstn f => { VUse.matrix f.g with round := true }
  | .trow f => { VUse.matrix f.g with vr := [f.b], vw := [f.b] }
  | .clld f => .matrix f.g
  | .clrot f | .clwait f => { VUse.matrix f.g with ring := true }
  | .pgbound f | .pgpick f => { VUse.matrix f.g with vr := [f.b], vw := [f.b] }
  | .pgsum f | .pgclr f => .matrix f.g
  | _ => VUse.none

/-- The captured value of X register `r` of a queued instruction (R191). -/
def VItem.cap (it : VItem) (r : Reg) : W := if r = 0 then 0 else Tbl.getD it.caps r.toNat 0

/-- The window that an address value names, none for global memory. -/
def windowOf (a : W) : Option Nat := if a.bits 63 60 = 0 then none else some (a.bits 49 46)

/-- Whether a queued memory instruction rounds by the mode, given its window's binding (R371). -/
def VItem.rounds (l : Local) (it : VItem) : Bool :=
  let load := fun (a : W) => (windowOf a).any l.scaled
  let store := fun (a : W) => (windowOf a).any fun w => roundingFmt (l.fmtOf w)
  match it.instr with
  | .vld f => load (it.cap f.a + w64 (f.disp.toNat * 256))
  | .vldLit f => load (it.cap f.a + litVal f.lit)
  | .vlds f => load (it.cap f.a)
  | .vldx f => load (it.cap f.a)
  | .vst f => store (it.cap f.a + w64 (f.disp.toNat * 256))
  | .vstLit f => store (it.cap f.a + litVal f.lit)
  | .vsts f => store (it.cap f.a)
  | .vstx f => store (it.cap f.a)
  | .tst f => !(it.cap f.b).getLsbD 31
  | _ => true

/-- What a queued instruction shares. -/
def VItem.use (l : Local) (it : VItem) : VUse :=
  let u := vUse it.instr
  { u with round := u.round && it.rounds l }

/-- The frame of a scalar-stream instruction of this machine (R22–R25, R192). -/
def scalar (n : Need) (body : Cx → Ret) (s : State) : Out := scalarWith VItem.use n body s

end Sys2Proof.Machine
end

