-- ==== Sys2Proof/Machine/Scalar.lean ====
section
/-! DEFINITION. Scalar arithmetic, moves, comparison, selection and predicates (R262–R272), scalar floating
point (R275–R278), and the compact forms equal to them (R21). -/

namespace Sys2Proof.Machine

/-! ## The integer operations on values -/

/-- The smaller or larger by an order (R263). -/
def pick (le : Bool) (a b : W) : W := if le then a else b

/-- MULH: high half of the signed product (R263). -/
def mulh (a b : W) : W := BitVec.ofInt 64 (a.toInt * b.toInt / 2 ^ 64)

/-- MULHU: high half of the unsigned product (R263). -/
def mulhu (a b : W) : W := w64 (a.toNat * b.toNat / 2 ^ 64)

/-- Signed quotient (R265). -/
def divS (a b : W) : W := if b = 0 then BitVec.allOnes 64 else BitVec.ofInt 64 (Int.tdiv a.toInt b.toInt)

/-- Unsigned quotient (R265). -/
def divU (a b : W) : W := if b = 0 then BitVec.allOnes 64 else w64 (a.toNat / b.toNat)

/-- Signed remainder (R265). -/
def remS (a b : W) : W := if b = 0 then a else BitVec.ofInt 64 (Int.tmod a.toInt b.toInt)

/-- Unsigned remainder (R265). -/
def remU (a b : W) : W := if b = 0 then a else w64 (a.toNat % b.toNat)

/-- The field a BFX or BFI control names: position and length, cut off at bit 63 (R266). -/
def fieldOf (c : W) : Nat × Nat := (c.bits 5 0, Nat.min (c.bits 11 6 + 1) (64 - c.bits 5 0))

/-- BFX (R266). -/
def bfx (a c : W) : W :=
  let (pos, n) := fieldOf c
  extW (c.getLsbD 12) n (a.toNat / 2 ^ pos % 2 ^ n)

/-- BFI (R266). -/
def bfi (d a c : W) : W :=
  let (pos, n) := fieldOf c
  let mask : W := w64 ((2 ^ n - 1) * 2 ^ pos)
  (d &&& ~~~mask) ||| ((a <<< pos) &&& mask)

/-- SHL (R267). -/
def shl (a s : W) : W := if s.toNat < 64 then a <<< s.toNat else 0
/-- SHR (R267). -/
def shr (a s : W) : W := if s.toNat < 64 then a >>> s.toNat else 0
/-- SAR (R267). -/
def sar (a s : W) : W := a.sshiftRight (Nat.min s.toNat 63)
/-- ROL (R267). -/
def rol (a s : W) : W := a.rotateLeft (s.toNat % 64)

/-- XYADDR (R271). -/
def xyaddr (a b : W) : W :=
  let n := a.bits 9 0
  w64 (8 * 2 ^ 60 + bitsOf n 9 6 * 2 ^ 56 + bitsOf n 5 2 * 2 ^ 52 + bitsOf n 1 0 * 2 ^ 50 + b.bits 21 18 * 2 ^ 46 + b.bits 17 0)

/-- CLZ (R264). -/
def clz (a : W) : W := w64 (if a = 0 then 64 else 63 - topBit a.toNat)
/-- CTZ (R264). -/
def ctz (a : W) : W := w64 (if a = 0 then 64 else ((List.range 64).find? (a.getLsbD ·)).getD 64)
/-- POPC (R264). -/
def popc (a : W) : W := w64 (popcount 64 a.toNat)

/-- The width of an EXT code in bits (R27). -/
def ExtWidth.bits (w : ExtWidth) : Nat :=
  match w with
  | .w8 => 8
  | .w16 => 16
  | .w32 => 32

/-- WFLD: the window field replaced (R269). -/
def wfld (a b : W) : W := (a &&& ~~~(0xF#64 <<< 46)) ||| ((b &&& 0xF#64) <<< 46)

/-- MOVHI (R268). -/
def movhi (d : W) (imm : BitVec 32) : W := (imm ++ d.extractLsb' 0 32 : BitVec (32 + 32))

/-! ## Shapes -/

/-- A Q-format operation on X[a] and operand b. -/
def qOp (f : QForm) (fn : W → W → W) (s : State) : Out :=
  scalar { Need.plain 2 f.g (f.a :: (if f.pb then [] else [f.b])) with xd := if f.pd then [] else [f.d], noHi := f.pb || f.pd }
    (fun cx => cx.alu (cx.operandB f.pb f.b) f.pd f.d fun b => fn (cx.x f.a) b) s

/-- A Q-format operation with a literal. -/
def qLit (f : QLit) (fn : W → W → W) (s : State) : Out :=
  scalar { Need.plain 4 f.g [f.a] with xd := if f.pd then [] else [f.d], noHi := f.pd }
    (fun cx => cx.alu (.ok (litVal f.lit) cx.k) f.pd f.d fun b => fn (cx.x f.a) b) s

/-- A Q-format operation on X[a], operand b and the old X[d]. -/
def q3Op (f : QForm) (fn : W → W → W → W) (s : State) : Out :=
  scalar { Need.plain 2 f.g (f.a :: f.d :: (if f.pb then [] else [f.b])) with xd := if f.pd then [] else [f.d], noHi := f.pb || f.pd }
    (fun cx => cx.alu (cx.operandB f.pb f.b) f.pd f.d fun b => fn (cx.x f.d) (cx.x f.a) b) s

/-- A Q-format operation with a literal and the old X[d]. -/
def q3Lit (f : QLit) (fn : W → W → W → W) (s : State) : Out :=
  scalar { Need.plain 4 f.g [f.a, f.d] with xd := if f.pd then [] else [f.d], noHi := f.pd }
    (fun cx => cx.alu (.ok (litVal f.lit) cx.k) f.pd f.d fun b => fn (cx.x f.d) (cx.x f.a) b) s

/-- A Q-format operation on X[a] alone. -/
def q1Op (pd : Bool) (a d : Reg) (g : Guard) (fn : W → W) (s : State) : Out :=
  scalar { Need.plain 2 g [a] with xd := if pd then [] else [d], noHi := pd }
    (fun cx => cx.alu (.ok (cx.x a) cx.k) pd d fn) s

/-- An operation of `len` halfwords on X[a], to X[d]. -/
def iOp (len : Nat) (g : Guard) (a d : Reg) (fn : W → W) (s : State) : Out :=
  scalar { Need.plain len g [a] with xd := [d] } (fun cx => .done (cx.s.setCore cx.c (cx.k.setX cx.hi d (fn (cx.x a))))) s

/-- A compact operation on X[d] and X[b], to X[d] (R21). -/
def cOp (f : C2) (fn : W → W → W) (s : State) : Out :=
  scalar { Need.plain 1 .always [f.d, f.b] with xd := [f.d] }
    (fun cx => .done (cx.s.setCore cx.c (cx.k.setX cx.hi f.d (fn (cx.x f.d) (cx.x f.b))))) s

/-- A comparison writing predicate `pd` (R270). -/
def predOp (n : Need) (pd : PReg) (fn : Cx → Got Bool) (s : State) : Out :=
  scalar { n with pd := if pd = 0 then [] else [pd] }
    (fun cx => match fn cx with
      | .ok t k => .done (cx.s.setCore cx.c (k.setP cx.hi pd (predOf t)))
      | .wait k => .stay (cx.s.setCore cx.c k)
      | .trap code v => .trap code v) s

/-! ## Register-register operations (R263–R267) -/

/-- ADD: wrapping sum (R263). -/
def execAdd (f : QForm) (s : State) : Out := qOp f (fun a b => a + b) s
/-- ADD with a literal (R20). -/
def execAddLit (f : QLit) (s : State) : Out := qLit f (fun a b => a + b) s

/-- SUB: wrapping difference (R263). -/
def execSub (f : QForm) (s : State) : Out := qOp f (fun a b => a - b) s
/-- SUB with a literal (R20). -/
def execSubLit (f : QLit) (s : State) : Out := qLit f (fun a b => a - b) s

/-- MIN: signed minimum (R263). -/
def execMin (f : QForm) (s : State) : Out := qOp f (fun a b => pick (!(b.slt a)) a b) s
/-- MIN with a literal (R20). -/
def execMinLit (f : QLit) (s : State) : Out := qLit f (fun a b => pick (!(b.slt a)) a b) s

/-- MAX: signed maximum (R263). -/
def execMax (f : QForm) (s : State) : Out := qOp f (fun a b => pick (!(a.slt b)) a b) s
/-- MAX with a literal (R20). -/
def execMaxLit (f : QLit) (s : State) : Out := qLit f (fun a b => pick (!(a.slt b)) a b) s

/-- MINU: unsigned minimum (R263). -/
def execMinu (f : QForm) (s : State) : Out := qOp f (fun a b => pick (!(b.ult a)) a b) s
/-- MINU with a literal (R20). -/
def execMinuLit (f : QLit) (s : State) : Out := qLit f (fun a b => pick (!(b.ult a)) a b) s

/-- MAXU: unsigned maximum (R263). -/
def execMaxu (f : QForm) (s : State) : Out := qOp f (fun a b => pick (!(a.ult b)) a b) s
/-- MAXU with a literal (R20). -/
def execMaxuLit (f : QLit) (s : State) : Out := qLit f (fun a b => pick (!(a.ult b)) a b) s

/-- ANDN: a AND NOT b (R263). -/
def execAndn (f : QForm) (s : State) : Out := qOp f (fun a b => a &&& ~~~b) s
/-- ANDN with a literal (R20). -/
def execAndnLit (f : QLit) (s : State) : Out := qLit f (fun a b => a &&& ~~~b) s

/-- BFX: field extract (R266). -/
def execBfx (f : QForm) (s : State) : Out := qOp f (fun a b => Machine.bfx a b) s
/-- BFX with a literal (R20). -/
def execBfxLit (f : QLit) (s : State) : Out := qLit f (fun a b => Machine.bfx a b) s

/-- AND: bitwise AND (R263). -/
def execAnd (f : QForm) (s : State) : Out := qOp f (fun a b => a &&& b) s
/-- AND with a literal (R20). -/
def execAndLit (f : QLit) (s : State) : Out := qLit f (fun a b => a &&& b) s

/-- OR: bitwise OR (R263). -/
def execOr (f : QForm) (s : State) : Out := qOp f (fun a b => a ||| b) s
/-- OR with a literal (R20). -/
def execOrLit (f : QLit) (s : State) : Out := qLit f (fun a b => a ||| b) s

/-- XOR: bitwise XOR (R263). -/
def execXor (f : QForm) (s : State) : Out := qOp f (fun a b => a ^^^ b) s
/-- XOR with a literal (R20). -/
def execXorLit (f : QLit) (s : State) : Out := qLit f (fun a b => a ^^^ b) s

/-- BFI: field insert (R266). -/
def execBfi (f : QForm) (s : State) : Out := q3Op f (fun d a b => Machine.bfi d a b) s
/-- BFI with a literal (R20). -/
def execBfiLit (f : QLit) (s : State) : Out := q3Lit f (fun d a b => Machine.bfi d a b) s

/-- SHL: shift left (R267). -/
def execShl (f : QForm) (s : State) : Out := qOp f (fun a b => Machine.shl a b) s
/-- SHL with a literal (R20). -/
def execShlLit (f : QLit) (s : State) : Out := qLit f (fun a b => Machine.shl a b) s

/-- SHR: logical shift right (R267). -/
def execShr (f : QForm) (s : State) : Out := qOp f (fun a b => Machine.shr a b) s
/-- SHR with a literal (R20). -/
def execShrLit (f : QLit) (s : State) : Out := qLit f (fun a b => Machine.shr a b) s

/-- SAR: arithmetic shift right (R267). -/
def execSar (f : QForm) (s : State) : Out := qOp f (fun a b => Machine.sar a b) s
/-- SAR with a literal (R20). -/
def execSarLit (f : QLit) (s : State) : Out := qLit f (fun a b => Machine.sar a b) s

/-- ROL: rotate left (R267). -/
def execRol (f : QForm) (s : State) : Out := qOp f (fun a b => Machine.rol a b) s
/-- ROL with a literal (R20). -/
def execRolLit (f : QLit) (s : State) : Out := qLit f (fun a b => Machine.rol a b) s

/-- MUL: low product (R263). -/
def execMul (f : QForm) (s : State) : Out := qOp f (fun a b => a * b) s
/-- MUL with a literal (R20). -/
def execMulLit (f : QLit) (s : State) : Out := qLit f (fun a b => a * b) s

/-- MULH: high signed product (R263). -/
def execMulh (f : QForm) (s : State) : Out := qOp f (fun a b => Machine.mulh a b) s
/-- MULH with a literal (R20). -/
def execMulhLit (f : QLit) (s : State) : Out := qLit f (fun a b => Machine.mulh a b) s

/-- MULHU: high unsigned product (R263). -/
def execMulhu (f : QForm) (s : State) : Out := qOp f (fun a b => Machine.mulhu a b) s
/-- MULHU with a literal (R20). -/
def execMulhuLit (f : QLit) (s : State) : Out := qLit f (fun a b => Machine.mulhu a b) s

/-- XYADDR: region 0x8 address (R271). -/
def execXyaddr (f : QForm) (s : State) : Out := qOp f (fun a b => Machine.xyaddr a b) s
/-- XYADDR with a literal (R20). -/
def execXyaddrLit (f : QLit) (s : State) : Out := qLit f (fun a b => Machine.xyaddr a b) s

/-- DIV: signed quotient (R265). -/
def execDiv (f : QForm) (s : State) : Out := qOp f (fun a b => divS a b) s
/-- DIV with a literal (R20). -/
def execDivLit (f : QLit) (s : State) : Out := qLit f (fun a b => divS a b) s

/-- DIVU: unsigned quotient (R265). -/
def execDivu (f : QForm) (s : State) : Out := qOp f (fun a b => divU a b) s
/-- DIVU with a literal (R20). -/
def execDivuLit (f : QLit) (s : State) : Out := qLit f (fun a b => divU a b) s

/-- REM: signed remainder (R265). -/
def execRem (f : QForm) (s : State) : Out := qOp f (fun a b => remS a b) s
/-- REM with a literal (R20). -/
def execRemLit (f : QLit) (s : State) : Out := qLit f (fun a b => remS a b) s

/-- REMU: unsigned remainder (R265). -/
def execRemu (f : QForm) (s : State) : Out := qOp f (fun a b => remU a b) s
/-- REMU with a literal (R20). -/
def execRemuLit (f : QLit) (s : State) : Out := qLit f (fun a b => remU a b) s

/-- CLZ (R264). -/
def execClz (f : Q1) (s : State) : Out := q1Op f.pd f.a f.d f.g Machine.clz s

/-- CTZ (R264). -/
def execCtz (f : Q1) (s : State) : Out := q1Op f.pd f.a f.d f.g Machine.ctz s

/-- POPC (R264). -/
def execPopc (f : Q1) (s : State) : Out := q1Op f.pd f.a f.d f.g Machine.popc s

/-- EXT (R264). -/
def execExt (f : ExtForm) (s : State) : Out :=
  q1Op f.pd f.a f.d f.g (fun a => extW (!f.uns) (ExtWidth.bits f.width) (a.toNat % 2 ^ ExtWidth.bits f.width)) s

/-- SEL (R269). -/
def execSel (f : SelForm) (s : State) : Out :=
  scalar { Need.plain 2 f.g [f.a, f.b] with xd := [f.d], pr := if f.c = 0 then [] else [f.c] }
    (fun cx => .done (cx.s.setCore cx.c (cx.k.setX cx.hi f.d (if (cx.p f.c).getLsbD 0 then cx.x f.a else cx.x f.b)))) s

/-- SEL with a literal (R269). -/
def execSelLit (f : SelLit) (s : State) : Out :=
  scalar { Need.plain 4 f.g [f.a] with xd := [f.d], pr := if f.c = 0 then [] else [f.c] }
    (fun cx => .done (cx.s.setCore cx.c (cx.k.setX cx.hi f.d (if (cx.p f.c).getLsbD 0 then cx.x f.a else litVal f.lit)))) s

/-- WFLD (R269). -/
def execWfld (f : R3) (s : State) : Out :=
  scalar { Need.plain 2 f.g [f.a, f.b] with xd := [f.d] }
    (fun cx => .done (cx.s.setCore cx.c (cx.k.setX cx.hi f.d (wfld (cx.x f.a) (cx.x f.b))))) s

/-- WFLD with a literal (R269). -/
def execWfldLit (f : R2Lit) (s : State) : Out := iOp 4 f.g f.a f.d (fun a => wfld a (litVal f.lit)) s

/-- CMP (R270). -/
def execCmp (f : CmpForm) (s : State) : Out :=
  predOp { Need.plain 2 f.g (f.a :: (if f.pb then [] else [f.b])) with noHi := f.pb } f.pd
    (fun cx => match cx.operandB f.pb f.b with
      | .ok b k => .ok (cmpHolds f.cond (cx.x f.a) b) k
      | .wait k => .wait k
      | .trap code v => .trap code v) s

/-- CMP with a literal (R270). -/
def execCmpLit (f : CmpLit) (s : State) : Out :=
  predOp (Need.plain 4 f.g [f.a]) f.pd (fun cx => .ok (cmpHolds f.cond (cx.x f.a) (litVal f.lit)) cx.k) s

/-! ## Immediates (R268) -/

/-- ADDI (R268). -/
def execAddi (f : IForm) (s : State) : Out := iOp 2 f.g f.a f.d (fun a => a + immVal f.imm) s
/-- ADDI with a literal (R268). -/
def execAddiLit (f : R2Lit) (s : State) : Out := iOp 4 f.g f.a f.d (fun a => a + litVal f.lit) s

/-- ANDI (R268). -/
def execAndi (f : IForm) (s : State) : Out := iOp 2 f.g f.a f.d (fun a => a &&& immVal f.imm) s
/-- ANDI with a literal (R268). -/
def execAndiLit (f : R2Lit) (s : State) : Out := iOp 4 f.g f.a f.d (fun a => a &&& litVal f.lit) s

/-- ORI (R268). -/
def execOri (f : IForm) (s : State) : Out := iOp 2 f.g f.a f.d (fun a => a ||| immVal f.imm) s
/-- ORI with a literal (R268). -/
def execOriLit (f : R2Lit) (s : State) : Out := iOp 4 f.g f.a f.d (fun a => a ||| litVal f.lit) s

/-- XORI (R268). -/
def execXori (f : IForm) (s : State) : Out := iOp 2 f.g f.a f.d (fun a => a ^^^ immVal f.imm) s
/-- XORI with a literal (R268). -/
def execXoriLit (f : R2Lit) (s : State) : Out := iOp 4 f.g f.a f.d (fun a => a ^^^ litVal f.lit) s

/-- SHLI (R268). -/
def execShli (f : ShiftI) (s : State) : Out := iOp 2 f.g f.a f.d (fun a => shl a (w64 f.n.toNat)) s

/-- SHRI (R268). -/
def execShri (f : ShiftI) (s : State) : Out := iOp 2 f.g f.a f.d (fun a => shr a (w64 f.n.toNat)) s

/-- SARI (R268). -/
def execSari (f : ShiftI) (s : State) : Out := iOp 2 f.g f.a f.d (fun a => sar a (w64 f.n.toNat)) s

/-- CMPI (R270). -/
def execCmpi (f : CmpiForm) (s : State) : Out :=
  predOp (Need.plain 2 f.g [f.a]) f.pd (fun cx => .ok (cmpiHolds f.cond (cx.x f.a) (immVal f.imm)) cx.k) s

/-- CMPI with a literal (R270). -/
def execCmpiLit (f : CmpiLit) (s : State) : Out :=
  predOp (Need.plain 4 f.g [f.a]) f.pd (fun cx => .ok (cmpiHolds f.cond (cx.x f.a) (litVal f.lit)) cx.k) s

/-- MOVI (R268). -/
def execMovi (f : MovForm) (s : State) : Out := iOp 2 f.g 0 f.d (fun _ => immVal f.imm) s
/-- MOVI with a literal (R268). -/
def execMoviLit (f : MovLit) (s : State) : Out := iOp 4 f.g 0 f.d (fun _ => litVal f.lit) s
/-- MOVHI: imm9 sign-extended to 32 bits (R268). -/
def execMovhi (f : MovForm) (s : State) : Out := iOp 2 f.g f.d f.d (fun d => movhi d (f.imm.signExtend 32)) s
/-- MOVHI with a literal, taken unextended (R268). -/
def execMovhiLit (f : MovLit) (s : State) : Out := iOp 4 f.g f.d f.d (fun d => movhi d f.lit) s

/-! ## Predicates (R272) -/

/-- The lanes that PCNT, BP.ANY, BP.ALL and BP.NONE look at: SR.VL, or all 64 in a HI task (R272, R273). -/
def Cx.predLanes (cx : Cx) : Nat := if cx.hi then 64 else cx.k.vu.vl

/-- PLOG (R272). -/
def execPlog (f : PlogForm) (s : State) : Out :=
  scalar { Need.plain 2 f.g [] with pr := [f.a, f.b], pd := if f.d = 0 then [] else [f.d] }
    (fun cx => .done (cx.s.setCore cx.c (cx.k.setP cx.hi f.d (plog f.tt (cx.p f.a) (cx.p f.b))))) s

/-- PSET (R272). -/
def execPset (f : PsetForm) (s : State) : Out :=
  scalar { Need.plain 2 f.g [f.a] with pd := if f.d = 0 then [] else [f.d] }
    (fun cx => .done (cx.s.setCore cx.c (cx.k.setP cx.hi f.d (cx.x f.a)))) s

/-- PGET (R272). -/
def execPget (f : PgetForm) (s : State) : Out :=
  scalar { Need.plain 2 f.g [] with xd := [f.d], pr := [f.a] }
    (fun cx => .done (cx.s.setCore cx.c (cx.k.setX cx.hi f.d (cx.p f.a)))) s

/-- PCNT (R272). -/
def execPcnt (f : PgetForm) (s : State) : Out :=
  scalar { Need.plain 2 f.g [] with xd := [f.d], pr := [f.a], readVl := true }
    (fun cx => .done (cx.s.setCore cx.c (cx.k.setX cx.hi f.d (w64 (popcount cx.predLanes (cx.p f.a).toNat))))) s

/-! ## Floating point (R275–R278) -/

/-- A rounding operation on X[a], X[b] and, if `three`, X[d] in a format: uses r_0 and, in SR mode, advances STATE by 64
(R276). -/
def fOp (spec : FSpec) (three : Bool) (f : R3) (fn : Rnd → Nat → Nat → Nat → Nat) (s : State) : Out :=
  scalar { Need.plain 2 f.g ([f.a, f.b] ++ (if three then [f.d] else [])) with xd := [f.d], round := true }
    (fun cx =>
      let bk := cx.k.bank cx.hi
      let m := 2 ^ spec.width
      let v := fn (bk.rnd 0) ((cx.x f.a).toNat % m) ((cx.x f.b).toNat % m) ((cx.x f.d).toNat % m)
      .done (cx.s.setCore cx.c ((cx.k.setBank cx.hi (bk.advance 64)).setX cx.hi f.d (w64 v)))) s

/-- An operation in a format that neither rounds nor touches STATE (R276). -/
def fPick (spec : FSpec) (f : R3) (fn : Nat → Nat → Nat) (s : State) : Out :=
  scalar { Need.plain 2 f.g [f.a, f.b] with xd := [f.d] }
    (fun cx =>
      let m := 2 ^ spec.width
      .done (cx.s.setCore cx.c (cx.k.setX cx.hi f.d (w64 (fn ((cx.x f.a).toNat % m) ((cx.x f.b).toNat % m)))))) s

/-- FADD.F32 (R275). -/
def execFaddF32 (f : R3) (s : State) : Out := fOp sF32 false f (fun rd a b _ => sF32.add rd a b) s

/-- FSUB.F32 (R275). -/
def execFsubF32 (f : R3) (s : State) : Out := fOp sF32 false f (fun rd a b _ => sF32.sub rd a b) s

/-- FMUL.F32 (R275). -/
def execFmulF32 (f : R3) (s : State) : Out := fOp sF32 false f (fun rd a b _ => sF32.mul rd a b) s

/-- FDIV.F32 (R275). -/
def execFdivF32 (f : R3) (s : State) : Out := fOp sF32 false f (fun rd a b _ => sF32.div rd a b) s

/-- FSQRT.F32 (R275, R276). -/
def execFsqrtF32 (f : R2) (s : State) : Out := fOp sF32 false ⟨0, f.a, f.d, f.g⟩ (fun rd a _ _ => sF32.sqrt rd a) s

/-- FMIN.F32 (R275, R200). -/
def execFminF32 (f : R3) (s : State) : Out := fPick sF32 f (sF32.minmax false) s

/-- FMAX.F32 (R275, R200). -/
def execFmaxF32 (f : R3) (s : State) : Out := fPick sF32 f (sF32.minmax true) s

/-- FFMA.F32: a × b + d with one rounding (R275). -/
def execFfmaF32 (f : R3) (s : State) : Out :=
  fOp sF32 true f (fun rd a b d => sF32.fma rd (sF32.decode a) (sF32.decode b) (sF32.decode d)) s

/-- FADD.F64 (R275). -/
def execFaddF64 (f : R3) (s : State) : Out := fOp sF64 false f (fun rd a b _ => sF64.add rd a b) s

/-- FSUB.F64 (R275). -/
def execFsubF64 (f : R3) (s : State) : Out := fOp sF64 false f (fun rd a b _ => sF64.sub rd a b) s

/-- FMUL.F64 (R275). -/
def execFmulF64 (f : R3) (s : State) : Out := fOp sF64 false f (fun rd a b _ => sF64.mul rd a b) s

/-- FDIV.F64 (R275). -/
def execFdivF64 (f : R3) (s : State) : Out := fOp sF64 false f (fun rd a b _ => sF64.div rd a b) s

/-- FSQRT.F64 (R275, R276). -/
def execFsqrtF64 (f : R2) (s : State) : Out := fOp sF64 false ⟨0, f.a, f.d, f.g⟩ (fun rd a _ _ => sF64.sqrt rd a) s

/-- FMIN.F64 (R275, R200). -/
def execFminF64 (f : R3) (s : State) : Out := fPick sF64 f (sF64.minmax false) s

/-- FMAX.F64 (R275, R200). -/
def execFmaxF64 (f : R3) (s : State) : Out := fPick sF64 f (sF64.minmax true) s

/-- FFMA.F64: a × b + d with one rounding (R275). -/
def execFfmaF64 (f : R3) (s : State) : Out :=
  fOp sF64 true f (fun rd a b d => sF64.fma rd (sF64.decode a) (sF64.decode b) (sF64.decode d)) s

/-- FCMP (R277). -/
def execFcmp (f : FcmpForm) (s : State) : Out :=
  predOp (Need.plain 2 f.g [f.a, f.b]) f.pd
    (fun cx =>
      let spec := if f.dbl then sF64 else sF32
      let v (r : Reg) : FVal := spec.decode ((cx.x r).toNat % 2 ^ spec.width)
      .ok (fcmpHolds f.cond (v f.a) (v f.b)) cx.k) s

/-- Bits of an FCVT format (R262). -/
def cvtBits (t : CvtTy) : Nat :=
  match t with
  | .f64 | .i64 | .n64 => 64
  | .f32 | .i32 | .n32 => 32
  | .f16 | .bf16 => 16

/-- The floating layout of an FCVT format, none for integers. -/
def cvtSpec (t : CvtTy) : Option FSpec :=
  match t with
  | .f64 => some sF64
  | .f32 => some sF32
  | .f16 => some sF16
  | .bf16 => some sBF16
  | .i64 | .n64 | .i32 | .n32 => none

/-- Whether an FCVT integer format is signed. -/
def cvtSigned (t : CvtTy) : Bool := t == .i64 || t == .i32

/-- FCVT on values (R278): the 64-bit register value, written by R262. -/
def fcvt (dst src : CvtTy) (rd : Rnd) (a : W) : W :=
  let raw := a.toNat % 2 ^ cvtBits src
  if dst = src then extW (src == .i32) (cvtBits src) raw
  else
    let v : FVal := match cvtSpec src with
      | some sp => sp.decode raw
      | none => .ofInt (if cvtSigned src then signed (cvtBits src) raw else (raw : Int))
    match cvtSpec dst with
    | some sp => w64 (sp.convert rd false v)
    | none => extW (dst == .i32) (cvtBits dst) (convertInt (cvtSigned dst) (cvtBits dst) rd v)

/-- FCVT (R278); rounds and advances STATE unless to = from (R276). -/
def execFcvt (f : FcvtForm) (s : State) : Out :=
  scalar { Need.plain 2 f.g [f.a] with xd := [f.d], round := f.dst != f.src }
    (fun cx =>
      let bk := cx.k.bank cx.hi
      let bk' := if f.dst = f.src then bk else bk.advance 64
      .done (cx.s.setCore cx.c ((cx.k.setBank cx.hi bk').setX cx.hi f.d (fcvt f.dst f.src (bk.rnd 0) (cx.x f.a))))) s

/-! ## Compact forms (R21) -/

/-- Compact ADD. -/
def execCAdd (f : C2) (s : State) : Out := cOp f (fun d b => d + b) s

/-- Compact SUB. -/
def execCSub (f : C2) (s : State) : Out := cOp f (fun d b => d - b) s

/-- Compact AND. -/
def execCAnd (f : C2) (s : State) : Out := cOp f (fun d b => d &&& b) s

/-- Compact OR. -/
def execCOr (f : C2) (s : State) : Out := cOp f (fun d b => d ||| b) s

/-- Compact XOR. -/
def execCXor (f : C2) (s : State) : Out := cOp f (fun d b => d ^^^ b) s

/-- Compact OR Xf1, Xf2, X0. -/
def execCMov (f : C2) (s : State) : Out := cOp f (fun _ b => b) s

/-- Compact MUL. -/
def execCMul (f : C2) (s : State) : Out := cOp f (fun d b => d * b) s

/-- Compact ADDI. -/
def execCAddi (f : CImm) (s : State) : Out := iOp 1 .always f.d f.d (fun a => a + f.imm.signExtend 64) s

/-- Compact ADDI from X0. -/
def execCAddiX0 (f : CImm) (s : State) : Out := iOp 1 .always 0 f.d (fun a => a + f.imm.signExtend 64) s

/-- Compact ANDI. -/
def execCAndi (f : CImm) (s : State) : Out := iOp 1 .always f.d f.d (fun a => a &&& f.imm.signExtend 64) s

/-- Compact SHLI. -/
def execCShli (f : CImm) (s : State) : Out := iOp 1 .always f.d f.d (fun a => shl a (w64 f.imm.toNat)) s

/-- Compact SHRI. -/
def execCShri (f : CImm) (s : State) : Out := iOp 1 .always f.d f.d (fun a => shr a (w64 f.imm.toNat)) s

/-- Compact SARI. -/
def execCSari (f : CImm) (s : State) : Out := iOp 1 .always f.d f.d (fun a => sar a (w64 f.imm.toNat)) s

/-- Compact CMP.EQ Pf1, Xf1, Xf2: f1 is both the predicate and register a. -/
def execCCmpEq (f : C2) (s : State) : Out :=
  predOp (Need.plain 1 .always [f.d, f.b]) (f.d.extractLsb' 0 3) (fun cx => .ok (cx.x f.d == cx.x f.b) cx.k) s

/-- NOP: ADDI X0, X0, 0. -/
def execNop (s : State) : Out := iOp 1 .always 0 0 (fun a => a) s

end Sys2Proof.Machine
end

