-- ==== Sys2Proof/Machine/Branch.lean ====
section
/-! DEFINITION. Branches and jumps (R16, R273, R274), with their compact forms. -/

namespace Sys2Proof.Machine

/-- The number of halfwords of the code a task runs: its carried buffer, or instruction memory (R16, R162). -/
def Cx.codeLen (cx : Cx) : Nat := if cx.t.carried then cx.t.code.length else Config.imemHalfwords

/-- A taken branch or jump to halfword index `z`, writing the link `d` (R16): a target outside the code traps
ILLEGAL at the branch, without a link. -/
def Cx.jump (cx : Cx) (z : Int) (d : Reg) (link : Nat) : Ret :=
  if z < 0 ∨ cx.codeLen ≤ z then .trap cILLEGAL (cx.k.instrWord cx.t)
  else .goto (cx.s.setCore cx.c (cx.k.setX cx.hi d (w64 link))) z.toNat

/-- A branch of `len` halfwords by `off` when `taken`. -/
def Cx.branch (cx : Cx) (taken : Bool) (off : Int) : Ret :=
  if taken then cx.jump (cx.t.pc + off) 0 0 else .done cx.s

/-- BR (R273). -/
def execBr (f : BrForm) (s : State) : Out :=
  scalar (Need.plain 2 f.g [f.a]) (fun cx => cx.branch (brHolds f.cond (cx.x f.a)) f.off.toInt) s

/-- BR with a literal offset. -/
def execBrLit (f : BrLit) (s : State) : Out :=
  scalar (Need.plain 4 f.g [f.a]) (fun cx => cx.branch (brHolds f.cond (cx.x f.a)) f.lit.toInt) s

/-- BP (R273). -/
def execBp (f : BpForm) (s : State) : Out :=
  scalar { Need.plain 2 f.g [] with pr := [f.a], readVl := f.cond == .any || f.cond == .all || f.cond == .none }
    (fun cx => cx.branch (bpHolds f.cond cx.predLanes (cx.p f.a)) f.off.toInt) s

/-- BP with a literal offset. -/
def execBpLit (f : BpLit) (s : State) : Out :=
  scalar { Need.plain 4 f.g [] with pr := [f.a], readVl := f.cond == .any || f.cond == .all || f.cond == .none }
    (fun cx => cx.branch (bpHolds f.cond cx.predLanes (cx.p f.a)) f.lit.toInt) s

/-- J (R273). -/
def execJ (f : JForm) (s : State) : Out :=
  scalar (Need.plain 2 f.g []) (fun cx => cx.jump (cx.t.pc + f.off.toInt) 0 0) s

/-- J with a literal offset. -/
def execJLit (f : JLit) (s : State) : Out :=
  scalar (Need.plain 4 f.g []) (fun cx => cx.jump (cx.t.pc + f.lit.toInt) 0 0) s

/-- JL: the link is the index after the instruction (R273). -/
def execJl (f : JlForm) (s : State) : Out :=
  scalar { Need.plain 2 f.g [] with xd := [f.a] } (fun cx => cx.jump (cx.t.pc + f.off.toInt) f.a (cx.t.pc + 2)) s

/-- JL with a literal offset. -/
def execJlLit (f : JlLit) (s : State) : Out :=
  scalar { Need.plain 4 f.g [] with xd := [f.a] } (fun cx => cx.jump (cx.t.pc + f.lit.toInt) f.a (cx.t.pc + 4)) s

/-- JR (R274). -/
def execJr (f : Ra) (s : State) : Out :=
  scalar (Need.plain 2 f.g [f.a]) (fun cx => cx.jump ((cx.x f.a).toNat : Int) 0 0) s

/-- JLR: X[a] is read before X[d] is written (R274). -/
def execJlr (f : R2) (s : State) : Out :=
  scalar { Need.plain 2 f.g [f.a] with xd := [f.d] } (fun cx => cx.jump ((cx.x f.a).toNat : Int) f.d (cx.t.pc + 2)) s

/-- Compact BR.EQ (R21). -/
def execCBrEq (f : CImm) (s : State) : Out :=
  scalar (Need.plain 1 .always [f.d]) (fun cx => cx.branch (cx.x f.d == 0) f.imm.toInt) s

/-- Compact BR.NE. -/
def execCBrNe (f : CImm) (s : State) : Out :=
  scalar (Need.plain 1 .always [f.d]) (fun cx => cx.branch (cx.x f.d != 0) f.imm.toInt) s

/-- Compact JR. -/
def execCJr (f : C1) (s : State) : Out :=
  scalar (Need.plain 1 .always [f.a]) (fun cx => cx.jump ((cx.x f.a).toNat : Int) 0 0) s

/-- Compact JLR X1. -/
def execCJlr (f : C1) (s : State) : Out :=
  scalar { Need.plain 1 .always [f.a] with xd := [1] } (fun cx => cx.jump ((cx.x f.a).toNat : Int) 1 (cx.t.pc + 1)) s

end Sys2Proof.Machine
end

