-- ==== Sys2Proof/Machine/Coherence.lean ====
section
/-! DEFINITION. Home slices, the L1s and word registration (R89–R101), and the coherent access of engines
and home units to physical memory (R71). A home's value of a byte is the one `State.mem` holds, host-tier
bytes included; a slice's allocations bear on latency and monitors only (R37). -/

namespace Sys2Proof.Machine

/-! ## Lines, words, sectors -/

/-- The line of a physical address (R10). -/
def lineOf (pa : Nat) : Nat := pa / 256
/-- The home slice of a line. -/
def homeOfLine (line : Nat) : Nat := homeOf (line * 256)
/-- The lines that the bytes pa … pa+n−1 touch. -/
def linesOf (pa n : Nat) : List Nat := if n = 0 then [] else rangeFrom (pa / 256) ((pa + n - 1) / 256 + 1 - pa / 256)
/-- The 64-byte granules or sectors that bytes touch. -/
def granulesOf (pa n : Nat) : List Nat := if n = 0 then [] else rangeFrom (pa / 64) ((pa + n - 1) / 64 + 1 - pa / 64)
/-- The granules that the bytes cover whole. -/
def wholeGranules (pa n : Nat) : List Nat := (granulesOf pa n).filter fun g => decide (pa ≤ g * 64) && decide (g * 64 + 64 ≤ pa + n)
/-- The mask of words of `line` that bytes touch. -/
def wordMask (line pa n : Nat) : Nat :=
  ((List.range 64).filter fun w => decide (pa < line * 256 + 4 * w + 4) && decide (line * 256 + 4 * w < pa + n)).foldl maskSet 0
/-- The sectors that bytes touch within a line. -/
def sectorsIn (line pa n : Nat) : List Nat :=
  (List.range 4).filter fun k => decide (pa < line * 256 + 64 * k + 64) && decide (line * 256 + 64 * k < pa + n)
/-- The sectors of a mask of words. -/
def sectorsOf (mask : Nat) : List Nat := (List.range 4).filter fun k => mask / 2 ^ (16 * k) % 2 ^ 16 != 0

/-- The slice `h`. -/
def State.slice (s : State) (h : Nat) : Slice := Tbl.getD s.slices h Slice.reset
/-- Replaces slice `h`. -/
def State.setSlice (s : State) (h : Nat) (x : Slice) : State := { s with slices := Tbl.insert s.slices h x }
/-- The registry entry of a line, if the home has one (R90). -/
def State.home? (s : State) (line : Nat) : Option HomeLine := Tbl.find? s.homeLines line
/-- Replaces a registry entry. -/
def State.setHome (s : State) (line : Nat) (e : HomeLine) : State := { s with homeLines := Tbl.insert s.homeLines line e }

/-- Whether a physical address lies in a HOSTLN line: the host tier, or HBM in host bias (R89, R99). -/
def State.hostLine (s : State) (pa : Nat) : Bool :=
  decide (Config.hostTierPa ≤ pa) || Tbl.getD s.hostBias (pa / 2 ^ 19) false

/-- The host state of a sector (R97). -/
def State.hostState (s : State) (sector : Nat) : HostState := Tbl.getD s.hostSectors sector .i
/-- An L1 line shows the new host state of its sector `k` (R89, R97). -/
def L1.reflect (l : L1) (line k : Nat) (x : HostState) : L1 :=
  match Tbl.find? l.lines line with
  | none => l
  | some y => { l with lines := Tbl.insert l.lines line { y with hs := y.hs.set k x } }
/-- Sets the host state of a sector, which the L1s that hold its line show. -/
def State.setHostState (s : State) (sector : Nat) (x : HostState) : State :=
  { s with hostSectors := Tbl.put .i s.hostSectors sector x,
           cores := s.cores.map fun e => (e.1, { e.2 with l1 := e.2.l1.reflect (sector / 4) (sector % 4) x }) }

/-- Whether physical bytes are populated (R32). -/
def State.populated (s : State) (pa n : Nat) : Bool :=
  decide (pa + n ≤ Config.hbmSize) || (decide (Config.hostTierPa ≤ pa) && decide (pa + n ≤ Config.hostTierPa + s.hostSize))

/-! ## Memory behind the homes: bytes, controllers, poison (R38–R44) -/

/-- The queue of an HBM controller. -/
def State.ctl (s : State) (i : Nat) : List CtlReq := Tbl.getD s.ctls i []

/-- Whether a controller still has a request for the line, which later accesses to the line come after (R40). -/
def State.ctlBusy (s : State) (line : Nat) : Bool :=
  decide (line * 256 < Config.hbmSize) && (s.ctl (controllerOf (line * 256))).any fun r => r.granule / 4 == line

/-- A request joins its controller's queue (R38, R40). -/
def State.ask (s : State) (r : CtlReq) : State :=
  let i := controllerOf (r.granule * 64)
  { s with ctls := Tbl.put [] s.ctls i (s.ctl i ++ [r]) }

/-- A home fetches a line of HBM: a normal read of each of its granules (R35, R39). -/
def State.fetchLine (s : State) (line : Nat) : State :=
  if Config.hbmSize ≤ line * 256 then s
  else
    (List.range 4).foldl (fun s k => s.ask
      { granule := 4 * line + k, write := [], origin := .fetch line, deadline := none, arrived := s.tick, promoted := false,
        mask := 0 }) s

/-- The home's value of a byte. -/
def State.homeByte (s : State) (pa : Nat) : Byte := s.mem.read pa

/-- The home's value of bytes, as a number. -/
def State.homeNum (s : State) (pa n : Nat) : Nat := leNat ((rangeFrom pa n).map s.homeByte)

/-- Whether a granule cannot be read: poisoned, or holding an uncorrectable error (R41, R43). -/
def State.bad (s : State) (g : Nat) : Bool := Tbl.getD s.poison g false || Tbl.getD s.latent g false

/-- The die whose management core hears of a granule (R42, R44). -/
def granuleDie (g : Nat) : Nat := if g * 64 < Config.hbmSize then dieOfStack (stackOf (g * 64)) else 0

/-- A granule becomes poisoned, and the machine check names it (R42, R44). -/
def State.failGranule (s : State) (g : Nat) : State :=
  ({ s with latent := Tbl.put false s.latent g false, poison := Tbl.put false s.poison g true }).machineCheck
    (granuleDie g) (.granule g)

/-- A read meets a granule: an uncorrectable error becomes poison and raises a machine check (R42). -/
def State.detect (s : State) (g : Nat) : State := if Tbl.getD s.latent g false then s.failGranule g else s

/-- Reads meet the granules of bytes. -/
def State.detectAll (s : State) (pa n : Nat) : State := (granulesOf pa n).foldl State.detect s

/-- The first byte of a bad granule among bytes. -/
def State.firstBad (s : State) (pa n : Nat) : Option Nat := (rangeFrom pa n).find? fun a => s.bad (a / 64)

/-- A write at the home: the bytes, and the poison of granules covered whole (R43). -/
def State.writeHome (s : State) (pa : Nat) (bytes : List Byte) : State :=
  { s with mem := s.mem.writeN pa bytes,
           poison := (wholeGranules pa bytes.length).foldl (fun t g => Tbl.put false t g false) s.poison,
           latent := (wholeGranules pa bytes.length).foldl (fun t g => Tbl.put false t g false) s.latent }

/-- The granules that a write covers in part and that cannot be merged into (R42, R43). -/
def State.mergeBad (s : State) (pa n : Nat) : List Nat :=
  (granulesOf pa n).filter fun g => s.bad g && !(wholeGranules pa n).contains g

/-- The bytes of a write that fall in granule `g`, with their address. -/
def partOf (pa : Nat) (bytes : List Byte) (g : Nat) : Nat × List Byte :=
  let lo := Nat.max pa (g * 64)
  (lo, (bytes.drop (lo - pa)).take (Nat.min (pa + bytes.length) (g * 64 + 64) - lo))

/-- A write granule by granule: where a part cannot be merged it is abandoned, the granule is poisoned, and the machine
check is raised (R42, R43); the rest is written. -/
def State.mergeHome (s : State) (pa : Nat) (bytes : List Byte) : State :=
  let lost := s.mergeBad pa bytes.length
  if lost.isEmpty then s.writeHome pa bytes
  else
    (granulesOf pa bytes.length).foldl (fun s g =>
      if lost.contains g then s.failGranule g else s.writeHome (partOf pa bytes g).1 (partOf pa bytes g).2) s

/-! ## The L1 (R89) -/

/-- A fresh line of an L1. -/
def L1Line.new (used : Nat) : L1Line :=
  { vas := [], units := [], old := [], sv := 0, reg := 0, drt := 0, pend := 0, bytes := 0, hs := [.i, .i, .i, .i], psn := 0,
    lv := 0, data := [], used := used }

/-- A byte of a line. -/
def L1Line.byte (l : L1Line) (o : Nat) : Byte := Tbl.getD l.data o 0
/-- Sets a byte of a line. -/
def L1Line.setByte (l : L1Line) (o : Nat) (b : Byte) : L1Line := { l with data := Tbl.put 0 l.data o b }
/-- Word `w` of a line. -/
def L1Line.word (l : L1Line) (w : Nat) : Nat := leNat ((rangeFrom (4 * w) 4).map l.byte)
/-- Merges a word's value into a line, leaving the bytes that a pending store wrote (R91). -/
def L1Line.merge (l : L1Line) (w v : Nat) : L1Line :=
  (List.range 4).foldl (fun l i =>
    if l.pend.testBit w && l.bytes.testBit (4 * w + i) then l
    else l.setByte (4 * w + i) (BitVec.ofNat 8 (v / 256 ^ i))) l
/-- The words of a mask that pending stores write whole. -/
def L1Line.whole (l : L1Line) (mask : Nat) : Nat :=
  ((maskList 64 mask).filter fun w => l.bytes / 2 ^ (4 * w) % 16 == 15).foldl maskSet 0
/-- Whether a byte is readable without a request: registered, sector valid, or stored by a pending store. -/
def L1Line.readable (l : L1Line) (o : Nat) : Bool :=
  l.reg.testBit (o / 4) || l.sv.testBit (o / 64) || (l.pend.testBit (o / 4) && l.bytes.testBit o)

/-- Whether a readable byte comes from a poisoned copy of its sector (R43). -/
def L1Line.poisoned (l : L1Line) (o : Nat) : Bool :=
  l.psn.testBit (o / 64) && !l.reg.testBit (o / 4) && !(l.pend.testBit (o / 4) && l.bytes.testBit o)

/-- The line of an L1, if present. -/
def L1.line? (l : L1) (line : Nat) : Option L1Line := Tbl.find? l.lines line
/-- Replaces a line. -/
def L1.setLine (l : L1) (line : Nat) (x : L1Line) : L1 := { l with lines := Tbl.insert l.lines line x }
/-- The newest writeback buffer that still holds word `w` of a line. -/
def L1.buffer? (l : L1) (line w : Nat) : Option WBuf :=
  l.wb.reverse.find? fun b => b.line == line && b.words.any (·.1 == w)

/-- Whether a word's grant is still on its way: pending, not registered, in no buffer. -/
def L1.awaits (l : L1) (line w : Nat) : Bool :=
  match l.line? line with
  | none => false
  | some x => x.pend.testBit w && !x.reg.testBit w && (l.buffer? line w).isNone

/-- What other agents meet in a registered word: its value and DRT, or those from before a store to several words that
is not performed yet (R91, R260). -/
def L1Line.shown (x : L1Line) (w : Nat) : Nat × Bool := (Tbl.find? x.old w).getD (x.word w, x.drt.testBit w)

/-- The value a registrant answers for a word, from its line or from a buffer (R92, R93). -/
def L1.value? (l : L1) (line w : Nat) : Option Nat :=
  let kept := (l.buffer? line w).bind fun b => (b.words.find? (·.1 == w)).map (·.2.1)
  match l.line? line with
  | some x => if x.reg.testBit w then some (x.shown w).1 else kept
  | none => kept

/-- Drops outstanding sector requests that `p` selects; their fills install nothing. -/
def L1.dropMiss (l : L1) (p : Nat → Nat → Bool) : L1 := { l with missing := l.missing.filter fun m => !p m.1 m.2.1 }

/-- Clears REG and DRT of a word (R93), and forgets a fill of its sector that is under way, which may be older. A word
that still waits for its store's other words goes back to pending. -/
def L1.unregister (l : L1) (line w : Nat) : L1 :=
  match l.line? line with
  | some x =>
    if x.reg.testBit w then
      let y := { x with reg := maskClear x.reg (2 ^ w), drt := maskClear x.drt (2 ^ w), old := Tbl.erase x.old w }
      (l.setLine line (if (Tbl.find? x.old w).isSome then { y with pend := maskSet y.pend w } else y)).dropMiss
        fun a k => a == line && k == w / 16
    else l
  | none => l

/-- What a recall of a word takes: whether it was dirty, the virtual address of its last store, the LV of the buffer that
answered, if one did (a late recall, R93), and whether the word must be registered again for a store under way. -/
structure Taken where
  dirty : Bool
  va : Nat
  late : Option Nat
  again : Bool
  l1 : L1
  deriving DecidableEq, Repr

/-- Takes a word out of an L1 for a recall (R93). -/
def L1.recallWord (l : L1) (line w : Nat) : Taken :=
  match l.line? line with
  | some x =>
    if x.reg.testBit w then
      { dirty := (x.shown w).2, va := Tbl.getD x.vas w 0, late := none, again := (Tbl.find? x.old w).isSome,
        l1 := l.unregister line w }
    else fromBuffer
  | none => fromBuffer
where
  /-- The answer from a writeback buffer. -/
  fromBuffer : Taken :=
    match l.buffer? line w with
    | none => { dirty := false, va := 0, late := none, again := false, l1 := l }
    | some b =>
      let wb := l.wb.map fun x => if x.id = b.id then { x with words := x.words.filter (·.1 != w) } else x
      { dirty := b.words.any fun e => e.1 == w && e.2.2, va := Tbl.getD b.vas w 0, late := some b.ver, again := false,
        l1 := { l with wb := wb } }

/-- Takes the words of a list out of an L1: what each gave, and the L1 after it. -/
def L1.recallWords (l : L1) (line : Nat) : List Nat → List (Nat × Taken) × L1
  | [] => ([], l)
  | w :: r =>
    let t := l.recallWord line w
    let (ts, l') := L1.recallWords t.l1 line r
    ((w, t) :: ts, l')

/-- Clears SV of the sectors of a mask in a line, and forgets their fills under way. -/
def L1.clearSv (l : L1) (line sectors : Nat) : L1 :=
  let l := l.dropMiss fun a k => a == line && sectors.testBit k
  match l.line? line with
  | some x => l.setLine line { x with sv := maskClear x.sv sectors }
  | none => l

/-- Changes a core's L1. -/
def State.onL1 (s : State) (c : Nat) (f : L1 → L1) : State := s.onCore c fun k => { k with l1 := f k.l1 }

/-- The writeback that releases the registered words of a line (R94): the line without REG and DRT, and its buffer. Words
of a store that is not performed yet stay; fills under way of the words' sectors are forgotten, which may be older
(R246). -/
def L1.release (l : L1) (line : Nat) : L1 × Option WBuf :=
  match l.line? line with
  | none => (l, none)
  | some x =>
    let ws := (maskList 64 x.reg).filter fun w => (Tbl.find? x.old w).isNone
    if ws.isEmpty then (l, none)
    else
      let mask := ws.foldl maskSet 0
      let b : WBuf := { id := l.clock, line := line, vas := x.vas, ver := x.lv,
                        words := ws.map fun w => (w, x.word w, x.drt.testBit w) }
      let l := l.setLine line { x with reg := maskClear x.reg mask, drt := maskClear x.drt mask }
      ({ l.dropMiss fun a k => a == line && (sectorsOf mask).contains k with wb := l.wb ++ [b], clock := l.clock + 1 }, some b)

/-- The packet of a writeback. -/
def WBuf.body (b : WBuf) : Body := .wback b.id b.line b.ver b.vas b.words

/-- Makes room for a line and brings it in empty, if it is not present: none when the access must wait (R89, R94). -/
def L1.alloc (l : L1) (line : Nat) : Option (L1 × Option WBuf) :=
  match l.line? line with
  | some x => some ({ l.setLine line { x with used := l.clock } with clock := l.clock + 1 }, none)
  | none =>
    let fresh := fun (l : L1) => { l.setLine line (L1Line.new l.clock) with clock := l.clock + 1 }
    let set := l.lines.filter fun e => e.1 % 256 == line % 256
    if set.length < Config.l1Ways then some (fresh l, none)
    else
      let idle := set.filter fun e => e.2.pend == 0 && !(l.missing.any fun m => m.1 == e.1)
      match idle with
      | [] => none
      | e :: r =>
        let v := r.foldl (fun a b => if b.2.used < a.2.used then b else a) e
        if v.2.reg = 0 then some (fresh { l with lines := Tbl.erase l.lines v.1 }, none)
        else if Config.wbufs ≤ l.wb.length then none
        else
          let (l, b) := l.release v.1
          some (fresh { l with lines := Tbl.erase l.lines v.1 }, b)

/-- Sends a core's writeback (R94). -/
def State.sendWb (s : State) (c : Nat) (b : Option WBuf) : State :=
  match b with
  | none => s
  | some b => s.send (.core c) (.slice (homeOfLine b.line)) .bulk b.body

/-! ## Line locks, host exchanges and engine accesses -/

/-- The line a packet at a home is about; none for packets of other units. -/
def Body.line? (b : Body) : Option Nat :=
  match b with
  | .regReq line _ _ _ => some line
  | .missReq line _ _ _ _ => some line
  | .wback _ line _ _ _ => some line
  | .amo _ pa _ _ _ => some (lineOf pa)
  | _ => none

/-- The sectors of its line that a request uses; none for a writeback, which waits for no request. -/
def Body.sectors (b : Body) : List Nat :=
  match b with
  | .regReq _ mask _ _ => sectorsOf mask
  | .missReq _ sectors _ _ _ => maskList 4 sectors
  | .amo _ pa n _ _ => sectorsIn (lineOf pa) pa n
  | _ => []

/-- Whether a request that waits at a home holds back a later one: they use a sector together (R98), or they are
registrations of one core to lines of one home (R247). -/
def Packet.blocks (p q : Packet) : Bool :=
  (p.body.line? == q.body.line? && meets p.body.sectors q.body.sectors) ||
  match p.body, q.body with
  | .regReq a _ _ _, .regReq b _ _ _ => p.src == q.src && homeOfLine a == homeOfLine b
  | _, _ => false

/-- Whether a request for these sectors of the line waits at the home. -/
def State.waiting (s : State) (line : Nat) (ks : List Nat) : Bool :=
  s.parked.any fun p => p.pkt.body.line? == some line && meets p.pkt.body.sectors ks

/-- Whether the home itself waits for a core about the line: recalls, or forwards of a load. -/
def State.locked (s : State) (line : Nat) : Bool :=
  (match s.home? line with
   | some e => e.recalling != []
   | none => false) ||
  s.parked.any fun p =>
    match p.pkt.body with
    | .missReq l _ _ _ true => l == line
    | _ => false

/-- Whether the line's page is out of service at its home for a bias flip (R100). -/
def State.flipping (s : State) (line : Nat) : Bool :=
  s.flips.any fun f => f.page == line / 2048 && f.arrived.contains (homeOfLine line)

/-- The value of a word anywhere in the device: its registrant's, or the home's (R92). -/
def State.wordNow (s : State) (line w : Nat) : Nat :=
  match (s.home? line).bind fun e => Tbl.find? e.owner w with
  | none => s.homeNum (line * 256 + 4 * w) 4
  | some c => ((s.core c).l1.value? line w).getD (s.homeNum (line * 256 + 4 * w) 4)

/-- The value of a byte anywhere in the device. -/
def State.byteNow (s : State) (pa : Nat) : Byte :=
  match s.home? (lineOf pa) with
  | none => s.homeByte pa
  | some _ => BitVec.ofNat 8 (s.wordNow (lineOf pa) (pa % 256 / 4) / 256 ^ (pa % 4))

/-- The bytes of a coherent read that does not cache (R71). -/
def State.bytesNow (s : State) (pa n : Nat) : List Byte := (rangeFrom pa n).map s.byteNow

/-- Whether the registrants of a line would answer so many recalls from buffers that the count of late recalls passes
255 (R95). -/
def State.lateFull (s : State) (line : Nat) : Bool :=
  match s.home? line with
  | none => false
  | some e =>
    decide (0 < e.late.length) &&
    decide (255 < e.late.length + (e.owner.filter fun o => !((s.core o.2).l1.line? line).any (·.reg.testBit o.1)).length)

/-- Whether an engine must wait for sectors of a line: requests, recalls or controller accesses under way, a bias flip, or
a registrant whose grant is still on its way. -/
def State.engineBusy (s : State) (line : Nat) (ks : List Nat) : Bool :=
  s.waiting line ks || s.locked line || s.flipping line || s.ctlBusy line ||
  match s.home? line with
  | none => false
  | some e => e.owner.any fun o => ks.contains (o.1 / 16) && (s.core o.2).l1.awaits line o.1

/-- Whether the device may use a sector: it holds it, exclusively for a write (R97). -/
def State.sectorHeld (s : State) (sector : Nat) (own : Bool) : Bool :=
  !s.hostLine (sector * 64) ||
  match s.hostState sector with
  | .i => false
  | .s => !own
  | .e | .m | .o => true

/-- Starts the CXL exchange of a sector, unless one is under way (R97). -/
def State.exchange (s : State) (sector : Nat) (own : Bool) : State :=
  if s.exchanges.any (·.sector == sector) then s
  else { s with exchanges := s.exchanges ++ [{ sector := sector, own := own }] }

/-- Whether an engine may go on with an access, or must wait and in which state. -/
inductive Ready where
  | ok
  | wait (s : State)
  deriving DecidableEq, Repr

/-- Readies runs of bytes for an engine's coherent access (R71, R97). -/
def State.ready (s : State) (runs : List (Nat × Nat)) (write : Bool) : Ready :=
  let busy := fun (r : Nat × Nat) => (linesOf r.1 r.2).any fun line =>
    s.engineBusy line (sectorsIn line r.1 r.2) || (write && s.lateFull line)
  if runs.any busy then .wait s
  else
    let need := (runs.flatMap fun r => granulesOf r.1 r.2).filter fun g => !s.sectorHeld g write
    if need.isEmpty then .ok else .wait (need.foldl (fun s g => s.exchange g write) s)

/-- Whether an L1 other than core `c`'s holds words of the sector, registered or valid. -/
def State.sharedSector (s : State) (sector : Nat) (c : Option Nat) : Bool :=
  s.cores.any fun (i, k) => some i != c &&
    match k.l1.line? (sector / 4) with
    | none => false
    | some x => x.sv.testBit (sector % 4) || x.reg / 2 ^ (16 * (sector % 4)) % 2 ^ 16 != 0

/-- A write or registration in a HOSTLN sector: E becomes M or O, M becomes O when another L1 holds it (R97). -/
def State.markWritten (s : State) (sector : Nat) (c : Option Nat) : State :=
  if !s.hostLine (sector * 64) then s
  else
    match s.hostState sector with
    | .e | .s | .m => s.setHostState sector (if s.sharedSector sector c then .o else .m)
    | .i | .o => s

/-- A load of another L1 in a HOSTLN sector: M becomes O (R97). -/
def State.markRead (s : State) (sector c : Nat) : State :=
  if s.hostLine (sector * 64) && s.hostState sector == .m && s.sharedSector sector (some c) then s.setHostState sector .o else s

/-- The registrants of words of a mask, by core. -/
def HomeLine.owners (e : HomeLine) (mask : Nat) : Tbl Nat :=
  (e.owner.filter fun o => mask.testBit o.1).foldl (fun t o => Tbl.insert t o.2 (maskSet (Tbl.getD t o.2 0) o.1)) []

/-- Tells a core, once for each store, that the stores to words of a line were abandoned (R42). -/
def State.tellStores (s : State) (c : Nat) (vas : List Nat) : State :=
  vas.eraseDups.foldl (fun s va => s.pending c cPOISON (w64 va)) s

/-- The dirty words of one sector arrive at the home. A whole sector replaces the granule and its poison (R43); else they are
merged, or, if the granule is bad, abandoned, and the core is told (R42). A word: number, value, address of its store. -/
def State.drainSector (s : State) (c line k : Nat) (ws : List (Nat × Nat × Nat)) : State :=
  if ws.isEmpty then s
  else if 16 ≤ ws.length then
    s.writeHome (line * 256 + 64 * k) ((rangeFrom (16 * k) 16).flatMap fun w => leBytes 4 ((Tbl.find? ws w).getD (0, 0)).1)
  else if s.bad (4 * line + k) then (s.failGranule (4 * line + k)).tellStores c (ws.map (·.2.2))
  else ws.foldl (fun s w => s.writeHome (line * 256 + 4 * w.1) (leBytes 4 w.2.1)) s

/-- Dirty words of a line arrive at the home, sector by sector. -/
def State.drain (s : State) (c line : Nat) (ws : List (Nat × Nat × Nat)) : State :=
  (List.range 4).foldl (fun s k => s.drainSector c line k (ws.filter fun w => w.1 / 16 == k)) s

/-- A recall of one word completes at the home (R93): the registry, V, and the count of late recalls. A late recall whose
writeback has arrived already, and was asked for again, is not counted (R95). -/
def State.recalled (s : State) (c line w : Nat) (late : Option Nat) : State :=
  match s.home? line with
  | none => s
  | some e =>
    let counted := match late with
      | none => none
      | some lv => if e.resent.contains (c, w, lv) then none else some lv
    let s := s.setHome line { e with
      owner := Tbl.erase e.owner w, ver := (e.ver + 1) % 256, recalling := e.recalling.filter (· != w),
      resent := e.resent.filter fun x => !(x.1 == c && x.2.1 == w),
      late := match counted with | none => e.late | some lv => e.late ++ [(c, w, lv)] }
    if late.isSome then s.event (unitSlice (homeOfLine line)) 0x13 else s

/-- A core asks to register again the words that a recall took from a store under way (R91, R260). -/
def State.askAgain (s : State) (c line : Nat) (ts : List (Nat × Taken)) : State :=
  match ts.filter fun t => t.2.again with
  | [] => s
  | t :: r =>
    let mask := ((t :: r).map (·.1)).foldl maskSet 0
    s.send (.core c) (.slice (homeOfLine line)) .request
      (.regReq line mask t.2.va ((((s.core c).l1.line? line).map (·.whole mask)).getD 0))

/-- An engine's recall of words of one core, complete in its own step (R71, R93). -/
def State.pullFrom (s : State) (line c : Nat) (ws : List Nat) : State :=
  let (ts, l1) := (s.core c).l1.recallWords line ws
  let vals := ws.map fun w => (w, s.wordNow line w)
  let s := ts.foldl (fun s t => s.recalled c line t.1 t.2.late) (s.onL1 c fun _ => l1)
  let dirty := ts.filter fun t => t.2.dirty
  (s.drain c line (dirty.map fun t => (t.1, (Tbl.find? vals t.1).getD 0, t.2.va))).askAgain c line ts

/-- An engine's recall of the registrations in a mask of words (R71, R93). -/
def State.pull (s : State) (line mask : Nat) : State :=
  match s.home? line with
  | none => s
  | some e => (e.owners mask).foldl (fun s o => s.pullFrom line o.1 (maskList 64 o.2)) s

/-- Recalls the words that bytes touch. -/
def State.pullBytes (s : State) (pa n : Nat) : State :=
  (linesOf pa n).foldl (fun s line => s.pull line (wordMask line pa n)) s

/-- A write of an engine at the home: the registrations are recalled, then the bytes replace the home's value
(R71, R93). -/
def State.engineWrite (s : State) (pa : Nat) (bytes : List Byte) : State :=
  let s := (s.pullBytes pa bytes.length).writeHome pa bytes
  (granulesOf pa bytes.length).foldl (fun s g => s.markWritten g none) s

/-! ## Requests at a home (R90–R95) -/

/-- Recalls the registrations in a mask, as many as the count of late recalls has room for; they are owed until
`recallAnswer` (R93, R95). -/
def State.recallMask (s : State) (line mask : Nat) : State :=
  match s.home? line with
  | none => s
  | some e =>
    let room := 255 - e.late.length - e.recalling.length
    let words := (((e.owner.filter fun o => mask.testBit o.1).map (·.1)).filter fun w => !e.recalling.contains w).take room
    let s := s.setHome line { e with recalling := e.recalling ++ words }
    (e.owners (words.foldl maskSet 0)).foldl
      (fun s o => s.send (.slice (homeOfLine line)) (.core o.1) .request (.recall line o.2)) s

/-- Takes the host sectors that an access needs: whether they are held, and the state with the exchanges started. -/
def State.needSectors (s : State) (line : Nat) (ks : List Nat) (own : Bool) : Bool × State :=
  let need := (ks.map fun k => line * 4 + k).filter fun g => !s.sectorHeld g own
  (need.isEmpty, need.foldl (fun s g => s.exchange g own) s)

/-- Registry entries of the lines that a slice homes. -/
def State.entriesOf (s : State) (h : Nat) : List (Nat × HomeLine) := s.homeLines.filter fun e => homeOfLine e.1 == h

/-- Finds room for a registry entry of `line`: true with an entry, or false with a reclaim under way (R90). -/
def State.makeEntry (s : State) (line : Nat) : Bool × State :=
  match s.home? line with
  | some e => (!e.reclaim, s)
  | none =>
    let h := homeOfLine line
    let all := s.entriesOf h
    if all.length < Config.registryLines then (true, s.setHome line HomeLine.new)
    else if all.any (·.2.reclaim) then (false, s)
    else
      match all.filter fun e => e.2.late.isEmpty with
      | [] => (false, s)
      | e :: r =>
        let v := r.foldl (fun a b => if b.2.granted < a.2.granted then b else a) e
        if v.2.owner.isEmpty then (true, ({ s with homeLines := Tbl.erase s.homeLines v.1 }).setHome line HomeLine.new)
        else (false, (s.setHome v.1 { v.2 with reclaim := true }).recallMask v.1 (2 ^ 64 - 1))

/-- Frees an entry whose reclaim is complete (R90). -/
def State.freeEntry (s : State) (line : Nat) : State :=
  match s.home? line with
  | some e =>
    if e.reclaim && e.owner.isEmpty && e.recalling.isEmpty && e.late.isEmpty then
      { s with homeLines := Tbl.erase s.homeLines line }
    else s
  | none => s

/-- Recalls what stands in the way of an exclusive access to the words of a mask: true when nothing does. -/
def State.clearOwners (s : State) (line mask : Nat) : Bool × State :=
  match s.home? line with
  | none => (true, s)
  | some e =>
    let words := e.owner.filter fun o => mask.testBit o.1
    if e.recalling != [] then (false, s)
    else if words.isEmpty then (true, s)
    else (false, s.recallMask line mask)

/-- A registration at the home (R91): none when done, or the packet that goes on waiting. Words of a bad sector that the
store does not write whole (`full`) are not registered: their merge read failed (R42, R43). -/
def State.homeReg (s : State) (p : Packet) (c line mask full : Nat) : State × Option Packet :=
  let (held, s) := s.needSectors line (sectorsOf mask) true
  if !held then (s, some p)
  else
    let (room, s) := s.makeEntry line
    if !room then (s, some p)
    else
      let bad := ((maskList 64 mask).filter fun w => s.bad (line * 4 + w / 16) && !full.testBit w).foldl maskSet 0
      let good := maskClear mask bad
      let (free, s) := s.clearOwners line good
      if !free then (s, some p)
      else
        match s.home? line with
        | none => (s, some p)
        | some e =>
          let ws := maskList 64 good
          let s := s.setHome line { e with owner := ws.foldl (fun t w => Tbl.insert t w c) e.owner, granted := s.tick }
          let s := (sectorsOf bad).foldl (fun s k => s.failGranule (line * 4 + k)) s
          let s := (sectorsOf good).foldl (fun s k => s.markWritten (line * 4 + k) (some c)) s
          (s.send p.dst p.src .reply
            (.regGrant line mask e.ver (ws.map fun w => (w, s.homeNum (line * 256 + 4 * w) 4)) bad), none)

/-- A sector request at the home (R92). -/
def State.homeMiss (s : State) (p : Packet) (c line sectors id : Nat) (got : List (Nat × Nat)) (asked : Bool) :
    State × Option Packet :=
  let (held, s) := s.needSectors line (maskList 4 sectors) false
  if !held then (s, some p)
  else
    let ws := (maskList 4 sectors).flatMap fun k => rangeFrom (16 * k) 16
    let owned := match s.home? line with
      | none => []
      | some e => ws.filter fun w => (Tbl.find? e.owner w).isSome
    if !asked && !owned.isEmpty then
      match s.home? line with
      | none => (s, some p)
      | some e =>
        ((e.owners (owned.foldl maskSet 0)).foldl
          (fun s o => s.send p.dst (.core o.1) .request (.fwdReq line o.2)) s,
         some { p with body := .missReq line sectors id got true })
    else if !(owned.all fun w => got.any (·.1 == w)) then (s, some p)
    else
      let s := (maskList 4 sectors).foldl (fun s k => s.detect (line * 4 + k)) s
      let s := (maskList 4 sectors).foldl (fun s k => s.markRead (line * 4 + k) c) s
      let home := fun k => (rangeFrom (16 * k) 16).any fun w => !owned.contains w
      let psn := ((maskList 4 sectors).filter fun k => s.bad (line * 4 + k) && home k).foldl maskSet 0
      let values := ws.map fun w => (w, (Tbl.find? got w).getD (s.homeNum (line * 256 + 4 * w) 4))
      (s.send p.dst p.src .reply (.fill line sectors id psn values), none)

/-- A writeback at the home (R95). -/
def State.homeWb (s : State) (p : Packet) (c id line ver : Nat) (vas : Tbl Nat) (words : List (Nat × Nat × Bool)) :
    State × Option Packet :=
  match s.home? line with
  | none => (s.send p.dst p.src .reply (.wbackAck id), none)
  | some e =>
    let own := words.filter fun x => Tbl.find? e.owner x.1 == some c
    let late := words.foldl (fun (l : List (Nat × Nat × Nat)) x => l.erase (c, x.1, ver)) e.late
    let resent := e.resent.filter fun x => !(x.1 == c && words.any (·.1 == x.2.1))
    if ver = e.ver then
      let s := s.setHome line { e with owner := own.foldl (fun t x => Tbl.erase t x.1) e.owner, late := late, resent := resent }
      let dirty := own.filter fun x => x.2.2
      let s := s.drain c line (dirty.map fun x => (x.1, x.2.1, Tbl.getD vas x.1 0))
      ((s.send p.dst p.src .reply (.wbackAck id)).freeEntry line, none)
    else
      let s := s.setHome line { e with late := late, resent := resent ++ own.map fun x => (c, x.1, ver) }
      let s := if own.isEmpty then s
        else s.send p.dst p.src .reply (.resend line e.ver ((own.map (·.1)).foldl maskSet 0))
      ((s.send p.dst p.src .reply (.wbackAck id)).freeEntry line, none)

/-! ## Atomics (R106, R107) -/

/-- The new value of an AMO on `n` bytes (R106). -/
def amoNew (op : AmoOp) (n old v : Nat) : Nat :=
  let so := signed (8 * n) old
  let sv := signed (8 * n) v
  match op with
  | .add => (old + v) % 2 ^ (8 * n)
  | .and => old &&& v
  | .or => old ||| v
  | .xor => old ^^^ v
  | .min => if so ≤ sv then old else v
  | .max => if sv ≤ so then old else v
  | .minu => Nat.min old v
  | .maxu => Nat.max old v
  | .swap => v
  | .fadd => (if n = 4 then sF32 else sF64).add rne old v

/-- What a read-modify-write stores; none when a comparison fails (R106, R107). -/
def Rmw.new (op : Rmw) (n old : Nat) : Option Nat :=
  match op with
  | .amo op v => some (amoNew op n old v)
  | .cas e v => if old = e then some v else none

/-- The old value in 8-byte words, as the reply carries it. -/
def oldWords (n old : Nat) : List Nat := if n = 16 then [old % 2 ^ 64, old / 2 ^ 64] else [old]

/-- An atomic at the home under the line lock (R106, R107). -/
def State.homeAmo (s : State) (p : Packet) (r : Requester) (pa n va : Nat) (op : Rmw) : State × Option Packet :=
  let line := lineOf pa
  let mask := wordMask line pa n
  let (held, s) := s.needSectors line (sectorsOf mask) true
  if !held then (s, some p)
  else
    let (free, s) := s.clearOwners line mask
    if !free then (s, some p)
    else
      match s.firstBad pa n with
      | some a =>
        ((s.detectAll pa n).send p.dst p.src .reply (.failed r.hi ⟨cPOISON, w64 (va + (a - pa))⟩), none)
      | none =>
        let old := s.homeNum pa n
        let s := match op.new n old with
          | none => s
          | some v => s.writeHome pa (leBytes n v)
        let s := (sectorsOf mask).foldl (fun s k => s.markWritten (line * 4 + k) none) s
        let s := s.onL1 r.core fun l => l.clearSv line ((sectorsOf mask).foldl maskSet 0)
        (s.send p.dst p.src .reply (.reply r.hi (oldWords n old)), none)

/-! ## Arrivals at a home: line locks and waiting requests -/

/-- Handles a request at its home: none when done, or the packet that goes on waiting. -/
def State.homeAttempt (s : State) (p : Packet) : State × Option Packet :=
  match p.src, p.body with
  | .core c, .regReq line mask _ full => s.homeReg p c line mask full
  | .core c, .missReq line sectors id got asked => s.homeMiss p c line sectors id got asked
  | .core c, .wback id line ver vas words => s.homeWb p c id line ver vas words
  | .core _, .amo r pa n va op => s.homeAmo p r pa n va op
  | _, _ => (s, none)

/-- Whether a request must wait before its home looks at it: for a bias flip, a controller, recalls and forwards, and, if
`ahead`, an earlier request. -/
def State.mustWait (s : State) (line : Nat) (ahead : Bool) : Bool :=
  s.flipping line || s.ctlBusy line || s.locked line || ahead

/-- Parks a packet at its home. -/
def State.park (s : State) (p : Packet) : State := { s with parked := s.parked ++ [{ pkt := p, bucket := none }] }

/-- Handles a request, or parks it. -/
def State.homeTry (s : State) (p : Packet) : State :=
  match s.homeAttempt p with
  | (s, none) => s
  | (s, some p) => s.park p

/-- One parked packet is looked at again: `held` are the earlier requests that still wait at the home. -/
def retryOne (h : Nat) (acc : State × List Packet) (x : Parked) : State × List Packet :=
  let (s, held) := acc
  match x.pkt.body.line? with
  | none => ({ s with parked := s.parked ++ [x] }, held)
  | some line =>
    if x.bucket.isSome || homeOfLine line != h then ({ s with parked := s.parked ++ [x] }, held)
    else
      let stop := match x.pkt.body with
        | .missReq _ _ _ _ true => s.flipping line
        | _ => s.mustWait line (held.any (·.blocks x.pkt))
      if stop then ({ s with parked := s.parked ++ [x] }, held ++ [x.pkt])
      else
        match s.homeAttempt x.pkt with
        | (s, none) => (s, held)
        | (s, some p) => ({ s with parked := s.parked ++ [{ x with pkt := p }] }, held ++ [p])

/-- Looks again, in order of arrival, at the requests that wait at a home. -/
def State.retryHome (s : State) (h : Nat) : State :=
  (s.parked.foldl (retryOne h) ({ s with parked := [] }, [])).1

/-- A request arrives at its home. -/
def State.homeArrive (s : State) (p : Packet) : State :=
  match p.body.line? with
  | none => s
  | some line => if s.mustWait line (s.parked.any fun x => x.pkt.blocks p) then s.park p else s.homeTry p

/-! ## Second-touch allocation (R35, R36) -/

/-- The three filter indices of a line (R35). -/
def filterBits (line : Nat) : List Nat :=
  let h := (mix64 (w64 line)).toNat
  [h % 2 ^ 15, h / 2 ^ 15 % 2 ^ 15, h / 2 ^ 30 % 2 ^ 15]

/-- Whether a filter remembers a line. -/
def filterTest (f : Tbl Bool) (line : Nat) : Bool := (filterBits line).all fun i => Tbl.getD f i false

/-- Whether a slice holds a line. -/
def State.present (s : State) (line : Nat) : Bool := (s.slice (homeOfLine line)).present.contains line

/-- Allocates a line in its slice and fetches it (R36). DESIGN CHOICE (assumption 77): a full slice drops the line that
it allocated first. -/
def State.allocate (s : State) (line : Nat) : State :=
  let h := homeOfLine line
  let x := s.slice h
  if x.present.contains line then s
  else
    let kept := if x.present.length < Config.sliceLines then x.present else x.present.drop 1
    ((s.setSlice h { x with present := kept ++ [line] }).event (unitSlice h) 0x12).fetchLine line

/-- Readies runs of bytes for an access that its home performs and that allocates the lines at once: tiles, map buckets and
rows, key-page summaries (R36, R71). -/
def State.readyHome (s : State) (runs : List (Nat × Nat)) (write : Bool) : Ready :=
  match s.ready runs write with
  | .wait s => .wait s
  | .ok =>
    match (runs.flatMap fun r => linesOf r.1 r.2).filter fun line => !s.present line with
    | [] => .ok
    | ls => .wait (ls.foldl State.allocate s)

/-- Whether a read of an HBM line is a counted miss (R36): the line is absent, and no fetch of it is under way. -/
def State.countsMiss (s : State) (line : Nat) : Bool :=
  decide (line * 256 < Config.hbmSize) && !s.present line &&
  !((s.ctl (controllerOf (line * 256))).any fun r => r.origin == .fetch line)

/-- Whether a read of a line would be the counted miss that swaps the filters (R35). -/
def State.swapsFilter (s : State) (line : Nat) : Bool :=
  s.countsMiss line && (s.slice (homeOfLine line)).missCount + 1 == Config.filterPeriod

/-- The slice's part of a read by an L1, or of a fetch of code (R35, R36): filters, count, allocation and fetch. -/
def State.countMiss (s : State) (line : Nat) : State :=
  let h := homeOfLine line
  let x := s.slice h
  if Config.hbmSize ≤ line * 256 then s.allocate line
  else if !s.countsMiss line then s
  else
    let s := s.event (unitSlice h) 0x10
    let hit := filterTest x.filterA line || filterTest x.filterB line
    let s := if hit then (s.event (unitSlice h) 0x11).allocate line
      else
        let mark := fun (f : Tbl Bool) => (filterBits line).foldl (fun t i => Tbl.put false t i true) f
        (s.setSlice h (if x.activeB then { x with filterB := mark x.filterB } else { x with filterA := mark x.filterA })).fetchLine
          line
    let x := s.slice h
    if x.missCount + 1 = Config.filterPeriod then
      s.setSlice h (if x.activeB then { x with filterA := [], activeB := false, missCount := 0 }
        else { x with filterB := [], activeB := true, missCount := 0 })
    else s.setSlice h { x with missCount := x.missCount + 1 }

/-! ## Events of packets -/

/-- A step on the packet at index `k`: nothing changes where it is no arrival of this row (`none`). -/
def packetStep (k : Nat) (f : Packet → State → Option State) (s : State) : Out :=
  .next (s.take k fun p s => match f p s with | none => .no | some t => .did t)

/-- A step on the packet at index `k` that may have to wait at its endpoint. -/
def waitingStep (k : Nat) (f : Packet → State → Take) (s : State) : Out := .next (s.take k f)

/-- REGISTRATION_REQUEST (R91, R36): the home allocates the line, recalls other registrants and records the new one, or
parks the request. -/
def execRegistrationRequest (k : Nat) (s : State) : Out :=
  packetStep k (fun p s =>
    match p.body with
    | .regReq line _ _ _ => some ((s.allocate line).homeArrive p)
    | _ => none) s

/-- LOAD_MISS_REQUEST (R92): every sector request but the one that swaps the filters. -/
def execLoadMissRequest (k : Nat) (s : State) : Out :=
  packetStep k (fun p s =>
    match p.body with
    | .missReq line _ _ _ _ => if s.swapsFilter line then none else some ((s.countMiss line).homeArrive p)
    | _ => none) s

/-- FILTER_SWAP (R35): the sector request whose counted miss is the 65,536th. -/
def execFilterSwap (k : Nat) (s : State) : Out :=
  packetStep k (fun p s =>
    match p.body with
    | .missReq line _ _ _ _ => if s.swapsFilter line then some ((s.countMiss line).homeArrive p) else none
    | _ => none) s

/-- WRITEBACK (R95). -/
def execWriteback (k : Nat) (s : State) : Out :=
  packetStep k (fun p s =>
    match p.body with
    | .wback _ line _ _ _ => some ((s.homeArrive p).retryHome (homeOfLine line))
    | _ => none) s

/-- AMO_AT_HOME (R106, R107). -/
def execAmoAtHome (k : Nat) (s : State) : Out :=
  packetStep k (fun p s =>
    match p.body with
    | .amo _ pa _ _ _ => some ((s.allocate (lineOf pa)).homeArrive p)
    | _ => none) s

/-- FORWARD_REQUEST (R92): the registrant answers, keeping its registrations; it waits at the core while a grant is on
its way. -/
def execForwardRequest (k : Nat) (s : State) : Out :=
  waitingStep k (fun p s =>
    match p.dst, p.body with
    | .core c, .fwdReq line mask =>
      let l := (s.core c).l1
      let ws := maskList 64 mask
      if ws.any fun w => l.awaits line w then .wait s
      else
        let vals := ws.map fun w => (w, (l.value? line w).getD (s.homeNum (line * 256 + 4 * w) 4))
        .did (s.send p.dst p.src .reply (.fwdAns line vals))
    | _, _ => .no) s

/-- FORWARD_ANSWER (R92): the values join the sector request that waits for them. -/
def execForwardAnswer (k : Nat) (s : State) : Out :=
  packetStep k (fun p s =>
    match p.body with
    | .fwdAns line vals =>
      let add := fun (x : Parked) =>
        match x.pkt.body with
        | .missReq l sectors id got true =>
          if l = line then { x with pkt := { x.pkt with body := .missReq l sectors id (got ++ vals) true } } else x
        | _ => x
      some ({ s with parked := s.parked.map add }.retryHome (homeOfLine line))
    | _ => none) s

/-- RECALL (R93): the registrant answers from its line, or from a buffer, and gives the words up; it waits at the core
while a grant is on its way. -/
def execRecall (k : Nat) (s : State) : Out :=
  waitingStep k (fun p s =>
    match p.dst, p.body with
    | .core c, .recall line mask =>
      let l := (s.core c).l1
      let ws := maskList 64 mask
      if ws.any fun w => l.awaits line w then .wait s
      else
        let vals := ws.map fun w => (w, (l.value? line w).getD (s.homeNum (line * 256 + 4 * w) 4))
        let (ts, l') := l.recallWords line ws
        let dirty := ((ts.filter fun t => t.2.dirty).map (·.1)).foldl maskSet 0
        .did (((s.onL1 c fun _ => l').send p.dst p.src .reply
          (.recallAns line dirty (ts.map fun t => (t.1, t.2.va)) vals (ts.filterMap fun t => t.2.late.map fun lv => (t.1, lv)))).askAgain
            c line ts)
    | _, _ => .no) s

/-- RECALL_ANSWER (R93): the home records the values, and the requests that waited go on. -/
def execRecallAnswer (k : Nat) (s : State) : Out :=
  packetStep k (fun p s =>
    match p.src, p.body with
    | .core c, .recallAns line dirty vas vals late =>
      let s := vals.foldl (fun s x => s.recalled c line x.1 (Tbl.find? late x.1)) s
      let s := s.drain c line ((vals.filter fun x => dirty.testBit x.1).map fun x => (x.1, x.2, Tbl.getD vas x.1 0))
      some ((s.freeEntry line).retryHome (homeOfLine line))
    | _, _ => none) s

/-- The grant of the words `good` of a line, `bad` being given up (R91, R42): what the store did not write comes from the
grant, and a store to several words is performed when none of them is pending. A poisoned copy of a sector is dropped with a
grant in it (R43). -/
def L1Line.granted (x : L1Line) (ver good bad : Nat) (vals : List (Nat × Nat)) : L1Line :=
  let y := vals.foldl (fun y v => y.merge v.1 v.2) x
  let pend := maskClear x.pend (good ||| bad)
  let units := x.units.filter fun u => u &&& pend != 0
  let held := units.foldl (· ||| ·) 0
  let drt := (maskList 64 good).filter fun w => x.bytes / 2 ^ (4 * w) % 16 != 0
  let reg := x.reg ||| good
  let done := (maskList 64 (maskClear (good ||| bad ||| x.units.foldl (· ||| ·) 0) held))
  let gone := (sectorsOf bad ++ (sectorsOf good).filter fun k => x.psn.testBit k).foldl maskSet 0
  { y with
    pend := pend, reg := reg, drt := drt.foldl maskSet x.drt, lv := ver, units := units,
    bytes := maskClear x.bytes (done.foldl (fun m w => m ||| maskOf (4 * w) 4) 0),
    old := (vals.foldl (fun t v => Tbl.insert t v.1 (v.2, false)) x.old).filter fun o => held.testBit o.1 && reg.testBit o.1,
    sv := maskClear x.sv gone, psn := maskClear x.psn gone }

/-- REGISTRATION_GRANT (R91): the L1 merges what the store did not write, and holds the words. Words whose
merge read failed are given up with POISON pending (R42, R104). -/
def execRegistrationGrant (k : Nat) (s : State) : Out :=
  packetStep k (fun p s =>
    match p.dst, p.body with
    | .core c, .regGrant line mask ver vals bad =>
      match (s.core c).l1.line? line with
      | none => some s
      | some x =>
        let y := x.granted ver (maskClear mask bad) bad vals
        let y := { y with hs := (List.range 4).map fun k => s.hostState (line * 4 + k) }
        some ((s.onL1 c fun l => l.setLine line y).tellStores c ((maskList 64 bad).map fun w => Tbl.getD x.vas w 0))
    | _, _ => none) s

/-- SECTOR_FILL (R92): the L1 installs the sectors that are still asked for; registered words and the bytes of
pending stores stay. -/
def execSectorFill (k : Nat) (s : State) : Out :=
  packetStep k (fun p s =>
    match p.dst, p.body with
    | .core c, .fill line sectors id psn vals =>
      let l := (s.core c).l1
      let want := (maskList 4 sectors).filter fun k => l.missing.contains (line, k, id)
      let l := { l with missing := l.missing.filter fun m => !(m.1 == line && m.2.2 == id) }
      match l.line? line with
      | none => some (s.onL1 c fun _ => l)
      | some x =>
        let x := vals.foldl (fun x v =>
          if want.contains (v.1 / 16) && !x.reg.testBit v.1 then x.merge v.1 v.2 else x) x
        let m := want.foldl maskSet 0
        let x := { x with sv := x.sv ||| m, psn := maskClear x.psn m ||| (psn &&& m),
                          hs := (List.range 4).map fun k => s.hostState (line * 4 + k) }
        some (s.onL1 c fun _ => l.setLine line x)
    | _, _ => none) s

/-- RESEND_REQUEST (R95): the writer sends the words that are still its own again, with the current version. The
new buffer takes the room of the one whose acknowledgement follows. -/
def execResendRequest (k : Nat) (s : State) : Out :=
  packetStep k (fun p s =>
    match p.dst, p.body with
    | .core c, .resend line ver mask =>
      let l := (s.core c).l1
      let ws := (maskList 64 mask).filter fun w => (l.value? line w).isSome
      if ws.isEmpty then some s
      else
        let (ts, l') := l.recallWords line ws
        let words := ts.map fun t => (t.1, ((l.value? line t.1).getD 0, t.2.dirty))
        let b : WBuf := { id := l.clock, line := line, vas := ts.map fun t => (t.1, t.2.va), ver := ver, words := words }
        some (((s.onL1 c fun _ => { l' with wb := l'.wb ++ [b], clock := l'.clock + 1 }).sendWb c (some b)).askAgain c line ts)
    | _, _ => none) s

/-- WRITEBACK_ACK (R94): the buffer is free. -/
def execWritebackAck (k : Nat) (s : State) : Out :=
  packetStep k (fun p s =>
    match p.dst, p.body with
    | .core c, .wbackAck id => some (s.onL1 c fun l => { l with wb := l.wb.filter (·.id != id) })
    | _, _ => none) s

end Sys2Proof.Machine
end

