-- ==== Sys2Proof/Machine/Owner.lean ====
section
/-! DEFINITION. What a core's memory port does, one arrival at a time (R151, R152): loads, stores, atomics
and full/empty operations on its own scratchpad, and the waiters it serves (R51, R86, R87). -/

namespace Sys2Proof.Machine

/-- A waiter whose word is full is served: the value, and the bit emptied for LDFE (R87). -/
def serveOne (c : Nat) (s : State) (w : FullWaiter) : State :=
  let k := s.core c
  let (_, win, off) := localParts w.addr
  if k.lcl.isFull (off / 8) then
    match k.lcl.load win off w.n with
    | some bytes =>
      let s := if w.take then s.onCore c fun k => { k with lcl := k.lcl.setFull (off / 8) false } else s
      s.send (.core c) (.core w.r.core) .reply (.reply w.r.hi [leNat bytes])
    | none => s.send (.core c) (.core w.r.core) .reply (.failed w.r.hi ⟨cPOISON, w64 w.addr⟩)
  else s.onCore c fun k => { k with lcl := { k.lcl with fullWait := k.lcl.fullWait ++ [w] } }

/-- Serves the waiters of a core's full bits in order of arrival (R51, R87). -/
def State.serveFull (s : State) (c : Nat) : State :=
  (s.core c).lcl.fullWait.foldl (serveOne c) (s.onCore c fun k => { k with lcl := { k.lcl with fullWait := [] } })

/-- A store at the port: through window 15 it may end waits (R51). -/
def State.portStore (s : State) (c w off : Nat) (bytes : List Byte) : State :=
  let s := s.onCore c fun k => k.store w off bytes
  if w = 15 then s.serveFull c else s

/-- An LDF or LDFE at the port: performed, or parked behind those that wait (R87). -/
def State.portLdf (s : State) (c : Nat) (w : FullWaiter) : State := serveOne c s w

/-- An STF at the port (R87). -/
def State.portStf (s : State) (c off : Nat) (bytes : List Byte) : State :=
  (s.onCore c fun k => { k with lcl := (k.lcl.writeSpad off bytes).setFull (off / 8) true }).serveFull c

/-- Empties the full bits of the words of a range (R88). -/
def State.portFeclr (s : State) (c off n : Nat) : State :=
  s.onCore c fun k => { k with lcl := (rangeFrom (off / 8) (n / 8)).foldl (fun l w => l.setFull w false) k.lcl }

/-- A read-modify-write at the port: the old value, none at a poisoned word (R106, R158). -/
def State.portRmw (s : State) (c off n : Nat) (op : Rmw) : Option (Nat × State) :=
  match (s.core c).lcl.load 0 off n with
  | none => none
  | some bytes =>
    let old := leNat bytes
    some (old, match op.new n old with
      | none => s
      | some v => s.portStore c 0 off (leBytes n v))

/-- Whether a core's port refuses the context of a requester: another context, or none, as from the copy phase of a
pre-emption on (R53, R315). -/
def Core.refuses (k : Core) (ctx : Option Nat) : Bool := k.ctx.isNone || k.ctx != ctx || k.stopped

end Sys2Proof.Machine
end

