-- ==== Sys2Proof/Machine/Translate.lean ====
section
/-! DEFINITION. Translation of region 0x0 addresses: page tables (R61–R64), TLBs, walks and their
invalidation (R320–R322). -/

namespace Sys2Proof.Machine

/-- Bits of the page offset of an SZ code (R62). -/
def pageBits (sz : Nat) : Nat := if sz = 0 then 19 else if sz = 1 then 25 else 31

/-- Whether an entry translates an address of an address space (R320). -/
def TlbEntry.covers (e : TlbEntry) (asid va : Nat) : Bool :=
  (e.g || e.asid == asid) && e.page == va / 2 ^ pageBits e.sz

/-- The physical address an entry gives. -/
def TlbEntry.pa (e : TlbEntry) (va : Nat) : Nat := e.ppn * 2 ^ 19 + va % 2 ^ pageBits e.sz

/-! ## The walker (R61–R63) -/

/-- What a walk finds: a leaf, a rejected entry, or a wait for a table's line. -/
inductive WalkRes where
  | leaf (e : TlbEntry)
  | reject
  | wait (s : State)
  deriving DecidableEq, Repr

/-- A leaf at level 2 or 3, if the walker accepts it (R62, R63). -/
def leafOf (s : State) (level e asid va : Nat) : Option TlbEntry :=
  let sz := bitsOf e 3 2
  let ppn := bitsOf e 51 19
  if bitsOf e 63 58 ≠ 0 ∨ bitsOf e 18 7 ≠ 0 then none
  else if level = 2 ∧ sz ≠ 2 then none
  else if level = 3 ∧ 2 ≤ sz then none
  else if ppn % 2 ^ (pageBits sz - 19) ≠ 0 then none
  else if !s.populated (ppn * 2 ^ 19) (2 ^ pageBits sz) then none
  else some { asid := asid, g := bitOf e 6, sz := sz, page := va / 2 ^ pageBits sz, ppn := ppn, u := bitOf e 5, w := bitOf e 4 }

/-- The next-level table of a table entry of `size` bytes, if the walker accepts it (R62, R63). -/
def tableOf (s : State) (e size : Nat) : Option Nat :=
  let next := bitsOf e 51 12 * 2 ^ 12
  if bitsOf e 63 52 ≠ 0 ∨ bitsOf e 11 2 ≠ 0 ∨ next % 2 ^ 15 ≠ 0 then none
  else if !s.populated next size then none
  else some next

/-- Reads a page-table entry at its line's home, as a Porter read does (R320); a poisoned entry is rejected. -/
def readEntry (s : State) (pa : Nat) (k : Nat → WalkRes) : WalkRes :=
  match s.ready [(pa, 8)] false with
  | .wait s => .wait s
  | .ok => if s.bad (pa / 64) then .reject else k (leNat (s.bytesNow pa 8))

/-- Walks the three levels (R61, R63). -/
def walk (s : State) (asid root va : Nat) : WalkRes :=
  if !s.populated root 0x10000 then .reject
  else readEntry s (root + 8 * bitsOf va 55 43) fun e1 =>
    if !bitOf e1 0 || bitOf e1 1 then .reject
    else match tableOf s e1 0x8000 with
      | none => .reject
      | some t2 => readEntry s (t2 + 8 * bitsOf va 42 31) fun e2 =>
        if !bitOf e2 0 then .reject
        else if bitOf e2 1 then (match leafOf s 2 e2 asid va with | some e => .leaf e | none => .reject)
        else match tableOf s e2 0x8000 with
          | none => .reject
          | some t3 => readEntry s (t3 + 8 * bitsOf va 30 19) fun e3 =>
            if !bitOf e3 0 || !bitOf e3 1 then .reject
            else match leafOf s 3 e3 asid va with | some e => .leaf e | none => .reject

/-! ## TLBs (R320) -/

/-- The TLB of a die. -/
def State.dtlb (s : State) (d : Nat) : List TlbEntry := Tbl.getD s.dieTlb d []

/-- Adds an entry to a TLB of `n` entries, the oldest leaving when it is full. -/
def addTlb (n : Nat) (l : List TlbEntry) (e : TlbEntry) : List TlbEntry :=
  let l := l.filter (· != e)
  (if l.length < n then l else l.drop 1) ++ [e]

/-- Installs an entry in a core's TLB and its die's (R320). -/
def State.installTlb (s : State) (c : Nat) (e : TlbEntry) : State :=
  let s := { s with dieTlb := Tbl.insert s.dieTlb (dieOf c) (addTlb Config.dieTlbSize (s.dtlb (dieOf c)) e) }
  s.onCore c fun k => { k with tlb := addTlb Config.tlbSize k.tlb e }

/-- The entry for an address in the core's TLB or its die's. -/
def State.lookup (s : State) (c asid va : Nat) : Option TlbEntry :=
  match (s.core c).tlb.find? (·.covers asid va) with
  | some e => some e
  | none => (s.dtlb (dieOf c)).find? (·.covers asid va)

/-- The checks of an access against its leaf (R63). -/
def leafCheck (e : TlbEntry) (sup write : Bool) : Option Nat :=
  if !sup && !e.u then some cPAGEPROT
  else if write && !e.w then some cPAGEPROT
  else none

/-- The streams of a core that wait for walks. -/
def whoOf (hi : Bool) : Nat := b2n hi
/-- The vector/matrix stream. -/
def whoVec : Nat := 2

/-! ## Translation by an instruction -/

/-- A translation: the physical address, a wait for a walk, or a trap's cause. -/
inductive Tr where
  | ok (pa : Nat)
  | wait (s : State)
  | trap (code : Nat)
  deriving DecidableEq, Repr

/-- Asks for a walk; walks for one address space and page are one (R321). -/
def State.askWalk (s : State) (c who asid root va : Nat) : State :=
  if s.walks.any fun w => w.asid == asid && w.va / 2 ^ 19 == va / 2 ^ 19 && w.result.isNone && !w.dead then
    { s with walks := s.walks.map fun w =>
        if w.asid == asid && w.va / 2 ^ 19 == va / 2 ^ 19 && w.result.isNone && !w.dead && !w.who.contains (c, who)
        then { w with who := w.who ++ [(c, who)] } else w }
  else if s.walks.any fun w => w.who.contains (c, who) && w.va / 2 ^ 19 == va / 2 ^ 19 then s
  else { s with walks := s.walks ++ [{ who := [(c, who)], asid := asid, ptroot := root, va := va, result := none, dead := false }] }

/-- SR.ASID.ASID of a core. -/
def Core.asidOf (k : Core) : Nat := k.regs.asid.bits 15 0
/-- The level-1 table that SR.PTROOT names. -/
def Core.rootOf (k : Core) : Nat := k.regs.ptroot.bits 51 16 * 2 ^ 16

/-- Translates an address for stream `who` of core `c` (R320, R63). -/
def translate (s : State) (c who : Nat) (sup write : Bool) (va : Nat) : Tr :=
  let k := s.core c
  match s.lookup c k.asidOf va with
  | some e =>
    match leafCheck e sup write with
    | some code => .trap code
    | none => .ok (e.pa va)
  | none =>
    if k.walkFail.contains (who, va / 2 ^ 19) then .trap cPAGENP
    else .wait (s.askWalk c who k.asidOf k.rootOf va)

/-- Translates every page that bytes touch, rising: the physical address of each byte (R103). The trap comes
with the first failing address. -/
def translateRange (s : State) (c who : Nat) (sup write : Bool) (va n : Nat) : Except (Nat × Nat) (Except State (List Nat)) :=
  let pages := (rangeFrom (va / 2 ^ 19) ((va + n - 1) / 2 ^ 19 + 1 - va / 2 ^ 19)).map fun p => Nat.max va (p * 2 ^ 19)
  let rec go (s : State) (wait : Bool) : List Nat → Except (Nat × Nat) (Except State (List Nat))
    | [] =>
      if wait then .ok (.error s)
      else .ok (.ok ((List.range n).map fun i =>
        match translate s c who sup write (va + i) with
        | .ok pa => pa
        | _ => 0))
    | a :: r =>
      match translate s c who sup write a with
      | .ok _ => go s wait r
      | .wait s => go s true r
      | .trap code => if wait then .ok (.error s) else .error (code, a)
  go s false pages

/-! ## Translation by an engine, a home unit or a Porter, through the issuing core's hierarchy (R70, R120, R321) -/

/-- An engine's translation: the physical address, a rejected walk, a failed check, or a wait. -/
inductive ETr where
  | ok (pa : Nat) (s : State)
  | np
  | prot
  | wait (s : State)
  deriving DecidableEq, Repr

/-- Translates for core `c`'s engines in an address space. The walk, when one is needed, is complete in the
same step. With `user` false neither U nor W is checked but as `write` asks (R57, R120). -/
def State.engineTranslate (s : State) (c asid root : Nat) (user write : Bool) (va : Nat) : ETr :=
  let check := fun (e : TlbEntry) (s : State) =>
    match leafCheck e (!user) write with
    | some _ => ETr.prot
    | none => ETr.ok (e.pa va) s
  match s.lookup c asid va with
  | some e => check e s
  | none =>
    match walk s asid root va with
    | .leaf e => check e (s.installTlb c e)
    | .reject => .np
    | .wait s => .wait s

/-! ## Steps -/

/-- PAGE_WALK (R320, R321): walk `k` reads the tables. -/
def execPageWalk (k : Nat) (s : State) : Out :=
  match s.walks[k]? with
  | none => .next s
  | some w =>
    if w.result.isSome then .next s
    else
      match walk s w.asid w.ptroot w.va with
      | .leaf e => .next { s with walks := s.walks.set k { w with result := some (some e) } }
      | .reject => .next { s with walks := s.walks.set k { w with result := some none } }
      | .wait s => .next s

/-- TLB_FILL (R320, R321): the result of walk `k` reaches every requester; a rejected entry installs nothing. A walk
that a TLBINV overtook is walked again (R328). -/
def execTlbFill (k : Nat) (s : State) : Out :=
  match s.walks[k]? with
  | none => .next s
  | some w =>
    match w.result with
    | none => .next s
    | some r =>
      if w.dead then .next { s with walks := s.walks.set k { w with result := none, dead := false } }
      else
        let s := { s with walks := s.walks.eraseIdx k }
        match r with
        | some e => .next (w.who.foldl (fun s q => s.installTlb q.1 e) s)
        | none => .next (w.who.foldl (fun s q =>
            s.onCore q.1 fun k => { k with walkFail := k.walkFail ++ [(q.2, w.va / 2 ^ 19)] }) s)

end Sys2Proof.Machine
end

