-- ==== Sys2Proof/Machine/Desc.lean ====
section
/-! DEFINITION. Descriptors and handles (R54–R60): the slot read, the checks in order, and the fields of the
tensor and key-page kinds. -/

namespace Sys2Proof.Machine

/-- The virtual address of slot `n` of a descriptor table (R54). -/
def slotVa (dtab : W) (n : Nat) : Nat := dtab.bits 55 12 * 4096 + 64 * n

/-- What reading and checking a handle finds (R57). -/
inductive DescRes where
  /-- The descriptor's 64 bytes as a number. -/
  | ok (d : Nat) (s : State)
  /-- Another KIND than the one required. -/
  | kind (s : State)
  | handle
  | np (va : Nat)
  | poison (va : Nat)
  | wait (s : State)
  deriving DecidableEq, Repr

/-- Checks 1 to 3 of R57 for a handle register, with the slot read between 1 and 2: in the address space given,
requiring V and the walker's checks only. -/
def State.descriptor (s : State) (c asid root : Nat) (dtab hreg : W) (kind : Nat) : DescRes :=
  let slot := hreg.bits 31 12
  if hreg.bits 63 32 ≠ 0 ∨ 2 ^ dtab.bits 4 0 ≤ slot then .handle
  else
    let va := slotVa dtab slot
    match s.engineTranslate c asid root false false va with
    | .np | .prot => .np va
    | .wait s => .wait s
    | .ok pa s =>
      match s.ready [(pa, 64)] false with
      | .wait s => .wait s
      | .ok =>
        if s.bad (pa / 64) then .poison va
        else
          let d := leNat (s.bytesNow pa 64)
          let gen := bitsOf d 27 16
          if gen ≠ hreg.bits 11 0 ∨ gen = 0 then .handle
          else if bitsOf d 7 0 ≠ kind then .kind s
          else .ok d s

/-- Field of a descriptor: `n` bytes at offset `o`. -/
def dfield (d o n : Nat) : Nat := d / 256 ^ o % 256 ^ n

/-! ## Key pages (R60) -/

/-- A key-page descriptor's fields. -/
structure KeyPage where
  fmt : Fmt
  d : Nat
  npages : Nat
  pbase : Nat
  pstride : Nat
  sbase : Nat
  deriving DecidableEq, Repr

/-- Element size of a key-page format in bytes. -/
def KeyPage.es (k : KeyPage) : Nat := if k.fmt = .bf16 then 2 else 1

/-- Bytes of a page's 64 tokens. -/
def KeyPage.size (k : KeyPage) : Nat := 64 * k.d * k.es

/-- The fields of a key-page descriptor, unless check 4 of R57 fails. -/
def keyPage? (d : Nat) : Option KeyPage :=
  let fmt : Option Fmt := match dfield d 1 1 with | 0 => some .bf16 | 1 => some .e4m3 | 2 => some .e5m2 | _ => none
  match fmt with
  | none => none
  | some f =>
    let k : KeyPage := { fmt := f, d := dfield d 4 2, npages := dfield d 8 4, pbase := dfield d 16 8,
                         pstride := dfield d 24 8, sbase := dfield d 32 8 }
    if bitsOf d 31 28 ≠ 0 ∨ dfield d 6 2 ≠ 0 ∨ dfield d 12 4 ≠ 0 ∨ dfield d 40 24 ≠ 0 then none
    else if k.d = 0 ∨ 256 < k.d ∨ k.d % 32 ≠ 0 then none
    else if k.npages = 0 ∨ 2 ^ 24 < k.npages then none
    else if k.pstride % 64 ≠ 0 ∨ k.pstride < k.size then none
    else if k.sbase % 64 ≠ 0 ∨ 2 ^ 56 ≤ k.pbase ∨ 2 ^ 56 ≤ k.sbase then none
    else some k

/-! ## Tensors (R59) -/

/-- A tensor descriptor's fields. -/
structure Tensor where
  dl : Bool
  ro : Bool
  esize : Nat
  rank : Nat
  slack : Nat
  base : Nat
  ext : List Nat
  stride : List Int
  fill : Nat
  deriving DecidableEq, Repr

/-- The fields of a tensor descriptor, unless check 4 of R57 fails. -/
def tensor? (d : Nat) : Option Tensor :=
  let t : Tensor :=
    { dl := bitOf (dfield d 1 1) 0, ro := bitOf (dfield d 1 1) 1, esize := dfield d 4 1, rank := dfield d 5 1,
      slack := dfield d 6 2 % 4096, base := dfield d 8 8, ext := [dfield d 16 4, dfield d 20 4, dfield d 24 4, dfield d 28 4],
      stride := (2 ^ dfield d 4 1 : Int) :: [32, 40, 48].map fun o => signed 64 (dfield d o 8), fill := dfield d 56 8 }
  if bitsOf d 31 28 ≠ 0 ∨ 4 ≤ dfield d 1 1 ∨ 4096 ≤ dfield d 6 2 then none
  else if 4 < t.esize ∨ t.rank = 0 ∨ 4 < t.rank ∨ 2 ^ 56 ≤ t.base then none
  else if (t.ext.drop t.rank).any (· != 1) then none
  else some t

end Sys2Proof.Machine
end

