-- ==== Sys2Proof/Machine/Touch.lean ====
section
/-! DEFINITION. Which bytes the instructions waiting in the vector/matrix stream, and a core's own posted
stores, may touch: the scalar stream's accesses wait for those that share a byte with them (R193). -/

namespace Sys2Proof.Machine

/-- A span of bytes: global virtual addresses, or offsets of the core's own scratchpad. -/
structure Span where
  glob : Bool
  lo : Int
  hi : Int
  deriving DecidableEq, Repr

/-- Whether two spans share a byte. -/
def Span.meets (a b : Span) : Bool := a.glob == b.glob && decide (a.lo < b.hi) && decide (b.lo < a.hi)

/-- What the stagger adds to an X register that field `f` (0 d, 1 a, 2 b) names, in iteration `k` (R215). -/
def VEntry.shift (e : VEntry) (it : VItem) (f k : Nat) : Nat :=
  if e.replay && it.marked && e.fmask.testBit f then k * e.stride * 256 else 0

/-- The operand value in the current iteration. -/
def VEntry.x (e : VEntry) (it : VItem) (f : Nat) (r : Reg) : W := it.cap r + w64 (e.shift it f e.iter)

/-- The span that bytes lo … hi−1 beyond an address value make, with the distance that later iterations add. -/
def spanAt (c : Nat) (a : W) (far : Nat) (lo hi : Int) : List Span :=
  match decodeAddr c true a.toNat 0 with
  | .ok (.global va) => [⟨true, va + lo, va + far + hi⟩]
  | .ok (.loc core _ off) => if core = c then [⟨false, off + lo, off + far + hi⟩] else []
  | _ => []

/-- The block-scale bytes that go with a span read through a scaled window (R177). -/
def scaleSpan (l : Local) (a : W) (far : Nat) (n : Nat) : List Span :=
  let w := a.bits 49 46
  match l.fmtOf w with
  | none => []
  | some f =>
    if l.scaled w then
      let o : Int := (a.bits 17 0 : Int) - l.dbase w
      [⟨false, l.sbase w + o * 8 / (32 * f.width), l.sbase w + (o + far + n) * 8 / (32 * f.width) + 1⟩]
    else []

/-- The key-page summaries and pages that a handle names, as spans; a handle that fails has none. -/
def keySpans (s : State) (c : Nat) (k : Core) (h : W) (pages : Bool) : List Span :=
  match s.descriptor c k.asidOf k.rootOf k.regs.dtab h 3 with
  | .ok d _ =>
    match keyPage? d with
    | none => []
    | some p =>
      ⟨true, p.sbase, p.sbase + 4 * p.d * p.npages⟩ ::
        (if pages then [⟨true, p.pbase, p.pbase + p.pstride * p.npages⟩] else [])
  | _ => []

/-- The whole scratchpad. -/
def spadSpan : Span := ⟨false, 0, Config.spadSize⟩

/-- The spans of memory that a queued instruction may touch in its remaining iterations. -/
def itemSpans (s : State) (c : Nat) (k : Core) (e : VEntry) (it : VItem) : List Span :=
  let x := fun f r => e.x it f r
  let far := fun f => e.shift it f (e.count - 1 - e.iter)
  let plain := fun (a : W) (n : Nat) => spanAt c a (far 1) 0 n ++ scaleSpan k.lcl a (far 1) n
  let strided := fun (a b : W) =>
    let st : Int := b.toInt * 4
    let lo := min 0 (63 * st) - far 2 * 256
    let hi := max 0 (63 * st) + 4 + far 2 * 256
    spanAt c a (far 1) lo hi ++ (if (scaleSpan k.lcl a 0 1).isEmpty then [] else [spadSpan])
  let tile := fun (a b : W) (rb : Reg) =>
    let pitch := Nat.max (b.bits 23 0) 128 + far 2
    let src := if b.getLsbD 31 then spanAt c (it.cap (rb + 1)) 0 0 4096 else []
    let key := if b.bits 63 32 = 0 then [] else keySpans s c k (w64 (b.bits 63 32)) false
    plain a (31 * pitch + 128) ++ src ++ key
  match it.instr with
  | .vld f => plain (x 1 f.a + w64 (f.disp.toNat * 256)) 256
  | .vst f => plain (x 1 f.a + w64 (f.disp.toNat * 256)) 256
  | .vldLit f => plain (x 1 f.a + litVal f.lit) 256
  | .vstLit f => plain (x 1 f.a + litVal f.lit) 256
  | .vlds f | .vsts f => strided (x 1 f.a) (x 2 f.b)
  | .vldx _ | .vstx _ => [spadSpan]
  | .mma f => plain (x 1 f.a) 2048
  | .clld f => plain (x 1 f.a) 2048
  | .tld f | .tldT f | .tst f | .tstn f => tile (x 1 f.a) (x 2 f.b) f.b
  | .pgbound f => spanAt c (it.cap (f.a + 3)) 0 0 512 ++ keySpans s c k (x 1 f.a) false
  | .pgpick f => spanAt c (it.cap (f.a + 7)) 0 0 528
  | .pgsum f => keySpans s c k (x 1 f.a) true
  | .pgclr f => keySpans s c k (x 1 f.a) false
  | _ => []

/-- The bytes of its own scratchpad that a packet of the core's own posted store will write. -/
def packetSpans (c : Nat) (hi : Bool) (p : Packet) : List Span :=
  if p.dst = .core c then
    match p.body with
    | .rst r a n _ _ _ => if r.core = c ∧ r.hi = hi then spanAt c (w64 a) 0 0 n else []
    | _ => []
  else []

/-- Whether a scalar access of the running task must wait for earlier accesses of the task to the same bytes (R193, R245). -/
def Cx.mustWait (cx : Cx) (spans : List Span) : Bool :=
  (!cx.hi && !cx.k.vu.stopped && cx.k.vu.viq.any fun e => e.items.any fun it =>
    (itemSpans cx.s cx.c cx.k e it).any fun a => spans.any a.meets) ||
  (cx.s.net ++ cx.s.held).any (fun p => (packetSpans cx.c cx.hi p).any fun a => spans.any a.meets) ||
  cx.t.late.any fun l =>
    if l.pas.isEmpty then spans.any (!·.glob) else spans.any (Span.meets ⟨true, l.va, l.va + l.n⟩)

/-- The span of a scalar access. -/
def Cx.span (cx : Cx) (ea n : Nat) : List Span := spanAt cx.c (w64 ea) 0 0 n

/-- Whether a store that the task posted to its own scratchpad has not arrived there yet. -/
def Cx.ownPosted (cx : Cx) : Bool := (cx.s.net ++ cx.s.held).any fun p => !(packetSpans cx.c cx.hi p).isEmpty

/-- An access of the running task at its core's own port: it waits for earlier accesses of the task to the same bytes, and
for an arrival whose turn it is (R193, R358). -/
def Cx.ownPort (cx : Cx) (spans : List Span) (f : Cx → Ret) : Ret :=
  if cx.mustWait spans || cx.s.portOwes cx.c then .stay cx.s
  else f { cx with s := cx.s.ownAccess cx.c, k := (cx.s.ownAccess cx.c).core cx.c }

end Sys2Proof.Machine
end

