-- ==== Sys2Proof/Machine/Memory.lean ====
section
/-! DEFINITION. Scalar loads, stores and atomics of R103–R108, configuration accesses (R47, R155, R362), and the
release and acquire conditions (R252, R253). -/

namespace Sys2Proof.Machine

/-! ## Configuration registers (R47) -/

/-- The cluster whose router a Porter is attached to (R9). -/
def porterCluster (n : Nat) : Nat :=
  let st := n / 8
  let d := st / 4
  let k := st % 4
  let pos := 4 * (k % 2) + n % 8 / 2
  if k < 2 then (if d < 2 then 0 else 15) * 16 + (8 * (d % 2) + pos)
  else (8 * (d / 2) + pos) * 16 + (if d % 2 = 0 then 0 else 15)

/-- The Porters attached to a cluster's router, rising (R9). -/
def portersOf (cl : Nat) : List Nat := (List.range Config.numPorters).filter fun p => porterCluster p == cl

/-- The monitor unit that a UNIT field of a cluster names, if the cluster has it (R47, R362). -/
def unitOf (cl u : Nat) : Option Nat :=
  if u < 4 then some (unitCore (cl * 4 + u))
  else if u = 4 then some (unitSlice cl)
  else if u = 5 then some (unitRouter cl)
  else if 8 ≤ u ∧ u < 12 then ((portersOf cl)[u - 8]?).map unitPorter
  else none

/-- The 64 bytes of a Waybill entry (R155). -/
def WbEntry.bits (e : WbEntry) : Nat :=
  e.target.toNat + 2 ^ 64 * (ofLanes 64 ((List.range 6).map fun i => (e.data.getD i 0).toNat)
    + 2 ^ 384 * (e.pc % 2 ^ 16 + 2 ^ 16 * (e.task + 2 ^ 8 * (e.kind + 2 ^ 8 * (e.state + 2 ^ 8 * (e.cause + 2 ^ 8 * e.seq))))))

/-- Entry `n` of a core's Waybill. -/
def Core.wb (k : Core) (n : Nat) : WbEntry := Tbl.getD k.waybill n WbEntry.free
/-- Replaces entry `n`. -/
def Core.setWb (k : Core) (n : Nat) (e : WbEntry) : Core := { k with waybill := Tbl.put WbEntry.free k.waybill n e }
/-- SR.UNACK.COUNT (R154). -/
def Core.unack (k : Core) : Nat := (k.waybill.filter fun e => e.2.state == 1).length

/-- A field of a monitor block (R362). -/
def Monitor.field (m : Monitor) (o : Nat) : Nat :=
  if o = 0x00 then m.ctl.toNat
  else if o = 0x08 then m.count
  else if o = 0x10 then m.min
  else if o = 0x18 then m.max
  else if o = 0x20 then m.sum
  else if 0x40 ≤ o ∧ o < 0xC0 then Tbl.getD m.hist ((o - 0x40) / 8) 0
  else 0

/-- The writable bits of MONCTL (R362). -/
def monctlMask : W := 0xBF0000000000FFFF

/-- A monitor block cleared by a write to COUNT (R362). -/
def Monitor.cleared (m : Monitor) : Monitor := { Monitor.reset with ctl := m.ctl }

/-- Clears a monitor block (R362). -/
def State.clearMonitor (s : State) (u m : Nat) : State := s.setMonitor u m (s.monitor u m).cleared

/-- Frees a refused Waybill entry; any other is left (R155). -/
def State.freeWb (s : State) (c n : Nat) : State :=
  s.onCore c fun k => if (k.wb n).state = 2 then k.setWb n WbEntry.free else k

/-- LD.D of a configuration register; where there is none it reads zero (R47). -/
def State.readConfig (s : State) (u off : Nat) : W :=
  if 0x20000 ≤ off ∧ off < 0x20800 then w64 ((s.monitor u ((off - 0x20000) / 0x100)).field (off % 0x100))
  else if u < 1024 ∧ 0x10000 ≤ off ∧ off < 0x11000 then
    w64 (((s.core u).wb ((off - 0x10000) / 64)).bits / 2 ^ (8 * (off % 64)))
  else 0

/-- ST.D of a configuration register; where there is none it is ignored (R47). -/
def State.writeConfig (s : State) (u off : Nat) (v : W) : State :=
  if 0x20000 ≤ off ∧ off < 0x20800 then
    let m := (off - 0x20000) / 0x100
    if off % 0x100 = 0 then s.setMonitor u m { s.monitor u m with ctl := v &&& monctlMask }
    else if off % 0x100 = 8 then s.clearMonitor u m
    else s
  else if u < 1024 ∧ 0x10000 ≤ off ∧ off < 0x11000 ∧ off % 64 = 56 then s.freeWb u ((off - 0x10000) / 64)
  else s

/-- MONITOR_COUNT_CLEAR (R362). -/
def execMonitorCountClear (u m : Nat) (s : State) : Out := .next (s.clearMonitor u m)

/-- WAYBILL_FREE (R155). -/
def execWaybillFree (c n : Nat) (s : State) : Out := .next (s.freeWb c n)

/-! ## Address forming and checks (R103) -/

/-- What an access reaches: its own scratchpad or memory window, global memory, or a configuration register. -/
inductive Target where
  | own (w off : Nat)
  | glob (va : Nat)
  | config (u off : Nat)
  deriving DecidableEq, Repr

/-- The checks of R103 up to translation: the target, or the trap. `cfg` allows configuration registers (LD.D,
ST.D); carried code reaches its own core only (R162). -/
def Cx.target (cx : Cx) (ea : W) (n : Nat) (acc : Access) (align cfg : Bool) : Except (Nat × W) Target :=
  match decodeAddr cx.c cx.t.sup ea.toNat n with
  | .error code => .error (code, ea)
  | .ok (.peer _ _) => .error (cADDR, ea)
  | .ok (.config cl u off) =>
    if !cfg || cx.t.carried then .error (cADDR, ea)
    else
      match unitOf cl u with
      | none => .error (cADDR, ea)
      | some unit =>
        if off / 2 ^ 24 ≠ 0 then .error (cADDR, ea)
        else if off % 8 ≠ 0 then .error (cALIGN, ea)
        else .ok (.config unit off)
  | .ok (.loc core w off) =>
    if core ≠ cx.c then .error (cADDR, ea)
    else
      match cx.k.lcl.windowCheck acc cx.t.sup w off n with
      | some code => .error (code, ea)
      | none => if align ∧ ea.toNat % n ≠ 0 then .error (cALIGN, ea) else .ok (.own w off)
  | .ok (.global va) =>
    if cx.t.carried then .error (cADDR, ea)
    else if align ∧ ea.toNat % n ≠ 0 then .error (cALIGN, ea)
    else .ok (.glob va)

/-! ## Global loads and stores through the L1 (R91, R92) -/

/-- How a global access ends: bytes, a wait, or POISON at the byte of an index. -/
inductive GlobalLoad where
  | ok (bytes : List Byte) (s : State)
  | wait (s : State)
  | poison (i : Nat)
  deriving DecidableEq, Repr

/-- Asks the home for the sectors of a line that a load needs and that are not asked for yet (R92). -/
def State.askSectors (s : State) (c line sectors : Nat) : State :=
  let l := (s.core c).l1
  let new := maskClear sectors (((l.missing.filter (·.1 == line)).map (·.2.1)).foldl maskSet 0)
  if new = 0 then s
  else
    match l.alloc line with
    | none => s
    | some (l, wb) =>
      let l' := { l with missing := l.missing ++ (maskList 4 new).map fun k => (line, k, l.clock), clock := l.clock + 1 }
      ((s.onL1 c fun _ => l').sendWb c wb).send (.core c) (.slice (homeOfLine line)) .request
        (.missReq line new l.clock [] false)

/-- The distinct lines of a list of physical byte addresses, with the offset of each line's first byte. -/
def linesIn (pas : List Nat) : List Nat := (pas.map lineOf).eraseDups

/-- A load of global bytes at physical addresses (R92, R43). -/
def State.loadGlobal (s : State) (c : Nat) (pas : List Nat) : GlobalLoad :=
  let l := (s.core c).l1
  let readable := fun pa => (l.line? (lineOf pa)).any (·.readable (pa % 256))
  if pas.all readable then
    let bad := fun pa => (l.line? (lineOf pa)).any (·.poisoned (pa % 256))
    match pas.findIdx? bad with
    | some i => .poison i
    | none =>
      let l' := (linesIn pas).foldl (fun l line => match l.line? line with
        | some x => { l.setLine line { x with used := l.clock } with clock := l.clock + 1 }
        | none => l) l
      .ok (pas.map fun pa => ((l.line? (lineOf pa)).map (·.byte (pa % 256))).getD 0) (s.onL1 c fun _ => l')
  else
    let miss := pas.filter fun pa => !readable pa
    .wait ((linesIn miss).foldl (fun s line =>
      s.askSectors c line
        (((miss.filter (lineOf · == line)).map fun pa => pa % 256 / 64).foldl maskSet 0)) s)

/-- Writes the bytes that a store of the words of a mask has for one line into the L1 (R91): registered words get DRT, the
others become pending. A store to several words of which some are not registered is one event (R260): until it is performed,
others meet the registered words as they were. -/
def L1Line.store (x : L1Line) (va mask : Nat) (bytes : List (Nat × Byte)) : L1Line :=
  let own := mask &&& x.reg
  let wait := maskClear mask own
  let hit := x.units.filter fun u => u &&& mask != 0
  let joint := !hit.isEmpty || (decide (1 < popcount 64 mask) && wait != 0)
  let unit := hit.foldl (· ||| ·) mask
  let kept := if joint then (maskList 64 own).filter fun w => (Tbl.find? x.old w).isNone else []
  let marked := if joint then mask else wait
  let y := bytes.foldl (fun x e => x.setByte (e.1 % 256) e.2) x
  { y with
    vas := (maskList 64 mask).foldl (fun t w => Tbl.insert t w va) x.vas,
    units := if joint then x.units.filter (fun u => u &&& mask == 0) ++ [unit] else x.units,
    old := kept.foldl (fun t w => Tbl.insert t w (x.word w, x.drt.testBit w)) x.old,
    drt := x.drt ||| own, pend := x.pend ||| wait,
    bytes := (bytes.filter fun e => marked.testBit (e.1 % 256 / 4)).foldl (fun m e => maskSet m (e.1 % 256)) x.bytes }

/-- A store to words of one line: the state after it, and whether it has been done, which it is not while the line has no
room in the L1. The words that are neither registered nor pending are asked for (R91). -/
def State.storeLine (s : State) (c line va : Nat) (bytes : List (Nat × Byte)) : Bool × State :=
  let mask := (bytes.map fun e => e.1 % 256 / 4).foldl maskSet 0
  match (s.core c).l1.alloc line with
  | none => (false, s)
  | some (l, wb) =>
    match l.line? line with
    | none => (false, s)
    | some x =>
      let y := x.store va mask bytes
      let s := (s.onL1 c fun _ => l.setLine line y).sendWb c wb
      match maskClear (maskClear mask (mask &&& x.reg)) x.pend with
      | 0 => (true, s)
      | new => (true, s.send (.core c) (.slice (homeOfLine line)) .request (.regReq line new va (y.whole new)))

/-- A store of global bytes at a virtual address: done in every line, or a wait without a byte written (R91). -/
def State.storeGlobal (s : State) (c va : Nat) (bytes : List (Nat × Byte)) : Bool × State :=
  let lines := linesIn (bytes.map (·.1))
  let part := fun line => bytes.filter fun e => lineOf e.1 == line
  if lines.all fun line => (s.storeLine c line va (part line)).1 then
    lines.foldl (fun (a : Bool × State) line =>
      let r := a.2.storeLine c line va (part line)
      (a.1 && r.1, r.2)) (true, s)
  else (false, s)

/-! ## Acquire and release (R96, R252, R253) -/

/-- Whether a scope's acquire clears a line's SV bits (R96). -/
def scopeClears (sc : Scope) (host : Bool) : Bool :=
  match sc with
  | .core => false
  | .cluster | .package => !host
  | .system => true

/-- The clear of an acquire: SV bits, fills under way, and the descriptor cache (R96, R111). -/
def State.acquire (s : State) (c : Nat) (sc : Scope) : State :=
  let clears := fun line => scopeClears sc (s.hostLine (line * 256))
  s.onCore c fun k =>
    let l := k.l1.dropMiss fun line _ => clears line
    let l := { l with lines := l.lines.map fun e => if clears e.1 then (e.1, { e.2 with sv := 0 }) else e }
    { k with l1 := l, dcache := if sc = .core then k.dcache else [] }

/-- Whether an instruction of the vector/matrix stream reads or writes memory. -/
def touchesMemory (i : Instr) : Bool :=
  match i with
  | .vld _ | .vldLit _ | .vst _ | .vstLit _ | .vlds _ | .vsts _ | .vldx _ | .vstx _ => true
  | .tld _ | .tldT _ | .tst _ | .tstn _ | .mma _ | .clld _ => true
  | .pgbound _ | .pgpick _ | .pgsum _ | .pgclr _ => true
  | _ => false

/-- Whether the task of a bank has passed memory instructions that its vector/matrix stream still owes. -/
def Core.owesMemory (k : Core) (hi : Bool) : Bool :=
  !hi && !k.vu.stopped && k.vu.viq.any fun e => e.items.any fun it => touchesMemory it.instr

/-- Whether the running task has passed such instructions. -/
def Cx.owesMemory (cx : Cx) : Bool := cx.k.owesMemory cx.hi

/-- Whether a core's L1 waits for grants (R244 SQ). -/
def L1.ungranted (l : L1) : Bool := l.lines.any fun e => e.2.pend != 0

/-- Whether the release conditions of a scope hold for a bank's task, of which no access is put off (R252). -/
def Core.released (k : Core) (hi : Bool) (sc : Scope) : Bool := !k.owesMemory hi && (sc == .core || !k.l1.ungranted)

/-- Whether they hold for the running task. -/
def Cx.released (cx : Cx) (sc : Scope) : Bool := cx.k.released cx.hi sc

/-! ## Completing an instruction -/

/-- Writes X[d] and completes. -/
def Cx.setD (cx : Cx) (s : State) (d : Reg) (v : W) : Ret := .done (s.onCore cx.c fun k => k.setX cx.hi d v)

/-- Leaves the task at the instruction with its request sent, until the answer comes. -/
def Cx.await (cx : Cx) (s : State) (w : Wait) : Ret :=
  .stay (s.onCore cx.c fun k => k.onTask cx.hi fun t => { t with wait := w })

/-- The VA of a byte of an access. -/
def byteVa (ea : W) (i : Nat) : W := ea + w64 i

/-! ## Put-off accesses and misaligned ones (R103, R245, R252) -/

/-- Whether the core puts off what it may in this turn. -/
def Cx.lags (cx : Cx) : Bool :=
  match cx.s.turn with
  | .core _ lag => lag
  | _ => false

/-- Puts an access off: the instruction completes, and the access is performed later. -/
def Cx.putOff (cx : Cx) (l : Late) : Ret :=
  .done (cx.s.onCore cx.c fun k => k.onTask cx.hi fun t => { t with late := t.late ++ [l] })

/-- Whether no byte of a load is poisoned, where the core would read it. -/
def State.sound (s : State) (c : Nat) (pas : List Nat) : Bool :=
  pas.all fun pa => !s.bad (pa / 64) && !((s.core c).l1.line? (lineOf pa)).any (·.psn.testBit (pa % 256 / 64))

/-- The running task has performed one more byte of its misaligned access. -/
def Cx.oneByte (cx : Cx) (s : State) (b : Bytewise) : Ret :=
  .stay (s.onCore cx.c fun k => k.onTask cx.hi fun t => { t with bytewise := some b })

/-- The next byte of a misaligned load; `k` goes on after the last (R103). -/
def Cx.loadByte (cx : Cx) (ea : W) (b : Bytewise) (k : Nat → State → Ret) : Ret :=
  let i := b.done.length
  match cx.s.loadGlobal cx.c [b.pas.getD i 0] with
  | .wait s => cx.oneByte s b
  | .poison _ => .trap cPOISON (byteVa ea i)
  | .ok bytes s =>
    let done := b.done ++ bytes
    if b.pas.length ≤ done.length then k (leNat done) s else cx.oneByte s { b with done := done }

/-- The next byte of a misaligned store (R103). -/
def Cx.storeByte (cx : Cx) (ea : W) (n v : Nat) (b : Bytewise) : Ret :=
  let i := b.done.length
  let x := (leBytes n v).getD i 0
  match cx.s.storeGlobal cx.c ea.toNat [(b.pas.getD i 0, x)] with
  | (false, s) => cx.oneByte s b
  | (true, s) => if b.pas.length ≤ i + 1 then .done s else cx.oneByte s { b with done := b.done ++ [x] }

/-! ## Loads -/

/-- A load of `n` bytes to `k`: the bytes as a number and the state, or a wait or trap (R103, R104). `late` names the
register and extension of a load that may be put off. -/
def Cx.load (cx : Cx) (ea : W) (n : Nat) (align cfg : Bool) (late : Option (Reg × Bool)) (k : Nat → State → Ret) : Ret :=
  match cx.t.bytewise with
  | some b => cx.loadByte ea b k
  | none =>
    match cx.target ea n .load align cfg with
    | .error (code, v) => .trap code v
    | .ok (.config u off) => k (cx.s.readConfig u off).toNat cx.s
    | .ok (.own w off) =>
      cx.ownPort (cx.span ea.toNat n) fun cx =>
        match cx.k.lcl.load w off n with
        | some bytes => k (leNat bytes) cx.s
        | none => .trap cPOISON (byteVa ea (((cx.k.lcl.firstPoison off n).getD off) - off))
    | .ok (.glob va) =>
      match translateRange cx.s cx.c (whoOf cx.hi) cx.t.sup false va n with
      | .error (code, a) => .trap code (w64 a)
      | .ok (.error s) => .stay s
      | .ok (.ok pas) =>
        if cx.mustWait (cx.span ea.toNat n) then .stay cx.s
        else if ea.toNat % n ≠ 0 then cx.loadByte ea { pas := pas, done := [] } k
        else
          match late.filter fun _ => cx.lags && cx.s.sound cx.c pas with
          | some (d, sx) => cx.putOff { d := d, sx := sx, n := n, va := va, pas := pas, store := none }
          | none =>
            match cx.s.loadGlobal cx.c pas with
            | .ok bytes s => k (leNat bytes) s
            | .wait s => .stay s
            | .poison i => .trap cPOISON (byteVa ea i)

/-- LD and LDX (R104). -/
def Cx.ld (cx : Cx) (ea : W) (sz : Size) (sx cfg : Bool) (d : Reg) : Ret :=
  cx.load ea sz.bytes false (cfg && sz == .d && !sx) (some (d, sx)) fun v s => cx.setD s d (extW sx (8 * sz.bytes) v)

/-- LD.ACQ: the earlier loads of both streams, the load, then the acquire at PACKAGE scope (R104, R253). -/
def Cx.ldAcq (cx : Cx) (ea : W) (sz : Size) (sx : Bool) (d : Reg) : Ret :=
  if cx.owesMemory then .stay cx.s
  else cx.load ea sz.bytes false false none fun v s => cx.setD (s.acquire cx.c .package) d (extW sx (8 * sz.bytes) v)

/-! ## Stores -/

/-- A store of bytes (R103, R104). -/
def Cx.store (cx : Cx) (ea : W) (n : Nat) (align cfg : Bool) (v : Nat) : Ret :=
  match cx.t.bytewise with
  | some b => cx.storeByte ea n v b
  | none =>
    match cx.target ea n .store align cfg with
    | .error (code, a) => .trap code a
    | .ok (.config u off) => .done (cx.s.writeConfig u off (w64 v))
    | .ok (.own w off) => cx.ownPort (cx.span ea.toNat n) fun cx => .done (cx.s.portStore cx.c w off (leBytes n v))
    | .ok (.glob va) =>
      match translateRange cx.s cx.c (whoOf cx.hi) cx.t.sup true va n with
      | .error (code, a) => .trap code (w64 a)
      | .ok (.error s) => .stay s
      | .ok (.ok pas) =>
        if cx.mustWait (cx.span ea.toNat n) then .stay cx.s
        else if ea.toNat % n ≠ 0 then cx.storeByte ea n v { pas := pas, done := [] }
        else
          match cx.s.storeGlobal cx.c va (pas.zip (leBytes n v)) with
          | (true, s) => .done s
          | (false, s) => .stay s

/-- ST.REL (R104, R252): once the release conditions at PACKAGE scope hold, the store. Until then the core may put the store
off, so that later loads go before it; a misaligned one holds them back. -/
def Cx.stRel (cx : Cx) (ea : W) (sz : Size) (d : Reg) : Ret :=
  let n := sz.bytes
  let v := (cx.x d).toNat
  let late := fun (va : Nat) (pas : List Nat) =>
    cx.putOff { d := 0, sx := false, n := n, va := va, pas := pas, store := some v }
  if !cx.lags || cx.t.bytewise.isSome || ea.toNat % n ≠ 0 then
    if cx.released .package && cx.t.late.isEmpty then cx.store ea n false false v else .stay cx.s
  else
    match cx.target ea n .store false false with
    | .error (code, a) => .trap code a
    | .ok (.config _ _) => .trap cADDR ea
    | .ok (.own w off) => late (localAddr cx.c w off) []
    | .ok (.glob va) =>
      match translateRange cx.s cx.c (whoOf cx.hi) cx.t.sup true va n with
      | .error (code, a) => .trap code (w64 a)
      | .ok (.error s) => .stay s
      | .ok (.ok pas) => if cx.mustWait (cx.span ea.toNat n) then .stay cx.s else late va pas

/-- A put-off load or release store of a task is performed, or waits (R245, R252). A release waits for everything before
it. DESIGN CHOICE (assumption 84): a load whose bytes became poisoned after it was put off returns them as they stand, as if it
had been performed just before. -/
def State.performLate (s : State) (c : Nat) (hi : Bool) (i : Nat) : State :=
  let k := s.core c
  match (k.bankTask hi).bind fun t => t.late[i]? with
  | none => s
  | some l =>
    let close := fun (s : State) (f : Core → Core) =>
      s.onCore c fun k => (f k).onTask hi fun t => { t with late := t.late.eraseIdx i }
    match l.store with
    | some v =>
      if i ≠ 0 || !k.released hi .package then s
      else if l.pas.isEmpty then
        let (_, w, off) := localParts l.va
        if s.portOwes c then s else close ((s.ownAccess c).portStore c w off (leBytes l.n v)) id
      else
        match s.storeGlobal c l.va (l.pas.zip (leBytes l.n v)) with
        | (true, s) => close s id
        | (false, s) => s
    | none =>
      let write := fun (bytes : List Byte) (k : Core) =>
        if l.n = 16 then (k.setX hi l.d (w64 (leNat bytes))).setX hi (l.d + 1) (w64 (leNat bytes / 2 ^ 64))
        else k.setX hi l.d (extW l.sx (8 * l.n) (leNat bytes))
      match s.loadGlobal c l.pas with
      | .ok bytes s => close s (write bytes)
      | .wait s => s
      | .poison _ => close s (write (s.bytesNow (l.pas.headD 0) l.n))

/-- A scaled displacement (R20). -/
def scaled (disp : BitVec 5) (n : Nat) : W := w64 (disp.toNat * n)

/-- LD (R104). -/
def execLd (f : MemForm) (s : State) : Out :=
  scalar (Need.loads 2 f.g [f.a] [f.d]) (fun cx => cx.ld (cx.x f.a + scaled f.disp f.sz.bytes) f.sz f.sx true f.d) s
/-- LD with a literal displacement. -/
def execLdLit (f : MemLit) (s : State) : Out :=
  scalar (Need.loads 4 f.g [f.a] [f.d]) (fun cx => cx.ld (cx.x f.a + litVal f.lit) f.sz f.sx true f.d) s
/-- LD.ACQ (R104). -/
def execLdAcq (f : MemForm) (s : State) : Out :=
  scalar { Need.loads 2 f.g [f.a] [f.d] with pass := false } (fun cx => cx.ldAcq (cx.x f.a + scaled f.disp f.sz.bytes) f.sz f.sx f.d) s
/-- LD.ACQ with a literal displacement. -/
def execLdAcqLit (f : MemLit) (s : State) : Out :=
  scalar { Need.loads 4 f.g [f.a] [f.d] with pass := false } (fun cx => cx.ldAcq (cx.x f.a + litVal f.lit) f.sz f.sx f.d) s
/-- ST (R104). -/
def execSt (f : StForm) (s : State) : Out :=
  scalar (Need.stores 2 f.g [f.a, f.d])
    (fun cx => cx.store (cx.x f.a + scaled f.disp f.sz.bytes) f.sz.bytes false (f.sz == .d) (cx.x f.d).toNat) s
/-- ST with a literal displacement. -/
def execStLit (f : StLit) (s : State) : Out :=
  scalar (Need.stores 4 f.g [f.a, f.d])
    (fun cx => cx.store (cx.x f.a + litVal f.lit) f.sz.bytes false (f.sz == .d) (cx.x f.d).toNat) s
/-- ST.REL (R104). -/
def execStRel (f : StForm) (s : State) : Out :=
  scalar (Need.stores 2 f.g [f.a, f.d]) (fun cx => cx.stRel (cx.x f.a + scaled f.disp f.sz.bytes) f.sz f.d) s
/-- ST.REL with a literal displacement. -/
def execStRelLit (f : StLit) (s : State) : Out :=
  scalar (Need.stores 4 f.g [f.a, f.d]) (fun cx => cx.stRel (cx.x f.a + litVal f.lit) f.sz f.d) s
/-- LDX (R104). -/
def execLdx (f : LdxForm) (s : State) : Out :=
  scalar (Need.loads 2 f.g [f.a, f.b] [f.d]) (fun cx => cx.ld (cx.x f.a + cx.x f.b) f.sz f.sx false f.d) s
/-- STX (R104). -/
def execStx (f : StxForm) (s : State) : Out :=
  scalar (Need.stores 2 f.g [f.a, f.b, f.d])
    (fun cx => cx.store (cx.x f.a + cx.x f.b) f.sz.bytes false false (cx.x f.d).toNat) s

/-! ## Pairs (R105) -/

/-- The value of X[d], X[d+1] as 16 bytes. -/
def Cx.pair (cx : Cx) (d : Reg) : Nat := (cx.x d).toNat + 2 ^ 64 * (cx.x (d + 1)).toNat

/-- Writes X[d], X[d+1]. -/
def Core.setPair (k : Core) (hi : Bool) (d : Reg) (v : Nat) : Core :=
  (k.setX hi d (w64 v)).setX hi (d + 1) (w64 (v / 2 ^ 64))

/-- LDP at an address. -/
def Cx.ldp (cx : Cx) (ea : W) (d : Reg) : Ret :=
  cx.load ea 16 true false (some (d, false)) fun v s => .done (s.onCore cx.c fun k => k.setPair cx.hi d v)

/-- LDP (R105). -/
def execLdp (f : DispForm) (s : State) : Out :=
  scalar (Need.loads 2 f.g [f.a] [f.d, f.d + 1]) (fun cx => cx.ldp (cx.x f.a + scaled f.disp 16) f.d) s
/-- LDP with a literal displacement. -/
def execLdpLit (f : R2Lit) (s : State) : Out :=
  scalar (Need.loads 4 f.g [f.a] [f.d, f.d + 1]) (fun cx => cx.ldp (cx.x f.a + litVal f.lit) f.d) s
/-- STP (R105). -/
def execStp (f : DispForm) (s : State) : Out :=
  scalar (Need.stores 2 f.g [f.a, f.d, f.d + 1]) (fun cx => cx.store (cx.x f.a + scaled f.disp 16) 16 true false (cx.pair f.d)) s
/-- STP with a literal displacement. -/
def execStpLit (f : R2Lit) (s : State) : Out :=
  scalar (Need.stores 4 f.g [f.a, f.d, f.d + 1]) (fun cx => cx.store (cx.x f.a + litVal f.lit) 16 true false (cx.pair f.d)) s

/-! ## Atomics (R106, R107) -/

/-- A read-modify-write of `n` bytes: at the own port at once, or at the home with a wait for the old value. -/
def Cx.rmw (cx : Cx) (ea : W) (n len : Nat) (op : Rmw) (d : Reg) : Ret :=
  match cx.target ea n .atomic true false with
  | .error (code, v) => .trap code v
  | .ok (.config _ _) => .trap cADDR ea
  | .ok (.own _ off) =>
    cx.ownPort (cx.span ea.toNat n) fun cx =>
      match cx.s.portRmw cx.c off n op with
      | none => .trap cPOISON (byteVa ea (((cx.k.lcl.firstPoison off n).getD off) - off))
      | some (old, s) =>
        if n = 16 then .done (s.onCore cx.c fun k => k.setPair cx.hi d old) else cx.setD s d (w64 old)
  | .ok (.glob va) =>
    match translateRange cx.s cx.c (whoOf cx.hi) cx.t.sup true va n with
    | .error (code, a) => .trap code (w64 a)
    | .ok (.error s) => .stay s
    | .ok (.ok pas) =>
      if cx.mustWait (cx.span ea.toNat n) then .stay cx.s
      else
        let pa := pas.headD 0
        cx.await (cx.s.send (.core cx.c) (.slice (homeOf pa)) .request (.amo cx.req pa n va op))
          (if n = 16 then .pair d len else .value d false (8 * n) len false)

/-- The low `n` bytes of a register. -/
def low (n : Nat) (w : W) : Nat := w.toNat % 256 ^ n

/-- AMO on words (R106). -/
def execAmoW (f : AmoForm) (s : State) : Out :=
  scalar (Need.stores 2 f.g [f.a, f.b, f.d]) (fun cx => cx.rmw (cx.x f.a) 4 2 (.amo f.op (low 4 (cx.x f.b))) f.d) s
/-- AMO on doublewords (R106). -/
def execAmoD (f : AmoForm) (s : State) : Out :=
  scalar (Need.stores 2 f.g [f.a, f.b, f.d]) (fun cx => cx.rmw (cx.x f.a) 8 2 (.amo f.op (low 8 (cx.x f.b))) f.d) s
/-- CAS.W (R107). -/
def execCasW (f : R3) (s : State) : Out :=
  scalar (Need.stores 2 f.g [f.a, f.b, f.d])
    (fun cx => cx.rmw (cx.x f.a) 4 2 (.cas (low 4 (cx.x f.d)) (low 4 (cx.x f.b))) f.d) s
/-- CAS.D (R107). -/
def execCasD (f : R3) (s : State) : Out :=
  scalar (Need.stores 2 f.g [f.a, f.b, f.d])
    (fun cx => cx.rmw (cx.x f.a) 8 2 (.cas (low 8 (cx.x f.d)) (low 8 (cx.x f.b))) f.d) s
/-- CAS2 (R107). -/
def execCas2 (f : R3) (s : State) : Out :=
  scalar (Need.stores 2 f.g [f.a, f.b, f.b + 1, f.d, f.d + 1])
    (fun cx => cx.rmw (cx.x f.a) 16 2 (.cas (cx.pair f.d) (cx.pair f.b)) f.d) s

/-! ## CWB and CINV (R108) -/

/-- The lines of the L1 that a range of virtual addresses overlaps, once every page of the range is translated. -/
def Cx.rangeLines (cx : Cx) (va n : Nat) : Except (Nat × Nat) (Except State (List Nat)) :=
  let pages := rangeFrom (va / 2 ^ 19) ((va + n - 1) / 2 ^ 19 + 1 - va / 2 ^ 19)
  let rec go (s : State) (wait : Bool) (acc : List Nat) : List Nat → Except (Nat × Nat) (Except State (List Nat))
    | [] => if wait then .ok (.error s) else .ok (.ok acc)
    | p :: r =>
      let a := Nat.max va (p * 2 ^ 19)
      match translate s cx.c (whoOf cx.hi) cx.t.sup false a with
      | .trap code => if wait then .ok (.error s) else .error (code, a)
      | .wait s => go s true acc r
      | .ok pa =>
        let last := Nat.min (va + n - 1) (p * 2 ^ 19 + 2 ^ 19 - 1)
        let lo := lineOf pa
        let hi := lineOf (pa + (last - a))
        let here := (cx.k.l1.lines.map (·.1) ++ cx.k.l1.wb.map (·.line)).eraseDups.filter fun l => decide (lo ≤ l) && decide (l ≤ hi)
        go s wait (acc ++ here) r
  go cx.s false [] pages

/-- CWB and CINV: writes back the registered words of the range, waits for the acknowledgements, and for CINV
clears SV (R108). -/
def Cx.clean (cx : Cx) (a n : W) (inv : Bool) : Ret :=
  if n = 0 then .done cx.s
  else if 2 ^ 31 < n.toNat then .trap cILLEGAL (cx.k.instrWord cx.t)
  else
    match if a.bits 63 60 = 0 then decodeAddr cx.c cx.t.sup a.toNat n.toNat else .error cADDR with
    | .error code => .trap code a
    | .ok (.global va) =>
      if cx.t.carried then .trap cADDR a
      else
        match cx.rangeLines va n.toNat with
        | .error (code, v) => .trap code (w64 v)
        | .ok (.error s) => .stay s
        | .ok (.ok lines) =>
          let l := cx.k.l1
          let regs := lines.filter fun x => (l.line? x).any fun y => y.reg != 0 && y.pend == 0
          let busy := lines.any fun x => (l.line? x).any (fun y => y.pend != 0 || y.reg != 0) || l.wb.any (·.line == x)
          if cx.owesMemory then .stay cx.s
          else if busy then
            match regs with
            | [] => .stay cx.s
            | x :: _ =>
              if Config.wbufs ≤ l.wb.length then .stay cx.s
              else
                let (l, b) := l.release x
                .stay ((cx.s.onL1 cx.c fun _ => l).sendWb cx.c b)
          else if inv then .done (cx.s.onL1 cx.c fun l => lines.foldl (fun l x => l.clearSv x 15) l)
          else .done cx.s
    | .ok _ => .trap cADDR a

/-- CWB (R108). -/
def execCwb (f : Rba) (s : State) : Out :=
  scalar (Need.fence 2 f.g [f.a, f.b]) (fun cx => cx.clean (cx.x f.a) (cx.x f.b) false) s
/-- CINV (R108). -/
def execCinv (f : Rba) (s : State) : Out :=
  scalar (Need.fence 2 f.g [f.a, f.b]) (fun cx => cx.clean (cx.x f.a) (cx.x f.b) true) s

/-! ## Compact loads and stores (R21) -/

/-- Compact LD. -/
def cLoad (a d : Reg) (disp : Nat) (sz : Size) (s : State) : Out :=
  scalar (Need.loads 1 .always [a] [d]) (fun cx => cx.ld (cx.x a + w64 disp) sz false true d) s
/-- Compact ST. -/
def cStore (a d : Reg) (disp : Nat) (sz : Size) (s : State) : Out :=
  scalar (Need.stores 1 .always [a, d]) (fun cx => cx.store (cx.x a + w64 disp) sz.bytes false (sz == .d) (cx.x d).toNat) s

/-- Compact LD.D from X2. -/
def execCLdDX2 (f : CImm) (s : State) : Out := cLoad 2 f.d (f.imm.toNat * 8) .d s
/-- Compact ST.D to X2. -/
def execCStDX2 (f : CImm) (s : State) : Out := cStore 2 f.d (f.imm.toNat * 8) .d s
/-- Compact LD.W from X2. -/
def execCLdWX2 (f : CImm) (s : State) : Out := cLoad 2 f.d (f.imm.toNat * 4) .w s
/-- Compact ST.W to X2. -/
def execCStWX2 (f : CImm) (s : State) : Out := cStore 2 f.d (f.imm.toNat * 4) .w s
/-- Compact LD.W. -/
def execCLdW (f : C2) (s : State) : Out := cLoad f.b f.d 0 .w s
/-- Compact ST.W. -/
def execCStW (f : C2) (s : State) : Out := cStore f.b f.d 0 .w s
/-- Compact LD.D. -/
def execCLdD (f : C2) (s : State) : Out := cLoad f.b f.d 0 .d s
/-- Compact ST.D. -/
def execCStD (f : C2) (s : State) : Out := cStore f.b f.d 0 .d s

end Sys2Proof.Machine
end

