-- ==== Sys2Proof/Machine/Remote.lean ====
section
/-! DEFINITION. Remote loads, stores and atomics, the Waybill, full/empty operations, and their arrivals at the
owner's port (R53, R87, R88, R151–R158); the answers that end a task's stall (R248). -/

namespace Sys2Proof.Machine

/-! ## The Waybill (R153–R155) -/

/-- The lowest free entry of a core's Waybill. -/
def Core.freeEntry? (k : Core) : Option Nat := (List.range Config.waybillSize).find? fun n => (k.wb n).state == 0

/-- TASK of a Waybill entry (R155). -/
def taskByte (t : Task) : Nat := t.entry % 32 + b2n t.hi * 32 + b2n t.carried * 64

/-- Takes Waybill entry `n` for a posted access of a task (R153). -/
def State.post (s : State) (c n : Nat) (t : Task) (target : W) (data : List W) (kind : Nat) : State :=
  s.onCore c fun k =>
    { k.setWb n { target := target, data := data, pc := t.pc % 2 ^ 16, task := taskByte t, kind := kind, state := 1,
                  cause := 0, seq := k.seq } with seq := (k.seq + 1) % 2 ^ 16 }

/-- Code of an access size (R27). -/
def sizeCode (z : Size) : Nat :=
  match z with
  | .b => 0
  | .h => 1
  | .w => 2
  | .d => 3
  | .n => 4

/-! ## Checks at the issuer (R158, R87, R88) -/

/-- A scratchpad address of regions 0x8 and 0x9: core, window, offset, or the trap. -/
def Cx.scratch (cx : Cx) (ea : W) (n : Nat) : Except (Nat × W) (Nat × Nat × Nat) :=
  match decodeAddr cx.c cx.t.sup ea.toNat n with
  | .error code => .error (code, ea)
  | .ok (.loc core w off) => .ok (core, w, off)
  | .ok _ => .error (cADDR, ea)

/-- The byte address and nibble of an access: for N, the offset counts nibbles (R157). -/
def nibbleAddr (base : W) (sz : Size) (off : Int) : W × Option Bool :=
  if sz = .n then (base + BitVec.ofInt 64 (off / 2), some (off % 2 == 1))
  else (base + BitVec.ofInt 64 off, none)

/-- A scaled offset, or a literal one, in units of bytes or nibbles. -/
def scaledInt (disp : BitVec 5) (n : Nat) : Int := (disp.toNat * n : Nat)

/-! ## RLD, RST, RAMO (R158) -/

/-- RLD: the request goes to the owner, and the stream stalls for the reply. -/
def Cx.rld (cx : Cx) (base : W) (off : Int) (sz : Size) (sx : Bool) (len : Nat) (d : Reg) : Ret :=
  let (ea, nib) := nibbleAddr base sz off
  let n := sz.bytes
  match cx.scratch ea n with
  | .error (code, v) => .trap code v
  | .ok (core, _, _) =>
    if cx.mustWait (cx.span ea.toNat n) then .stay cx.s
    else cx.await (cx.s.send (.core cx.c) (.core core) .request (.rld cx.req ea.toNat n nib))
      (.value d sx (8 * n) len false)

/-- RST: posted on the ordered or a bulk plane. -/
def Cx.rst (cx : Cx) (base : W) (off : Int) (sz : Size) (bulk : Bool) (d : Reg) : Ret :=
  let (ea, nib) := nibbleAddr base sz off
  let n := sz.bytes
  match cx.scratch ea n with
  | .error (code, v) => .trap code v
  | .ok (core, _, _) =>
    if cx.mustWait (cx.span ea.toNat n) then .stay cx.s
    else
      match cx.k.freeEntry? with
      | none => .stay cx.s
      | some e =>
        let v := if nib.isSome then (cx.x d).toNat % 16 else low n (cx.x d)
        let s := cx.s.post cx.c e cx.t ea [w64 v] (sizeCode sz * 8 + b2n bulk * 64)
        .done (s.send (.core cx.c) (.core core) (if bulk then .bulk else .request) (.rst cx.req ea.toNat n v nib e))

/-- RAMO: an atomic at the owner's port. -/
def Cx.ramo (cx : Cx) (ea : W) (n : Nat) (op : AmoOp) (v : W) (d : Reg) : Ret :=
  match cx.scratch ea n with
  | .error (code, v) => .trap code v
  | .ok (core, _, _) =>
    if ea.toNat % n ≠ 0 then .trap cALIGN ea
    else if cx.mustWait (cx.span ea.toNat n) then .stay cx.s
    else cx.await (cx.s.send (.core cx.c) (.core core) .request (.ramo cx.req ea.toNat n (.amo op (low n v))))
      (.value d false (8 * n) 2 false)

/-- RLD (R158). -/
def execRld (f : MemForm) (s : State) : Out :=
  scalar (Need.plain 2 f.g [f.a, f.d]) (fun cx => cx.rld (cx.x f.a) (scaledInt f.disp f.sz.bytes) f.sz f.sx 2 f.d) s
/-- RLD with a literal displacement. -/
def execRldLit (f : MemLit) (s : State) : Out :=
  scalar (Need.plain 4 f.g [f.a, f.d]) (fun cx => cx.rld (cx.x f.a) f.lit.toInt f.sz f.sx 4 f.d) s
/-- RST (R158). -/
def execRst (f : MemForm) (s : State) : Out :=
  scalar (Need.stores 2 f.g [f.a, f.d]) (fun cx => cx.rst (cx.x f.a) (scaledInt f.disp f.sz.bytes) f.sz f.sx f.d) s
/-- RST with a literal displacement. -/
def execRstLit (f : MemLit) (s : State) : Out :=
  scalar (Need.stores 4 f.g [f.a, f.d]) (fun cx => cx.rst (cx.x f.a) f.lit.toInt f.sz f.sx f.d) s
/-- RAMO on words (R158). -/
def execRamoW (f : AmoForm) (s : State) : Out :=
  scalar (Need.stores 2 f.g [f.a, f.b, f.d]) (fun cx => cx.ramo (cx.x f.a) 4 f.op (cx.x f.b) f.d) s
/-- RAMO on doublewords (R158). -/
def execRamoD (f : AmoForm) (s : State) : Out :=
  scalar (Need.stores 2 f.g [f.a, f.b, f.d]) (fun cx => cx.ramo (cx.x f.a) 8 f.op (cx.x f.b) f.d) s

/-! ## LDF, LDFE, STF, FECLR (R87, R88, R257) -/

/-- A scratchpad address for LDF, LDFE, STF and FECLR, which in carried code names the own core (R162). -/
def Cx.fullScratch (cx : Cx) (ea : W) (n : Nat) : Except (Nat × W) (Nat × Nat × Nat) :=
  match cx.scratch ea n with
  | .error e => .error e
  | .ok (core, w, off) => if cx.t.carried ∧ core ≠ cx.c then .error (cADDR, ea) else .ok (core, w, off)

/-- The checks of an LDF, LDFE, STF: region, window of an own word, alignment. -/
def Cx.fullAddr (cx : Cx) (ea : W) (n : Nat) : Except (Nat × W) (Nat × Nat × Nat) :=
  match cx.fullScratch ea n with
  | .error e => .error e
  | .ok (core, w, off) =>
    match if core = cx.c then cx.k.lcl.windowCheck .atomic cx.t.sup w off n else none with
    | some code => .error (code, ea)
    | none => if ea.toNat % n ≠ 0 then .error (cALIGN, ea) else .ok (core, w, off)

/-- Whether the task's earlier accesses to its own scratchpad are all performed (R257). -/
def Cx.ownDone (cx : Cx) : Bool :=
  !cx.owesMemory && !(cx.s.net ++ cx.s.held).any fun p => p.src == .core cx.c && p.dst == .core cx.c && p.plane == .request

/-- LDF and LDFE: performed or parked at the owner's port; the stream waits for the value. -/
def Cx.ldf (cx : Cx) (ea : W) (n len : Nat) (sx take : Bool) (d : Reg) : Ret :=
  match cx.fullAddr ea n with
  | .error (code, v) => .trap code v
  | .ok (core, _, _) =>
    let wait : Wait := .value d sx (8 * n) len true
    if core = cx.c then
      cx.ownPort (cx.span ea.toNat n) fun cx =>
        cx.await (cx.s.portLdf cx.c { r := cx.req, addr := ea.toNat, n := n, take := take }) wait
    else if cx.mustWait (cx.span ea.toNat n) then .stay cx.s
    else cx.await (cx.s.send (.core cx.c) (.core core) .request (.fullOp cx.req ea.toNat n (if take then .ldfe else .ldf))) wait

/-- STF: after the task's earlier accesses to that scratchpad; a remote one waits for its acknowledgement. -/
def Cx.stf (cx : Cx) (ea : W) (n len : Nat) (v : W) : Ret :=
  match cx.fullAddr ea n with
  | .error (code, a) => .trap code a
  | .ok (core, _, off) =>
    if core = cx.c then
      if cx.ownDone then cx.ownPort [] fun cx => .done (cx.s.portStf cx.c off (leBytes n v.toNat)) else .stay cx.s
    else if cx.owesMemory then .stay cx.s
    else cx.await (cx.s.send (.core cx.c) (.core core) .request (.fullOp cx.req ea.toNat n (.stf (low n v))))
      (.value 0 false 64 len false)

/-- LDF (R87). -/
def execLdf (f : MemForm) (s : State) : Out :=
  scalar (Need.plain 2 f.g [f.a, f.d]) (fun cx => cx.ldf (cx.x f.a + scaled f.disp f.sz.bytes) f.sz.bytes 2 f.sx false f.d) s
/-- LDF with a literal displacement. -/
def execLdfLit (f : MemLit) (s : State) : Out :=
  scalar (Need.plain 4 f.g [f.a, f.d]) (fun cx => cx.ldf (cx.x f.a + litVal f.lit) f.sz.bytes 4 f.sx false f.d) s
/-- LDFE (R87). -/
def execLdfe (f : MemForm) (s : State) : Out :=
  scalar (Need.stores 2 f.g [f.a, f.d]) (fun cx => cx.ldf (cx.x f.a + scaled f.disp f.sz.bytes) f.sz.bytes 2 f.sx true f.d) s
/-- LDFE with a literal displacement. -/
def execLdfeLit (f : MemLit) (s : State) : Out :=
  scalar (Need.stores 4 f.g [f.a, f.d]) (fun cx => cx.ldf (cx.x f.a + litVal f.lit) f.sz.bytes 4 f.sx true f.d) s
/-- STF (R87). -/
def execStf (f : StForm) (s : State) : Out :=
  scalar (Need.stores 2 f.g [f.a, f.d]) (fun cx => cx.stf (cx.x f.a + scaled f.disp f.sz.bytes) f.sz.bytes 2 (cx.x f.d)) s
/-- STF with a literal displacement. -/
def execStfLit (f : StLit) (s : State) : Out :=
  scalar (Need.stores 4 f.g [f.a, f.d]) (fun cx => cx.stf (cx.x f.a + litVal f.lit) f.sz.bytes 4 (cx.x f.d)) s

/-- FECLR (R88): every check before the question whether there is anything to do. -/
def execFeclr (f : Rba) (s : State) : Out :=
  scalar (Need.stores 2 f.g [f.a, f.b]) (fun cx =>
    let a := cx.x f.a
    let n := (cx.x f.b).toNat
    match cx.fullScratch a 0 with
    | .error (code, v) => .trap code v
    | .ok (core, w, off) =>
      if 12 < w then .trap cWINDOW a
      else if core = cx.c ∧ !cx.k.lcl.configured w then .trap cWINDOW a
      else if a.toNat % 8 ≠ 0 ∨ n % 8 ≠ 0 then .trap cALIGN a
      else if Config.spadSize < off + n then .trap cWINDOW a
      else if n = 0 then .done cx.s
      else if core = cx.c then
        cx.ownPort (cx.span a.toNat n) fun cx => .done (cx.s.portFeclr cx.c off n)
      else cx.await (cx.s.send (.core cx.c) (.core core) .request (.feclr cx.req a.toNat n)) (.value 0 false 64 2 false)) s

/-! ## Arrivals at the owner (R53, R151–R158) -/

/-- The owner's check of an arrival: its context, then its window rules (R53). -/
def Core.arrivalCheck (k : Core) (r : Requester) (acc : Access) (addr n : Nat) : Option Nat :=
  let (_, w, off) := localParts addr
  if k.refuses r.ctx then some cCONTEXT else k.lcl.windowCheck acc r.sup w off n

/-- The reply of an owner. -/
def State.replyTo (s : State) (c : Nat) (r : Requester) (b : Body) : State := s.send (.core c) (.core r.core) .reply b

/-- A failure that is exact at the issuer. -/
def State.failTo (s : State) (c : Nat) (r : Requester) (code : Nat) (v : W) : State := s.replyTo c r (.failed r.hi ⟨code, v⟩)

/-- The CAUSE of R155 for a check that failed at the owner. -/
def postCause (code : Nat) : Nat := if code = cPRIV then 1 else if code = cCONTEXT then 7 else if code = cPOISON then 3 else 2

/-- REMOTE_LOAD_ARRIVAL (R158). -/
def execRemoteLoadArrival (k : Nat) (s : State) : Out :=
  packetStep k (fun p s =>
    match p.dst, p.body with
    | .core c, .rld r addr n nib =>
      let (_, w, off) := localParts addr
      match (s.core c).arrivalCheck r .load addr n with
      | some code => some (s.failTo c r code (w64 addr))
      | none =>
        match (s.core c).lcl.load w off n with
        | none => some (s.failTo c r cPOISON (w64 (addr + (((s.core c).lcl.firstPoison off n).getD off - off))))
        | some bytes =>
          let v := leNat bytes
          some (s.replyTo c r (.reply r.hi [match nib with | none => v | some h => if h then v / 16 else v % 16]))
    | _, _ => none) s

/-- Whether an arrival from another core is refused because it would overwrite a full word (R156). -/
def Core.fullRefused (k : Core) (c : Nat) (r : Requester) (addr n : Nat) : Bool :=
  let (_, w, off) := localParts addr
  k.regs.rprot && r.core != c && decide (w ≤ 12) && k.lcl.anyFull off n

/-- A posted arrival's outcome: an acknowledgement, or a refusal with its cause (R153). -/
def State.postedEnd (s : State) (c : Nat) (r : Requester) (entry : Nat) (cause : Option Nat) : State :=
  s.replyTo c r (match cause with | none => .ack entry | some q => .refusal entry q)

/-- REMOTE_STORE_ARRIVAL (R152, R153, R156, R158). -/
def execRemoteStoreArrival (k : Nat) (s : State) : Out :=
  packetStep k (fun p s =>
    match p.dst, p.body with
    | .core c, .rst r addr n v nib entry =>
      let k := s.core c
      let (_, w, off) := localParts addr
      match k.arrivalCheck r .store addr n with
      | some code => some (s.postedEnd c r entry (some (postCause code)))
      | none =>
        if k.fullRefused c r addr n then some (s.postedEnd c r entry (some 4))
        else if w ≤ 12 ∧ k.lcl.mergeFails off n then some (s.postedEnd c r entry (some 3))
        else
          let old := match k.lcl.load w off 1 with | some b => leNat b | none => 0
          let v' := match nib with
            | none => v
            | some h => if h then v * 16 + old % 16 else old / 16 * 16 + v
          some ((s.portStore c w off (leBytes n v')).postedEnd c r entry none)
    | _, _ => none) s

/-- REMOTE_ATOMIC_ARRIVAL (R158). -/
def execRemoteAtomicArrival (k : Nat) (s : State) : Out :=
  packetStep k (fun p s =>
    match p.dst, p.body with
    | .core c, .ramo r addr n op =>
      let (_, _, off) := localParts addr
      match (s.core c).arrivalCheck r .atomic addr n with
      | some code => some (s.failTo c r code (w64 addr))
      | none =>
        match s.portRmw c off n op with
        | none => some (s.failTo c r cPOISON (w64 addr))
        | some (old, s) => some (s.replyTo c r (.reply r.hi [old]))
    | _, _ => none) s

/-- Whether the cancel of a task is about a barrier record or a TSWAP, and not about a full bit (R314). -/
def State.waitOf (s : State) (r : Requester) : Wait :=
  match (s.core r.core).bankTask r.hi with
  | none => .none
  | some t => t.wait

/-- FULL_EMPTY_ARRIVAL (R87): also the completion word of a matrix command (R166), and the cancel of a waiter that the
watchdog ends (R314). -/
def execFullEmptyArrival (k : Nat) (s : State) : Out :=
  packetStep k (fun p s =>
    match p.dst, p.body with
    | .core c, .fullOp r addr n op =>
      let (_, _, off) := localParts addr
      match (s.core c).arrivalCheck r .atomic addr n with
      | some code => some (s.failTo c r code (w64 addr))
      | none =>
        match op with
        | .ldf => some (s.portLdf c { r := r, addr := addr, n := n, take := false })
        | .ldfe => some (s.portLdf c { r := r, addr := addr, n := n, take := true })
        | .stf v => some ((s.portStf c off (leBytes n v)).replyTo c r (.reply r.hi [0]))
    | .core c, .mxDone r addr =>
      let (_, _, off) := localParts addr
      match (s.core c).arrivalCheck r .atomic addr 8 with
      | some _ => some s
      | none => some (s.portStf c off (leBytes 8 1))
    | .core c, .cancel r =>
      match s.waitOf r with
      | .value .. =>
        if (s.core c).lcl.fullWait.any (·.r == r) then
          some ((s.onCore c fun k => { k with lcl := { k.lcl with fullWait := k.lcl.fullWait.filter (·.r != r) } }).replyTo c r
            (.cancelled r.hi))
        else some s
      | _ => none
    | _, _ => none) s

/-- FECLR_ARRIVAL (R88). -/
def execFeclrArrival (k : Nat) (s : State) : Out :=
  packetStep k (fun p s =>
    match p.dst, p.body with
    | .core c, .feclr r addr n =>
      let (_, _, off) := localParts addr
      match (s.core c).arrivalCheck r .atomic addr n with
      | some code => some (s.failTo c r code (w64 addr))
      | none => some ((s.portFeclr c off n).replyTo c r (.reply r.hi [0]))
    | _, _ => none) s

/-! ## Answers (R248) -/

/-- Completes the stalled instruction of a bank: what it writes, and the pc past it. -/
def State.resume (s : State) (c : Nat) (hi : Bool) (len : Nat) (f : Task → Task) : State :=
  s.onCore c fun k => k.onTask hi fun t => { f t with wait := .none, pc := t.pc + len, stalled := false }

/-- The answer to a stalled task: values to the registers it waits for. -/
def State.answer (s : State) (c : Nat) (hi : Bool) (vals : List Nat) : State :=
  match (s.core c).bankTask hi with
  | none => s
  | some t =>
    match t.wait with
    | .value d sx bits len _ => s.resume c hi len fun t => t.setReg d (extW sx bits (vals.headD 0))
    | .barv d st =>
      if st = 1 then
        let w0 := vals.headD 0
        if bitsOf w0 63 55 ≠ 0 ∨ bitOf w0 52 then
          s.onCore c fun k => k.onTask hi fun t => { t with wait := .none, fail := some ⟨cILLEGAL, k.instrWord t⟩ }
        else s.onCore c fun k => k.onTask hi fun t => { t with wait := .barv d (2 + bitsOf w0 54 53) }
      else
        match vals with
        | [] => s.onCore c fun k => k.onTask hi fun t => { t with wait := .none, fail := some ⟨cILLEGAL, k.instrWord t⟩ }
        | v :: _ => s.resume c hi 2 fun t => t.setReg d (w64 v)
    | .barw d =>
      let sc := vals.getD 1 0
      (s.acquire c (if sc = 0 then .core else if sc = 1 then .cluster else if sc = 2 then .package else .system)).resume c hi 2
        fun t => t.setReg d (w64 (vals.headD 0))
    | .pair d len => s.resume c hi len fun t => (t.setReg d (w64 (vals.getD 0 0))).setReg (d + 1) (w64 (vals.getD 1 0))
    | _ => s

/-- A failure that the stalled instruction reports as an exact trap when its task next runs. -/
def State.answerFail (s : State) (c : Nat) (hi : Bool) (t : Trap) : State :=
  s.onCore c fun k => k.onTask hi fun u => { u with wait := .none, fail := some t }

/-- REMOTE_REPLY (R248): a value, a failure, a cancelled wait, or a tile for the vector/matrix stream. -/
def execRemoteReply (k : Nat) (s : State) : Out :=
  packetStep k (fun p s =>
    match p.dst, p.body with
    | .core c, .reply hi vals => some (s.answer c hi vals)
    | .core c, .failed hi t => some (s.answerFail c hi t)
    | .core c, .cancelled hi => some (s.onCore c fun k => k.onTask hi fun t => { t with wait := .none, stalled := false })
    | .core c, .tileData bytes => some (s.onCore c fun k => { k with vu := { k.vu with wait := false, reply := some bytes } })
    | .core c, .tileDone => some (s.onCore c fun k =>
        { k with vu := { k.vu with wait := false, reply := some (k.vu.reply.getD [] ++ [[]]) } })
    | .core c, .tileFailed t => some (s.onCore c fun k => { k with vu := { k.vu with wait := false, failed := some t } })
    | _, _ => none) s

/-- POSTED_ACK (R153). -/
def execPostedAck (k : Nat) (s : State) : Out :=
  packetStep k (fun p s =>
    match p.dst, p.body with
    | .core c, .ack n => some (s.onCore c fun k => k.setWb n WbEntry.free)
    | _, _ => none) s

/-- POSTED_REFUSAL (R153, R155). -/
def execPostedRefusal (k : Nat) (s : State) : Out :=
  packetStep k (fun p s =>
    match p.dst, p.body with
    | .core c, .refusal n cause =>
      let e := (s.core c).wb n
      let s := s.onCore c fun k => k.setWb n { e with state := 2, cause := cause }
      some (s.pending c (if e.kind % 8 = 2 then cMBOXREF else cWAYBILL) (w64 (cause * 256 + n)))
    | _, _ => none) s

end Sys2Proof.Machine
end

