-- ==== Sys2Proof/Machine/VStream.lean ====
section
/-! DEFINITION. The vector/matrix stream: passing an instruction with its captured operands, recording and
replaying (R191, R214–R216), executing the oldest instruction, and the faults it holds (R312). -/

namespace Sys2Proof.Machine

/-! ## Staggering (R215) -/

/-- An instruction with its marked V, P and tile fields advanced by `n`: field bits 0 d, 1 a, 2 b. Ports, and
X registers, whose values and not numbers advance, keep their fields. -/
def stagger (i : Instr) (fm n : Nat) : Instr :=
  let r := fun (bit : Nat) (x : Reg) => if fm.testBit bit then x + BitVec.ofNat 5 n else x
  let t := fun (bit : Nat) (x : PReg) => if fm.testBit bit then x + BitVec.ofNat 3 n else x
  let rb := fun (p : Bool) (x : Reg) => if p then x else r 2 x
  let ra := fun (p : Bool) (x : Reg) => if p then x else r 1 x
  let v := fun (f : VForm) => { f with d := r 0 f.d, a := r 1 f.a, b := rb f.p f.b }
  let vb := fun (f : VBin) => { f with d := r 0 f.d, a := r 1 f.a, b := rb f.p f.b }
  let sh := fun (f : VShForm) => { f with d := r 0 f.d, a := r 1 f.a, b := rb f.p f.b }
  let un := fun (f : VUn) => { f with d := r 0 f.d, a := ra f.p f.a }
  match i with
  | .vadd f => .vadd (v f)
  | .vsub f => .vsub (v f)
  | .vmul f => .vmul (v f)
  | .vfma f => .vfma (v f)
  | .vfms f => .vfms (v f)
  | .vfnma f => .vfnma (v f)
  | .vdiv f => .vdiv (v f)
  | .vmin f => .vmin (v f)
  | .vmax f => .vmax (v f)
  | .vand f => .vand (vb f)
  | .vor f => .vor (vb f)
  | .vxor f => .vxor (vb f)
  | .vperm f => .vperm (vb f)
  | .vdot4I8 f => .vdot4I8 (vb f)
  | .vdot4N8 f => .vdot4N8 (vb f)
  | .vshl f => .vshl (sh f)
  | .vshr f => .vshr (sh f)
  | .vsar f => .vsar (sh f)
  | .vcmp f => .vcmp { f with pd := t 0 f.pd, a := r 1 f.a, b := rb f.p f.b }
  | .vsel f => .vsel { f with d := r 0 f.d, a := r 1 f.a, b := rb f.p f.b }
  | .vext f => .vext { f with a := r 1 f.a }
  | .vins f => .vins { f with d := r 0 f.d }
  | .vmov f => .vmov { f with d := r 0 f.d, a := ra f.p f.a }
  | .vabs f => .vabs (un f)
  | .vneg f => .vneg (un f)
  | .vsqrt f => .vsqrt (un f)
  | .vrcp f => .vrcp (un f)
  | .vrsq f => .vrsq (un f)
  | .vexp2 f => .vexp2 (un f)
  | .vlog2 f => .vlog2 (un f)
  | .vbcast f => .vbcast { f with d := r 0 f.d }
  | .viota f => .viota { f with d := r 0 f.d }
  | .vcomp f => .vcomp { f with d := r 0 f.d, a := ra f.p f.a }
  | .vmovQ f => .vmovQ { f with a := r 1 f.a }
  | .vred f => .vred { f with d := r 0 f.d, a := ra f.p f.a }
  | .vscan f => .vscan { f with d := r 0 f.d, a := ra f.p f.a }
  | .vld f => .vld { f with d := r 0 f.d }
  | .vldLit f => .vldLit { f with d := r 0 f.d }
  | .vst f => .vst { f with d := r 0 f.d }
  | .vstLit f => .vstLit { f with d := r 0 f.d }
  | .vlds f => .vlds { f with d := r 0 f.d }
  | .vsts f => .vsts { f with d := r 0 f.d }
  | .vldx f => .vldx { f with d := r 0 f.d, b := r 2 f.b }
  | .vstx f => .vstx { f with d := r 0 f.d, b := r 2 f.b }
  | .vcvt f => .vcvt { f with d := r 0 f.d, a := r 1 f.a }
  | .vdec f => .vdec { f with d := r 0 f.d, a := r 1 f.a }
  | .venc f => .venc { f with d := r 0 f.d, a := r 1 f.a }
  | .vqnt f => .vqnt { f with d := r 0 f.d, a := r 1 f.a }
  | .vdqnt f => .vdqnt { f with d := r 0 f.d, a := r 1 f.a }
  | .mma f => .mma { f with t := t 0 f.t }
  | .mmat f => .mmat { f with t := t 0 f.t, s := t 2 f.s }
  | .tzero f => .tzero { f with t := t 0 f.t }
  | .tld f => .tld { f with t := t 0 f.t }
  | .tldT f => .tldT { f with t := t 0 f.t }
  | .tst f => .tst { f with t := t 0 f.t }
  | .tstn f => .tstn { f with t := t 0 f.t }
  | .trow f => .trow { f with t := t 0 f.t, b := r 2 f.b }
  | .pgbound f => .pgbound { f with b := r 2 f.b }
  | .pgpick f => .pgpick { f with b := r 2 f.b }
  | i => i

/-- Whether an instruction breaks R18 in no iteration: the fields repeat after 32 of them. -/
def staggerOk (i : Instr) (fm step count : Nat) : Bool :=
  (List.range (Nat.min count 32)).all fun k => (stagger i fm (k * step)).wellFormed

/-- The fields of an instruction that name ports, as FMASK bits. -/
def portFields (i : Instr) : Nat :=
  match i with
  | .vadd f | .vsub f | .vmul f | .vfma f | .vfms f | .vfnma f | .vdiv f | .vmin f | .vmax f => 4 * b2n f.p
  | .vand f | .vor f | .vxor f | .vperm f | .vdot4I8 f | .vdot4N8 f => 4 * b2n f.p
  | .vshl f | .vshr f | .vsar f => 4 * b2n f.p
  | .vcmp f => 4 * b2n f.p
  | .vsel f => 4 * b2n f.p
  | .vmov f | .vbcast f => 2 * b2n f.p
  | .vabs f | .vneg f | .vsqrt f | .vrcp f | .vrsq f | .vexp2 f | .vlog2 f => 2 * b2n f.p
  | .vcomp f => 2 * b2n f.p
  | .vred f => 2 * b2n f.p
  | .vscan f => 2 * b2n f.p
  | .vmovQ _ => 1
  | _ => 0

/-- The item an entry stands at. -/
def VEntry.item? (e : VEntry) : Option VItem := e.items[e.pos]?

/-- The instruction an item is in the entry's current iteration. -/
def VEntry.current (e : VEntry) (it : VItem) : Instr :=
  if e.replay && it.marked then stagger it.instr e.fmask (e.iter * e.stride) else it.instr

/-! ## Executing (R191, R216, R312) -/

/-- What a vector/matrix instruction's own part runs on: `x f r` is the operand of X register `r` in field `f`
(field 3: never staggered); `t` is the LO task, absent for a matrix command (R166); `word` its first 32 bits;
`pc` its place; `entry` the Waybill entry it took when passed; `xdead` and `pvs` the registers that it no longer shares
with the scalar stream (R192). -/
structure Vx where
  s : State
  c : Nat
  k : Core
  t : Option Task
  x : Nat → Reg → W
  sup : Bool
  word : W
  pc : Nat
  entry : Option Nat
  xdead : List Nat
  pvs : List (Nat × Nat)

/-- How such an instruction's own part ends: executed; waiting, for a port, a place or an answer; or a fault. -/
inductive VRet where
  | done (s : State)
  | wait (s : State)
  | trap (code : Nat) (v : W)

/-- A predicate of the LO task, as it stands in program order. -/
def Vx.pred (vx : Vx) (p : PReg) : W :=
  match vx.pvs.find? (·.1 == p.toNat) with
  | some e => vx.k.vu.pv.getD e.2 0
  | none =>
    match vx.t with
    | some t => t.pred p
    | none => if p = 0 then BitVec.allOnes 64 else 0

/-- Writes a predicate of the LO task, or the value that the queued instructions after it read. -/
def Vx.setPred (vx : Vx) (k : Core) (p : PReg) (v : W) : Core :=
  match vx.pvs.find? (·.1 == p.toNat) with
  | some e => { k with vu := { k.vu with pv := k.vu.pv.set e.2 v } }
  | none => k.setP false p v

/-- Writes an X register of the LO task, unless a later instruction has replaced it. -/
def Vx.setX (vx : Vx) (k : Core) (r : Reg) (v : W) : Core := if vx.xdead.contains r.toNat then k else k.setX false r v

/-- Whether bit `i` of the guard passes. -/
def Vx.passes (vx : Vx) (g : Guard) (i : Nat) : Bool := (vx.pred g.p).getLsbD i != g.sense

/-- Whether lane `i` is active (R22, R196). -/
def Vx.active (vx : Vx) (g : Guard) (i : Nat) : Bool := decide (i < vx.k.vu.vl) && vx.passes g i

/-- Whether the instruction is guarded off (R23): per lane, or as a whole. -/
def Vx.off (vx : Vx) (lanes : Bool) (g : Guard) : Bool :=
  if lanes then !(List.range 64).any (vx.active g) else !vx.passes g 0

/-- Ends the current position: the next one, the next iteration, or the next entry (R215). -/
def VecUnit.advance (u : VecUnit) : VecUnit :=
  let u := { u with wait := false, reply := none, failed := none }
  match u.viq with
  | [] => u
  | e :: r =>
    if e.pos + 1 < e.items.length then { u with viq := { e with pos := e.pos + 1 } :: r }
    else if e.replay && decide (e.iter + 1 < e.count) then { u with viq := { e with pos := 0, iter := e.iter + 1 } :: r }
    else { u with viq := r, pv := if r.isEmpty then [] else u.pv }

/-- SR.REPST of the stream at an entry, but for SPC (R216). -/
def VEntry.repst (e : VEntry) : W :=
  w64 (2 ^ 63 + (if e.replay then e.iter % 2 ^ 32 * 2 ^ 26 + e.pos % 16 * 2 ^ 22 else 0))

/-- A fault of the vector/matrix stream: it stops at the instruction and holds the fault (R312). -/
def VecUnit.faulted (u : VecUnit) (t : Trap) : VecUnit :=
  match u.viq with
  | [] => u
  | e :: _ =>
    { u with wait := false, reply := none, failed := none, stopped := true,
             fault := some { trap := t, pc := (e.item?.map (·.pc)).getD 0, repst := e.repst } }

/-- What the head instruction of core `c`'s stream runs on. -/
def vxAt (s : State) (c : Nat) (e : VEntry) (it : VItem) : Vx :=
  { s := s, c := c, k := s.core c, t := (s.core c).lo, x := fun f r => e.x it f r, sup := it.sup, word := it.word,
    pc := it.pc, entry := it.entry, xdead := it.xdead, pvs := it.pvs }

/-- The Waybill entry that an instruction of the stream took is freed, when it traps or is dropped (R225). -/
def Core.freeItem (k : Core) (it : VItem) : Core :=
  match it.entry with
  | some n => k.setWb n WbEntry.free
  | none => k

/-- Drops what waits in the stream. -/
def Core.dropStream (k : Core) : Core :=
  let k' := k.vu.viq.foldl (fun k e => (e.items.drop e.pos).foldl Core.freeItem k) k
  { k' with vu := { k'.vu with viq := [], pv := [], recording := none, fault := none, stopped := false, reply := none } }

/-- Executes the oldest instruction of a core's stream. A matrix command that waits goes before a second instruction
of the task (R166). -/
def vecRun (s : State) (c : Nat) (lanes : Bool) (g : Guard) (body : Vx → VRet) : State :=
  let u := (s.core c).vu
  if u.stopped || u.wait || (u.mxWait && !(s.core c).mxq.isEmpty) then s
  else
    match u.viq with
    | [] => s
    | e :: _ =>
      match e.item? with
      | none => s
      | some it =>
        let vx := vxAt s c e it
        let next := fun (s : State) => s.onCore c fun k =>
          { k with vu := { k.vu.advance with mxWait := !k.mxq.isEmpty } }
        let fault := fun (t : Trap) =>
          (s.onCore c fun k => { k.freeItem it with vu := k.vu.faulted t }).forgetWalks c whoVec
        match u.failed with
        | some t => fault t
        | none =>
          if vx.off lanes g then next s
          else
            match body vx with
            | .done s' => next s'
            | .wait s' => s'
            | .trap code v => fault ⟨code, v⟩

/-! ## Passing and recording (R191, R213, R214) -/

/-- What the scalar stream's check of an instruction answers: pass it, with the Waybill entry it took. -/
inductive VCheck where
  | ok
  | take (n : Nat) (s : State)
  | wait (s : State)
  | trap (code : Nat) (v : W)

/-- An instruction of the vector/matrix stream: its length, whether its guard is per lane, its guard, the X
registers it reads, and the check made when it is passed, if it has one. -/
structure VNeed where
  instr : Instr
  len : Nat
  lanes : Bool
  g : Guard
  xs : List Reg
  check : Option (Cx → VCheck)

/-- A vector/matrix instruction without a check. -/
def VNeed.plain (i : Instr) (lanes : Bool) (g : Guard) (xs : List Reg) : VNeed :=
  { instr := i, len := 2, lanes := lanes, g := g, xs := xs, check := none }

/-- Instructions in the queue: 32 fit (R191). -/
def VecUnit.queued (u : VecUnit) : Nat := (u.viq.map fun e => e.items.length).foldl (· + ·) 0

/-- The item that an instruction becomes: its X operands are captured (R191). -/
def Cx.item (cx : Cx) (n : VNeed) (marked : Bool) : VItem :=
  { instr := n.instr, word := cx.k.instrWord cx.t, caps := n.xs.map fun r => (r.toNat, cx.x r), sup := cx.t.sup,
    pc := cx.t.pc, marked := marked, entry := none, xdead := [], pvs := [] }

/-- Whether the scalar stream must wait for queued instructions that write what a need names. -/
def Cx.busy (cx : Cx) (n : Need) : Bool :=
  !cx.k.vu.stopped && cx.k.vu.viq.any fun e =>
    e.items.any fun it => n.waitsOn (it.use cx.k.lcl) it (e.replay && it.marked && e.stride != 0) (cx.k.bankLo.rmode == 4)

/-- Whether passing an instruction must wait for put-off accesses: of a load of X registers that it names, and, if it
touches memory, of a release store (R245, R252). -/
def Cx.waitsLate (cx : Cx) (i : Instr) (xs : List Reg) : Bool :=
  cx.t.late.any fun l => meets (xs ++ (vUse i).xw) l.regs || (l.store.isSome && touchesMemory i)

/-- Whether an instruction must wait until its X operands can be captured (R191, R192). -/
def Cx.operandsWait (cx : Cx) (n : VNeed) : Bool :=
  cx.busy (Need.plain n.len .always n.xs) || cx.waitsLate n.instr n.xs

/-- Changes the core's vector/matrix unit and moves the LO task past an instruction. -/
def Cx.passed (cx : Cx) (len : Nat) (f : VecUnit → VecUnit) : State :=
  cx.s.onCore cx.c fun k => { k with vu := f k.vu }.onTask false fun t => { t with pc := t.pc + len, stalled := false }

/-- Records an instruction (R214). -/
def Cx.recordItem (cx : Cx) (n : VNeed) (r : Recording) : State :=
  let bad := cx.trapTo (cx.s.onCore cx.c fun k => { k with vu := { k.vu with recording := none } }) cILLEGAL
    (cx.k.instrWord cx.t)
  let marked := r.pmask.testBit r.items.length
  if 16 ≤ r.items.length then bad
  else if marked && !staggerOk n.instr r.fmask r.stride r.count then bad
  else if cx.operandsWait n then cx.s
  else cx.passed n.len fun u => { u with recording := some { r with items := r.items ++ [cx.item n marked] } }

/-- Whether an instruction is known to be guarded off when it is passed: its guard predicate has its value, and no lane
passes, or none below SR.VL once that has its value too (R22, R23). -/
def Cx.knownOff (cx : Cx) (n : VNeed) : Bool :=
  let lane := fun i => (cx.p n.g.p).getLsbD i != n.g.sense
  !cx.busy (Need.plain n.len n.g []) &&
  (if n.lanes then
    !(List.range 64).any fun i => lane i && (decide (i < cx.k.vu.vl) || cx.busy { Need.plain n.len .always [] with readVl := true })
   else !lane 0)

/-- Passes an instruction to the vector/matrix stream. One that is known to be guarded off waits for nothing, and the
scalar stream goes on past it (R23). -/
def Cx.pass (cx : Cx) (n : VNeed) (run : State → State) : State :=
  let push := fun (s : State) (entry : Option Nat) =>
    if Config.viqSize ≤ cx.k.vu.queued then cx.s
    else
      let it := { cx.item n false with entry := entry }
      let e : VEntry := { items := [it], stride := 0, fmask := 0, count := 1, iter := 0, pos := 0, replay := false }
      let s := { cx with s := s }.passed n.len fun u => { u with viq := u.viq ++ [e] }
      if cx.lags || !cx.k.vu.viq.isEmpty then s else run s
  if cx.knownOff n then cx.passed n.len id
  else if cx.operandsWait n then cx.s
  else
    match n.check with
    | none => push cx.s none
    | some check =>
      if cx.busy { Need.plain n.len n.g [] with readVl := n.lanes } then cx.s
      else
        match check cx with
        | .ok => push cx.s none
        | .take n s => push s (some n)
        | .wait s => s
        | .trap code v => cx.trapTo cx.s code v

/-- The frame of a vector/matrix-stream instruction: passed by the scalar stream, or executed in the stream's own
turn. DESIGN CHOICE (assumption 75): in carried code R162's ILLEGAL comes before HIVEC. -/
def vector (n : VNeed) (body : Vx → VRet) (s : State) : Out :=
  match s.turn with
  | .vector c => .next (vecRun s c n.lanes n.g body)
  | _ =>
    let c := s.actor
    let k := s.core c
    match k.task? with
    | none => .next s
    | some t =>
      let s := s.issue c k.inHi
      let k := s.core c
      let cx : Cx := { s := s, c := c, k := k, t := t, hi := k.inHi }
      if t.carried then cx.trapOut s cILLEGAL (k.instrWord t)
      else if k.inHi then cx.trapOut s cHIVEC (k.instrWord t)
      else
        match k.vu.recording with
        | some r => if k.regs.inTrap then .next (cx.pass n fun s => vecRun s c n.lanes n.g body) else .next (cx.recordItem n r)
        | none => .next (cx.pass n fun s => vecRun s c n.lanes n.g body)

/-- REPB (R214): opens a recording. In a handler that keeps a recording it traps ILLEGAL. -/
def execRepb (f : RepbForm) (s : State) : Out :=
  scalar { Need.fence 4 f.g [f.a] with noHi := true, carried := false } (fun cx =>
    let n := cx.x f.a
    if 2 ^ 32 - 1 < n.toNat then .trap cILLEGAL n
    else if cx.k.vu.recording.isSome then .trap cILLEGAL (cx.k.instrWord cx.t)
    else
      let r : Recording := { items := [], stride := f.stride.toNat, fmask := f.fmask.toNat, pmask := f.pmask.toNat,
                             count := n.toNat, pc := cx.t.pc }
      .done (cx.s.onCore cx.c fun k => { k with vu := { k.vu with recording := some r } })) s

/-- REPE (R214, R215): closes the recording, whose instructions then replay. -/
def execRepe (s : State) : Out :=
  let c := s.actor
  let k := s.core c
  match k.task? with
  | none => .next s
  | some t =>
    let s := s.issue c k.inHi
    let k := s.core c
    let cx : Cx := { s := s, c := c, k := k, t := t, hi := k.inHi }
    let bad : Out := cx.trapOut s cILLEGAL (k.instrWord t)
    if t.carried then bad
    else if k.inHi then cx.trapOut s cHIVEC (k.instrWord t)
    else
      match if k.regs.inTrap then none else k.vu.recording with
      | none => .next (cx.passed 2 id)
      | some r =>
        if r.items.isEmpty || r.pmask / 2 ^ r.items.length != 0 then bad
        else if r.items.any fun it => it.marked && (portFields it.instr &&& r.fmask) != 0 then bad
        else if r.count = 0 then .next (cx.passed 2 fun u => { u with recording := none })
        else if Config.viqSize < k.vu.queued + r.items.length || r.items.any (fun it => cx.waitsLate it.instr []) then .next s
        else
          let e : VEntry :=
            { items := r.items, stride := r.stride, fmask := r.fmask, count := r.count, iter := 0, pos := 0, replay := true }
          .next (cx.passed 2 fun u => { u with recording := none, viq := u.viq ++ [e] })

end Sys2Proof.Machine
end

