-- ==== Sys2Proof/Machine/Vector.lean ====
section
/-! DEFINITION. The vector unit: lane arithmetic, logic, shifts, comparison, lane movement, reductions and scans
(R194–R209). -/

namespace Sys2Proof.Machine

/-! ## Types of lanes (R197) -/

/-- The format of a floating type. -/
def tySpec (t : Ty) : Option FSpec :=
  match t with
  | .f32 => some sF32
  | .f16 => some sF16
  | .bf16 => some sBF16
  | .i32 | .n32 | .i16 | .n16 => none

/-- Width of a type's value in its lane. -/
def tyBits (t : Ty) : Nat :=
  match t with
  | .f32 | .i32 | .n32 => 32
  | .f16 | .bf16 | .i16 | .n16 => 16

/-- Whether an integer type is signed. -/
def tySigned (t : Ty) : Bool :=
  match t with
  | .i32 | .i16 => true
  | .f32 | .f16 | .bf16 | .n32 | .n16 => false

/-- The value of an integer lane. -/
def tyInt (t : Ty) (x : Nat) : Int := if tySigned t then signed (tyBits t) (x % 2 ^ tyBits t) else (x % 2 ^ tyBits t : Nat)

/-- A two-operand lane operation: the floating one of the format, or the exact integer one, wrapped (R198). -/
def tyOp (t : Ty) (fl : FSpec → Nat → Nat → Nat) (int : Int → Int → Int) (a b : Nat) : Nat :=
  match tySpec t with
  | some f => fl f (a % 2 ^ tyBits t) (b % 2 ^ tyBits t)
  | none => wrap (tyBits t) (int (tyInt t a) (tyInt t b))

/-- Integer quotient of VDIV (R200): −1 stands for all ones. -/
def divInt (a b : Int) : Int := if b = 0 then -1 else Int.tdiv a b

/-- The sum of VADD, VRED.ADD and VSCAN.ADD. -/
def tyAdd (t : Ty) (rd : Rnd) (a b : Nat) : Nat := tyOp t (fun f => f.add rd) (· + ·) a b
/-- The minimum or maximum of R200. -/
def tyMinMax (t : Ty) (mx : Bool) (a b : Nat) : Nat :=
  tyOp t (fun f => f.minmax mx) (fun x y => if decide (x ≤ y) != mx then x else y) a b

/-! ## Sources (R194, R195) -/

/-- The lanes of a vector port source: Q0–Q3 or S0–S3. -/
def vectorPop (s : State) (c : Nat) (k : Core) (n : Nat) : Got Nat :=
  if n < 8 then
    match k.vu.queue n with
    | [] => .wait k
    | w :: r => .ok (ofLanes 32 (List.replicate 64 (w.bits 31 0))) { k with vu := k.vu.setQueue n r }
  else
    match streamRead s c k (n - 8) 256 2 with
    | .ok bytes k => .ok (leNat bytes) k
    | .wait k => .wait k
    | .trap code v => .trap code v

/-- Runs on a vector source: V register `r`, or a port. -/
def Vx.source (vx : Vx) (port : Bool) (r : Reg) (f : Nat → Core → VRet) : VRet :=
  if port then
    match vectorPop vx.s vx.c vx.k r.toNat with
    | .ok v k => f v k
    | .wait k => .wait (vx.s.setCore vx.c k)
    | .trap code v => .trap code v
  else f (vx.k.vu.reg r.toNat) vx.k

/-- Writes the active lanes of V[d], and advances STATE when the instruction rounds (R371). -/
def Vx.put (vx : Vx) (k : Core) (g : Guard) (d : Reg) (round : Bool) (f : Nat → Nat) : VRet :=
  let old := k.vu.reg d.toNat
  let v := ofLanes 32 ((List.range 64).map fun i => if vx.active g i then f i else lane 32 old i)
  .done (vx.s.setCore vx.c { k with vu := k.vu.setReg d.toNat v, bankLo := if round then k.bankLo.advance 64 else k.bankLo })

/-! ## Lane arithmetic (R199, R200) -/

/-- A two-operand operation of type `t` on lanes. -/
def vArith (i : Instr) (f : VForm) (round : Bool) (op : Rnd → Nat → Nat → Nat → Nat) (s : State) : Out :=
  vector (.plain i true f.g []) (fun vx => vx.source f.p f.b fun vb k =>
    let va := k.vu.reg f.a.toNat
    let vd := k.vu.reg f.d.toNat
    vx.put k f.g f.d round fun i => op (k.bankLo.rnd i) (lane 32 va i) (lane 32 vb i) (lane 32 vd i)) s

/-- VADD. -/
def execVadd (f : VForm) (s : State) : Out := vArith (.vadd f) f f.ty.isFloat (fun rd a b _ => tyAdd f.ty rd a b) s
/-- VSUB. -/
def execVsub (f : VForm) (s : State) : Out :=
  vArith (.vsub f) f f.ty.isFloat (fun rd a b _ => tyOp f.ty (fun x => x.sub rd) (· - ·) a b) s
/-- VMUL. -/
def execVmul (f : VForm) (s : State) : Out :=
  vArith (.vmul f) f f.ty.isFloat (fun rd a b _ => tyOp f.ty (fun x => x.mul rd) (· * ·) a b) s
/-- VDIV. -/
def execVdiv (f : VForm) (s : State) : Out :=
  vArith (.vdiv f) f f.ty.isFloat (fun rd a b _ => tyOp f.ty (fun x => x.div rd) divInt a b) s
/-- VMIN. -/
def execVmin (f : VForm) (s : State) : Out := vArith (.vmin f) f false (fun _ a b _ => tyMinMax f.ty false a b) s
/-- VMAX. -/
def execVmax (f : VForm) (s : State) : Out := vArith (.vmax f) f false (fun _ a b _ => tyMinMax f.ty true a b) s

/-- a × b + c with signs, in a floating type; the integer types do not occur (R199). -/
def tyFma (t : Ty) (rd : Rnd) (negP negC : Bool) (a b c : Nat) : Nat :=
  match tySpec t with
  | some f =>
    let v := fun (x : Nat) => f.decode (x % 2 ^ tyBits t)
    f.fma rd (if negP then (v a).neg else v a) (v b) (if negC then (v c).neg else v c)
  | none => 0

/-- VFMA. -/
def execVfma (f : VForm) (s : State) : Out := vArith (.vfma f) f true (fun rd a b d => tyFma f.ty rd false false a b d) s
/-- VFMS. -/
def execVfms (f : VForm) (s : State) : Out := vArith (.vfms f) f true (fun rd a b d => tyFma f.ty rd false true a b d) s
/-- VFNMA. -/
def execVfnma (f : VForm) (s : State) : Out := vArith (.vfnma f) f true (fun rd a b d => tyFma f.ty rd true false a b d) s

/-! ## Unary operations (R201, R202, R194) -/

/-- A unary operation on lanes: `op` gets the rounding and the operand. -/
def vUnary (i : Instr) (f : VUn) (round : Bool) (op : Rnd → Nat → Nat) (s : State) : Out :=
  vector (.plain i true f.g []) (fun vx => vx.source f.p f.a fun va k =>
    vx.put k f.g f.d round fun i => op (k.bankLo.rnd i) (lane 32 va i % 2 ^ tyBits f.ty)) s

/-- A floating unary operation; the integer types do not occur (R201). -/
def tyUn (t : Ty) (fl : FSpec → Nat → Nat) (a : Nat) : Nat :=
  match tySpec t with
  | some f => fl f a
  | none => 0

/-- VMOV Vd, Va. -/
def execVmov (f : VUn0) (s : State) : Out :=
  vector (.plain (.vmov f) true f.g []) (fun vx => vx.source f.p f.a fun va k =>
    vx.put k f.g f.d false fun i => lane 32 va i) s
/-- VABS. -/
def execVabs (f : VUn) (s : State) : Out :=
  vUnary (.vabs f) f false (fun _ a =>
    if f.ty.isFloat then a % 2 ^ (tyBits f.ty - 1) else (tyInt f.ty a).natAbs % 2 ^ tyBits f.ty) s
/-- VNEG. -/
def execVneg (f : VUn) (s : State) : Out :=
  vUnary (.vneg f) f false (fun _ a =>
    if f.ty.isFloat then a ^^^ 2 ^ (tyBits f.ty - 1) else wrap (tyBits f.ty) (-(tyInt f.ty a))) s
/-- VSQRT. -/
def execVsqrt (f : VUn) (s : State) : Out := vUnary (.vsqrt f) f true (fun rd a => tyUn f.ty (fun x => x.sqrt rd) a) s
/-- VRCP. -/
def execVrcp (f : VUn) (s : State) : Out :=
  vUnary (.vrcp f) f true (fun rd a => tyUn f.ty (fun x v => x.convert rd false (x.decode v).rcp) a) s
/-- VRSQ. -/
def execVrsq (f : VUn) (s : State) : Out :=
  vUnary (.vrsq f) f true (fun rd a => tyUn f.ty (fun x v => x.convert rd false (x.decode v).rsqrt) a) s
/-- VEXP2. -/
def execVexp2 (f : VUn) (s : State) : Out := vUnary (.vexp2 f) f true (fun rd a => tyUn f.ty (fun x => x.exp2 rd) a) s
/-- VLOG2. -/
def execVlog2 (f : VUn) (s : State) : Out := vUnary (.vlog2 f) f true (fun rd a => tyUn f.ty (fun x => x.log2 rd) a) s

/-- VBCAST (R195): X[a][31:0], a queue entry's [31:0], or bytes 0–3 of a stream element. -/
def execVbcast (f : VUn0) (s : State) : Out :=
  vector (.plain (.vbcast f) true f.g (if f.p then [] else [f.a])) (fun vx =>
    if f.p then vx.source true f.a fun v k => vx.put k f.g f.d false fun _ => lane 32 v 0
    else vx.put vx.k f.g f.d false fun _ => (vx.x 1 f.a).bits 31 0) s

/-- VIOTA. -/
def execViota (f : Rd) (s : State) : Out :=
  vector (.plain (.viota f) true f.g []) (fun vx => vx.put vx.k f.g f.d false fun i => i) s

/-- VLEN (R202). -/
def execVlen (f : R2) (s : State) : Out :=
  vector (.plain (.vlen f) true f.g [f.a]) (fun vx =>
    let n := Nat.min (vx.x 1 f.a).toNat 64
    .done (vx.s.onCore vx.c fun k => vx.setX { k with vu := { k.vu with vl := Nat.max n 1 } } f.d (w64 n))) s

/-- VMOV Qd, Va (R194). -/
def execVmovQ (f : VmovqForm) (s : State) : Out :=
  vector (.plain (.vmovQ f) true f.g []) (fun vx =>
    let n := 4 + f.q.toNat
    let q := vx.k.vu.queue n
    if Config.queueSize ≤ q.length then .wait vx.s
    else
      let va := vx.k.vu.reg f.a.toNat
      let part := fun i => if vx.active f.g i then lane 32 va i else 0
      .done (vx.s.onCore vx.c fun k => { k with vu := k.vu.setQueue n (q ++ [w64 (part 0 + part 1 * 2 ^ 32)]) })) s

/-! ## Logic and shifts (R203) -/

/-- An operation on whole lanes. -/
def vBits (i : Instr) (f : VBin) (op : Nat → Nat → Nat → Nat) (s : State) : Out :=
  vector (.plain i true f.g []) (fun vx => vx.source f.p f.b fun vb k =>
    let va := k.vu.reg f.a.toNat
    let vd := k.vu.reg f.d.toNat
    vx.put k f.g f.d false fun i => op (lane 32 va i) (lane 32 vb i) (lane 32 vd i)) s

/-- VAND. -/
def execVand (f : VBin) (s : State) : Out := vBits (.vand f) f (fun a b _ => a &&& b) s
/-- VOR. -/
def execVor (f : VBin) (s : State) : Out := vBits (.vor f) f (fun a b _ => a ||| b) s
/-- VXOR. -/
def execVxor (f : VBin) (s : State) : Out := vBits (.vxor f) f (fun a b _ => a ^^^ b) s

/-- A shift of 32- or 16-bit lanes. -/
def vShift (i : Instr) (f : VShForm) (op : Nat → Nat → Nat → Nat) (s : State) : Out :=
  let w := if f.half then 16 else 32
  vector (.plain i true f.g []) (fun vx => vx.source f.p f.b fun vb k =>
    let va := k.vu.reg f.a.toNat
    vx.put k f.g f.d false fun i => op w (lane 32 va i % 2 ^ w) (lane 32 vb i % 2 ^ w)) s

/-- VSHL. -/
def execVshl (f : VShForm) (s : State) : Out := vShift (.vshl f) f (fun w a n => if n < w then a * 2 ^ n % 2 ^ w else 0) s
/-- VSHR. -/
def execVshr (f : VShForm) (s : State) : Out := vShift (.vshr f) f (fun w a n => if n < w then a / 2 ^ n else 0) s
/-- VSAR. -/
def execVsar (f : VShForm) (s : State) : Out :=
  vShift (.vsar f) f (fun w a n => wrap w (signed w a / (2 ^ Nat.min n (w - 1) : Nat))) s

/-! ## Comparison and selection (R204, R205) -/

/-- VCMP. -/
def execVcmp (f : VcmpForm) (s : State) : Out :=
  vector (.plain (.vcmp f) true f.g []) (fun vx => vx.source f.p f.b fun vb k =>
    let va := k.vu.reg f.a.toNat
    let w := tyBits f.ty
    let holds := fun i =>
      let a := lane 32 va i % 2 ^ w
      let b := lane 32 vb i % 2 ^ w
      match tySpec f.ty with
      | some x => vcmpFloat f.cond (x.decode a) (x.decode b)
      | none => vcmpInt f.cond (tyInt f.ty a) (tyInt f.ty b)
    let old := (vx.pred f.pd).toNat
    let new := (List.range 64).foldl (fun m i =>
      if vx.active f.g i then (if holds i then maskSet m i else maskClear m (2 ^ i)) else m) old
    .done (vx.s.setCore vx.c (vx.setPred k f.pd (w64 new)))) s

/-- VSEL. -/
def execVsel (f : VselForm) (s : State) : Out :=
  vector (.plain (.vsel f) true f.g []) (fun vx => vx.source f.p f.b fun vb k =>
    let va := k.vu.reg f.a.toNat
    let c := vx.pred f.c
    vx.put k f.g f.d false fun i => if c.getLsbD i then lane 32 va i else lane 32 vb i) s

/-! ## Lane movement (R206, R207) -/

/-- VPERM. -/
def execVperm (f : VBin) (s : State) : Out :=
  vector (.plain (.vperm f) true f.g []) (fun vx => vx.source f.p f.b fun vb k =>
    let va := k.vu.reg f.a.toNat
    vx.put k f.g f.d false fun i => let j := lane 32 vb i; if j < 64 then lane 32 va j else 0) s

/-- VEXT. -/
def execVext (f : R3) (s : State) : Out :=
  vector (.plain (.vext f) true f.g [f.b]) (fun vx =>
    let j := (vx.x 2 f.b).toNat
    let v := if j < 64 then lane 32 (vx.k.vu.reg f.a.toNat) j else 0
    .done (vx.s.onCore vx.c fun k => vx.setX k f.d (w64 v))) s

/-- VINS. -/
def execVins (f : R3) (s : State) : Out :=
  vector (.plain (.vins f) true f.g [f.a, f.b]) (fun vx =>
    let j := (vx.x 2 f.b).toNat
    let old := vx.k.vu.reg f.d.toNat
    vx.put vx.k f.g f.d false fun i => if i = j then (vx.x 1 f.a).bits 31 0 else lane 32 old i) s

/-- The sum of four byte products and the lane, modulo 2^32. -/
def dot4 (val : Nat → Int) (a b d : Nat) : Nat :=
  wrap 32 ((List.range 4).foldl (fun z k => z + val (lane 8 a k) * val (lane 8 b k)) (d : Int))

/-- VDOT4.I8. -/
def execVdot4I8 (f : VBin) (s : State) : Out := vBits (.vdot4I8 f) f (dot4 (signed 8)) s
/-- VDOT4.N8. -/
def execVdot4N8 (f : VBin) (s : State) : Out := vBits (.vdot4N8 f) f (dot4 fun x => (x : Int)) s

/-- VCOMP. -/
def execVcomp (f : VcompForm) (s : State) : Out :=
  vector (.plain (.vcomp f) true f.g []) (fun vx => vx.source f.p f.a fun va k =>
    let c := vx.pred f.c
    let sel := ((List.range k.vu.vl).filter fun i => c.getLsbD i).map fun i => lane 32 va i
    vx.put k f.g f.d false fun j => (sel[j]?).getD 0) s

/-! ## Reductions and scans (R208, R209) -/

/-- Combines two lanes of which either may be absent. -/
def comb (op : Nat → Nat → Nat) (x y : Option Nat) : Option Nat :=
  match x, y with
  | some x, some y => some (op x y)
  | some x, none => some x
  | none, y => y

/-- The pairwise tree of R208: `op i` combines for output `i` of a level. -/
def redTree (op : Nat → Nat → Nat → Nat) : Nat → List (Option Nat) → Option Nat
  | 0, t => (t[0]?).join
  | n + 1, t => redTree op n ((List.range (t.length / 2)).map fun i => comb (op i) ((t[2 * i]?).join) ((t[2 * i + 1]?).join))

/-- The operation of a reduction on two lanes. -/
def redOp (t : Ty) (o : RedOp) (rd : Rnd) (a b : Nat) : Nat :=
  match o with
  | .add => tyAdd t rd a b
  | .min => tyMinMax t false a b
  | .max => tyMinMax t true a b
  | .and => a &&& b
  | .or => a ||| b
  | .xor => a ^^^ b

/-- The identity of a reduction. -/
def redIdentity (t : Ty) (o : RedOp) : Nat :=
  match o with
  | .add | .or | .xor => 0
  | .and => 2 ^ 32 - 1
  | .min => match tySpec t with
    | some f => f.infCode false
    | none => if tySigned t then 2 ^ (tyBits t - 1) - 1 else 2 ^ tyBits t - 1
  | .max => match tySpec t with
    | some f => f.infCode true
    | none => if tySigned t then 2 ^ (tyBits t - 1) else 0

/-- VRED (R208). -/
def execVred (f : VredForm) (s : State) : Out :=
  let round := f.op == .add && f.ty.isFloat
  vector (.plain (.vred f) true f.g []) (fun vx => vx.source f.p f.a fun va k =>
    let t := (List.range 64).map fun i => if vx.active f.g i then some (lane 32 va i % 2 ^ tyBits f.ty) else none
    let r := (redTree (fun i => redOp f.ty f.op (k.bankLo.rnd i)) 6 t).getD (redIdentity f.ty f.op)
    let old := k.vu.reg f.d.toNat
    .done (vx.s.setCore vx.c { k with
      vu := k.vu.setReg f.d.toNat (old / 2 ^ 32 * 2 ^ 32 + r),
      bankLo := if round then k.bankLo.advance 64 else k.bankLo })) s

/-- The inclusive prefixes of R209, from lane `i`. -/
def scanFrom (op : Nat → Nat → Nat → Nat) : Nat → Option Nat → List (Option Nat) → List (Option Nat)
  | _, _, [] => []
  | i, acc, none :: r => none :: scanFrom op (i + 1) acc r
  | i, acc, some x :: r =>
    let a := match acc with
      | none => x
      | some y => op i y x
    some a :: scanFrom op (i + 1) (some a) r

/-- VSCAN (R209). -/
def execVscan (f : VscanForm) (s : State) : Out :=
  let round := f.op == .add && f.ty.isFloat
  let o : RedOp := match f.op with
    | .add => .add
    | .min => .min
    | .max => .max
  vector (.plain (.vscan f) true f.g []) (fun vx => vx.source f.p f.a fun va k =>
    let t := (List.range 64).map fun i => if vx.active f.g i then some (lane 32 va i % 2 ^ tyBits f.ty) else none
    let r := scanFrom (fun i => redOp f.ty o (k.bankLo.rnd i)) 0 none t
    vx.put k f.g f.d round fun i => ((r[i]?).join).getD 0) s

end Sys2Proof.Machine
end

