-- ==== Sys2Proof/Machine/VecMem.lean ====
section
/-! DEFINITION. Vector memory (R210–R213), TBLLD and WINSET (R185–R187). -/

namespace Sys2Proof.Machine

/-! ## Elements of a window (R176, R211) -/

/-- A format whose elements a vector access moves as raw lanes. -/
def rawFmt (f : Option Fmt) : Bool :=
  match f with
  | none | some .f32 | some .i32 | some .n32 => true
  | some _ => false

/-- Element width of a window. -/
def Local.elemBits (l : Local) (w : Nat) : Nat := ((l.fmtOf w).map Fmt.width).getD 32

/-- The byte of element `e` of width `w` beyond the base. -/
def elemByte (w : Nat) (e : Int) : Int := e * w / 8

/-- Whole bytes an element touches. -/
def elemBytes (w : Nat) : Nat := Nat.max 1 (w / 8)

/-- The bits of element `e` of width `w` at scratchpad offset `off`. -/
def Local.rawElem (l : Local) (w off : Nat) (e : Int) : Nat :=
  let v := leNat (l.spad.readN off (elemBytes w))
  if w = 4 then (if e % 2 = 1 then v / 16 else v % 16) else v

/-- A loaded element as a lane (R211): raw, an extended integer, or a value in F32, rounded when scaled. -/
def laneOf (f : Fmt) (rd : Rnd) (v : FVal) (raw : Nat) : Nat :=
  match f with
  | .i8 | .i16 => wrap 32 (signed f.width raw)
  | .n8 | .n16 | .f32 | .i32 | .n32 => raw
  | .f16 | .bf16 | .e4m3 | .e5m2 | .e2m1 | .t8 | .q8r | .q4r => sF32.convert rd false v

/-- A lane as an element to store (R211). -/
def elemOf (f : Fmt) (t8 : Nat → Nat) (rd : Rnd) (x : Nat) : Nat :=
  match f with
  | .i8 | .i16 => f.convert t8 rd false (.ofInt (signed 32 x))
  | .n8 | .n16 => f.convert t8 rd false (.ofInt (x : Nat))
  | .f32 | .i32 | .n32 => x
  | .f16 | .bf16 | .e4m3 | .e5m2 | .e2m1 | .t8 | .q8r | .q4r => f.convert t8 rd false (sF32.decode x)

/-! ## One arrival of scattered nibbles (R152) -/

/-- Writes nibbles (address in nibbles, value) in order, as one arrival: an 8-byte word that they cover clears its
poison, and a poisoned word that they do not cover is left. -/
def Local.writeNibbles (l : Local) (ns : List (Nat × Nat)) : Local :=
  (ns.map fun e => e.1 / 16).eraseDups.foldl (fun l w =>
    let mine := ns.filter fun e => e.1 / 16 == w
    let whole := (mine.map (·.1)).eraseDups.length == 16
    if Tbl.getD l.poison w false && !whole then l
    else
      let spad := mine.foldl (fun m e =>
        let old := (m.read (e.1 / 2)).toNat
        m.write (e.1 / 2) (BitVec.ofNat 8 (if e.1 % 2 = 0 then old / 16 * 16 + e.2 else e.2 * 16 + old % 16))) l.spad
      { l with spad := spad, poison := if whole then Tbl.put false l.poison w false else l.poison }) l

/-- The nibbles of an element of width `w` at offset `off`, element number `e`. -/
def elemNibbles (w off : Nat) (e : Int) (v : Nat) : List (Nat × Nat) :=
  if w = 4 then [(2 * off + (if e % 2 = 1 then 1 else 0), v % 16)]
  else (List.range (w / 4)).map fun i => (2 * off + i, lane 4 v i)

/-! ## Checks (R213) -/

/-- What a vector access reaches, checked: its window and base offset, or the physical address of each lane. -/
inductive VAcc where
  | own (w off : Nat)
  | glob (pas : List Nat)
  | wait (s : State)
  | trap (code : Nat) (v : W)
  deriving DecidableEq, Repr

/-- The lanes' translations, in lane order. -/
def vecTranslate (s : State) (c who : Nat) (sup write : Bool) : List Nat → VAcc
  | [] => .glob []
  | a :: r =>
    match translate s c who sup write a with
    | .trap code => .trap code (w64 a)
    | .wait s =>
      match vecTranslate s c who sup write r with
      | .trap code v => .trap code v
      | .wait s => .wait s
      | _ => .wait s
    | .ok pa =>
      match vecTranslate s c who sup write r with
      | .glob pas => .glob (pa :: pas)
      | x => x

/-- The checks of R213 for lanes 0 … vl−1; `stride` is none for VLDX and VSTX, which check the base alone. -/
def vecCheck (s : State) (c who : Nat) (sup : Bool) (vl : Nat) (b : W) (stride : Option Int) (write : Bool) : VAcc :=
  let l := (s.core c).lcl
  match decodeAddr c sup b.toNat 0 with
  | .error code => .trap code b
  | .ok (.peer _ _) | .ok (.config _ _ _) => .trap cADDR b
  | .ok (.global _) =>
    match stride with
    | none => .trap cADDR b
    | some st =>
      if b.toNat % 4 ≠ 0 then .trap cALIGN b
      else
        let as := (List.range vl).map fun (i : Nat) => (b.toNat : Int) + (i : Int) * st * 4
        match as.find? fun (a : Int) => decide (a < 0) || decide (((2 ^ 56 : Nat) : Int) < a + 4) with
        | some a => .trap cADDR (BitVec.ofInt 64 a)
        | none => vecTranslate s c who sup write (as.map Int.toNat)
  | .ok (.loc core w off) =>
    if core ≠ c then .trap cADDR b
    else
      match l.windowCheck .vector sup w off 1 with
      | some code => .trap code b
      | none =>
        let bits := l.elemBits w
        if write && l.scaled w then .trap cWINDOW b
        else if 8 ≤ bits ∧ b.toNat % (bits / 8) ≠ 0 then .trap cALIGN b
        else
          match stride with
          | none => .own w off
          | some st =>
            let one := fun (i : Nat) =>
              let a := (b.toNat : Int) + elemByte bits (i * st)
              if a < 0 ∨ (2 ^ 64 : Nat) ≤ a then some (cADDR, b)
              else
                match decodeAddr c sup a.toNat (elemBytes bits) with
                | .error code => some (code, w64 a.toNat)
                | .ok (.loc core' w' off') =>
                  if core' ≠ c ∨ w' ≠ w then some (cWINDOW, w64 a.toNat)
                  else (l.windowCheck .vector sup w off' (elemBytes bits)).map fun code => (code, w64 a.toNat)
                | .ok _ => some (cADDR, w64 a.toNat)
            match (List.range vl).findSome? one with
            | some (code, v) => .trap code v
            | none => .own w off

/-- The check of the scalar stream. -/
def passCheck (b : Cx → W) (stride : Cx → Int) (indexed write : Bool) (cx : Cx) : VCheck :=
  match vecCheck cx.s cx.c (whoOf false) cx.t.sup cx.k.vu.vl (b cx) (if indexed then none else some (stride cx)) write with
  | .own _ _ | .glob _ => .ok
  | .wait s => .wait s
  | .trap code v => .trap code v

/-- Whether an access of the stream must wait for the task's earlier accesses to the same bytes: the core's own posted
stores, and accesses that are put off (R193, R245). -/
def Vx.mustWait (vx : Vx) (spans : List Span) : Bool :=
  vx.t.any fun t =>
    (vx.s.net ++ vx.s.held).any (fun p => (packetSpans vx.c false p).any fun a => spans.any a.meets) ||
    t.late.any fun l => !l.pas.isEmpty && spans.any (Span.meets ⟨true, l.va, l.va + l.n⟩)

/-- An access of the stream at its core's own port: it waits for those, and for an arrival whose turn it is (R358). -/
def Vx.ownPort (vx : Vx) (spans : List Span) (f : Vx → VRet) : VRet :=
  if vx.mustWait spans || vx.s.portOwes vx.c then .wait vx.s
  else f { vx with s := vx.s.ownAccess vx.c, k := (vx.s.ownAccess vx.c).core vx.c }

/-! ## Loads -/

/-- The global words of the active lanes, lane by lane; answers already here are kept in the unit (R212). -/
def Vx.globalLoad (vx : Vx) (g : Guard) (va : Nat → Nat) (pas : List Nat) : Except (Nat × W) (State × List (List Byte)) :=
  let got := vx.k.vu.reply.getD (List.replicate 64 [])
  (List.range 64).foldl (fun acc i =>
    match acc with
    | .error e => .error e
    | .ok (s, got) =>
      if !vx.active g i || !(got.getD i []).isEmpty || vx.mustWait [⟨true, va i, va i + 4⟩] then .ok (s, got)
      else
        let pa := pas.getD i 0
        match s.loadGlobal vx.c (rangeFrom pa 4) with
        | .ok bytes s => .ok (s, setAt got i bytes)
        | .wait s => .ok (s, got)
        | .poison j => .error (cPOISON, w64 (va i + j))) (.ok (vx.s, got))

/-- A vector load: B, the element of each lane, and the stride when lanes are checked. -/
def Vx.load (vx : Vx) (g : Guard) (d : Reg) (b : W) (elem : Nat → Int) (stride : Option Int) : VRet :=
  match vecCheck vx.s vx.c whoVec vx.sup vx.k.vu.vl b stride false with
  | .trap code v => .trap code v
  | .wait s => .wait s
  | .glob pas =>
    match vx.globalLoad g (fun i => ((b.toNat : Int) + elem i * 4).toNat) pas with
    | .error (code, v) => .trap code v
    | .ok (s, got) =>
      let vx := { vx with s := s }
      if (List.range 64).all fun i => !vx.active g i || !(got.getD i []).isEmpty then
        vx.put (s.core vx.c) g d false fun i => leNat (got.getD i [])
      else .wait (s.onCore vx.c fun k => { k with vu := { k.vu with reply := some got } })
  | .own w off =>
    let l := vx.k.lcl
    let bits := l.elemBits w
    let n := elemBytes bits
    let at_ := fun i => (off : Int) + elemByte bits (elem i)
    let inside := fun i => decide (0 ≤ at_ i) && decide (at_ i + n ≤ (Config.spadSize : Nat))
    let lanes := (List.range 64).filter fun i => vx.active g i && inside i
    let scaleAt := fun i => l.scaleOffset w (at_ i).toNat
    let badScale := lanes.find? fun i => l.scaled w && (match scaleAt i with
      | some o => decide (Config.spadSize ≤ o)
      | none => true)
    let badByte := lanes.findSome? fun i =>
      match l.firstPoison (at_ i).toNat n with
      | some o => some o
      | none => (scaleAt i).bind fun o => l.firstPoison o 1
    let spans := lanes.flatMap fun i => ⟨false, at_ i, at_ i + n⟩ :: (match scaleAt i with
      | some o => [⟨false, o, o + 1⟩]
      | none => [])
    vx.ownPort spans fun vx =>
      match badScale, badByte with
      | some i, _ => .trap cWINDOW (BitVec.ofInt 64 ((b.toNat : Int) + elemByte bits (elem i)))
      | none, some o => .trap cPOISON (b - w64 off + w64 o)
      | none, none =>
        vx.put vx.k g d (l.scaled w) fun i =>
          if !inside i then 0
          else
            let raw := l.rawElem bits (at_ i).toNat (elem i)
            match l.fmtOf w, l.element w (at_ i).toNat raw with
            | some f, .ok v => laneOf f (vx.k.bankLo.rnd i) v raw
            | _, _ => raw

/-! ## Stores -/

/-- A vector store. -/
def Vx.store (vx : Vx) (g : Guard) (d : Reg) (b : W) (elem : Nat → Int) (stride : Option Int) : VRet :=
  let vd := vx.k.vu.reg d.toNat
  match vecCheck vx.s vx.c whoVec vx.sup vx.k.vu.vl b stride true with
  | .trap code v => .trap code v
  | .wait s => .wait s
  | .glob pas =>
    let first := ((vx.k.vu.reply.map List.length).getD 0)
    let r := (List.range 64).foldl (fun (acc : State × Option Nat) i =>
      match acc with
      | (s, some j) => (s, some j)
      | (s, none) =>
        if i < first || !vx.active g i then (s, none)
        else
          let va := ((b.toNat : Int) + elem i * 4).toNat
          match if vx.mustWait [⟨true, va, va + 4⟩] then (false, s)
              else s.storeGlobal vx.c va ((rangeFrom (pas.getD i 0) 4).zip (leBytes 4 (lane 32 vd i))) with
          | (true, s) => (s, none)
          | (false, s) => (s, some i)) (vx.s, none)
    match r with
    | (s, none) => .done s
    | (s, some j) => .wait (s.onCore vx.c fun k => { k with vu := { k.vu with reply := some (List.replicate j []) } })
  | .own w off =>
    let l := vx.k.lcl
    let bits := l.elemBits w
    let n := elemBytes bits
    let at_ := fun i => (off : Int) + elemByte bits (elem i)
    let lanes := (List.range 64).filter fun i =>
      vx.active g i && decide (0 ≤ at_ i) && decide (at_ i + n ≤ (Config.spadSize : Nat))
    vx.ownPort (lanes.map fun i => ⟨false, at_ i, at_ i + n⟩) fun vx =>
      let ns := lanes.flatMap fun i =>
        let v := match l.fmtOf w with
          | some f => elemOf f l.t8 (vx.k.bankLo.rnd i) (lane 32 vd i)
          | none => lane 32 vd i
        elemNibbles bits (at_ i).toNat (elem i) v
      .done (vx.s.onCore vx.c fun k =>
        { k with lcl := k.lcl.writeNibbles ns,
                 bankLo := if roundingFmt (l.fmtOf w) then k.bankLo.advance 64 else k.bankLo })

/-! ## The instructions -/

/-- A vector memory instruction: its B in the scalar stream and in its own, and its element stride. -/
def vecMem (i : Instr) (len : Nat) (g : Guard) (xs : List Reg) (write : Bool) (d : Reg) (b : (Nat → Reg → W) → W)
    (st : (Nat → Reg → W) → Int) (s : State) : Out :=
  vector { instr := i, len := len, lanes := true, g := g, xs := xs,
           check := some (passCheck (fun cx => b fun _ r => cx.x r) (fun cx => st fun _ r => cx.x r) false write) }
    (fun vx =>
      let n := st vx.x
      let elem := fun (i : Nat) => (i : Int) * n
      if write then vx.store g d (b vx.x) elem (some n) else vx.load g d (b vx.x) elem (some n)) s

/-- VLD (R211). -/
def execVld (f : DispForm) (s : State) : Out :=
  vecMem (.vld f) 2 f.g [f.a] false f.d (fun x => x 1 f.a + w64 (f.disp.toNat * 256)) (fun _ => 1) s
/-- VLD with a literal displacement. -/
def execVldLit (f : R2Lit) (s : State) : Out :=
  vecMem (.vldLit f) 4 f.g [f.a] false f.d (fun x => x 1 f.a + litVal f.lit) (fun _ => 1) s
/-- VST. -/
def execVst (f : DispForm) (s : State) : Out :=
  vecMem (.vst f) 2 f.g [f.a] true f.d (fun x => x 1 f.a + w64 (f.disp.toNat * 256)) (fun _ => 1) s
/-- VST with a literal displacement. -/
def execVstLit (f : R2Lit) (s : State) : Out :=
  vecMem (.vstLit f) 4 f.g [f.a] true f.d (fun x => x 1 f.a + litVal f.lit) (fun _ => 1) s
/-- VLDS. -/
def execVlds (f : R3) (s : State) : Out :=
  vecMem (.vlds f) 2 f.g [f.a, f.b] false f.d (fun x => x 1 f.a) (fun x => (x 2 f.b).toInt) s
/-- VSTS. -/
def execVsts (f : R3) (s : State) : Out :=
  vecMem (.vsts f) 2 f.g [f.a, f.b] true f.d (fun x => x 1 f.a) (fun x => (x 2 f.b).toInt) s

/-- VLDX and VSTX: lane i's element is the signed lane i of Vb. -/
def vecIndexed (i : Instr) (f : R3) (write : Bool) (s : State) : Out :=
  vector { instr := i, len := 2, lanes := true, g := f.g, xs := [f.a],
           check := some (passCheck (fun cx => cx.x f.a) (fun _ => 0) true write) }
    (fun vx =>
      let vb := vx.k.vu.reg f.b.toNat
      let elem := fun (i : Nat) => signed 32 (lane 32 vb i)
      if write then vx.store f.g f.d (vx.x 1 f.a) elem none else vx.load f.g f.d (vx.x 1 f.a) elem none) s

/-- VLDX. -/
def execVldx (f : R3) (s : State) : Out := vecIndexed (.vldx f) f false s
/-- VSTX. -/
def execVstx (f : R3) (s : State) : Out := vecIndexed (.vstx f) f true s

/-! ## TBLLD and WINSET (R185–R187): the scalar stream, after what the other stream was given -/

/-- The vector/matrix stream still owes instructions that use the old table or binding (R187). -/
def Cx.streamOwes (cx : Cx) : Bool := !cx.hi && !cx.k.vu.stopped && !cx.k.vu.viq.isEmpty

/-- TBLLD. -/
def execTblld (f : Ra) (s : State) : Out :=
  scalar { Need.stores 2 f.g [f.a] with carried := false, pass := false, rel := false } (fun cx =>
    let a := cx.x f.a
    match ownParts cx.c cx.t.sup a.toNat with
    | .error code => .trap code a
    | .ok (w, off) =>
      if 12 < w ∨ !cx.k.lcl.configured w then .trap cWINDOW a
      else if a.toNat % 64 ≠ 0 then .trap cALIGN a
      else if Config.spadSize < off + 1024 then .trap cWINDOW a
      else if cx.streamOwes then .stay cx.s
      else
        cx.ownPort (cx.span a.toNat 1024) fun cx =>
          match cx.k.lcl.load 0 off 1024 with
          | none => .trap cPOISON (byteVa a ((cx.k.lcl.firstPoison off 1024).getD off - off))
          | some bytes =>
            let word := fun k => leNat ((bytes.drop (4 * k)).take 4) / 2 ^ 13 * 2 ^ 13
            let table := (List.range 256).foldl (fun t k => Tbl.put 0 t k (BitVec.ofNat 32 (word k))) []
            .done (cx.s.onCore cx.c fun k => { k with lcl := { k.lcl with table := table } })) s

/-- Whether a window descriptor may be bound (R176). -/
def windowOk (d t : W) : Bool :=
  let fmt := d.bits 47 44
  let bsp := d.bits 43 42
  if d.getLsbD 63 then
    d.bits 62 48 == 0 && decide (fmt ≤ 12) && decide (bsp ≤ 1) && d.bits 41 36 == 0 && t.bits 63 32 == 0 &&
    (t.bits 30 23 != 255) &&
    (if bsp = 0 then d.bits 35 18 == 0 && d.bits 17 0 == 0
     else decide (3 ≤ fmt) && decide (fmt ≤ 5) && decide (d.bits 35 18 < Config.spadSize) &&
       decide (d.bits 17 0 < Config.spadSize) && d.bits 17 0 % 64 == 0)
  else d == 0 && t == 0

/-- WINSET: the stream's queue, and stores that the task posted to its own scratchpad, use the old binding (R187). -/
def execWinset (f : Rba) (s : State) : Out :=
  scalar { Need.stores 2 f.g [f.a, f.b, f.b + 1] with carried := false, pass := false, rel := false } (fun cx =>
    let w := cx.x f.a
    let d := cx.x f.b
    let t := cx.x (f.b + 1)
    if w.toNat = 0 ∨ 12 < w.toNat then .trap cILLEGAL w
    else if !windowOk d t then .trap cILLEGAL d
    else if cx.streamOwes || cx.ownPosted then .stay cx.s
    else .done (cx.s.onCore cx.c fun k =>
      { k with lcl := { k.lcl with win := Tbl.put 0 k.lcl.win w.toNat d, tscale := Tbl.put 0 k.lcl.tscale w.toNat t } })) s

end Sys2Proof.Machine
end

