-- ==== Sys2Proof/Machine/Matrix.lean ====
section
/-! DEFINITION. The matrix unit: operand tiles, multiplication, tile loads and stores, the operand latch and its
ring, and the accesses of tiles at homes and owners (R217–R237). -/

namespace Sys2Proof.Machine

/-! ## Addresses of tiles (R222, R230) -/

/-- What an address names, its offset aside, which later checks look at. DEDUCED (assumption 85): region 0xF traps PRIV in
user mode before an instruction's own address rule (R11, R47). -/
def tilePlace (c : Nat) (sup : Bool) (a : W) : Except Nat Place :=
  let r := a.bits 63 60
  decodeAddr c sup (if r = 8 ∨ r = 9 then a.toNat / 2 ^ 18 * 2 ^ 18 else a.toNat) 0

/-- The window and offset of an own-scratchpad address, or the trap of any other. -/
def ownPlace (c : Nat) (sup : Bool) (a : W) : Except (Nat × W) (Nat × Nat) :=
  match ownParts c sup a.toNat with
  | .ok p => .ok p
  | .error code => .error (code, a)

/-- The formats that CLLD and MMA read (R230). -/
def latchFmt (f : Option Fmt) : Bool :=
  match f with
  | some .f16 | some .bf16 | some .e4m3 | some .e5m2 | some .e2m1 | some .t8 | some .i8 | some .n8 => true
  | _ => false

/-- The checks of CLLD and of MMA's address (R230): window and offset. -/
def operandCheck (c : Nat) (sup : Bool) (l : Local) (a : W) : Except (Nat × W) (Nat × Nat) :=
  match ownPlace c sup a with
  | .error e => .error e
  | .ok (w, off) =>
    if w = 0 ∨ 12 < w ∨ !l.configured w ∨ !latchFmt (l.fmtOf w) then .error (cWINDOW, a)
    else if a.toNat % 64 ≠ 0 then .error (cALIGN, a)
    else if Config.spadSize < off + 2048 then .error (cWINDOW, a)
    else .ok (w, off)

/-- The offsets of the scale bytes of an operand tile: row r, block j at index 4r + j; none where there is no
block or no scale (R177, R218, R230). -/
def Local.tileScales (l : Local) (w off : Nat) : List (Option (Option Nat)) :=
  let width := ((l.fmtOf w).map Fmt.width).getD 32
  (List.range 128).map fun i =>
    if l.scaled w && decide (i % 4 < 16 / width) then
      some ((l.scaleOffset w (off + 64 * (i / 4) + 4 * width * (i % 4))).filter (· < Config.spadSize))
    else none

/-- The bytes that reading an operand tile touches. -/
def Local.operandSpans (l : Local) (w off : Nat) : List Span :=
  ⟨false, off, off + 2048⟩ :: (l.tileScales w off).filterMap fun s => (s.bind id).map fun o => ⟨false, o, o + 1⟩

/-- An address of window form at another offset. -/
def atOffset (a : W) (off o : Nat) : W := a - w64 off + w64 o

/-- Reads an operand tile with its scale bytes in one arrival (R230, R234). -/
def Local.operand (l : Local) (a : W) (w off : Nat) : Except (Nat × W) LatchTile :=
  let ss := l.tileScales w off
  if ss.any (· == some none) then .error (cWINDOW, a)
  else
    let bad := match l.firstPoison off 2048 with
      | some o => some o
      | none => ss.findSome? fun (s : Option (Option Nat)) => (s.bind id).bind fun o => l.firstPoison o 1
    match bad with
    | some o => .error (cPOISON, atOffset a off o)
    | none =>
      .ok { bytes := BitVec.ofNat 16384 (l.spad.num off 2048), fmt := (l.fmtOf w).getD .f32,
            scales := ss.map fun s => match s.bind id with | some o => l.spad.read o | none => 127#8,
            tscale := l.tscaleOf w }

/-- Element k of row r of an operand tile, scaled (R218, R234). -/
def LatchTile.elem (x : LatchTile) (t8 : Nat → Nat) (r k : Nat) : FVal :=
  let w := x.fmt.width
  let s := (x.scales.getD (4 * r + k / 32) 127).toNat
  (x.fmt.value t8 (lane w x.bytes.toNat (512 / w * r + k))).mul (if s = 255 then .nan else .ex false 1 ((s : Int) - 127))

/-- One element of T + A × B: the exact sum, rounded once with RNE; NaN, infinities and the sign of an exact zero
follow the exact operations (R234). -/
def mmaCell (acc : Nat) (depth : Nat) (a b : Nat → FVal) : Nat :=
  sF32.convert rne false ((List.range depth).foldl (fun s k => s.add 0 ((a k).mul (b k))) (sF32.decode acc))

/-- A tile as a number, from its elements. -/
def tileOf (f : Nat → Nat → Nat) : Nat := ofLanes 32 ((List.range 1024).map fun e => f (e / 32) (e % 32))

/-- Element (m, n) of a tile register. -/
def VecUnit.cell (u : VecUnit) (t : Nat) (m n : Nat) : Nat := lane 32 (u.tile t) (32 * m + n)

/-- T[t] + A × B with A given by its elements (R234, R235). -/
def VecUnit.mma (u : VecUnit) (t : Nat) (depth : Nat) (t8 : Nat → Nat) (a : Nat → Nat → FVal) (b : LatchTile) : VecUnit :=
  u.setTile t (tileOf fun m n => mmaCell (u.cell t m n) depth (a m) (b.elem t8 n))

/-- MMA (R234). -/
def mmaBody (td : PReg) (a : W) (vx : Vx) : VRet :=
  let l := vx.k.lcl
  match operandCheck vx.c vx.sup l a with
  | .error (code, v) => .trap code v
  | .ok (w, off) =>
    match vx.k.vu.cur with
    | none => .trap cILLEGAL vx.word
    | some cur =>
      if ((l.fmtOf w).map Fmt.width).getD 0 ≠ cur.fmt.width then .trap cILLEGAL a
      else vx.ownPort (l.operandSpans w off) fun vx =>
        match l.operand a w off with
        | .error (code, v) => .trap code v
        | .ok x =>
          let u := vx.k.vu.mma td.toNat (512 / cur.fmt.width) l.t8 (x.elem l.t8) cur
          .done (vx.s.setCore vx.c { vx.k with vu := u.setScales td.toNat x.tscale cur.tscale })

/-- MMAT (R235). -/
def mmatBody (td ts : PReg) (vx : Vx) : VRet :=
  let u := vx.k.vu
  match u.cur with
  | none => .trap cILLEGAL vx.word
  | some cur =>
    if cur.fmt.width ≠ 16 then .trap cILLEGAL vx.word
    else
      let u' := u.mma td.toNat 32 vx.k.lcl.t8 (fun m k => sF32.decode (u.cell ts.toNat m k)) cur
      .done (vx.s.setCore vx.c { vx.k with vu := u'.setScales td.toNat f32One cur.tscale })

/-- TZERO (R236). -/
def tzeroBody (td : PReg) (vx : Vx) : VRet :=
  .done (vx.s.setCore vx.c { vx.k with vu := (vx.k.vu.setTile td.toNat 0).setScales td.toNat f32One f32One })

/-- CLLD (R230). -/
def clldBody (a : W) (vx : Vx) : VRet :=
  let l := vx.k.lcl
  match operandCheck vx.c vx.sup l a with
  | .error (code, v) => .trap code v
  | .ok (w, off) =>
    vx.ownPort (l.operandSpans w off) fun vx =>
      match l.operand a w off with
      | .error (code, v) => .trap code v
      | .ok x => .done (vx.s.setCore vx.c { vx.k with vu := { vx.k.vu with cur := some x } })

/-- CLWAIT (R232). -/
def clwaitBody (vx : Vx) : VRet :=
  match vx.k.vu.inc with
  | none => .wait vx.s
  | some (from_, x) =>
    .done ((vx.s.setCore vx.c { vx.k with vu := { vx.k.vu with cur := some x, inc := none } }).send
      (.core vx.c) (.core from_) .request .credit)

/-! ## The shape word (R221) -/

/-- A shape word's fields. -/
structure Shape where
  kph : Nat
  lsrc : Bool
  fmt : Fmt
  pitch : Nat
  deriving DecidableEq, Repr

/-- The format of an FMT code (R221). -/
def shapeFmt (n : Nat) : Option Fmt :=
  match n with
  | 0 => some .f32 | 1 => some .f16 | 2 => some .bf16 | 3 => some .e4m3 | 4 => some .e5m2 | 5 => some .e2m1
  | 6 => some .t8
  | _ => none

/-- Which of the four tile instructions. -/
inductive TileKind where
  | tld (tr : Bool)
  | tst
  | tstn
  deriving DecidableEq, Repr

/-- Whether a tile instruction stores. -/
def TileKind.stores (k : TileKind) : Bool :=
  match k with
  | .tld _ => false
  | .tst | .tstn => true

/-- The checks of R221 on a shape word, for the region of X[a], field b and td. -/
def shapeOf (k : TileKind) (s : W) (region : Nat) (b : Reg) (td : PReg) : Option Shape :=
  match shapeFmt (s.bits 27 24) with
  | none => none
  | some f =>
    let x : Shape := { kph := s.bits 63 32, lsrc := s.getLsbD 31, fmt := f, pitch := s.bits 23 0 }
    if s.bits 30 28 ≠ 0 ∨ x.pitch % 16 ≠ 0 then none
    else if x.kph ≠ 0 ∧ !(k.stores ∧ region = 0) then none
    else if x.lsrc ∧ (k ≠ .tst ∨ b.toNat % 2 ≠ 0 ∨ td ≠ 0) then none
    else if (region = 8 ∨ region = 9) ∧ f ≠ .f32 ∧ !x.lsrc then none
    else some x

/-- Row distance of a tile: PITCH or 4w. -/
def Shape.step (x : Shape) (width : Nat) : Nat := if x.pitch = 0 then 4 * width else x.pitch

/-! ## Where a tile lies (R222) -/

/-- A checked tile: the own scratchpad, another core's, or global memory; with its format and row distance. -/
inductive TileAt where
  | own (w off : Nat) (f : Fmt) (step : Nat)
  | far (core : Nat)
  | glob (va : Nat) (f : Fmt) (step : Nat)
  deriving DecidableEq, Repr

/-- The format of a window that tile instructions may use. -/
def Local.tileFmt (l : Local) (w : Nat) : Option Fmt :=
  if w = 0 then some .f32
  else if 12 < w ∨ !l.configured w then none
  else
    match l.fmtOf w with
    | some .f32 => some .f32 | some .f16 => some .f16 | some .bf16 => some .bf16 | some .e4m3 => some .e4m3
    | some .e5m2 => some .e5m2 | some .e2m1 => some .e2m1 | some .t8 => some .t8
    | _ => none

/-- Element width for the extent of a tile in window `win` (R222). DESIGN CHOICE (assumption 87): a window without a format
counts as raw 32-bit words, which decides only between ADDR and WINDOW. -/
def Local.extentBits (l : Local) (x : Shape) (win : Nat) : Nat :=
  if x.lsrc then x.fmt.width
  else if win ≤ 12 ∧ l.configured win then ((l.fmtOf win).map Fmt.width).getD 32
  else 32

/-- The rows of a tile at an offset leave their region, or the offset limit of every window (R222, R11). -/
def extentCheck (x : Shape) (width off : Nat) : Option Nat :=
  let last := off + 31 * x.step width + 4 * width
  if 2 ^ 18 < last then some cADDR else if Config.spadSize < last then some cWINDOW else none

/-- The checks of R222 before translation. Of a tile in another core's scratchpad the issuer knows that a row holds 16 bytes
or more. -/
def tileCheck (c : Nat) (sup : Bool) (l : Local) (k : TileKind) (a : W) (sw : W) (x : Shape) : Except (Nat × W) TileAt :=
  match tilePlace c sup a with
  | .error code => .error (code, a)
  | .ok (.global va) =>
    let w := x.fmt.width
    let p := x.step w
    if va % 64 ≠ 0 then .error (cALIGN, a)
    else if 2 ^ 56 < va + 31 * p + 4 * w then .error (cADDR, a)
    else if p < 4 * w then .error (cILLEGAL, sw)
    else .ok (.glob va x.fmt p)
  | .ok (.loc core win _) =>
    if core ≠ c then
      if k = .tstn then .error (cADDR, a)
      else if a.toNat % 64 ≠ 0 then .error (cALIGN, a)
      else
        match extentCheck x (if x.lsrc then x.fmt.width else 4) (a.bits 17 0) with
        | some code => .error (code, a)
        | none => .ok (.far core)
    else if a.toNat % 64 ≠ 0 then .error (cALIGN, a)
    else
      let off := a.bits 17 0
      match extentCheck x (l.extentBits x win) off with
      | some code => .error (code, a)
      | none =>
        let f := if x.lsrc then (if win ≤ 12 ∧ l.configured win then some x.fmt else none) else l.tileFmt win
        match f with
        | none => .error (cWINDOW, a)
        | some f =>
          let w := f.width
          let p := x.step w
          if k.stores ∧ !x.lsrc ∧ l.scaled win then .error (cWINDOW, a)
          else if p < 4 * w then .error (cILLEGAL, sw)
          else .ok (.own win off f p)
  | .ok _ => .error (cADDR, a)

/-- The source of a TST with LSRC = 1: its offset (R224). -/
def lsrcCheck (c : Nat) (sup : Bool) (l : Local) (a : W) (n : Nat) : Except (Nat × W) Nat :=
  match ownPlace c sup a with
  | .error e => .error e
  | .ok (w, off) =>
    if 12 < w ∨ !l.configured w ∨ Config.spadSize < off + n then .error (cWINDOW, a)
    else if a.toNat % 64 ≠ 0 then .error (cALIGN, a)
    else .ok off

/-! ## Elements (R222–R224) -/

/-- The codes of a row's 32 elements. -/
def rowCodes (w : Nat) (bytes : List Byte) : List Nat :=
  let n := leNat bytes
  (List.range 32).map fun i => lane w n i

/-- The bytes of 32 codes. -/
def codesRow (w : Nat) (codes : List Nat) : List Byte := leBytes (4 * w) (ofLanes w codes)

/-- An element as F32: F32 raw, others decoded exactly (R223). -/
def elemF32 (f : Fmt) (t8 : Nat → Nat) (x : Nat) : Nat := if f = .f32 then x else sF32.convert rne false (f.value t8 x)

/-- The offsets of a tile's elements. -/
def tileSpots (off : Nat) (f : Fmt) (step : Nat) : List Nat :=
  (List.range 32).flatMap fun r => (List.range 32).map fun n => off + r * step + n * f.width / 8

/-- Whether every scale byte of a tile lies in the scratchpad (R177). -/
def Local.scalesOk (l : Local) (w off : Nat) (f : Fmt) (step : Nat) : Bool :=
  !l.scaled w || (tileSpots off f step).all fun o => ((l.scaleOffset w o).filter (· < Config.spadSize)).isSome

/-- The bytes of a tile's rows. -/
def rowSpans (off : Nat) (f : Fmt) (step : Nat) : List Span :=
  (List.range 32).map fun (r : Nat) => ⟨false, off + r * step, off + r * step + 4 * f.width⟩

/-- The bytes that reading a tile touches. -/
def Local.tileSpans (l : Local) (w off : Nat) (f : Fmt) (step : Nat) : List Span :=
  rowSpans off f step ++
  (if l.scaled w then ((tileSpots off f step).filterMap (l.scaleOffset w)).eraseDups.map fun (o : Nat) => ⟨false, o, o + 1⟩ else [])

/-- A tile of a scratchpad, read as one arrival: 32 rows of F32 elements (R223). -/
def Local.readTile (l : Local) (a : W) (w off : Nat) (f : Fmt) (step : Nat) : Except (Nat × W) (List (List Nat)) :=
  let width := f.width
  let rows := (List.range 32).map fun r => off + r * step
  if !l.scalesOk w off f step then .error (cWINDOW, a)
  else
    let bad := match rows.findSome? fun o => l.firstPoison o (4 * width) with
      | some o => some o
      | none => if l.scaled w then
          (tileSpots off f step).findSome? fun o => (l.scaleOffset w o).bind fun q => l.firstPoison q 1 else none
    match bad with
    | some o => .error (cPOISON, atOffset a off o)
    | none =>
      .ok (rows.map fun o =>
        (rowCodes width (l.spad.readN o (4 * width))).zipIdx.map fun (x, n) =>
          if l.scaled w then
            match l.element w (o + n * width / 8) x with
            | .ok v => sF32.convert rne false v
            | .error _ => 0
          else elemF32 f l.t8 x)

/-- Writes a tile's rows into the scratchpad, as one arrival. -/
def Local.writeTile (l : Local) (off step : Nat) (rows : List (List Byte)) : Local :=
  rows.zipIdx.foldl (fun l e => l.writeSpad (off + e.2 * step) e.1) l

/-- An element stored (R224): TST's value, or TSTN's exact triple product, converted; F32 goes unchanged under TST. -/
def storeElem (f : Fmt) (t8 : Nat → Nat) (rd : Rnd) (scale : Option (FVal × FVal)) (x : Nat) : Nat :=
  match scale with
  | none => if f = .f32 then x else f.convert t8 rd false (sF32.decode x)
  | some (sa, sb) => f.convert t8 rd false (((sF32.decode x).mul sa).mul sb)

/-- The 32 rows of a stored tile, element e rounded with r_e (R224). -/
def storeRows (f : Fmt) (t8 : Nat → Nat) (mode : Nat) (rng : W) (scale : Option (FVal × FVal)) (codes : List Nat) :
    List (List Byte) :=
  (List.range 32).map fun m => codesRow f.width ((List.range 32).map fun n =>
    storeElem f t8 ⟨mode, if mode = 4 then rOf rng (32 * m + n) else 0⟩ scale (codes.getD (32 * m + n) 0))

/-- Whether a tile store advances SR.RNG.STATE in SR mode (R371). -/
def tileRounds (k : TileKind) (lsrc : Bool) (f : Fmt) : Bool := !lsrc && f != .t8 && (k == .tstn || f != .f32)

/-- Writes a loaded tile (R223). -/
def VecUnit.loadTile (u : VecUnit) (td : PReg) (tr : Bool) (rows : List (List Nat)) : VecUnit :=
  let at_ := fun (i j : Nat) => (rows.getD i []).getD j 0
  (u.setTile td.toNat (tileOf fun m n => if tr then at_ n m else at_ m n)).setScales td.toNat f32One f32One

/-! ## Global tiles (R222, R226) -/

/-- The runs of bytes at consecutive physical addresses of one line. -/
def runsOf (va : Nat) : List Nat → List (Nat × Nat × Nat)
  | [] => []
  | p :: r =>
    match runsOf (va + 1) r with
    | [] => [(va, p, 1)]
    | (v, q, n) :: t => if q = p + 1 ∧ q % 256 ≠ 0 then (va, p, n + 1) :: t else (va, p, 1) :: (v, q, n) :: t

/-- Translations of several ranges: the runs of each, a wait, or the first failure. -/
def translateAll (s : State) (c : Nat) (sup write : Bool) :
    List (Nat × Nat) → Except (Nat × W) (Except State (List (List (Nat × Nat × Nat))))
  | [] => .ok (.ok [])
  | (va, n) :: r =>
    match translateRange s c whoVec sup write va n with
    | .error (code, a) => .error (code, w64 a)
    | .ok (.error s) =>
      match translateAll s c sup write r with
      | .error e => .error e
      | .ok (.error s) => .ok (.error s)
      | .ok (.ok _) => .ok (.error s)
    | .ok (.ok pas) =>
      match translateAll s c sup write r with
      | .ok (.ok l) => .ok (.ok (runsOf va pas :: l))
      | e => e

/-- Whether a core's own earlier stores to the lines of runs still wait for their grants (R193). -/
def Core.ungrantedIn (k : Core) (runs : List (Nat × Nat × Nat)) : Bool :=
  runs.any fun r => (k.l1.line? (lineOf r.2.1)).any fun x => x.pend != 0

/-- Joins runs that follow each other within a line. -/
def joinRuns : List (Nat × Nat × List Byte) → List (Nat × Nat × List Byte)
  | [] => []
  | (va, pa, b) :: r =>
    match joinRuns r with
    | [] => [(va, pa, b)]
    | (v, p, d) :: t =>
      if p = pa + b.length ∧ v = va + b.length ∧ p % 256 ≠ 0 then (va, pa, b ++ d) :: t else (va, pa, b) :: (v, p, d) :: t

/-- Clears the issuing core's copies of the sectors of runs; a later load of the core reads at the home (R226, R246). -/
def State.dropCopies (s : State) (c : Nat) (runs : List (Nat × Nat)) : State :=
  s.onL1 c fun l => runs.foldl (fun l r =>
    (granulesOf r.1 r.2).foldl (fun l g => l.clearSv (g / 4) (2 ^ (g % 4))) l) l

/-- Bytes written at homes as one step (R226): a line of which a partly written granule is bad is abandoned, and the
store's core told once for it (R227). -/
def State.homeTileWrite (s : State) (c : Nat) (runs : List (Nat × Nat × List Byte)) : State :=
  let runs := joinRuns runs
  let lines := (runs.map fun r => lineOf r.2.1).eraseDups
  let s := lines.foldl (fun s line =>
    let mine := runs.filter fun r => lineOf r.2.1 == line
    match mine.flatMap fun r => s.mergeBad r.2.1 r.2.2.length with
    | [] => mine.foldl (fun s r => s.engineWrite r.2.1 r.2.2) s
    | gs =>
      let va := ((mine.head?).map fun r => r.1 - r.2.1 % 256).getD 0
      (gs.foldl State.failGranule s).pending c cPOISON (w64 va)) s
  s.dropCopies c (runs.map fun r => (r.2.1, r.2.2.length))

/-- The first bad byte of runs that are read. -/
def State.badRun (s : State) (runs : List (Nat × Nat × Nat)) : Option Nat :=
  runs.findSome? fun r => (s.firstBad r.2.1 r.2.2).map fun a => r.1 + (a - r.2.1)

/-- Machine checks for what reads of runs met. -/
def State.detectRuns (s : State) (runs : List (Nat × Nat × Nat)) : State :=
  runs.foldl (fun s r => s.detectAll r.2.1 r.2.2) s

/-- TILE_ACCESS_AT_HOME (R226, R36): the whole access in one step, once every line of it is allocated and free. -/
def execTileAccessAtHome (k : Nat) (s : State) : Out :=
  waitingStep k (fun p s =>
    match p.body with
    | .tile r (.read runs) =>
      match s.readyHome (runs.map fun x => (x.2.1, x.2.2)) false with
      | .wait s => .wait s
      | .ok =>
        match s.badRun runs with
        | some a => .did ((s.detectRuns runs).send p.dst p.src .reply (.tileFailed ⟨cPOISON, w64 a⟩))
        | none =>
          let data := runs.map fun x => s.bytesNow x.2.1 x.2.2
          .did ((s.dropCopies r.core (runs.map fun x => (x.2.1, x.2.2))).send p.dst p.src .reply (.tileData data))
    | .tile r (.write runs) =>
      match s.readyHome (runs.map fun x => (x.2.1, x.2.2.length)) true with
      | .wait s => .wait s
      | .ok => .did ((s.homeTileWrite r.core runs).send p.dst p.src .reply .tileDone)
    | _ => .no) s

/-- The bytes of a global tile. -/
def globalSpans (va : Nat) (f : Fmt) (step : Nat) : List Span :=
  (List.range 32).map fun (r : Nat) => ⟨true, va + r * step, va + r * step + 4 * f.width⟩

/-- Sends a tile access to the home of its first line and waits for the answer. -/
def Vx.askTile (vx : Vx) (runs : List (Nat × Nat × Nat)) (op : TileOp) (keep : Option (List (List Byte))) : VRet :=
  let home := (runs.head?.map fun r => homeOf r.2.1).getD 0
  let r : Requester := { core := vx.c, hi := false, ctx := vx.k.ctx, sup := vx.sup }
  .wait ((vx.s.send (.core vx.c) (.slice home) .request (.tile r op)).onCore vx.c fun k =>
    { k with vu := { k.vu with wait := true, reply := keep } })

/-- Cuts bytes into rows of `n`. -/
def chunks (n : Nat) (count : Nat) (b : List Byte) : List (List Byte) :=
  (List.range count).map fun i => (b.drop (n * i)).take n

/-! ## TLD and TLD.T (R223) -/

/-- TLD and TLD.T. The answer of a remote tile is rows of F32, of a global tile its bytes. -/
def tldBody (tr : Bool) (td : PReg) (a sw : W) (b : Reg) (vx : Vx) : VRet :=
  let finish := fun (vx : Vx) (rows : List (List Nat)) =>
    VRet.done (vx.s.setCore vx.c { vx.k with vu := vx.k.vu.loadTile td tr rows })
  match shapeOf (.tld tr) sw (a.bits 63 60) b td with
  | none => .trap cILLEGAL sw
  | some x =>
    match vx.k.vu.reply with
    | some bytes =>
      if a.bits 63 60 = 0 then
        finish vx ((chunks (4 * x.fmt.width) 32 bytes.flatten).map fun r => (rowCodes x.fmt.width r).map (elemF32 x.fmt vx.k.lcl.t8))
      else finish vx (bytes.map (rowCodes 32))
    | none =>
      match tileCheck vx.c vx.sup vx.k.lcl (.tld tr) a sw x with
      | .error (code, v) => .trap code v
      | .ok (.own w off f step) =>
        vx.ownPort (vx.k.lcl.tileSpans w off f step) fun vx =>
          match vx.k.lcl.readTile a w off f step with
          | .error (code, v) => .trap code v
          | .ok rows => finish vx rows
      | .ok (.far core) =>
        let r : Requester := { core := vx.c, hi := false, ctx := vx.k.ctx, sup := vx.sup }
        .wait ((vx.s.send (.core vx.c) (.core core) .request (.tileLoad r a.toNat x.pitch)).onCore vx.c fun k =>
          { k with vu := { k.vu with wait := true } })
      | .ok (.glob va f step) =>
        match translateAll vx.s vx.c vx.sup false ((List.range 32).map fun r => (va + r * step, 4 * f.width)) with
        | .error (code, v) => .trap code v
        | .ok (.error s) => .wait s
        | .ok (.ok rows) =>
          let runs := rows.flatten
          if vx.k.ungrantedIn runs || vx.mustWait (globalSpans va f step) then .wait vx.s else vx.askTile runs (.read runs) none

/-- The format and row distance of a tile in another core's window, by that core's window (R53, R222). -/
def Core.farTile (k : Core) (addr pitch : Nat) (store : Bool) (raw : Option Nat) : Option (Nat × Nat × Fmt × Nat) :=
  let (_, w, off) := localParts addr
  let f := match raw with
    | some width => if w ≤ 12 ∧ k.lcl.configured w then (if width = 4 then some Fmt.e2m1 else if width = 8 then some .n8
        else if width = 16 then some .n16 else some .n32) else none
    | none => k.lcl.tileFmt w
  match f with
  | none => none
  | some f =>
    let p := if pitch = 0 then 4 * f.width else pitch
    if p < 4 * f.width ∨ Config.spadSize < off + 31 * p + 4 * f.width then none
    else if store ∧ raw.isNone ∧ k.lcl.scaled w then none
    else some (w, off, f, p)

/-- REMOTE_TILE_LOAD_ARRIVAL (R223, R53). -/
def execRemoteTileLoadArrival (k : Nat) (s : State) : Out :=
  packetStep k (fun p s =>
    match p.dst, p.body with
    | .core c, .tileLoad r addr pitch =>
      let o := s.core c
      let fail := fun (code : Nat) (v : W) => some (s.replyTo c r (.tileFailed ⟨code, v⟩))
      match o.arrivalCheck r .vector addr 1 with
      | some code => fail code (w64 addr)
      | none =>
        match o.farTile addr pitch false none with
        | none => fail cWINDOW (w64 addr)
        | some (w, off, f, step) =>
          match o.lcl.readTile (w64 addr) w off f step with
          | .error (code, v) => fail code v
          | .ok rows => some (s.replyTo c r (.tileData (rows.map (codesRow 32))))
    | _, _ => none) s

/-- REMOTE_TILE_STORE_ARRIVAL (R225, R53, R156). -/
def execRemoteTileStoreArrival (k : Nat) (s : State) : Out :=
  packetStep k (fun p s =>
    match p.dst, p.body with
    | .core c, .tileStore r addr pitch pay entry =>
      let o := s.core c
      match o.arrivalCheck r .vector addr 1 with
      | some code => some (s.postedEnd c r entry (some (postCause code)))
      | none =>
        let raw := match pay with
          | .raw rows => some ((rows.headD []).length / 4)
          | .elems _ _ _ => none
        match o.farTile addr pitch true raw with
        | none => some (s.postedEnd c r entry (some 2))
        | some (_, off, f, step) =>
          if (List.range 32).any fun i => o.fullRefused c r (addr + i * step) (4 * f.width) then
            some (s.postedEnd c r entry (some 4))
          else
            let rows := match pay with
              | .raw rows => rows
              | .elems mode rng codes => storeRows f o.lcl.t8 mode rng none codes
            some ((s.setCore c { o with lcl := o.lcl.writeTile off step rows }).postedEnd c r entry none)
    | _, _ => none) s

/-! ## Key-page stores (R238) -/

/-- BF16 order with −0 below +0, NaN apart (R238). -/
def bfMin (a b : Nat) : Nat := sBF16.minmax false a b
/-- The greater of two BF16 values. -/
def bfMax (a b : Nat) : Nat := sBF16.minmax true a b

/-- Widens a channel's minimum and maximum by a stored value (R238). -/
def widenBy (mm : Nat × Nat) (v : Nat) : Nat × Nat :=
  if (sBF16.decode v).isNan then (0x7FC0, 0x7FC0)
  else (if (sBF16.decode mm.1).isNan then mm.1 else bfMin mm.1 v, if (sBF16.decode mm.2).isNan then mm.2 else bfMax mm.2 v)

/-- The address and length of the summary of page p. -/
def KeyPage.summary (kp : KeyPage) (p : Nat) : Nat × Nat := (kp.sbase + 4 * kp.d * p, 4 * kp.d)

/-- The channels of a summary: minimum and maximum. -/
def KeyPage.channels (kp : KeyPage) (bytes : List Byte) : List (Nat × Nat) :=
  let n := leNat bytes
  (List.range kp.d).map fun j => (lane 16 n j, lane 16 n (kp.d + j))

/-- The bytes of a summary. -/
def KeyPage.pack (kp : KeyPage) (l : List (Nat × Nat)) : List Byte :=
  leBytes (4 * kp.d) (ofLanes 16 (l.map (·.1) ++ l.map (·.2)))

/-- The stored elements that lie in pages: page, channel, element number (R238). -/
def KeyPage.hits (kp : KeyPage) (va step : Nat) : List (Nat × Nat × Nat) :=
  (List.range 1024).filterMap fun e =>
    let a := va + e / 32 * step + e % 32 * kp.es
    if a < kp.pbase then none
    else
      let o := a - kp.pbase
      let p := o / kp.pstride
      let u := o % kp.pstride
      if p < kp.npages ∧ u < kp.size then some (p, u % (kp.d * kp.es) / kp.es, e) else none

/-- A handle's key-page descriptor (R57, R240): every failure but of its slot's translation is HANDLE. -/
inductive KeyRes where
  | ok (d : Nat) (kp : KeyPage) (s : State)
  | wait (s : State)
  | trap (code : Nat) (v : W)
  deriving DecidableEq, Repr

/-- Looks a key-page handle up. -/
def Vx.keys (vx : Vx) (h : W) : KeyRes :=
  match vx.s.descriptor vx.c vx.k.asidOf vx.k.rootOf vx.k.regs.dtab h 3 with
  | .ok d s => match keyPage? d with | some kp => .ok d kp s | none => .trap cHANDLE h
  | .kind _ | .handle => .trap cHANDLE h
  | .np va => .trap cPAGENP (w64 va)
  | .poison va => .trap cPOISON (w64 va)
  | .wait s => .wait s

/-- Runs of a summary with the bytes that go to each. -/
def withBytes : List (Nat × Nat × Nat) → List Byte → List (Nat × Nat × List Byte)
  | [], _ => []
  | (v, p, n) :: r, b => (v, p, b.take n) :: withBytes r (b.drop n)

/-- One step on the summary of a page (R226, R238, R239): reads its channels if `merge`, and writes what `f` makes of
them. A summary that is no longer mapped is passed over; `true` when the step is made. -/
def Vx.summaryStep (vx : Vx) (kp : KeyPage) (p : Nat) (merge : Bool) (f : List (Nat × Nat) → List (Nat × Nat)) : Bool × State :=
  let (va, n) := kp.summary p
  if vx.mustWait [⟨true, va, va + n⟩] then (false, vx.s) else
  match translateAll vx.s vx.c vx.sup true [(va, n)] with
  | .error _ => (true, vx.s)
  | .ok (.error s) => (false, s)
  | .ok (.ok rows) =>
    let runs := rows.flatten
    match vx.s.readyHome (runs.map fun x => (x.2.1, x.2.2)) true with
    | .wait s => (false, s)
    | .ok =>
      match if merge then vx.s.badRun runs else none with
      | some a => (true, (vx.s.detectRuns runs).pending vx.c cPOISON (w64 (a / 256 * 256)))
      | none =>
        let old := kp.channels (runs.flatMap fun x => vx.s.bytesNow x.2.1 x.2.2)
        (true, vx.s.homeTileWrite vx.c (withBytes runs (kp.pack (f old))))

/-! ## TST and TSTN (R224, R225) -/

/-- The codes of a tile register, element by element. -/
def VecUnit.codes (u : VecUnit) (t : Nat) : List Nat := (List.range 1024).map fun e => lane 32 (u.tile t) e

/-- Goes on with a key-page store whose tile is written: `got` holds its descriptor, its rows, and a mark for the
tile's answer and for every summary widened. -/
def Vx.widenNext (vx : Vx) (va : Nat) (f : Fmt) (step : Nat) (got : List (List Byte)) (fin : State → State) : VRet :=
  match keyPage? (leNat (got.headD [])) with
  | none => .done (fin vx.s)
  | some kp =>
    let hits := kp.hits va step
    let pages := (hits.map (·.1)).eraseDups
    match pages[got.length - 34]? with
    | none => .done (fin vx.s)
    | some p =>
      let rows := got.drop 1
      let code := fun (e : Nat) => lane f.width (leNat (rows.getD (e / 32) [])) (e % 32)
      let widen := fun (l : List (Nat × Nat)) => (hits.filter (·.1 == p)).foldl (fun l h =>
        setAt l h.2.1 (widenBy (l.getD h.2.1 (0, 0)) (sBF16.convert rne false (f.value vx.k.lcl.t8 (code h.2.2))))) l
      let (made, s) := vx.summaryStep kp p true widen
      .wait (if made then s.onCore vx.c fun k => { k with vu := { k.vu with reply := some (got ++ [[]]) } } else s)

/-- KIND of a remote TST's Waybill entry: its data travels on a bulk plane (R155, R225). -/
def tstKind : Nat := 1 + 64

/-- Whether the remote window's format makes a TST round; the store takes the format that the window has when it
executes (DEDUCED, assumption 22). -/
def State.farRounds (s : State) (core addr : Nat) : Bool :=
  match (s.core core).lcl.tileFmt (localParts addr).2.1 with
  | some f => tileRounds .tst false f
  | none => false

/-- TST and TSTN. The rows that LSRC = 1 copies within the scratchpad are read in one access of the port and written in a
second one. -/
def tstBody (k : TileKind) (td : PReg) (a sw src : W) (b : Reg) (vx : Vx) : VRet :=
  let u := vx.k.vu
  let l := vx.k.lcl
  let mode := vx.k.bankLo.rmode
  let rng := vx.k.bankLo.rng
  let scale := match k with
    | .tstn => some (sF32.decode (u.scales td.toNat).1.toNat, sF32.decode (u.scales td.toNat).2.toNat)
    | _ => none
  match shapeOf k sw (a.bits 63 60) b td with
  | none => .trap cILLEGAL sw
  | some x =>
    let advance := fun (yes : Bool) (s : State) =>
      s.onCore vx.c fun k => if yes then { k with bankLo := k.bankLo.advance 1024 } else k
    match u.reply with
    | some got =>
      if a.bits 63 60 = 0 then vx.widenNext a.toNat x.fmt (x.step x.fmt.width) got (advance (tileRounds k x.lsrc x.fmt))
      else
        let off := a.bits 17 0
        let step := x.step x.fmt.width
        vx.ownPort (rowSpans off x.fmt step) fun vx =>
          .done (vx.s.onCore vx.c fun k => { k with lcl := k.lcl.writeTile off step got })
    | none =>
      match tileCheck vx.c vx.sup l k a sw x with
      | .error (code, v) => .trap code v
      | .ok place =>
        -- the destination's translations and handle
        let key : KeyRes := if x.kph = 0 then .ok 0 { fmt := .bf16, d := 0, npages := 0, pbase := 0, pstride := 1, sbase := 0 } vx.s
          else vx.keys (w64 x.kph)
        match key with
        | .trap code v => .trap code v
        | .wait s => .wait s
        | .ok d kp s1 =>
          if x.kph ≠ 0 ∧ x.fmt ≠ kp.fmt then .trap cILLEGAL sw
          else
            let ranges := match place with
              | .glob va f step =>
                ((List.range 32).map fun r => (va + r * step, 4 * f.width)) ++
                  (if x.kph = 0 then [] else ((kp.hits va step).map (·.1)).eraseDups.map kp.summary)
              | _ => []
            match translateAll s1 vx.c vx.sup true ranges with
            | .error (code, v) => .trap code v
            | .ok (.error s) => .wait s
            | .ok (.ok runs) =>
              let width := match place with
                | .own _ _ f _ | .glob _ f _ => f.width
                | .far _ => x.fmt.width
              match if x.lsrc then lsrcCheck vx.c vx.sup l src (128 * width) else .ok 0 with
              | .error (code, v) => .trap code v
              | .ok so =>
                let vx := { vx with s := s1 }
                let source := fun (go : Vx → VRet) =>
                  if !x.lsrc then go vx
                  else vx.ownPort [⟨false, so, so + 128 * width⟩] fun vx =>
                    match l.firstPoison so (128 * width) with
                    | some o => .trap cPOISON (atOffset src so o)
                    | none => go vx
                let rows := fun (f : Fmt) =>
                  if x.lsrc then chunks (4 * width) 32 (l.spad.readN so (128 * width))
                  else storeRows f l.t8 mode rng scale (u.codes td.toNat)
                match place with
                | .own _ off f step =>
                  if x.lsrc then source fun vx => .wait (vx.s.onCore vx.c fun k => { k with vu := { k.vu with reply := some (rows f) } })
                  else vx.ownPort (rowSpans off f step) fun vx =>
                    .done (advance (tileRounds k x.lsrc f)
                      (vx.s.onCore vx.c fun k => { k with lcl := k.lcl.writeTile off step (rows f) }))
                | .far core => source fun vx =>
                  let pay := if x.lsrc then TilePay.raw (rows x.fmt) else .elems mode rng (u.codes td.toNat)
                  let r : Requester := { core := vx.c, hi := false, ctx := vx.k.ctx, sup := vx.sup }
                  let send := fun (n : Nat) (s : State) => VRet.done (advance (!x.lsrc && s.farRounds core a.toNat)
                    (s.send (.core vx.c) (.core core) .bulk (.tileStore r a.toNat x.pitch pay n)))
                  match vx.entry, vx.t with
                  | some n, _ => send n vx.s
                  | none, some t =>
                    match (vx.s.core vx.c).freeEntry? with
                    | none => .wait vx.s
                    | some n => send n (vx.s.post vx.c n { t with pc := vx.pc } a [if x.lsrc then src else 0] tstKind)
                  | none, none => .done vx.s
                | .glob va f step => source fun vx =>
                  let tile := (runs.take 32).flatten
                  if vx.k.ungrantedIn runs.flatten || vx.mustWait (globalSpans va f step) then .wait vx.s
                  else
                    let bytes := rows f
                    vx.askTile tile (.write (withBytes tile bytes.flatten))
                      (some ((if x.kph = 0 then [] else leBytes 64 d) :: bytes))

/-- The scalar stream's part of a TST: a remote one takes its Waybill entry (R225). -/
def tstPass (f : TileForm) (cx : Cx) : VCheck :=
  let a := cx.x f.a
  let sw := cx.x f.b
  match tilePlace cx.c cx.t.sup a with
  | .ok (.loc core _ _) =>
    if core = cx.c then .ok
    else
      match cx.k.freeEntry? with
      | none => .wait cx.s
      | some n => .take n (cx.s.post cx.c n cx.t a [if sw.getLsbD 31 then cx.x (f.b + 1) else 0] tstKind)
  | _ => .ok

/-! ## The instructions -/

/-- MMA. -/
def execMma (f : MmaForm) (s : State) : Out :=
  vector (.plain (.mma f) false f.g [f.a]) (fun vx => mmaBody f.t (vx.x 1 f.a) vx) s
/-- MMAT. -/
def execMmat (f : MmatForm) (s : State) : Out := vector (.plain (.mmat f) false f.g []) (mmatBody f.t f.s) s
/-- TZERO. -/
def execTzero (f : TForm) (s : State) : Out := vector (.plain (.tzero f) false f.g []) (tzeroBody f.t) s
/-- TLD. -/
def execTld (f : TileForm) (s : State) : Out :=
  vector (.plain (.tld f) false f.g [f.a, f.b]) (fun vx => tldBody false f.t (vx.x 1 f.a) (vx.x 2 f.b) f.b vx) s
/-- TLD.T. -/
def execTldT (f : TileForm) (s : State) : Out :=
  vector (.plain (.tldT f) false f.g [f.a, f.b]) (fun vx => tldBody true f.t (vx.x 1 f.a) (vx.x 2 f.b) f.b vx) s
/-- TST. -/
def execTst (f : TileForm) (s : State) : Out :=
  vector { VNeed.plain (.tst f) false f.g [f.a, f.b, f.b + 1] with check := some (tstPass f) }
    (fun vx => tstBody .tst f.t (vx.x 1 f.a) (vx.x 2 f.b) (vx.x 3 (f.b + 1)) f.b vx) s
/-- TSTN. -/
def execTstn (f : TileForm) (s : State) : Out :=
  vector (.plain (.tstn f) false f.g [f.a, f.b]) (fun vx => tstBody .tstn f.t (vx.x 1 f.a) (vx.x 2 f.b) 0 f.b vx) s

/-- TROW (R237). -/
def execTrow (f : TileForm) (s : State) : Out :=
  vector (.plain (.trow f) false f.g [f.a]) (fun vx =>
    let c := vx.x 1 f.a
    if c.bits 63 6 ≠ 0 then .trap cILLEGAL c
    else
      let r := c.bits 4 0
      let r2 := (r + 1) % 32
      let u := vx.k.vu
      let v := u.reg f.b.toNat
      let t := f.t.toNat
      let u' :=
        if c.getLsbD 5 then
          u.setTile t (tileOf fun m n => if m = r2 then lane 32 v (32 + n) else if m = r then lane 32 v n else u.cell t m n)
        else u.setReg f.b.toNat (ofLanes 32 ((List.range 64).map fun i => if i < 32 then u.cell t r i else u.cell t r2 (i - 32)))
      .done (vx.s.setCore vx.c { vx.k with vu := u' })) s

/-- CLLD. -/
def execClld (f : Ra) (s : State) : Out :=
  vector (.plain (.clld f) false f.g [f.a]) (fun vx => clldBody (vx.x 1 f.a) vx) s

/-- CLROT (R231). -/
def execClrot (f : G0) (s : State) : Out :=
  vector (.plain (.clrot f) false f.g []) (fun vx =>
    match vx.k.vu.cur with
    | none => .trap cILLEGAL vx.word
    | some x =>
      if !vx.k.regs.cr then .wait vx.s
      else .done ((vx.s.setCore vx.c { vx.k with regs := { vx.k.regs with cr := false } }).send
        (.core vx.c) (.core vx.k.regs.ringNext) .bulk (.latch vx.k.ctx x))) s

/-- CLWAIT. -/
def execClwait (f : G0) (s : State) : Out := vector (.plain (.clwait f) false f.g []) clwaitBody s

/-- LATCH_ARRIVAL (R231): INC takes the tile, or the arrival is dropped, counted, and its credit returned. -/
def execLatchArrival (k : Nat) (s : State) : Out :=
  packetStep k (fun p s =>
    match p.src, p.dst, p.body with
    | .core from_, .core c, .latch ctx x =>
      let o := s.core c
      if o.ctx.isNone || o.ctx != ctx || o.vu.inc.isSome then
        some ((s.event (unitCore c) 0x05).send (.core c) (.core from_) .request .credit)
      else some (s.setCore c { o with vu := { o.vu with inc := some (from_, x) } })
    | _, _, _ => none) s

/-- RING_CREDIT (R232). -/
def execRingCredit (k : Nat) (s : State) : Out :=
  packetStep k (fun p s =>
    match p.dst, p.body with
    | .core c, .credit => some (s.onCore c fun k => { k with regs := { k.regs with cr := true } })
    | _, _ => none) s

end Sys2Proof.Machine
end

