-- ==== Sys2Proof/Machine/Command.lean ====
section
/-! DEFINITION. Tile exchange and remote matrix commands (R164, R166). -/

namespace Sys2Proof.Machine

/-! ## TSWAP (R164) -/

/-- The mirror core: the same core of the cluster with its coordinates exchanged. -/
def mirrorOf (c : Nat) : Nat := (clusterX (clusterOf c) * 16 + clusterY (clusterOf c)) * 4 + c % 4

/-- Reads core `c`'s tile and sends it to the mirror; poisoned words stay poisoned at the other side (assumption 24). -/
def State.sendSwap (s : State) (c count : Nat) : State :=
  let k := s.core c
  match k.tswOff with
  | none => s
  | some off =>
    let bad := (List.range 256).filter fun w => Tbl.getD k.lcl.poison (off / 8 + w) false
    s.send (.core c) (.core (mirrorOf c)) .bulk (.tswapTile count (k.lcl.spad.readN off 2048) bad)

/-- Writes an arriving tile. -/
def Local.writeSwap (l : Local) (off : Nat) (bytes : List Byte) (bad : List Nat) : Local :=
  let l := l.writeSpad off bytes
  { l with poison := bad.foldl (fun t w => Tbl.put false t (off / 8 + w) true) l.poison }

/-- TSWAP: the offset goes to the mirror; a mirror that has come first gets the tile at once. -/
def execTswap (f : Ra) (s : State) : Out :=
  scalar { Need.fence 2 f.g [f.a] with noHi := true, carried := false } (fun cx =>
    let a := cx.x f.a
    match ownPlace cx.c cx.t.sup a with
    | .error (code, v) => .trap code v
    | .ok (w, off) =>
      if 12 < w ∨ !cx.k.lcl.configured w then .trap cWINDOW a
      else if a.toNat % 64 ≠ 0 then .trap cALIGN a
      else if Config.spadSize < off + 2048 then .trap cWINDOW a
      else if mirrorOf cx.c = cx.c then .done cx.s
      else if cx.mustWait (cx.span a.toNat 2048) then .stay cx.s
      else
        let n := cx.k.tswSent + 1
        let now := decide (n ≤ cx.k.tswGot)
        if now && cx.s.portOwes cx.c then .stay cx.s else
        let s := if now then cx.s.ownAccess cx.c else cx.s
        let s := s.onCore cx.c fun k => { k with tswSent := n, tswOff := some off, tswTile := false }
        let s := s.send (.core cx.c) (.core (mirrorOf cx.c)) .request (.tswap n)
        let s := if now then s.sendSwap cx.c n else s
        cx.await s (.tswap n)) s

/-- TSWAP_ARRIVAL: the mirror's offset arrives, and a side that has issued its own reads and sends its tile; or the
cancel of a TSWAP whose partner has not been issued advances the count (R164, R314). -/
def execTswapArrival (k : Nat) (s : State) : Out :=
  packetStep k (fun p s =>
    match p.dst, p.body with
    | .core c, .tswap n =>
      let s := s.onCore c fun k => { k with tswGot := n }
      some (if n ≤ (s.core c).tswSent then s.sendSwap c n else s)
    | .core c, .cancel r =>
      match s.waitOf r with
      | .tswap n =>
        if n ≤ (s.core c).tswSent then some s
        else
          let s := s.onCore c fun k => { k with tswSent := n }
          some ((s.onCore r.core fun k => { k with tswOff := none }).replyTo c r (.cancelled r.hi))
      | _ => none
    | _, _ => none) s

/-- Ends a core's TSWAP. -/
def State.endSwap (s : State) (c : Nat) : State :=
  (s.onCore c fun k => { k with tswOff := none, tswTile := false }).resume c false 2 id

/-- TSWAP_TILE_ARRIVAL: the tile is written, once the own tile has been read; both TSWAPs complete when both writes
are performed. -/
def execTswapTileArrival (k : Nat) (s : State) : Out :=
  waitingStep k (fun p s =>
    match p.dst, p.body with
    | .core c, .tswapTile n bytes bad =>
      let o := s.core c
      match o.tswOff with
      | none => .did s
      | some off =>
        if o.tswGot < n then .wait s
        else
          let s := s.setCore c { o with lcl := o.lcl.writeSwap off bytes bad, tswTile := true }
          .did (if (s.core (mirrorOf c)).tswTile then (s.endSwap c).endSwap (mirrorOf c) else s)
    | _, _ => .no) s

/-! ## Matrix commands (R166) -/

/-- The instructions that a matrix command may carry; their Xa operand comes with the command. -/
inductive MatCmd where
  | mma (t : PReg)
  | mmat (t s : PReg)
  | tzero (t : PReg)
  | tile (k : TileKind) (t : PReg)
  | clld
  | clwait
  deriving DecidableEq, Repr

/-- The instruction of a command word: unguarded, L = 0, field a zero (R166, R219). A command has no X registers to
read a shape word from, so b = 0 too (assumption 25). -/
def matCmd? (w : W) : Option MatCmd :=
  let t : PReg := BitVec.ofNat 3 (w.bits 15 13)
  let b := w.bits 27 23
  if w.bits 63 32 ≠ 0 ∨ w.bits 22 16 ≠ 0 ∨ w.bits 12 9 ≠ 0 ∨ w.bits 1 0 ≠ 1 then none
  else
    match w.bits 8 2, w.bits 31 28 with
    | 0x68, 0 => if b = 0 then some (.mma t) else none
    | 0x68, 1 => if b < 8 then some (.mmat t (BitVec.ofNat 3 b)) else none
    | 0x68, 2 => if b = 0 then some (.tzero t) else none
    | 0x69, 0 => if b = 0 then some (.tile (.tld false) t) else none
    | 0x69, 1 => if b = 0 then some (.tile (.tld true) t) else none
    | 0x69, 2 => if b = 0 then some (.tile .tst t) else none
    | 0x69, 3 => if b = 0 then some (.tile .tstn t) else none
    | 0x6A, 0 => if b = 0 ∧ t = 0 then some .clld else none
    | 0x6A, 2 => if b = 0 ∧ t = 0 then some .clwait else none
    | _, _ => none

/-- What is known of the current latch slot: nothing in it, or a tile, of a format where that is known. -/
abbrev CurKnown := Option (Option Fmt)

/-- The current slot after a command. -/
def MatCmd.curAfter (m : MatCmd) (k : Core) (a : W) (cur : CurKnown) : CurKnown :=
  match m with
  | .clld => some (k.lcl.fmtOf (a.bits 49 46))
  | .clwait => some (k.vu.inc.map (·.2.fmt))
  | .mma _ | .mmat _ _ | .tzero _ | .tile _ _ => cur

/-- The current slot as the commands queued at a core leave it. DEDUCED (assumption 27): a command's checks meet that slot, so
that a queued command cannot trap (R166). -/
def Core.curQueued (k : Core) : CurKnown :=
  k.mxq.foldl (fun cur m =>
    match matCmd? (w64 m.word.toNat) with
    | some i => i.curAfter k m.operand cur
    | none => cur) (k.vu.cur.map fun x => some x.fmt)

/-- Whether the current slot lets a multiplication of elements of `width` go on (R234, R235). -/
def curFits (cur : CurKnown) (width : Nat) : Bool :=
  match cur with
  | none => false
  | some none => true
  | some (some f) => f.width == width

/-- Whether an operand tile passes its checks: address, window, and scale bytes (R177, R230). -/
def latchOk (c : Nat) (l : Local) (a : W) : Bool :=
  match operandCheck c true l a with
  | .ok (w, off) => !(l.tileScales w off).any (· == some none)
  | .error _ => false

/-- Whether a command passes its instruction's checks at core `c`, with its operand in the core's own scratchpad. -/
def MatCmd.operandOk (m : MatCmd) (c : Nat) (k : Core) (a : W) : Bool :=
  match m with
  | .clld => latchOk c k.lcl a
  | .mma _ => latchOk c k.lcl a && curFits k.curQueued (((k.lcl.fmtOf (a.bits 49 46)).map Fmt.width).getD 0)
  | .mmat _ _ => curFits k.curQueued 16
  | .tile i t =>
    (match shapeOf i 0 (a.bits 63 60) 0 t with
     | none => false
     | some x => match tileCheck c true k.lcl i a 0 x with
       | .ok (.own w off f step) => i.stores || k.lcl.scalesOk w off f step
       | _ => false)
  | .tzero _ | .clwait => true

/-- What the instruction of a command does. -/
def MatCmd.body (m : MatCmd) (a : W) (vx : Vx) : VRet :=
  match m with
  | .mma t => mmaBody t a vx
  | .mmat t s => mmatBody t s vx
  | .tzero t => tzeroBody t vx
  | .tile (.tld tr) t => tldBody tr t a 0 0 vx
  | .tile k t => tstBody k t a 0 0 0 vx
  | .clld => clldBody a vx
  | .clwait => clwaitBody vx

/-- MXCMD: the block goes to the target, and the stream stalls for the status. A completion address that breaks its
form traps as STF's does (assumption 26). -/
def execMxcmd (f : R3) (s : State) : Out :=
  scalar { Need.fence 2 f.g [f.a, f.b, f.b + 1, f.b + 2, f.b + 3, f.d] with noHi := true, carried := false } (fun cx =>
    let a := cx.x f.a
    let done := cx.x (f.b + 3)
    if a.bits 63 10 ≠ 0 then .trap cILLEGAL (cx.k.instrWord cx.t)
    else
      match if done = 0 then .ok (cx.c, 0, 0) else cx.fullAddr done 8 with
      | .error (code, v) => .trap code v
      | .ok (core, _, _) =>
        if core ≠ cx.c then .trap cADDR done
        else
          let off := if done = 0 then 0 else localAddr cx.c (done.bits 49 46) (done.bits 17 0)
          cx.await (cx.s.send (.core cx.c) (.core a.toNat) .request
            (.mxcmd cx.req (cx.x f.b) (cx.x (f.b + 1)) (cx.x (f.b + 2)) (w64 off))) (.value f.d false 64 2 false)) s

/-- MXCMD_ARRIVAL: the first condition that holds decides the status. -/
def execMxcmdArrival (k : Nat) (s : State) : Out :=
  packetStep k (fun p s =>
    match p.dst, p.body with
    | .core c, .mxcmd r cap word operand done =>
      let o := s.core c
      let status :=
        if o.refuses r.ctx then 4
        else if cap ≠ o.regs.cap ∨ o.regs.cap = 0 then 2
        else if !(match matCmd? word with | some m => m.operandOk c o operand | none => false) then 3
        else if Config.mxqSize ≤ o.mxq.length then 1
        else 0
      let s := if status = 0 then
          s.setCore c { o with mxq := o.mxq ++ [⟨BitVec.ofNat 32 word.toNat, operand, done, r.core⟩] } else s
      some (s.replyTo c r (.mxStatus r.hi status))
    | _, _ => none) s

/-- MXCMD_STATUS. -/
def execMxcmdStatus (k : Nat) (s : State) : Out :=
  packetStep k (fun p s =>
    match p.dst, p.body with
    | .core c, .mxStatus hi n => some (s.answer c hi [n])
    | _, _ => none) s

/-- The oldest matrix command of a core, when the stream stands between two instructions. -/
def Core.command? (k : Core) : Option (MxCmd × List MxCmd) :=
  if k.vu.wait || k.vu.reply.isSome || k.vu.failed.isSome then none
  else
    match k.mxq with
    | [] => none
    | m :: r => some (m, r)

/-- MXCMD_EXECUTE: a command executes in the target's stream, then its completion word is sent. One that fails a
check it passed when it arrived has no effect; POISON goes to the target core (assumption 27). -/
def execMxcmdExecute (c : Nat) (s : State) : Out :=
  let k := s.core c
  match k.command? with
  | none => .next s
  | some (m, rest) =>
    let s' := s.setCore c { k with mxq := rest, vu := { k.vu with mxWait := false } }
    match matCmd? (w64 m.word.toNat) with
    | none => .next s'
    | some i =>
      let vx : Vx :=
        { s := s', c := c, k := s'.core c, t := none, x := fun _ _ => 0, sup := true, word := 0, pc := 0, entry := none,
          xdead := [], pvs := [] }
      match i.body m.operand vx with
      | .wait _ => .next s
      | .trap code v => .next (if code = cPOISON then s'.pending c cPOISON v else s')
      | .done s =>
        let r : Requester := { core := c, hi := false, ctx := k.ctx, sup := true }
        .next (if m.done = 0 then s else s.send (.core c) (.core m.src) .request (.mxDone r m.done.toNat))

end Sys2Proof.Machine
end

