-- ==== Sys2Proof/Machine/Convert.lean ====
section
/-! DEFINITION. The vector conversions: VCVT, VDEC, VENC, VQNT and VDQNT (R179–R184). -/

namespace Sys2Proof.Machine

/-- A packed image with elements replaced: (element number, code) for each. -/
def setElems (w old : Nat) (l : List (Nat × Nat)) : Nat :=
  ofLanes w ((List.range (2048 / w)).map fun k =>
    match l.find? fun e => e.1 == k with
    | some e => e.2
    | none => lane w old k)

/-- The active lanes. -/
def Vx.lanes (vx : Vx) (g : Guard) : List Nat := (List.range 64).filter (vx.active g)

/-- VCVT (R181). -/
def execVcvt (f : CvtForm) (s : State) : Out :=
  vector (.plain (.vcvt f) true f.g []) (fun vx =>
    let k := vx.k
    let va := k.vu.reg f.a.toNat
    vx.put k f.g f.d (f.dst != f.src && f.dst != .t8) fun i =>
      let x := lane 32 va i % 2 ^ f.src.width
      if f.dst = f.src then x
      else f.dst.convert k.lcl.t8 (k.bankLo.rnd i) f.ns (f.src.value k.lcl.t8 x)) s

/-- VDEC (R182). -/
def execVdec (f : UnpackForm) (s : State) : Out :=
  vector (.plain (.vdec f) true f.g []) (fun vx =>
    let k := vx.k
    let va := k.vu.reg f.a.toNat
    vx.put k f.g f.d false fun i =>
      sF32.convert rne false (f.src.value k.lcl.t8 (lane f.src.width va (64 * f.p.toNat + i)))) s

/-- Replaces elements of V[d], and advances STATE when the instruction rounds. -/
def Vx.putElems (vx : Vx) (w : Nat) (d : Reg) (round : Bool) (l : List (Nat × Nat)) (f : VecUnit → VecUnit) : VRet :=
  let k := vx.k
  let u := f (k.vu.setReg d.toNat (setElems w (k.vu.reg d.toNat) l))
  .done (vx.s.setCore vx.c { k with vu := u, bankLo := if round then k.bankLo.advance 64 else k.bankLo })

/-- VENC (R182). -/
def execVenc (f : PackForm) (s : State) : Out :=
  vector (.plain (.venc f) true f.g []) (fun vx =>
    let k := vx.k
    let va := k.vu.reg f.a.toNat
    vx.putElems f.dst.width f.d (f.dst != .t8) ((vx.lanes f.g).map fun i =>
      (64 * f.p.toNat + i, f.dst.convert k.lcl.t8 (k.bankLo.rnd i) f.ns (sF32.decode (lane 32 va i)))) id) s

/-- The largest exponent of a block-scaled format (R183). -/
def blockEmax (f : Fmt) : Int := if f = .e4m3 then 8 else if f = .e5m2 then 15 else 2

/-- A conversion that saturates at the largest finite value (R183). -/
def saturating (f : FSpec) (rd : Rnd) (v : FVal) : Nat :=
  let c := f.convert rd false v
  if f.inf && c == f.infCode false then f.maxCode false
  else if f.inf && c == f.infCode true then f.maxCode true
  else c

/-- One block of VQNT: its scale byte and the code of each participating lane (R183). -/
def quantBlock (f : Fmt) (sp : FSpec) (rnd : Nat → Rnd) (xs : List (Nat × Nat)) : Nat × List (Nat × Nat) :=
  if xs.any fun e => bitsOf e.2 30 23 == 255 then (0xFF, xs.map fun e => (e.1, sp.nanCode))
  else
    let amax := (xs.map fun e => e.2 % 2 ^ 31).foldl Nat.max 0
    let x : Int := match sF32.decode amax with
      | .fin _ m e _ => if m = 0 then -127 else max (-127) (min 127 ((topBit m : Int) + e - blockEmax f))
      | _ => -127
    ((x + 127).toNat, xs.map fun e => (e.1, saturating sp (rnd e.1) ((sF32.decode e.2).mul (.ex false 1 (-x)))))

/-- The code of one lane in a row format (R183). -/
def quantRow (w : Nat) (rd : Rnd) (sigma mu x : FVal) : Nat :=
  let finite := fun (v : FVal) => match v with
    | .fin _ _ _ _ => true
    | _ => false
  if !finite sigma || sigma.isZero || !finite mu || x.isNan then 0
  else convertInt false w rd ((x.add rd.mode mu.neg).div sigma)

/-- VQNT (R183). -/
def execVqnt (f : QuantForm) (s : State) : Out :=
  vector (.plain (.vqnt f) true f.g []) (fun vx =>
    let k := vx.k
    let p := f.p.toNat
    let w := f.dst.width
    let va := k.vu.reg f.a.toNat
    let d1 := f.d.toNat + 1
    let scales := k.vu.reg d1
    match f.dst.spec with
    | none =>
      let sigma := sF16.decode (lane 16 scales 0)
      let mu := sF16.decode (lane 16 scales 1)
      vx.putElems w f.d true ((vx.lanes f.g).map fun i =>
        (64 * p + i, quantRow w (k.bankLo.rnd i) sigma mu (sF32.decode (lane 32 va i)))) id
    | some sp =>
      let block := fun j =>
        let xs := ((vx.lanes f.g).filter fun i => i / 32 == j).map fun i => (i, lane 32 va i)
        if xs.isEmpty then none else some (quantBlock f.dst sp k.bankLo.rnd xs)
      let bs := (List.range 2).filterMap fun j => (block j).map fun b => (j, b)
      let codes := bs.flatMap fun b => b.2.2.map fun e => (64 * p + e.1, e.2)
      let sb := bs.map fun b => (2 * p + b.1, b.2.1)
      vx.putElems w f.d true codes fun u => u.setReg d1 (setElems 8 scales sb)) s

/-- VDQNT (R184, R169). -/
def execVdqnt (f : UnpackForm) (s : State) : Out :=
  vector (.plain (.vdqnt f) true f.g []) (fun vx =>
    let k := vx.k
    let p := f.p.toNat
    let w := f.src.width
    let va := k.vu.reg f.a.toNat
    let scales := k.vu.reg (f.a.toNat + 1)
    vx.put k f.g f.d true fun i =>
      let q := lane w va (64 * p + i)
      let rd := k.bankLo.rnd i
      match f.src.spec with
      | none => sF32.fma rd (sF16.decode (lane 16 scales 0)) (.ofInt (q : Nat)) (sF16.decode (lane 16 scales 1))
      | some sp =>
        let sb := lane 8 scales (2 * p + i / 32)
        let v := sp.decode q
        if sb = 0xFF ∨ v.isNan then sF32.nanCode
        else sF32.convert rd false (v.mul (.ex false 1 ((sb : Int) - 127)))) s

end Sys2Proof.Machine
end

