-- ==== Sys2Proof/Machine/MapCore.lean ====
section
/-! DEFINITION. Maps (R109–R120): the descriptor, hashing, buckets, arenas, and searching, placing and removing
entries. -/

namespace Sys2Proof.Machine

/-! ## The descriptor (R109, R110) -/

/-- A map descriptor's fields: key bytes, identity hashing, value kind, row format, level and split pointer. -/
structure MapDesc where
  split : Bool
  nogrow : Bool
  gstop : Bool
  key : Nat
  identity : Bool
  vals : Nat
  l : Nat
  s : Nat
  lmax : Nat
  thresh : Nat
  seed : W
  bbase : Nat
  obase : Nat
  ocap : Nat
  rbase : Nat
  rcap : Nat
  rsize : Nat
  hotok : Bool
  deriving DecidableEq, Repr

/-- The fields of a map descriptor, unless a check of R110 fails. -/
def map? (d : Nat) : Option MapDesc :=
  let fl := dfield d 1 1
  let keys := dfield d 4 1
  let m : MapDesc :=
    { split := bitOf fl 0, nogrow := bitOf fl 1, gstop := bitOf fl 2, key := 4 * 2 ^ (keys % 4),
      identity := bitOf keys 2, vals := dfield d 5 1, l := dfield d 7 1, s := dfield d 24 4, lmax := dfield d 28 1,
      thresh := dfield d 30 2, seed := w64 (dfield d 8 8), bbase := dfield d 16 8, obase := dfield d 32 8,
      ocap := dfield d 40 4, rbase := dfield d 48 8, rcap := dfield d 56 4, rsize := dfield d 60 2,
      hotok := bitOf (dfield d 62 1) 0 }
  let bad := fun (a : Nat) => a % 256 != 0 || decide (2 ^ 56 ≤ a)
  if bitsOf d 31 28 ≠ 0 ∨ 8 ≤ fl ∨ keys % 4 = 3 ∨ 8 ≤ keys ∨ 4 < m.vals then none
  else if m.lmax < m.l ∨ 31 < m.lmax ∨ 2 ^ m.l ≤ m.s ∨ dfield d 29 1 ≠ 0 ∨ m.thresh = 0 then none
  else if bad m.bbase || bad m.obase || bad m.rbase then none
  else if m.ocap = 1 ∨ (m.ocap = 0 ∧ m.obase ≠ 0) ∨ dfield d 44 4 ≠ 0 ∨ 2 ≤ dfield d 62 1 ∨ dfield d 63 1 ≠ 0 then none
  else if m.vals = 4 then
    if 4 < dfield d 6 1 ∨ m.rcap < 2 ∨ m.rsize = 0 ∨ m.rsize % 32 ≠ 0 ∨ 2048 < m.rsize then none else some m
  else if dfield d 6 1 ≠ 0 ∨ m.rbase ≠ 0 ∨ m.rcap ≠ 0 ∨ m.rsize ≠ 0 ∨ m.hotok then none
  else some m

/-- Bytes of a value in its slot: 0, 4, 8, 16, or the 4-byte row index (R115). -/
def MapDesc.vbytes (d : MapDesc) : Nat :=
  match d.vals with
  | 0 => 0
  | 2 => 8
  | 3 => 16
  | _ => 4

/-- Bytes of a slot (R115). -/
def MapDesc.sbytes (d : MapDesc) : Nat := d.key + d.vbytes
/-- Slots of a bucket (R115). -/
def MapDesc.slots (d : MapDesc) : Nat := 240 / (d.sbytes + 1)
/-- Whether the map is row-valued. -/
def MapDesc.rows (d : MapDesc) : Bool := d.vals == 4
/-- X registers of a key, and of a value (R126). -/
def xWords (bytes : Nat) : Nat := (bytes + 7) / 8
/-- Vector registers of a key or value (R134). -/
def vWords (bytes : Nat) : Nat := bytes / 4

/-- The hash of a key (R112). -/
def MapDesc.hash (d : MapDesc) (key : Nat) : Nat :=
  let lo := w64 (key % 2 ^ 64) ^^^ d.seed
  let hi := w64 (key / 2 ^ 64)
  (if d.identity then lo ^^^ hi
   else if d.key = 16 then mix64 (mix64 lo ^^^ hi)
   else mix64 lo).toNat

/-- The bucket of a hash for a level and split pointer (R113). -/
def bucketOf (h l s : Nat) : Nat := if h % 2 ^ l < s then h % 2 ^ (l + 1) else h % 2 ^ l

/-- The fingerprint of a hash (R113). -/
def fingerprint (h : Nat) : Nat := (h ^^^ (h / 2 ^ 56)) % 256

/-- The one number that names a map in hot marks and replicas: its slot, and its handle with the generation. -/
def MapRef.id (m : MapRef) : Nat := m.slot * 2 ^ 32 + m.handle

/-! ## A map unit's work in one step (R120) -/

/-- Why a map unit stops without effect: a failure that is reported, or a wait. -/
inductive Stop where
  | fail (t : Trap)
  | wait (s : State)
  deriving DecidableEq, Repr

/-- What a map unit works on: the state, the map, its descriptor, the bytes written so far (newest first), which
reach memory together at the end, the row written as a tile access (R139), and the row that MREPL marks. -/
structure Arena where
  s : State
  m : MapRef
  d : MapDesc
  writes : List (Nat × List Byte)
  tile : List (Nat × Nat × List Byte)
  hot : List (Nat × Nat)
  deriving DecidableEq, Repr

/-- A map unit's work: no effect when it stops. -/
abbrev AM := StateT Arena (Except Stop)

/-- A byte of memory as the work sees it. -/
def Arena.byte (a : Arena) (pa : Nat) : Byte :=
  match a.writes.find? fun w => decide (w.1 ≤ pa) && decide (pa < w.1 + w.2.length) with
  | some w => w.2.getD (pa - w.1) 0
  | none => a.s.byteNow pa

/-- Stops. -/
def AM.stop {α : Type} (x : Stop) : AM α := fun _ => .error x

/-- Translates an arena address: every leaf needs V and W, not U (R120). -/
def arenaPa (va : Nat) : AM Nat := fun a =>
  match a.s.engineTranslate a.m.core a.m.asid a.m.root false true va with
  | .ok pa s => .ok (pa, { a with s := s })
  | .np => .error (.fail ⟨cPAGENP, w64 va⟩)
  | .prot => .error (.fail ⟨cPAGEPROT, w64 va⟩)
  | .wait s => .error (.wait s)

/-- Waits until bytes of a line may be used; its home allocates the line (R36). -/
def arenaReady (pa n : Nat) (write : Bool) : AM Unit := fun a =>
  match a.s.readyHome [(pa, n)] write with
  | .ok => .ok ((), a)
  | .wait s => .error (.wait s)

/-- The parts of a range of addresses that lie in one line each: address and length. -/
def linePieces : Nat → Nat → Nat → List (Nat × Nat)
  | 0, _, _ => []
  | fuel + 1, va, n =>
    if n = 0 then []
    else
      let m := Nat.min n (256 - va % 256)
      (va, m) :: linePieces fuel (va + m) (n - m)

/-- The physical parts of `n` bytes from an arena address: va, pa and length. -/
def arenaParts (va n : Nat) : AM (List (Nat × Nat × Nat)) :=
  (linePieces (n / 256 + 2) va n).mapM fun p => do return (p.1, ← arenaPa p.1, p.2)

/-- A failure at the first byte, if any, that is poisoned: byte `q` of the part of an arena (R43). -/
def arenaSound (p : Nat × Nat × Nat) (q : Option Nat) : AM Unit :=
  match q with
  | some q => AM.stop (.fail ⟨cPOISON, w64 (p.1 + (q - p.2.1))⟩)
  | none => return ()

/-- Reads bytes of one part; a poisoned byte is reported with its address. -/
def readPart (p : Nat × Nat × Nat) : AM (List Byte) := do
  arenaReady p.2.1 p.2.2 false
  let a ← get
  arenaSound p (a.s.firstBad p.2.1 p.2.2)
  return (rangeFrom p.2.1 p.2.2).map a.byte

/-- Reads `n` bytes of an arena. -/
def arenaRead (va n : Nat) : AM (List Byte) := do
  let ps ← arenaParts va n
  let bs ← ps.mapM readPart
  return bs.flatten

/-- Writes bytes of an arena. A poisoned granule covered in part cannot be merged into (R43): it is reported like a
poisoned byte read, before anything is written. -/
def arenaWrite (va : Nat) (bytes : List Byte) : AM Unit := do
  let ps ← arenaParts va bytes.length
  for p in ps do
    arenaReady p.2.1 p.2.2 true
    let a ← get
    arenaSound p ((a.s.mergeBad p.2.1 p.2.2).head?.map fun g => Nat.max (64 * g) p.2.1)
    modify fun a => { a with writes := (p.2.1, (bytes.drop (p.1 - va)).take p.2.2) :: a.writes }

/-- Writes a row as a tile access (R139). -/
def arenaTile (va : Nat) (bytes : List Byte) : AM Unit := do
  let ps ← arenaParts va bytes.length
  for p in ps do
    arenaReady p.2.1 p.2.2 true
  modify fun a => { a with tile := ps.map fun p => (p.1, p.2.1, (bytes.drop (p.1 - va)).take p.2.2) }

/-- Everything written reaches memory, for requests of core `c`. -/
def Arena.commit (a : Arena) (c : Nat) : State :=
  let s := a.writes.reverse.foldl (fun s w => s.engineWrite w.1 w.2) a.s
  if a.tile.isEmpty then s else s.homeTileWrite c a.tile

/-- Goes back to an earlier point. -/
def arenaUndo (a : Arena) : AM Unit := modify fun b => { a with s := b.s }

/-! ## Buckets (R114, R115) -/

/-- A bucket read: its address and bytes. -/
structure Bkt where
  va : Nat
  idx : Nat
  b : List Byte
  deriving DecidableEq, Repr

/-- A field of a bucket. -/
def Bkt.num (k : Bkt) (o n : Nat) : Nat := leNat ((k.b.drop o).take n)
/-- Replaces bytes of a bucket. -/
def Bkt.put (k : Bkt) (o : Nat) (bytes : List Byte) : Bkt := { k with b := k.b.take o ++ bytes ++ k.b.drop (o + bytes.length) }
/-- OCC. -/
def Bkt.occ (k : Bkt) : Nat := k.num 0 8
/-- LVL. -/
def Bkt.lvl (k : Bkt) : Nat := k.num 8 1
/-- BFL. -/
def Bkt.bfl (k : Bkt) : Nat := k.num 9 1
/-- LOCK. -/
def Bkt.locked (k : Bkt) : Bool := bitOf k.bfl 0
/-- COUNT. -/
def Bkt.count (k : Bkt) : Nat := k.num 10 2
/-- OVFL when HASOVF is set, else 0. -/
def Bkt.ovfl (k : Bkt) : Nat := if bitOf k.bfl 2 then k.num 12 4 else 0
/-- Sets COUNT. -/
def Bkt.setCount (k : Bkt) (n : Nat) : Bkt := k.put 10 (leBytes 2 n)
/-- Links to an overflow bucket; 0 ends the chain. -/
def Bkt.link (k : Bkt) (n : Nat) : Bkt :=
  (k.put 9 [BitVec.ofNat 8 (if n = 0 then maskClear k.bfl 4 else k.bfl ||| 4)]).put 12 (leBytes 4 n)
/-- The key in slot i. -/
def Bkt.key (k : Bkt) (d : MapDesc) (i : Nat) : Nat := k.num (16 + d.slots + i * d.sbytes) d.key
/-- The value in slot i. -/
def Bkt.val (k : Bkt) (d : MapDesc) (i : Nat) : Nat := k.num (16 + d.slots + i * d.sbytes + d.key) d.vbytes
/-- Whether slot i holds an entry. -/
def Bkt.has (k : Bkt) (i : Nat) : Bool := bitOf k.occ i
/-- Fills slot i. -/
def Bkt.fill (k : Bkt) (d : MapDesc) (i f key val : Nat) : Bkt :=
  ((k.put 0 (leBytes 8 (maskSet k.occ i))).put (16 + i) [BitVec.ofNat 8 f]).put (16 + d.slots + i * d.sbytes)
    (leBytes d.key key ++ leBytes d.vbytes val)
/-- Replaces the value in slot i. -/
def Bkt.setVal (k : Bkt) (d : MapDesc) (i val : Nat) : Bkt :=
  k.put (16 + d.slots + i * d.sbytes + d.key) (leBytes d.vbytes val)
/-- Zeroes slot i with its fingerprint. -/
def Bkt.clear (k : Bkt) (d : MapDesc) (i : Nat) : Bkt :=
  ((k.put 0 (leBytes 8 (maskClear k.occ (2 ^ i)))).put (16 + i) [0#8]).put (16 + d.slots + i * d.sbytes)
    (List.replicate d.sbytes 0)
/-- The lowest free slot. -/
def Bkt.free? (k : Bkt) (d : MapDesc) : Option Nat := (List.range d.slots).find? fun i => !k.has i
/-- Slots that hold entries, ascending. -/
def Bkt.entries (k : Bkt) (d : MapDesc) : List Nat := (List.range d.slots).filter k.has

/-- The bytes of an empty bucket. -/
def emptyBucket : List Byte := List.replicate 256 0

/-- Address of primary bucket b (R114). -/
def MapDesc.bucketVa (d : MapDesc) (b : Nat) : Nat := d.bbase + 256 * b
/-- Address of overflow bucket n. -/
def MapDesc.ovflVa (d : MapDesc) (n : Nat) : Nat := d.obase + 256 * n

/-- An index that the bytes of an arena of `cap` buckets or rows hold. DESIGN CHOICE (assumption 90): one at or beyond the
capacity, which only software that breaks R120 can have put there, is taken modulo the capacity, so that no access leaves
the arena (R3). -/
def arenaIndex (cap n : Nat) : Nat := n % cap

/-- Reads a bucket. -/
def readBkt (va idx : Nat) : AM Bkt := do return { va := va, idx := idx, b := ← arenaRead va 256 }

/-- Writes a bucket. -/
def writeBkt (k : Bkt) : AM Unit := arenaWrite k.va k.b

/-- The slot of a bucket that holds a key (R116). -/
def Bkt.slotOf (k : Bkt) (d : MapDesc) (f key : Nat) : Option Nat :=
  (List.range d.slots).find? fun i => k.has i && k.num (16 + i) 1 == f && k.key d i == key

/-- The overflow buckets from number n on, in link order, up to the first at which `stop` holds. -/
def readLinks (stop : Bkt → Bool) : Nat → Nat → AM (List Bkt)
  | 0, _ => return []
  | fuel + 1, n => do
    let a ← get
    let i := arenaIndex a.d.ocap n
    if i = 0 then return []
    let k ← readBkt (a.d.ovflVa i) i
    if stop k then return [k]
    return k :: (← readLinks stop fuel k.ovfl)

/-- A primary bucket's chain, read up to the first bucket at which `stop` holds (R116). -/
def readUntil (stop : Bkt → Bool) (b : Nat) : AM (List Bkt) := do
  let a ← get
  let k ← readBkt (a.d.bucketVa b) 0
  if stop k then return [k]
  return k :: (← readLinks stop a.d.ocap k.ovfl)

/-- A primary bucket's whole chain (R116). -/
def readChain (b : Nat) : AM (List Bkt) := readUntil (fun _ => false) b

/-- Searches a chain: position in the chain and slot (R116). -/
def findEntry (d : MapDesc) (f key : Nat) (chain : List Bkt) : Option (Nat × Nat) :=
  chain.zipIdx.findSome? fun (k, j) => (k.slotOf d f key).map fun i => (j, i)

/-- The bucket at a position of a chain. -/
def bktAt (chain : List Bkt) (j : Nat) : Bkt := chain.getD j { va := 0, idx := 0, b := emptyBucket }

/-! ## Arenas (R117, R118) -/

/-- Allocates a bucket or row, zeroed; none when none can be had (R117). -/
def arenaAlloc (base cap size : Nat) : AM (Option Nat) := do
  if cap = 0 then return none
  let h ← arenaRead base 8
  let free := arenaIndex cap (leNat (h.take 4))
  let next := leNat (h.drop 4)
  if free ≠ 0 then
    let link ← arenaRead (base + free * size + 12) 4
    arenaWrite base link
    arenaWrite (base + free * size) (List.replicate size 0)
    return some free
  else if next < cap then
    arenaWrite (base + 4) (leBytes 4 (next + 1))
    arenaWrite (base + next * size) (List.replicate size 0)
    return some next
  else return none

/-- Frees a bucket or row (R117). -/
def arenaFree (base size n : Nat) : AM Unit := do
  let h ← arenaRead base 4
  arenaWrite (base + n * size) (List.replicate 12 0 ++ h ++ List.replicate (size - 16) 0)
  arenaWrite base (leBytes 4 n)

/-! ## Placing and removing (R116, R119) -/

/-- Writes an entry into a chain that is not full, or else links the bucket `grab` yields; false when it yields none.
The answer is the chain afterwards. -/
def placeIn (grab : AM (Option Nat)) (chain : List Bkt) (f key val : Nat) : AM (Option (List Bkt)) := do
  let a ← get
  let d := a.d
  let total := (bktAt chain 0).count + 1
  match chain.zipIdx.findSome? fun (k, j) => (k.free? d).map fun i => (j, i) with
  | some (j, i) =>
    let k := (bktAt chain j).fill d i f key val
    let k := if j = 0 then k else k.setCount (k.count + 1)
    let chain := chain.set j k
    return some (chain.set 0 ((bktAt chain 0).setCount total))
  | none =>
    match ← grab with
    | none => return none
    | some n =>
      let fresh : Bkt := { va := d.ovflVa n, idx := n, b := emptyBucket }
      let last := chain.length - 1
      let chain := chain.set last ((bktAt chain last).link n) ++ [(fresh.fill d 0 f key val).setCount 1]
      return some (chain.set 0 ((bktAt chain 0).setCount total))

/-- Writes the buckets of a chain that changed. -/
def writeChain (old new : List Bkt) : AM Unit :=
  for k in new do
    if !old.contains k then writeBkt k

/-- Places a new entry with its row, if the map has rows; false when it cannot, with nothing allocated (R116, R119).
The answer names the row, and tells whether the chain's COUNT is above THRESH (R121 step 1). -/
def place (chain : List Bkt) (h key val : Nat) : AM (Option (Nat × Bool)) := do
  let a ← get
  let d := a.d
  let row ← if d.rows then arenaAlloc d.rbase d.rcap d.rsize else pure (some val)
  match row with
  | none => return none
  | some v =>
    match ← placeIn (arenaAlloc d.obase d.ocap 256) chain (fingerprint h) key v with
    | none => do arenaUndo a; return none
    | some new =>
      writeChain chain new
      return some (v, decide (d.thresh < (bktAt new 0).count))

/-- Unlinks the bucket at position j of a chain and frees it when it is an empty overflow bucket. -/
def tidyBucket (chain : List Bkt) (j : Nat) : AM (List Bkt × List Nat) := do
  let k := bktAt chain j
  if j ≠ 0 && k.occ == 0 then
    let chain := chain.set (j - 1) ((bktAt chain (j - 1)).link k.ovfl)
    return (chain.eraseIdx j, [k.idx])
  else return (chain, [])

/-- Removes the entry at a position of a chain, with its row (R116, R119). -/
def removeEntry (chain : List Bkt) (j i : Nat) : AM Unit := do
  let a ← get
  let d := a.d
  let row := (bktAt chain j).val d i
  let k := (bktAt chain j).clear d i
  let k := if j = 0 then k else k.setCount (k.count - 1)
  let new := chain.set j k
  let new := new.set 0 ((bktAt new 0).setCount ((bktAt new 0).count - 1))
  let (new, gone) ← tidyBucket new j
  writeChain chain new
  for n in gone do arenaFree d.obase 256 n
  if d.rows then arenaFree d.rbase d.rsize (arenaIndex d.rcap row)

/-- combine(op, old, x) on elements of w bits (R131). -/
def combineElem (op : MapOp) (w old x : Nat) : Nat :=
  let so := signed w old
  let sx := signed w x
  match op with
  | .add => (old + x) % 2 ^ w
  | .adds => wrap w (max (-(2 : Int) ^ (w - 1)) (min ((2 : Int) ^ (w - 1) - 1) (so + sx)))
  | .fadd => (if w = 32 then sF32 else sF64).add rne old x
  | .min => if so ≤ sx then old else x
  | .max => if sx ≤ so then old else x
  | .or => old ||| x
  | .and => old &&& x
  | .replace => x
  | .keep => old

/-- Combines a value of n bytes: one 32-bit element for 4 bytes, else 64-bit elements (R131). -/
def combineValue (op : MapOp) (n old x : Nat) : Nat :=
  if n = 4 then combineElem op 32 old x
  else ofLanes 64 ((List.range (n / 8)).map fun i => combineElem op 64 (lane 64 old i) (lane 64 x i))

/-- The register words of a value. -/
def valueWords (n v : Nat) : List Nat := (List.range (xWords n)).map fun i => lane 64 v i

end Sys2Proof.Machine
end

