-- ==== Sys2Proof/Machine/Maps.lean ====
section
/-! DEFINITION. Map requests at their homes: queueing, forwarding and execution (R122, R128–R144), hot rows and
their replicas (R142–R144). -/

namespace Sys2Proof.Machine

/-! ## Hot marks (R142, R143) -/

/-- The replica slice on die e of a bucket home (R143). -/
def replicaSlice (h e : Nat) : Nat := (clusterY h % 8 + 8 * (e / 2)) * 16 + clusterX h % 8 + 8 * (e % 2)

/-- The dies that may hold a replica of a key homed at a slice. -/
def replicaDies (h : Nat) : List Nat := (List.range 4).filter (· != dieOfCluster h)

/-- A key's mark at its home. -/
def State.mark? (s : State) (h map key : Nat) : Option HotMark := (s.slice h).marks.find? fun x => x.map == map && x.key == key

/-- Changes a key's mark. -/
def State.onMark (s : State) (h map key : Nat) (f : HotMark → HotMark) : State :=
  let x := s.slice h
  s.setSlice h { x with marks := x.marks.map fun k => if k.map == map && k.key == key then f k else k }

/-- Drops a key's mark. -/
def State.dropMark (s : State) (h map key : Nat) : State :=
  let x := s.slice h
  s.setSlice h { x with marks := x.marks.filter fun k => !(k.map == map && k.key == key) }

/-- Sends the row to every replica slice that neither holds nor is being sent it, unless an update of it executes
(R143). A row with a poisoned byte is not sent. -/
def State.fillReplicas (s : State) (h map key : Nat) : State :=
  match s.mark? h map key with
  | none => s
  | some k =>
    let bad := k.row.any fun r => (s.firstBad r.1 r.2).isSome
    if k.busy || bad then s
    else
      let dies := (replicaDies h).filter fun e => !(k.dies.contains e || k.filling.contains e)
      let bytes := k.row.flatMap fun r => s.bytesNow r.1 r.2
      let s := dies.foldl (fun s e => s.send (.slice h) (.slice (replicaSlice h e)) .bulk (.repFill map key k.ver bytes)) s
      s.onMark h map key fun k => { k with filling := k.filling ++ dies }

/-- An update of a hot key begins: its version moves on, and every replica slice is sent an invalidation (R143).
Acknowledgements that an update which failed still owes come before those of this one, and are waited for too. -/
def State.withdraw (s : State) (h map key : Nat) : State :=
  let s := (replicaDies h).foldl (fun s e => s.send (.slice h) (.slice (replicaSlice h e)) .request (.repInval map key)) s
  s.onMark h map key fun k =>
    { k with ver := (k.ver + 1) % 2 ^ 64, dies := [], filling := [], busy := true, acks := k.acks + (replicaDies h).length }

/-! ## Executing at the bucket (R129–R142) -/

/-- A lane's answer without failure. -/
def ansOf (lane code : Nat) (vals : List Nat) : LaneAns := { lane := lane, code := code, vals := vals, fail := none }

/-- Codes of R124: HIT or OK, MISS, EXISTS, FULL. -/
def mOK : Nat := 0
/-- MISS. -/
def mMISS : Nat := 1
/-- EXISTS. -/
def mEXISTS : Nat := 2
/-- FULL. -/
def mFULL : Nat := 3
/-- NOMAP. -/
def mNOMAP : Nat := 4

/-- Row r's address. -/
def MapDesc.rowVa (d : MapDesc) (r : Nat) : Nat := d.rbase + arenaIndex d.rcap r * d.rsize

/-- MSCAN's records of a chain, in search order (R140). -/
def scanRecords (d : MapDesc) (chain : List Bkt) : List (List Byte) :=
  chain.flatMap fun k => (k.entries d).map fun i => leBytes d.key (k.key d i) ++ leBytes d.vbytes (k.val d i)

/-- One lane of an operation on its bucket: its answer, and whether it leaves the chain's COUNT above THRESH by a
placement. -/
def mapLane (h : Nat) (m : MapReq) (lane x : Nat) : AM (LaneAns × Bool) := do
  let a ← get
  let d := a.d
  let scans := match m.kind with | .scan .. => true | _ => false
  let chain ← readUntil (fun k => !scans && (k.slotOf d (fingerprint m.hash) m.key).isSome) m.bucket
  let e := findEntry d (fingerprint m.hash) m.key chain
  let val := match e with | some (j, i) => (bktAt chain j).val d i | none => 0
  let zeros := valueWords d.vbytes 0
  let put := fun (j i v : Nat) => writeBkt ((bktAt chain j).setVal d i v)
  match m.kind, e with
  | .probe, some _ => return (ansOf lane mOK (valueWords d.vbytes val), false)
  | .probe, none => return (ansOf lane mMISS zeros, false)
  | .insert, some _ => return (ansOf lane mEXISTS [], false)
  | .insert, none =>
    match ← place chain m.hash m.key x with
    | none => return (ansOf lane mFULL [], false)
    | some (_, g) => return (ansOf lane mOK [], g)
  | .upsert op, some (j, i) => do
    put j i (combineValue op d.vbytes val x)
    return (ansOf lane mOK [], false)
  | .upsert _, none =>
    match ← place chain m.hash m.key x with
    | none => return (ansOf lane mFULL [], false)
    | some (_, g) => return (ansOf lane mOK [], g)
  | .remove, some (j, i) => do
    removeEntry chain j i
    return (ansOf lane mOK (if d.rows then zeros else valueWords d.vbytes val), false)
  | .remove, none => return (ansOf lane mMISS zeros, false)
  | .cas, some (j, i) =>
    if val = x % 256 ^ d.vbytes then do
      put j i (x / 256 ^ d.vbytes)
      return (ansOf lane mOK (valueWords d.vbytes val), false)
    else return (ansOf lane mEXISTS (valueWords d.vbytes val), false)
  | .cas, none => return (ansOf lane mMISS zeros, false)
  | .rowGet _, some _ => do
    let bytes ← arenaRead (d.rowVa val) d.rsize
    return (ansOf lane mOK (bytes.map BitVec.toNat), false)
  | .rowGet _, none => return (ansOf lane mMISS (List.replicate d.rsize 0), false)
  | .rowPut bytes, some _ => do
    arenaTile (d.rowVa val) bytes
    return (ansOf lane mOK [], false)
  | .rowPut bytes, none =>
    match ← place chain m.hash m.key 0 with
    | none => return (ansOf lane mFULL [], false)
    | some (row, g) => do
      arenaTile (d.rowVa row) bytes
      return (ansOf lane mOK [], g)
  | .scan _ skip _ cap, _ =>
    let list := (scanRecords d chain).drop skip
    let n := Nat.min cap list.length
    return (ansOf lane (if n < list.length then mFULL else mOK) (n :: (list.take n).flatten.map BitVec.toNat), false)
  | .repl _, none => return (ansOf lane mMISS [], false)
  | .repl false, some _ => return (ansOf lane mOK [], false)
  | .repl true, some _ =>
    if (a.s.mark? h m.map.id m.key).isSome then return (ansOf lane mOK [], false)
    else if Config.hotMarks ≤ (a.s.slice h).marks.length then return (ansOf lane mFULL [], false)
    else do
      let ps ← arenaParts (d.rowVa val) d.rsize
      for p in ps do arenaReady p.2.1 p.2.2 false
      modify fun a => { a with hot := ps.map (·.2) }
      return (ansOf lane mOK [], false)
  | .stat _, _ => return (ansOf lane mMISS [0], false)

/-- The lanes of a request in turn; a lane that fails is not performed, and the others are (R136, R370). -/
def mapLanes (h : Nat) (m : MapReq) : List (Nat × Nat) → AM (List LaneAns × Bool)
  | [] => return ([], false)
  | (lane, x) :: r => fun a =>
    match (mapLane h m lane x).run a with
    | .error (.wait s) => .error (.wait s)
    | .error (.fail t) =>
      match (mapLanes h m r).run a with
      | .error e => .error e
      | .ok ((l, g), a) => .ok (({ lane := lane, code := mMISS, vals := [], fail := some t } :: l, g), a)
    | .ok ((ans, g), a) =>
      match (mapLanes h m r).run a with
      | .error e => .error e
      | .ok ((l, g'), a) => .ok ((ans :: l, g || g'), a)

/-- Whether an operation updates or withdraws a hot key, and so withdraws its replicas first (R143). -/
def MapKind.withdraws (k : MapKind) : Bool :=
  match k with
  | .remove | .rowPut _ | .repl false => true
  | _ => false

/-- What a request at its bucket comes to. -/
inductive MapRes where
  | reply (ans : List LaneAns) (grow : Bool)
  | park (pa : Nat)
  | forward (bucket pa : Nat)
  deriving DecidableEq, Repr

/-- A request at its bucket (R122): behind LOCK, forwarded by local level, or executed. `ahead` tells whether
earlier requests queue at the bucket. A level above LMAX, which only software that breaks R120 can have written, counts as
LMAX (assumption 90). -/
def mapAtBucket (h : Nat) (m : MapReq) (ahead : Nat → Bool) : AM MapRes := do
  let a ← get
  let pa ← arenaPa (a.d.bucketVa m.bucket)
  if ahead pa then return .park pa
  let k ← readBkt (a.d.bucketVa m.bucket) 0
  if k.locked then return .park pa
  let b := m.hash % 2 ^ Nat.min k.lvl a.d.lmax
  let scans := match m.kind with | .scan .. => true | _ => false
  if !scans && b != m.bucket then return .forward b (← arenaPa (a.d.bucketVa b))
  let (ans, g) ← mapLanes h m m.lanes
  return .reply ans g

/-- The descriptor as its home or a map unit reads it, with the checks of R57 and R110. -/
def State.mapAt (s : State) (m : MapRef) : Except Stop MapDesc :=
  match s.ready [(m.slot, 64)] false with
  | .wait s => .error (.wait s)
  | .ok =>
    let d := leNat (s.bytesNow m.slot 64)
    if s.bad (m.slot / 64) then .error (.fail ⟨cPOISON, w64 (slotVa (s.core m.core).regs.dtab (bitsOf m.handle 31 12))⟩)
    else if bitsOf d 27 16 ≠ m.handle % 2 ^ 12 ∨ bitsOf d 7 0 ≠ 1 then .error (.fail ⟨cHANDLE, w64 m.handle⟩)
    else
      match map? d with
      | none => .error (.fail ⟨cHANDLE, w64 m.handle⟩)
      | some x => .ok x

/-- Runs a map unit's work on a map. -/
def State.mapRun {α : Type} (s : State) (m : MapRef) (f : AM α) : Except Stop (α × Arena) :=
  match s.mapAt m with
  | .error e => .error e
  | .ok d => f.run { s := s, m := m, d := d, writes := [], tile := [], hot := [] }

/-- Sends a request's answers to its core. -/
def State.mapAnswer (s : State) (h : Nat) (m : MapReq) (ans : List LaneAns) (lvl : Option (Nat × Nat)) : State :=
  s.send (.slice h) (.core m.req.core) .reply (.mapReply m.req.hi m.vec m.hops ans lvl)

/-- A failure of every lane of a request. -/
def MapReq.failed (m : MapReq) (t : Trap) : List LaneAns :=
  m.lanes.map fun l => { lane := l.1, code := mMISS, vals := [], fail := some t }

/-- What an executed operation does to its key's mark (R142, R143). -/
def State.afterMap (s : State) (h : Nat) (m : MapReq) (hot : List (Nat × Nat)) : State :=
  let id := m.map.id
  match m.kind with
  | .remove | .repl false => s.dropMark h id m.key
  | .rowPut _ => (s.onMark h id m.key fun k => { k with busy := false }).fillReplicas h id m.key
  | .repl true =>
    if hot.isEmpty then s
    else
      let x := s.slice h
      let k : HotMark :=
        { map := id, key := m.key, row := hot, ver := s.tick % 2 ^ 64, dies := [], filling := [], busy := false, acks := 0 }
      (s.setSlice h { x with marks := x.marks ++ [k] }).fillReplicas h id m.key
  | _ => s

/-- What happens to a request: it is over, waits where it is, or queues at a bucket. -/
inductive MapStep where
  | over (s : State)
  | stay (s : State)
  | queue (s : State) (pa : Nat)
  deriving DecidableEq, Repr

/-- A request handled at its bucket's home; `s` is the state without its packet. -/
def State.mapTry (s : State) (h : Nat) (m : MapReq) (ahead : Nat → Bool) : MapStep :=
  let id := m.map.id
  let mark := s.mark? h id m.key
  match s.mapRun m.map (mapAtBucket h m ahead) with
  | .error (.wait s) => .stay s
  | .error (.fail t) =>
    let s := if m.kind.withdraws then (s.onMark h id m.key fun k => { k with busy := false }).fillReplicas h id m.key else s
    .over (s.mapAnswer h m (m.failed t) none)
  | .ok (.park pa, a) => .queue a.s pa
  | .ok (.forward b pa, a) =>
    .over (a.s.send (.slice h) (.slice (homeOf pa)) .request (.mapReq { m with bucket := b, hops := m.hops + 1 }))
  | .ok (.reply ans grow, a) =>
    match mark, m.kind.withdraws with
    | some k, true =>
      if !k.busy then
        match s.engineTranslate m.map.core m.map.asid m.map.root false true (a.d.bucketVa m.bucket) with
        | .ok pa s => .queue (s.withdraw h id m.key) pa
        | _ => .stay s
      else if k.acks ≠ 0 then .stay s
      else .over (((a.commit m.req.core).afterMap h m a.hot).mapAnswer h m ans none)
    | _, _ =>
      let s := ((a.commit m.req.core).afterMap h m a.hot).mapAnswer h m ans none
      .over (if grow then s.send (.slice h) (.slice (homeOf m.map.slot)) .request (.growth m.map) else s)

/-! ## MSCAN at the descriptor home, and MSTAT (R140, R141) -/

/-- MSCAN's first stop: MISS beyond the last bucket, else on to its bucket. -/
def State.scanStop (s : State) (h : Nat) (m : MapReq) : MapStep :=
  match s.mapRun m.map (do
      let a ← get
      if 2 ^ a.d.l + a.d.s ≤ m.bucket then return none
      return some (← arenaPa (a.d.bucketVa m.bucket))) with
  | .error (.wait s) => .stay s
  | .error (.fail t) => .over (s.mapAnswer h m (m.failed t) none)
  | .ok (none, a) => .over (a.s.mapAnswer h m [ansOf 0 mMISS [0]] none)
  | .ok (some pa, a) => .over (a.s.send (.slice h) (.slice (homeOf pa)) .request (.mapReq { m with first := false }))

/-- MSTAT's item at its home. -/
def State.statStop (s : State) (h : Nat) (m : MapReq) (item : Nat) : MapStep :=
  match s.mapRun m.map (do
      let a ← get
      let d := a.d
      if item = 0 then
        return (d.s + d.l * 2 ^ 32 + (b2n d.split + 2 * b2n d.nogrow + 4 * b2n d.gstop) * 2 ^ 40, some (d.l, d.s))
      else return (leNat (← arenaRead (if item = 1 then d.obase else d.rbase) 8), none)) with
  | .error (.wait s) => .stay s
  | .error (.fail t) => .over (s.mapAnswer h m (m.failed t) none)
  | .ok ((v, lvl), a) => .over (a.s.mapAnswer h m [ansOf 0 mOK [v]] lvl)

/-! ## Events at homes -/

/-- MAP_REQUEST_ARRIVAL (R122): also MSCAN's stop at the descriptor home (R140) and MSTAT (R141). -/
def execMapRequestArrival (k : Nat) (s : State) : Out :=
  waitingStep k (fun p s =>
    match p.dst, p.body with
    | .slice h, .mapReq m =>
      let take := fun (r : MapStep) => match r with
        | .over s => Take.did s
        | .stay s => .wait s
        | .queue s pa => .did { s with parked := s.parked ++ [{ pkt := p, bucket := some pa }] }
      match m.kind, m.first with
      | .stat item, _ => take (s.statStop h m item)
      | .rowGet _, true => .no
      | .scan .., true => take (s.scanStop h m)
      | _, _ => take (s.mapTry h m fun pa => s.parked.any (·.bucket == some pa))
    | _, _ => .no) s

/-- MAP_QUEUED_EXECUTE (R122): the request at index k of those that wait, first in its bucket's queue. -/
def execMapQueuedExecute (k : Nat) (s : State) : Out :=
  match s.parked[k]? with
  | some { pkt := p, bucket := some q } =>
    if (s.parked.take k).any (·.bucket == some q) then .next s
    else
      match p.dst, p.body with
      | .slice h, .mapReq m =>
        match { s with parked := s.parked.eraseIdx k }.mapTry h m fun _ => false with
        | .over s' => .next s'
        | .stay s' => .next { s' with parked := s.parked }
        | .queue s' _ => .next { s' with parked := s.parked }
      | _, _ => .next s
  | _ => .next s

/-! ## Replicas (R143, R144) -/

/-- Replaces a slice's replica of a key; none removes it. -/
def Slice.setReplica (x : Slice) (map key : Nat) (r : Option Replica) : Slice :=
  { x with replicas := (x.replicas.filter fun r => !(r.map == map && r.key == key)) ++ r.toList }

/-- REPLICA_FILL (R143): a fill arrives at a replica slice, or the home's confirmation or refusal of one. -/
def execReplicaFill (k : Nat) (s : State) : Out :=
  packetStep k (fun p s =>
    match p.dst, p.body with
    | .slice r, .repFill map key ver bytes =>
      let x := s.slice r
      let back := fun (s : State) (room : Bool) => some (s.send p.dst p.src .reply (.filled map key ver room))
      match x.replicas.find? fun e => e.map == map && e.key == key with
      | some e =>
        if ver < e.ver then back s true
        else back (s.setSlice r (x.setReplica map key (some { map := map, key := key, ver := ver, confirmed := false, bytes := bytes }))) true
      | none =>
        if Config.hotMarks ≤ x.replicas.length then back s false
        else back (s.setSlice r (x.setReplica map key (some { map := map, key := key, ver := ver, confirmed := false, bytes := bytes }))) true
    | .slice r, .repConfirm map key ver ok =>
      let x := s.slice r
      match x.replicas.find? fun e => e.map == map && e.key == key && e.ver == ver with
      | none => some s
      | some e => some (s.setSlice r (x.setReplica map key (if ok then some { e with confirmed := true } else none)))
    | _, _ => none) s

/-- FILLED_REPLY (R143): confirmed only at the key's present version; otherwise refused, and filled anew. A declined
fill leaves the row at its home, and is tried again while no replica is confirmed or being filled. -/
def execFilledReply (k : Nat) (s : State) : Out :=
  packetStep k (fun p s =>
    match p.src, p.dst, p.body with
    | .slice r, .slice h, .filled map key ver room =>
      let e := dieOfCluster r
      let answer := fun (s : State) (ok : Bool) => s.send p.dst p.src .request (.repConfirm map key ver ok)
      match s.mark? h map key with
      | none => some (answer s false)
      | some m =>
        if m.ver ≠ ver ∨ m.busy then
          let s := answer s false
          let s := if m.busy then s else s.onMark h map key fun m => { m with filling := m.filling.filter (· != e) }
          some (s.fillReplicas h map key)
        else
          let s := s.onMark h map key fun m => { m with filling := m.filling.filter (· != e) }
          if room then some (answer (s.onMark h map key fun m => { m with dies := m.dies.filter (· != e) ++ [e] }) true)
          else if m.dies.isEmpty && m.filling == [e] then some (s.fillReplicas h map key)
          else some s
    | _, _, _ => none) s

/-- REPLICA_INVALIDATE (R143). -/
def execReplicaInvalidate (k : Nat) (s : State) : Out :=
  packetStep k (fun p s =>
    match p.dst, p.body with
    | .slice r, .repInval map key =>
      some ((s.setSlice r ((s.slice r).setReplica map key none)).send p.dst p.src .reply (.invalAck map key))
    | _, _ => none) s

/-- INVALIDATE_ACK (R143): the update goes on once none is owed. If the update has failed meanwhile, the replica of this die
is gone all the same, and is filled anew. -/
def execInvalidateAck (k : Nat) (s : State) : Out :=
  packetStep k (fun p s =>
    match p.src, p.dst, p.body with
    | .slice r, .slice h, .invalAck map key =>
      let e := dieOfCluster r
      some ((s.onMark h map key fun m =>
        if m.busy then { m with acks := m.acks - 1 }
        else { m with acks := m.acks - 1, dies := m.dies.filter (· != e), filling := m.filling.filter (· != e) }).fillReplicas h map key)
    | _, _, _ => none) s

/-- REPLICA_READ (R144): an MROWGET served by a confirmed replica, or on its way to the bucket home without a hop. -/
def execReplicaRead (k : Nat) (s : State) : Out :=
  waitingStep k (fun p s =>
    match p.dst, p.body with
    | .slice r, .mapReq m =>
      match m.kind, m.first with
      | .rowGet _, true =>
        match (s.slice r).replicas.find? fun e => e.map == m.map.id && e.key == m.key && e.confirmed with
        | some e => .did (s.mapAnswer r m [ansOf 0 mOK (e.bytes.map BitVec.toNat)] none)
        | none =>
          match s.mapRun m.map (do let a ← get; arenaPa (a.d.bucketVa m.bucket)) with
          | .error (.wait s') => .wait s'
          | .error (.fail t) => .did (s.mapAnswer r m (m.failed t) none)
          | .ok (pa, a) => .did (a.s.send (.slice r) (.slice (homeOf pa)) .request (.mapReq { m with first := false }))
      | _, _ => .no
    | _, _ => .no) s

end Sys2Proof.Machine
end

