-- ==== Sys2Proof/Machine/Tasks.lean ====
section
/-! DEFINITION. Tasks, the handler table, selection and firing, the deque, stealing, launching and barrier
records (R279–R304), and active messages (R159–R163), with their arrivals. -/

namespace Sys2Proof.Machine

/-! ## Handler entries (R280, R281) -/

/-- A handler entry from its 64 bits (R280). -/
def Handler.ofW (w : W) : Handler :=
  { v := w.getLsbD 63, hi := w.getLsbD 62, prio := w.bits 61 59, cons := w.bits 58 56, prod := w.bits 55 53,
    mask := w.getLsbD 52, ch := w.bits 51 47, depth := w.bits 46 36, rmask := w.bits 30 15, pc := w.bits 14 0 }

/-- The 64 bits of a handler entry. -/
def Handler.toW (h : Handler) : W :=
  w64 (b2n h.v * 2 ^ 63 + b2n h.hi * 2 ^ 62 + h.prio * 2 ^ 59 + h.cons * 2 ^ 56 + h.prod * 2 ^ 53 + b2n h.mask * 2 ^ 52
    + h.ch * 2 ^ 47 + h.depth * 2 ^ 36 + h.rmask * 2 ^ 15 + h.pc)

/-- Handler entry `i`; index 32 is the carried-code queue (R280). -/
def Core.handler (k : Core) (i : Nat) : Handler :=
  if i = 32 then { Handler.reset with v := true, hi := true } else Tbl.getD k.sched.handlers i Handler.reset

/-- Replaces handler entry `i`. -/
def Core.setHandler (k : Core) (i : Nat) (h : Handler) : Core :=
  { k with sched := { k.sched with handlers := Tbl.put Handler.reset k.sched.handlers i h } }

/-- Whether a value may be written to entry `i` (R280). -/
def Core.handlerOk (k : Core) (i : Nat) (w : W) : Bool :=
  let h := Handler.ofW w
  if w.bits 35 31 ≠ 0 then false
  else if i = 0 then !h.hi && h.cons == 0 && h.ch == 0 && h.depth == 0 && h.pc == 0
  else if !h.v then true
  else decide (1 ≤ h.cons) && decide (h.cons ≤ 6) && decide (h.cons ≤ h.depth) && decide (h.depth ≤ 1024) &&
    (rangeFrom 1 31).all fun j => j == i || !(k.handler j).v || (k.handler j).ch != h.ch

/-- The inbox words of a channel, oldest first. -/
def Core.fifo (k : Core) (ch : Nat) : List InboxWord := k.sched.inbox.filter (·.ch == ch)

/-- Whether a multicast counter condition holds (R281). -/
def Core.slotsOk (k : Core) (h : Handler) : Bool :=
  (List.range 16).all fun j => !h.rmask.testBit j || decide (h.prod ≤ Tbl.getD k.regs.mcs j 0)

/-- A pre-emption request waits until the core has fired the ranges pushed while it held no task, while entry 0 may
fire (R355; DEDUCED, assumption 44). -/
def Core.quiesces (k : Core) : Bool :=
  let h := k.handler 0
  k.quiescing && !(k.sched.deque.any (·.firm) && h.v && !h.mask && k.slotsOk h)

/-- Whether an entry is runnable (R281). -/
def Core.runnable (k : Core) (i : Nat) : Bool :=
  let h := k.handler i
  if i = 32 then !k.sched.codeq.isEmpty
  else if i = 0 then h.v && !h.mask && (if k.quiescing then k.sched.deque.any (·.firm) else !k.sched.deque.isEmpty) && k.slotsOk h
  else h.v && !h.mask && decide (h.cons ≤ (k.fifo h.ch).length) && k.slotsOk h

/-- The runnable entries. -/
def Core.ready (k : Core) : List Nat := (List.range 33).filter k.runnable

/-- Forgets the waits of entries that are no longer runnable (R282). -/
def Core.settle (k : Core) : Core :=
  { k with sched := { k.sched with starve := k.sched.starve.filter fun e => k.runnable e.1 } }

/-- Changes a core and settles its scheduler. -/
def State.onSched (s : State) (c : Nat) (f : Core → Core) : State := s.onCore c fun k => (f k).settle

/-! ## Firing (R190, R284) -/

/-- A task as it enters: every register zero but those given. -/
def Task.enter (hi : Bool) (entry pc : Nat) (x : Tbl W) : Task :=
  { hi := hi, entry := entry, carried := false, code := [], stale := [], pc := pc, sup := false, x := x, p := [], wid := 0,
    src := 0, tpl := none, idem := none, wait := .none, fail := none, skip := false, stalled := false, late := [],
    bytewise := none, count := 0,
    service := false }

/-- A register table from numbered values, zeros not listed. -/
def regTable (l : List (Nat × W)) : Tbl W := l.foldl (fun t e => Tbl.put 0 t e.1 e.2) []

/-- A LO task enters (R190, R217): the vector/matrix unit is reset but for INC. -/
def Core.enterLo (k : Core) (t : Task) : Core := { k with lo := some t, vu := { VecUnit.reset with inc := k.vu.inc } }

/-- A HI task enters with its own copies of the banked registers (R189). -/
def Core.enterHi (k : Core) (t : Task) : Core := { k with hi := some t, bankHi := { k.bankLo with mst := 0 } }

/-- A task enters the bank of its class. -/
def Core.enter (k : Core) (t : Task) : Core := if t.hi then k.enterHi t else k.enterLo t

/-- Removes the first `n` inbox words of a channel: those words, and the rest of the inbox. -/
def takeWords (ch : Nat) : Nat → List InboxWord → List InboxWord × List InboxWord
  | 0, l => ([], l)
  | _, [] => ([], [])
  | n + 1, w :: r =>
    if w.ch = ch then
      let (a, b) := takeWords ch n r
      (w :: a, b)
    else
      let (a, b) := takeWords ch (n + 1) r
      (a, w :: b)

/-- The task of a deque range (R284). -/
def Task.ofRange (r : WRange) : Task :=
  { Task.enter false 0 r.tpl.pc (regTable [(8, r.lo), (9, r.hi), (10, r.tpl.arg0), (11, r.tpl.arg1), (16, w64 r.src)]) with
    wid := r.lo, src := r.src, tpl := some r.tpl }

/-- The task of an entry 1–31 on its words (R284). -/
def Task.ofWords (i : Nat) (h : Handler) (ws : List InboxWord) : Task :=
  let src := ((ws.map (·.src)).head?).getD 0
  { Task.enter h.hi i h.pc (regTable ([(9, w64 h.cons), (16, w64 src), (17, w64 i)] ++
      (List.range 6).map fun j => (10 + j, ((ws.map (·.w))[j]?).getD 0))) with src := src }

/-- The task of carried code (R162, R284). -/
def Task.ofCode (e : CodeEntry) : Task :=
  { Task.enter true 32 0 (regTable [(9, w64 e.halves.length), (16, w64 e.src), (17, 32)]) with
    carried := true, code := e.halves, src := e.src }

/-- Takes the newest firm range out of a deque. -/
def takeFirm : List WRange → Option (WRange × List WRange)
  | [] => none
  | r :: l =>
    match takeFirm l with
    | some (x, rest) => some (x, r :: rest)
    | none => if r.firm then some (r, l) else none

/-- The range that entry 0 fires, and the deque without it: the newest; with a pre-emption request waiting, the newest
firm one (R355). -/
def Core.nextRange (k : Core) : Option (WRange × List WRange) :=
  if k.quiescing then takeFirm k.sched.deque
  else k.sched.deque.getLast?.map fun r => (r, k.sched.deque.dropLast)

/-- Fires entry `i`: its work is taken and its task enters (R284). -/
def Core.fire (k : Core) (i : Nat) : Core :=
  let q := k.sched
  if i = 32 then
    match q.codeq with
    | [] => k
    | e :: r => { k with sched := { q with codeq := r } }.enter (Task.ofCode e)
  else if i = 0 then
    match k.nextRange with
    | none => k
    | some (r, rest) => { k with sched := { q with deque := rest } }.enter (Task.ofRange r)
  else
    let h := k.handler i
    let (ws, rest) := takeWords h.ch h.cons q.inbox
    { k with sched := { q with inbox := rest } }.enter (Task.ofWords i h ws)

/-! ## Selection (R282) -/

/-- The place of an entry in the recency order, least recent first. -/
def Sched.age (q : Sched) (i : Nat) : Nat := q.recency.findIdx (· == i)

/-- The best of candidates of one class: passed-over entries first, then PRIO, then the least recently fired. -/
def Core.best (k : Core) (c : List Nat) : Option Nat :=
  let late := c.filter fun i => decide (256 ≤ Tbl.getD k.sched.starve i 0)
  let among := if late.isEmpty then
      let top := (c.map fun i => (k.handler i).prio).foldl Nat.max 0
      c.filter fun i => (k.handler i).prio == top
    else late
  k.sched.recency.find? fun i => among.contains i

/-- Whether HI tasks are held back for the suspended LO task (R282). -/
def Core.hiBlocked (k : Core) : Bool := k.lo.isSome && decide (256 ≤ k.sched.hiRun)

/-- The entry a selection fires, if any (R282). `lo` allows LO entries. -/
def Core.choose (k : Core) (lo : Bool) : Option Nat :=
  let hi := if k.hiBlocked then [] else k.ready.filter fun i => (k.handler i).hi
  match k.best hi with
  | some i => some i
  | none => if lo then k.best (k.ready.filter fun i => !(k.handler i).hi) else none

/-- Fires an entry in a selection: the recency order, the passed-over counts, and the run of HI tasks. -/
def Core.selectFire (k : Core) (i : Nat) : Core :=
  let cls := (k.handler i).hi
  let others := k.ready.filter fun j => j != i && (k.handler j).hi == cls
  let starve := others.foldl (fun t j => Tbl.put 0 t j (Tbl.getD t j 0 + 1)) (Tbl.put 0 k.sched.starve i 0)
  let q := { k.sched with recency := k.sched.recency.filter (· != i) ++ [i], starve := starve, resel := false,
                          hiRun := if cls && k.lo.isSome then k.sched.hiRun + 1 else if cls then k.sched.hiRun else 0,
                          roundLeft := [], abandoned := k.sched.stealing, backoff := 0 }
  ({ k with sched := q }.fire i).settle

/-- Whether a core may start work of its context. -/
def Core.open (k : Core) : Bool := k.ctx.isSome && !k.stopped && !k.quiesces && !k.regs.inTrap

/-- The selection that follows when a core holds no task, or a HI task has ended (R282): a firing, or the
resumption of the suspended LO task. The task of an abort record fires first after a restore (R318); pending traps and
service calls of a core without a task come before any selection (R310, R311). -/
def Core.select (k : Core) : Core :=
  if k.hi.isSome then k
  else
    match k.lo with
    | some _ =>
      if !k.sched.resel then k
      else
        match if k.quiesces || k.stopped then none else k.choose false with
        | some i => k.selectFire i
        | none => { k with sched := { k.sched with resel := false, hiRun := if k.hiBlocked then k.sched.hiRun else 0 } }
    | none =>
      if !k.open then k
      else
        match k.abortRec with
        | some t => { k with abortRec := none }.enterLo t
        | none =>
          if !k.regs.pend.isEmpty || !k.calls.isEmpty then k
          else
            match k.choose true with
            | some i => k.selectFire i
            | none => { k with sched := { k.sched with resel := false } }

/-- TASK_SELECT (R282). -/
def execTaskSelect (c : Nat) (s : State) : Out := .next (s.onCore c Core.select)

/-- Whether a task stands at an instruction boundary of its scalar stream. -/
def Task.atBoundary (t : Task) : Bool := t.wait == .none && t.fail.isNone && !t.stalled

/-- Whether an instruction that waits inside the core, by its first 32 bits, is CWAIT, FENCE, RFENCE, or one that pops or
pushes a port (R85, R254, R283). -/
def portStall (w : Nat) : Bool :=
  let major := bitsOf w 8 2
  if bitOf w 0 then
    (decide (major ≤ 6) && bitsOf w 31 30 != 0) || (major == 0x39 && bitsOf w 31 27 == 2) || major == 0x75 || major == 0x76
  else bitsOf w 15 0 == 0x003A

/-- Whether a HI task may suspend a LO task where it stands: at a boundary, or in a stall of CWAIT, SENDW, BARW, a map reply,
a queue wait (R283), FENCE, RFENCE (R254), WAIT (R329), or SENDC, whose status comes as for SENDW (R162; DEDUCED, assumption
86). -/
def Core.suspends (k : Core) (t : Task) : Bool :=
  t.atBoundary ||
  match t.wait with
  | .none => t.fail.isNone && portStall (k.instrWord t).toNat
  | .barw _ | .map .. | .mapV .. | .cycles _ => true
  | .value .. => bitsOf (k.instrWord t).toNat 8 2 == 0x34 || bitsOf (k.instrWord t).toNat 8 2 == 0x35
  | _ => false

/-- Whether a runnable HI entry suspends the LO task where it stands (R283); no entry fires while a service call runs
(R311). -/
def Core.wantsHi (k : Core) : Bool :=
  k.hi.isNone && k.lo.any (fun t => !t.service && k.suspends t) && !k.quiesces && !k.stopped && (k.choose false).isSome

/-- HI_SUSPEND (R283): the LO task is suspended where it stands, in its stall if it stalls, and the HI task enters. -/
def execHiSuspend (c : Nat) (s : State) : Out :=
  .next (s.onCore c fun k =>
    if k.wantsHi then (match k.choose false with | some i => k.selectFire i | none => k) else k)

/-! ## DONE, IDEM, HSET, HMASK (R298–R300) -/

/-- The end of the task of a bank (R298, R190, R282). -/
def Core.endTask (k : Core) (hi : Bool) : Core :=
  if hi then { k with hi := none, sched := { k.sched with resel := k.lo.isSome } }
  else { k with lo := none, vu := { k.vu with q := [], s := [], viq := [], recording := none },
                sched := { k.sched with resel := false, hiRun := 0 } }

/-- Ends a task and what page walks owe it. -/
def State.endTask (s : State) (c : Nat) (hi : Bool) : State :=
  (s.forgetWalks c (b2n hi)).onCore c fun k => k.endTask hi

/-- DONE of the running task (R298): after the vector/matrix stream. -/
def Cx.done (cx : Cx) : Ret :=
  if !cx.hi && !cx.k.vu.viq.isEmpty then .stay cx.s else .stay (cx.s.endTask cx.c cx.hi)

/-- DONE (R298). -/
def execDone (f : G0) (s : State) : Out := scalar (Need.fence 2 f.g []) Cx.done s
/-- Compact DONE (R21). -/
def execCDone (s : State) : Out := scalar (Need.fence 1 .always []) Cx.done s

/-- IDEM (R299): the restart point and X8–X15. -/
def execIdem (f : G0) (s : State) : Out :=
  scalar { Need.fence 2 f.g ((List.range 8).map fun i => BitVec.ofNat 5 (8 + i)) with carried := false }
    (fun cx => .done (if cx.hi then cx.s else cx.s.onCore cx.c fun k => k.onTask false fun t =>
      { t with idem := some { pc := t.pc + 2, xs := (List.range 8).map fun i => t.reg (BitVec.ofNat 5 (8 + i)) } })) s

/-- IDEM.END (R299). -/
def execIdemEnd (f : G0) (s : State) : Out :=
  scalar { Need.fence 2 f.g [] with carried := false }
    (fun cx => .done (cx.s.onCore cx.c fun k => k.onTask cx.hi fun t => { t with idem := none })) s

/-- HSET (R300). -/
def execHset (f : Rba) (s : State) : Out :=
  scalar { Need.fence 2 f.g [f.a, f.b] with sup := true, carried := false } (fun cx =>
    let i := (cx.x f.a).toNat
    let v := cx.x f.b
    if 31 < i then .trap cILLEGAL (cx.k.instrWord cx.t)
    else if !cx.k.handlerOk i v then .trap cILLEGAL v
    else
      let old := cx.k.handler i
      let new := Handler.ofW v
      .done (cx.s.onSched cx.c fun k =>
        let k := if i ≠ 0 ∧ old.v ∧ !(new.v && old.ch == new.ch) then
            { k with sched := { k.sched with inbox := k.sched.inbox.filter (·.ch != old.ch) } } else k
        k.setHandler i new)) s

/-- HMASK (R300). -/
def execHmask (f : R3) (s : State) : Out :=
  scalar { Need.loads 2 f.g [f.a, f.b] [f.d] with carried := false, pass := false, rel := false } (fun cx =>
    let a := cx.x f.a
    let b := cx.x f.b
    if a.bits 63 32 ≠ 0 ∨ b.bits 63 32 ≠ 0 then .trap cILLEGAL (cx.k.instrWord cx.t)
    else
      let old := ((List.range 32).filter fun i => (cx.k.handler i).mask).foldl maskSet 0
      .done (cx.s.onSched cx.c fun k =>
        ((maskList 32 b.toNat).foldl (fun k i => k.setHandler i { k.handler i with mask := a.getLsbD i }) k).setX cx.hi f.d (w64 old))) s

/-! ## The deque (R285–R287, R294–R297) -/

/-- The boundaries of a template's widths, with 0 (R279). -/
def boundaries (widths : List Nat) : List Nat :=
  let rec go (sum : Nat) : List Nat → List Nat
    | [] => [0]
    | w :: r => if w = 0 then go sum r else (64 - (sum + w)) :: go (sum + w) r
  go 0 widths

/-- The split point of a range of at least two WIDs (R286). -/
def splitPoint (widths : List Nat) (lo hi : Nat) : Nat :=
  let t := topBit (lo ^^^ (hi - 1))
  let b := ((boundaries widths).filter fun x => decide (x ≤ t)).foldl Nat.max 0
  let g := 2 ^ b
  let mid := lo + (hi - lo) / 2
  let f := mid / g * g
  if g ≤ 2 * (mid - f) then f + g else f

/-- Whether the deque has an entry that is neither used nor held (R289). -/
def Sched.room (q : Sched) : Bool := decide (q.deque.length + q.held < Config.dequeSize)

/-- Pushes at the newest end. -/
def Sched.push (q : Sched) (r : WRange) : Sched := { q with deque := q.deque ++ [r] }

/-- Whether a core holds no task of its context: nothing runs, or the runtime in a service call or a taskless trap
(R310, R311). -/
def Core.holdsNone (k : Core) : Bool := k.hi.isNone && (k.lo.isNone || (k.regs.inTrap && k.regs.tstat.getLsbD 11))

/-- A range is pushed: it is firm when the core holds no task and no pre-emption request waits (R355). -/
def Core.pushRange (k : Core) (r : WRange) : Core :=
  { k with sched := k.sched.push { r with firm := k.holdsNone && !k.quiescing } }

/-- The template of a launch header's WIDTHS, PC, ARG0 and ARG1, if no reserved bit is set (R290, R294). -/
def headerTemplate (h : Nat) : Option Template :=
  let ws := (List.range 6).map fun i => dfield h 0 8 / 2 ^ (6 * i) % 64
  if dfield h 0 8 / 2 ^ 36 ≠ 0 ∨ 64 < ws.foldl (· + ·) 0 ∨ 2 ^ 15 ≤ dfield h 24 2 then none
  else some { pc := dfield h 24 2, arg0 := w64 (dfield h 32 8), arg1 := w64 (dfield h 40 8), widths := ws }

/-- An own-scratchpad operand of windows 0–12, aligned to `al`, of `n` bytes: its offset, or the trap ADDR,
WINDOW or ALIGN in that order (R294). -/
def Cx.ownBlock (cx : Cx) (a : W) (al n : Nat) : Except Nat Nat :=
  match ownParts cx.c cx.t.sup a.toNat with
  | .error code => .error code
  | .ok (w, off) =>
    if 12 < w ∨ !cx.k.lcl.configured w ∨ Config.spadSize ≤ off then .error cWINDOW
    else if a.toNat % al ≠ 0 then .error cALIGN
    else if Config.spadSize < off + n then .error cWINDOW
    else .ok off

/-- WIDTHS, PC, ARG0 and ARG1 of a launch header in the own scratchpad, as the number of its first 48 bytes with the bytes
between as 0; none with a poisoned byte (R294). -/
def Local.templateBytes (l : Local) (off : Nat) : Option Nat :=
  match l.load 0 off 8, l.load 0 (off + 24) 24 with
  | some a, some b => some (leNat a + 2 ^ 192 * leNat b)
  | _, _ => none

/-- DQPUSH (R294). -/
def execDqpush (f : R3) (s : State) : Out :=
  scalar { Need.loads 2 f.g [f.a, f.a + 1, f.b] [f.d] with carried := false, pass := false, rel := false } (fun cx =>
    let push := fun (cx : Cx) (tpl : Template) =>
      let lo := cx.x f.a
      let hi := cx.x (f.a + 1)
      if hi.toNat ≤ lo.toNat then cx.setD cx.s f.d 2
      else if !cx.k.sched.room then cx.setD cx.s f.d 1
      else .done (cx.s.onCore cx.c fun k => (k.pushRange ⟨lo, hi, tpl, cx.c, false⟩).setX cx.hi f.d 0)
    if f.b = 0 then
      match cx.t.tpl with
      | none => .trap cILLEGAL (cx.k.instrWord cx.t)
      | some tpl => push cx tpl
    else
      let b := cx.x f.b
      match cx.ownBlock b 64 64 with
      | .error code => .trap code b
      | .ok off =>
        cx.ownPort (cx.span b.toNat 8 ++ cx.span (b.toNat + 24) 24) fun cx =>
          match cx.k.lcl.templateBytes off with
          | none =>
            .trap cPOISON (byteVa b (((cx.k.lcl.firstPoison off 8).getD ((cx.k.lcl.firstPoison (off + 24) 24).getD off)) - off))
          | some h =>
            match headerTemplate h with
            | none => .trap cILLEGAL b
            | some tpl => push cx tpl) s

/-- DQPOP (R295). -/
def execDqpop (f : Rd) (s : State) : Out :=
  scalar { Need.loads 2 f.g [] [f.d, f.d + 1] with carried := false, pass := false, rel := false } (fun cx =>
    match cx.k.sched.deque.getLast? with
    | some r =>
      if cx.t.tpl = some r.tpl then
        .done (cx.s.onSched cx.c fun k =>
          ({ k with sched := { k.sched with deque := k.sched.deque.dropLast } }.setX cx.hi f.d r.lo).setX cx.hi (f.d + 1) r.hi)
      else .done (cx.s.onCore cx.c fun k => (k.setX cx.hi f.d 0).setX cx.hi (f.d + 1) 0)
    | none => .done (cx.s.onCore cx.c fun k => (k.setX cx.hi f.d 0).setX cx.hi (f.d + 1) 0)) s

/-- DQSPLIT (R296). -/
def execDqsplit (f : R2) (s : State) : Out :=
  scalar { Need.loads 2 f.g [f.a, f.a + 1] [f.d] with carried := false, pass := false, rel := false } (fun cx =>
    match cx.t.tpl with
    | none => .trap cILLEGAL (cx.k.instrWord cx.t)
    | some tpl =>
      let lo := (cx.x f.a).toNat
      let hi := (cx.x (f.a + 1)).toNat
      if lo + 2 ≤ hi ∧ cx.k.sched.room then
        let m := splitPoint tpl.widths lo hi
        .done (cx.s.onCore cx.c fun k =>
          (k.pushRange ⟨w64 m, w64 hi, tpl, cx.c, false⟩).setX cx.hi f.d (w64 m))
      else cx.setD cx.s f.d (cx.x (f.a + 1))) s

/-- DQSTEAL (R297). -/
def execDqsteal (f : R2) (s : State) : Out :=
  scalar { Need.fence 2 f.g [f.a, f.d] with carried := false } (fun cx =>
    let a := cx.x f.a
    if a.bits 63 10 ≠ 0 then .trap cILLEGAL (cx.k.instrWord cx.t)
    else if !cx.k.sched.room then cx.setD cx.s f.d 2
    else if a.toNat = cx.c then cx.setD cx.s f.d 1
    else
      let s := cx.s.onCore cx.c fun k => { k with sched := { k.sched with held := k.sched.held + 1 } }
      cx.await ((s.send (.core cx.c) (.core a.toNat) .request (.steal cx.req true)).event (unitCore cx.c) 0x03)
        (.value f.d false 64 2 false)) s

/-- STEAL_REQUEST (R287): the victim's deque unit answers. -/
def execStealRequest (k : Nat) (s : State) : Out :=
  packetStep k (fun p s =>
    match p.dst, p.body with
    | .core c, .steal r instr =>
      let k := s.core c
      let ans := fun (s : State) (st : Nat) (rg : Option WRange) => some (s.replyTo c r (.stealAns r.hi instr st rg))
      if k.refuses r.ctx then ans s 4 none
      else
        match k.sched.deque with
        | [] => ans s 1 none
        | e :: rest =>
          let lo := e.lo.toNat
          let hi := e.hi.toNat
          if lo + 2 ≤ hi then
            let m := splitPoint e.tpl.widths lo hi
            let low := { e with hi := w64 m }
            let high := { e with lo := w64 m }
            let (give, stay) := if hi - m < m - lo then (low, high) else (high, low)
            ans (s.onSched c fun k => { k with sched := { k.sched with deque := stay :: rest } }) 0 (some give)
          else if rest.isEmpty then ans s 1 none
          else ans (s.onSched c fun k => { k with sched := { k.sched with deque := rest } }) 0 (some e)
    | _, _ => none) s

/-- STEAL_ANSWER (R287, R289, R297): the held entry is filled or freed. A round fails with its last answer, unless it has been
abandoned. -/
def execStealAnswer (k : Nat) (s : State) : Out :=
  packetStep k (fun p s =>
    match p.src, p.dst, p.body with
    | .core v, .core c, .stealAns hi instr st rg =>
      let s := s.onCore c fun k => { k with sched := { k.sched with held := k.sched.held - 1 } }
      let s := match rg with
        | none => s
        | some r => (s.onCore c fun k => k.pushRange { r with src := v }).event (unitCore c) 0x04
      if instr then some (s.answer c hi [st])
      else
        some (s.onCore c fun k =>
          let q := { k.sched with stealing := false, abandoned := false }
          let q := if rg.isSome || k.sched.abandoned || !k.ready.isEmpty then { q with roundLeft := [], backoff := 0 }
            else if q.roundLeft.isEmpty then { q with backoff := k.regs.cyc.toNat + Config.stealBackoff } else q
          { k with sched := q })
    | _, _, _ => none) s

/-- The next victim of a steal round: stages 0–2 are the own cluster, later ones draws of R288. -/
def Core.victim (k : Core) (c stage : Nat) : Nat × Core :=
  if stage < 3 then (c / 4 * 4 + (c + 1 + stage) % 4, k)
  else
    let v := (mix64 (w64 (c * 2 ^ 32 + k.regs.stealCnt))).bits 9 0
    let v := if k.regs.stealScope = 2 then
        v - b2n (bitOf v 9) * 2 ^ 9 - b2n (bitOf v 5) * 2 ^ 5 + b2n (bitOf c 9) * 2 ^ 9 + b2n (bitOf c 5) * 2 ^ 5 else v
    let v := if v / 4 = c / 4 then v ^^^ 4 else v
    (v, { k with regs := { k.regs with stealCnt := (k.regs.stealCnt + 1) % 2 ^ 32 } })

/-- STEAL_ROUND (R289): a round starts, or sends its next request. It is abandoned when an entry is runnable. -/
def execStealRound (c : Nat) (s : State) : Out :=
  let k := s.core c
  let q := k.sched
  if k.lo.isSome || k.hi.isSome || !k.open || q.stealing then .next s
  else if !k.ready.isEmpty then .next (s.onCore c fun k => { k with sched := { k.sched with roundLeft := [], backoff := 0 } })
  else if k.regs.stealScope = 0 ∨ !q.room then .next s
  else
    let left := if !q.roundLeft.isEmpty then q.roundLeft
      else if q.backoff ≠ 0 then []
      else if 2 ≤ k.regs.stealScope then List.range 11 else List.range 3
    match left with
    | [] => .next s
    | st :: rest =>
      let (v, k) := k.victim c st
      let k := { k with sched := { k.sched with roundLeft := rest, stealing := true, held := k.sched.held + 1 } }
      let r : Requester := { core := c, hi := false, ctx := k.ctx, sup := false }
      .next (((s.setCore c k).send (.core c) (.core v) .request (.steal r false)).event (unitCore c) 0x03)

/-- STEAL_BACKOFF_EXPIRY (R289): 2,048 cycles after a failed round. -/
def execStealBackoffExpiry (c : Nat) (s : State) : Out :=
  let k := s.core c
  if k.sched.backoff ≠ 0 ∧ k.sched.backoff ≤ k.regs.cyc.toNat then
    .next (s.onCore c fun k => { k with sched := { k.sched with backoff := 0 } })
  else .next s

/-! ## Launching (R290, R301, R302) -/

/-- LAUNCH (R301). -/
def Cx.launch (cx : Cx) (a d : Reg) : Ret :=
  let core := cx.x a
  let pc := cx.x (a + 1)
  if core.bits 63 10 ≠ 0 ∨ 0x7FFF < pc.toNat then .trap cILLEGAL (cx.k.instrWord cx.t)
  else
    let tpl : Template := { pc := pc.toNat, arg0 := cx.x (a + 2), arg1 := cx.x (a + 3), widths := [0, 0, 0, 0, 0, 0] }
    cx.await (cx.s.send (.core cx.c) (.core core.toNat) .request (.launch cx.req ⟨0, 1, tpl, cx.c, false⟩ 0 none))
      (.value d false 64 2 false)

/-- LAUNCH (R301). -/
def execLaunch (f : R2) (s : State) : Out :=
  scalar { Need.fence 2 f.g [f.a, f.a + 1, f.a + 2, f.a + 3, f.d] with carried := false } (fun cx => cx.launch f.a f.d) s

/-- The target cores of a launch header, rising (R290). -/
def headerCores (h : Nat) : List Nat :=
  let x0 := dfield h 26 1 % 16
  let x1 := dfield h 26 1 / 16
  let y0 := dfield h 27 1 % 16
  let y1 := dfield h 27 1 / 16
  (List.range Config.numCores).filter fun c =>
    let cl := clusterOf c
    decide (x0 ≤ clusterX cl) && decide (clusterX cl ≤ x1) && decide (y0 ≤ clusterY cl) && decide (clusterY cl ≤ y1) &&
      (dfield h 28 1).testBit (c % 4)

/-- Whether a launch header keeps R290. -/
def headerOk (h : Nat) : Bool :=
  (headerTemplate h).isSome && decide (dfield h 26 1 % 16 ≤ dfield h 26 1 / 16) &&
  decide (dfield h 27 1 % 16 ≤ dfield h 27 1 / 16) && dfield h 28 1 != 0 && decide (dfield h 28 1 < 16) &&
  dfield h 29 3 == 0 && dfield h 54 10 == 0

/-- The parts of a launch header: each target core with its range (R290). -/
def headerParts (h src : Nat) : List (Nat × WRange) :=
  match headerTemplate h with
  | none => []
  | some tpl =>
    let lo := dfield h 8 8
    let hi := dfield h 16 8
    let cores := headerCores h
    let n := hi - lo
    (cores.zip (List.range cores.length)).filterMap fun (c, k) =>
      let a := lo + k * n / cores.length
      let b := lo + (k + 1) * n / cores.length
      if a < b then some (c, ⟨w64 a, w64 b, tpl, src, false⟩) else none

/-- Sends the first of the parts still to be taken. -/
def State.sendPart (s : State) (c : Nat) (r : Requester) (todo : List (Nat × WRange)) (live : W) : State :=
  match todo with
  | [] => s
  | (t, rg) :: _ => s.send (.core c) (.core t) .request (.launch r rg live none)

/-- LAUNCH.H (R302): the header is read as a plain load, then its parts go one at a time. -/
def execLaunchH (f : R2) (s : State) : Out :=
  scalar { Need.fence 2 f.g [f.a, f.d] with carried := false } (fun cx =>
    let a := cx.x f.a
    if a.bits 63 56 ≠ 0 then .trap cADDR a
    else if a.toNat % 64 ≠ 0 then .trap cALIGN a
    else cx.load a 64 false false none fun h s =>
      if !headerOk h then .trap cILLEGAL a
      else
        match headerParts h cx.c with
        | [] => cx.setD s f.d 0
        | parts =>
          let live := w64 (dfield h 48 6)
          cx.await (s.sendPart cx.c cx.req parts live) (.parts f.d parts live 0 true 0)) s

/-- LAUNCH_ARRIVAL (R301, R290): the target's deque unit. -/
def execLaunchArrival (k : Nat) (s : State) : Out :=
  packetStep k (fun p s =>
    match p.dst, p.body with
    | .core c, .launch r rg live win =>
      let k := s.core c
      let ans := fun (s : State) (st : Nat) => some (s.send p.dst p.src .reply (.launchAns r.hi win st))
      if k.refuses r.ctx then ans s 4
      else if !(k.handler 0).v then ans s 2
      else if !k.sched.room then ans s 1
      else ans (s.onCore c fun k => { k.pushRange rg with regs := { k.regs with live := k.regs.live ||| live } }) 0
    | _, _ => none) s

/-- The budget of a task is used up (R313). -/
def Core.overBudget (k : Core) (t : Task) : Bool :=
  k.regs.budget != 0 && decide (k.regs.budget ≤ t.count) && !k.regs.inTrap

/-- The answer of a part of LAUNCH.H (R302). -/
def State.partAnswer (s : State) (c : Nat) (hi : Bool) (t : Task) (d : Reg) (todo : List (Nat × WRange)) (live : W)
    (dropped st : Nat) : State :=
  let k := s.core c
  let r : Requester := { core := c, hi := hi, ctx := k.ctx, sup := t.sup }
  let wait := fun (s : State) (w : Wait) => s.onCore c fun k => k.onTask hi fun t => { t with wait := w }
  if st = 1 then wait s (.parts d todo live dropped false (k.regs.cyc.toNat + Config.launchRetry))
  else
    let dropped := if st = 0 then dropped else dropped + 1
    match todo.drop 1 with
    | [] => s.resume c hi 2 fun t => t.setReg d (w64 dropped)
    | rest =>
      if k.overBudget t then wait s (.parts d rest live dropped false k.regs.cyc.toNat)
      else wait (s.sendPart c r rest live) (.parts d rest live dropped true 0)

/-- A launch-window answer (R332): STATUS takes the result and the window is free for the next. -/
def State.windowAnswer (s : State) (n st : Nat) : State :=
  let w := Tbl.getD s.windows n Window.reset
  let pushed := if st = 0 then (w.pushed + 1) % 2 ^ 56 else w.pushed
  { s with windows := Tbl.insert s.windows n { w with flying := false, result := st, pushed := pushed } }

/-- LAUNCH_ANSWER (R301, R302, R332). -/
def execLaunchAnswer (k : Nat) (s : State) : Out :=
  packetStep k (fun p s =>
    match p.dst, p.body with
    | _, .launchAns _ (some n) st => some (s.windowAnswer n st)
    | .core c, .launchAns hi none st =>
      match (s.core c).bankTask hi with
      | none => some s
      | some t =>
        match t.wait with
        | .parts d todo live dropped _ _ => some (s.partAnswer c hi t d todo live dropped st)
        | _ => some (s.answer c hi [st])
    | _, _ => none) s

/-- LAUNCH_PART_RETRY (R302): a part answered full is sent again after 256 cycles. -/
def execLaunchPartRetry (c : Nat) (s : State) : Out :=
  let k := s.core c
  let retry := fun (hi : Bool) (s : State) =>
    match k.bankTask hi with
    | none => s
    | some t =>
      match t.wait with
      | .parts d todo live dropped false at_ =>
        if at_ ≤ k.regs.cyc.toNat ∧ !k.overBudget t then
          let r : Requester := { core := c, hi := hi, ctx := k.ctx, sup := t.sup }
          (s.sendPart c r todo live).onCore c fun k => k.onTask hi fun t =>
            { t with wait := .parts d todo live dropped true 0 }
        else s
      | _ => s
  .next (retry true (retry false s))

/-! ## Barrier records (R292, R303, R304) -/

/-- A record's reserved bits of word 0 (R292). -/
def recordBad (w0 : Nat) : Bool := bitsOf w0 63 55 != 0 || bitOf w0 52

/-- The completion check (R292): word 0 after it, and whether the phase advanced. -/
def recordCheck (w0 : Nat) (await_ : Int) : Nat × Bool :=
  let arrived := bitsOf w0 51 32
  let expected := bitsOf w0 31 12
  if expected ≤ arrived ∧ await_ ≤ 0 then
    let w := w0 / 2 ^ 52 * 2 ^ 52 + (arrived - expected) * 2 ^ 32 + expected * 2 ^ 12 + (bitsOf w0 11 0 + 1) % 4096
    (w, true)
  else (w0, false)

/-- One arrival of BARV: word 0 and AWAIT after it, and whether the phase advanced (R303). -/
def recordArrive (w0 w1 bytes : Nat) : Nat × Nat × Bool :=
  let w1 := (w1 + bytes) % 2 ^ 64
  let arrived := Nat.min (bitsOf w0 51 32 + 1) (2 ^ 20 - 1)
  let w0 := w0 / 2 ^ 52 * 2 ^ 52 + arrived * 2 ^ 32 + w0 % 2 ^ 32
  let (w, adv) := recordCheck w0 (signed 64 w1)
  (w, w1, adv)

/-- A transfer's decrement (R75, R292). -/
def recordDec (w0 w1 bytes : Nat) : Nat × Nat × Bool :=
  let w1 := wrap 64 ((w1 : Int) - bytes)
  let (w, adv) := recordCheck w0 (signed 64 w1)
  (w, w1, adv)

/-- A record's place: its owner's port, or its home. -/
inductive RecordAt where
  | port (c w off : Nat)
  | home (pa : Nat)
  deriving DecidableEq, Repr

/-- Reads a record's 16 bytes: none while a line is busy, or the poison flag. An update allocates the line (R36). -/
def State.readRecord (s : State) (at_ : RecordAt) (write : Bool) : Option (Option Nat) × State :=
  match at_ with
  | .port c _ off => (some (((s.core c).lcl.load 0 off 16).map leNat), s)
  | .home pa =>
    match if write then s.readyHome [(pa, 16)] true else s.ready [(pa, 16)] false with
    | .wait s => (none, s)
    | .ok => if s.bad (pa / 64) then (some none, s.detect (pa / 64)) else (some (some (leNat (s.bytesNow pa 16))), s)

/-- Writes a record's 16 bytes. -/
def State.writeRecord (s : State) (at_ : RecordAt) (v : Nat) : State :=
  match at_ with
  | .port c _ off => s.portStore c 0 off (leBytes 16 v)
  | .home pa => s.engineWrite pa (leBytes 16 v)

/-- Wakes every BARW parked on a record (R292, R304). -/
def State.wakeRecord (s : State) (at_ : RecordAt) (w0 : Nat) : State :=
  let ans := fun (src : Endpoint) (s : State) (b : BarWaiter) =>
    s.send src (.core b.r.core) .reply (.reply b.r.hi [bitsOf w0 11 0, bitsOf w0 54 53])
  let stays := fun (b : BarWaiter) (key : Nat) => b.key != key || b.seen == bitsOf w0 11 0
  match at_ with
  | .port c _ off =>
    let l := (s.core c).lcl.barWait
    let s := s.onCore c fun k => { k with lcl := { k.lcl with barWait := l.filter fun b => stays b off } }
    (l.filter fun b => !stays b off).foldl (ans (.core c)) s
  | .home pa =>
    let l := s.homeBar
    let s := { s with homeBar := l.filter fun b => stays b pa }
    (l.filter fun b => !stays b pa).foldl (ans (.slice (homeOf pa))) s

/-- An update of a record by `f` on its two words; none while it must wait, and the value found. -/
def State.updateRecord (s : State) (at_ : RecordAt) (f : Nat → Nat → Nat × Nat × Bool) : Option (Option Nat) × State :=
  match s.readRecord at_ true with
  | (none, s) => (none, s)
  | (some none, s) => (some none, s)
  | (some (some v), s) =>
    let (w0, w1, adv) := f (v % 2 ^ 64) (v / 2 ^ 64)
    let s := s.writeRecord at_ (w0 + 2 ^ 64 * w1)
    (some (some (v % 2 ^ 64)), if adv then s.wakeRecord at_ w0 else s)

/-- Where a barrier packet's record lies, from the address it was issued with. -/
def recordAt (c addr : Nat) (pa : Option Nat) : RecordAt :=
  match pa with
  | some pa => .home pa
  | none => let (_, w, off) := localParts addr; .port c w off

/-- The checks of a record's address: the owner and physical address, a wait, or a trap (R303, R103). -/
def Cx.record (cx : Cx) (a : W) (k : Endpoint → Option Nat → Ret) : Ret :=
  match decodeAddr cx.c cx.t.sup a.toNat 16 with
  | .error code => .trap code a
  | .ok (.global va) =>
    if a.toNat % 16 ≠ 0 then .trap cALIGN a
    else
      match translate cx.s cx.c (whoOf cx.hi) cx.t.sup true va with
      | .trap code => .trap code a
      | .wait s => .stay s
      | .ok pa => if cx.mustWait (cx.span a.toNat 16) then .stay cx.s else k (.slice (homeOf pa)) (some pa)
  | .ok (.loc core w off) =>
    match if core = cx.c then cx.k.lcl.windowCheck .atomic cx.t.sup w off 16 else none with
    | some code => .trap code a
    | none =>
      if a.toNat % 16 ≠ 0 then .trap cALIGN a
      else if cx.mustWait (cx.span a.toNat 16) then .stay cx.s
      else k (.core core) none
  | .ok _ => .trap cADDR a

/-- The scope of a code (R27). -/
def scopeOf (n : Nat) : Scope := if n = 0 then .core else if n = 1 then .cluster else if n = 2 then .package else .system

/-- BARV (R303): the read of word 0, the release at its SCOPE, then the update. -/
def execBarv (f : R3) (s : State) : Out :=
  scalar { Need.fence 2 f.g [f.a, f.b, f.d] with carried := false } (fun cx =>
    cx.record (cx.x f.a) fun dst pa =>
      match cx.t.wait with
      | .barv _ st =>
        if cx.released (scopeOf (st - 2)) then
          cx.await (cx.s.send (.core cx.c) dst .request (.barUpdate cx.req (cx.x f.a).toNat pa (cx.x f.b).toNat)) (.barv f.d 6)
        else .stay cx.s
      | _ => cx.await (cx.s.send (.core cx.c) dst .request (.barRead cx.req (cx.x f.a).toNat pa)) (.barv f.d 1)) s

/-- BARW (R304). -/
def execBarw (f : R3) (s : State) : Out :=
  scalar { Need.fence 2 f.g [f.a, f.b, f.d] with carried := false } (fun cx =>
    if cx.owesMemory then .stay cx.s
    else cx.record (cx.x f.a) fun dst pa =>
      cx.await (cx.s.send (.core cx.c) dst .request (.barPark cx.req (cx.x f.a).toNat pa ((cx.x f.b).bits 11 0))) (.barw f.d)) s

/-- A record arrival at a scratchpad's owner is checked by R53. -/
def State.recordRefused (s : State) (dst : Endpoint) (r : Requester) (addr : Nat) : Option Nat :=
  match dst with
  | .core c => (s.core c).arrivalCheck r .atomic addr 16
  | _ => none

/-- The core of an endpoint, 0 for others. -/
def Endpoint.coreNo (e : Endpoint) : Nat := match e with | .core c => c | _ => 0

/-- An arrival at a barrier record: refused by R53, waiting at its endpoint while the home's line is busy, failing on poison,
or `f` of the value read (R292). -/
def State.atRecord (s : State) (dst : Endpoint) (r : Requester) (addr : Nat) (pa : Option Nat) (write : Bool)
    (f : Nat → State → State) : Take :=
  let fail := fun (s : State) (code : Nat) => Take.did (s.send dst (.core r.core) .reply (.failed r.hi ⟨code, w64 addr⟩))
  match s.recordRefused dst r addr with
  | some code => fail s code
  | none =>
    match s.readRecord (recordAt dst.coreNo addr pa) write with
    | (none, s) => .wait s
    | (some none, s) => fail s cPOISON
    | (some (some v), s) => .did (f v s)

/-- BARRIER_UPDATE (R303): BARV's read of word 0, and its update. -/
def execBarrierUpdate (k : Nat) (s : State) : Out :=
  waitingStep k (fun p s =>
    let back := fun (s : State) (r : Requester) (b : Body) => s.send p.dst (.core r.core) .reply b
    match p.body with
    | .barRead r addr pa => s.atRecord p.dst r addr pa false fun v s => back s r (.reply r.hi [v % 2 ^ 64])
    | .barUpdate r addr pa bytes =>
      s.atRecord p.dst r addr pa true fun v s =>
        if recordBad (v % 2 ^ 64) then back s r (.reply r.hi [])
        else
          let s := (s.updateRecord (recordAt p.dst.coreNo addr pa) fun w0 w1 => recordArrive w0 w1 bytes).2
          let s := match pa with
            | some pa => s.onL1 r.core fun l => l.clearSv (lineOf pa) (2 ^ (pa % 256 / 64))
            | none => s
          back s r (.reply r.hi [bitsOf v 11 0])
    | _ => .no) s

/-- The cancel of a BARW that the watchdog ends reaches its record (R314): the waiter, if it still waits, is told. -/
def State.cancelBarw (s : State) (dst : Endpoint) (r : Requester) : State :=
  let here := match dst with
    | .core c => (s.core c).lcl.barWait.any (·.r == r)
    | _ => s.homeBar.any (·.r == r)
  if here then
    let s := match dst with
      | .core c => s.onCore c fun k => { k with lcl := { k.lcl with barWait := k.lcl.barWait.filter (·.r != r) } }
      | _ => { s with homeBar := s.homeBar.filter (·.r != r) }
    s.send dst (.core r.core) .reply (.cancelled r.hi)
  else s

/-- BARRIER_PARK (R304), and the cancel of a BARW that the watchdog ends (R314). -/
def execBarrierPark (k : Nat) (s : State) : Out :=
  waitingStep k (fun p s =>
    match p.body with
    | .barPark r addr pa seen =>
      s.atRecord p.dst r addr pa false fun v s =>
        if bitsOf v 11 0 ≠ seen then s.send p.dst (.core r.core) .reply (.reply r.hi [bitsOf v 11 0, bitsOf v 54 53])
        else
          match recordAt p.dst.coreNo addr pa with
          | .port c _ off => s.onCore c fun k => { k with lcl := { k.lcl with barWait := k.lcl.barWait ++ [⟨r, off, seen⟩] } }
          | .home pa => { s with homeBar := s.homeBar ++ [⟨r, pa, seen⟩] }
    | .cancel r =>
      match s.waitOf r with
      | .barw _ => .did (s.cancelBarw p.dst r)
      | _ => .no
    | _ => .no) s

/-! ## Active messages (R159–R163) -/

/-- The words X[b] … X[b+n−1]. -/
def Cx.words (cx : Cx) (b : Reg) (n : Nat) : List W := (List.range n).map fun i => cx.x (BitVec.ofNat 5 (b.toNat + i))

/-- Registers b … b+n−1. -/
def regsFrom (b : Reg) (n : Nat) : List Reg := (List.range n).map fun i => BitVec.ofNat 5 (b.toNat + i)

/-- SEND (R161): posted, with a Waybill entry. -/
def execSend (f : SendForm) (s : State) : Out :=
  let n := f.n.toNat
  scalar (Need.stores 2 f.g (f.a :: regsFrom f.b n)) (fun cx =>
    let a := cx.x f.a
    if a.bits 63 15 ≠ 0 then .trap cILLEGAL a
    else if 31 < f.b.toNat + n - 1 then .trap cILLEGAL (cx.k.instrWord cx.t)
    else
      match cx.k.freeEntry? with
      | none => .stay cx.s
      | some e =>
        let ws := cx.words f.b n
        .done ((cx.s.post cx.c e cx.t a ws 2).send (.core cx.c) (.core (a.bits 9 0)) .request
          (.msg cx.req (a.bits 14 10) ws (some e)))) s

/-- SENDW (R161): the stream stalls for the status. -/
def execSendw (f : SendwForm) (s : State) : Out :=
  let n := f.n.toNat
  scalar (Need.stores 2 f.g (f.a :: f.d :: regsFrom f.b n)) (fun cx =>
    let a := cx.x f.a
    if a.bits 63 15 ≠ 0 then .trap cILLEGAL a
    else if 31 < f.b.toNat + n - 1 then .trap cILLEGAL (cx.k.instrWord cx.t)
    else cx.await (cx.s.send (.core cx.c) (.core (a.bits 9 0)) .request (.msg cx.req (a.bits 14 10) (cx.words f.b n) none))
      (.value f.d false 64 2 false)) s

/-- SENDC (R162). -/
def execSendc (f : SendcForm) (s : State) : Out :=
  let n := f.n.toNat + 1
  scalar (Need.stores 2 f.g (f.a :: f.d :: regsFrom f.b ((n + 3) / 4))) (fun cx =>
    let a := cx.x f.a
    if a.bits 63 10 ≠ 0 then .trap cILLEGAL a
    else if 31 < f.b.toNat + (n + 3) / 4 - 1 then .trap cILLEGAL (cx.k.instrWord cx.t)
    else
      let halves := (List.range n).map fun i => BitVec.ofNat 16 ((cx.x (BitVec.ofNat 5 (f.b.toNat + i / 4))).toNat / 2 ^ (16 * (i % 4)))
      cx.await (cx.s.send (.core cx.c) (.core (a.bits 9 0)) .request (.code cx.req halves)) (.value f.d false 64 2 false)) s

/-- MRD (R163). -/
def execMrd (f : MrdForm) (s : State) : Out :=
  scalar { Need.loads 2 f.g [f.a] [f.d] with pd := if f.b = 0 then [] else [f.b] } (fun cx =>
    let a := cx.x f.a
    if a.bits 63 5 ≠ 0 then .trap cILLEGAL (cx.k.instrWord cx.t)
    else
      match takeWords (a.bits 4 0) 1 cx.k.sched.inbox with
      | (w :: _, rest) =>
        .done (cx.s.onSched cx.c fun k =>
          ({ k with sched := { k.sched with inbox := rest } }.setX cx.hi f.d w.w).setP cx.hi f.b 1)
      | ([], _) => .done (cx.s.onCore cx.c fun k => (k.setX cx.hi f.d 0).setP cx.hi f.b 0)) s

/-- What a target does with a message: its status, first condition first (R160). -/
def Core.messageStatus (k : Core) (ctx : Option Nat) (ch n : Nat) : Nat :=
  if k.refuses ctx then 4
  else
    match (rangeFrom 1 31).find? fun i => (k.handler i).v && (k.handler i).ch == ch with
    | none => 2
    | some i =>
      if (k.handler i).depth < (k.fifo ch).length + n ∨ Config.inboxWords < k.sched.inbox.length + n then 1 else 0

/-- MESSAGE_ARRIVAL (R160, R162). -/
def execMessageArrival (k : Nat) (s : State) : Out :=
  packetStep k (fun p s =>
    match p.dst, p.body with
    | .core c, .msg r ch words entry =>
      let st := (s.core c).messageStatus r.ctx ch words.length
      let s := if st = 0 then
          let tagged : List InboxWord := (List.range words.length).map fun i => ⟨(words[i]?).getD 0, r.core, ch, i == 0⟩
          s.onCore c fun k => { k with sched := { k.sched with inbox := k.sched.inbox ++ tagged } }
        else s
      match entry with
      | some e => some (s.postedEnd c r e (if st = 0 then none else some (if st = 4 then 7 else if st = 2 then 6 else 5)))
      | none => some (s.replyTo c r (.msgStatus r.hi st))
    | .core c, .code r halves =>
      let k := s.core c
      let st := if k.refuses r.ctx then 4 else if Config.codeqSize ≤ k.sched.codeq.length then 3 else 0
      let s := if st = 0 then
          s.onCore c fun k => { k with sched := { k.sched with codeq := k.sched.codeq ++ [⟨halves, r.core⟩] } }
        else s
      some (s.replyTo c r (.msgStatus r.hi st))
    | _, _ => none) s

/-- MESSAGE_STATUS (R161, R162): a refusal is counted by the monitors. -/
def execMessageStatus (k : Nat) (s : State) : Out :=
  packetStep k (fun p s =>
    match p.dst, p.body with
    | .core c, .msgStatus hi st =>
      let s := if st = 0 then s else s.event (unitCore c) 0x02
      some (s.answer c hi [st])
    | _, _ => none) s

end Sys2Proof.Machine
end

