-- ==== Sys2Proof/Machine/MapOps.lean ====
section
/-! DEFINITION. The twelve map instructions at their core (R125–R142, R370), and their replies. -/

namespace Sys2Proof.Machine

/-! ## The handle (R57, R110, R127 step 2) -/

/-- A map handle checked against the core's descriptor cache. -/
inductive MapGot where
  | ok (slot : Nat) (d : MapDesc) (s : State)
  | nomap (s : State)
  | trap (code : Nat) (v : W)
  | wait (s : State)
  deriving DecidableEq, Repr

/-- Whether a map request of a bank's task is outstanding on a map. -/
def Core.mapOutstanding (k : Core) (hi : Bool) (handle : Nat) : Bool :=
  match k.bankTask hi with
  | none => false
  | some t =>
    match t.wait with
    | .map _ _ _ _ h _ _ => h == handle
    | .mapV _ _ _ _ _ _ _ h _ _ => h == handle
    | _ => false

/-- Puts a descriptor in the core's cache, the oldest leaving when it is full (R111). -/
def Core.cacheMap (k : Core) (handle slot d : Nat) : Core :=
  let l := k.dcache.filter (·.1 != handle)
  { k with dcache := (if l.length < Config.dcacheSize then l else l.drop 1) ++ [(handle, slot, d)] }

/-- The checks of R57 and R110 for a map instruction. The copy read is kept unless a request of the core's other task on the
map is outstanding, while which the cached copy of (L, S) does not change (R128). -/
def Cx.mapHandle (cx : Cx) (h : W) : MapGot :=
  let r := cx.k.regs
  let asid := cx.k.asidOf
  let root := cx.k.rootOf
  if h.bits 63 32 ≠ 0 ∨ 2 ^ r.dtab.bits 4 0 ≤ h.bits 31 12 then .trap cHANDLE h
  else
    match cx.k.dcache.find? (·.1 == h.toNat) with
    | some (_, slot, d) =>
      match map? d with
      | some m => .ok slot m cx.s
      | none => .trap cHANDLE h
    | none =>
      match cx.s.descriptor cx.c asid root r.dtab h 1 with
      | .handle => .trap cHANDLE h
      | .np va => .trap cPAGENP (w64 va)
      | .poison va => .trap cPOISON (w64 va)
      | .wait s => .wait s
      | .kind s => .nomap s
      | .ok d s =>
        match map? d with
        | none => .trap cHANDLE h
        | some m =>
          match s.engineTranslate cx.c asid root false false (slotVa r.dtab (h.bits 31 12)) with
          | .ok pa s =>
            .ok pa m (if cx.k.mapOutstanding (!cx.hi) h.toNat then s else s.onCore cx.c fun k => k.cacheMap h.toNat pa d)
          | .wait s => .wait s
          | .np | .prot => .trap cPAGENP (w64 (slotVa r.dtab (h.bits 31 12)))

/-! ## Completing (R124, R127 step 6) -/

/-- SR.MST's value (R124). -/
def mstOf (code hops : Nat) : W := w64 (Nat.min hops 255 * 256 + code)

/-- Writes words to X[d], X[d+1], … . -/
def Task.setWords (t : Task) (d : Reg) (vals : List Nat) : Task :=
  vals.zipIdx.foldl (fun t e => t.setReg (BitVec.ofNat 5 (d.toNat + e.2)) (w64 e.1)) t

/-- Writes the destination predicate of a map instruction. -/
def Task.setCode (t : Task) (k : Option PReg) (code : Nat) : Task :=
  match k with
  | none => t
  | some p => t.setPred p (predOf (code = 0))

/-- SR.MST of a bank. -/
def Core.setMst (k : Core) (hi : Bool) (v : W) : Core := k.setBank hi { k.bank hi with mst := v }

/-- A scalar map instruction's effect at its core: registers, predicate, SR.MST and scratchpad. -/
def State.mapEffect (s : State) (c : Nat) (hi : Bool) (d : Reg) (k : Option PReg) (words : Nat) (spad : Option Nat)
    (code hops : Nat) (vals : List Nat) : State :=
  s.onCore c fun x =>
    let x := match spad with
      | none => x
      | some off => { x with lcl := x.lcl.writeSpad off ((vals.drop words).map (BitVec.ofNat 8)) }
    (x.onTask hi fun t => (t.setWords d (vals.take words)).setCode k code).setMst hi (mstOf code hops)

/-- Whether the task's queued instructions still owe loads (R249). -/
def Cx.owesLoads (cx : Cx) : Bool :=
  !cx.hi && !cx.k.vu.stopped && cx.k.vu.viq.any fun e => e.items.any fun it =>
    match it.instr with
    | .vst _ | .vstLit _ | .vsts _ | .vstx _ | .tst _ | .tstn _ | .pgclr _ => false
    | i => touchesMemory i

/-- The map that an instruction names. -/
def Cx.mapRef (cx : Cx) (h : W) (slot : Nat) : MapRef :=
  { handle := h.toNat, slot := slot, core := cx.c, asid := cx.k.asidOf, root := cx.k.rootOf }

/-- The key registers of a scalar form, and the key (R126). -/
def keyRegs (d : MapDesc) (b : Reg) : List Reg := regsFrom b (xWords d.key)
/-- A number of `bytes` bytes from X registers (R126). -/
def Cx.number (cx : Cx) (b : Reg) (bytes : Nat) : Nat :=
  leNat ((leBytes 8 (cx.x b).toNat ++ leBytes 8 (cx.x (BitVec.ofNat 5 (b.toNat + 1))).toNat).take bytes)
/-- The value registers of a scalar form. -/
def valRegs (d : MapDesc) (r : Reg) : List Reg := regsFrom r (xWords d.vbytes)

/-- Whether a field names the group that a size asks for (R126). -/
def groupOk (bytes : Nat) (r : Reg) : Bool := decide (bytes < 16) || evenReg r

/-- What an instruction asks for once its checks are passed. -/
inductive MapAsk where
  /-- An operation on a key: the operand, the words of the answer that go to registers, and where bytes go. -/
  | key (kind : MapKind) (key operand words : Nat) (spad : Option Nat) (bytes : Nat)
  | scan (bucket skip cap off bytes : Nat)
  | stat (item : Nat)
  | now (code : Nat) (vals : List Nat)

/-- A map instruction: the value kinds it accepts, the groups it needs, the registers it names, and its own checks
with what it then asks for (R127 steps 3 and 4). -/
structure MapPlan where
  accepts : MapDesc → Bool
  fits : MapDesc → Bool
  regs : MapDesc → List Reg
  ask : Cx → MapDesc → Except (Nat × W) MapAsk

/-- Sends a scalar map request and waits for its reply (R127 step 5). -/
def Cx.mapSend (cx : Cx) (s : State) (home : Endpoint) (m : MapReq) (d : Reg) (k : Option PReg) (words : Nat) (spad : Option Nat) : Ret :=
  cx.await (s.send (.core cx.c) home .request (.mapReq m))
    (.map d k words spad m.map.handle cx.k.regs.cyc.toNat (s.latencyMask (unitCore cx.c)))

/-- Where an arena address lies, for routing a request: its home (R120). -/
def Cx.arenaHome (cx : Cx) (s : State) (va : Nat) (go : Nat → State → Ret) : Ret :=
  match s.engineTranslate cx.c cx.k.asidOf cx.k.rootOf false true va with
  | .ok pa s => go (homeOf pa) s
  | .np => .trap cPAGENP (w64 va)
  | .prot => .trap cPAGEPROT (w64 va)
  | .wait s => .stay s

/-- A scalar map instruction (R127). -/
def Cx.mapScalar (cx : Cx) (a d : Reg) (k : Option PReg) (p : MapPlan) : Ret :=
  let h := cx.x a
  match cx.mapHandle h with
  | .trap code v => .trap code v
  | .wait s => .stay s
  | .nomap s => .done (s.mapEffect cx.c cx.hi d k 0 none mNOMAP 0 [])
  | .ok slot m s =>
    let ref := cx.mapRef h slot
    let spanOk := fun (off n : Nat) => !cx.mustWait [⟨false, off, off + n⟩]
    let req : MapReq :=
      { req := cx.req, kind := .probe, vec := false, map := ref, key := 0, hash := 0, bucket := 0, hops := 0, lanes := [(0, 0)],
        first := false }
    if !p.accepts m then .trap cHANDLE h
    else if !p.fits m then .trap cILLEGAL (cx.k.instrWord cx.t)
    else if !cx.hi && cx.busy (Need.plain 2 .always (p.regs m)) then .stay s
    else
      match p.ask cx m with
      | .error (code, v) => .trap code v
      | .ok (.now code vals) => .done (s.mapEffect cx.c cx.hi d k vals.length none code 0 vals)
      | .ok (.key kind key operand words spad bytes) =>
        let row := match kind with | .rowPut _ => true | _ => false
        if cx.owesLoads || (row && s.portOwes cx.c) then .stay s
        else if !(match spad with | some off => spanOk off bytes | none => true) then .stay s
        else
          let s := if row then s.ownAccess cx.c else s
          let hash := m.hash key
          let b := bucketOf hash m.l m.s
          cx.arenaHome s (m.bucketVa b) fun home s =>
            let r := { req with kind := kind, key := key, hash := hash, bucket := b, lanes := [(0, operand)] }
            let direct := match kind with
              | .rowGet _ => dieOfCluster home == dieOf cx.c
              | _ => true
            if direct then cx.mapSend s (.slice home) r d k words spad
            else cx.mapSend s (.slice (replicaSlice home (dieOf cx.c))) { r with first := true } d k words spad
      | .ok (.scan bucket skip cap off bytes) =>
        if cx.owesLoads || !spanOk off bytes then .stay s
        else
          cx.mapSend s (.slice (homeOf slot)) { req with kind := .scan bucket skip off cap, bucket := bucket, first := true } d k 1
            (some off)
      | .ok (.stat item) =>
        if cx.owesLoads then .stay s
        else
          let go := fun (home : Nat) (s : State) => cx.mapSend s (.slice home) { req with kind := .stat item } d k 1 none
          if item = 0 then go (homeOf slot) s else cx.arenaHome s (if item = 1 then m.obase else m.rbase) go

/-- A scalar map instruction under its guard. -/
def mapInstr (f : MapForm) (k : Option PReg) (p : MapPlan) (s : State) : Out :=
  scalar { Need.fence 2 f.g [f.a] with pw := k.toList.filter (· != 0) } (fun cx => cx.mapScalar f.a f.d k p) s

/-! ## Key operations (R129–R133) -/

/-- MPROBE (R129). -/
def execMprobe (f : MapForm) (s : State) : Out :=
  mapInstr f (some f.k)
    { accepts := fun _ => true, fits := fun d => groupOk d.key f.b && groupOk d.vbytes f.d,
      regs := fun d => keyRegs d f.b ++ valRegs d f.d,
      ask := fun cx d => .ok (.key .probe (cx.number f.b d.key) 0 (xWords d.vbytes) none 0) } s

/-- MINSERT (R130). -/
def execMinsert (f : MapForm) (s : State) : Out :=
  mapInstr f (some f.k)
    { accepts := fun _ => true, fits := fun d => groupOk d.key f.b && groupOk d.vbytes f.d,
      regs := fun d => keyRegs d f.b ++ (if d.rows then [] else valRegs d f.d),
      ask := fun cx d => .ok (.key .insert (cx.number f.b d.key) (if d.rows then 0 else cx.number f.d d.vbytes) 0 none 0) } s

/-- MUPSERT (R131). -/
def execMupsert (f : MapOpForm) (s : State) : Out :=
  mapInstr { k := 0, b := f.b, a := f.a, d := f.d, g := f.g } none
    { accepts := fun d => !d.rows, fits := fun d => groupOk d.key f.b && groupOk d.vbytes f.d,
      regs := fun d => keyRegs d f.b ++ valRegs d f.d,
      ask := fun cx d => .ok (.key (.upsert f.op) (cx.number f.b d.key) (cx.number f.d d.vbytes) 0 none 0) } s

/-- MREMOVE (R132). -/
def execMremove (f : MapForm) (s : State) : Out :=
  mapInstr f (some f.k)
    { accepts := fun _ => true, fits := fun d => groupOk d.key f.b && groupOk d.vbytes f.d,
      regs := fun d => keyRegs d f.b ++ valRegs d f.d,
      ask := fun cx d => .ok (.key .remove (cx.number f.b d.key) 0 (xWords d.vbytes) none 0) } s

/-- MCAS (R133): the expected value, and above it the new one. -/
def execMcas (f : MapForm) (s : State) : Out :=
  mapInstr f (some f.k)
    { accepts := fun d => d.vals != 0 && !d.rows,
      fits := fun d => groupOk d.key f.b && f.d.toNat % (2 * xWords d.vbytes) == 0,
      regs := fun d => keyRegs d f.b ++ regsFrom f.d (2 * xWords d.vbytes),
      ask := fun cx d =>
        let n := xWords d.vbytes
        .ok (.key .cas (cx.number f.b d.key)
          (cx.number f.d d.vbytes + 256 ^ d.vbytes * cx.number (BitVec.ofNat 5 (f.d.toNat + n)) d.vbytes) n none 0) } s

/-! ## Rows (R138, R139) -/

/-- The checks of a local address of R138 for `n` bytes: its offset. -/
def Cx.rowPlace (cx : Cx) (a : W) (n : Nat) (align : Bool) : Except (Nat × W) Nat :=
  match ownPlace cx.c cx.t.sup a with
  | .error e => .error e
  | .ok (w, off) =>
    if 12 < w ∨ !cx.k.lcl.configured w ∨ Config.spadSize < off + n then .error (cWINDOW, a)
    else if align ∧ a.toNat % 64 ≠ 0 then .error (cALIGN, a)
    else .ok off

/-- MROWGET (R138). -/
def execMrowget (f : MapForm) (s : State) : Out :=
  mapInstr f (some f.k)
    { accepts := MapDesc.rows, fits := fun d => groupOk d.key f.b, regs := fun d => f.d :: keyRegs d f.b,
      ask := fun cx d =>
        match cx.rowPlace (cx.x f.d) d.rsize true with
        | .error e => .error e
        | .ok off => .ok (.key (.rowGet off) (cx.number f.b d.key) 0 0 (some off) d.rsize) } s

/-- MROWPUT (R139). -/
def execMrowput (f : MapForm) (s : State) : Out :=
  mapInstr f (some f.k)
    { accepts := MapDesc.rows, fits := fun d => groupOk d.key f.b, regs := fun d => f.d :: keyRegs d f.b,
      ask := fun cx d =>
        let a := cx.x f.d
        match cx.rowPlace a d.rsize true with
        | .error e => .error e
        | .ok off =>
          if cx.mustWait [⟨false, off, off + d.rsize⟩] then
            .ok (.key (.rowPut []) (cx.number f.b d.key) 0 0 (some off) d.rsize)
          else
            match cx.k.lcl.firstPoison off d.rsize with
            | some o => .error (cPOISON, atOffset a off o)
            | none => .ok (.key (.rowPut (cx.k.lcl.spad.readN off d.rsize)) (cx.number f.b d.key) 0 0 (some off) d.rsize) } s

/-! ## MSCAN, MSTAT, MREPL (R140–R142) -/

/-- MSCAN (R140). -/
def execMscan (f : MapForm) (s : State) : Out :=
  mapInstr f (some f.k)
    { accepts := fun _ => true, fits := fun _ => true, regs := fun _ => [f.b, f.b + 1, f.d],
      ask := fun cx d =>
        let a := cx.x (f.b + 1)
        let n := (cx.x f.d).toNat * d.sbytes
        match cx.rowPlace a n false with
        | .error e => .error e
        | .ok off => .ok (.scan ((cx.x f.b).bits 31 0) ((cx.x f.b).bits 63 32) (cx.x f.d).toNat off n) } s

/-- MSTAT (R141). -/
def execMstat (f : MapForm) (s : State) : Out :=
  mapInstr f (some f.k)
    { accepts := fun _ => true, fits := fun _ => true, regs := fun _ => [f.b, f.d],
      ask := fun cx d =>
        let item := (cx.x f.b).toNat
        if item = 0 ∨ (item = 1 ∧ d.ocap ≠ 0) ∨ (item = 2 ∧ d.rows) then .ok (.stat item) else .ok (.now mMISS [0]) } s

/-- MREPL (R142). -/
def execMrepl (f : MapForm) (s : State) : Out :=
  mapInstr f (some f.k)
    { accepts := fun d => d.rows && d.hotok, fits := fun d => groupOk d.key f.b, regs := fun d => f.d :: keyRegs d f.b,
      ask := fun cx d =>
        let x := cx.x f.d
        if x.bits 63 1 ≠ 0 then .error (cILLEGAL, x)
        else .ok (.key (.repl (x.getLsbD 0)) (cx.number f.b d.key) 0 0 none 0) } s

/-! ## Vector forms (R134–R137, R370) -/

/-- Lane i of a register group that holds numbers of n bytes (R134). -/
def VecUnit.laneNumber (u : VecUnit) (r : Reg) (n i : Nat) : Nat :=
  ofLanes 32 ((List.range (vWords n)).map fun j => lane 32 (u.reg (r.toNat + j)) i)

/-- Writes lane i of a register group. -/
def VecUnit.setLaneNumber (u : VecUnit) (r : Reg) (n i v : Nat) : VecUnit :=
  (List.range (vWords n)).foldl (fun u j =>
    let x := u.reg (r.toNat + j)
    u.setReg (r.toNat + j) (x - lane 32 x i * 2 ^ (32 * i) + lane 32 v j * 2 ^ (32 * i))) u

/-- Whether a V field names the group that a size asks for (R134). -/
def vGroupOk (bytes : Nat) (r : Reg) : Bool := bytes == 0 || r.toNat % vWords bytes == 0

/-- A vector map form is complete (R135–R137): lanes, predicate, status; then, for the lowest failed lane, a
completion trap (R370). -/
def State.mapVDone (s : State) (c : Nat) (d : Reg) (k : Option PReg) (bytes vl hops : Nat) (got : List LaneAns) : State :=
  let bad := got.filter fun a => a.code ≠ 0 || a.fail.isSome
  let lanes := (bad.map (·.lane)).foldl maskSet 0
  let hit := ((got.filter fun a => a.code = 0 && a.fail.isNone).map (·.lane)).foldl maskSet 0
  let code := if bad.isEmpty then 0 else if k.isSome then 1 else 3
  let fails := (List.range vl).filterMap fun i => (got.find? fun a => a.lane == i && a.fail.isSome).bind LaneAns.fail
  let s := s.onCore c fun x =>
    let vu := got.foldl (fun u a => match a.vals with
      | [] => u
      | v :: _ => if a.fail.isSome then u else u.setLaneNumber d bytes a.lane v) x.vu
    let x := { x with vu := vu, regs := { x.regs with mlane := w64 lanes } }
    let x := x.onTask false fun t => match k with | none => t | some p => t.setPred p (w64 hit)
    x.setMst false (mstOf code hops)
  match fails with
  | [] => s.resume c false 2 id
  | t :: _ => s.onCore c fun x => x.onTask false fun u => { u with wait := .none, fail := some t, skip := true }

/-- The requests of a vector form: one for each lane, or one for each key when lanes combine (R134, R136). -/
def laneGroups (combine : Bool) : List (Nat × Nat × Nat) → List (Nat × List (Nat × Nat))
  | [] => []
  | (i, key, x) :: r =>
    let g := laneGroups combine r
    if combine && g.any (·.1 == key) then
      (key, (i, x) :: ((g.find? (·.1 == key)).map (·.2)).getD []) :: g.filter (·.1 != key)
    else (key, [(i, x)]) :: g

/-- Sends one request of a vector form; a lane that cannot be routed fails at once (R370). -/
def Cx.mapLaneSend (cx : Cx) (m : MapDesc) (req : MapReq) (acc : State × List LaneAns × Nat) (g : Nat × List (Nat × Nat)) :
    State × List LaneAns × Nat :=
  let (s, got, owed) := acc
  let hash := m.hash g.1
  let b := bucketOf hash m.l m.s
  let r := { req with key := g.1, hash := hash, bucket := b, lanes := g.2 }
  match s.engineTranslate cx.c cx.k.asidOf cx.k.rootOf false true (m.bucketVa b) with
  | .ok pa s => (s.send (.core cx.c) (.slice (homeOf pa)) .request (.mapReq r), got, owed + 1)
  | .np => (s, got ++ r.failed ⟨cPAGENP, w64 (m.bucketVa b)⟩, owed)
  | .prot => (s, got ++ r.failed ⟨cPAGEPROT, w64 (m.bucketVa b)⟩, owed)
  | .wait s => (s, got, owed)

/-- A vector map form (R134–R137). In carried code it is ILLEGAL before it is HIVEC (R162; DESIGN CHOICE, assumption 75). -/
def mapVector (a b d : Reg) (g : Guard) (k : Option PReg) (kind : MapKind) (combine : Bool) (s : State) : Out :=
  scalar { Need.fence 2 g [a] with noHi := true, carried := false, readVl := true, pw := k.toList.filter (· != 0) } (fun cx =>
    let h := cx.x a
    let vl := cx.k.vu.vl
    match cx.mapHandle h with
    | .trap code v => .trap code v
    | .wait s => .stay s
    | .nomap s =>
      .done (s.onCore cx.c fun x =>
        let x := { x with regs := { x.regs with mlane := w64 (2 ^ vl - 1) } }
        (x.onTask false fun t => match k with | none => t | some p => t.setPred p 0).setMst false (mstOf mNOMAP 0))
    | .ok slot m s =>
      let keys := regsFrom b (vWords m.key)
      let vals := regsFrom d (vWords m.vbytes)
      let need := { Need.plain 2 .always [] with vr := keys ++ (if combine then vals else []), vw := if combine then [] else vals }
      if combine && m.rows then .trap cHANDLE h
      else if !(vGroupOk m.key b && vGroupOk m.vbytes d) then .trap cILLEGAL (cx.k.instrWord cx.t)
      else if cx.busy need || cx.owesLoads then .stay s
      else
        let u := cx.k.vu
        let lanes := (List.range vl).map fun i => (i, u.laneNumber b m.key i, if combine then u.laneNumber d m.vbytes i else 0)
        let req : MapReq :=
          { req := cx.req, kind := kind, vec := true, map := cx.mapRef h slot, key := 0, hash := 0, bucket := 0, hops := 0,
            lanes := [], first := false }
        let groups := laneGroups combine lanes
        let waits := groups.findSome? fun q =>
          match s.engineTranslate cx.c cx.k.asidOf cx.k.rootOf false true (m.bucketVa (bucketOf (m.hash q.1) m.l m.s)) with
          | .wait s => some s
          | _ => none
        match waits with
        | some s => .stay s
        | none =>
          let mask := s.latencyMask (unitCore cx.c)
          let (s, got, owed) := groups.foldl (cx.mapLaneSend m req) (s, [], 0)
          if owed = 0 then .stay (s.mapVDone cx.c d k m.vbytes vl 0 got)
          else cx.await s (.mapV d k m.vbytes vl owed got 0 h.toNat cx.k.regs.cyc.toNat mask)) s

/-- MPROBEV (R135). -/
def execMprobev (f : MapForm) (s : State) : Out := mapVector f.a f.b f.d f.g (some f.k) .probe false s

/-- MUPSERTV (R136). -/
def execMupsertv (f : MapOpForm) (s : State) : Out := mapVector f.a f.b f.d f.g none (.upsert f.op) true s

/-! ## The reply (R127 step 6) -/

/-- What a reply does to the core's cached descriptor: dropped on a hop, L and S installed by MSTAT unless another map
request of the core on that map is outstanding (R111, R128, R141). -/
def Core.afterReply (k : Core) (hi : Bool) (handle hops : Nat) (lvl : Option (Nat × Nat)) : Core :=
  if hops ≠ 0 then { k with dcache := k.dcache.filter (·.1 != handle) }
  else
    match lvl with
    | none => k
    | some (l, sp) =>
      if k.mapOutstanding (!hi) handle then k
      else
        { k with dcache := k.dcache.map fun e =>
            if e.1 = handle then
              (e.1, e.2.1, e.2.2 - dfield e.2.2 7 1 * 256 ^ 7 + l * 256 ^ 7 - dfield e.2.2 24 4 * 256 ^ 24 + sp * 256 ^ 24)
            else e }

/-- A map instruction's monitors at its reply (R364). -/
def State.mapMonitor (s : State) (c start mask : Nat) : State :=
  (s.event (unitCore c) 0x01).latency (unitCore c) 0x01 mask ((s.core c).regs.cyc.toNat - start)

/-- A vector form's answers as they come: its values are whole numbers. -/
def LaneAns.whole (a : LaneAns) : LaneAns := { a with vals := if a.vals.isEmpty then [] else [ofLanes 64 a.vals] }

/-- MAP_REPLY (R127, R370). -/
def execMapReply (k : Nat) (s : State) : Out :=
  packetStep k (fun p s =>
    match p.dst, p.body with
    | .core c, .mapReply hi _ hops lanes lvl =>
      match s.waitOf { core := c, hi := hi, ctx := none, sup := false } with
      | .map d k words spad handle start mask =>
        let s := (s.onCore c fun x => x.afterReply hi handle hops lvl).mapMonitor c start mask
        match lanes with
        | [] => some s
        | a :: _ =>
          match a.fail with
          | some t => some (s.answerFail c hi t)
          | none => some ((s.mapEffect c hi d k words spad a.code hops a.vals).resume c hi 2 id)
      | .mapV d k bytes vl owed got most handle start mask =>
        let s := s.onCore c fun x => x.afterReply hi handle hops none
        let got := got ++ lanes.map LaneAns.whole
        let most := Nat.max most hops
        if owed ≤ 1 then some ((s.mapMonitor c start mask).mapVDone c d k bytes vl most got)
        else
          some (s.onCore c fun x => x.onTask hi fun t =>
            { t with wait := .mapV d k bytes vl (owed - 1) got most handle start mask })
      | _ => some s
    | _, _ => none) s

end Sys2Proof.Machine
end

