-- ==== Sys2Proof/Decode.lean ====
section
/-! DEFINITION. The instruction encoding: the bit ruler of R17, the coded sub-fields of R27, the encoder, and
the decoder, which is total on any halfwords and rejects by name. -/

namespace Sys2Proof

/-- The code of a Size (R27). -/
def Size.toBits : Size → BitVec 3
  | .b => 0
  | .h => 1
  | .w => 2
  | .d => 3
  | .n => 4

/-- The Size of a code, none for an unlisted value (R27). -/
def Size.ofBits (v : BitVec 3) : Option Size :=
  match v.toNat with
  | 0 => some .b
  | 1 => some .h
  | 2 => some .w
  | 3 => some .d
  | 4 => some .n
  | _ => none

/-- The code of a CmpCond (R27). -/
def CmpCond.toBits : CmpCond → BitVec 4
  | .eq => 0
  | .ne => 1
  | .lt => 2
  | .ge => 3
  | .ltu => 4
  | .geu => 5
  | .le => 6
  | .gt => 7
  | .leu => 8
  | .gtu => 9

/-- The CmpCond of a code, none for an unlisted value (R27). -/
def CmpCond.ofBits (v : BitVec 4) : Option CmpCond :=
  match v.toNat with
  | 0 => some .eq
  | 1 => some .ne
  | 2 => some .lt
  | 3 => some .ge
  | 4 => some .ltu
  | 5 => some .geu
  | 6 => some .le
  | 7 => some .gt
  | 8 => some .leu
  | 9 => some .gtu
  | _ => none

/-- The code of a CmpiCond (R27). -/
def CmpiCond.toBits : CmpiCond → BitVec 2
  | .eq => 0
  | .ne => 1
  | .lt => 2
  | .ge => 3

/-- The CmpiCond of a code, none for an unlisted value (R27). -/
def CmpiCond.ofBits (v : BitVec 2) : Option CmpiCond :=
  match v.toNat with
  | 0 => some .eq
  | 1 => some .ne
  | 2 => some .lt
  | _ => some .ge

/-- The code of a VcmpCond (R27). -/
def VcmpCond.toBits : VcmpCond → BitVec 2
  | .eq => 0
  | .ne => 1
  | .lt => 2
  | .le => 3

/-- The VcmpCond of a code, none for an unlisted value (R27). -/
def VcmpCond.ofBits (v : BitVec 2) : Option VcmpCond :=
  match v.toNat with
  | 0 => some .eq
  | 1 => some .ne
  | 2 => some .lt
  | _ => some .le

/-- The code of a FcmpCond (R27). -/
def FcmpCond.toBits : FcmpCond → BitVec 3
  | .eq => 0
  | .ne => 1
  | .lt => 2
  | .le => 3
  | .un => 4

/-- The FcmpCond of a code, none for an unlisted value (R27). -/
def FcmpCond.ofBits (v : BitVec 3) : Option FcmpCond :=
  match v.toNat with
  | 0 => some .eq
  | 1 => some .ne
  | 2 => some .lt
  | 3 => some .le
  | 4 => some .un
  | _ => none

/-- The code of a BrCond (R27). -/
def BrCond.toBits : BrCond → BitVec 5
  | .eq => 0
  | .ne => 1
  | .lt => 2
  | .ge => 3
  | .gt => 4
  | .le => 5

/-- The BrCond of a code, none for an unlisted value (R27). -/
def BrCond.ofBits (v : BitVec 5) : Option BrCond :=
  match v.toNat with
  | 0 => some .eq
  | 1 => some .ne
  | 2 => some .lt
  | 3 => some .ge
  | 4 => some .gt
  | 5 => some .le
  | _ => none

/-- The code of a BpCond (R27). -/
def BpCond.toBits : BpCond → BitVec 5
  | .any => 0
  | .all => 1
  | .none => 2
  | .b0 => 3
  | .nb0 => 4

/-- The BpCond of a code, none for an unlisted value (R27). -/
def BpCond.ofBits (v : BitVec 5) : Option BpCond :=
  match v.toNat with
  | 0 => some .any
  | 1 => some .all
  | 2 => some .none
  | 3 => some .b0
  | 4 => some .nb0
  | _ => none

/-- The code of a CvtTy (R27). -/
def CvtTy.toBits : CvtTy → BitVec 3
  | .f64 => 0
  | .f32 => 1
  | .f16 => 2
  | .bf16 => 3
  | .i64 => 4
  | .n64 => 5
  | .i32 => 6
  | .n32 => 7

/-- The CvtTy of a code, none for an unlisted value (R27). -/
def CvtTy.ofBits (v : BitVec 3) : Option CvtTy :=
  match v.toNat with
  | 0 => some .f64
  | 1 => some .f32
  | 2 => some .f16
  | 3 => some .bf16
  | 4 => some .i64
  | 5 => some .n64
  | 6 => some .i32
  | _ => some .n32

/-- The code of a AmoOp (R27). -/
def AmoOp.toBits : AmoOp → BitVec 4
  | .add => 0
  | .and => 1
  | .or => 2
  | .xor => 3
  | .min => 4
  | .max => 5
  | .minu => 6
  | .maxu => 7
  | .swap => 8
  | .fadd => 9

/-- The AmoOp of a code, none for an unlisted value (R27). -/
def AmoOp.ofBits (v : BitVec 4) : Option AmoOp :=
  match v.toNat with
  | 0 => some .add
  | 1 => some .and
  | 2 => some .or
  | 3 => some .xor
  | 4 => some .min
  | 5 => some .max
  | 6 => some .minu
  | 7 => some .maxu
  | 8 => some .swap
  | 9 => some .fadd
  | _ => none

/-- The code of a ExtWidth (R27). -/
def ExtWidth.toBits : ExtWidth → BitVec 2
  | .w8 => 0
  | .w16 => 1
  | .w32 => 2

/-- The ExtWidth of a code, none for an unlisted value (R27). -/
def ExtWidth.ofBits (v : BitVec 2) : Option ExtWidth :=
  match v.toNat with
  | 0 => some .w8
  | 1 => some .w16
  | 2 => some .w32
  | _ => none

/-- The code of a MapOp (R27). -/
def MapOp.toBits : MapOp → BitVec 4
  | .add => 0
  | .adds => 1
  | .fadd => 2
  | .min => 3
  | .max => 4
  | .or => 5
  | .and => 6
  | .replace => 7
  | .keep => 8

/-- The MapOp of a code, none for an unlisted value (R27). -/
def MapOp.ofBits (v : BitVec 4) : Option MapOp :=
  match v.toNat with
  | 0 => some .add
  | 1 => some .adds
  | 2 => some .fadd
  | 3 => some .min
  | 4 => some .max
  | 5 => some .or
  | 6 => some .and
  | 7 => some .replace
  | 8 => some .keep
  | _ => none

/-- The code of a Ty (R27). -/
def Ty.toBits : Ty → BitVec 3
  | .f32 => 0
  | .f16 => 1
  | .bf16 => 2
  | .i32 => 3
  | .n32 => 4
  | .i16 => 5
  | .n16 => 6

/-- The Ty of a code, none for an unlisted value (R27). -/
def Ty.ofBits (v : BitVec 3) : Option Ty :=
  match v.toNat with
  | 0 => some .f32
  | 1 => some .f16
  | 2 => some .bf16
  | 3 => some .i32
  | 4 => some .n32
  | 5 => some .i16
  | 6 => some .n16
  | _ => none

/-- The code of a Fmt (R27). -/
def Fmt.toBits : Fmt → BitVec 4
  | .f32 => 0
  | .f16 => 1
  | .bf16 => 2
  | .e4m3 => 3
  | .e5m2 => 4
  | .e2m1 => 5
  | .t8 => 6
  | .i8 => 7
  | .i16 => 8
  | .i32 => 9
  | .n8 => 10
  | .n16 => 11
  | .n32 => 12
  | .q8r => 13
  | .q4r => 14

/-- The Fmt of a code, none for an unlisted value (R27). -/
def Fmt.ofBits (v : BitVec 4) : Option Fmt :=
  match v.toNat with
  | 0 => some .f32
  | 1 => some .f16
  | 2 => some .bf16
  | 3 => some .e4m3
  | 4 => some .e5m2
  | 5 => some .e2m1
  | 6 => some .t8
  | 7 => some .i8
  | 8 => some .i16
  | 9 => some .i32
  | 10 => some .n8
  | 11 => some .n16
  | 12 => some .n32
  | 13 => some .q8r
  | 14 => some .q4r
  | _ => none

/-- The code of a Scope (R27). -/
def Scope.toBits : Scope → BitVec 2
  | .core => 0
  | .cluster => 1
  | .package => 2
  | .system => 3

/-- The Scope of a code, none for an unlisted value (R27). -/
def Scope.ofBits (v : BitVec 2) : Option Scope :=
  match v.toNat with
  | 0 => some .core
  | 1 => some .cluster
  | 2 => some .package
  | _ => some .system

/-- The code of a RedOp (R27). -/
def RedOp.toBits : RedOp → BitVec 3
  | .add => 0
  | .min => 1
  | .max => 2
  | .and => 3
  | .or => 4
  | .xor => 5

/-- The RedOp of a code, none for an unlisted value (R27). -/
def RedOp.ofBits (v : BitVec 3) : Option RedOp :=
  match v.toNat with
  | 0 => some .add
  | 1 => some .min
  | 2 => some .max
  | 3 => some .and
  | 4 => some .or
  | 5 => some .xor
  | _ => none

/-- The code of a ScanOp (R27). -/
def ScanOp.toBits : ScanOp → BitVec 3
  | .add => 0
  | .min => 1
  | .max => 2

/-- The ScanOp of a code, none for an unlisted value (R27). -/
def ScanOp.ofBits (v : BitVec 3) : Option ScanOp :=
  match v.toNat with
  | 0 => some .add
  | 1 => some .min
  | 2 => some .max
  | _ => none

/-- The guard field [12:9] (R22). -/
def Guard.toBits (g : Guard) : BitVec 4 := BitVec.ofBool g.sense ++ g.p

/-- The guard of field [12:9]. -/
def Guard.ofBits (v : BitVec 4) : Guard := ⟨v.getLsbD 3, v.extractLsb' 0 3⟩

/-- The ruler of R17: L, major, guard, and the fields d [17:13], a [22:18], b [27:23], top [31:28]. -/
structure Fields where
  l : Bool
  major : BitVec 7
  g : BitVec 4
  d : BitVec 5
  a : BitVec 5
  b : BitVec 5
  top : BitVec 4
  deriving DecidableEq, Repr

/-- The 32-bit word of the ruler (R17). -/
def Fields.word (f : Fields) : BitVec 32 :=
  (f.top ++ f.b ++ f.a ++ f.d ++ f.g ++ f.major ++ BitVec.ofBool f.l ++ 1#1 : BitVec (4 + 5 + 5 + 5 + 4 + 7 + 1 + 1))

/-- The ruler laid over a 32-bit word (R17). -/
def Fields.ofWord (w : BitVec 32) : Fields :=
  { l := w.getLsbD 1, major := w.extractLsb' 2 7, g := w.extractLsb' 9 4, d := w.extractLsb' 13 5,
    a := w.extractLsb' 18 5, b := w.extractLsb' 23 5, top := w.extractLsb' 28 4 }

/-- The ruler's fields of a QForm. -/
def QForm.put (major : BitVec 7) (m : BitVec 2) (x : QForm) : Fields :=
  { l := false, major := major, g := x.g.toBits, d := x.d, a := x.a,
    b := x.b, top := (BitVec.ofBool x.pb ++ BitVec.ofBool x.pd ++ m : BitVec (1 + 1 + 2)) }

/-- The QForm read from the ruler's fields; none where a coded field has no such value. -/
def QForm.get (f : Fields) : Option QForm :=
    some { pb := f.top.getLsbD 3, pd := f.top.getLsbD 2, b := f.b, a := f.a, d := f.d, g := Guard.ofBits f.g }

/-- The ruler's fields of a QLit. -/
def QLit.put (major : BitVec 7) (m : BitVec 2) (x : QLit) : Fields :=
  { l := true, major := major, g := x.g.toBits, d := x.d, a := x.a,
    b := 0, top := (0#1 ++ BitVec.ofBool x.pd ++ m : BitVec (1 + 1 + 2)) }

/-- The QLit read from the ruler's fields; none where a coded field has no such value. -/
def QLit.get (lit : BitVec 32) (f : Fields) : Option QLit :=
    some { pd := f.top.getLsbD 2, a := f.a, d := f.d, g := Guard.ofBits f.g, lit := lit }

/-- The ruler's fields of a Q1. -/
def Q1.put (major : BitVec 7) (m : BitVec 2) (x : Q1) : Fields :=
  { l := false, major := major, g := x.g.toBits, d := x.d, a := x.a,
    b := 0, top := (0#1 ++ BitVec.ofBool x.pd ++ m : BitVec (1 + 1 + 2)) }

/-- The Q1 read from the ruler's fields; none where a coded field has no such value. -/
def Q1.get (f : Fields) : Option Q1 :=
    some { pd := f.top.getLsbD 2, a := f.a, d := f.d, g := Guard.ofBits f.g }

/-- The ruler's fields of a ExtForm. -/
def ExtForm.put (major : BitVec 7) (m : BitVec 2) (x : ExtForm) : Fields :=
  { l := false, major := major, g := x.g.toBits, d := x.d, a := x.a,
    b := (0#2 ++ BitVec.ofBool x.uns ++ x.width.toBits : BitVec (2 + 1 + 2)), top := (0#1 ++ BitVec.ofBool x.pd ++ m : BitVec (1 + 1 + 2)) }

/-- The ExtForm read from the ruler's fields; none where a coded field has no such value. -/
def ExtForm.get (f : Fields) : Option ExtForm :=
    (ExtWidth.ofBits (f.b.extractLsb' 0 2)).bind fun width' =>
    some { pd := f.top.getLsbD 2, uns := f.b.getLsbD 2, width := width', a := f.a, d := f.d, g := Guard.ofBits f.g }

/-- The ruler's fields of a SelForm. -/
def SelForm.put (major : BitVec 7) (x : SelForm) : Fields :=
  { l := false, major := major, g := x.g.toBits, d := x.d, a := x.a,
    b := x.b, top := (0#1 ++ x.c : BitVec (1 + 3)) }

/-- The SelForm read from the ruler's fields; none where a coded field has no such value. -/
def SelForm.get (f : Fields) : Option SelForm :=
    some { c := f.top.extractLsb' 0 3, b := f.b, a := f.a, d := f.d, g := Guard.ofBits f.g }

/-- The ruler's fields of a SelLit. -/
def SelLit.put (major : BitVec 7) (x : SelLit) : Fields :=
  { l := true, major := major, g := x.g.toBits, d := x.d, a := x.a,
    b := 0, top := (0#1 ++ x.c : BitVec (1 + 3)) }

/-- The SelLit read from the ruler's fields; none where a coded field has no such value. -/
def SelLit.get (lit : BitVec 32) (f : Fields) : Option SelLit :=
    some { c := f.top.extractLsb' 0 3, a := f.a, d := f.d, g := Guard.ofBits f.g, lit := lit }

/-- The ruler's fields of a R3. -/
def R3.put (major : BitVec 7) (m : BitVec 4) (x : R3) : Fields :=
  { l := false, major := major, g := x.g.toBits, d := x.d, a := x.a,
    b := x.b, top := m }

/-- The R3 read from the ruler's fields; none where a coded field has no such value. -/
def R3.get (f : Fields) : Option R3 :=
    some { b := f.b, a := f.a, d := f.d, g := Guard.ofBits f.g }

/-- The ruler's fields of a R2. -/
def R2.put (major : BitVec 7) (m : BitVec 4) (mb : BitVec 5) (x : R2) : Fields :=
  { l := false, major := major, g := x.g.toBits, d := x.d, a := x.a,
    b := mb, top := m }

/-- The R2 read from the ruler's fields; none where a coded field has no such value. -/
def R2.get (f : Fields) : Option R2 :=
    some { a := f.a, d := f.d, g := Guard.ofBits f.g }

/-- The ruler's fields of a Rba. -/
def Rba.put (major : BitVec 7) (m : BitVec 4) (x : Rba) : Fields :=
  { l := false, major := major, g := x.g.toBits, d := 0, a := x.a,
    b := x.b, top := m }

/-- The Rba read from the ruler's fields; none where a coded field has no such value. -/
def Rba.get (f : Fields) : Option Rba :=
    some { b := f.b, a := f.a, g := Guard.ofBits f.g }

/-- The ruler's fields of a Ra. -/
def Ra.put (major : BitVec 7) (m : BitVec 4) (x : Ra) : Fields :=
  { l := false, major := major, g := x.g.toBits, d := 0, a := x.a,
    b := 0, top := m }

/-- The Ra read from the ruler's fields; none where a coded field has no such value. -/
def Ra.get (f : Fields) : Option Ra :=
    some { a := f.a, g := Guard.ofBits f.g }

/-- The ruler's fields of a Rd. -/
def Rd.put (major : BitVec 7) (m : BitVec 4) (mb : BitVec 5) (x : Rd) : Fields :=
  { l := false, major := major, g := x.g.toBits, d := x.d, a := 0,
    b := mb, top := m }

/-- The Rd read from the ruler's fields; none where a coded field has no such value. -/
def Rd.get (f : Fields) : Option Rd :=
    some { d := f.d, g := Guard.ofBits f.g }

/-- The ruler's fields of a G0. -/
def G0.put (major : BitVec 7) (m : BitVec 4) (ma : BitVec 5) (x : G0) : Fields :=
  { l := false, major := major, g := x.g.toBits, d := 0, a := ma,
    b := 0, top := m }

/-- The G0 read from the ruler's fields; none where a coded field has no such value. -/
def G0.get (f : Fields) : Option G0 :=
    some { g := Guard.ofBits f.g }

/-- The ruler's fields of a R2Lit. -/
def R2Lit.put (major : BitVec 7) (m : BitVec 4) (mb : BitVec 5) (x : R2Lit) : Fields :=
  { l := true, major := major, g := x.g.toBits, d := x.d, a := x.a,
    b := mb, top := m }

/-- The R2Lit read from the ruler's fields; none where a coded field has no such value. -/
def R2Lit.get (lit : BitVec 32) (f : Fields) : Option R2Lit :=
    some { a := f.a, d := f.d, g := Guard.ofBits f.g, lit := lit }

/-- The ruler's fields of a CmpForm. -/
def CmpForm.put (major : BitVec 7) (x : CmpForm) : Fields :=
  { l := false, major := major, g := x.g.toBits, d := (x.cond.toBits.extractLsb' 2 2 ++ x.pd : BitVec (2 + 3)), a := x.a,
    b := x.b, top := (BitVec.ofBool x.pb ++ 0#1 ++ x.cond.toBits.extractLsb' 0 2 : BitVec (1 + 1 + 2)) }

/-- The CmpForm read from the ruler's fields; none where a coded field has no such value. -/
def CmpForm.get (f : Fields) : Option CmpForm :=
    (CmpCond.ofBits (f.d.extractLsb' 3 2 ++ f.top.extractLsb' 0 2 : BitVec (2 + 2))).bind fun cond' =>
    some { pb := f.top.getLsbD 3, cond := cond', b := f.b, a := f.a, pd := f.d.extractLsb' 0 3, g := Guard.ofBits f.g }

/-- The ruler's fields of a CmpLit. -/
def CmpLit.put (major : BitVec 7) (x : CmpLit) : Fields :=
  { l := true, major := major, g := x.g.toBits, d := (x.cond.toBits.extractLsb' 2 2 ++ x.pd : BitVec (2 + 3)), a := x.a,
    b := 0, top := (0#2 ++ x.cond.toBits.extractLsb' 0 2 : BitVec (2 + 2)) }

/-- The CmpLit read from the ruler's fields; none where a coded field has no such value. -/
def CmpLit.get (lit : BitVec 32) (f : Fields) : Option CmpLit :=
    (CmpCond.ofBits (f.d.extractLsb' 3 2 ++ f.top.extractLsb' 0 2 : BitVec (2 + 2))).bind fun cond' =>
    some { cond := cond', a := f.a, pd := f.d.extractLsb' 0 3, g := Guard.ofBits f.g, lit := lit }

/-- The ruler's fields of a IForm. -/
def IForm.put (major : BitVec 7) (x : IForm) : Fields :=
  { l := false, major := major, g := x.g.toBits, d := x.d, a := x.a,
    b := x.imm.extractLsb' 0 5, top := x.imm.extractLsb' 5 4 }

/-- The IForm read from the ruler's fields; none where a coded field has no such value. -/
def IForm.get (f : Fields) : Option IForm :=
    some { imm := (f.top ++ f.b : BitVec (4 + 5)), a := f.a, d := f.d, g := Guard.ofBits f.g }

/-- The ruler's fields of a ShiftI. -/
def ShiftI.put (major : BitVec 7) (m : BitVec 2) (x : ShiftI) : Fields :=
  { l := false, major := major, g := x.g.toBits, d := x.d, a := x.a,
    b := x.n.extractLsb' 0 5, top := (m ++ 0#1 ++ x.n.extractLsb' 5 1 : BitVec (2 + 1 + 1)) }

/-- The ShiftI read from the ruler's fields; none where a coded field has no such value. -/
def ShiftI.get (f : Fields) : Option ShiftI :=
    some { n := (f.top.extractLsb' 0 1 ++ f.b : BitVec (1 + 5)), a := f.a, d := f.d, g := Guard.ofBits f.g }

/-- The ruler's fields of a CmpiForm. -/
def CmpiForm.put (major : BitVec 7) (x : CmpiForm) : Fields :=
  { l := false, major := major, g := x.g.toBits, d := (x.cond.toBits ++ x.pd : BitVec (2 + 3)), a := x.a,
    b := x.imm.extractLsb' 0 5, top := x.imm.extractLsb' 5 4 }

/-- The CmpiForm read from the ruler's fields; none where a coded field has no such value. -/
def CmpiForm.get (f : Fields) : Option CmpiForm :=
    (CmpiCond.ofBits (f.d.extractLsb' 3 2)).bind fun cond' =>
    some { imm := (f.top ++ f.b : BitVec (4 + 5)), cond := cond', a := f.a, pd := f.d.extractLsb' 0 3, g := Guard.ofBits f.g }

/-- The ruler's fields of a CmpiLit. -/
def CmpiLit.put (major : BitVec 7) (x : CmpiLit) : Fields :=
  { l := true, major := major, g := x.g.toBits, d := (x.cond.toBits ++ x.pd : BitVec (2 + 3)), a := x.a,
    b := 0, top := 0 }

/-- The CmpiLit read from the ruler's fields; none where a coded field has no such value. -/
def CmpiLit.get (lit : BitVec 32) (f : Fields) : Option CmpiLit :=
    (CmpiCond.ofBits (f.d.extractLsb' 3 2)).bind fun cond' =>
    some { cond := cond', a := f.a, pd := f.d.extractLsb' 0 3, g := Guard.ofBits f.g, lit := lit }

/-- The ruler's fields of a MovForm. -/
def MovForm.put (major : BitVec 7) (ma : BitVec 5) (x : MovForm) : Fields :=
  { l := false, major := major, g := x.g.toBits, d := x.d, a := ma,
    b := x.imm.extractLsb' 0 5, top := x.imm.extractLsb' 5 4 }

/-- The MovForm read from the ruler's fields; none where a coded field has no such value. -/
def MovForm.get (f : Fields) : Option MovForm :=
    some { imm := (f.top ++ f.b : BitVec (4 + 5)), d := f.d, g := Guard.ofBits f.g }

/-- The ruler's fields of a MovLit. -/
def MovLit.put (major : BitVec 7) (ma : BitVec 5) (x : MovLit) : Fields :=
  { l := true, major := major, g := x.g.toBits, d := x.d, a := ma,
    b := 0, top := 0 }

/-- The MovLit read from the ruler's fields; none where a coded field has no such value. -/
def MovLit.get (lit : BitVec 32) (f : Fields) : Option MovLit :=
    some { d := f.d, g := Guard.ofBits f.g, lit := lit }

/-- The ruler's fields of a FcmpForm. -/
def FcmpForm.put (major : BitVec 7) (x : FcmpForm) : Fields :=
  { l := false, major := major, g := x.g.toBits, d := (0#2 ++ x.pd : BitVec (2 + 3)), a := x.a,
    b := x.b, top := (BitVec.ofBool x.dbl ++ x.cond.toBits : BitVec (1 + 3)) }

/-- The FcmpForm read from the ruler's fields; none where a coded field has no such value. -/
def FcmpForm.get (f : Fields) : Option FcmpForm :=
    (FcmpCond.ofBits (f.top.extractLsb' 0 3)).bind fun cond' =>
    some { dbl := f.top.getLsbD 3, cond := cond', b := f.b, a := f.a, pd := f.d.extractLsb' 0 3, g := Guard.ofBits f.g }

/-- The ruler's fields of a FcvtForm. -/
def FcvtForm.put (major : BitVec 7) (x : FcvtForm) : Fields :=
  { l := false, major := major, g := x.g.toBits, d := x.d, a := x.a,
    b := (0#2 ++ x.src.toBits : BitVec (2 + 3)), top := (0#1 ++ x.dst.toBits : BitVec (1 + 3)) }

/-- The FcvtForm read from the ruler's fields; none where a coded field has no such value. -/
def FcvtForm.get (f : Fields) : Option FcvtForm :=
    (CvtTy.ofBits (f.top.extractLsb' 0 3)).bind fun dst' =>
    (CvtTy.ofBits (f.b.extractLsb' 0 3)).bind fun src' =>
    some { dst := dst', src := src', a := f.a, d := f.d, g := Guard.ofBits f.g }

/-- The ruler's fields of a BrForm. -/
def BrForm.put (major : BitVec 7) (x : BrForm) : Fields :=
  { l := false, major := major, g := x.g.toBits, d := x.cond.toBits, a := x.a,
    b := x.off.extractLsb' 0 5, top := x.off.extractLsb' 5 4 }

/-- The BrForm read from the ruler's fields; none where a coded field has no such value. -/
def BrForm.get (f : Fields) : Option BrForm :=
    (BrCond.ofBits (f.d)).bind fun cond' =>
    some { off := (f.top ++ f.b : BitVec (4 + 5)), cond := cond', a := f.a, g := Guard.ofBits f.g }

/-- The ruler's fields of a BrLit. -/
def BrLit.put (major : BitVec 7) (x : BrLit) : Fields :=
  { l := true, major := major, g := x.g.toBits, d := x.cond.toBits, a := x.a,
    b := 0, top := 0 }

/-- The BrLit read from the ruler's fields; none where a coded field has no such value. -/
def BrLit.get (lit : BitVec 32) (f : Fields) : Option BrLit :=
    (BrCond.ofBits (f.d)).bind fun cond' =>
    some { cond := cond', a := f.a, g := Guard.ofBits f.g, lit := lit }

/-- The ruler's fields of a BpForm. -/
def BpForm.put (major : BitVec 7) (x : BpForm) : Fields :=
  { l := false, major := major, g := x.g.toBits, d := x.cond.toBits, a := (0#2 ++ x.a : BitVec (2 + 3)),
    b := x.off.extractLsb' 0 5, top := x.off.extractLsb' 5 4 }

/-- The BpForm read from the ruler's fields; none where a coded field has no such value. -/
def BpForm.get (f : Fields) : Option BpForm :=
    (BpCond.ofBits (f.d)).bind fun cond' =>
    some { off := (f.top ++ f.b : BitVec (4 + 5)), cond := cond', a := f.a.extractLsb' 0 3, g := Guard.ofBits f.g }

/-- The ruler's fields of a BpLit. -/
def BpLit.put (major : BitVec 7) (x : BpLit) : Fields :=
  { l := true, major := major, g := x.g.toBits, d := x.cond.toBits, a := (0#2 ++ x.a : BitVec (2 + 3)),
    b := 0, top := 0 }

/-- The BpLit read from the ruler's fields; none where a coded field has no such value. -/
def BpLit.get (lit : BitVec 32) (f : Fields) : Option BpLit :=
    (BpCond.ofBits (f.d)).bind fun cond' =>
    some { cond := cond', a := f.a.extractLsb' 0 3, g := Guard.ofBits f.g, lit := lit }

/-- The ruler's fields of a JForm. -/
def JForm.put (major : BitVec 7) (md : BitVec 5) (x : JForm) : Fields :=
  { l := false, major := major, g := x.g.toBits, d := md, a := 0,
    b := x.off.extractLsb' 0 5, top := x.off.extractLsb' 5 4 }

/-- The JForm read from the ruler's fields; none where a coded field has no such value. -/
def JForm.get (f : Fields) : Option JForm :=
    some { off := (f.top ++ f.b : BitVec (4 + 5)), g := Guard.ofBits f.g }

/-- The ruler's fields of a JLit. -/
def JLit.put (major : BitVec 7) (md : BitVec 5) (x : JLit) : Fields :=
  { l := true, major := major, g := x.g.toBits, d := md, a := 0,
    b := 0, top := 0 }

/-- The JLit read from the ruler's fields; none where a coded field has no such value. -/
def JLit.get (lit : BitVec 32) (f : Fields) : Option JLit :=
    some { g := Guard.ofBits f.g, lit := lit }

/-- The ruler's fields of a JlForm. -/
def JlForm.put (major : BitVec 7) (md : BitVec 5) (x : JlForm) : Fields :=
  { l := false, major := major, g := x.g.toBits, d := md, a := x.a,
    b := x.off.extractLsb' 0 5, top := x.off.extractLsb' 5 4 }

/-- The JlForm read from the ruler's fields; none where a coded field has no such value. -/
def JlForm.get (f : Fields) : Option JlForm :=
    some { off := (f.top ++ f.b : BitVec (4 + 5)), a := f.a, g := Guard.ofBits f.g }

/-- The ruler's fields of a JlLit. -/
def JlLit.put (major : BitVec 7) (md : BitVec 5) (x : JlLit) : Fields :=
  { l := true, major := major, g := x.g.toBits, d := md, a := x.a,
    b := 0, top := 0 }

/-- The JlLit read from the ruler's fields; none where a coded field has no such value. -/
def JlLit.get (lit : BitVec 32) (f : Fields) : Option JlLit :=
    some { a := f.a, g := Guard.ofBits f.g, lit := lit }

/-- The ruler's fields of a PlogForm. -/
def PlogForm.put (major : BitVec 7) (x : PlogForm) : Fields :=
  { l := false, major := major, g := x.g.toBits, d := (0#2 ++ x.d : BitVec (2 + 3)), a := (0#2 ++ x.a : BitVec (2 + 3)),
    b := (0#2 ++ x.b : BitVec (2 + 3)), top := x.tt }

/-- The PlogForm read from the ruler's fields; none where a coded field has no such value. -/
def PlogForm.get (f : Fields) : Option PlogForm :=
    some { tt := f.top, b := f.b.extractLsb' 0 3, a := f.a.extractLsb' 0 3, d := f.d.extractLsb' 0 3, g := Guard.ofBits f.g }

/-- The ruler's fields of a PsetForm. -/
def PsetForm.put (major : BitVec 7) (m : BitVec 4) (x : PsetForm) : Fields :=
  { l := false, major := major, g := x.g.toBits, d := (0#2 ++ x.d : BitVec (2 + 3)), a := x.a,
    b := 0, top := m }

/-- The PsetForm read from the ruler's fields; none where a coded field has no such value. -/
def PsetForm.get (f : Fields) : Option PsetForm :=
    some { a := f.a, d := f.d.extractLsb' 0 3, g := Guard.ofBits f.g }

/-- The ruler's fields of a PgetForm. -/
def PgetForm.put (major : BitVec 7) (m : BitVec 4) (x : PgetForm) : Fields :=
  { l := false, major := major, g := x.g.toBits, d := x.d, a := (0#2 ++ x.a : BitVec (2 + 3)),
    b := 0, top := m }

/-- The PgetForm read from the ruler's fields; none where a coded field has no such value. -/
def PgetForm.get (f : Fields) : Option PgetForm :=
    some { a := f.a.extractLsb' 0 3, d := f.d, g := Guard.ofBits f.g }

/-- The ruler's fields of a MemForm. -/
def MemForm.put (major : BitVec 7) (x : MemForm) : Fields :=
  { l := false, major := major, g := x.g.toBits, d := x.d, a := x.a,
    b := (x.disp.extractLsb' 0 1 ++ BitVec.ofBool x.sx ++ x.sz.toBits : BitVec (1 + 1 + 3)), top := x.disp.extractLsb' 1 4 }

/-- The MemForm read from the ruler's fields; none where a coded field has no such value. -/
def MemForm.get (f : Fields) : Option MemForm :=
    (Size.ofBits (f.b.extractLsb' 0 3)).bind fun sz' =>
    some { disp := (f.top ++ f.b.extractLsb' 4 1 : BitVec (4 + 1)), sx := f.b.getLsbD 3, sz := sz', a := f.a, d := f.d, g := Guard.ofBits f.g }

/-- The ruler's fields of a MemLit. -/
def MemLit.put (major : BitVec 7) (x : MemLit) : Fields :=
  { l := true, major := major, g := x.g.toBits, d := x.d, a := x.a,
    b := (0#1 ++ BitVec.ofBool x.sx ++ x.sz.toBits : BitVec (1 + 1 + 3)), top := 0 }

/-- The MemLit read from the ruler's fields; none where a coded field has no such value. -/
def MemLit.get (lit : BitVec 32) (f : Fields) : Option MemLit :=
    (Size.ofBits (f.b.extractLsb' 0 3)).bind fun sz' =>
    some { sx := f.b.getLsbD 3, sz := sz', a := f.a, d := f.d, g := Guard.ofBits f.g, lit := lit }

/-- The ruler's fields of a StForm. -/
def StForm.put (major : BitVec 7) (x : StForm) : Fields :=
  { l := false, major := major, g := x.g.toBits, d := x.d, a := x.a,
    b := (x.disp.extractLsb' 0 1 ++ 0#1 ++ x.sz.toBits : BitVec (1 + 1 + 3)), top := x.disp.extractLsb' 1 4 }

/-- The StForm read from the ruler's fields; none where a coded field has no such value. -/
def StForm.get (f : Fields) : Option StForm :=
    (Size.ofBits (f.b.extractLsb' 0 3)).bind fun sz' =>
    some { disp := (f.top ++ f.b.extractLsb' 4 1 : BitVec (4 + 1)), sz := sz', a := f.a, d := f.d, g := Guard.ofBits f.g }

/-- The ruler's fields of a StLit. -/
def StLit.put (major : BitVec 7) (x : StLit) : Fields :=
  { l := true, major := major, g := x.g.toBits, d := x.d, a := x.a,
    b := (0#2 ++ x.sz.toBits : BitVec (2 + 3)), top := 0 }

/-- The StLit read from the ruler's fields; none where a coded field has no such value. -/
def StLit.get (lit : BitVec 32) (f : Fields) : Option StLit :=
    (Size.ofBits (f.b.extractLsb' 0 3)).bind fun sz' =>
    some { sz := sz', a := f.a, d := f.d, g := Guard.ofBits f.g, lit := lit }

/-- The ruler's fields of a DispForm. -/
def DispForm.put (major : BitVec 7) (mb : BitVec 4) (x : DispForm) : Fields :=
  { l := false, major := major, g := x.g.toBits, d := x.d, a := x.a,
    b := (x.disp.extractLsb' 0 1 ++ mb : BitVec (1 + 4)), top := x.disp.extractLsb' 1 4 }

/-- The DispForm read from the ruler's fields; none where a coded field has no such value. -/
def DispForm.get (f : Fields) : Option DispForm :=
    some { disp := (f.top ++ f.b.extractLsb' 4 1 : BitVec (4 + 1)), a := f.a, d := f.d, g := Guard.ofBits f.g }

/-- The ruler's fields of a LdxForm. -/
def LdxForm.put (major : BitVec 7) (x : LdxForm) : Fields :=
  { l := false, major := major, g := x.g.toBits, d := x.d, a := x.a,
    b := x.b, top := (BitVec.ofBool x.sx ++ x.sz.toBits : BitVec (1 + 3)) }

/-- The LdxForm read from the ruler's fields; none where a coded field has no such value. -/
def LdxForm.get (f : Fields) : Option LdxForm :=
    (Size.ofBits (f.top.extractLsb' 0 3)).bind fun sz' =>
    some { sx := f.top.getLsbD 3, sz := sz', b := f.b, a := f.a, d := f.d, g := Guard.ofBits f.g }

/-- The ruler's fields of a StxForm. -/
def StxForm.put (major : BitVec 7) (x : StxForm) : Fields :=
  { l := false, major := major, g := x.g.toBits, d := x.d, a := x.a,
    b := x.b, top := (0#1 ++ x.sz.toBits : BitVec (1 + 3)) }

/-- The StxForm read from the ruler's fields; none where a coded field has no such value. -/
def StxForm.get (f : Fields) : Option StxForm :=
    (Size.ofBits (f.top.extractLsb' 0 3)).bind fun sz' =>
    some { sz := sz', b := f.b, a := f.a, d := f.d, g := Guard.ofBits f.g }

/-- The ruler's fields of a AmoForm. -/
def AmoForm.put (major : BitVec 7) (x : AmoForm) : Fields :=
  { l := false, major := major, g := x.g.toBits, d := x.d, a := x.a,
    b := x.b, top := x.op.toBits }

/-- The AmoForm read from the ruler's fields; none where a coded field has no such value. -/
def AmoForm.get (f : Fields) : Option AmoForm :=
    (AmoOp.ofBits (f.top)).bind fun op' =>
    some { op := op', b := f.b, a := f.a, d := f.d, g := Guard.ofBits f.g }

/-- The ruler's fields of a SendForm. -/
def SendForm.put (major : BitVec 7) (m : BitVec 1) (x : SendForm) : Fields :=
  { l := false, major := major, g := x.g.toBits, d := 0, a := x.a,
    b := x.b, top := (m ++ x.n : BitVec (1 + 3)) }

/-- The SendForm read from the ruler's fields; none where a coded field has no such value. -/
def SendForm.get (f : Fields) : Option SendForm :=
    some { n := f.top.extractLsb' 0 3, b := f.b, a := f.a, g := Guard.ofBits f.g }

/-- The ruler's fields of a SendwForm. -/
def SendwForm.put (major : BitVec 7) (m : BitVec 1) (x : SendwForm) : Fields :=
  { l := false, major := major, g := x.g.toBits, d := x.d, a := x.a,
    b := x.b, top := (m ++ x.n : BitVec (1 + 3)) }

/-- The SendwForm read from the ruler's fields; none where a coded field has no such value. -/
def SendwForm.get (f : Fields) : Option SendwForm :=
    some { n := f.top.extractLsb' 0 3, b := f.b, a := f.a, d := f.d, g := Guard.ofBits f.g }

/-- The ruler's fields of a SendcForm. -/
def SendcForm.put (major : BitVec 7) (x : SendcForm) : Fields :=
  { l := false, major := major, g := x.g.toBits, d := x.d, a := x.a,
    b := x.b, top := x.n }

/-- The SendcForm read from the ruler's fields; none where a coded field has no such value. -/
def SendcForm.get (f : Fields) : Option SendcForm :=
    some { n := f.top, b := f.b, a := f.a, d := f.d, g := Guard.ofBits f.g }

/-- The ruler's fields of a MrdForm. -/
def MrdForm.put (major : BitVec 7) (m : BitVec 4) (x : MrdForm) : Fields :=
  { l := false, major := major, g := x.g.toBits, d := x.d, a := x.a,
    b := (0#2 ++ x.b : BitVec (2 + 3)), top := m }

/-- The MrdForm read from the ruler's fields; none where a coded field has no such value. -/
def MrdForm.get (f : Fields) : Option MrdForm :=
    some { b := f.b.extractLsb' 0 3, a := f.a, d := f.d, g := Guard.ofBits f.g }

/-- The ruler's fields of a CopyForm. -/
def CopyForm.put (major : BitVec 7) (mt : BitVec 4) (mb1 : BitVec 1) (x : CopyForm) : Fields :=
  { l := false, major := major, g := x.g.toBits, d := x.d, a := x.a,
    b := (mb1 ++ x.ch : BitVec (1 + 4)), top := mt }

/-- The CopyForm read from the ruler's fields; none where a coded field has no such value. -/
def CopyForm.get (f : Fields) : Option CopyForm :=
    some { ch := f.b.extractLsb' 0 4, a := f.a, d := f.d, g := Guard.ofBits f.g }

/-- The ruler's fields of a SlotretForm. -/
def SlotretForm.put (major : BitVec 7) (mt : BitVec 4) (mb1 : BitVec 1) (x : SlotretForm) : Fields :=
  { l := false, major := major, g := x.g.toBits, d := 0, a := x.a,
    b := (mb1 ++ x.n : BitVec (1 + 4)), top := mt }

/-- The SlotretForm read from the ruler's fields; none where a coded field has no such value. -/
def SlotretForm.get (f : Fields) : Option SlotretForm :=
    some { n := f.b.extractLsb' 0 4, a := f.a, g := Guard.ofBits f.g }

/-- The ruler's fields of a SbindForm. -/
def SbindForm.put (major : BitVec 7) (mt : BitVec 4) (mb1 : BitVec 1) (x : SbindForm) : Fields :=
  { l := false, major := major, g := x.g.toBits, d := (0#3 ++ x.n : BitVec (3 + 2)), a := x.a,
    b := (mb1 ++ x.ch : BitVec (1 + 4)), top := mt }

/-- The SbindForm read from the ruler's fields; none where a coded field has no such value. -/
def SbindForm.get (f : Fields) : Option SbindForm :=
    some { ch := f.b.extractLsb' 0 4, a := f.a, n := f.d.extractLsb' 0 2, g := Guard.ofBits f.g }

/-- The ruler's fields of a ChForm. -/
def ChForm.put (major : BitVec 7) (mt : BitVec 4) (mb1 : BitVec 1) (x : ChForm) : Fields :=
  { l := false, major := major, g := x.g.toBits, d := 0, a := x.a,
    b := (mb1 ++ x.ch : BitVec (1 + 4)), top := mt }

/-- The ChForm read from the ruler's fields; none where a coded field has no such value. -/
def ChForm.get (f : Fields) : Option ChForm :=
    some { ch := f.b.extractLsb' 0 4, a := f.a, g := Guard.ofBits f.g }

/-- The ruler's fields of a MapForm. -/
def MapForm.put (major : BitVec 7) (x : MapForm) : Fields :=
  { l := false, major := major, g := x.g.toBits, d := x.d, a := x.a,
    b := x.b, top := (0#1 ++ x.k : BitVec (1 + 3)) }

/-- The MapForm read from the ruler's fields; none where a coded field has no such value. -/
def MapForm.get (f : Fields) : Option MapForm :=
    some { k := f.top.extractLsb' 0 3, b := f.b, a := f.a, d := f.d, g := Guard.ofBits f.g }

/-- The ruler's fields of a MapOpForm. -/
def MapOpForm.put (major : BitVec 7) (x : MapOpForm) : Fields :=
  { l := false, major := major, g := x.g.toBits, d := x.d, a := x.a,
    b := x.b, top := x.op.toBits }

/-- The MapOpForm read from the ruler's fields; none where a coded field has no such value. -/
def MapOpForm.get (f : Fields) : Option MapOpForm :=
    (MapOp.ofBits (f.top)).bind fun op' =>
    some { op := op', b := f.b, a := f.a, d := f.d, g := Guard.ofBits f.g }

/-- The ruler's fields of a VForm. -/
def VForm.put (major : BitVec 7) (x : VForm) : Fields :=
  { l := false, major := major, g := x.g.toBits, d := x.d, a := x.a,
    b := x.b, top := (BitVec.ofBool x.p ++ x.ty.toBits : BitVec (1 + 3)) }

/-- The VForm read from the ruler's fields; none where a coded field has no such value. -/
def VForm.get (f : Fields) : Option VForm :=
    (Ty.ofBits (f.top.extractLsb' 0 3)).bind fun ty' =>
    some { p := f.top.getLsbD 3, ty := ty', b := f.b, a := f.a, d := f.d, g := Guard.ofBits f.g }

/-- The ruler's fields of a VBin. -/
def VBin.put (major : BitVec 7) (m : BitVec 3) (x : VBin) : Fields :=
  { l := false, major := major, g := x.g.toBits, d := x.d, a := x.a,
    b := x.b, top := (BitVec.ofBool x.p ++ m : BitVec (1 + 3)) }

/-- The VBin read from the ruler's fields; none where a coded field has no such value. -/
def VBin.get (f : Fields) : Option VBin :=
    some { p := f.top.getLsbD 3, b := f.b, a := f.a, d := f.d, g := Guard.ofBits f.g }

/-- The ruler's fields of a VShForm. -/
def VShForm.put (major : BitVec 7) (m : BitVec 2) (x : VShForm) : Fields :=
  { l := false, major := major, g := x.g.toBits, d := x.d, a := x.a,
    b := x.b, top := (BitVec.ofBool x.p ++ m ++ BitVec.ofBool x.half : BitVec (1 + 2 + 1)) }

/-- The VShForm read from the ruler's fields; none where a coded field has no such value. -/
def VShForm.get (f : Fields) : Option VShForm :=
    some { p := f.top.getLsbD 3, half := f.top.getLsbD 0, b := f.b, a := f.a, d := f.d, g := Guard.ofBits f.g }

/-- The ruler's fields of a VcmpForm. -/
def VcmpForm.put (major : BitVec 7) (x : VcmpForm) : Fields :=
  { l := false, major := major, g := x.g.toBits, d := (x.cond.toBits ++ x.pd : BitVec (2 + 3)), a := x.a,
    b := x.b, top := (BitVec.ofBool x.p ++ x.ty.toBits : BitVec (1 + 3)) }

/-- The VcmpForm read from the ruler's fields; none where a coded field has no such value. -/
def VcmpForm.get (f : Fields) : Option VcmpForm :=
    (Ty.ofBits (f.top.extractLsb' 0 3)).bind fun ty' =>
    (VcmpCond.ofBits (f.d.extractLsb' 3 2)).bind fun cond' =>
    some { p := f.top.getLsbD 3, ty := ty', b := f.b, a := f.a, cond := cond', pd := f.d.extractLsb' 0 3, g := Guard.ofBits f.g }

/-- The ruler's fields of a VselForm. -/
def VselForm.put (major : BitVec 7) (x : VselForm) : Fields :=
  { l := false, major := major, g := x.g.toBits, d := x.d, a := x.a,
    b := x.b, top := (BitVec.ofBool x.p ++ x.c : BitVec (1 + 3)) }

/-- The VselForm read from the ruler's fields; none where a coded field has no such value. -/
def VselForm.get (f : Fields) : Option VselForm :=
    some { p := f.top.getLsbD 3, c := f.top.extractLsb' 0 3, b := f.b, a := f.a, d := f.d, g := Guard.ofBits f.g }

/-- The ruler's fields of a VUn. -/
def VUn.put (major : BitVec 7) (mb : BitVec 5) (x : VUn) : Fields :=
  { l := false, major := major, g := x.g.toBits, d := x.d, a := x.a,
    b := mb, top := (BitVec.ofBool x.p ++ x.ty.toBits : BitVec (1 + 3)) }

/-- The VUn read from the ruler's fields; none where a coded field has no such value. -/
def VUn.get (f : Fields) : Option VUn :=
    (Ty.ofBits (f.top.extractLsb' 0 3)).bind fun ty' =>
    some { p := f.top.getLsbD 3, ty := ty', a := f.a, d := f.d, g := Guard.ofBits f.g }

/-- The ruler's fields of a VUn0. -/
def VUn0.put (major : BitVec 7) (mb : BitVec 5) (x : VUn0) : Fields :=
  { l := false, major := major, g := x.g.toBits, d := x.d, a := x.a,
    b := mb, top := (BitVec.ofBool x.p ++ 0#3 : BitVec (1 + 3)) }

/-- The VUn0 read from the ruler's fields; none where a coded field has no such value. -/
def VUn0.get (f : Fields) : Option VUn0 :=
    some { p := f.top.getLsbD 3, a := f.a, d := f.d, g := Guard.ofBits f.g }

/-- The ruler's fields of a VcompForm. -/
def VcompForm.put (major : BitVec 7) (mb : BitVec 5) (x : VcompForm) : Fields :=
  { l := false, major := major, g := x.g.toBits, d := x.d, a := x.a,
    b := mb, top := (BitVec.ofBool x.p ++ x.c : BitVec (1 + 3)) }

/-- The VcompForm read from the ruler's fields; none where a coded field has no such value. -/
def VcompForm.get (f : Fields) : Option VcompForm :=
    some { p := f.top.getLsbD 3, c := f.top.extractLsb' 0 3, a := f.a, d := f.d, g := Guard.ofBits f.g }

/-- The ruler's fields of a VmovqForm. -/
def VmovqForm.put (major : BitVec 7) (mb : BitVec 5) (md : BitVec 3) (x : VmovqForm) : Fields :=
  { l := false, major := major, g := x.g.toBits, d := (md ++ x.q : BitVec (3 + 2)), a := x.a,
    b := mb, top := 0 }

/-- The VmovqForm read from the ruler's fields; none where a coded field has no such value. -/
def VmovqForm.get (f : Fields) : Option VmovqForm :=
    some { a := f.a, q := f.d.extractLsb' 0 2, g := Guard.ofBits f.g }

/-- The ruler's fields of a VredForm. -/
def VredForm.put (major : BitVec 7) (mb : BitVec 2) (x : VredForm) : Fields :=
  { l := false, major := major, g := x.g.toBits, d := x.d, a := x.a,
    b := (mb ++ x.op.toBits : BitVec (2 + 3)), top := (BitVec.ofBool x.p ++ x.ty.toBits : BitVec (1 + 3)) }

/-- The VredForm read from the ruler's fields; none where a coded field has no such value. -/
def VredForm.get (f : Fields) : Option VredForm :=
    (Ty.ofBits (f.top.extractLsb' 0 3)).bind fun ty' =>
    (RedOp.ofBits (f.b.extractLsb' 0 3)).bind fun op' =>
    some { p := f.top.getLsbD 3, ty := ty', op := op', a := f.a, d := f.d, g := Guard.ofBits f.g }

/-- The ruler's fields of a VscanForm. -/
def VscanForm.put (major : BitVec 7) (mb : BitVec 2) (x : VscanForm) : Fields :=
  { l := false, major := major, g := x.g.toBits, d := x.d, a := x.a,
    b := (mb ++ x.op.toBits : BitVec (2 + 3)), top := (BitVec.ofBool x.p ++ x.ty.toBits : BitVec (1 + 3)) }

/-- The VscanForm read from the ruler's fields; none where a coded field has no such value. -/
def VscanForm.get (f : Fields) : Option VscanForm :=
    (Ty.ofBits (f.top.extractLsb' 0 3)).bind fun ty' =>
    (ScanOp.ofBits (f.b.extractLsb' 0 3)).bind fun op' =>
    some { p := f.top.getLsbD 3, ty := ty', op := op', a := f.a, d := f.d, g := Guard.ofBits f.g }

/-- The ruler's fields of a CvtForm. -/
def CvtForm.put (major : BitVec 7) (x : CvtForm) : Fields :=
  { l := false, major := major, g := x.g.toBits, d := x.d, a := x.a,
    b := (x.dst.toBits.extractLsb' 0 1 ++ x.src.toBits : BitVec (1 + 4)), top := (BitVec.ofBool x.ns ++ x.dst.toBits.extractLsb' 1 3 : BitVec (1 + 3)) }

/-- The CvtForm read from the ruler's fields; none where a coded field has no such value. -/
def CvtForm.get (f : Fields) : Option CvtForm :=
    (Fmt.ofBits (f.top.extractLsb' 0 3 ++ f.b.extractLsb' 4 1 : BitVec (3 + 1))).bind fun dst' =>
    (Fmt.ofBits (f.b.extractLsb' 0 4)).bind fun src' =>
    some { ns := f.top.getLsbD 3, dst := dst', src := src', a := f.a, d := f.d, g := Guard.ofBits f.g }

/-- The ruler's fields of a UnpackForm. -/
def UnpackForm.put (major : BitVec 7) (x : UnpackForm) : Fields :=
  { l := false, major := major, g := x.g.toBits, d := x.d, a := x.a,
    b := (x.p.extractLsb' 0 1 ++ x.src.toBits : BitVec (1 + 4)), top := (0#1 ++ x.p.extractLsb' 1 3 : BitVec (1 + 3)) }

/-- The UnpackForm read from the ruler's fields; none where a coded field has no such value. -/
def UnpackForm.get (f : Fields) : Option UnpackForm :=
    (Fmt.ofBits (f.b.extractLsb' 0 4)).bind fun src' =>
    some { p := (f.top.extractLsb' 0 3 ++ f.b.extractLsb' 4 1 : BitVec (3 + 1)), src := src', a := f.a, d := f.d, g := Guard.ofBits f.g }

/-- The ruler's fields of a PackForm. -/
def PackForm.put (major : BitVec 7) (x : PackForm) : Fields :=
  { l := false, major := major, g := x.g.toBits, d := x.d, a := x.a,
    b := (x.dst.toBits.extractLsb' 0 1 ++ x.p : BitVec (1 + 4)), top := (BitVec.ofBool x.ns ++ x.dst.toBits.extractLsb' 1 3 : BitVec (1 + 3)) }

/-- The PackForm read from the ruler's fields; none where a coded field has no such value. -/
def PackForm.get (f : Fields) : Option PackForm :=
    (Fmt.ofBits (f.top.extractLsb' 0 3 ++ f.b.extractLsb' 4 1 : BitVec (3 + 1))).bind fun dst' =>
    some { ns := f.top.getLsbD 3, dst := dst', p := f.b.extractLsb' 0 4, a := f.a, d := f.d, g := Guard.ofBits f.g }

/-- The ruler's fields of a QuantForm. -/
def QuantForm.put (major : BitVec 7) (x : QuantForm) : Fields :=
  { l := false, major := major, g := x.g.toBits, d := x.d, a := x.a,
    b := (x.dst.toBits.extractLsb' 0 1 ++ x.p : BitVec (1 + 4)), top := (0#1 ++ x.dst.toBits.extractLsb' 1 3 : BitVec (1 + 3)) }

/-- The QuantForm read from the ruler's fields; none where a coded field has no such value. -/
def QuantForm.get (f : Fields) : Option QuantForm :=
    (Fmt.ofBits (f.top.extractLsb' 0 3 ++ f.b.extractLsb' 4 1 : BitVec (3 + 1))).bind fun dst' =>
    some { dst := dst', p := f.b.extractLsb' 0 4, a := f.a, d := f.d, g := Guard.ofBits f.g }

/-- The ruler's fields of a MmaForm. -/
def MmaForm.put (major : BitVec 7) (m : BitVec 4) (x : MmaForm) : Fields :=
  { l := false, major := major, g := x.g.toBits, d := (0#2 ++ x.t : BitVec (2 + 3)), a := x.a,
    b := 0, top := m }

/-- The MmaForm read from the ruler's fields; none where a coded field has no such value. -/
def MmaForm.get (f : Fields) : Option MmaForm :=
    some { a := f.a, t := f.d.extractLsb' 0 3, g := Guard.ofBits f.g }

/-- The ruler's fields of a MmatForm. -/
def MmatForm.put (major : BitVec 7) (m : BitVec 4) (x : MmatForm) : Fields :=
  { l := false, major := major, g := x.g.toBits, d := (0#2 ++ x.t : BitVec (2 + 3)), a := 0,
    b := (0#2 ++ x.s : BitVec (2 + 3)), top := m }

/-- The MmatForm read from the ruler's fields; none where a coded field has no such value. -/
def MmatForm.get (f : Fields) : Option MmatForm :=
    some { s := f.b.extractLsb' 0 3, t := f.d.extractLsb' 0 3, g := Guard.ofBits f.g }

/-- The ruler's fields of a TForm. -/
def TForm.put (major : BitVec 7) (m : BitVec 4) (x : TForm) : Fields :=
  { l := false, major := major, g := x.g.toBits, d := (0#2 ++ x.t : BitVec (2 + 3)), a := 0,
    b := 0, top := m }

/-- The TForm read from the ruler's fields; none where a coded field has no such value. -/
def TForm.get (f : Fields) : Option TForm :=
    some { t := f.d.extractLsb' 0 3, g := Guard.ofBits f.g }

/-- The ruler's fields of a TileForm. -/
def TileForm.put (major : BitVec 7) (m : BitVec 4) (x : TileForm) : Fields :=
  { l := false, major := major, g := x.g.toBits, d := (0#2 ++ x.t : BitVec (2 + 3)), a := x.a,
    b := x.b, top := m }

/-- The TileForm read from the ruler's fields; none where a coded field has no such value. -/
def TileForm.get (f : Fields) : Option TileForm :=
    some { b := f.b, a := f.a, t := f.d.extractLsb' 0 3, g := Guard.ofBits f.g }

/-- The ruler's fields of a FenceForm. -/
def FenceForm.put (major : BitVec 7) (m : BitVec 2) (x : FenceForm) : Fields :=
  { l := false, major := major, g := x.g.toBits, d := 0, a := 0,
    b := 0, top := (m ++ x.scope.toBits : BitVec (2 + 2)) }

/-- The FenceForm read from the ruler's fields; none where a coded field has no such value. -/
def FenceForm.get (f : Fields) : Option FenceForm :=
    (Scope.ofBits (f.top.extractLsb' 0 2)).bind fun scope' =>
    some { scope := scope', g := Guard.ofBits f.g }

/-- The ruler's fields of a TrapForm. -/
def TrapForm.put (major : BitVec 7) (x : TrapForm) : Fields :=
  { l := false, major := major, g := x.g.toBits, d := 0, a := 0,
    b := x.code.extractLsb' 0 5, top := x.code.extractLsb' 5 4 }

/-- The TrapForm read from the ruler's fields; none where a coded field has no such value. -/
def TrapForm.get (f : Fields) : Option TrapForm :=
    some { code := (f.top ++ f.b : BitVec (4 + 5)), g := Guard.ofBits f.g }

/-- The ruler's fields of a SrdForm. -/
def SrdForm.put (major : BitVec 7) (x : SrdForm) : Fields :=
  { l := false, major := major, g := x.g.toBits, d := x.d, a := 0,
    b := x.n.extractLsb' 0 5, top := x.n.extractLsb' 5 4 }

/-- The SrdForm read from the ruler's fields; none where a coded field has no such value. -/
def SrdForm.get (f : Fields) : Option SrdForm :=
    some { n := (f.top ++ f.b : BitVec (4 + 5)), d := f.d, g := Guard.ofBits f.g }

/-- The ruler's fields of a SwrForm. -/
def SwrForm.put (major : BitVec 7) (x : SwrForm) : Fields :=
  { l := false, major := major, g := x.g.toBits, d := 0, a := x.a,
    b := x.n.extractLsb' 0 5, top := x.n.extractLsb' 5 4 }

/-- The SwrForm read from the ruler's fields; none where a coded field has no such value. -/
def SwrForm.get (f : Fields) : Option SwrForm :=
    some { n := (f.top ++ f.b : BitVec (4 + 5)), a := f.a, g := Guard.ofBits f.g }

/-- The ruler's fields of a TlbForm. -/
def TlbForm.put (major : BitVec 7) (x : TlbForm) : Fields :=
  { l := false, major := major, g := x.g.toBits, d := 0, a := x.a,
    b := x.b, top := (0#2 ++ x.scope.toBits : BitVec (2 + 2)) }

/-- The TlbForm read from the ruler's fields; none where a coded field has no such value. -/
def TlbForm.get (f : Fields) : Option TlbForm :=
    (Scope.ofBits (f.top.extractLsb' 0 2)).bind fun scope' =>
    some { scope := scope', b := f.b, a := f.a, g := Guard.ofBits f.g }

/-- REPB's literal (R29). -/
def RepbForm.lit (x : RepbForm) : BitVec 32 := (0#8 ++ x.stride ++ x.fmask ++ x.pmask : BitVec (8 + 5 + 3 + 16))

/-- The ruler's fields of REPB (R29, R214). -/
def RepbForm.put (x : RepbForm) : Fields :=
  { l := true, major := 0x1E, g := x.g.toBits, d := 0, a := x.a, b := 0, top := 0 }

/-- REPB read from the ruler's fields and its literal (R29). -/
def RepbForm.get (lit : BitVec 32) (f : Fields) : Option RepbForm :=
    some { a := f.a, g := Guard.ofBits f.g, stride := lit.extractLsb' 19 5, fmask := lit.extractLsb' 16 3,
           pmask := lit.extractLsb' 0 16 }

/-- What an instruction's halfwords are (R15): a compact halfword, a word, or a word and a literal. -/
inductive Enc where
  | compact (h : HW)
  | word (f : Fields)
  | wordLit (f : Fields) (lit : BitVec 32)
  deriving DecidableEq, Repr

/-- The compact halfword of op `op` with fields f1 [10:6] and f2 [15:11] (R17, R21). -/
def compact (op f1 f2 : BitVec 5) : HW := (f2 ++ f1 ++ op ++ 0#1 : BitVec (5 + 5 + 5 + 1))

/-- The encoding of an instruction with a word; none for the rows that are steps of other agents. -/
def enc : Instr → Option Enc
  | .add f => some (.word (QForm.put 0x0 0 f))
  | .addLit f => some (.wordLit (QLit.put 0x0 0 f) f.lit)
  | .sub f => some (.word (QForm.put 0x0 1 f))
  | .subLit f => some (.wordLit (QLit.put 0x0 1 f) f.lit)
  | .min f => some (.word (QForm.put 0x0 2 f))
  | .minLit f => some (.wordLit (QLit.put 0x0 2 f) f.lit)
  | .max f => some (.word (QForm.put 0x0 3 f))
  | .maxLit f => some (.wordLit (QLit.put 0x0 3 f) f.lit)
  | .minu f => some (.word (QForm.put 0x1 0 f))
  | .minuLit f => some (.wordLit (QLit.put 0x1 0 f) f.lit)
  | .maxu f => some (.word (QForm.put 0x1 1 f))
  | .maxuLit f => some (.wordLit (QLit.put 0x1 1 f) f.lit)
  | .andn f => some (.word (QForm.put 0x1 2 f))
  | .andnLit f => some (.wordLit (QLit.put 0x1 2 f) f.lit)
  | .bfx f => some (.word (QForm.put 0x1 3 f))
  | .bfxLit f => some (.wordLit (QLit.put 0x1 3 f) f.lit)
  | .and f => some (.word (QForm.put 0x2 0 f))
  | .andLit f => some (.wordLit (QLit.put 0x2 0 f) f.lit)
  | .or f => some (.word (QForm.put 0x2 1 f))
  | .orLit f => some (.wordLit (QLit.put 0x2 1 f) f.lit)
  | .xor f => some (.word (QForm.put 0x2 2 f))
  | .xorLit f => some (.wordLit (QLit.put 0x2 2 f) f.lit)
  | .bfi f => some (.word (QForm.put 0x2 3 f))
  | .bfiLit f => some (.wordLit (QLit.put 0x2 3 f) f.lit)
  | .shl f => some (.word (QForm.put 0x3 0 f))
  | .shlLit f => some (.wordLit (QLit.put 0x3 0 f) f.lit)
  | .shr f => some (.word (QForm.put 0x3 1 f))
  | .shrLit f => some (.wordLit (QLit.put 0x3 1 f) f.lit)
  | .sar f => some (.word (QForm.put 0x3 2 f))
  | .sarLit f => some (.wordLit (QLit.put 0x3 2 f) f.lit)
  | .rol f => some (.word (QForm.put 0x3 3 f))
  | .rolLit f => some (.wordLit (QLit.put 0x3 3 f) f.lit)
  | .mul f => some (.word (QForm.put 0x4 0 f))
  | .mulLit f => some (.wordLit (QLit.put 0x4 0 f) f.lit)
  | .mulh f => some (.word (QForm.put 0x4 1 f))
  | .mulhLit f => some (.wordLit (QLit.put 0x4 1 f) f.lit)
  | .mulhu f => some (.word (QForm.put 0x4 2 f))
  | .mulhuLit f => some (.wordLit (QLit.put 0x4 2 f) f.lit)
  | .xyaddr f => some (.word (QForm.put 0x4 3 f))
  | .xyaddrLit f => some (.wordLit (QLit.put 0x4 3 f) f.lit)
  | .div f => some (.word (QForm.put 0x5 0 f))
  | .divLit f => some (.wordLit (QLit.put 0x5 0 f) f.lit)
  | .divu f => some (.word (QForm.put 0x5 1 f))
  | .divuLit f => some (.wordLit (QLit.put 0x5 1 f) f.lit)
  | .rem f => some (.word (QForm.put 0x5 2 f))
  | .remLit f => some (.wordLit (QLit.put 0x5 2 f) f.lit)
  | .remu f => some (.word (QForm.put 0x5 3 f))
  | .remuLit f => some (.wordLit (QLit.put 0x5 3 f) f.lit)
  | .clz f => some (.word (Q1.put 0x6 0 f))
  | .ctz f => some (.word (Q1.put 0x6 1 f))
  | .popc f => some (.word (Q1.put 0x6 2 f))
  | .ext f => some (.word (ExtForm.put 0x6 3 f))
  | .sel f => some (.word (SelForm.put 0x7 f))
  | .selLit f => some (.wordLit (SelLit.put 0x7 f) f.lit)
  | .wfld f => some (.word (R3.put 0x7 8 f))
  | .wfldLit f => some (.wordLit (R2Lit.put 0x7 8 0 f) f.lit)
  | .cmp f => some (.word (CmpForm.put 0x8 f))
  | .cmpLit f => some (.wordLit (CmpLit.put 0x8 f) f.lit)
  | .addi f => some (.word (IForm.put 0x9 f))
  | .addiLit f => some (.wordLit (R2Lit.put 0x9 0 0 f) f.lit)
  | .andi f => some (.word (IForm.put 0xa f))
  | .andiLit f => some (.wordLit (R2Lit.put 0xa 0 0 f) f.lit)
  | .ori f => some (.word (IForm.put 0xb f))
  | .oriLit f => some (.wordLit (R2Lit.put 0xb 0 0 f) f.lit)
  | .xori f => some (.word (IForm.put 0xc f))
  | .xoriLit f => some (.wordLit (R2Lit.put 0xc 0 0 f) f.lit)
  | .shli f => some (.word (ShiftI.put 0xd 0 f))
  | .shri f => some (.word (ShiftI.put 0xd 1 f))
  | .sari f => some (.word (ShiftI.put 0xd 2 f))
  | .cmpi f => some (.word (CmpiForm.put 0xe f))
  | .cmpiLit f => some (.wordLit (CmpiLit.put 0xe f) f.lit)
  | .movi f => some (.word (MovForm.put 0xf 0 f))
  | .moviLit f => some (.wordLit (MovLit.put 0xf 0 f) f.lit)
  | .movhi f => some (.word (MovForm.put 0xf 1 f))
  | .movhiLit f => some (.wordLit (MovLit.put 0xf 1 f) f.lit)
  | .faddF32 f => some (.word (R3.put 0x10 0 f))
  | .fsubF32 f => some (.word (R3.put 0x10 1 f))
  | .fmulF32 f => some (.word (R3.put 0x10 2 f))
  | .fdivF32 f => some (.word (R3.put 0x10 3 f))
  | .faddF64 f => some (.word (R3.put 0x11 0 f))
  | .fsubF64 f => some (.word (R3.put 0x11 1 f))
  | .fmulF64 f => some (.word (R3.put 0x11 2 f))
  | .fdivF64 f => some (.word (R3.put 0x11 3 f))
  | .fsqrtF32 f => some (.word (R2.put 0x12 0 0 f))
  | .fminF32 f => some (.word (R3.put 0x12 1 f))
  | .fmaxF32 f => some (.word (R3.put 0x12 2 f))
  | .fsqrtF64 f => some (.word (R2.put 0x13 0 0 f))
  | .fminF64 f => some (.word (R3.put 0x13 1 f))
  | .fmaxF64 f => some (.word (R3.put 0x13 2 f))
  | .ffmaF32 f => some (.word (R3.put 0x14 0 f))
  | .ffmaF64 f => some (.word (R3.put 0x14 1 f))
  | .fcmp f => some (.word (FcmpForm.put 0x15 f))
  | .fcvt f => some (.word (FcvtForm.put 0x16 f))
  | .br f => some (.word (BrForm.put 0x18 f))
  | .brLit f => some (.wordLit (BrLit.put 0x18 f) f.lit)
  | .bp f => some (.word (BpForm.put 0x19 f))
  | .bpLit f => some (.wordLit (BpLit.put 0x19 f) f.lit)
  | .j f => some (.word (JForm.put 0x1a 0 f))
  | .jLit f => some (.wordLit (JLit.put 0x1a 0 f) f.lit)
  | .jl f => some (.word (JlForm.put 0x1a 1 f))
  | .jlLit f => some (.wordLit (JlLit.put 0x1a 1 f) f.lit)
  | .jr f => some (.word (Ra.put 0x1b 0 f))
  | .jlr f => some (.word (R2.put 0x1b 1 0 f))
  | .plog f => some (.word (PlogForm.put 0x1c f))
  | .pset f => some (.word (PsetForm.put 0x1d 0 f))
  | .pget f => some (.word (PgetForm.put 0x1d 1 f))
  | .pcnt f => some (.word (PgetForm.put 0x1d 2 f))
  | .repb f => some (.wordLit f.put f.lit)
  | .repe => some (.word { l := false, major := 0x1F, g := 0, d := 0, a := 0, b := 0, top := 0 })
  | .ld f => some (.word (MemForm.put 0x20 f))
  | .ldLit f => some (.wordLit (MemLit.put 0x20 f) f.lit)
  | .ldAcq f => some (.word (MemForm.put 0x21 f))
  | .ldAcqLit f => some (.wordLit (MemLit.put 0x21 f) f.lit)
  | .st f => some (.word (StForm.put 0x22 f))
  | .stLit f => some (.wordLit (StLit.put 0x22 f) f.lit)
  | .stRel f => some (.word (StForm.put 0x23 f))
  | .stRelLit f => some (.wordLit (StLit.put 0x23 f) f.lit)
  | .ldx f => some (.word (LdxForm.put 0x24 f))
  | .stx f => some (.word (StxForm.put 0x25 f))
  | .ldp f => some (.word (DispForm.put 0x26 3 f))
  | .ldpLit f => some (.wordLit (R2Lit.put 0x26 0 3 f) f.lit)
  | .stp f => some (.word (DispForm.put 0x27 3 f))
  | .stpLit f => some (.wordLit (R2Lit.put 0x27 0 3 f) f.lit)
  | .amoW f => some (.word (AmoForm.put 0x28 f))
  | .amoD f => some (.word (AmoForm.put 0x29 f))
  | .casW f => some (.word (R3.put 0x2a 0 f))
  | .casD f => some (.word (R3.put 0x2a 1 f))
  | .cas2 f => some (.word (R3.put 0x2b 0 f))
  | .cwb f => some (.word (Rba.put 0x2c 0 f))
  | .cinv f => some (.word (Rba.put 0x2c 1 f))
  | .rld f => some (.word (MemForm.put 0x30 f))
  | .rldLit f => some (.wordLit (MemLit.put 0x30 f) f.lit)
  | .rst f => some (.word (MemForm.put 0x31 f))
  | .rstLit f => some (.wordLit (MemLit.put 0x31 f) f.lit)
  | .ramoW f => some (.word (AmoForm.put 0x32 f))
  | .ramoD f => some (.word (AmoForm.put 0x33 f))
  | .send f => some (.word (SendForm.put 0x34 0 f))
  | .sendw f => some (.word (SendwForm.put 0x34 1 f))
  | .sendc f => some (.word (SendcForm.put 0x35 f))
  | .mrd f => some (.word (MrdForm.put 0x36 0 f))
  | .tswap f => some (.word (Ra.put 0x37 0 f))
  | .mxcmd f => some (.word (R3.put 0x37 1 f))
  | .capset f => some (.word (Ra.put 0x37 2 f))
  | .get f => some (.word (CopyForm.put 0x38 0 0 f))
  | .put f => some (.word (CopyForm.put 0x38 0 1 f))
  | .getx f => some (.word (CopyForm.put 0x38 1 0 f))
  | .putx f => some (.word (CopyForm.put 0x38 1 1 f))
  | .putxa f => some (.word (CopyForm.put 0x38 2 0 f))
  | .putr f => some (.word (CopyForm.put 0x38 2 1 f))
  | .mcast f => some (.word (CopyForm.put 0x38 3 0 f))
  | .slotret f => some (.word (SlotretForm.put 0x39 0 0 f))
  | .sbind f => some (.word (SbindForm.put 0x39 0 1 f))
  | .cwait f => some (.word (ChForm.put 0x39 1 0 f))
  | .ldf f => some (.word (MemForm.put 0x3a f))
  | .ldfLit f => some (.wordLit (MemLit.put 0x3a f) f.lit)
  | .ldfe f => some (.word (MemForm.put 0x3b f))
  | .ldfeLit f => some (.wordLit (MemLit.put 0x3b f) f.lit)
  | .stf f => some (.word (StForm.put 0x3c f))
  | .stfLit f => some (.wordLit (StLit.put 0x3c f) f.lit)
  | .feclr f => some (.word (Rba.put 0x3d 0 f))
  | .mprobe f => some (.word (MapForm.put 0x40 f))
  | .minsert f => some (.word (MapForm.put 0x41 f))
  | .mupsert f => some (.word (MapOpForm.put 0x42 f))
  | .mremove f => some (.word (MapForm.put 0x43 f))
  | .mcas f => some (.word (MapForm.put 0x44 f))
  | .mprobev f => some (.word (MapForm.put 0x45 f))
  | .mupsertv f => some (.word (MapOpForm.put 0x46 f))
  | .mrowget f => some (.word (MapForm.put 0x47 f))
  | .mrowput f => some (.word (MapForm.put 0x48 f))
  | .mscan f => some (.word (MapForm.put 0x49 f))
  | .mstat f => some (.word (MapForm.put 0x4a f))
  | .mrepl f => some (.word (MapForm.put 0x4b f))
  | .vadd f => some (.word (VForm.put 0x50 f))
  | .vsub f => some (.word (VForm.put 0x51 f))
  | .vmul f => some (.word (VForm.put 0x52 f))
  | .vfma f => some (.word (VForm.put 0x53 f))
  | .vfms f => some (.word (VForm.put 0x54 f))
  | .vfnma f => some (.word (VForm.put 0x55 f))
  | .vdiv f => some (.word (VForm.put 0x56 f))
  | .vmin f => some (.word (VForm.put 0x57 f))
  | .vmax f => some (.word (VForm.put 0x58 f))
  | .vand f => some (.word (VBin.put 0x59 0 f))
  | .vor f => some (.word (VBin.put 0x59 1 f))
  | .vxor f => some (.word (VBin.put 0x59 2 f))
  | .vshl f => some (.word (VShForm.put 0x5a 0 f))
  | .vshr f => some (.word (VShForm.put 0x5a 1 f))
  | .vsar f => some (.word (VShForm.put 0x5a 2 f))
  | .vcmp f => some (.word (VcmpForm.put 0x5b f))
  | .vsel f => some (.word (VselForm.put 0x5c f))
  | .vperm f => some (.word (VBin.put 0x5d 0 f))
  | .vext f => some (.word (R3.put 0x5d 1 f))
  | .vins f => some (.word (R3.put 0x5d 2 f))
  | .vdot4I8 f => some (.word (VBin.put 0x5d 3 f))
  | .vdot4N8 f => some (.word (VBin.put 0x5d 4 f))
  | .vmov f => some (.word (VUn0.put 0x5e 0 f))
  | .vabs f => some (.word (VUn.put 0x5e 1 f))
  | .vneg f => some (.word (VUn.put 0x5e 2 f))
  | .vsqrt f => some (.word (VUn.put 0x5e 3 f))
  | .vrcp f => some (.word (VUn.put 0x5e 4 f))
  | .vrsq f => some (.word (VUn.put 0x5e 5 f))
  | .vexp2 f => some (.word (VUn.put 0x5e 6 f))
  | .vlog2 f => some (.word (VUn.put 0x5e 7 f))
  | .vbcast f => some (.word (VUn0.put 0x5e 8 f))
  | .viota f => some (.word (Rd.put 0x5e 0 9 f))
  | .vcomp f => some (.word (VcompForm.put 0x5e 10 f))
  | .vlen f => some (.word (R2.put 0x5e 0 11 f))
  | .vmovQ f => some (.word (VmovqForm.put 0x5e 12 1 f))
  | .vred f => some (.word (VredForm.put 0x5e 2 f))
  | .vscan f => some (.word (VscanForm.put 0x5e 3 f))
  | .vld f => some (.word (DispForm.put 0x60 2 f))
  | .vldLit f => some (.wordLit (R2Lit.put 0x60 0 2 f) f.lit)
  | .vst f => some (.word (DispForm.put 0x60 10 f))
  | .vstLit f => some (.wordLit (R2Lit.put 0x60 0 10 f) f.lit)
  | .vlds f => some (.word (R3.put 0x61 0 f))
  | .vsts f => some (.word (R3.put 0x61 1 f))
  | .vldx f => some (.word (R3.put 0x61 2 f))
  | .vstx f => some (.word (R3.put 0x61 3 f))
  | .tblld f => some (.word (Ra.put 0x62 0 f))
  | .winset f => some (.word (Rba.put 0x62 1 f))
  | .vcvt f => some (.word (CvtForm.put 0x63 f))
  | .vdec f => some (.word (UnpackForm.put 0x64 f))
  | .venc f => some (.word (PackForm.put 0x65 f))
  | .vqnt f => some (.word (QuantForm.put 0x66 f))
  | .vdqnt f => some (.word (UnpackForm.put 0x67 f))
  | .mma f => some (.word (MmaForm.put 0x68 0 f))
  | .mmat f => some (.word (MmatForm.put 0x68 1 f))
  | .tzero f => some (.word (TForm.put 0x68 2 f))
  | .tld f => some (.word (TileForm.put 0x69 0 f))
  | .tldT f => some (.word (TileForm.put 0x69 1 f))
  | .tst f => some (.word (TileForm.put 0x69 2 f))
  | .tstn f => some (.word (TileForm.put 0x69 3 f))
  | .trow f => some (.word (TileForm.put 0x69 4 f))
  | .clld f => some (.word (Ra.put 0x6a 0 f))
  | .clrot f => some (.word (G0.put 0x6a 1 0 f))
  | .clwait f => some (.word (G0.put 0x6a 2 0 f))
  | .pgbound f => some (.word (Rba.put 0x6b 0 f))
  | .pgpick f => some (.word (Rba.put 0x6b 1 f))
  | .pgsum f => some (.word (Ra.put 0x6b 2 f))
  | .pgclr f => some (.word (Ra.put 0x6b 3 f))
  | .dqpush f => some (.word (R3.put 0x70 0 f))
  | .dqpop f => some (.word (Rd.put 0x70 1 0 f))
  | .dqsplit f => some (.word (R2.put 0x70 2 0 f))
  | .dqsteal f => some (.word (R2.put 0x70 3 0 f))
  | .done f => some (.word (G0.put 0x71 0 0 f))
  | .idem f => some (.word (G0.put 0x71 1 0 f))
  | .idemEnd f => some (.word (G0.put 0x71 1 1 f))
  | .hset f => some (.word (Rba.put 0x72 0 f))
  | .hmask f => some (.word (R3.put 0x72 1 f))
  | .launch f => some (.word (R2.put 0x73 0 0 f))
  | .launchH f => some (.word (R2.put 0x73 0 1 f))
  | .barv f => some (.word (R3.put 0x74 0 f))
  | .barw f => some (.word (R3.put 0x74 1 f))
  | .fenceAcq f => some (.word (FenceForm.put 0x75 0 f))
  | .fenceRel f => some (.word (FenceForm.put 0x75 1 f))
  | .fenceFull f => some (.word (FenceForm.put 0x75 2 f))
  | .fenceM f => some (.word (FenceForm.put 0x75 3 f))
  | .rfence f => some (.word (G0.put 0x76 0 0 f))
  | .trap f => some (.word (TrapForm.put 0x78 f))
  | .rtt f => some (.word (G0.put 0x79 0 0 f))
  | .srd f => some (.word (SrdForm.put 0x7a f))
  | .swr f => some (.word (SwrForm.put 0x7b f))
  | .tlbinv f => some (.word (TlbForm.put 0x7c f))
  | .wait f => some (.word (Ra.put 0x7d 0 f))
  | .cAdd f => some (.compact (compact 1 f.d f.b))
  | .cSub f => some (.compact (compact 2 f.d f.b))
  | .cAnd f => some (.compact (compact 3 f.d f.b))
  | .cOr f => some (.compact (compact 4 f.d f.b))
  | .cXor f => some (.compact (compact 5 f.d f.b))
  | .cMov f => some (.compact (compact 6 f.d f.b))
  | .cAddi f => some (.compact (compact 7 f.d f.imm))
  | .cAddiX0 f => some (.compact (compact 8 f.d f.imm))
  | .cShli f => some (.compact (compact 9 f.d f.imm))
  | .cShri f => some (.compact (compact 10 f.d f.imm))
  | .cSari f => some (.compact (compact 11 f.d f.imm))
  | .cAndi f => some (.compact (compact 12 f.d f.imm))
  | .cLdDX2 f => some (.compact (compact 13 f.d f.imm))
  | .cStDX2 f => some (.compact (compact 14 f.d f.imm))
  | .cLdWX2 f => some (.compact (compact 15 f.d f.imm))
  | .cStWX2 f => some (.compact (compact 16 f.d f.imm))
  | .cLdW f => some (.compact (compact 17 f.d f.b))
  | .cStW f => some (.compact (compact 18 f.d f.b))
  | .cLdD f => some (.compact (compact 19 f.d f.b))
  | .cStD f => some (.compact (compact 20 f.d f.b))
  | .cBrEq f => some (.compact (compact 21 f.d f.imm))
  | .cBrNe f => some (.compact (compact 22 f.d f.imm))
  | .cMul f => some (.compact (compact 23 f.d f.b))
  | .cCmpEq f => some (.compact (compact 24 f.d f.b))
  | .cJr f => some (.compact (compact 25 f.a 0))
  | .cJlr f => some (.compact (compact 26 f.a 0))
  | .cSrd f => some (.compact (compact 27 f.d f.imm))
  | .cDone => some (.compact (compact 28 0 0))
  | .cRfence => some (.compact (compact 29 0 0))
  | .cTrap f => some (.compact (compact 30 0 f.imm))
  | .nop => some (.compact (compact 31 0 0))
  | .registrationRequest _ => none
  | .registrationGrant _ => none
  | .loadMissRequest _ => none
  | .filterSwap _ => none
  | .forwardRequest _ => none
  | .forwardAnswer _ => none
  | .sectorFill _ => none
  | .recall _ => none
  | .recallAnswer _ => none
  | .writeback _ => none
  | .resendRequest _ => none
  | .writebackAck _ => none
  | .amoAtHome _ => none
  | .tileAccessAtHome _ => none
  | .pageWalk _ => none
  | .tlbFill _ => none
  | .controllerSelect _ _ => none
  | .requestPromotion _ _ => none
  | .patrolScrub _ => none
  | .hostSnoopOwnership _ => none
  | .hostSnoopSharing _ => none
  | .cxlExchangeComplete _ _ _ _ => none
  | .hostCxlMemAccess _ _ _ _ => none
  | .flipMarker _ => none
  | .biasFlipComplete _ => none
  | .transferPiece _ _ _ => none
  | .ownerPortPiece _ => none
  | .transferCompletion _ => none
  | .barrierDecrement _ => none
  | .slotReturn _ => none
  | .roundChunkFinal _ _ _ => none
  | .peerPortFailure _ _ => none
  | .memberUnreachable _ => none
  | .remoteLoadArrival _ => none
  | .remoteStoreArrival _ => none
  | .remoteAtomicArrival _ => none
  | .remoteTileStoreArrival _ => none
  | .remoteTileLoadArrival _ => none
  | .fullEmptyArrival _ => none
  | .feclrArrival _ => none
  | .remoteReply _ => none
  | .postedAck _ => none
  | .postedRefusal _ => none
  | .barrierUpdate _ => none
  | .barrierPark _ => none
  | .messageArrival _ => none
  | .messageStatus _ => none
  | .mxcmdArrival _ => none
  | .mxcmdExecute _ => none
  | .mxcmdStatus _ => none
  | .tswapArrival _ => none
  | .tswapTileArrival _ => none
  | .latchArrival _ => none
  | .ringCredit _ => none
  | .bulkDeadlockProbe _ => none
  | .deadlockRecovery _ => none
  | .flitReplay _ _ => none
  | .linkRetrain _ _ => none
  | .mapRequestArrival _ => none
  | .mapQueuedExecute _ => none
  | .mapReply _ => none
  | .arenaAllocate _ => none
  | .arenaFree _ => none
  | .growthRequest _ => none
  | .splitCommand _ => none
  | .splitLock _ => none
  | .splitCreate _ => none
  | .splitReport _ => none
  | .replicaFill _ => none
  | .filledReply _ => none
  | .replicaInvalidate _ => none
  | .invalidateAck _ => none
  | .replicaRead _ => none
  | .taskSelect _ => none
  | .hiSuspend _ => none
  | .stealRound _ => none
  | .stealBackoffExpiry _ => none
  | .stealRequest _ => none
  | .stealAnswer _ => none
  | .launchArrival _ => none
  | .launchAnswer _ => none
  | .launchPartRetry _ => none
  | .pendingTrapDelivery _ => none
  | .tasklessTrapDelivery _ => none
  | .serviceCall _ => none
  | .watchdogExpiry _ => none
  | .waitExpiry _ => none
  | .machineCheck _ => none
  | .contextStop _ => none
  | .quiesce _ => none
  | .idemAbort _ => none
  | .saveCopy _ => none
  | .launchWindowGo _ _ _ _ => none
  | .launchWindowPerform _ => none
  | .ctxcreate _ _ _ _ => none
  | .ctxdestroy _ _ => none
  | .codeload _ _ _ _ _ => none
  | .runtimeload _ _ _ _ _ _ _ _ _ => none
  | .descset _ _ _ _ => none
  | .descrelease _ _ _ => none
  | .preempt _ _ _ _ => none
  | .restore _ _ _ => none
  | .biasflip _ _ _ => none
  | .groupset _ _ _ _ _ => none
  | .peerbind _ _ _ _ _ _ => none
  | .monread _ _ _ => none
  | .hosttier _ _ _ => none
  | .patchload _ _ _ _ _ => none
  | .events _ _ => none
  | .runtimecall _ _ _ _ _ => none
  | .getVersion => none
  | .getCapabilities => none
  | .negotiateAlgorithms _ _ => none
  | .getDigests => none
  | .getCertificate _ _ => none
  | .challenge _ => none
  | .getMeasurements _ _ => none
  | .powerTick _ _ => none
  | .powerLimitTimeout => none
  | .junctionOvertemp _ => none
  | .parityError _ => none
  | .coldReset _ => none
  | .warmReset _ => none
  | .srMcrWrite _ _ _ => none
  | .waybillFree _ _ => none
  | .srPendLostClear _ _ => none
  | .srVlWrite _ _ => none
  | .srRmodeWrite _ _ => none
  | .srDtabWrite _ _ => none
  | .srBudgetWrite _ _ => none
  | .monitorCountClear _ _ => none
  | .registerWrite _ _ _ => none
  | .illegalEncoding _ => none

/-- The halfwords of an encoding, lowest address first (R15). -/
def Enc.halves : Enc → List HW
  | .compact h => [h]
  | .word f => [f.word.extractLsb' 0 16, f.word.extractLsb' 16 16]
  | .wordLit f lit => [f.word.extractLsb' 0 16, f.word.extractLsb' 16 16, lit.extractLsb' 0 16, lit.extractLsb' 16 16]

/-- The halfwords of a well-formed instruction that has a word. -/
def encode (i : Instr) : Option (List HW) := (enc i).map Enc.halves

/-- The instruction read from a word without a literal: the opcode map of R26, by major and selector. -/
noncomputable def readWord (f : Fields) : Option Instr :=
  match f.major.toNat with
  | 0x0 =>
    if f.top.extractLsb' 0 2 = 0 then (QForm.get f).map .add else
    if f.top.extractLsb' 0 2 = 1 then (QForm.get f).map .sub else
    if f.top.extractLsb' 0 2 = 2 then (QForm.get f).map .min else
    if f.top.extractLsb' 0 2 = 3 then (QForm.get f).map .max else
    none
  | 0x1 =>
    if f.top.extractLsb' 0 2 = 0 then (QForm.get f).map .minu else
    if f.top.extractLsb' 0 2 = 1 then (QForm.get f).map .maxu else
    if f.top.extractLsb' 0 2 = 2 then (QForm.get f).map .andn else
    if f.top.extractLsb' 0 2 = 3 then (QForm.get f).map .bfx else
    none
  | 0x2 =>
    if f.top.extractLsb' 0 2 = 0 then (QForm.get f).map .and else
    if f.top.extractLsb' 0 2 = 1 then (QForm.get f).map .or else
    if f.top.extractLsb' 0 2 = 2 then (QForm.get f).map .xor else
    if f.top.extractLsb' 0 2 = 3 then (QForm.get f).map .bfi else
    none
  | 0x3 =>
    if f.top.extractLsb' 0 2 = 0 then (QForm.get f).map .shl else
    if f.top.extractLsb' 0 2 = 1 then (QForm.get f).map .shr else
    if f.top.extractLsb' 0 2 = 2 then (QForm.get f).map .sar else
    if f.top.extractLsb' 0 2 = 3 then (QForm.get f).map .rol else
    none
  | 0x4 =>
    if f.top.extractLsb' 0 2 = 0 then (QForm.get f).map .mul else
    if f.top.extractLsb' 0 2 = 1 then (QForm.get f).map .mulh else
    if f.top.extractLsb' 0 2 = 2 then (QForm.get f).map .mulhu else
    if f.top.extractLsb' 0 2 = 3 then (QForm.get f).map .xyaddr else
    none
  | 0x5 =>
    if f.top.extractLsb' 0 2 = 0 then (QForm.get f).map .div else
    if f.top.extractLsb' 0 2 = 1 then (QForm.get f).map .divu else
    if f.top.extractLsb' 0 2 = 2 then (QForm.get f).map .rem else
    if f.top.extractLsb' 0 2 = 3 then (QForm.get f).map .remu else
    none
  | 0x6 =>
    if f.top.extractLsb' 0 2 = 0 then (Q1.get f).map .clz else
    if f.top.extractLsb' 0 2 = 1 then (Q1.get f).map .ctz else
    if f.top.extractLsb' 0 2 = 2 then (Q1.get f).map .popc else
    if f.top.extractLsb' 0 2 = 3 then (ExtForm.get f).map .ext else
    none
  | 0x7 =>
    if f.top.getLsbD 3 = false then (SelForm.get f).map .sel else
    if f.top.getLsbD 3 = true then (R3.get f).map .wfld else
    none
  | 0x8 =>
    (CmpForm.get f).map .cmp
  | 0x9 =>
    (IForm.get f).map .addi
  | 0xa =>
    (IForm.get f).map .andi
  | 0xb =>
    (IForm.get f).map .ori
  | 0xc =>
    (IForm.get f).map .xori
  | 0xd =>
    if f.top.extractLsb' 2 2 = 0 then (ShiftI.get f).map .shli else
    if f.top.extractLsb' 2 2 = 1 then (ShiftI.get f).map .shri else
    if f.top.extractLsb' 2 2 = 2 then (ShiftI.get f).map .sari else
    none
  | 0xe =>
    (CmpiForm.get f).map .cmpi
  | 0xf =>
    if f.a = 0 then (MovForm.get f).map .movi else
    if f.a = 1 then (MovForm.get f).map .movhi else
    none
  | 0x10 =>
    if f.top = 0 then (R3.get f).map .faddF32 else
    if f.top = 1 then (R3.get f).map .fsubF32 else
    if f.top = 2 then (R3.get f).map .fmulF32 else
    if f.top = 3 then (R3.get f).map .fdivF32 else
    none
  | 0x11 =>
    if f.top = 0 then (R3.get f).map .faddF64 else
    if f.top = 1 then (R3.get f).map .fsubF64 else
    if f.top = 2 then (R3.get f).map .fmulF64 else
    if f.top = 3 then (R3.get f).map .fdivF64 else
    none
  | 0x12 =>
    if f.top = 0 ∧ f.b = 0 then (R2.get f).map .fsqrtF32 else
    if f.top = 1 then (R3.get f).map .fminF32 else
    if f.top = 2 then (R3.get f).map .fmaxF32 else
    none
  | 0x13 =>
    if f.top = 0 ∧ f.b = 0 then (R2.get f).map .fsqrtF64 else
    if f.top = 1 then (R3.get f).map .fminF64 else
    if f.top = 2 then (R3.get f).map .fmaxF64 else
    none
  | 0x14 =>
    if f.top = 0 then (R3.get f).map .ffmaF32 else
    if f.top = 1 then (R3.get f).map .ffmaF64 else
    none
  | 0x15 =>
    (FcmpForm.get f).map .fcmp
  | 0x16 =>
    (FcvtForm.get f).map .fcvt
  | 0x18 =>
    (BrForm.get f).map .br
  | 0x19 =>
    (BpForm.get f).map .bp
  | 0x1a =>
    if f.d = 0 then (JForm.get f).map .j else
    if f.d = 1 then (JlForm.get f).map .jl else
    none
  | 0x1b =>
    if f.top = 0 then (Ra.get f).map .jr else
    if f.top = 1 ∧ f.b = 0 then (R2.get f).map .jlr else
    none
  | 0x1c =>
    (PlogForm.get f).map .plog
  | 0x1d =>
    if f.top = 0 then (PsetForm.get f).map .pset else
    if f.top = 1 then (PgetForm.get f).map .pget else
    if f.top = 2 then (PgetForm.get f).map .pcnt else
    none
  | 0x1f =>
    some .repe
  | 0x20 =>
    (MemForm.get f).map .ld
  | 0x21 =>
    (MemForm.get f).map .ldAcq
  | 0x22 =>
    (StForm.get f).map .st
  | 0x23 =>
    (StForm.get f).map .stRel
  | 0x24 =>
    (LdxForm.get f).map .ldx
  | 0x25 =>
    (StxForm.get f).map .stx
  | 0x26 =>
    (DispForm.get f).map .ldp
  | 0x27 =>
    (DispForm.get f).map .stp
  | 0x28 =>
    (AmoForm.get f).map .amoW
  | 0x29 =>
    (AmoForm.get f).map .amoD
  | 0x2a =>
    if f.top = 0 then (R3.get f).map .casW else
    if f.top = 1 then (R3.get f).map .casD else
    none
  | 0x2b =>
    (R3.get f).map .cas2
  | 0x2c =>
    if f.top = 0 then (Rba.get f).map .cwb else
    if f.top = 1 then (Rba.get f).map .cinv else
    none
  | 0x30 =>
    (MemForm.get f).map .rld
  | 0x31 =>
    (MemForm.get f).map .rst
  | 0x32 =>
    (AmoForm.get f).map .ramoW
  | 0x33 =>
    (AmoForm.get f).map .ramoD
  | 0x34 =>
    if f.top.extractLsb' 3 1 = 0 then (SendForm.get f).map .send else
    if f.top.extractLsb' 3 1 = 1 then (SendwForm.get f).map .sendw else
    none
  | 0x35 =>
    (SendcForm.get f).map .sendc
  | 0x36 =>
    (MrdForm.get f).map .mrd
  | 0x37 =>
    if f.top = 0 then (Ra.get f).map .tswap else
    if f.top = 1 then (R3.get f).map .mxcmd else
    if f.top = 2 then (Ra.get f).map .capset else
    none
  | 0x38 =>
    if f.top = 0 ∧ f.b.extractLsb' 4 1 = 0 then (CopyForm.get f).map .get else
    if f.top = 0 ∧ f.b.extractLsb' 4 1 = 1 then (CopyForm.get f).map .put else
    if f.top = 1 ∧ f.b.extractLsb' 4 1 = 0 then (CopyForm.get f).map .getx else
    if f.top = 1 ∧ f.b.extractLsb' 4 1 = 1 then (CopyForm.get f).map .putx else
    if f.top = 2 ∧ f.b.extractLsb' 4 1 = 0 then (CopyForm.get f).map .putxa else
    if f.top = 2 ∧ f.b.extractLsb' 4 1 = 1 then (CopyForm.get f).map .putr else
    if f.top = 3 ∧ f.b.extractLsb' 4 1 = 0 then (CopyForm.get f).map .mcast else
    none
  | 0x39 =>
    if f.top = 0 ∧ f.b.extractLsb' 4 1 = 0 then (SlotretForm.get f).map .slotret else
    if f.top = 0 ∧ f.b.extractLsb' 4 1 = 1 then (SbindForm.get f).map .sbind else
    if f.top = 1 ∧ f.b.extractLsb' 4 1 = 0 then (ChForm.get f).map .cwait else
    none
  | 0x3a =>
    (MemForm.get f).map .ldf
  | 0x3b =>
    (MemForm.get f).map .ldfe
  | 0x3c =>
    (StForm.get f).map .stf
  | 0x3d =>
    (Rba.get f).map .feclr
  | 0x40 =>
    (MapForm.get f).map .mprobe
  | 0x41 =>
    (MapForm.get f).map .minsert
  | 0x42 =>
    (MapOpForm.get f).map .mupsert
  | 0x43 =>
    (MapForm.get f).map .mremove
  | 0x44 =>
    (MapForm.get f).map .mcas
  | 0x45 =>
    (MapForm.get f).map .mprobev
  | 0x46 =>
    (MapOpForm.get f).map .mupsertv
  | 0x47 =>
    (MapForm.get f).map .mrowget
  | 0x48 =>
    (MapForm.get f).map .mrowput
  | 0x49 =>
    (MapForm.get f).map .mscan
  | 0x4a =>
    (MapForm.get f).map .mstat
  | 0x4b =>
    (MapForm.get f).map .mrepl
  | 0x50 =>
    (VForm.get f).map .vadd
  | 0x51 =>
    (VForm.get f).map .vsub
  | 0x52 =>
    (VForm.get f).map .vmul
  | 0x53 =>
    (VForm.get f).map .vfma
  | 0x54 =>
    (VForm.get f).map .vfms
  | 0x55 =>
    (VForm.get f).map .vfnma
  | 0x56 =>
    (VForm.get f).map .vdiv
  | 0x57 =>
    (VForm.get f).map .vmin
  | 0x58 =>
    (VForm.get f).map .vmax
  | 0x59 =>
    if f.top.extractLsb' 0 3 = 0 then (VBin.get f).map .vand else
    if f.top.extractLsb' 0 3 = 1 then (VBin.get f).map .vor else
    if f.top.extractLsb' 0 3 = 2 then (VBin.get f).map .vxor else
    none
  | 0x5a =>
    if f.top.extractLsb' 1 2 = 0 then (VShForm.get f).map .vshl else
    if f.top.extractLsb' 1 2 = 1 then (VShForm.get f).map .vshr else
    if f.top.extractLsb' 1 2 = 2 then (VShForm.get f).map .vsar else
    none
  | 0x5b =>
    (VcmpForm.get f).map .vcmp
  | 0x5c =>
    (VselForm.get f).map .vsel
  | 0x5d =>
    if f.top.extractLsb' 0 3 = 0 then (VBin.get f).map .vperm else
    if f.top = 1 then (R3.get f).map .vext else
    if f.top = 2 then (R3.get f).map .vins else
    if f.top.extractLsb' 0 3 = 3 then (VBin.get f).map .vdot4I8 else
    if f.top.extractLsb' 0 3 = 4 then (VBin.get f).map .vdot4N8 else
    none
  | 0x5e =>
    if f.b = 0 then (VUn0.get f).map .vmov else
    if f.b = 1 then (VUn.get f).map .vabs else
    if f.b = 2 then (VUn.get f).map .vneg else
    if f.b = 3 then (VUn.get f).map .vsqrt else
    if f.b = 4 then (VUn.get f).map .vrcp else
    if f.b = 5 then (VUn.get f).map .vrsq else
    if f.b = 6 then (VUn.get f).map .vexp2 else
    if f.b = 7 then (VUn.get f).map .vlog2 else
    if f.b = 8 then (VUn0.get f).map .vbcast else
    if f.top = 0 ∧ f.b = 9 then (Rd.get f).map .viota else
    if f.b = 10 then (VcompForm.get f).map .vcomp else
    if f.top = 0 ∧ f.b = 11 then (R2.get f).map .vlen else
    if f.b = 12 ∧ f.d.extractLsb' 2 3 = 1 then (VmovqForm.get f).map .vmovQ else
    if f.b.extractLsb' 3 2 = 2 then (VredForm.get f).map .vred else
    if f.b.extractLsb' 3 2 = 3 then (VscanForm.get f).map .vscan else
    none
  | 0x60 =>
    if f.b.extractLsb' 0 4 = 2 then (DispForm.get f).map .vld else
    if f.b.extractLsb' 0 4 = 10 then (DispForm.get f).map .vst else
    none
  | 0x61 =>
    if f.top = 0 then (R3.get f).map .vlds else
    if f.top = 1 then (R3.get f).map .vsts else
    if f.top = 2 then (R3.get f).map .vldx else
    if f.top = 3 then (R3.get f).map .vstx else
    none
  | 0x62 =>
    if f.top = 0 then (Ra.get f).map .tblld else
    if f.top = 1 then (Rba.get f).map .winset else
    none
  | 0x63 =>
    (CvtForm.get f).map .vcvt
  | 0x64 =>
    (UnpackForm.get f).map .vdec
  | 0x65 =>
    (PackForm.get f).map .venc
  | 0x66 =>
    (QuantForm.get f).map .vqnt
  | 0x67 =>
    (UnpackForm.get f).map .vdqnt
  | 0x68 =>
    if f.top = 0 then (MmaForm.get f).map .mma else
    if f.top = 1 then (MmatForm.get f).map .mmat else
    if f.top = 2 then (TForm.get f).map .tzero else
    none
  | 0x69 =>
    if f.top = 0 then (TileForm.get f).map .tld else
    if f.top = 1 then (TileForm.get f).map .tldT else
    if f.top = 2 then (TileForm.get f).map .tst else
    if f.top = 3 then (TileForm.get f).map .tstn else
    if f.top = 4 then (TileForm.get f).map .trow else
    none
  | 0x6a =>
    if f.top = 0 then (Ra.get f).map .clld else
    if f.top = 1 ∧ f.a = 0 then (G0.get f).map .clrot else
    if f.top = 2 ∧ f.a = 0 then (G0.get f).map .clwait else
    none
  | 0x6b =>
    if f.top = 0 then (Rba.get f).map .pgbound else
    if f.top = 1 then (Rba.get f).map .pgpick else
    if f.top = 2 then (Ra.get f).map .pgsum else
    if f.top = 3 then (Ra.get f).map .pgclr else
    none
  | 0x70 =>
    if f.top = 0 then (R3.get f).map .dqpush else
    if f.top = 1 ∧ f.b = 0 then (Rd.get f).map .dqpop else
    if f.top = 2 ∧ f.b = 0 then (R2.get f).map .dqsplit else
    if f.top = 3 ∧ f.b = 0 then (R2.get f).map .dqsteal else
    none
  | 0x71 =>
    if f.top = 0 ∧ f.a = 0 then (G0.get f).map .done else
    if f.top = 1 ∧ f.a = 0 then (G0.get f).map .idem else
    if f.top = 1 ∧ f.a = 1 then (G0.get f).map .idemEnd else
    none
  | 0x72 =>
    if f.top = 0 then (Rba.get f).map .hset else
    if f.top = 1 then (R3.get f).map .hmask else
    none
  | 0x73 =>
    if f.top = 0 ∧ f.b = 0 then (R2.get f).map .launch else
    if f.top = 0 ∧ f.b = 1 then (R2.get f).map .launchH else
    none
  | 0x74 =>
    if f.top = 0 then (R3.get f).map .barv else
    if f.top = 1 then (R3.get f).map .barw else
    none
  | 0x75 =>
    if f.top.extractLsb' 2 2 = 0 then (FenceForm.get f).map .fenceAcq else
    if f.top.extractLsb' 2 2 = 1 then (FenceForm.get f).map .fenceRel else
    if f.top.extractLsb' 2 2 = 2 then (FenceForm.get f).map .fenceFull else
    if f.top.extractLsb' 2 2 = 3 then (FenceForm.get f).map .fenceM else
    none
  | 0x76 =>
    (G0.get f).map .rfence
  | 0x78 =>
    (TrapForm.get f).map .trap
  | 0x79 =>
    (G0.get f).map .rtt
  | 0x7a =>
    (SrdForm.get f).map .srd
  | 0x7b =>
    (SwrForm.get f).map .swr
  | 0x7c =>
    (TlbForm.get f).map .tlbinv
  | 0x7d =>
    (Ra.get f).map .wait
  | _ => none

/-- The instruction read from a word with L = 1 and its literal (R20, R26). -/
noncomputable def readLit (lit : BitVec 32) (f : Fields) : Option Instr :=
  match f.major.toNat with
  | 0x0 =>
    if f.top.extractLsb' 0 2 = 0 then (QLit.get lit f).map .addLit else
    if f.top.extractLsb' 0 2 = 1 then (QLit.get lit f).map .subLit else
    if f.top.extractLsb' 0 2 = 2 then (QLit.get lit f).map .minLit else
    if f.top.extractLsb' 0 2 = 3 then (QLit.get lit f).map .maxLit else
    none
  | 0x1 =>
    if f.top.extractLsb' 0 2 = 0 then (QLit.get lit f).map .minuLit else
    if f.top.extractLsb' 0 2 = 1 then (QLit.get lit f).map .maxuLit else
    if f.top.extractLsb' 0 2 = 2 then (QLit.get lit f).map .andnLit else
    if f.top.extractLsb' 0 2 = 3 then (QLit.get lit f).map .bfxLit else
    none
  | 0x2 =>
    if f.top.extractLsb' 0 2 = 0 then (QLit.get lit f).map .andLit else
    if f.top.extractLsb' 0 2 = 1 then (QLit.get lit f).map .orLit else
    if f.top.extractLsb' 0 2 = 2 then (QLit.get lit f).map .xorLit else
    if f.top.extractLsb' 0 2 = 3 then (QLit.get lit f).map .bfiLit else
    none
  | 0x3 =>
    if f.top.extractLsb' 0 2 = 0 then (QLit.get lit f).map .shlLit else
    if f.top.extractLsb' 0 2 = 1 then (QLit.get lit f).map .shrLit else
    if f.top.extractLsb' 0 2 = 2 then (QLit.get lit f).map .sarLit else
    if f.top.extractLsb' 0 2 = 3 then (QLit.get lit f).map .rolLit else
    none
  | 0x4 =>
    if f.top.extractLsb' 0 2 = 0 then (QLit.get lit f).map .mulLit else
    if f.top.extractLsb' 0 2 = 1 then (QLit.get lit f).map .mulhLit else
    if f.top.extractLsb' 0 2 = 2 then (QLit.get lit f).map .mulhuLit else
    if f.top.extractLsb' 0 2 = 3 then (QLit.get lit f).map .xyaddrLit else
    none
  | 0x5 =>
    if f.top.extractLsb' 0 2 = 0 then (QLit.get lit f).map .divLit else
    if f.top.extractLsb' 0 2 = 1 then (QLit.get lit f).map .divuLit else
    if f.top.extractLsb' 0 2 = 2 then (QLit.get lit f).map .remLit else
    if f.top.extractLsb' 0 2 = 3 then (QLit.get lit f).map .remuLit else
    none
  | 0x7 =>
    if f.top.getLsbD 3 = false then (SelLit.get lit f).map .selLit else
    if f.top.getLsbD 3 = true then (R2Lit.get lit f).map .wfldLit else
    none
  | 0x8 =>
    (CmpLit.get lit f).map .cmpLit
  | 0x9 =>
    (R2Lit.get lit f).map .addiLit
  | 0xa =>
    (R2Lit.get lit f).map .andiLit
  | 0xb =>
    (R2Lit.get lit f).map .oriLit
  | 0xc =>
    (R2Lit.get lit f).map .xoriLit
  | 0xe =>
    (CmpiLit.get lit f).map .cmpiLit
  | 0xf =>
    if f.a = 0 then (MovLit.get lit f).map .moviLit else
    if f.a = 1 then (MovLit.get lit f).map .movhiLit else
    none
  | 0x18 =>
    (BrLit.get lit f).map .brLit
  | 0x19 =>
    (BpLit.get lit f).map .bpLit
  | 0x1a =>
    if f.d = 0 then (JLit.get lit f).map .jLit else
    if f.d = 1 then (JlLit.get lit f).map .jlLit else
    none
  | 0x1e =>
    (RepbForm.get lit f).map .repb
  | 0x20 =>
    (MemLit.get lit f).map .ldLit
  | 0x21 =>
    (MemLit.get lit f).map .ldAcqLit
  | 0x22 =>
    (StLit.get lit f).map .stLit
  | 0x23 =>
    (StLit.get lit f).map .stRelLit
  | 0x26 =>
    (R2Lit.get lit f).map .ldpLit
  | 0x27 =>
    (R2Lit.get lit f).map .stpLit
  | 0x30 =>
    (MemLit.get lit f).map .rldLit
  | 0x31 =>
    (MemLit.get lit f).map .rstLit
  | 0x3a =>
    (MemLit.get lit f).map .ldfLit
  | 0x3b =>
    (MemLit.get lit f).map .ldfeLit
  | 0x3c =>
    (StLit.get lit f).map .stfLit
  | 0x60 =>
    if f.top = 0 ∧ f.b = 2 then (R2Lit.get lit f).map .vldLit else
    if f.top = 0 ∧ f.b = 10 then (R2Lit.get lit f).map .vstLit else
    none
  | _ => none

/-- The instruction read from a compact halfword (R21). -/
noncomputable def readCompact (h : HW) : Option Instr :=
  let f1 : BitVec 5 := h.extractLsb' 6 5
  let f2 : BitVec 5 := h.extractLsb' 11 5
  match (h.extractLsb' 1 5).toNat with
  | 1 => some (.cAdd ⟨f2, f1⟩)
  | 2 => some (.cSub ⟨f2, f1⟩)
  | 3 => some (.cAnd ⟨f2, f1⟩)
  | 4 => some (.cOr ⟨f2, f1⟩)
  | 5 => some (.cXor ⟨f2, f1⟩)
  | 6 => some (.cMov ⟨f2, f1⟩)
  | 7 => some (.cAddi ⟨f2, f1⟩)
  | 8 => some (.cAddiX0 ⟨f2, f1⟩)
  | 9 => some (.cShli ⟨f2, f1⟩)
  | 10 => some (.cShri ⟨f2, f1⟩)
  | 11 => some (.cSari ⟨f2, f1⟩)
  | 12 => some (.cAndi ⟨f2, f1⟩)
  | 13 => some (.cLdDX2 ⟨f2, f1⟩)
  | 14 => some (.cStDX2 ⟨f2, f1⟩)
  | 15 => some (.cLdWX2 ⟨f2, f1⟩)
  | 16 => some (.cStWX2 ⟨f2, f1⟩)
  | 17 => some (.cLdW ⟨f2, f1⟩)
  | 18 => some (.cStW ⟨f2, f1⟩)
  | 19 => some (.cLdD ⟨f2, f1⟩)
  | 20 => some (.cStD ⟨f2, f1⟩)
  | 21 => some (.cBrEq ⟨f2, f1⟩)
  | 22 => some (.cBrNe ⟨f2, f1⟩)
  | 23 => some (.cMul ⟨f2, f1⟩)
  | 24 => some (.cCmpEq ⟨f2, f1⟩)
  | 25 => some (.cJr ⟨f1⟩)
  | 26 => some (.cJlr ⟨f1⟩)
  | 27 => some (.cSrd ⟨f2, f1⟩)
  | 28 => some .cDone
  | 29 => some .cRfence
  | 30 => some (.cTrap ⟨f2⟩)
  | 31 => some .nop
  | _ => none

/-- Why a pattern is not an instruction. Each traps ILLEGAL (R24 steps 1 and 2). -/
inductive DecodeError where
  /-- A halfword lies beyond index 0x7FFF, or beyond a carried buffer (R16, R162). -/
  | beyondEnd
  /-- An unassigned major, minor or compact op, or a coded field without such a value (R26, R27, R30). -/
  | unassigned
  /-- A bit that no field of the instruction owns is set, or a replaced field is nonzero (R18, R20). -/
  | mustBeZero
  /-- A constraint between or on the fields fails (R18, R19, R22). -/
  | constraint
  deriving DecidableEq, Repr

/-- Accepts an instruction read from an encoding: every bit must be owned by one of its fields, so
the encoding must be the instruction's own, and the fields must be well formed. -/
def accept (e : Enc) (i : Option Instr) : Except DecodeError Instr :=
  match i with
  | none => .error .unassigned
  | some i =>
    if enc i = some e then
      if i.wellFormed then .ok i else .error .constraint
    else .error .mustBeZero

/-- The instruction that a list of halfwords begins with (R15, R24 steps 1 and 2). The length is told
by the first halfword alone. -/
noncomputable def decode (hs : List HW) : Except DecodeError Instr :=
  match hs with
  | [] => .error .beyondEnd
  | h0 :: r0 =>
    if h0.getLsbD 0 = false then accept (.compact h0) (readCompact h0)
    else match r0 with
      | [] => .error .beyondEnd
      | h1 :: r1 =>
        let f := Fields.ofWord (h1 ++ h0 : BitVec (16 + 16))
        if f.l = false then accept (.word f) (readWord f)
        else match r1 with
          | h2 :: h3 :: _ =>
            let lit : BitVec 32 := (h3 ++ h2 : BitVec (16 + 16))
            accept (.wordLit f lit) (readLit lit f)
          | _ => .error .beyondEnd

/-- Length in halfwords of the instruction that begins with `h0` (R15). -/
def lengthOf (h0 : HW) : Nat := if h0.getLsbD 0 = false then 1 else if h0.getLsbD 1 = false then 2 else 4

/-- The halfwords of an instruction whose bits are `w`, bit 0 the least significant bit of the first
halfword, with zeros above `nbits` up to the longest instruction (four halfwords). -/
def tableHalves (nbits w : Nat) : List HW :=
  let v := w % 2 ^ nbits
  [BitVec.ofNat 16 v, BitVec.ofNat 16 (v / 2 ^ 16), BitVec.ofNat 16 (v / 2 ^ 32), BitVec.ofNat 16 (v / 2 ^ 48)]

/-- The instruction read from the bits `w` of a row of the opcode table. -/
noncomputable def decodeTableWord (nbits w : Nat) : Option Instr :=
  match decode (tableHalves nbits w) with
  | .ok i => some i
  | .error _ => none

end Sys2Proof
end

