-- ==== Sys2Proof/Machine/System.lean ====
section
/-! DEFINITION. System registers (R324, R325 and the register descriptions), the fences (R252–R256), TRAP, RTT,
TLBINV and WAIT (R326–R329). -/

namespace Sys2Proof.Machine

/-! ## Completing a command (R334) -/

/-- A command slot. -/
def State.cmdSlot (s : State) (n : Nat) : CmdSlot := Tbl.getD s.slots n CmdSlot.reset

/-- A command of Ebpex completes: its code, its results, and the MSI-X vector of its slot when IRQ asks for it. -/
def State.complete (s : State) (h : CmdHead) (code : Nat) (out : List Nat) : State :=
  { s with slots := Tbl.insert s.slots h.slot { s.cmdSlot h.slot with
             running := false, code := code, tag := h.tag, irq := h.irq, out := out, waits := none, ctx := none },
           msix := if h.irq then maskSet s.msix h.slot else s.msix }

/-! ## Reading (R324) -/

/-- SR.RINGNEXT (R229). -/
def Regs.ring (r : Regs) : W := w64 (b2n r.cr * 2 ^ 63 + r.ringNext)
/-- SR.MCS (R82). -/
def Regs.mcsWord (r : Regs) : W := w64 (ofLanes 4 ((List.range 16).map fun j => Tbl.getD r.mcs j 0))
/-- SR.QCNT (R194). -/
def VecUnit.qcnt (u : VecUnit) : W := w64 (ofLanes 5 ((List.range 8).map fun n => (u.queue n).length))
/-- SR.STEAL (R288). -/
def Regs.steal (r : Regs) : W := w64 (r.stealCnt * 2 ^ 16 + r.stealScope)
/-- SR.PEND (R309). -/
def Regs.pendWord (r : Regs) : W := w64 (b2n r.lost * 2 ^ 63 + r.pend.length)

/-- System register `n` as task `t` of bank `hi` reads it; the numbers not listed here are those that no
well-formed instruction names (R324). -/
def Core.readSr (k : Core) (c : Nat) (t : Task) (hi : Bool) (n : Nat) : W :=
  let r := k.regs
  let b := k.bank hi
  if 0x10 ≤ n ∧ n < 0x20 then w64 (Tbl.getD r.cnext (n - 0x10) 0)
  else if 0x20 ≤ n ∧ n < 0x30 then w64 (Tbl.getD r.cdone (n - 0x20) 0)
  else if 0x10D ≤ n ∧ n ≤ 0x110 then w64 (Tbl.getD r.mcr (n - 0x10D) 0)
  else
    match n with
    | 0x00 => coreId c
    | 0x01 => t.wid
    | 0x02 => r.cyc
    | 0x03 => w64 k.vu.vl
    | 0x04 => w64 b.rmode
    | 0x05 => b.rng
    | 0x06 => b.mst
    | 0x07 => r.mlane
    | 0x08 => w64 k.unack
    | 0x09 => r.oobcnt
    | 0x0A => r.ring
    | 0x0B => w64 (b2n r.rprot)
    | 0x0C => k.vu.qcnt
    | 0x0D => r.mcsWord
    | 0x0E => r.repst
    | 0x0F => w64 r.budget
    | 0x100 => r.trapc
    | 0x101 => r.trappc
    | 0x102 => r.trapv
    | 0x103 => r.tstat
    | 0x104 => r.tvec
    | 0x105 => r.tscr
    | 0x106 => r.pendWord
    | 0x107 => r.live
    | 0x108 => r.dtab
    | 0x109 => r.asid
    | 0x10A => r.ptroot
    | 0x10B => r.cap
    | 0x10C => r.steal
    | _ => 0

/-! ## Writing (R325) -/

/-- SR.VL as a write leaves it (R196). -/
def vlOf (v : W) : Nat := if v.bits 6 0 = 0 then 1 else Nat.min (v.bits 6 0) 64

/-- SR.RMODE as a write leaves it (R172). -/
def rmodeOf (v : W) : Nat := if 5 ≤ v.bits 2 0 then 0 else v.bits 2 0

/-- SR.DTAB as a write leaves it (R54). -/
def dtabOf (v : W) : W := w64 (v.bits 55 12 * 2 ^ 12 + Nat.min (v.bits 4 0) 20)

/-- One entry of SR.MCR as a write leaves it (R82). -/
def mcrEntry (e : Nat) : Nat :=
  let v := bitsOf e 15 15
  let cred := bitsOf e 14 11
  v * 2 ^ 15 + (if v = 1 ∧ cred = 0 then 1 else cred) * 2 ^ 11 + bitsOf e 9 0

/-- Entry `j` of the multicast list (R82). -/
def Regs.mcrAt (r : Regs) (j : Nat) : Nat := lane 16 (Tbl.getD r.mcr (j / 4) 0) (j % 4)

/-- A write of SR.MCR[k]: four entries, and their counters at CRED or 0 (R82). -/
def Regs.writeMcr (r : Regs) (k : Nat) (v : W) : Regs :=
  let es := (List.range 4).map fun e => mcrEntry (lane 16 v.toNat e)
  let mcs := (List.range 4).foldl (fun m e =>
    let x := es.getD e 0
    Tbl.put 0 m (4 * k + e) (if bitOf x 15 then bitsOf x 14 11 else 0)) r.mcs
  { r with mcr := Tbl.put 0 r.mcr k (ofLanes 16 es), mcs := mcs }

/-- The write of a register whose fields are stored as they are: RW fields take the value, RO and reserved ones keep
theirs (R325). `sup` is the mode of the writer. -/
def Regs.write (r : Regs) (sup : Bool) (n : Nat) (v : W) : Regs :=
  if 0x10 ≤ n ∧ n < 0x20 then if sup then { r with cnext := Tbl.put 0 r.cnext (n - 0x10) (v.bits 47 0) } else r
  else if 0x20 ≤ n ∧ n < 0x30 then if sup then { r with cdone := Tbl.put 0 r.cdone (n - 0x20) (v.bits 47 0) } else r
  else
    match n with
    | 0x09 => { r with oobcnt := v }
    | 0x0A => { r with ringNext := v.bits 9 0 }
    | 0x0B => { r with rprot := v.getLsbD 0 }
    | 0x100 => { r with trapc := w64 (v.bits 7 0) }
    | 0x101 => { r with trappc := v }
    | 0x102 => { r with trapv := v }
    | 0x103 =>
      let m : W := 0xC300
      { r with tstat := (r.tstat &&& ~~~m) ||| (v &&& m) }
    | 0x104 => { r with tvec := w64 (v.bits 14 0) }
    | 0x105 => { r with tscr := v }
    | 0x107 => { r with live := w64 (v.bits 47 0) }
    | 0x10C => { r with stealCnt := v.bits 47 16, stealScope := v.bits 1 0 }
    | _ => r

/-- SR_MCR_WRITE (R82). -/
def execSrMcrWrite (c k : Nat) (v : W) (s : State) : Out :=
  .next (s.onSched c fun x => { x with regs := x.regs.writeMcr k v })

/-- SR_PEND_LOST_CLEAR (R309): W1C. -/
def execSrPendLostClear (c : Nat) (v : W) (s : State) : Out :=
  .next (s.onCore c fun x => { x with regs := { x.regs with lost := x.regs.lost && !v.getLsbD 63 } })

/-- SR_VL_WRITE (R196). -/
def execSrVlWrite (c : Nat) (v : W) (s : State) : Out :=
  .next (s.onCore c fun x => { x with vu := { x.vu with vl := vlOf v } })

/-- SR_RMODE_WRITE (R172), in the bank of the running task. -/
def execSrRmodeWrite (c : Nat) (v : W) (s : State) : Out :=
  .next (s.onCore c fun x => x.setBank x.inHi { x.bank x.inHi with rmode := rmodeOf v })

/-- SR_DTAB_WRITE (R54). -/
def execSrDtabWrite (c : Nat) (v : W) (s : State) : Out :=
  .next (s.onCore c fun x => { x with regs := { x.regs with dtab := dtabOf v } })

/-- SR_BUDGET_WRITE (R313). -/
def execSrBudgetWrite (c : Nat) (v : W) (s : State) : Out :=
  .next (s.onCore c fun x => { x with regs := { x.regs with budget := v.bits 31 0 } })

/-- REGISTER_WRITE (R325): a write to any other register, in the mode of the running task. -/
def execRegisterWrite (c n : Nat) (v : W) (s : State) : Out :=
  .next (s.onCore c fun x =>
    if n = 0x05 then x.setBank x.inHi { x.bank x.inHi with rng := v }
    else
      let sup := match x.task? with
        | some t => t.sup
        | none => false
      { x with regs := x.regs.write sup n v })

/-- The state a step of this machine leaves, or the state before it. -/
def outState (s : State) (o : Out) : State :=
  match o with
  | .next s' => s'
  | .fault _ => s
  | .refused _ => s

/-- What SWR does to register `n` (R325). -/
def writeSr (s : State) (c : Nat) (sup : Bool) (n : Nat) (v : W) : State :=
  outState s (
    if 0x10D ≤ n ∧ n ≤ 0x110 then execSrMcrWrite c (n - 0x10D) v s
    else if n = 0x106 then execSrPendLostClear c v s
    else if n = 0x03 then execSrVlWrite c v s
    else if n = 0x04 then execSrRmodeWrite c v s
    else if n = 0x108 then execSrDtabWrite c v s
    else if n = 0x0F then (if sup then execSrBudgetWrite c v s else .next s)
    else execRegisterWrite c n v s)

/-- What SRD and SWR of register `n` need (R24, R324, R192). -/
def srNeed (len : Nat) (g : Guard) (n : Nat) (xs xd : List Reg) (write : Bool) : Need :=
  { Need.plain len g xs with
    xd := xd, sup := decide (0x100 ≤ n), noHi := n == 0x03 || n == 0x0C, carried := false,
    readVl := n == 0x03, setVl := write && n == 0x03, modes := n == 0x04 || n == 0x05, matrix := n == 0x0A,
    pass := !write, rel := !write }

/-- SRD (R325). -/
def execSrd (f : SrdForm) (s : State) : Out :=
  scalar (srNeed 2 f.g f.n.toNat [] [f.d] false)
    (fun cx => cx.setD cx.s f.d (cx.k.readSr cx.c cx.t cx.hi f.n.toNat)) s

/-- Compact SRD (R21). -/
def execCSrd (f : CImm) (s : State) : Out :=
  scalar (srNeed 1 .always f.imm.toNat [] [f.d] false)
    (fun cx => cx.setD cx.s f.d (cx.k.readSr cx.c cx.t cx.hi f.imm.toNat)) s

/-- SWR (R325). -/
def execSwr (f : SwrForm) (s : State) : Out :=
  scalar (srNeed 2 f.g f.n.toNat [f.a] [] true)
    (fun cx => .done (writeSr cx.s cx.c cx.t.sup f.n.toNat (cx.x f.a))) s

/-! ## Fences (R253–R256) -/

/-- FENCE.ACQ: after every earlier load, those that are put off and those of the vector/matrix stream. -/
def execFenceAcq (f : FenceForm) (s : State) : Out :=
  scalar { Need.fence 2 f.g [] with carried := false }
    (fun cx => if cx.owesMemory then .stay cx.s else .done (cx.s.acquire cx.c f.scope)) s

/-- FENCE.REL. -/
def execFenceRel (f : FenceForm) (s : State) : Out :=
  scalar { Need.fence 2 f.g [] with carried := false }
    (fun cx => if cx.released f.scope then .done cx.s else .stay cx.s) s

/-- The release and then the acquire of a full fence (R255). -/
def Cx.full (cx : Cx) (sc : Scope) : Ret := if cx.released sc then .done (cx.s.acquire cx.c sc) else .stay cx.s

/-- FENCE.FULL. -/
def execFenceFull (f : FenceForm) (s : State) : Out :=
  scalar { Need.fence 2 f.g [] with carried := false } (fun cx => cx.full f.scope) s

/-- FENCE.M: later map requests are sent by later instructions. -/
def execFenceM (f : FenceForm) (s : State) : Out :=
  scalar { Need.fence 2 f.g [] with carried := false } (fun cx => cx.full f.scope) s

/-- Whether a TST or TSTN that the vector/matrix stream replays goes to another core, and has no Waybill entry yet
(R215, R225). -/
def VEntry.owesTst (e : VEntry) (c : Nat) : Bool :=
  e.items.any fun it =>
    let far := fun (r : Reg) =>
      match decodeAddr c true (e.x it 1 r).toNat 0 with
      | .ok (.loc core _ _) => it.entry.isNone && core != c
      | _ => false
    match it.instr with
    | .tst f => far f.a
    | .tstn f => far f.a
    | _ => false

/-- RFENCE waits until SR.UNACK reads 0 and no earlier remote TST has still to take its Waybill entry (R256). -/
def Cx.rfence (cx : Cx) : Ret :=
  if cx.k.unack = 0 ∧ (cx.hi ∨ cx.k.vu.stopped ∨ !cx.k.vu.viq.any (·.owesTst cx.c)) then .done cx.s else .stay cx.s

/-- RFENCE. -/
def execRfence (f : G0) (s : State) : Out := scalar { Need.plain 2 f.g [] with carried := false } Cx.rfence s
/-- Compact RFENCE (R21). -/
def execCRfence (s : State) : Out := scalar { Need.plain 1 .always [] with carried := false } Cx.rfence s

/-! ## TRAP, RTT, TLBINV, WAIT (R326–R329) -/

/-- TRAP (R326). -/
def execTrap (f : TrapForm) (s : State) : Out :=
  scalar { Need.fence 2 f.g [] with carried := false } (fun _ => .trap cSOFT (w64 f.code.toNat)) s
/-- Compact TRAP (R21). -/
def execCTrap (f : CZ) (s : State) : Out :=
  scalar { Need.fence 1 .always [] with carried := false } (fun _ => .trap cSOFT (w64 f.imm.toNat)) s

/-- The end of a service call: Ebpex reports its command complete (R311). -/
def State.endService (s : State) (c : Nat) : State :=
  match s.runtimeCalls.find? fun e => e.2 == c with
  | none => s
  | some e => { s with runtimeCalls := s.runtimeCalls.erase e }.complete e.1 0 []

/-- Where RTT resumes the scalar stream without a fault of the other stream: SR.TRAPPC, past its instruction with
SKIP or after SOFT (R327). A pc without an instruction has no length and is kept (DEDUCED, assumption 20). -/
def Core.rttPc (k : Core) (t : Task) : Nat :=
  let pc := k.regs.trappc.bits 62 0
  let t' := { t with carried := k.regs.trappc.getLsbD 63 }
  if k.regs.tstat.getLsbD 9 || k.regs.trapc.bits 7 0 == cSOFT then
    match k.half? t' pc with
    | some h => pc + lengthOf h
    | none => pc
  else pc

/-- RTT (R327). -/
def execRtt (f : G0) (s : State) : Out :=
  scalar { Need.fence 2 f.g [] with sup := true, carried := false } (fun cx =>
    let r := cx.k.regs
    if !r.inTrap then .trap cILLEGAL (cx.k.instrWord cx.t)
    else
      let v := r.repst.getLsbD 63
      let out := { r with tstat := r.tstat &&& ~~~(0x8000#64) }
      let sup := r.tstat.getLsbD 14
      if r.tstat.getLsbD 8 || r.tstat.getLsbD 11 then
        if !cx.hi && !v && !cx.k.vu.viq.isEmpty then .stay cx.s
        else
          let s := cx.s.onCore cx.c fun k =>
            if v then { k.dropStream with regs := { out with repst := r.repst &&& w64 (2 ^ 63 - 1) } }
            else { k with regs := out }
          let s := s.endTask cx.c cx.hi
          .stay (if cx.t.service then s.endService cx.c else s)
      else if v then
        .stay (cx.s.onCore cx.c fun k =>
          let vu := if r.tstat.getLsbD 9 then k.vu.advance else k.vu
          { k with regs := out, vu := { vu with stopped := false } }.onTask cx.hi fun t =>
            { t with sup := sup, carried := false, pc := r.repst.bits 14 0, stalled := false })
      else
        .stay (cx.s.onCore cx.c fun k => { k with regs := out }.onTask cx.hi fun t =>
          { t with sup := sup, carried := r.trappc.getLsbD 63, pc := cx.k.rttPc cx.t, stalled := false })) s

/-- Whether a TLB entry is one that TLBINV drops (R328). -/
def TlbEntry.dropped (e : TlbEntry) (va : Nat) (allVa allAsid : Bool) (asid : Nat) : Bool :=
  (allAsid || e.asid == asid || e.g) && (allVa || e.page == va / 2 ^ pageBits e.sz)

/-- TLBINV: drops matching entries of the covered TLBs; walks begun before end without installing their result (R328). -/
def State.tlbinv (s : State) (c : Nat) (sc : Scope) (drop : TlbEntry → Bool) : State :=
  let coreIn := fun (i : Nat) => match sc with
    | .core => i == c
    | .cluster => i / 4 == c / 4
    | .package | .system => true
  let dieIn := fun (d : Nat) => match sc with
    | .core | .cluster => d == dieOf c
    | .package | .system => true
  { s with
    cores := s.cores.map fun e => if coreIn e.1 then (e.1, { e.2 with tlb := e.2.tlb.filter fun x => !drop x }) else e
    dieTlb := s.dieTlb.map fun e => if dieIn e.1 then (e.1, e.2.filter fun x => !drop x) else e
    walks := s.walks.map fun w => { w with dead := true } }

/-- TLBINV (R328). -/
def execTlbinv (f : TlbForm) (s : State) : Out :=
  scalar { Need.fence 2 f.g [f.a, f.b] with sup := true, carried := false } (fun cx =>
    let a := cx.x f.a
    let b := cx.x f.b
    if b.bits 63 18 ≠ 0 then .trap cILLEGAL b
    else
      let allVa := b.getLsbD 17
      match if allVa then Except.ok 0 else
          match decodeAddr cx.c true a.toNat 1 with
          | .ok (.global va) => .ok va
          | _ => .error () with
      | .error _ => .trap cADDR a
      | .ok va => .done (cx.s.tlbinv cx.c f.scope fun e => e.dropped va allVa (b.getLsbD 16) (b.bits 15 0))) s

/-- WAIT (R329). -/
def execWait (f : Ra) (s : State) : Out :=
  scalar { Need.fence 2 f.g [f.a] with carried := false } (fun cx =>
    let n := (cx.x f.a).toNat
    if n = 0 then .done cx.s else cx.await cx.s (.cycles n)) s

/-- WAIT_EXPIRY (R329): a WAIT of either task ends when SR.CYC has advanced by its count, or early for a pending trap. -/
def execWaitExpiry (c : Nat) (s : State) : Out :=
  let ends := fun (hi : Bool) (s : State) =>
    let k := s.core c
    match k.bankTask hi with
    | some t =>
      match t.wait with
      | .cycles n => if n = 0 ∨ (!k.regs.inTrap ∧ !k.regs.pend.isEmpty ∧ k.inHi = hi) then s.resume c hi 2 id else s
      | _ => s
    | none => s
  .next (ends true (ends false s))

/-- CAPSET (R165). -/
def execCapset (f : Ra) (s : State) : Out :=
  scalar { Need.fence 2 f.g [f.a] with sup := true, carried := false }
    (fun cx => .done (cx.s.onCore cx.c fun k => { k with regs := { k.regs with cap := cx.x f.a } })) s

/-- ILLEGAL_ENCODING (R30): fetching a pattern that is no instruction traps ILLEGAL exactly. -/
def execIllegalEncoding (word : BitVec 32) (s : State) : Out :=
  let c := s.actor
  let k := s.core c
  match k.task? with
  | none => .next s
  | some t =>
    let s := s.issue c k.inHi
    let cx : Cx := { s := s, c := c, k := s.core c, t := t, hi := k.inHi }
    let shut := s.onCore c fun k =>
      if !k.inHi && !k.regs.inTrap then { k with vu := { k.vu with recording := none } } else k
    cx.trapOut shut cILLEGAL (w64 word.toNat)

end Sys2Proof.Machine
end

