-- ==== Sys2Proof/Machine/Transfer.lean ====
section
/-! DEFINITION. Transfers: issuing a copy, its pieces at Porters, link agents and owner ports, HBM controllers,
completion, multicast slots and the waits on channels (R38–R42, R65–R88, R336–R341). -/

namespace Sys2Proof.Machine

/-! ## Control words (R66) -/

/-- The copy instructions, by their op field (R69). -/
inductive CopyOp where
  | get
  | put
  | getx
  | putx
  | putxa
  | putr
  | mcast
  deriving DecidableEq, Repr

/-- The op number. -/
def CopyOp.code (o : CopyOp) : Nat :=
  match o with
  | .get => 0
  | .put => 1
  | .getx => 2
  | .putx => 3
  | .putxa => 4
  | .putr => 5
  | .mcast => 6

/-- Whether the destination is local. -/
def CopyOp.reads (o : CopyOp) : Bool := o == .get || o == .getx
/-- Whether the copy has an index list. -/
def CopyOp.indexed (o : CopyOp) : Bool := o == .getx || o == .putx || o == .putxa

/-- A control word's fields. -/
structure Ctl where
  dl : Bool
  slk : Nat
  full : Bool
  bend : Bool
  tensor : Bool
  ixw : Bool
  ixs : Bool
  rty : Nat
  rop : Nat
  count : Nat
  idx : Nat
  len : Nat
  deriving DecidableEq, Repr

/-- The fields of a control word. -/
def ctlOf (w : W) : Ctl :=
  { dl := w.getLsbD 63, slk := w.bits 62 59, full := w.getLsbD 58, bend := w.getLsbD 57, tensor := w.getLsbD 56,
    ixw := w.getLsbD 55, ixs := w.getLsbD 54, rty := w.bits 53 51, rop := w.bits 50 49, count := w.bits 47 36,
    idx := w.bits 35 18, len := w.bits 17 0 }

/-- The bits of CTL that an instruction uses. -/
def ctlUses (o : CopyOp) : Nat :=
  let common := maskOf 63 1 + maskOf 59 4 + maskOf 58 1 + maskOf 0 18
  let index := maskOf 55 1 + maskOf 54 1 + maskOf 36 12 + maskOf 18 18
  match o with
  | .get | .put => common + maskOf 57 1 + maskOf 56 1
  | .getx | .putx => common + maskOf 57 1 + maskOf 56 1 + index
  | .putxa => common + maskOf 57 1 + maskOf 56 1 + index + maskOf 51 3
  | .putr => common + maskOf 57 1 + maskOf 51 3 + maskOf 49 2 + maskOf 36 12
  | .mcast => common

/-- Bytes of an element type of PUTXA and PUTR. -/
def rtyBytes (r : Nat) : Nat := if r = 1 ∨ r = 2 then 2 else if r = 5 then 8 else 4

/-- Whether an address names a scratchpad, and not instruction memory or full bits (R49, R66). -/
def namesScratch (a : W) : Bool := (a.bits 63 60 == 8 || a.bits 63 60 == 9) && decide (a.bits 49 46 ≤ 12)

/-- The conditions of R66 on CTL, given LOC and FAR, and of R82 on an MCAST's receiver mask. -/
def ctlOk (o : CopyOp) (r : Regs) (w loc far aux : W) : Bool :=
  let c := ctlOf w
  w.toNat == w.toNat &&& ctlUses o &&
  (!o.indexed || (decide (1 ≤ c.count) && c.idx % (if c.ixw then 8 else 4) == 0)) &&
  (!(o == .putxa || o == .putr) || (decide (c.rty ≤ 5) && c.len % rtyBytes c.rty == 0)) &&
  (o != .putr || decide (c.rop ≤ 2)) &&
  (!c.tensor || (!c.ixs && c.len == 0)) &&
  (!c.full || (if o.reads then namesScratch loc else !c.tensor && namesScratch far)) &&
  (o != .mcast || (aux.bits 63 16 == 0 && aux != 0 &&
    (maskList 16 aux.toNat).all fun j => bitOf (r.mcrAt j) 15))

/-! ## Elements of PUTXA and PUTR (R80, R81) -/

/-- The floating layout of an element type. -/
def rtySpec (r : Nat) : Option FSpec :=
  if r = 0 then some sF32 else if r = 1 then some sF16 else if r = 2 then some sBF16 else none

/-- One combining step: 0 ADD, 1 MIN, 2 MAX. -/
def rtyComb (rop rty a b : Nat) : Nat :=
  match rtySpec rty with
  | some f => if rop = 0 then f.add rne a b else f.minmax (rop == 2) a b
  | none =>
    let n := 8 * rtyBytes rty
    if rop = 0 then (a + b) % 2 ^ n
    else
      let le := if rty = 4 then decide (a ≤ b) else decide (signed n a ≤ signed n b)
      if le != (rop == 2) then a else b

/-- Combines two byte strings element by element. -/
def combBytes (rop rty : Nat) (a b : List Byte) : List Byte :=
  let n := rtyBytes rty
  (List.range (a.length / n)).flatMap fun i =>
    leBytes n (rtyComb rop rty (leNat ((a.drop (n * i)).take n)) (leNat ((b.drop (n * i)).take n)))

/-- One level of the pairwise tree over member index (R208, R339). -/
def treeLevel (f : List Byte → List Byte → List Byte) : List (Option (List Byte)) → List (Option (List Byte))
  | some a :: some b :: r => some (f a b) :: treeLevel f r
  | some a :: none :: r => some a :: treeLevel f r
  | none :: b :: r => b :: treeLevel f r
  | [a] => [a]
  | [] => []

/-- The reduced bytes of 64 members. -/
def treeReduce (f : List Byte → List Byte → List Byte) (l : List (Option (List Byte))) : List Byte :=
  (((List.range 6).foldl (fun l _ => treeLevel f l) l).headD none).getD []

/-! ## Pieces (R70, R72) -/

/-- The place `n` bytes further on. -/
def Spot.skip (p : Spot) (n : Nat) : Spot :=
  match p with
  | .global va => .global (va + n)
  | .scratch a => .scratch (a + n)
  | .peer d va => .peer d (va + n)
  | .fill b => .fill (b.drop n)

/-- Cuts `n` bytes from address `a` at multiples of `g`: offset and length of each part. -/
def cuts (g a n : Nat) : List (Nat × Nat) :=
  if n = 0 then []
  else (rangeFrom (a / g) ((a + n - 1) / g + 1 - a / g)).map fun q =>
    let lo := Nat.max a (q * g)
    (lo - a, Nat.min (a + n) (q * g + g) - lo)

/-- The parts of a far range: lines of global memory and of a peer, 64 bytes at a port. -/
def Spot.parts (p : Spot) (n : Nat) : List (Nat × Nat) :=
  match p with
  | .global va => cuts 256 va n
  | .peer _ va => cuts 256 va n
  | .scratch a => cuts 64 a n
  | .fill _ => if n = 0 then [] else [(0, n)]

/-- The pieces between a local range and a far range of `n` bytes. -/
def piecesOf (reads : Bool) (loc : Nat) (far : Spot) (n : Nat) : List Piece :=
  (far.parts n).map fun (o, m) =>
    let here := Spot.scratch (loc + o)
    let there := match far with
      | .fill b => .fill ((b.drop o).take m)
      | f => f.skip o
    { src := if reads then there else here, dst := if reads then here else there, len := m, phase := 0, landed := 0, data := [],
      holes := [] }

/-- The pieces of segments that follow each other in the local range. -/
def piecesFrom (reads : Bool) (loc : Nat) : List (Spot × Nat) → List Piece
  | [] => []
  | (far, n) :: r => piecesOf reads loc far n ++ piecesFrom reads (loc + n) r

/-- The fill pattern of an element (R59). -/
def Tensor.fillBytes (t : Tensor) : List Byte :=
  let n := 2 ^ t.esize
  (leBytes (Nat.min n 8) t.fill ++ leBytes (Nat.min n 8) t.fill).take n

/-- The address of an element, none when it is out of bounds (R72). -/
def Tensor.elem (t : Tensor) (c : List Int) : Option Nat :=
  let addr := ((c.zip t.stride).map fun e => e.1 * e.2).foldl (· + ·) (t.base : Int)
  let inside := (c.zip t.ext).all fun e => decide (0 ≤ e.1) && decide (e.1 < (e.2 : Nat))
  if inside && decide (0 ≤ addr) && decide (addr + ((2 ^ t.esize : Nat) : Int) ≤ ((2 ^ 56 : Nat) : Int)) then some addr.toNat
  else none

/-- Elements as segments: neighbours in memory and neighbours out of bounds are joined. -/
def segments (n : Nat) (fill : List Byte) : List (Option Nat) → List (Spot × Nat)
  | [] => []
  | e :: r =>
    let one : Spot × Nat := match e with
      | some a => (.global a, n)
      | none => (.fill fill, n)
    match one, segments n fill r with
    | (.global a, _), (.global b, m) :: t => if b = a + n then (.global a, n + m) :: t else one :: (.global b, m) :: t
    | (.fill a, _), (.fill b, m) :: t => (.fill (a ++ b), n + m) :: t
    | x, t => x :: t

/-- The elements of a box, dimension 0 fastest (R69). -/
def Tensor.box (t : Tensor) (c : List Int) (n : List Nat) : List (Option Nat) :=
  let at_ := fun i => c.getD i 0
  (List.range (n.getD 3 1)).flatMap fun k3 => (List.range (n.getD 2 1)).flatMap fun k2 =>
    (List.range (n.getD 1 1)).flatMap fun k1 => (List.range (n.getD 0 1)).map fun k0 =>
      t.elem [at_ 0 + (k0 : Nat), at_ 1 + (k1 : Nat), at_ 2 + (k2 : Nat), at_ 3 + (k3 : Nat)]

/-! ## Issue (R68) -/

/-- A transfer with pieces, that has not begun. -/
def Cx.newXfer (cx : Cx) (o : CopyOp) (ch : Nat) (c : Ctl) (loc : Nat) (far : Spot) (pieces : List Piece)
    (nominal len oob : Nat) : Xfer :=
  { op := o.code, core := cx.c, ctx := cx.k.ctx, sup := cx.t.sup, asid := cx.k.asidOf, ptroot := cx.k.rootOf, ch := ch,
    id := Tbl.getD cx.k.regs.cnext ch 0, pieces := pieces, add := if o = .putxa then some c.rty else none, full := c.full,
    deadline := if c.dl then some (256 * c.slk) else none, aux := none, bend := c.bend, decSent := false, decDone := false,
    nominal := nominal, oob := oob, err := none, stop := false, fin := false, base := loc % 2 ^ 18, len := len, loc := loc, far := far,
    group := none, chunks := 0, lost := false }

/-- The index list's entries, read at issue. -/
def Local.indexList (l : Local) (c : Ctl) : List Int :=
  let w := if c.ixw then 8 else 4
  (List.range c.count).map fun i => signed (8 * w) (l.spad.num (c.idx + w * i) w)

/-- Whether an index row lies within the space of FAR's region (R72). -/
def rowInside (far : Spot) (a : Int) (len : Nat) : Bool :=
  match far with
  | .scratch b => decide (0 ≤ a) && decide (a + len ≤ (windowLimit (localParts b).2.1 : Nat))
  | _ => decide (0 ≤ a) && decide (a + len ≤ ((2 ^ 56 : Nat) : Int))

/-- The far place of an index row, or fill bytes when it is out of bounds. -/
def rowSpot (far : Spot) (e : Int) (len : Nat) : Spot × Bool :=
  let base : Nat := match far with
    | .scratch a => (localParts a).2.2
    | .global va => va
    | .peer _ va => va
    | .fill _ => 0
  let a := (base : Int) + e
  if !rowInside far a len then (.fill (List.replicate len 0), true)
  else
    (match far with
     | .scratch b => .scratch (b - base + a.toNat)
     | .global _ => .global a.toNat
     | .peer d _ => .peer d a.toNat
     | .fill b => .fill b, false)

/-- The far side in linear mode (R68 step 4): its place, or the trap. The issuer's own scratchpad is checked by its window
table (R11, R50); another core's, and every receiver's, by its owner (R53, R82). -/
def Cx.farPlace (cx : Cx) (o : CopyOp) (far : W) (len : Nat) : Except (Nat × W) Spot :=
  let mcast := o == .mcast
  match tilePlace cx.c cx.t.sup far with
  | .error code => .error (code, far)
  | .ok (.global va) => if mcast ∨ 2 ^ 56 < va + len then .error (cADDR, far) else .ok (.global va)
  | .ok (.loc core w _) =>
    let off := far.bits 17 0
    if !mcast ∧ far.bits 63 60 = 9 then .error (cADDR, far)
    else if Config.spadSize < off + Nat.max len 1 then .error (cWINDOW, far)
    else
      match if mcast ∨ core ≠ cx.c then none else cx.k.lcl.windowCheck .porter cx.t.sup w off (Nat.max len 1) with
      | some code => .error (code, far)
      | none => if w = 13 ∧ !cx.t.sup then .error (cPRIV, far) else .ok (.scratch (localAddr core w off))
  | .ok (.peer d va) =>
    let known := (cx.k.ctx.bind fun n => Tbl.find? cx.s.contexts n).any fun x => (Tbl.find? x.peers d).isSome
    if mcast ∨ !known ∨ 2 ^ 56 < va + len then .error (cADDR, far) else .ok (.peer d va)
  | .ok (.config _ _ _) => .error (cADDR, far)

/-- The barrier record of a copy (R68 step 5): its address and physical address, a wait, or the trap. -/
def Cx.auxRecord (cx : Cx) (a : W) : Except (Nat × W) (Except State (Option (Nat × Option Nat))) :=
  if a = 0 then .ok (.ok none)
  else if a.toNat % 16 ≠ 0 then .error (cALIGN, a)
  else
    match tilePlace cx.c cx.t.sup a with
    | .error code => .error (code, a)
    | .ok (.global va) =>
      match translate cx.s cx.c (whoOf cx.hi) cx.t.sup true va with
      | .trap code => .error (code, a)
      | .wait s => .ok (.error s)
      | .ok pa => .ok (.ok (some (va, some pa)))
    | .ok (.loc core w _) =>
      let off := a.bits 17 0
      if 12 < w ∨ Config.spadSize < off + 16 ∨ (core = cx.c ∧ !cx.k.lcl.configured w) then .error (cWINDOW, a)
      else .ok (.ok (some (localAddr core w off, none)))
    | .ok _ => .error (cADDR, a)

/-- A box record (R67). -/
structure BoxRec where
  handle : W
  c : List Int
  n : List Nat
  deriving DecidableEq, Repr

/-- The box record at FAR: the record, a wait for the task's own stores, or the trap. DEDUCED (assumption 48): what R11 says
of the address itself comes first, and any breach of R67's own rules, where the record lies among them, is ILLEGAL. -/
def Cx.boxRecord (cx : Cx) (o : CopyOp) (far : W) : Except (Nat × W) (Option BoxRec) :=
  match tilePlace cx.c cx.t.sup far with
  | .error code => .error (code, far)
  | .ok (.loc core w _) =>
    let off := far.bits 17 0
    if core ≠ cx.c ∨ 12 < w then .error (cILLEGAL, far)
    else if !cx.k.lcl.configured w ∨ Config.spadSize ≤ off then .error (cWINDOW, far)
    else if off % 8 ≠ 0 ∨ Config.spadSize < off + 48 then .error (cILLEGAL, far)
    else if cx.mustWait (cx.span far.toNat 48) then .ok none
    else
      match cx.k.lcl.firstPoison off 48 with
      | some p => .error (cPOISON, atOffset far off p)
      | none =>
        let f := fun (a n : Nat) => cx.k.lcl.spad.num (off + a) n
        let n := (List.range 4).map fun i => f (24 + 4 * i) 4
        if f 4 4 ≠ 0 ∨ f 40 8 ≠ 0 ∨ n.contains 0 ∨ (o.indexed ∧ n.drop 1 ≠ [1, 1, 1]) then .error (cILLEGAL, far)
        else .ok (some { handle := w64 (f 0 4), c := (List.range 4).map fun i => signed 32 (f (8 + 4 * i) 4), n := n })
  | .ok _ => .error (cILLEGAL, far)

/-- What a tensor or linear copy moves: the far segments in local order, local bytes, out-of-bounds count, far place,
deadline, and whether it writes a read-only tensor. -/
structure Plan where
  segs : List (Spot × Nat)
  len : Nat
  oob : Nat
  far : Spot
  deadline : Option Nat
  ro : Bool
  deriving DecidableEq, Repr

/-- The smaller of two slacks. -/
def minSlack (a b : Option Nat) : Option Nat :=
  match a, b with
  | some x, some y => some (Nat.min x y)
  | some x, none => some x
  | none, y => y

/-- Outcomes of planning. -/
inductive PlanRes where
  | ok (p : Plan) (s : State)
  | wait (s : State)
  | trap (code : Nat) (v : W)
  deriving DecidableEq, Repr

/-- Step 2 of R68: the box record, its handle, and the elements; index entries are put in by `entries`. DESIGN CHOICE
(assumption 81): a PUTXA whose RTY is not of the descriptor's ESIZE adds by RTY's elements over the bytes (R80). -/
def Cx.planTensor (cx : Cx) (o : CopyOp) (c : Ctl) (far : W) (entries : List Int) : PlanRes :=
  match cx.boxRecord o far with
  | .error (code, v) => .trap code v
  | .ok none => .wait cx.s
  | .ok (some b) =>
    match cx.s.descriptor cx.c cx.k.asidOf cx.k.rootOf cx.k.regs.dtab b.handle 2 with
    | .handle | .kind _ => .trap cHANDLE b.handle
    | .np va => .trap cPAGENP (w64 va)
    | .poison va => .trap cPOISON (w64 va)
    | .wait s => .wait s
    | .ok d s =>
      match tensor? d with
      | none => .trap cHANDLE b.handle
      | some t =>
        let es := 2 ^ t.esize
        let size := b.n.foldl (· * ·) es
        if 0x30000 < size then .trap cILLEGAL far
        else
          let elems := if o.indexed then entries.flatMap fun e => t.box [b.c.getD 0 0, e, b.c.getD 2 0, b.c.getD 3 0] b.n
            else t.box b.c b.n
          .ok { segs := segments es t.fillBytes elems, len := size * (if o.indexed then c.count else 1),
                oob := (elems.filter Option.isNone).length, far := .global t.base,
                deadline := minSlack (if c.dl then some (256 * c.slk) else none) (if t.dl then some t.slack else none),
                ro := t.ro && !o.reads } s

/-- The segments of a linear copy. -/
def planLinear (o : CopyOp) (c : Ctl) (far : Spot) (entries : List Int) : Plan :=
  let rows := entries.map fun e => rowSpot far (if c.ixs then e * c.len else e) c.len
  { segs := if o.indexed then rows.map fun r => (r.1, c.len) else [(far, c.len)],
    len := if o.indexed then c.count * c.len else c.len,
    oob := if o.indexed then (rows.filter (·.2)).length else 0, far := far,
    deadline := if c.dl then some (256 * c.slk) else none, ro := false }

/-- Step 3 of R68: LOC in canonical form, or the trap. -/
def Cx.locPlace (cx : Cx) (loc : W) (n : Nat) : Except (Nat × W) Nat :=
  match tilePlace cx.c cx.t.sup loc with
  | .error code => .error (code, loc)
  | .ok (.loc core w _) =>
    let off := loc.bits 17 0
    if core ≠ cx.c then .error (cADDR, loc)
    else
      match cx.k.lcl.windowCheck .porter cx.t.sup w off (Nat.max n 1) with
      | some code => .error (code, loc)
      | none => .ok (localAddr cx.c w off)
  | .ok _ => .error (cADDR, loc)

/-- Transfers of a channel that have not completed. -/
def State.outstanding (s : State) (c ch : Nat) : Nat := (s.xfers.filter fun x => x.core == c && x.ch == ch && !x.fin).length

/-- Whether the task's earlier stores and atomics are registered or accepted (R68 step 7). -/
def Cx.storesDone (cx : Cx) : Bool :=
  !cx.owesMemory && !cx.k.l1.ungranted &&
  !(cx.k.waybill.any fun e => e.2.state == 1 && e.2.kind % 8 != 2 && e.2.task == taskByte cx.t)

/-! ## Progress (R75) -/

/-- Replaces transfer `x`. -/
def State.setXfer (s : State) (x : Nat) (v : Xfer) : State := { s with xfers := s.xfers.set x v }

/-- Whether every piece is read, with every chunk of a reduction final. -/
def Xfer.allRead (x : Xfer) : Bool :=
  x.pieces.all (fun p => decide (2 ≤ p.phase)) &&
  (x.group.isNone || decide ((x.len + 65535) / 65536 ≤ x.chunks ∧ 1 ≤ x.chunks))

/-- Whether every piece is written. -/
def Xfer.allWritten (x : Xfer) : Bool := x.allRead && x.pieces.all fun p => p.phase == 4

/-- Whether the transfer stops at its error: a failed decrement, and poison of global memory, let its other reads and writes
go on (R42, R43, R75, R77; DEDUCED, assumption 83). -/
def Xfer.broken (x : Xfer) : Bool := x.stop

/-- Whether a part of the transfer is on its way. -/
def Xfer.flying (x : Xfer) : Bool := x.pieces.any fun p => p.phase == 1 || p.phase == 3

/-- Sends the barrier decrement when it is due (R75). -/
def State.settleXfer (s : State) (x : Nat) : State :=
  match s.xfers[x]? with
  | none => s
  | some t =>
    match t.aux with
    | none => s
    | some (addr, pa) =>
      let due := if t.bend then t.allRead && t.pieces.all (·.holes.isEmpty) else t.allWritten && t.err.isNone
      if t.fin || t.decSent || !due then s
      else
        let dst := match pa with
          | some pa => Endpoint.slice (homeOf pa)
          | none => .core (localParts addr).1
        (s.setXfer x { t with decSent := true }).send (.core t.core) dst .request (.barDec x addr pa t.nominal)

/-- SR.TRAPV of XFER (R77). -/
def xferValue (t : Xfer) (cause : Nat) : W := w64 (t.ch * 2 ^ 60 + cause * 2 ^ 56 + t.id)

/-- Advances DONE past completed transfers (R74). -/
def State.advanceDone (s : State) (c ch : Nat) : Nat → State
  | 0 => s
  | n + 1 =>
    let k := s.core c
    let d := Tbl.getD k.regs.cdone ch 0
    let last := s.xfers.reverse.find? fun x => x.core == c && x.ch == ch && x.id == d
    if d ≠ Tbl.getD k.regs.cnext ch 0 ∧ last.any (fun x => x.fin && !x.lost) then
      (s.onCore c fun k => { k with regs := { k.regs with cdone := Tbl.put 0 k.regs.cdone ch ((d + 1) % 2 ^ 48) } }).advanceDone c ch n
    else s

/-- Whether a transfer can complete. -/
def Xfer.ready (t : Xfer) : Bool :=
  !t.fin && !t.flying && (t.broken || t.allWritten) && (!t.decSent || t.decDone) &&
  (t.aux.isNone || t.broken || t.decSent || t.err.isSome)

/-- TRANSFER_COMPLETION (R73–R77). DESIGN CHOICE (assumption 82): a transfer that ends in an error adds its whole count of
out-of-bounds elements. -/
def State.completeXfer (s : State) (x : Nat) : State :=
  match s.xfers[x]? with
  | none => s
  | some t =>
    if !t.ready then s
    else
      let s := s.onCore t.core fun k =>
        { k with regs := { k.regs with oobcnt := w64 (Nat.min (k.regs.oobcnt.toNat + t.oob) (2 ^ 64 - 1)) } }
      let lost := t.err.isSome && decide (Config.pendSize ≤ (s.core t.core).regs.pend.length)
      let s := match t.err with
        | some cause => s.pending t.core cXFER (xferValue t cause)
        | none => s
      (s.setXfer x { t with fin := true, lost := lost }).advanceDone t.core t.ch s.xfers.length

/-- A transfer meets an error, of which the first is kept (R77), and its other reads and writes go on. -/
def State.faultXfer (s : State) (x cause : Nat) : State :=
  match s.xfers[x]? with
  | none => s
  | some t => s.setXfer x { t with err := if t.err.isSome then t.err else some cause }

/-- A transfer meets an error that ends its other reads and writes (R77). -/
def State.failXfer (s : State) (x cause : Nat) : State :=
  match s.xfers[x]? with
  | none => s
  | some t => s.setXfer x { t with err := if t.err.isSome then t.err else some cause, stop := true }

/-! ## Groups (R338–R341) -/

/-- The entry of a group. -/
def State.group (s : State) (g : Nat) : Group := Tbl.getD s.groups g Group.reset
/-- Replaces a group's entry. -/
def State.setGroup (s : State) (g : Nat) (e : Group) : State := { s with groups := Tbl.insert s.groups g e }
/-- Whether a member is on another device. -/
def memberRemote (m : Nat) : Bool := bitOf m 14
/-- The index of a local core among a group's members. -/
def Group.indexOf (g : Group) (c : Nat) : Option Nat := g.members.findIdx? fun m => !memberRemote m && m % 1024 == c
/-- The local members' indices. -/
def Group.locals (g : Group) : List Nat := (List.range g.members.length).filter fun i => !memberRemote (g.members.getD i 0)

/-- A PUTR joins its group's next round, or fails at once (R81, R341). A core that is no member of a valid entry fails
with GROUP (assumption 29). -/
def State.joinRound (s : State) (x g c : Nat) : State :=
  let e := s.group g
  match e.indexOf c with
  | none => s.failXfer x 9
  | some i =>
    if !e.valid then s.failXfer x 9
    else if e.down then s.failXfer x 10
    else
      let n := Tbl.getD e.counts i 0 + 1
      let rounds := if e.rounds.any (·.number == n) then
          e.rounds.map fun r => if r.number = n then { r with joined := r.joined ++ [(i, x)] } else r
        else e.rounds ++ [{ number := n, joined := [(i, x)], far := [], final := [] }]
      s.setGroup g { e with counts := Tbl.put 0 e.counts i n, rounds := rounds }

/-- A round ends without a result: its joined members fail with a cause, and its number is consumed on every member. -/
def State.failRound (s : State) (g : Nat) (r : Round) (cause : Nat) : State :=
  let e := s.group g
  let counts := (List.range e.members.length).foldl (fun t i => Tbl.put 0 t i (Nat.max (Tbl.getD t i 0) r.number)) e.counts
  let s := s.setGroup g { e with counts := counts, rounds := e.rounds.filter (·.number != r.number) }
  r.joined.foldl (fun s m => s.failXfer m.2 cause) s

/-! ## The copy instructions -/

/-- Steps 3 to 8 of R68, for a plan. -/
def Cx.copyGo (cx : Cx) (o : CopyOp) (ch : Nat) (d : Reg) (loc far ctl aux : W) (p : Plan) : Ret :=
  let c := ctlOf ctl
  let es := if o = .putxa ∨ o = .putr then rtyBytes c.rty else 1
  match cx.locPlace loc p.len with
  | .error (code, v) => .trap code v
  | .ok here =>
    let idxEnd := c.idx + c.count * (if c.ixw then 8 else 4)
    if o.indexed ∧ Config.spadSize < idxEnd then .trap cWINDOW (w64 (9 * 2 ^ 60 + c.idx))
    else if loc.toNat % es ≠ 0 then .trap cALIGN loc
    else if !c.tensor ∧ far.toNat % es ≠ 0 then .trap cALIGN far
    else
      match if o = .mcast then .ok (.ok none) else cx.auxRecord aux with
      | .error (code, v) => .trap code v
      | .ok (.error s) => .stay s
      | .ok (.ok rec) =>
        if o = .putxa ∧ cx.t.idem.isSome then .trap cIDEMSCAT (cx.k.instrWord cx.t)
        else if Config.maxTransfers ≤ cx.s.outstanding cx.c ch ∨ !cx.storesDone then .stay cx.s
        else
          let slots := if o = .mcast then maskList 16 aux.toNat else []
          if slots.any fun j => Tbl.getD cx.k.regs.mcs j 0 == 0 then .stay cx.s
          else
            let recv := slots.map fun j => bitsOf (cx.k.regs.mcrAt j) 9 0
            let segs := if o = .mcast then
                recv.map fun n => (match p.far with
                  | .scratch a => let (_, w, off) := localParts a; Spot.scratch (localAddr n w off)
                  | f => f)
              else []
            let pieces :=
              if o = .putr then []
              else if o = .mcast then segs.flatMap fun f => piecesOf false here f p.len
              else piecesFrom o.reads here p.segs
            let x := cx.newXfer o ch c here p.far pieces (p.len * (if o = .mcast then recv.length else 1)) p.len p.oob
            let x := { x with aux := rec, deadline := p.deadline, err := if p.ro then some 8 else none, stop := p.ro }
            let x := if o = .putr then { x with group := some (c.count, 0, c.rop, c.rty), deadline := some (cx.s.group c.count).slack,
                                                chunks := if p.len = 0 then 1 else 0 }
              else x
            let n := cx.s.xfers.length
            let s := if o.indexed || c.tensor then cx.s.ownAccess cx.c else cx.s
            let s := { s with xfers := s.xfers ++ [x] }.onSched cx.c fun k =>
              let r := { k.regs with cnext := Tbl.put 0 k.regs.cnext ch ((x.id + 1) % 2 ^ 48),
                                     mcs := slots.foldl (fun t j => Tbl.put 0 t j (Tbl.getD t j 0 - 1)) k.regs.mcs }
              { k with regs := r }.setX cx.hi d (w64 x.id)
            let s := if o = .putr then s.joinRound n c.count cx.c else s
            let s := s.settleXfer n
            .done (if x.pieces.isEmpty && (o != .putr || p.len == 0) && x.aux.isNone then s.completeXfer n else s)

/-- A copy instruction (R68). DESIGN CHOICE: an index list that holds poison traps POISON after the checks of LOC and FAR,
with the region 0x9 address of the byte (assumption 78); an MCAST whose receiver mask fails R65 or R82 leaves CTL in SR.TRAPV
(assumption 79); the box record and the index list are read in one turn of the port (assumption 88). -/
def copy (o : CopyOp) (f : CopyForm) (s : State) : Out :=
  scalar { Need.fence 2 f.g [f.a, f.a + 1, f.a + 2, f.a + 3] with xd := [f.d], carried := false } (fun cx =>
    let loc := cx.x f.a
    let far := cx.x (f.a + 1)
    let ctl := cx.x (f.a + 2)
    let aux := cx.x (f.a + 3)
    let c := ctlOf ctl
    let ch := f.ch.toNat
    let w := if c.ixw then 8 else 4
    let listIn := decide (c.idx + c.count * w ≤ Config.spadSize)
    if !ctlOk o cx.k.regs ctl loc far aux then .trap cILLEGAL ctl
    else if (o.indexed || c.tensor) && cx.s.portOwes cx.c then .stay cx.s
    else if o.indexed && listIn && cx.mustWait (cx.span (9 * 2 ^ 60 + c.idx) (c.count * w)) then .stay cx.s
    else
      let entries := if o.indexed && listIn then cx.k.lcl.indexList c else []
      let bad := if o.indexed && listIn then cx.k.lcl.firstPoison c.idx (c.count * w) else none
      let go := fun (p : Plan) (s : State) =>
        let cx := { cx with s := s, k := s.core cx.c }
        match bad with
        | some q =>
          (match cx.locPlace loc p.len with
           | .error (code, v) => .trap code v
           | .ok _ => .trap cPOISON (w64 (9 * 2 ^ 60 + q)))
        | none => cx.copyGo o ch f.d loc far ctl aux p
      if c.tensor then
        match cx.planTensor o c far entries with
        | .trap code v => .trap code v
        | .wait s => .stay s
        | .ok p s => go p s
      else
        let n := if o.indexed then c.count * c.len else c.len
        match cx.locPlace loc n with
        | .error (code, v) => .trap code v
        | .ok _ =>
          match cx.farPlace o far c.len with
          | .error (code, v) => .trap code v
          | .ok place => go (planLinear o c place entries) cx.s) s

/-- GET. -/
def execGet (f : CopyForm) (s : State) : Out := copy .get f s
/-- PUT. -/
def execPut (f : CopyForm) (s : State) : Out := copy .put f s
/-- GETX. -/
def execGetx (f : CopyForm) (s : State) : Out := copy .getx f s
/-- PUTX. -/
def execPutx (f : CopyForm) (s : State) : Out := copy .putx f s
/-- PUTXA. -/
def execPutxa (f : CopyForm) (s : State) : Out := copy .putxa f s
/-- PUTR. -/
def execPutr (f : CopyForm) (s : State) : Out := copy .putr f s
/-- MCAST. -/
def execMcast (f : CopyForm) (s : State) : Out := copy .mcast f s

/-- SLOTRET (R83). -/
def execSlotret (f : SlotretForm) (s : State) : Out :=
  scalar { Need.stores 2 f.g [f.a] with carried := false } (fun cx =>
    let a := cx.x f.a
    if a.bits 63 10 ≠ 0 then .trap cILLEGAL (cx.k.instrWord cx.t)
    else .done (cx.s.send (.core cx.c) (.core a.toNat) .request (.slotRet cx.c (f.n.toNat + 1)))) s

/-- SLOT_RETURN (R83). -/
def execSlotReturn (k : Nat) (s : State) : Out :=
  packetStep k (fun p s =>
    match p.dst, p.body with
    | .core c, .slotRet src n =>
      let r := (s.core c).regs
      let mcs := (List.range 16).foldl (fun t j =>
        let e := r.mcrAt j
        if bitOf e 15 ∧ bitsOf e 9 0 = src then Tbl.put 0 t j (Nat.min (Tbl.getD t j 0 + n) (bitsOf e 14 11)) else t) r.mcs
      some (s.onSched c fun k => { k with regs := { k.regs with mcs := mcs } })
    | _, _ => none) s

/-- SBIND (R84). -/
def execSbind (f : SbindForm) (s : State) : Out :=
  scalar { Need.fence 2 f.g [f.a] with noHi := true, carried := false } (fun cx =>
    let a := cx.x f.a
    let ch := f.ch.toNat
    let id := a.bits 47 0
    let age := (Tbl.getD cx.k.regs.cnext ch 0 + 2 ^ 48 - id) % 2 ^ 48
    match cx.s.xfers.reverse.find? fun x => x.core == cx.c && x.ch == ch && x.id == id with
    | none => .trap cILLEGAL a
    | some x =>
      if age = 0 ∨ 32 < age ∨ !(x.op == 0 || x.op == 2) then .trap cILLEGAL a
      else
        let b : Binding := { ch := ch, id := id, base := x.base, len := x.len, pos := 0, reader := 0 }
        .done (cx.s.onCore cx.c fun k => { k with vu := { k.vu with s := Tbl.insert k.vu.s f.n.toNat b } })) s

/-- Whether ID x lies before y (R74). -/
def idBefore (x y : Nat) : Bool :=
  let d := (y + 2 ^ 48 - x) % 2 ^ 48
  decide (1 ≤ d) && decide (d ≤ 2 ^ 47)

/-- CWAIT (R85). -/
def execCwait (f : ChForm) (s : State) : Out :=
  scalar { Need.plain 2 f.g [f.a] with carried := false } (fun cx =>
    let done := Tbl.getD cx.k.regs.cdone f.ch.toNat 0
    let next := Tbl.getD cx.k.regs.cnext f.ch.toNat 0
    if done = next then .done cx.s
    else
      let id := (cx.x f.a).bits 47 0
      let newest := (next + 2 ^ 48 - 1) % 2 ^ 48
      let id := if id = newest ∨ idBefore id newest then id else newest
      if idBefore id done then .done cx.s else .stay cx.s) s

/-! ## Pieces: local ports -/

/-- Replaces piece `i` of transfer `x`, and sends what that makes due. -/
def State.setPiece (s : State) (x i : Nat) (p : Piece) : State :=
  match s.xfers[x]? with
  | none => s
  | some t => (s.setXfer x { t with pieces := t.pieces.set i p }).settleXfer x

/-- Whether, once piece `i` is written up to `hi`, no byte of a destination word is left to write (R86), of a reduction in
chunks that are not final yet too. A word of which a byte stays unwritten for poison does not get its bit (R43). -/
def Xfer.restWritten (t : Xfer) (i word core hi : Nat) : Bool :=
  (List.range t.pieces.length).all (fun j =>
    match t.pieces[j]? with
    | none => true
    | some p =>
      match p.dst with
      | .scratch a =>
        let (pc, _, po) := localParts a
        let left := if j = i then hi else po + (if p.phase = 4 then p.len else p.landed)
        pc != core ||
        ((decide (po + p.len ≤ left) || decide (po + p.len ≤ 8 * word) || decide (8 * word + 8 ≤ left)) &&
         p.holes.all fun h => decide (po + h.1 + h.2 ≤ 8 * word) || decide (8 * word + 8 ≤ po + h.1))
      | _ => true) &&
  (t.group.isNone ||
    match t.far with
    | .scratch a =>
      let off := (localParts a).2.2
      (rangeFrom (8 * word) 8).all fun b => decide (b < off) || decide (off + t.len ≤ b) || t.pieces.any fun p =>
        match p.dst with
        | .scratch q => decide ((localParts q).2.2 ≤ b) && decide (b < (localParts q).2.2 + p.len)
        | _ => false
    | _ => true)

/-- Writes bytes of a transfer at a core's port as one arrival, with their full bits (R86): false at a poisoned word. -/
def State.landBytes (s : State) (t : Xfer) (i c w off : Nat) (bytes : List Byte) : Bool × State :=
  if w ≤ 12 ∧ (s.core c).lcl.mergeFails off bytes.length then (false, s)
  else
    let s := s.portStore c w off bytes
    if t.full ∧ w ≤ 12 then
      let words := (rangeFrom (off / 8) ((off + bytes.length - 1) / 8 + 1 - off / 8)).filter fun q =>
        t.restWritten i q c (off + bytes.length)
      (true, (s.onCore c fun k => { k with lcl := words.foldl (fun l q => l.setFull q true) k.lcl }).serveFull c)
    else (true, s)

/-- The parts of bytes lo … lo+n−1 of a piece that lie outside its holes: offset and length. -/
def Piece.sound (p : Piece) (lo n : Nat) : List (Nat × Nat) :=
  p.holes.foldl (fun l h => l.flatMap fun e =>
    [(e.1, Nat.min (e.1 + e.2) h.1 - e.1), (Nat.max e.1 (h.1 + h.2), e.1 + e.2 - Nat.max e.1 (h.1 + h.2))].filter (·.2 != 0)) [(lo, n)]

/-- The part of a local range, from `a` on, that is one arrival: up to the next multiple of 64 (R152). -/
def portPart (a left : Nat) : Nat := Nat.min left (64 - a % 64)

/-- Reads the next part of a piece's local source. -/
def State.readLocal (s : State) (x i : Nat) (p : Piece) (a : Nat) : State :=
  let (c, w, off) := localParts a
  let have_ := p.data.length
  let n := portPart (off + have_) (p.len - have_)
  match (s.core c).lcl.load w (off + have_) n with
  | none => s.failXfer x 4
  | some bytes =>
    let data := p.data ++ bytes
    s.setPiece x i { p with data := data, phase := if data.length = p.len then 2 else 0 }

/-- Writes the next part of a piece's local destination. -/
def State.landNext (s : State) (x i : Nat) (t : Xfer) (p : Piece) (a : Nat) : State :=
  let (c, w, off) := localParts a
  let n := portPart (off + p.landed) (p.len - p.landed)
  let r := (p.sound p.landed n).foldl (fun (a : Bool × State) e =>
    let b := a.2.landBytes t i c w (off + e.1) ((p.data.drop e.1).take e.2)
    (a.1 && b.1, b.2)) (true, s)
  match r with
  | (false, s) => s.failXfer x 4
  | (true, s) =>
    let m := p.landed + n
    s.setPiece x i { p with landed := m, phase := if m = p.len then 4 else 2 }

/-! ## Pieces: global memory (R71) -/

/-- Where a piece's global address lies, translated through the issuing core in the transfer's space; a peer entry
that names this device translates in the space of its context (R336). -/
inductive PieceAt where
  | ok (pa : Nat) (s : State)
  | wait (s : State)
  | fail (cause : Nat)
  deriving DecidableEq, Repr

/-- Translates a global address of a transfer. -/
def State.pieceAt (s : State) (t : Xfer) (write : Bool) (va : Nat) : PieceAt :=
  match s.engineTranslate t.core t.asid t.ptroot (!t.sup) write va with
  | .ok pa s => .ok pa s
  | .np => .fail 1
  | .prot => .fail 2
  | .wait s => .wait s

/-- Translates a peer address that this device itself serves, in the space of a context that it runs (R336). -/
def State.selfAt (s : State) (ctx : Nat) (write : Bool) (va : Nat) : PieceAt :=
  match (Tbl.find? s.contexts ctx).filter (·.state == .running) with
  | none => .fail 10
  | some k =>
    match walk s ctx k.ptroot va with
    | .reject => .fail 1
    | .wait s => .wait s
    | .leaf e =>
      match leafCheck e false write with
      | some _ => .fail 2
      | none => .ok (e.pa va) s

/-- The parts of granules among the bytes of a piece at `pa`: offset and length. -/
def holesOf (pa n : Nat) (gs : List Nat) : List (Nat × Nat) :=
  gs.map fun g => (Nat.max pa (g * 64) - pa, Nat.min (pa + n) (g * 64 + 64) - Nat.max pa (g * 64))

/-- A Porter has read a line piece (R71). The bytes of poisoned granules are left out, and the transfer meets XFER (R43). -/
def State.finishRead (s : State) (x i : Nat) (p : Piece) (pa : Nat) : State :=
  let s := s.detectAll pa p.len
  let bad := (granulesOf pa p.len).filter s.bad
  let s := if bad.isEmpty then s else s.faultXfer x 4
  s.setPiece x i { p with data := s.bytesNow pa p.len, phase := 2, holes := holesOf pa p.len bad }

/-- A line piece of HBM ends at its Porter: its latency in cycles of the unit is a free value (R363; assumption 3). -/
def State.pieceLatency (s : State) (u mask : Nat) : State :=
  let (v, s) := s.freeW
  s.latency u 0x33 mask v.toNat

/-- The requests of a piece at its controller, one for each granule, with the bytes that go there (R38, R39). -/
def State.askPiece (s : State) (x i : Nat) (t : Xfer) (pa : Nat) (gs : List Nat) (write : List (Nat × Byte)) : State :=
  let u := unitPorter (porterOf pa)
  let mask := s.latencyMask u
  gs.foldl (fun s g => s.ask
    { granule := g, write := write.filter fun e => e.1 / 64 == g, origin := .xfer x i,
      deadline := t.deadline.map (s.tick + ·), arrived := s.tick, promoted := false, mask := mask }) (s.event u 0x33)

/-- Whether a piece carries code into instruction memory: a fetch into the code window (R36). -/
def Piece.fetchesCode (p : Piece) : Bool :=
  match p.dst with
  | .scratch a => (localParts a).2.1 == 13
  | _ => false

/-- A Porter's read of a line piece (R71): from its home slice, or, of an HBM line that is absent there, through the
controller. A fetch of code counts as a miss (R36). -/
def State.porterRead (s : State) (x i : Nat) (t : Xfer) (p : Piece) (pa : Nat) : State :=
  match s.ready [(pa, p.len)] false with
  | .wait s => s
  | .ok =>
    let u := unitPorter (porterOf pa)
    if Config.hbmSize ≤ pa then s.finishRead x i p pa
    else if s.present (lineOf pa) then
      ((s.event u 0x33).pieceLatency u (s.latencyMask u)).finishRead x i p pa
    else
      let s := if p.fetchesCode then { s.countMiss (lineOf pa) with ctls := s.ctls } else s
      (s.setPiece x i { p with phase := 1 }).askPiece x i t pa (granulesOf pa p.len) []

/-- Writes bytes of one granule: true where they cover a bad one only in part, which abandons them (R42, R43). -/
def State.writeGranule (s : State) (g : Nat) (w : List (Nat × Byte)) : Bool × State :=
  if w.length < 64 ∧ s.bad g then (!w.isEmpty, if w.isEmpty then s else s.failGranule g)
  else
    let s := { s with mem := w.foldl (fun m e => m.write e.1 e.2) s.mem }
    (false, if w.length < 64 then s
      else { s with poison := Tbl.put false s.poison g false, latent := Tbl.put false s.latent g false })

/-- The bytes that a line piece writes, with their addresses: those outside its holes, and for PUTXA the sums of elements that
can be read (R43, R80). -/
def State.pieceBytes (s : State) (t : Xfer) (p : Piece) (pa : Nat) : List (Nat × Byte) :=
  let bytes := match t.add with
    | some rty => combBytes 0 rty (s.bytesNow pa p.len) p.data
    | none => p.data
  (p.sound 0 p.len).flatMap fun e =>
    ((rangeFrom (pa + e.1) e.2).zip ((bytes.drop e.1).take e.2)).filter fun b => t.add.isNone || !s.bad (b.1 / 64)

/-- A Porter's write of a line piece: registrations recalled, then the bytes at the home (R71), 64 bytes at a time (R44). A line
that its slice holds, and one of the host tier, is written at once; else the bytes go to the controller (R38). -/
def State.porterWrite (s : State) (x i : Nat) (t : Xfer) (p : Piece) (pa : Nat) : State :=
  match s.ready [(pa, p.len)] true with
  | .wait s => s
  | .ok =>
    let s := s.pullBytes pa p.len
    let badAdd := t.add.isSome && (s.firstBad pa p.len).isSome
    let s := if badAdd then (s.detectAll pa p.len).faultXfer x 4 else s
    let bytes := s.pieceBytes t p pa
    let gs := (granulesOf pa p.len).filter fun g => bytes.any fun e => e.1 / 64 == g
    let s := gs.foldl (fun s g => s.markWritten g none) s
    if pa < Config.hbmSize ∧ !s.present (lineOf pa) ∧ !gs.isEmpty then
      (s.setPiece x i { p with phase := 3 }).askPiece x i t pa gs bytes
    else
      let u := unitPorter (porterOf pa)
      let s := if pa < Config.hbmSize then (s.event u 0x33).pieceLatency u (s.latencyMask u) else s
      let r := gs.foldl (fun (a : Bool × State) g =>
        let b := a.2.writeGranule g (bytes.filter fun e => e.1 / 64 == g)
        (a.1 || b.1, b.2)) (false, s)
      (if r.1 then r.2.faultXfer x 4 else r.2).setPiece x i { p with phase := 4 }

/-- Whether an earlier piece of a PUTXA that meets the same destination is still to be added (R80). -/
def Xfer.addBlocked (t : Xfer) (i : Nat) (p : Piece) : Bool :=
  t.add.isSome && (t.pieces.take i).any fun q =>
    q.phase != 4 &&
    match q.dst, p.dst with
    | .global a, .global b => decide (a < b + p.len) && decide (b < a + q.len)
    | .scratch a, .scratch b => decide (a < b + p.len) && decide (b < a + q.len)
    | .peer d a, .peer e b => d == e && decide (a < b + p.len) && decide (b < a + q.len)
    | _, _ => false

/-- Whether an added piece belongs to a row that is misaligned for its element type (R80): LOC is aligned, so an element begins
at the same multiple in both places only in an aligned row. -/
def Xfer.addMisaligned (t : Xfer) (p : Piece) : Bool :=
  match t.add, p.src, p.dst with
  | some rty, .scratch l, .global a | some rty, .scratch l, .scratch a | some rty, .scratch l, .peer _ a =>
    a % rtyBytes rty != l % rtyBytes rty
  | _, _, _ => false

/-- The requester that a transfer's packets name. -/
def Xfer.req (t : Xfer) : Requester := { core := t.core, hi := false, ctx := t.ctx, sup := t.sup }

/-- Whether a spot is the issuing core's local range, and not a far port. -/
def Xfer.isLocal (t : Xfer) (reading : Bool) : Bool := (t.op == 0 || t.op == 2) != reading

/-- The peer table entry of a transfer's context. -/
def State.peerOf (s : State) (t : Xfer) (dev : Nat) : Option (Nat × Nat) :=
  (t.ctx.bind fun n => Tbl.find? s.contexts n).bind fun k => Tbl.find? k.peers dev

/-- The launch window range of a peer (R337): a PUT of 32 aligned bytes, else WINDOW. -/
def inPeerWindows (va : Nat) : Bool := bitsOf va 55 48 == 255

/-- A launch window. -/
def State.window (s : State) (n : Nat) : Window := Tbl.getD s.windows n Window.reset

/-- A write of GO to a launch window whose arguments stand (R332): the launch is queued, or dropped with code 6 when eight
wait. `before`: the number of the first host write that it does not wait for (R333). -/
def State.windowGo (s : State) (n : Nat) (go : W) (before : Nat) : State :=
  let w := s.window n
  let w := if w.queue.length < Config.windowQueue then
      { w with queue := w.queue ++ [{ arg0 := w.arg0, arg1 := w.arg1, go := go, before := before }] }
    else { w with result := 6 }
  { s with windows := Tbl.insert s.windows n w }

/-- A write of ARG0, ARG1 and GO to a launch window (R332, R337). -/
def State.windowWrite (s : State) (n : Nat) (arg0 arg1 go : W) (before : Nat) : State :=
  ({ s with windows := Tbl.insert s.windows n { s.window n with arg0 := arg0, arg1 := arg1 } }).windowGo n go before

/-- One step of reading a piece. `data` is what a peer returned: its bytes, or one byte more, the first of which is
the XFER cause. -/
def State.pieceRead (s : State) (x i : Nat) (t : Xfer) (p : Piece) (data : List Byte) : State :=
  match p.src with
  | .fill b => s.setPiece x i { p with data := b, phase := 2 }
  | .scratch a =>
    if t.isLocal true then s.readLocal x i p a
    else (s.setPiece x i { p with phase := 1 }).send (.core t.core) (.core (localParts a).1) .request
      (.piece x i t.req a none false none)
  | .global va =>
    match s.pieceAt t false va with
    | .fail c => s.failXfer x c
    | .wait s => s
    | .ok pa s => s.porterRead x i t p pa
  | .peer dev va =>
    match s.peerOf t dev with
    | none => s.failXfer x 10
    | some (fid, ctx) =>
      if inPeerWindows va then s.failXfer x 3
      else if fid = Config.fabricId then
        match s.selfAt ctx false va with
        | .fail c => s.failXfer x c
        | .wait s => s
        | .ok pa s => s.porterRead x i t p pa
      else if data.length = p.len then s.setPiece x i { p with data := data, phase := 2 }
      else if data.length = p.len + 1 then s.failXfer x ((data.headD 0).toNat)
      else s

/-- One step of writing a piece. `data` is what a peer answered: nothing, or one byte, the XFER cause. -/
def State.pieceWrite (s : State) (x i : Nat) (t : Xfer) (p : Piece) (data : List Byte) : State :=
  if t.addBlocked i p then s
  else if t.addMisaligned p then s.failXfer x 7
  else
    match p.dst with
    | .fill _ => s.setPiece x i { p with phase := 4 }
    | .scratch a =>
      if t.isLocal false then s.landNext x i t p a
      else (s.setPiece x i { p with phase := 3 }).send (.core t.core) (.core (localParts a).1) .bulk
        (.piece x i t.req a (some p.data) t.full t.add)
    | .global va =>
      match s.pieceAt t true va with
      | .fail c => s.failXfer x c
      | .wait s => s
      | .ok pa s => s.porterWrite x i t p pa
    | .peer dev va =>
      match s.peerOf t dev with
      | none => s.failXfer x 10
      | some (fid, ctx) =>
        if inPeerWindows va ∧ !(t.op == 1 ∧ t.len == 32 ∧ p.len == 32 ∧ va % 32 == 0) then s.failXfer x 3
        else if fid = Config.fabricId then
          if inPeerWindows va then
            let word := fun (j : Nat) => w64 (leNat ((p.data.drop (8 * j)).take 8))
            (s.windowWrite (va % 2 ^ 48 / 32) (word 0) (word 1) (word 2) 0).setPiece x i { p with phase := 4 }
          else
            match s.selfAt ctx true va with
            | .fail c => s.failXfer x c
            | .wait s => s
            | .ok pa s => s.porterWrite x i t p pa
        else if data.isEmpty then s.setPiece x i { p with phase := 4 }
        else s.failXfer x ((data.headD 0).toNat)

/-- TRANSFER_PIECE (R70, R71, R75–R77). -/
def execTransferPiece (x piece : Nat) (data : List Byte) (s : State) : Out :=
  match s.xfers[x]? with
  | none => .next s
  | some t =>
    match t.pieces[piece]? with
    | none => .next s
    | some p =>
      if t.fin || t.broken then .next s
      else if p.phase = 0 then .next (s.pieceRead x piece t p data)
      else if p.phase = 2 then .next (s.pieceWrite x piece t p data)
      else .next s

/-- TRANSFER_COMPLETION. -/
def execTransferCompletion (x : Nat) (s : State) : Out := .next (s.completeXfer x)

/-- The XFER cause of a check that failed at an owner (R53, R77). -/
def pieceCause (code : Nat) : Nat := if code = cCONTEXT then 12 else if code = cPRIV then 6 else 3

/-- OWNER_PORT_PIECE (R53, R86, R151, R156): a piece at a far core's port. -/
def execOwnerPortPiece (k : Nat) (s : State) : Out :=
  packetStep k (fun q s =>
    match q.dst, q.body with
    | .core c, .piece x i r addr write _ add =>
      match s.xfers[x]?, (s.xfers[x]?).bind fun t => t.pieces[i]? with
      | some t, some p =>
        let o := s.core c
        let (_, w, off) := localParts addr
        let back := fun (s : State) (cause : Nat) => (s.setPiece x i { p with phase := 0 }).failXfer x cause
        match o.arrivalCheck r .porter addr p.len with
        | some code => some (back s (pieceCause code))
        | none =>
          match write with
          | none =>
            (match o.lcl.load w off p.len with
             | none => some (back s 4)
             | some bytes => some (s.setPiece x i { p with data := bytes, phase := 2 }))
          | some bytes =>
            if t.stop then some (s.setPiece x i { p with phase := 0 })
            else if o.fullRefused c r addr p.len && add.isNone then some (back s 3)
            else
              match (match add with
                | none => some bytes
                | some rty => (o.lcl.load w off p.len).map fun old => combBytes 0 rty old bytes) with
              | none => some (back s 4)
              | some bytes =>
                match s.landBytes t i c w off bytes with
                | (false, s) => some (back s 4)
                | (true, s) => some (s.setPiece x i { p with phase := 4, landed := p.len })
      | _, _ => some s
    | _, _ => none) s

/-- BARRIER_DECREMENT (R75, R292): a transfer's bytes leave AWAIT; a failure ends the transfer with BARRIER. -/
def execBarrierDecrement (k : Nat) (s : State) : Out :=
  waitingStep k (fun p s =>
    match p.body with
    | .barDec x addr pa bytes =>
      match s.xfers[x]? with
      | none => .did s
      | some t =>
        let ended := fun (s : State) (bad : Bool) =>
          let s := s.setXfer x { t with decDone := true }
          Take.did (if bad then s.faultXfer x 11 else s)
        if (s.recordRefused p.dst t.req addr).isSome then ended s true
        else
          let mapped := match pa with
            | none => PieceAt.ok 0 s
            | some _ => s.pieceAt t true addr
          match mapped with
          | .fail _ => ended s true
          | .wait s => .wait s
          | .ok _ s =>
            match s.readRecord (recordAt p.dst.coreNo addr pa) true with
            | (none, s) => .wait s
            | (some none, s) => ended s true
            | (some (some v), s) =>
              if recordBad (v % 2 ^ 64) then ended s true
              else ended (s.updateRecord (recordAt p.dst.coreNo addr pa) fun w0 w1 => recordDec w0 w1 bytes).2 false
    | _ => .no) s

/-! ## HBM controllers (R38–R42) -/

/-- The index of the request that the rules let the controller serve when request `i` is asked for (R38, R40): a normal
request in the controller's own order while no deadline request is pending for its bank, else the earliest deadline; the
accesses to one granule go in order of arrival. -/
def ctlChoice (q : List CtlReq) (i : Nat) : Option Nat :=
  let best := fun (d : Nat) (r : List Nat) => q.find? fun x => x.deadline == some (r.foldl Nat.min d)
  let pick := (q[i]?).bind fun x =>
    match q.filterMap (·.deadline) with
    | [] => some x
    | d :: r =>
      let held := x.deadline.isSome || q.any fun y => y.deadline.isSome && Config.bankOf y.granule == Config.bankOf x.granule
      if held then best d r else some x
  pick.bind fun x => q.findIdx? fun y => y.granule == x.granule

/-- The last request of a piece has been served: its data is read, or it is written (R71). -/
def State.pieceServed (s : State) (x i line : Nat) : State :=
  match (s.xfers[x]?).bind fun t => t.pieces[i]? with
  | none => s
  | some p =>
    if p.phase = 1 then
      match p.src with
      | .global va | .peer _ va => s.finishRead x i p (line * 256 + va % 256)
      | _ => s
    else s.setPiece x i { p with phase := 4 }

/-- A request is served: a read finds out whether its granule is sound, a partial write of a bad granule is abandoned (R42,
R43), any other reaches memory. Requests that waited at the home for the line's controller go on. -/
def State.serveCtl (s : State) (ctl j : Nat) (r : CtlReq) : State :=
  let s := { s with ctls := Tbl.put [] s.ctls ctl ((s.ctl ctl).eraseIdx j) }
  let line := r.granule / 4
  let u := unitPorter (ctl / 4)
  let s := if r.deadline.any (· < s.tick) then s.event u 0x30 else s
  let (lost, s) := if r.write.isEmpty then (false, s.detect r.granule) else s.writeGranule r.granule r.write
  let s := match r.origin with
    | .fetch _ => s
    | .save _ bad => if bad then { s with poison := Tbl.put false s.poison r.granule true } else s
    | .xfer x i =>
      let s := if lost then s.faultXfer x 4 else s
      if (s.ctl ctl).any fun y => y.origin == r.origin then s else (s.pieceLatency u r.mask).pieceServed x i line
  if s.ctlBusy line then s else s.retryHome (homeOfLine line)

/-- CONTROLLER_SELECT (R38–R42). -/
def execControllerSelect (ctl i : Nat) (s : State) : Out :=
  let q := s.ctl ctl
  match ctlChoice q i with
  | none => .next s
  | some j =>
    match q[j]? with
    | none => .next s
    | some r => .next (s.serveCtl ctl j r)

/-- REQUEST_PROMOTION (R38). -/
def execRequestPromotion (ctl i : Nat) (s : State) : Out :=
  match (s.ctl ctl)[i]? with
  | none => .next s
  | some r =>
    if r.deadline.isSome || r.promoted || decide (s.tick < r.arrived + Config.promoteAfter) then .next s
    else
      let q := (s.ctl ctl).set i { r with deadline := some r.arrived, promoted := true }
      .next ({ s with ctls := Tbl.insert s.ctls ctl q }.event (unitPorter (ctl / 4)) 0x31)

/-- PATROL_SCRUB (R42): an uncorrectable granule is poisoned and reported. -/
def execPatrolScrub (granule : Nat) (s : State) : Out := .next (s.detect granule)

/-! ## Reduction rounds (R339–R341) and ports (R336, R340) -/

/-- The local members of a round, with their transfers, once every one has joined. -/
def State.roundReady (s : State) (e : Group) (r : Round) : Option (List (Nat × Nat × Xfer)) :=
  let ms := e.locals.map fun i => (Tbl.find? r.joined i).bind fun x => (s.xfers[x]?).map fun t => (i, x, t)
  if ms.all Option.isSome then some (ms.filterMap id) else none

/-- A member's source bytes of a chunk, none where they are poisoned. -/
def State.chunkOf (s : State) (t : Xfer) (lo n : Nat) : Option (List Byte) :=
  let (c, w, off) := localParts t.loc
  (s.core c).lcl.load w (off + lo) n

/-- LEN, ROP and RTY of a PUTR. -/
def Xfer.shape (t : Xfer) : Nat × Nat × Nat := (t.len, (t.group.map fun g => g.2.2).getD (0, 0))

/-- The remote members of a group. -/
def Group.remotes (e : Group) : List Nat := (List.range e.members.length).filter fun i => memberRemote (e.members.getD i 0)

/-- A member of another device issues its next PUTR on a group: it joins the oldest round that it has not joined (R341). -/
def State.remoteJoin (s : State) (g i len rop rty : Nat) : State :=
  let e := s.group g
  if !e.valid || e.down || !e.remotes.contains i then s
  else
    let n := Tbl.getD e.counts i 0 + 1
    let mine := (i, len, rop, rty)
    let rounds := if e.rounds.any (·.number == n) then
        e.rounds.map fun r => if r.number = n then { r with far := r.far ++ [mine] } else r
      else e.rounds ++ [{ number := n, joined := [], far := [mine], final := [] }]
    s.setGroup g { e with counts := Tbl.put 0 e.counts i n, rounds := rounds }

/-- The bytes of a final chunk become pieces to a member's FAR. -/
def State.chunkTo (s : State) (x lo n : Nat) (bytes : List Byte) : State :=
  match s.xfers[x]? with
  | none => s
  | some t =>
    let new := (piecesOf false 0 (t.far.skip lo) n).map fun p =>
      let at_ := match p.src with | .scratch a => a | _ => 0
      let b := (bytes.drop at_).take p.len
      { p with src := .fill b, data := b, phase := 2 }
    (s.setXfer x { t with pieces := t.pieces ++ new, chunks := t.chunks + 1 }).settleXfer x

/-- ROUND_CHUNK_FINAL (R81, R339): a chunk of the group's oldest round is final, once every member has joined it; its pieces
go to each local member's FAR. `remote` gives the remote members' bytes. Members that disagree end the round with GROUP.
DESIGN CHOICE (assumption 80): poison in one member's source ends the round with POISON for every member. -/
def execRoundChunkFinal (group chunk : Nat) (remote : List (Nat × List Byte)) (s : State) : Out :=
  let e := s.group group
  match e.rounds with
  | [] => .next s
  | r :: _ =>
    match s.roundReady e r with
    | none => .next s
    | some ms =>
      match ms.map (fun m => m.2.2.shape) ++ r.far.map (·.2) with
      | [] => .next s
      | shape :: rest =>
        let (len, rop, rty) := shape
        let chunks := Nat.max 1 ((len + 65535) / 65536)
        let lo := chunk * 65536
        let n := Nat.min 65536 (len - lo)
        let given := e.remotes.all fun i => ((Tbl.find? remote i).map List.length) == some n
        if !(e.remotes.all fun i => r.far.any (·.1 == i)) then .next s
        else if !(rest.all (· == shape)) then .next (s.failRound group r 9)
        else if chunks ≤ chunk ∨ r.final.contains chunk ∨ !given then .next s
        else
          match ms.find? fun m => (s.chunkOf m.2.2 lo n).isNone with
          | some _ => .next (s.failRound group r 4)
          | none =>
            let leaf := fun (i : Nat) =>
              match ms.find? fun m => m.1 == i with
              | some m => s.chunkOf m.2.2 lo n
              | none => Tbl.find? remote i
            let bytes := treeReduce (combBytes rop rty) ((List.range 64).map leaf)
            let final := r.final ++ [chunk]
            let ended := decide (chunks ≤ final.length)
            let rounds := if ended then e.rounds.drop 1 else { r with final := final } :: e.rounds.drop 1
            let s := s.setGroup group { e with rounds := rounds }
            .next (ms.foldl (fun s m => s.chunkTo m.2.1 lo n bytes) s)

/-- Whether a transfer still needs a peer that `lost` selects. -/
def Xfer.needsPeer (t : Xfer) (lost : Nat → Bool) : Bool :=
  !t.fin && t.pieces.any fun p => p.phase != 4 &&
    match p.src, p.dst with
    | .peer d _, _ => lost d
    | _, .peer d _ => lost d
    | _, _ => false

/-- The peer devices of a transfer. -/
def Xfer.peers (t : Xfer) : List Nat :=
  (t.pieces.flatMap fun p =>
    match p.src, p.dst with
    | .peer d _, _ => [d]
    | _, .peer d _ => [d]
    | _, _ => []).eraseDups

/-- The device numbers through which an unfinished transfer may use a peer port: of its peer pieces, and of the remote
members of its reduction. -/
def State.portDevices (s : State) (t : Xfer) : List Nat :=
  if t.fin then []
  else
    let far := fun (d : Nat) => (s.peerOf t d).any fun e => e.1 != Config.fabricId
    let members := match t.group with
      | none => []
      | some g => ((s.group g.1).members.filter memberRemote).map fun m => bitsOf m 13 10
    (t.peers.filter fun d => far d && t.needsPeer (· == d)) ++ members

/-- PEER_PORT_FAILURE (R336, R340, R309): port `port` goes down. `reach` lists the fabric IDs that some path still
reaches; pieces to them are sent again, which changes nothing, and transfers to others end with LINK. Each core with a
transfer outstanding on the port gets one LINKDOWN; which of the transfers that go on used it is free (assumption 89). -/
def execPeerPortFailure (port : Nat) (reach : List Nat) (s : State) : Out :=
  if Tbl.getD s.downPorts port false then .next s
  else
    let s := { s with downPorts := Tbl.put false s.downPorts port true, log := s.log ++ [LogEntry.port port false] }
    let cut := fun (t : Xfer) (d : Nat) => (s.peerOf t d).any fun e => e.1 != Config.fabricId && !reach.contains e.1
    let xs := s.xfers.zipIdx
    let hit := (xs.filter fun e => e.1.needsPeer (cut e.1)).map (·.2)
    let used := xs.filterMap fun e =>
      match (s.portDevices e.1).filter (cut e.1) ++ (s.portDevices e.1) with
      | [] => none
      | d :: _ => if hit.contains e.2 || Config.freeBit (s.fresh + e.2) then some (e.1.core, d) else none
    let told := used.foldl (fun l e => if l.any fun q => q.1 == e.1 then l else l ++ [e]) ([] : List (Nat × Nat))
    let s := hit.foldl (fun s x => s.failXfer x 10) { s with fresh := s.fresh + s.xfers.length }
    .next (told.foldl (fun s e => s.pending e.1 cLINKDOWN (w64 (port % 16 * 256 + e.2))) s)

/-- MEMBER_UNREACHABLE (R340, R341): the group's rounds in progress fail with LINK and the entry is DOWN. -/
def execMemberUnreachable (group : Nat) (s : State) : Out :=
  let e := s.group group
  if !e.valid || !(e.members.any memberRemote) || e.rounds.isEmpty then .next s
  else
    let s := e.rounds.foldl (fun s r => s.failRound group r 10) s
    .next (s.setGroup group { s.group group with down := true })

end Sys2Proof.Machine
end

