-- ==== Sys2Proof/Machine/Events.lean ====
section
/-! DEFINITION. Delivery of traps and service calls, the watchdog, machine checks, and the quiesce and abort of a
pre-empted core (R305, R309–R316). -/

namespace Sys2Proof.Machine

/-! ## Boundaries of the scalar stream -/

/-- Whether a core executes instructions at all: it runs a context, and has not been stopped. -/
def Core.alive (k : Core) : Bool := k.ctx.isSome && !k.stopped

/-- The oldest pending trap is removed from the list. -/
def Core.popPending (k : Core) : Core := { k with regs := { k.regs with pend := k.regs.pend.drop 1 } }

/-- PENDING_TRAP_DELIVERY (R309): at a boundary of the task that holds the core, outside a handler and outside a
quiesce (R315). -/
def execPendingTrapDelivery (c : Nat) (s : State) : Out :=
  let k := s.core c
  match k.task?, k.regs.pend with
  | some t, p :: _ =>
    if k.alive && !k.quiesces && !k.regs.inTrap && t.atBoundary then
      .next (takeTrap (s.setCore c k.popPending) c k.inHi t p.code p.v (trapPc t t.pc) false false)
    else .next s
  | _, _ => .next s

/-- Whether a core that holds no task may run the runtime: for a pending trap or a service call. -/
def Core.idle (k : Core) : Bool :=
  k.alive && !k.quiesces && !k.regs.inTrap && k.lo.isNone && k.hi.isNone && k.abortRec.isNone

/-- TASKLESS_TRAP_DELIVERY (R310): in a fresh LO bank set to zero. -/
def execTasklessTrapDelivery (c : Nat) (s : State) : Out :=
  let k := s.core c
  match k.regs.pend with
  | p :: _ =>
    if k.idle then
      let t := Task.enter false 0 0 []
      .next (takeTrap (s.setCore c (k.popPending.enterLo t)) c false t p.code p.v 0 true false)
    else .next s
  | [] => .next s

/-- SERVICE_CALL (R311): taken after every pending trap and before any selection. -/
def execServiceCall (c : Nat) (s : State) : Out :=
  let k := s.core c
  match k.calls with
  | (_, a0, a1) :: r =>
    if k.idle && k.regs.pend.isEmpty then
      let t := { Task.enter false 0 0 (regTable [(10, a0), (11, a1)]) with service := true }
      .next (takeTrap (s.setCore c ({ k with calls := r }.enterLo t)) c false t 0 0 0 true false)
    else .next s
  | [] => .next s

/-- The trap that a stalled instruction's answer brought, exact at it, or a completion trap (R307, R370). -/
def State.takeFail (s : State) (c : Nat) (hi : Bool) (t : Task) (f : Trap) : State :=
  takeTrap (s.onCore c fun k => k.onTask hi fun u => { u with fail := none, skip := false }) c hi
    { t with fail := none, skip := false } f.code f.v (trapPc t t.pc) false t.skip

/-- A fault of the vector/matrix stream is taken at the LO task's boundary (R312). -/
def State.takeVector (s : State) (c : Nat) (t : Task) (f : VFault) : State :=
  (takeTrap s c false { t with fail := none } f.trap.code f.trap.v (trapPc t f.pc) false false).onCore c fun k =>
    { k with vu := { k.vu with fault := none },
             regs := { k.regs with repst := f.repst ||| w64 (t.pc % 2 ^ 15) } }

/-! ## Waits that the watchdog or an abort ends (R314) -/

/-- What a vector/matrix instruction may wait for. -/
inductive PortWait where
  | pop (n : Nat)
  | push (n : Nat)
  | clrot
  | clwait

/-- The port, or the latch, that an instruction of the vector/matrix stream may wait for, with its guard, which is per
lane but for the latch instructions. -/
def portWait (i : Instr) : Option (Guard × PortWait) :=
  let at_ := fun (p : Bool) (g : Guard) (r : Reg) => if p then some (g, PortWait.pop r.toNat) else none
  match i with
  | .vadd f | .vsub f | .vmul f | .vfma f | .vfms f | .vfnma f | .vdiv f | .vmin f | .vmax f => at_ f.p f.g f.b
  | .vand f | .vor f | .vxor f | .vperm f | .vdot4I8 f | .vdot4N8 f => at_ f.p f.g f.b
  | .vshl f | .vshr f | .vsar f => at_ f.p f.g f.b
  | .vcmp f => at_ f.p f.g f.b
  | .vsel f => at_ f.p f.g f.b
  | .vmov f | .vbcast f => at_ f.p f.g f.a
  | .vabs f | .vneg f | .vsqrt f | .vrcp f | .vrsq f | .vexp2 f | .vlog2 f => at_ f.p f.g f.a
  | .vcomp f => at_ f.p f.g f.a
  | .vred f => at_ f.p f.g f.a
  | .vscan f => at_ f.p f.g f.a
  | .vmovQ f => some (f.g, .push (4 + f.q.toNat))
  | .clrot f => some (f.g, .clrot)
  | .clwait f => some (f.g, .clwait)
  | _ => none

/-- The head of a core's vector/matrix stream, if it is stalled in a wait of R314. -/
def State.blockedHead (s : State) (c : Nat) : Option VEntry :=
  let k := s.core c
  if k.vu.stopped || k.vu.wait then none
  else
    match k.vu.viq with
    | [] => none
    | e :: _ =>
      match e.item? with
      | none => none
      | some it =>
        match portWait (e.current it) with
        | none => none
        | some (g, w) =>
          let vx := vxAt s c e it
          let (lanes, blocked) := match w with
            | .pop n => (true, if n < 8 then (k.vu.queue n).isEmpty else
                match streamRead s c k (n - 8) 256 2 with
                | .wait _ => true
                | _ => false)
            | .push n => (true, decide (Config.queueSize ≤ (k.vu.queue n).length))
            | .clrot => (false, k.vu.cur.isSome && !k.regs.cr)
            | .clwait => (false, k.vu.inc.isNone)
          if blocked && !vx.off lanes g then some e else none

/-- Where a parked LDF, LDFE, BARW or TSWAP of a requester is, in the mesh or where it waits. -/
def State.waiterAt (s : State) (r : Requester) : Option Endpoint :=
  let mine := fun (q : Requester) => q.core == r.core && q.hi == r.hi
  let flying := (s.net ++ s.held).findSome? fun p =>
    match p.body with
    | .fullOp q _ _ _ => if mine q then some p.dst else none
    | .barPark q _ _ _ => if mine q then some p.dst else none
    | _ => none
  let parked := s.cores.findSome? fun (i, k) =>
    if k.lcl.fullWait.any (fun w => mine w.r) || k.lcl.barWait.any (fun w => mine w.r) then some (Endpoint.core i) else none
  let home := (s.homeBar.find? fun w => mine w.r).map fun w => Endpoint.slice (homeOf w.key)
  match flying with
  | some e => some e
  | none => match parked with
    | some e => some e
    | none => home

/-- Sends a cancel on the waiter's ordered lane, once (R314). -/
def State.sendCancel (s : State) (r : Requester) (dst : Option Endpoint) : State :=
  match dst with
  | none => s
  | some d => if (s.net ++ s.held).any fun p => p.body == .cancel r then s else s.send (.core r.core) d .request (.cancel r)

/-- Whether a BARV still waits for the release of its record's scope, before its update goes (R303 step 3). -/
def Wait.releasing (w : Wait) : Bool :=
  match w with
  | .barv _ st => decide (2 ≤ st) && decide (st < 6)
  | _ => false

/-- Resolves a task's wait for the watchdog or an abort: with true, the task is then at a boundary, its stalled
instruction abandoned without effect. An answer that failed counts for nothing then, unless it ends a completion trap
(R370); a BARV that waits for its release goes on by itself, unless the vector/matrix stream that owes the release waits;
a store that is half done goes on. -/
def State.resolveWait (s : State) (c : Nat) (hi : Bool) (t : Task) : Bool × State :=
  let r : Requester := { core := c, hi := hi, ctx := (s.core c).ctx, sup := t.sup }
  let free := s.onCore c fun k => k.onTask hi fun t => { t with wait := .none, fail := none, stalled := false }
  match t.wait with
  | .none => if t.skip || t.bytewise.isSome then (false, s) else (true, free)
  | .barv _ st => if 2 ≤ st ∧ st < 6 ∧ !hi ∧ (s.blockedHead c).isSome then (true, free) else (false, s)
  | .cycles _ => (true, free)
  | .parts _ _ _ _ flying _ => if flying then (false, s) else (true, free)
  | .value _ _ _ _ true => (false, s.sendCancel r (s.waiterAt r))
  | .barw _ => (false, s.sendCancel r (s.waiterAt r))
  | .tswap _ => (false, s.sendCancel r (some (.core (mirrorOf c))))
  | _ => (false, s)

/-- WATCHDOG_EXPIRY (R313, R314): WDOG at the next boundary of the task that holds the core. -/
def execWatchdogExpiry (c : Nat) (s : State) : Out :=
  let k := s.core c
  match k.task? with
  | none => .next s
  | some t =>
    if !k.alive || !k.overBudget t then .next s
    else
      match s.resolveWait c k.inHi t with
      | (false, s) => .next s
      | (true, s) =>
        let t := ((s.core c).bankTask k.inHi).getD t
        let trap := takeTrap s c k.inHi t cWDOG (w64 k.regs.budget) (trapPc t t.pc) false false
        match if k.inHi then none else s.blockedHead c with
        | none => .next trap
        | some e =>
          .next (trap.onCore c fun k =>
            { k with vu := { k.vu with stopped := true }, regs := { k.regs with repst := e.repst ||| w64 (t.pc % 2 ^ 15) } })

/-! ## Machine checks (R305, R335, R369) -/

/-- The cores that run a context. -/
def State.coresOf (s : State) (ctx : Nat) : List Nat := (s.cores.filter fun e => e.2.ctx == some ctx).map (·.1)

/-- A context of the module. -/
def State.context? (s : State) (ctx : Nat) : Option Context := Tbl.find? s.contexts ctx
/-- Replaces a context. -/
def State.setContext (s : State) (ctx : Nat) (x : Context) : State := { s with contexts := Tbl.insert s.contexts ctx x }

/-- Ebpex marks a context failed: its commands end with FAULT, and its other cores are told to stop (R305). -/
def State.failContext (s : State) (die ctx : Nat) : State :=
  match s.context? ctx with
  | none => s
  | some x =>
    let cores := s.coresOf ctx
    let s := s.setContext ctx { x with state := .failed, preempt := none, moving := false }
    let s := { s with log := s.log ++ [LogEntry.ctxFailed ctx] }
    let s := match x.preempt with
      | some (h, _) => s.complete h 4 []
      | none => s
    let calls := s.runtimeCalls.filter fun e => cores.contains e.2
    let s := { s with runtimeCalls := s.runtimeCalls.filter fun e => !cores.contains e.2 }
    let s := calls.foldl (fun s e => s.complete e.1 4 []) s
    cores.foldl (fun s c => s.send (.mgmt die) (.core c) .request (.ctxStop ctx)) s

/-- The context that runs on the core a machine check names. -/
def State.checkedContext (s : State) (m : MCheck) : Option Nat :=
  match m with
  | .doubleTrap c _ _ _ => (s.core c).ctx
  | .parity c => (s.core c).ctx
  | _ => none

/-- MACHINE_CHECK (R305, R335, R369): a management core records a check of its queue and acts on it. -/
def execMachineCheck (i : Nat) (s : State) : Out :=
  match s.checks[i]? with
  | none => .next s
  | some (die, m) =>
    let s := { s with checks := s.checks.eraseIdx i, log := s.log ++ [LogEntry.check die m] }
    match m with
    | .power | .overTemp _ =>
      let all := (s.contexts.map (·.1)).foldl (fun s x => s.failContext die x) s
      .next { all with ended := true }
    | _ =>
      match s.checkedContext m with
      | some x => .next (s.failContext die x)
      | none => .next s

/-- CONTEXT_STOP (R305): a core of a failed context takes no further instruction of it. -/
def execContextStop (k : Nat) (s : State) : Out :=
  packetStep k (fun p s =>
    match p.dst, p.body with
    | .core c, .ctxStop ctx =>
      some (if (s.core c).ctx = some ctx then s.onCore c fun k => { k with stopped := true } else s)
    | _, _ => none) s

/-- PARITY_ERROR (R369): a machine check; the core takes no further instruction, as for a double trap. -/
def execParityError (c : Nat) (s : State) : Out :=
  if c < Config.numCores then
    .next ((s.machineCheck (dieOf c) (.parity c)).onCore c fun k => { k with stopped := true })
  else .next s

/-! ## Quiesce (R315, R341) -/

/-- Whether a core has done steps 2 and 5 of its quiesce: no task, every posted access and steal request answered, and
every store performed. -/
def Core.settled (k : Core) : Bool :=
  k.quiesces && k.lo.isNone && k.hi.isNone && k.unack == 0 && !k.l1.ungranted && !k.sched.stealing && k.sched.held == 0

/-- A core's transfers that have not completed. -/
def State.openXfers (s : State) (c : Nat) : List Nat :=
  (List.range s.xfers.length).filter fun x => match s.xfers[x]? with
    | some t => t.core == c && !t.fin
    | none => false

/-- Rounds that wait for members that have not joined, of this device or another: group, round. -/
def State.openRounds (s : State) : List (Nat × Round) :=
  s.groups.flatMap fun (g, e) =>
    (e.rounds.filter fun r => (e.locals.any fun i => !(r.joined.map (·.1)).contains i) ||
      e.remotes.any fun i => !(r.far.map (·.1)).contains i).map fun r => (g, r)

/-- Whether a transfer is one of a waiting round. -/
def State.inOpenRound (s : State) (x : Nat) : Bool := s.openRounds.any fun r => r.2.joined.any fun j => j.2 == x

/-- QUIESCE (R315): a core of a context under pre-emption reports quiescent. Rounds that wait for members that will not
join are abandoned once every core of the context waits for nothing else (R341). -/
def execQuiesce (c : Nat) (s : State) : Out :=
  let k := s.core c
  match k.ctx with
  | none => .next s
  | some ctx =>
    if !k.settled || k.stopped then .next s
    else if (s.openXfers c).isEmpty then .next (s.onCore c fun k => { k with quiet := true })
    else
      let rest := (s.coresOf ctx).all fun d => (s.core d).settled && (s.openXfers d).all s.inOpenRound
      if rest then
        let mine := (s.coresOf ctx).flatMap s.openXfers
        .next ((s.openRounds.filter fun r => r.2.joined.any fun j => mine.contains j.2).foldl
          (fun s r => s.failRound r.1 r.2 9) s)
      else .next s

/-- Whether a core's LO task is to be aborted: an urgent pre-emption finds it inside an idempotent region (R316). -/
def State.mustAbort (s : State) (c : Nat) : Bool :=
  let k := s.core c
  k.alive && k.quiesces && k.hi.isNone && !k.regs.inTrap && (k.lo.any fun t => t.idem.isSome) &&
  match k.ctx.bind s.context? with
  | some x => (x.preempt.map (·.2)).getD false
  | none => false

/-- IDEM_ABORT (R316): at the boundary that follows, once the answers owed have come and the vector/matrix stream has
executed what was passed to it, or waits. -/
def execIdemAbort (c : Nat) (s : State) : Out :=
  let k := s.core c
  match k.lo with
  | none => .next s
  | some t =>
    if !s.mustAbort c then .next s
    else
      match s.resolveWait c false t with
      | (false, s) => .next s
      | (true, s) =>
        if k.vu.fault.isSome || !t.late.isEmpty then .next s
        else if !k.vu.viq.isEmpty && (s.blockedHead c).isNone then .next s
        else .next ((s.onCore c fun k => { k.dropStream with abortRec := some t }).endTask c false)

end Sys2Proof.Machine
end

