-- ==== Sys2Proof/Machine/Host.lean ====
section
/-! DEFINITION. The host's side of the module: snoops, CXL exchanges and CXL.mem (R97–R99, R44, R45), bias flips (R100,
R101), links (R150, R369) and launch windows (R332). -/

namespace Sys2Proof.Machine

/-! ## Host memory (R45, R335) -/

/-- The host physical address of a host-tier address (R45). -/
def State.hostPa (s : State) (pa : Nat) : Nat := s.hostBase + (pa - Config.hostTierPa)

/-- How many of `n` bytes at a host physical address lie in HBM, through the HDM range; the others lie in host memory (R330,
R335). -/
def hbmPart (a n : Nat) : Nat := Nat.min n (Config.hbmSize - a)

/-- Writes bytes at a host physical address. -/
def State.hostWrite (s : State) (a : Nat) (bytes : List Byte) : State :=
  let n := hbmPart a bytes.length
  let s := if n = 0 then s else s.engineWrite a (bytes.take n)
  { s with hostMem := s.hostMem.writeN (a + n) (bytes.drop n) }

/-- Reads bytes at a host physical address. -/
def State.hostRead (s : State) (a n : Nat) : List Byte :=
  s.bytesNow a (hbmPart a n) ++ s.hostMem.readN (a + hbmPart a n) (n - hbmPart a n)

/-- Whether the device can reach bytes at a host physical address now. -/
def State.hostReady (s : State) (a n : Nat) (write : Bool) : Ready :=
  if hbmPart a n = 0 then .ok else s.ready [(a, hbmPart a n)] write

/-- Whether bytes at a host physical address can be read: none is poisoned. -/
def State.hostSound (s : State) (a n : Nat) : Bool := (s.firstBad a (hbmPart a n)).isNone

/-! ## Snoops (R97) -/

/-- A sector goes back to the host whole: a host-tier sector to host memory, which clears its poison here (R44). -/
def State.sectorBack (s : State) (sector : Nat) : State :=
  if Config.hostTierPa ≤ sector * 64 then
    { s with hostMem := s.hostMem.writeN (s.hostPa (sector * 64)) (s.bytesNow (sector * 64) 64),
             poison := Tbl.put false s.poison sector false, latent := Tbl.put false s.latent sector false }
  else s

/-- The L1s that `only` selects lose a sector. -/
def State.dropSector (s : State) (sector : Nat) (only : Nat → Bool) : State :=
  { s with cores := s.cores.map fun e =>
      if only e.1 then (e.1, { e.2 with l1 := e.2.l1.clearSv (sector / 4) (2 ^ (sector % 4)) }) else e }

/-- Whether the home can serve a host snoop of a sector now. -/
def State.snoopable (s : State) (sector : Nat) : Bool :=
  s.hostLine (sector * 64) && !s.engineBusy (sector / 4) [sector % 4] && !s.lateFull (sector / 4) &&
  !s.exchanges.any (·.sector == sector)

/-- HOST_SNOOP_OWNERSHIP (R97). -/
def execHostSnoopOwnership (pa : Nat) (s : State) : Out :=
  let g := pa / 64
  if !s.snoopable g || s.hostState g == .i then .next s
  else .next ((((s.pullBytes (g * 64) 64).sectorBack g).dropSector g fun _ => true).setHostState g .i)

/-- The cores that have registered words of a sector. -/
def State.sectorOwners (s : State) (sector : Nat) : List Nat :=
  match s.home? (sector / 4) with
  | none => []
  | some e => (e.owner.filter fun o => o.1 / 16 == sector % 4).map (·.2)

/-- HOST_SNOOP_SHARING (R97): only the L1s that hold registered words lose the sector. -/
def execHostSnoopSharing (pa : Nat) (s : State) : Out :=
  let g := pa / 64
  if !s.snoopable g || !(s.hostState g == .m || s.hostState g == .o) then .next s
  else
    let owners := s.sectorOwners g
    .next ((((s.pullBytes (g * 64) 64).sectorBack g).dropSector g fun c => owners.contains c).setHostState g .s)

/-- CXL_EXCHANGE_COMPLETE (R97, R44): exchange `k` ends. A read brings 64 bytes, perhaps poisoned, and the sector
exclusively when the host grants it; an ownership read of a sector held in S brings none. -/
def execCxlExchangeComplete (k : Nat) (excl poisoned : Bool) (data : List Byte) (s : State) : Out :=
  match s.exchanges[k]? with
  | none => .next s
  | some x =>
    let g := x.sector
    let fetch := s.hostState g == .i
    if fetch && data.length != 64 then .next s
    else
      let s := { s with exchanges := s.exchanges.eraseIdx k }
      let s := if fetch then s.writeHome (g * 64) data else s
      let s := if fetch && poisoned then
          { s with poison := Tbl.put false s.poison g true }.machineCheck 0 (.granule g) else s
      .next ((s.setHostState g (if x.own || (fetch && excl) then .e else if fetch then .s else s.hostState g)).retryHome
        (homeOfLine (g / 4)))

/-! ## CXL.mem (R99) -/

/-- A write of the host at the lines' homes, as of a core (R93, R99); a part of a granule that cannot be merged into is
abandoned (R42). -/
def State.hostStore (s : State) (pa : Nat) (bytes : List Byte) : State := (s.pullBytes pa bytes.length).mergeHome pa bytes

/-- Whether the host may access a sector of a HOSTLN line itself: the device holds nothing of it. -/
def State.hostOwn (s : State) (sector : Nat) : Bool :=
  s.hostState sector == .i && !s.engineBusy (sector / 4) [sector % 4] && !s.exchanges.any (·.sector == sector)

/-- Readies a CXL.mem access: at the homes of device-bias pages; in host-bias pages the host has the sectors (R99). -/
def State.hostMay (s : State) (pa n : Nat) (write : Bool) : Ready :=
  let gs := granulesOf pa n
  let host := gs.filter fun g => s.hostLine (g * 64)
  if host.all s.hostOwn then s.ready ((gs.filter fun g => !s.hostLine (g * 64)).map fun g => (g * 64, 64)) write else .wait s

/-- A posted write of the host (R333): performed at its home, or kept in order until it can be. -/
def State.hostPost (s : State) (pa : Nat) (data : List Byte) : State :=
  let keep := fun (s : State) =>
    { s with hostPosted := s.hostPosted ++ [(s.postedNext, pa, data)], postedNext := s.postedNext + 1 }
  if !s.hostPosted.isEmpty then keep s
  else
    match s.hostMay pa data.length true with
    | .wait s => keep s
    | .ok => s.hostStore pa data

/-- The oldest posted write of the host is looked at again (R333). -/
def State.hostAgain (s : State) : State :=
  match s.hostPosted with
  | [] => s
  | (_, pa, data) :: rest =>
    match s.hostMay pa data.length true with
    | .wait s => s
    | .ok => { s.hostStore pa data with hostPosted := rest }

/-- HOST_CXL_MEM_ACCESS (R99): a read or write of HBM by the host through BAR2, which is served after a reset's last step
(R368). A read comes after the host's posted writes, and gets the registrants' values or the home's (R92), in `hostGot`;
of poison it gets no byte (R43). -/
def execHostCxlMemAccess (write : Bool) (pa len : Nat) (data : List Byte) (s : State) : Out :=
  let n := if write then data.length else len
  if n = 0 || s.booting then .next s
  else if Config.hbmSize < pa + n then .fault (.unpopulated pa)
  else if write then .next (s.hostPost pa data)
  else if !s.hostPosted.isEmpty then .next s
  else
    match s.hostMay pa n false with
    | .wait s => .next s
    | .ok =>
      let s := s.detectAll pa n
      .next { s with hostGot := if (s.firstBad pa n).isSome then [] else s.bytesNow pa n }

/-! ## Bias flips (R100, R101) -/

/-- FLIP_MARKER (R100): a home takes the page's lines out of service. -/
def execFlipMarker (k : Nat) (s : State) : Out :=
  packetStep k (fun p s =>
    match p.body with
    | .flipMarker page h =>
      let i := s.flips.findIdx fun f => f.page == page && !f.arrived.contains h
      some (match s.flips[i]? with
        | none => s
        | some f => { s with flips := s.flips.set i { f with arrived := f.arrived ++ [h] } })
    | _ => none) s

/-- The page of a line. -/
def pageOfLine (line : Nat) : Nat := line / 2048

/-- The registry entries of a page's lines. -/
def State.pageEntries (s : State) (page : Nat) : List (Nat × HomeLine) := s.homeLines.filter fun e => pageOfLine e.1 == page

/-- Whether the cleaning engine can clean a page: no recall, grant, reclaim, exchange or controller access of its lines is
under way; what a Porter had asked for before the marker has completed. -/
def State.cleanable (s : State) (page : Nat) : Bool :=
  (s.pageEntries page).all (fun e => e.2.recalling.isEmpty && !e.2.reclaim && !s.lateFull e.1 &&
    !e.2.owner.any fun o => (s.core o.2).l1.awaits e.1 o.1) &&
  (!s.exchanges.any fun x => pageOfLine (x.sector / 4) == page) &&
  !s.ctls.any fun e => e.2.any fun r => pageOfLine (r.granule / 4) == page

/-- An L1 whose lines that `p` selects have no valid sector left. -/
def L1.swept (l : L1) (p : Nat → Bool) : L1 :=
  let one := fun (e : Nat × L1Line) => if p e.1 then (e.1, { e.2 with sv := 0, hs := [.i, .i, .i, .i] }) else e
  let l := l.dropMiss fun line _ => p line
  { l with lines := l.lines.map one }

/-- The cleaning engine over the lines that `p` selects (R101): every registration is recalled, every written word
written back, and SV cleared in every L1. -/
def State.clean (s : State) (p : Nat → Bool) : State :=
  let s := (s.homeLines.filter fun e => p e.1).foldl (fun s e => s.pull e.1 (2 ^ 64 - 1)) s
  { s with cores := s.cores.map fun e => (e.1, { e.2 with l1 := e.2.l1.swept p }) }

/-- A sector request that had asked for forwards asks again. -/
def Parked.renew (p : Parked) (page : Nat) : Parked :=
  match p.pkt.body with
  | .missReq line sectors id _ true =>
    if pageOfLine line = page then { p with pkt := { p.pkt with body := .missReq line sectors id [] false } } else p
  | _ => p

/-- Sector requests of a page that had asked for forwards ask again. -/
def State.renewPage (s : State) (page : Nat) : State := { s with parked := s.parked.map fun x => x.renew page }

/-- The sectors of a page that the device does not hold for itself alone. -/
def State.hostsOf (s : State) (page : Nat) : List Nat := (rangeFrom (page * 8192) 8192).filter fun g => !s.sectorHeld g true

/-- BIAS_FLIP_COMPLETE (R100): with the marker arrived at every home, the page is cleaned. To device bias, the homes then
snoop the page's sectors for ownership over CXL, which brings the host's dirty ones. At last no sector of it is held toward
the host any more; the bias changes, and what waited goes on. -/
def execBiasFlipComplete (page : Nat) (s : State) : Out :=
  match s.flips.find? (·.page == page) with
  | none => .next s
  | some f =>
    if f.arrived.length < Config.numSlices || !s.cleanable page then .next s
    else
      let s := (s.clean fun line => pageOfLine line == page).renewPage page
      let theirs := if f.toHost then [] else s.hostsOf page
      if !theirs.isEmpty then .next (theirs.foldl (fun s g => s.exchange g true) s)
      else
        let s := { s with hostSectors := s.hostSectors.filter (fun e => pageOfLine (e.1 / 4) != page),
                          hostBias := Tbl.put false s.hostBias page f.toHost,
                          flips := s.flips.erase f }
        let homes := (s.parked.filterMap fun x => x.pkt.body.line?.map homeOfLine).eraseDups
        .next ((homes.foldl (fun s h => s.retryHome h) s).complete f.head 0 [])

/-! ## Links and routers (R150, R369) -/

/-- BULK_DEADLOCK_PROBE (R150): counted; the mesh holds packets, not buffers, so nothing else changes. -/
def execBulkDeadlockProbe (router : Nat) (s : State) : Out := .next (s.event (unitRouter (router % 256)) 0x20)

/-- DEADLOCK_RECOVERY (R150): a recovery step of the routers of a cycle, seen as latency only. -/
def execDeadlockRecovery (ring : List Nat) (s : State) : Out :=
  .next (ring.foldl (fun s r => s.event (unitRouter (r % 256)) 0x21) s)

/-- FLIT_REPLAY (R369): a flit of a link is replayed; `again` when its last replay failed too. Links are numbered so that
link `n` is one of router n mod 256 (assumption 32). -/
def execFlitReplay (link : Nat) (again : Bool) (s : State) : Out :=
  let n := if again then Tbl.getD s.replays link 0 + 1 else 1
  .next ({ s with replays := Tbl.put 0 s.replays link n }.event (unitRouter (link % 256)) 0x22)

/-- The number of the Hololel link of peer port 0; the others follow (assumption 32). -/
def peerLink : Nat := 0x10000

/-- LINK_RETRAIN (R369): after 16 consecutive replays; a mesh or UCIe link that fails retraining raises a machine check. A
Hololel link that fails it raises none: its port is declared down by PEER_PORT_FAILURE (R340). -/
def execLinkRetrain (link : Nat) (ok : Bool) (s : State) : Out :=
  if Tbl.getD s.replays link 0 < 16 then .next s
  else
    let s := { s with replays := Tbl.put 0 s.replays link 0 }
    .next (if ok || decide (peerLink ≤ link) then s else s.machineCheck (dieOfCluster (link % 256)) (.link link))

/-! ## Launch windows (R332) -/

/-- LAUNCH_WINDOW_GO (R332): the host writes ARG0, ARG1 and GO of a window; the launch comes after the writes posted before
it (R333). -/
def execLaunchWindowGo (n : Nat) (arg0 arg1 go : W) (s : State) : Out :=
  .next (if n < Config.numCores ∧ s.booting = false then s.windowWrite n arg0 arg1 go s.postedNext else s)

/-- Whether a launch must wait for a host write that was posted before it (R333). -/
def State.launchWaits (s : State) (l : Launch) : Bool := s.hostPosted.any fun p => decide (p.1 < l.before)

/-- LAUNCH_WINDOW_PERFORM (R332): the oldest launch of a window is sent to its core, one at a time. -/
def execLaunchWindowPerform (n : Nat) (s : State) : Out :=
  let w := s.window n
  match w.queue with
  | [] => .next s
  | l :: rest =>
    if w.flying || s.launchWaits l then .next s
    else if l.go.bits 63 32 ≠ 0 ∨ l.go.getLsbD 15 then
      .next ({ s with windows := Tbl.insert s.windows n { w with queue := rest } }.windowAnswer n 3)
    else
      let tpl : Template := { pc := l.go.bits 14 0, arg0 := l.arg0, arg1 := l.arg1, widths := [0, 0, 0, 0, 0, 0] }
      let r : Requester := { core := n, hi := false, ctx := some (l.go.bits 31 16), sup := true }
      .next ({ s with windows := Tbl.insert s.windows n { w with queue := rest, flying := true } }.send .hostAgent (.core n) .request
        (.launch r ⟨0, 1, tpl, n, false⟩ 0 (some n)))

/-! ## BAR0 (R331, R332, R334) -/

/-- Bytes written over a field of 8 bytes at `at_`, by a write of `bytes` at `o`. -/
def overlay (v : W) (at_ o : Nat) (bytes : List Byte) : W :=
  w64 (leNat ((List.range 8).map fun i =>
    if o ≤ at_ + i ∧ at_ + i < o + bytes.length then bytes.getD (at_ + i - o) 0 else BitVec.ofNat 8 (v.toNat / 256 ^ i)))

/-- A write of the host at offset `o` of launch window `n`: ARG0 and ARG1 take their bytes, GO starts a launch. -/
def State.windowBytes (s : State) (n o : Nat) (bytes : List Byte) : State :=
  let w := s.window n
  let s := { s with windows := Tbl.put Window.reset s.windows n { w with arg0 := overlay w.arg0 0 o bytes, arg1 := overlay w.arg1 8 o bytes } }
  if o < 24 ∧ 16 < o + bytes.length then s.windowGo n (overlay 0 16 o bytes) s.postedNext else s

/-- A write of the host at offset `o` of command slot `n`: PARAM takes its bytes. STATUS is read-only, and the starting write
is the row of its command. -/
def State.slotBytes (s : State) (n o : Nat) (bytes : List Byte) : State :=
  let x := s.cmdSlot n
  let lo := Nat.max o 8
  { s with slots := Tbl.put CmdSlot.reset s.slots n { x with param := x.param.writeN lo (bytes.drop (lo - o)) } }

/-- The parts of a write in one block of `size` bytes each: block, offset in it, bytes. -/
def barBlocks (size off : Nat) (bytes : List Byte) : List (Nat × Nat × List Byte) :=
  let first := off / size
  (rangeFrom first ((off + bytes.length - 1) / size + 1 - first)).map fun n =>
    let lo := Nat.max off (n * size)
    (n, lo - n * size, (bytes.drop (lo - off)).take (Nat.min (off + bytes.length) (n * size + size) - lo))

/-- A write of the host to BAR0 (R331). -/
def barWriteStep (off : Nat) (bytes : List Byte) (s : State) : Out :=
  let inWindows := bytes.take (0x8000 - off)
  let o := Nat.max off 0x8000
  let inSlots := (bytes.drop (o - off)).take (0x9000 - o)
  if s.booting then .next s
  else
    let s := if inWindows.isEmpty then s else (barBlocks 32 off inWindows).foldl (fun s b => s.windowBytes b.1 b.2.1 b.2.2) s
    .next (if inSlots.isEmpty then s else (barBlocks 256 (o - 0x8000) inSlots).foldl (fun s b => s.slotBytes b.1 b.2.1 b.2.2) s)

/-- STATUS of a command slot (R334); before a reset's last step every one reads as running (R368). -/
def State.slotStatus (s : State) (n : Nat) : Nat := if s.booting || (s.cmdSlot n).running then 0x80000000 else (s.cmdSlot n).code

/-- STATUS of a launch window (R332). -/
def Window.status (w : Window) : Nat := w.result % 256 + w.pushed % 2 ^ 56 * 256

/-- A byte of BAR0 (R331). DESIGN CHOICE (assumption 91): the spec gives no value that GO reads as, which is `go`, a free
value. -/
def State.barByte (s : State) (go : W) (a : Nat) : Byte :=
  let w := s.window (a / 32)
  let word := fun (v i : Nat) => BitVec.ofNat 8 (v / 256 ^ i)
  if a < 0x8000 then
    match a % 32 / 8 with
    | 0 => word w.arg0.toNat (a % 8)
    | 1 => word w.arg1.toNat (a % 8)
    | 2 => word go.toNat (a % 8)
    | _ => word w.status (a % 8)
  else if a < 0x9000 then
    let n := (a - 0x8000) / 256
    let o := a % 256
    if 4 ≤ o ∧ o < 8 then word (s.slotStatus n) (o - 4) else (s.cmdSlot n).param.read o
  else 0

/-- A read of BAR0 by the host, which comes after its posted writes. -/
def barReadStep (off n : Nat) (s : State) : Out :=
  if !s.hostPosted.isEmpty then .next s
  else
    let (go, s) := s.freeW
    .next { s with hostGot := (rangeFrom off (Nat.min n (0x10000 - off))).map (s.barByte go) }

/-- The oldest posted write of the host is looked at again. -/
def postedStep (s : State) : Out := .next s.hostAgain

end Sys2Proof.Machine
end

