-- ==== Sys2Proof/Machine/Save.lean ====
section
/-! DEFINITION. Pre-emption, the save area and the restore (R315–R319): SAVE_COPY and the commands PREEMPT and RESTORE. -/

namespace Sys2Proof.Machine

/-! ## Commands (R334) -/

/-- What a command that may take effect comes to: it goes on waiting, or it has taken effect. -/
inductive CmdRes where
  | wait (s : State)
  | did (s : State)

/-- A command has started: its slot runs, holds OP, FLAGS and TAG, and until it takes effect its parameters. -/
def State.started (s : State) (h : CmdHead) (op : Nat) (params : List Nat) (ctx : Option Nat) : State :=
  let x := s.cmdSlot h.slot
  let first : List Byte := BitVec.ofNat 8 op :: BitVec.ofNat 8 (b2n h.irq) :: leBytes 2 h.tag
  let y : CmdSlot :=
    { x with running := true, tag := h.tag, irq := h.irq, out := [], param := x.param.writeN 0 first, waits := some (h, params),
             ctx := ctx, since := s.tick }
  { s with slots := Tbl.insert s.slots h.slot y }

/-- Whether an earlier command on the same context has still to take effect (R334). -/
def State.cmdBehind (s : State) (h : CmdHead) (ctx : Option Nat) (since : Nat) : Bool :=
  ctx.isSome && s.slots.any fun e => e.1 != h.slot && e.2.running && e.2.ctx == ctx && decide (e.2.since < since)

/-- A running command tries to take effect. -/
def State.attempt (s : State) (h : CmdHead) (ctx : Option Nat) (f : State → CmdRes) : State :=
  if s.cmdBehind h ctx (s.cmdSlot h.slot).since then s
  else
    match f s with
    | .wait t => t
    | .did t => t

/-- A command's row: its starting write, which is ignored while the slot runs a command or a reset is under way, and whose
reserved bits end it with BADCMD; or, while it waits to take effect, another try of it (R334, R368). -/
def State.command (s : State) (h : CmdHead) (op : Nat) (params : List Nat) (ctx : Option Nat) (f : State → CmdRes) : Out :=
  let x := s.cmdSlot h.slot
  if decide (15 < h.slot) || s.booting then .next s
  else if x.running then .next (if x.waits == some (h, params) then s.attempt h ctx f else s)
  else if h.reserved then .next ((s.started h op params ctx).complete h 1 [])
  else .next ((s.started h op params ctx).attempt h ctx f)

/-- A command has taken effect, or begun to, and goes on running in its slot. `ctx`: the context whose later commands wait
for it. -/
def State.begin (s : State) (h : CmdHead) (ctx : Option Nat) : State :=
  { s with slots := Tbl.insert s.slots h.slot { s.cmdSlot h.slot with running := true, waits := none, ctx := ctx } }

/-- A starting write with an OP that names no command ends with BADCMD (R334). -/
def unknownCommandStep (h : CmdHead) (s : State) : Out := s.command h 0 [] none fun s => .did (s.complete h 1 [])

/-- The parameters of a list of cores with save areas. -/
def areaParams (l : List (Nat × Nat)) : List Nat := l.flatMap fun e => [e.1, e.2]

/-- A list of cores with save areas: cores of the module, each once, areas 4 KiB aligned. -/
def areasOk (l : List (Nat × Nat)) : Bool :=
  l.all (fun e => decide (e.1 < Config.numCores) && e.2 % 4096 == 0) && decide ((l.map (·.1)).eraseDups.length = l.length)

/-- A core that leaves its context: what the save area holds, and all else that belongs to the context, is at reset;
its clock, L1, TLB, Waybill counter, scratchpad and instruction memory stay. -/
def Core.unbound (k : Core) : Core :=
  { Core.reset with
    regs := { Regs.reset with cyc := k.regs.cyc }, l1 := k.l1, tlb := k.tlb, seq := k.seq,
    lcl := { k.lcl with win := [], tscale := [], table := [], fullWait := [], barWait := [] } }

/-! ## The image (R317) -/

/-- Bytes of pieces at rising offsets, from `p` on, with zeros between them. -/
def assemble (p : Nat) : List (Nat × List Byte) → List Byte
  | [] => []
  | e :: r => List.replicate (e.1 - p) 0 ++ e.2 ++ assemble (e.1 + e.2.length) r

/-- TPL of a template and a source core (R285). -/
def Template.word (t : Template) (src : Nat) : Nat :=
  t.pc + ofLanes 6 t.widths % 2 ^ 36 * 2 ^ 15 + src % 1024 * 2 ^ 51

/-- A template from TPL, ARG0 and ARG1. -/
def Template.ofWord (w a0 a1 : Nat) : Template :=
  { pc := bitsOf w 14 0, arg0 := w64 a0, arg1 := w64 a1, widths := (List.range 6).map fun i => lane 6 (w / 2 ^ 15) i }

/-- A list of 64-bit words as bytes. -/
def wordBytes (l : List Nat) : List Byte := l.flatMap (leBytes 8)

/-- A deque entry's 40 bytes (R285). -/
def WRange.bytes (r : WRange) : List Byte :=
  wordBytes [r.lo.toNat, r.hi.toNat, r.tpl.arg0.toNat, r.tpl.arg1.toNat, r.tpl.word r.src]

/-- A deque entry from its 40 bytes. -/
def WRange.ofBytes (b : List Byte) : WRange :=
  let w := fun i => leNat ((b.drop (8 * i)).take 8)
  { lo := w64 (w 0), hi := w64 (w 1), tpl := Template.ofWord (w 4) (w 2) (w 3), src := bitsOf (w 4) 60 51, firm := false }

/-- The tag of an inbox word (R317). -/
def InboxWord.tag (w : InboxWord) : Nat := w.src % 1024 + w.ch % 32 * 2 ^ 10 + b2n w.first * 2 ^ 15

/-- The abort record (R317). -/
def abortBytes (t : Task) : List Byte :=
  let m : Idem := t.idem.getD { pc := t.pc, xs := [] }
  let tpl := match t.tpl with
    | some x => [x.word t.src, x.arg0.toNat, x.arg1.toNat]
    | none => [0, 0, 0]
  wordBytes ([m.pc % 2 ^ 15 + t.entry % 64 * 2 ^ 16] ++ tpl ++ (List.range 8).map (fun i => (m.xs.getD i 0).toNat) ++
    [t.wid.toNat, t.src])

/-- The system registers of the image, by k (R317). -/
def Core.savedRegs (k : Core) : List Nat :=
  let r := k.regs
  [k.bankLo.rmode, k.bankLo.rng.toNat, k.bankLo.mst.toNat, r.mlane.toNat, r.oobcnt.toNat, r.ringNext, b2n r.rprot, r.budget,
   r.tvec.toNat, r.dtab.toNat, r.asid.toNat, r.ptroot.toNat, r.cap.toNat, r.steal.toNat] ++
  (List.range 4).map (fun i => Tbl.getD r.mcr i 0) ++ [r.mcsWord.toNat] ++
  (List.range 16).map (fun i => Tbl.getD r.cnext i 0) ++ (List.range 16).map (fun i => Tbl.getD r.cdone i 0)

/-- A carried-code entry's 64 bytes: n at byte 32 and the source core at byte 40 (assumption 33). -/
def CodeEntry.bytes (e : CodeEntry) : List Byte :=
  assemble 0 [(0, e.halves.flatMap fun h => leBytes 2 h.toNat), (32, leBytes 8 e.halves.length), (40, leBytes 8 e.src), (64, [])]

/-- The granules that SR.LIVE names. -/
def Core.liveGranules (k : Core) : List Nat := maskList 48 k.regs.live.toNat

/-- The pieces of a core's image below the granules. -/
def Core.imagePieces (k : Core) (c : Nat) : List (Nat × List Byte) :=
  let q := k.sched
  [(0x0000, leBytes 4 1 ++ leBytes 2 c ++ leBytes 2 (b2n k.abortRec.isSome + 2 * b2n k.regs.lost) ++
     leBytes 1 q.deque.length ++ leBytes 1 k.regs.pend.length ++ leBytes 1 k.mxq.length ++ leBytes 1 q.codeq.length ++
     leBytes 2 q.inbox.length),
   (0x0010, leBytes 8 k.regs.live.toNat),
   (0x0040, wordBytes ((List.range 32).map fun i => (k.handler i).toW.toNat)),
   (0x0140, q.recency.flatMap (leBytes 1)),
   (0x0180, wordBytes k.savedRegs),
   (0x0380, wordBytes ((rangeFrom 1 12).flatMap fun w => [(Tbl.getD k.lcl.win w 0).toNat, (Tbl.getD k.lcl.tscale w 0).toNat])),
   (0x0440, match k.abortRec with | some t => abortBytes t | none => []),
   (0x0500, (List.range 256).flatMap fun i => leBytes 4 (Tbl.getD k.lcl.table i 0).toNat),
   (0x0900, q.deque.flatMap WRange.bytes),
   (0x1300, wordBytes (k.regs.pend.flatMap fun t => [t.v.toNat, t.code])),
   (0x1500, (List.range Config.waybillSize).flatMap fun n => leBytes 64
     (if (k.wb n).state = 2 then (k.wb n).bits else { k.wb n with state := 0 }.bits)),
   (0x2500, wordBytes (k.mxq.flatMap fun m => [m.word.toNat, m.operand.toNat, m.done.toNat, m.src])),
   (0x2600, q.codeq.flatMap CodeEntry.bytes),
   (0x2700, q.inbox.flatMap fun w => leBytes 2 w.tag),
   (0x2F00, wordBytes (q.inbox.map fun w => w.w.toNat)),
   (0x5000, [])]

/-- The class of save and restore traffic: a deadline request of slack 256 (R39). -/
def State.askSave (s : State) (ctx g : Nat) (write : List (Nat × Byte)) (bad : Bool) : State :=
  s.ask { granule := g, write := write, origin := .save ctx bad, deadline := some (s.tick + 256), arrived := s.tick, promoted := false,
          mask := 0 }

/-- Sends bytes of an image to memory: to HBM granule by granule, poisoned where `bad` says so, and to host memory. -/
def State.saveBytes (s : State) (ctx a : Nat) (bytes : List Byte) (bad : Nat → Bool) : State :=
  let n := hbmPart a bytes.length
  let s := { s.pullBytes a n with hostMem := s.hostMem.writeN (a + n) (bytes.drop n) }
  let s := (granulesOf a n).foldl (fun s g => s.markWritten g none) s
  (List.range (n / 64)).foldl (fun s i =>
    s.askSave ctx (a / 64 + i) ((List.range 64).map fun j => (a + 64 * i + j, bytes.getD (64 * i + j) 0)) (bad i)) s

/-- Saves a granule of the scratchpad: a poisoned word poisons what holds it in HBM. -/
def State.saveGranule (s : State) (ctx c area g : Nat) : State :=
  let l := (s.core c).lcl
  s.saveBytes ctx (area + 0x5000 + 0x1000 * g) (l.spad.readN (0x1000 * g) 0x1000)
    fun i => (List.range 8).any fun w => Tbl.getD l.poison (512 * g + 8 * i + w) false

/-- Sends a core's image to its area (R317). -/
def State.saveCore (s : State) (ctx c area : Nat) : State :=
  let k := s.core c
  k.liveGranules.foldl (fun s g => s.saveGranule ctx c area g)
    (s.saveBytes ctx area (assemble 0 (k.imagePieces c)) fun _ => false)

/-- Asks the controllers for the granules of HBM that hold bytes of an image. -/
def State.loadBytes (s : State) (ctx a n : Nat) : State :=
  (List.range (hbmPart a n / 64)).foldl (fun s i => s.askSave ctx (a / 64 + i) [] false) s

/-- Whether save or restore traffic of a context is at a controller. -/
def State.saving (s : State) (ctx : Nat) : Bool :=
  s.ctls.any fun e => e.2.any fun r => match r.origin with
    | .save x _ => x == ctx
    | _ => false

/-- Whether an image at an area can be written or read now. -/
def State.areaReady (s : State) (area : Nat) (live : List Nat) (write : Bool) : Bool :=
  let ok := fun (a n : Nat) => match s.hostReady a n write with | .ok => true | .wait _ => false
  ok area 0x5000 && live.all fun g => ok (area + 0x5000 + 0x1000 * g) 0x1000

/-- PREEMPT (R315, R316): every core of the context begins its quiesce. The areas given take the place of those of the
context's creation (assumption 34). -/
def execPreempt (h : CmdHead) (ctx : Nat) (urgent : Bool) (areas : List (Nat × Nat)) (s : State) : Out :=
  s.command h 7 (ctx :: b2n urgent :: areaParams areas) (some ctx) (fun s =>
    match s.context? ctx with
    | none => .did (s.complete h 2 [])
    | some x =>
      if !areasOk areas then .did (s.complete h 1 [])
      else if x.preempt.isSome || x.moving || !(x.state == .fresh || x.state == .running) then .did (s.complete h 2 [])
      else
        let merged := areas ++ x.areas.filter fun e => !(areas.any fun a => a.1 == e.1)
        let s := s.setContext ctx { x with preempt := some (h, urgent), areas := merged }
        .did ((s.coresOf ctx).foldl (fun s c => s.onCore c fun k => { k with quiescing := true, quiet := false })
          (s.begin h (some ctx))))

/-- The copy phase begins: every core's image is sent to its area, and the cores leave the context. Service calls not yet taken
end with BADCTX (assumption 35). -/
def State.copyPhase (s : State) (ctx : Nat) (x : Context) (cores : List Nat) (area : Nat → Nat) : State :=
  let s := cores.foldl (fun s c => s.saveCore ctx c (area c)) s
  let s := cores.foldl (fun s c => s.onCore c Core.unbound) s
  let calls := s.runtimeCalls.filter fun e => cores.contains e.2
  let s := { s with runtimeCalls := s.runtimeCalls.filter fun e => !cores.contains e.2 }
  (calls.foldl (fun s e => s.complete e.1 2 []) s).setContext ctx { x with moving := true }

/-- SAVE_COPY (R315, R317): once every core of the context reports quiescent, the copy phase begins; once its traffic has been
served, "saved" completes the command. -/
def execSaveCopy (ctx : Nat) (s : State) : Out :=
  match s.context? ctx with
  | none => .next s
  | some x =>
    match x.preempt with
    | none => .next s
    | some (h, _) =>
      if x.moving then
        if s.saving ctx then .next s
        else .next ((s.setContext ctx { x with state := .saved, preempt := none, moving := false }).complete h 0 [])
      else
        let cores := s.coresOf ctx
        let area := fun (c : Nat) => (x.areas.find? fun e => e.1 == c).map (·.2)
        if !(cores.all fun c => (s.core c).quiet && !(s.core c).stopped && (area c).isSome) then .next s
        else if !(cores.all fun c => s.areaReady ((area c).getD 0) (s.core c).liveGranules true) then .next s
        else .next (s.copyPhase ctx x cores fun c => (area c).getD 0)

/-! ## Restore (R318) -/

/-- A Waybill entry from its 64 bytes; a state other than refused is free. -/
def WbEntry.ofBits (v : Nat) : WbEntry :=
  if bitsOf v 487 480 = 2 then
    { target := w64 v, data := (List.range 6).map fun i => w64 (lane 64 (v / 2 ^ 64) i), pc := bitsOf v 463 448,
      task := bitsOf v 471 464, kind := bitsOf v 479 472, state := 2, cause := bitsOf v 495 488, seq := bitsOf v 511 496 }
  else WbEntry.free

/-- The task of an abort record: its bank as at entry, X8–X15 from the record, at the restart point (R299, R317). -/
def abortTask (b : List Byte) : Task :=
  let w := fun i => leNat ((b.drop (8 * i)).take 8)
  let pc := bitsOf (w 0) 14 0
  let entry := bitsOf (w 0) 21 16
  let xs := (List.range 8).map fun i => w64 (w (4 + i))
  let regs := (List.range 8).map (fun i => (8 + i, xs.getD i 0)) ++ [(16, w64 (w 13)), (17, w64 entry)]
  { Task.enter false entry pc (regTable regs) with
    wid := w64 (w 12), src := w 13, tpl := if entry = 0 then some (Template.ofWord (w 1) (w 2) (w 3)) else none,
    idem := some { pc := pc, xs := xs } }

/-- The scratchpad of a core with the granules of an image: their bytes, no full bit, and poison where the image has it. -/
def State.restoreSpad (s : State) (l : Local) (area : Nat) (live : List Nat) : Local :=
  live.foldl (fun l g =>
    let a := area + 0x5000 + 0x1000 * g
    { l with spad := l.spad.writeN (0x1000 * g) (s.hostRead a 0x1000), full := l.full.writeN (64 * g) (List.replicate 64 0),
             poison := (List.range 512).foldl (fun t w =>
               Tbl.put false t (512 * g + w) (decide (a + 8 * w < Config.hbmSize) && s.bad ((a + 8 * w) / 64))) l.poison }) l

/-- Table of the numbered nonzero values. -/
def numTable (l : List Nat) : Tbl Nat := ((List.range l.length).zip l).foldl (fun t e => Tbl.put 0 t e.1 e.2) []

/-- A core restored from its area (R318). -/
def State.restoreCore (s : State) (ctx c area : Nat) : State :=
  let b := s.hostRead area 0x5000
  let num := fun (o n : Nat) => leNat ((b.drop o).take n)
  let word := fun (o : Nat) => num o 8
  let sr := fun (k : Nat) => word (0x180 + 8 * k)
  let old := s.core c
  let live := maskList 48 (word 0x10)
  let l := s.restoreSpad old.lcl area live
  let win := (rangeFrom 1 12).foldl (fun t w => Tbl.put 0 t w (w64 (word (0x380 + 16 * (w - 1))))) ([] : Tbl W)
  let ts := (rangeFrom 1 12).foldl (fun t w => Tbl.put 0 t w (w64 (word (0x388 + 16 * (w - 1))))) ([] : Tbl W)
  let table := (List.range 256).foldl (fun t i => Tbl.put 0 t i (BitVec.ofNat 32 (num (0x500 + 4 * i) 4))) ([] : Tbl (BitVec 32))
  let regs : Regs :=
    { Regs.reset with
      cyc := old.regs.cyc, mlane := w64 (sr 3), oobcnt := w64 (sr 4), ringNext := sr 5 % 1024, rprot := bitOf (sr 6) 0,
      budget := sr 7 % 2 ^ 32, tvec := w64 (sr 8), dtab := w64 (sr 9), asid := w64 (sr 10), ptroot := w64 (sr 11), cap := w64 (sr 12),
      stealCnt := bitsOf (sr 13) 47 16, stealScope := bitsOf (sr 13) 1 0, mcr := numTable ((rangeFrom 14 4).map sr),
      mcs := numTable ((List.range 16).map fun j => lane 4 (sr 18) j), cnext := numTable ((rangeFrom 19 16).map sr),
      cdone := numTable ((rangeFrom 35 16).map sr), live := w64 (word 0x10), lost := bitOf (num 6 2) 1,
      pend := (List.range (num 9 1)).map fun i => ⟨word (0x1308 + 16 * i), w64 (word (0x1300 + 16 * i))⟩ }
  let handlers := (List.range 32).foldl (fun t i => Tbl.put Handler.reset t i (Handler.ofW (w64 (word (0x40 + 8 * i))))) []
  let inbox := (List.range (num 12 2)).map fun i =>
    let t := num (0x2700 + 2 * i) 2
    ({ w := w64 (word (0x2F00 + 8 * i)), src := bitsOf t 9 0, ch := bitsOf t 14 10, first := bitOf t 15 } : InboxWord)
  let codeq := (List.range (num 11 1)).map fun i =>
    ({ halves := (List.range (num (0x2620 + 64 * i) 8)).map fun j => BitVec.ofNat 16 (num (0x2600 + 64 * i + 2 * j) 2),
       src := num (0x2628 + 64 * i) 8 } : CodeEntry)
  let q : Sched :=
    { Sched.reset with
      handlers := handlers, recency := (List.range 33).map fun i => num (0x140 + i) 1, inbox := inbox, codeq := codeq,
      deque := (List.range (num 8 1)).map fun i => WRange.ofBytes ((b.drop (0x900 + 40 * i)).take 40) }
  let mxq := (List.range (num 10 1)).map fun i =>
    let a := 0x2500 + 32 * i
    ({ word := BitVec.ofNat 32 (word a), operand := w64 (word (a + 8)), done := w64 (word (a + 16)), src := word (a + 24) } : MxCmd)
  let k : Core :=
    { old.unbound with
      ctx := some ctx, bankLo := { rmode := sr 0, rng := w64 (sr 1), mst := w64 (sr 2) }, regs := regs, sched := q, mxq := mxq,
      lcl := { l with win := win, tscale := ts, table := table, fullWait := [], barWait := [] },
      waybill := (List.range Config.waybillSize).foldl (fun t n => Tbl.put WbEntry.free t n (WbEntry.ofBits (num (0x1500 + 64 * n) 64))) [],
      abortRec := if bitOf (num 6 2) 0 then some (abortTask ((b.drop 0x440).take 128)) else none }
  (s.setCore c k).acquire c .system

/-- The live granules that an image names. -/
def State.imageLive (s : State) (area : Nat) : List Nat := maskList 48 (leNat (s.hostRead (area + 0x10) 8))

/-- RESTORE (R318): a saved context on cores that run none. Its traffic is asked for first, and the cores are restored once it
has been served. An area whose FORMAT is not 1, or whose bytes cannot be read, ends the command with FAULT (assumption 36). -/
def execRestore (h : CmdHead) (ctx : Nat) (cores : List (Nat × Nat)) (s : State) : Out :=
  s.command h 8 (ctx :: areaParams cores) (some ctx) (fun s =>
    match s.context? ctx with
    | none => .did (s.complete h 2 [])
    | some x =>
      if !areasOk cores then .did (s.complete h 1 [])
      else if x.state != .saved then .did (s.complete h 2 [])
      else if !x.moving && cores.any fun e => (s.core e.1).ctx.isSome then .did (s.complete h 3 [])
      else if !(cores.all fun e => s.areaReady e.2 (s.imageLive e.2) false) then .wait s
      else if !x.moving then
        let s := cores.foldl (fun s e => (s.imageLive e.2).foldl (fun s g => s.loadBytes ctx (e.2 + 0x5000 + 0x1000 * g) 0x1000)
          (s.loadBytes ctx e.2 0x5000)) s
        .wait (s.setContext ctx { x with moving := true })
      else if s.saving ctx then .wait s
      else if cores.any fun e => (s.core e.1).ctx.isSome then .did ((s.setContext ctx { x with moving := false }).complete h 3 [])
      else if cores.any fun e => leNat (s.hostRead e.2 4) != 1 || !s.hostSound e.2 0x5000 then
        .did ((s.setContext ctx { x with moving := false }).complete h 4 [])
      else
        let s := cores.foldl (fun s e => s.restoreCore ctx e.1 e.2) s
        .did ((s.setContext ctx { x with state := .running, areas := cores, moving := false }).complete h 0 []))

end Sys2Proof.Machine
end

