-- ==== Sys2Proof/Machine/Firmware.lean ====
section
/-! DEFINITION. The commands of Ebpex (R334, R335) beside those of pre-emption, and attestation (R342, R343). -/

namespace Sys2Proof.Machine

/-! ## Virtual addresses of a context -/

/-- The physical parts of a context's bytes, or a failed translation, or a wait for a table's line. -/
inductive CtxParts where
  | ok (parts : List (Nat × Nat))
  | fail
  | wait (s : State)
  deriving DecidableEq, Repr

/-- Walks the pages of bytes in a context's space: physical address and length of each part. -/
def State.ctxParts (s : State) (ctx root va n : Nat) : CtxParts :=
  let starts := if n = 0 then [] else
    (rangeFrom (va / 2 ^ 19) ((va + n - 1) / 2 ^ 19 + 1 - va / 2 ^ 19)).map fun p => Nat.max va (p * 2 ^ 19)
  let rec go : List Nat → CtxParts
    | [] => .ok []
    | a :: r =>
      match walk s ctx root a with
      | .reject => .fail
      | .wait s => .wait s
      | .leaf e =>
        match go r with
        | .ok l => .ok ((e.pa a, Nat.min (va + n) ((a / 2 ^ 19 + 1) * 2 ^ 19) - a) :: l)
        | x => x
  if 2 ^ 56 < va + n then .fail else go starts

/-- Writes bytes to physical parts. -/
def State.writeParts (s : State) : List (Nat × Nat) → List Byte → State
  | [], _ => s
  | p :: r, b => (s.hostStore p.1 (b.take p.2)).writeParts r (b.drop p.2)

/-- Every descriptor cache loses its copies of a slot. -/
def State.forgetSlot (s : State) (pa : Nat) : State :=
  { s with cores := s.cores.map fun e => (e.1, { e.2 with dcache := e.2.dcache.filter fun d => d.2.1 != pa }) }

/-! ## Contexts -/

/-- The first context numbers from `k` on, wrapping, that none of the contexts has; there are at most 64. -/
def State.newCtx (s : State) (k : Nat) : Option Nat :=
  ((List.range (Config.maxContexts + 1)).map fun i => (k + i) % 2 ^ 16).find? fun n => (s.context? n).isNone

/-- A core joins a context (R322, R335). -/
def Core.bind (k : Core) (ctx ptroot : Nat) (dtab : W) : Core :=
  let u := k.unbound
  { u with ctx := some ctx, regs := { u.regs with asid := w64 ctx, ptroot := w64 ptroot, dtab := dtab } }

/-- The walks of the pages of a descriptor table's slots, in a context's space. -/
def State.slotWalks (s : State) (ctx root : Nat) (dtab : W) : List (Nat × WalkRes) :=
  (List.range (2 ^ dtab.bits 4 0)).map fun n => (slotVa dtab n, walk s ctx root (slotVa dtab n))

/-- The state in which the first walk that must wait waits. -/
def walksWait (l : List (Nat × WalkRes)) : Option State :=
  l.findSome? fun e => match e.2 with
    | .wait s => some s
    | _ => none

/-- The physical addresses of the slots that a page maps. -/
def mappedSlots (l : List (Nat × WalkRes)) : List Nat :=
  l.filterMap fun e => match e.2 with
    | .leaf t => some (t.pa e.1)
    | _ => none

/-- Writes slots to zero (R354). -/
def State.zeroSlots (s : State) (pas : List Nat) : State :=
  pas.foldl (fun s pa => (s.engineWrite pa (List.replicate 64 0)).forgetSlot pa) s

/-- CTXCREATE (R335, R354): any free CTXID; the cores whose save areas it sets run the context from now on (assumption
37). Every slot of the descriptor table becomes zero; a slot without a page is a failed translation (assumption 45). -/
def execCtxcreate (h : CmdHead) (ptroot dtab : Nat) (areas : List (Nat × Nat)) (s : State) : Out :=
  s.command h 1 (ptroot :: dtab :: areaParams areas) none (fun s =>
    if !areasOk areas || ptroot % 2 ^ 16 != 0 || decide (2 ^ 52 ≤ ptroot) then .did (s.complete h 1 [])
    else if Config.maxContexts ≤ s.contexts.length ∨ (areas.any fun e => (s.core e.1).ctx.isSome) then .did (s.complete h 3 [])
    else
      let d := dtabOf (w64 dtab)
      let (k, s) := s.freeW
      match s.newCtx k.toNat with
      | none => .did (s.complete h 3 [])
      | some n =>
        let walks := s.slotWalks n ptroot d
        let pas := mappedSlots walks
        match walksWait walks with
        | some s => .wait s
        | none =>
          if pas.length ≠ walks.length then .did (s.complete h 4 [])
          else
            match s.ready (pas.map fun pa => (pa, 64)) true with
            | .wait s => .wait s
            | .ok =>
              let s := areas.foldl (fun s e => s.onCore e.1 fun k => k.bind n ptroot d) s
              .did (((s.zeroSlots pas).setContext n
                { state := .fresh, ptroot := ptroot, dtab := d.toNat, areas := areas, peers := [], preempt := none,
                  moving := false }).complete h 0 [n]))

/-- The map that a packet's body is about. -/
def State.mapOfBody (s : State) (b : Body) : Option MapRef :=
  match b with
  | .mapReq m => some m.map
  | .growth m => some m
  | .splitCmd g | .arenaAlloc g _ | .arenaFree g _ | .splitReport g _ _ => (s.growths[g]?).map (·.map)
  | _ => none

/-- The packets in the mesh, at endpoints and parked at homes. -/
def State.allPackets (s : State) : List Packet := s.net ++ s.held ++ s.parked.map (·.pkt)

/-- Whether something of a context is still under way in the device: a transfer, a packet from or to its cores, or one about a
map of its. -/
def State.ctxBusy (s : State) (ctx : Nat) : Bool :=
  let cores := s.coresOf ctx
  let mine := fun (e : Endpoint) => match e with
    | .core c => cores.contains c
    | _ => false
  s.xfers.any (fun t => t.ctx == some ctx && !t.fin) || s.saving ctx ||
  s.allPackets.any fun p => mine p.src || mine p.dst || (s.mapOfBody p.body).any (·.asid == ctx)

/-- The new first word of a released slot: GEN advanced, 4,095 wrapping to 1, KIND 0 (R58). -/
def releasedWord (w : Nat) : Nat :=
  let gen := bitsOf w 27 16
  let gen := if gen = 4095 then 1 else gen + 1
  w / 2 ^ 28 * 2 ^ 28 + gen * 2 ^ 16 + bitsOf w 15 8 * 2 ^ 8

/-- Releases a slot by steps 1 and 2 of R58, and takes its copies, hot marks and replicas away. -/
def State.releaseSlot (s : State) (pa : Nat) : State :=
  let s := (s.engineWrite pa (leBytes 4 (releasedWord (leNat (s.bytesNow pa 4))))).forgetSlot pa
  { s with slices := s.slices.map fun e =>
      (e.1, { e.2 with marks := e.2.marks.filter (fun m => m.map / 2 ^ 32 != pa),
                       replicas := e.2.replicas.filter fun r => r.map / 2 ^ 32 != pa }) }

/-- What is left of a context in the device goes with its CTXID: its cores' binding, its address space's translations,
and requests of its that are parked at other cores or homes. -/
def State.forgetContext (s : State) (ctx : Nat) : State :=
  let s := (s.coresOf ctx).foldl (fun s c => s.onCore c Core.unbound) s
  let mine := fun (r : Requester) => r.ctx == some ctx
  { s with
    contexts := Tbl.erase s.contexts ctx,
    cores := s.cores.map fun e =>
      (e.1, { e.2 with
        tlb := e.2.tlb.filter fun t => t.asid != ctx,
        lcl := { e.2.lcl with fullWait := e.2.lcl.fullWait.filter (fun w => !mine w.r),
                              barWait := e.2.lcl.barWait.filter fun w => !mine w.r } }),
    dieTlb := s.dieTlb.map fun e => (e.1, e.2.filter fun t => t.asid != ctx),
    walks := s.walks.filter fun w => w.asid != ctx,
    homeBar := s.homeBar.filter fun w => !mine w.r }

/-- Whether a growth step on the map of a slot is under way, the buckets that it gives back included (R121 step 6). -/
def State.growing (s : State) (pa : Nat) : Bool :=
  (s.growths.any fun g => g.map.slot == pa && g.stage != 5) ||
  s.allPackets.any fun p => match p.body with
    | .growth m => m.slot == pa
    | .arenaFree _ _ => (s.mapOfBody p.body).any (·.slot == pa)
    | _ => false

/-- CTXDESTROY (R335, R356): a context that is saved, failed or never run. Every slot of its table that a page maps is
released, a map's only when no growth step on it is under way. The command is performed once nothing of the context is
under way (assumption 38). -/
def execCtxdestroy (h : CmdHead) (ctx : Nat) (s : State) : Out :=
  s.command h 2 [ctx] (some ctx) (fun s =>
    match s.context? ctx with
    | none => .did (s.complete h 2 [])
    | some x =>
      if x.state == .running || x.preempt.isSome then .did (s.complete h 2 [])
      else if s.ctxBusy ctx then .wait s
      else
        let walks := s.slotWalks ctx x.ptroot (w64 x.dtab)
        let held := (mappedSlots walks).filter fun pa => leNat (s.bytesNow pa 1) != 0
        match walksWait walks with
        | some s => .wait s
        | none =>
          if held.any s.growing then .wait s
          else
            match s.ready (held.map fun pa => (pa, 64)) true with
            | .wait s => .wait s
            | .ok => .did (((held.foldl (fun s pa => s.releaseSlot pa) s).forgetContext ctx).complete h 0 []))

/-! ## Code (R52, R335, R342) -/

/-- The cores of a rectangle. -/
def rectCores (r : Rect) : List Nat :=
  (List.range Config.numCores).filter fun c =>
    let cl := clusterOf c
    decide (r.x0 ≤ clusterX cl) && decide (clusterX cl ≤ r.x1) && decide (r.y0 ≤ clusterY cl) && decide (clusterY cl ≤ r.y1) &&
      r.cmask.testBit (c % 4)

/-- Whether a rectangle and a place in instruction memory are in range. -/
def loadOk (r : Rect) (dst n : Nat) : Bool :=
  decide (r.x0 ≤ r.x1) && decide (r.x1 < 16) && decide (r.y0 ≤ r.y1) && decide (r.y1 < 16) && decide (0 < r.cmask) &&
  decide (r.cmask < 16) && decide (dst + n ≤ Config.imemHalfwords)

/-- The bytes that a command's parameter names at a host physical address: those in HBM as the device reads them, the others
`given` by the host's memory. Poison among them ends the command with FAULT (R335). -/
def State.paramBytes (s : State) (h : CmdHead) (src : Nat) (given : List Byte) (f : List Byte → State → CmdRes) : CmdRes :=
  let n := hbmPart src given.length
  match s.hostReady src given.length false with
  | .wait s => .wait s
  | .ok =>
    if s.hostSound src given.length then f (s.bytesNow src n ++ given.drop n) s
    else .did ((s.detectAll src n).complete h 4 [])

/-- Halfwords as bytes. -/
def halfBytes (l : List HW) : List Byte := l.flatMap fun w => leBytes 2 w.toNat

/-- The parameters of a code load. -/
def loadParams (ctx : Nat) (r : Rect) (dst src : Nat) (image : List HW) : List Nat :=
  [ctx, r.x0, r.x1, r.y0, r.y1, r.cmask, dst, src] ++ image.map BitVec.toNat

/-- Copies an image into the instruction memory of a rectangle's cores, and does `f` and `g` there: BADCTX unless every core is
of the context and runs no task of it. -/
def State.loadCode (s : State) (h : CmdHead) (ctx : Nat) (r : Rect) (dst src : Nat) (image : List HW) (f : State → State)
    (g : Core → Core) : CmdRes :=
  if !loadOk r dst image.length then .did (s.complete h 1 [])
  else if (s.context? ctx).isNone || !((rectCores r).all fun c =>
      (s.core c).ctx == some ctx && (s.core c).lo.isNone && (s.core c).hi.isNone) then .did (s.complete h 2 [])
  else
    s.paramBytes h src (halfBytes image) fun bytes s =>
      .did (f (((rectCores r).foldl (fun s c => s.onCore c fun k => g (k.writeImem (2 * dst) bytes)) s).complete h 0 []))

/-- CODELOAD (R335): copies the image that the parameter address names. -/
def execCodeload (h : CmdHead) (ctx : Nat) (r : Rect) (dst : Nat) (image : Param HW) (s : State) : Out :=
  s.command h 3 (loadParams ctx r dst image.src image.given) (some ctx) fun s => s.loadCode h ctx r dst image.src image.given id id

/-- RUNTIMELOAD (R335, R342): both signatures are checked, and SR.TVEC is set. -/
def execRuntimeload (h : CmdHead) (ctx : Nat) (r : Rect) (dst tvec : Nat) (image : Param HW) (digest : Nat) (ecdsaOk lmsOk : Bool)
    (s : State) : Out :=
  s.command h 4 (loadParams ctx r dst image.src image.given ++ [tvec, digest, b2n ecdsaOk, b2n lmsOk]) (some ctx) (fun s =>
    if Config.imemHalfwords ≤ tvec then .did (s.complete h 1 [])
    else if !(ecdsaOk && lmsOk) then .did (s.complete h 5 [])
    else s.loadCode h ctx r dst image.src image.given (fun s => { s with fw := { s.fw with runtimeDigest := digest } })
      fun k => { k with regs := { k.regs with tvec := w64 tvec } })

/-! ## Descriptor slots (R58, R335) -/

/-- The arena headers that a map descriptor asks for: address and bytes (R117, R118). -/
def arenaHeaders (d : Nat) : List (Nat × List Byte) :=
  let header := fun (n : Nat) => ((leBytes 4 0 ++ leBytes 4 1 ++ List.replicate n 0).take n : List Byte)
  if dfield d 0 1 ≠ 1 then []
  else
    (if dfield d 40 4 ≠ 0 then [(dfield d 32 8, header 256)] else []) ++
    (if dfield d 5 1 = 4 then [(dfield d 48 8, header (dfield d 60 2))] else [])

/-- The arena headers that a context's address space maps: their parts and bytes. -/
def headParts (l : List (CtxParts × List Byte)) : List (List (Nat × Nat) × List Byte) :=
  l.filterMap fun e => match e.1 with
    | .ok parts => some (parts, e.2)
    | _ => none

/-- Readies runs of bytes for a write, unless the walk for a header must wait. -/
def headsWait (s : State) (l : List (CtxParts × List Byte)) (runs : List (Nat × Nat)) : Ready :=
  match l.findSome? fun e => match e.1 with | .wait s => some s | _ => none with
  | some s => .wait s
  | none => s.ready runs true

/-- A descriptor of 64 bytes is written to slot `slot` of a context (R335). -/
def State.setDescriptor (s : State) (h : CmdHead) (ctx : Nat) (x : Context) (slot d : Nat) : CmdRes :=
  let kind := dfield d 0 1
  if 2 ^ (w64 x.dtab).bits 4 0 ≤ slot ∨ kind = 0 ∨ 4 ≤ kind then .did (s.complete h 1 [])
  else
    match s.ctxParts ctx x.ptroot (slotVa (w64 x.dtab) slot) 64 with
    | .fail => .did (s.complete h 4 [])
    | .wait s => .wait s
    | .ok parts =>
      let pa := (parts.headD (0, 0)).1
      let heads : List (CtxParts × List Byte) := (arenaHeaders d).map fun e => (s.ctxParts ctx x.ptroot e.1 e.2.length, e.2)
      let found := headParts heads
      match headsWait s heads ((pa, 64) :: found.flatMap Prod.fst) with
      | .wait s => .wait s
      | .ok =>
        let old := leNat (s.bytesNow pa 64)
        if s.bad (pa / 64) then .did ((s.detect (pa / 64)).complete h 4 [])
        else if dfield old 0 1 ≠ 0 then .did (s.complete h 3 [])
        else if found.length ≠ heads.length then .did (s.complete h 4 [])
        else
          let gen := if bitsOf old 27 16 = 0 then 1 else bitsOf old 27 16
          let new := d / 2 ^ 28 * 2 ^ 28 + gen * 2 ^ 16 + d % 2 ^ 16
          let s := found.foldl (fun s e => s.writeParts e.1 e.2) s
          .did (((s.engineWrite pa (leBytes 64 new)).forgetSlot pa).complete h 0 [slot * 4096 + gen])

/-- DESCSET (R335): writes the descriptor that the parameter address names. -/
def execDescset (h : CmdHead) (ctx slot : Nat) (desc : Param Byte) (s : State) : Out :=
  s.command h 5 (ctx :: slot :: desc.src :: desc.given.map BitVec.toNat) (some ctx) (fun s =>
    match s.context? ctx with
    | none => .did (s.complete h 2 [])
    | some x =>
      if x.state == .failed then .did (s.complete h 2 [])
      else if desc.given.length ≠ 64 then .did (s.complete h 1 [])
      else s.paramBytes h desc.src desc.given fun b s => s.setDescriptor h ctx x slot (leNat b))

/-- Whether an operation that passed a check against a slot is still under way. -/
def State.slotBusy (s : State) (ctx pa : Nat) : Bool :=
  (s.allPackets.any fun p => (s.mapOfBody p.body).any (·.slot == pa)) || s.growing pa ||
  s.xfers.any fun t => t.ctx == some ctx && !t.fin

/-- DESCRELEASE (R58, R335): the slot's GEN advances at once; the release is reported, by a later step of the same
command, when every operation on the old descriptor has completed. -/
def execDescrelease (h : CmdHead) (ctx slot : Nat) (s : State) : Out :=
  match s.releases.find? fun e => e.2.2 == h with
  | some e =>
    if s.slotBusy e.1 e.2.1 then .next s
    else .next ({ s with releases := s.releases.erase e }.complete h 0 [])
  | none =>
    s.command h 6 [ctx, slot] (some ctx) (fun s =>
      match s.context? ctx with
      | none => .did (s.complete h 2 [])
      | some x =>
        if x.state == .failed then .did (s.complete h 2 [])
        else if 2 ^ (w64 x.dtab).bits 4 0 ≤ slot then .did (s.complete h 1 [])
        else
          match s.ctxParts ctx x.ptroot (slotVa (w64 x.dtab) slot) 64 with
          | .fail => .did (s.complete h 4 [])
          | .wait s => .wait s
          | .ok parts =>
            let pa := (parts.headD (0, 0)).1
            match s.ready [(pa, 64)] true with
            | .wait s => .wait s
            | .ok =>
              if s.bad (pa / 64) then .did ((s.detect (pa / 64)).complete h 4 [])
              else .did { (s.releaseSlot pa).begin h none with releases := s.releases ++ [(ctx, pa, h)] })

/-! ## Pages, groups, peers, host tier, patches (R100, R338, R336, R45, R342) -/

/-- BIASFLIP (R100): the markers go to every home; BIAS_FLIP_COMPLETE ends the command. -/
def execBiasflip (h : CmdHead) (page : Nat) (toHost : Bool) (s : State) : Out :=
  s.command h 9 [page, b2n toHost] none (fun s =>
    if 2 ^ 21 ≤ page then .did (s.complete h 1 [])
    else
      let s := { s.begin h none with flips := s.flips ++ [{ page := page, toHost := toHost, arrived := [], head := h }] }
      .did ((List.range Config.numSlices).foldl (fun s i => s.send (.mgmt 0) (.slice i) .request (.flipMarker page i)) s))

/-- GROUPSET (R338, R341): it waits for a round in progress; every member's count is then 0. -/
def execGroupset (h : CmdHead) (group : Nat) (valid : Bool) (slack : Nat) (members : List Nat) (s : State) : Out :=
  s.command h 10 (group :: b2n valid :: slack :: members) none (fun s =>
    if 4096 ≤ group ∨ 4096 ≤ slack ∨ (valid ∧ (members.length < 2 ∨ 64 < members.length)) ∨ members.any (fun m => decide (2 ^ 15 ≤ m))
    then .did (s.complete h 1 [])
    else if !(s.group group).rounds.isEmpty then .wait s
    else .did ((s.setGroup group { Group.reset with valid := valid, slack := slack, members := members }).complete h 0 []))

/-- PEERBIND (R336). -/
def execPeerbind (h : CmdHead) (ctx dev fabric peerCtx : Nat) (valid : Bool) (s : State) : Out :=
  s.command h 11 [ctx, dev, fabric, peerCtx, b2n valid] (some ctx) (fun s =>
    match s.context? ctx with
    | none => .did (s.complete h 2 [])
    | some x =>
      if 16 ≤ dev then .did (s.complete h 1 [])
      else
        let peers := if valid then Tbl.insert x.peers dev (fabric, peerCtx) else Tbl.erase x.peers dev
        .did ((s.setContext ctx { x with peers := peers }).complete h 0 []))

/-- HOSTTIER (R32, R45, R335). -/
def execHosttier (h : CmdHead) (base size : Nat) (s : State) : Out :=
  s.command h 13 [base, size] none (fun s =>
    if size % 2 ^ 31 ≠ 0 ∨ 2 ^ 44 < size then .did (s.complete h 1 [])
    else if !s.contexts.isEmpty then .did (s.complete h 2 [])
    else .did ({ s with hostBase := base, hostSize := size }.complete h 0 []))

/-- PATCHLOAD (R342): both signatures, and a version above the installed one. -/
def execPatchload (h : CmdHead) (version digest : Nat) (ecdsaOk lmsOk : Bool) (s : State) : Out :=
  s.command h 14 [version, digest, b2n ecdsaOk, b2n lmsOk] none (fun s =>
    if !(ecdsaOk && lmsOk) || decide (version ≤ s.fw.patchVersion) then .did (s.complete h 5 [])
    else .did ({ s with fw := { s.fw with patchVersion := version, patchDigest := digest } }.complete h 0 []))

/-! ## Monitors, events, service calls (R335, R365, R311) -/

/-- A monitor block's fields at the offsets of R362, 192 bytes. -/
def Monitor.bytes (m : Monitor) : List Byte := (List.range 24).flatMap fun i => leBytes 8 (m.field (8 * i))

/-- MONREAD (R365): the blocks of the i-th unit lie at 0x800 × i from the address given, each in the layout of R362
(assumption 39). -/
def execMonread (h : CmdHead) (units : List Nat) (dst : Nat) (s : State) : Out :=
  s.command h 12 (dst :: units) none (fun s =>
    if units.any fun u => decide (1664 ≤ u) then .did (s.complete h 1 [])
    else
      match s.hostReady dst (0x800 * units.length) true with
      | .wait s => .wait s
      | .ok =>
        let blocks := ((List.range units.length).zip units).flatMap fun e => (List.range 8).map fun m => (e.1, e.2, m)
        .did ((blocks.foldl (fun t b => t.hostWrite (dst + 0x800 * b.1 + 0x100 * b.2.2) (s.monitor b.2.1 b.2.2).bytes) s).complete h 0 []))

/-- A log entry as a kind and two numbers. -/
def LogEntry.code (e : LogEntry) : Nat × Nat × Nat :=
  match e with
  | .check die (.doubleTrap c code v pc) => (1, die * 2 ^ 32 + c * 2 ^ 8 + code, v.toNat * 2 ^ 64 + pc.toNat)
  | .check die (.granule g) => (2, die, g)
  | .check die (.mapGrowth h) => (3, die, h)
  | .check die (.link n) => (4, die, n)
  | .check die (.parity c) => (5, die, c)
  | .check die .power => (6, die, 0)
  | .check die (.overTemp d) => (7, die, d)
  | .ctxFailed ctx => (8, ctx, 0)
  | .clock die mhz => (9, die, mhz)
  | .port n up => (10, n, b2n up)

/-- EVENTS (R335): copies the event log to host memory and clears it; the number of entries is its result. -/
def execEvents (h : CmdHead) (dst : Nat) (s : State) : Out :=
  s.command h 15 [dst] none (fun s =>
    let bytes := s.log.flatMap fun e => let (k, a, b) := e.code; Config.eventBytes k a b
    match s.hostReady dst bytes.length true with
    | .wait s => .wait s
    | .ok => .did (({ s with log := [] }.hostWrite dst bytes).complete h 0 [s.log.length]))

/-- RUNTIMECALL (R311): the call is held at the core; it completes when the runtime executes RTT. -/
def execRuntimecall (h : CmdHead) (ctx core : Nat) (a0 a1 : W) (s : State) : Out :=
  s.command h 16 [ctx, core, a0.toNat, a1.toNat] (some ctx) (fun s =>
    match s.context? ctx with
    | none => .did (s.complete h 2 [])
    | some x =>
      if x.state == .failed || (s.core core).ctx != some ctx then .did (s.complete h 2 [])
      else
        let s := (s.begin h none).onCore core fun k => { k with calls := k.calls ++ [(h.slot, a0, a1)] }
        .did { s with runtimeCalls := s.runtimeCalls ++ [(h, core)] })

/-! ## Attestation (R343) -/

/-- A request enters the transcript, and its response is there to be read. -/
def State.respond (s : State) (msg : Nat) (r : SpdmResp) : State :=
  { s with fw := { s.fw with transcript := Config.absorb s.fw.transcript msg, response := some r } }

/-- A signed response uses up a signature of the LMS key; once they are spent it is the error Unspecified. -/
def State.respondSigned (s : State) (msg : Nat) (f : List Byte → List Byte → SpdmResp) : State :=
  if Config.lmsLimit ≤ s.fw.lmsUsed then s.respond msg .unspecified
  else
    let t := Config.absorb s.fw.transcript msg
    { s with fw := { s.fw with lmsUsed := s.fw.lmsUsed + 1 } }.respond msg (f (Config.signature false t) (Config.signature true t))

/-- GET_VERSION (R343): 1.2 and 1.3, as bytes 0x12 and 0x13. -/
def execGetVersion (s : State) : Out := .next (s.respond 1 (.version [0x12, 0x13]))

/-- GET_CAPABILITIES (R343): no key exchange and no secure sessions. -/
def execGetCapabilities (s : State) : Out := .next (s.respond 2 (.capabilities false false))

/-- NEGOTIATE_ALGORITHMS (R343): SHA-384 and ECDSA P-384 only. -/
def execNegotiateAlgorithms (sha384 p384 : Bool) (s : State) : Out :=
  .next (s.respond (3 + 8 * b2n sha384 + 16 * b2n p384) (.algorithms (sha384 && p384)))

/-- GET_DIGESTS (R343). -/
def execGetDigests (s : State) : Out := .next (s.respond 4 (.digests [Config.certDigest]))

/-- GET_CERTIFICATE (R343): a part of the identity certificate chain. -/
def execGetCertificate (off len : Nat) (s : State) : Out :=
  .next (s.respond (5 + 8 * off + 2 ^ 64 * len) (.certificate ((Config.certChain.drop off).take len)))

/-- CHALLENGE (R343). -/
def execChallenge (nonce : Nat) (s : State) : Out := .next (s.respondSigned (6 + 8 * nonce) .challengeAuth)

/-- The measurements (R343): 1 ROM, 2 installed patch, 3 supervisor runtime, 4 patch version; index 0xFF asks for all
(PRESUMED from SPDM, assumption 40). -/
def Firmware.measurements (f : Firmware) (index : Nat) : List (Nat × Nat) :=
  [(1, Config.romDigest), (2, f.patchDigest), (3, f.runtimeDigest), (4, f.patchVersion)].filter fun e => index == 0xFF || e.1 == index

/-- GET_MEASUREMENTS (R343): unsigned ones are served even when the LMS signatures are spent. -/
def execGetMeasurements (index : Nat) (signed : Bool) (s : State) : Out :=
  let msg := 7 + 8 * index + 2 ^ 64 * b2n signed
  .next (if signed then s.respondSigned msg fun a b => .measurements (s.fw.measurements index) (some (a, b))
    else s.respond msg (.measurements (s.fw.measurements index) none))

end Sys2Proof.Machine
end

