-- ==== Sys2Proof/Machine/Growth.lean ====
section
/-! DEFINITION. Growth of maps (R121, R123, R357): claim, lock, reservation, move, and the descriptor's advance; the
arena headers' service to it (R117). -/

namespace Sys2Proof.Machine

/-- Whether a key moves in a split of bucket S at level L. -/
def moves (d : MapDesc) (l s key : Nat) : Bool := d.hash key % 2 ^ (l + 1) == s + 2 ^ l

/-- Runs a growth step's work on its map, on the descriptor that its claim read (R58). -/
def State.growRun {α : Type} (s : State) (x : Growth) (f : AM α) : Except Stop (α × Arena) :=
  match map? x.desc with
  | none => .error (.fail ⟨cHANDLE, w64 x.map.handle⟩)
  | some d => f.run { s := s, m := x.map, d := d, writes := [], tile := [], hot := [] }

/-- Replaces growth step g. -/
def State.setGrowth (s : State) (g : Nat) (x : Growth) : State := { s with growths := s.growths.set g x }

/-- Rewrites the flag byte of a bucket. -/
def State.setBfl (s : State) (pa : Nat) (f : Nat → Nat) : State :=
  s.engineWrite (pa + 9) [BitVec.ofNat 8 (f (s.byteNow (pa + 9)).toNat)]

/-- The home of bucket S reports to the descriptor home. -/
def State.splitReport (s : State) (g : Nat) (x : Growth) (done fault : Bool) : State :=
  (s.setGrowth g { x with stage := 4, reserved := [] }).send (.slice (homeOf x.pa)) (.slice (homeOf x.map.slot)) .request
    (.splitReport g done fault)

/-- Returns buckets to the overflow arena, at its header's home. -/
def State.giveBack (s : State) (g : Nat) (x : Growth) (pa : Nat) (idx : List Nat) : State :=
  if idx.isEmpty then s else s.send (.slice (homeOf x.pa)) (.slice (homeOf pa)) .request (.arenaFree g idx)

/-- The machine check of a growth step whose arena access fails (R123). -/
def State.growthCheck (s : State) (home : Nat) (m : MapRef) : State := s.machineCheck (dieOfCluster home) (.mapGrowth m.handle)

/-- The hot keys of a growth step's map that move. -/
def State.movingMarks (s : State) (x : Growth) (d : MapDesc) : List HotMark :=
  (s.slice (homeOf x.pa)).marks.filter fun k => k.map == x.map.id && d.hash k.key % 2 ^ x.l == x.s && moves d x.l x.s k.key

/-- A growth step fails at an arena access: bucket S is open as it was, what it had begun to withdraw is no longer, and the
fault is reported (R123). -/
def State.growthFault (s : State) (g : Nat) (x : Growth) : State :=
  let h := homeOf x.pa
  let s := s.setBfl x.pa fun b => maskClear b 3
  let mine := match map? x.desc with
    | some d => s.movingMarks x d
    | none => []
  let s := mine.foldl (fun s k => (s.onMark h k.map k.key fun k => { k with busy := false }).fillReplicas h k.map k.key) s
  ((s.growthCheck h x.map).splitReport g x false true)

/-- What a home's stopped work on a growth step comes to: a wait at the home, or what a failure leads to. -/
def growthStop (e : Stop) (fail : Trap → State) : Take :=
  match e with
  | .wait s => .wait s
  | .fail t => .did (fail t)

/-- GROWTH_REQUEST (R121 steps 1 and 2, R123): claimed or discarded at the descriptor home; a slot that was released
discards it (R58). -/
def execGrowthRequest (k : Nat) (s : State) : Out :=
  waitingStep k (fun p s =>
    match p.body with
    | .growth m =>
      match s.mapAt m with
      | .error e => growthStop e fun _ => s
      | .ok d =>
        if d.split || d.nogrow || d.gstop || d.l == d.lmax then .did s
        else
          let flags := fun (s : State) (set : Nat) => s.engineWrite (m.slot + 1) [BitVec.ofNat 8 ((s.byteNow (m.slot + 1)).toNat ||| set)]
          match s.ready [(m.slot, 64)] true with
          | .wait s => .wait s
          | .ok =>
            match s.mapRun m (arenaPa (d.bucketVa d.s)) with
            | .error e => growthStop e fun _ => (flags s 4).growthCheck (homeOf m.slot) m
            | .ok (pa, a) =>
              let x : Growth :=
                { map := m, desc := leNat (s.bytesNow m.slot 64), l := d.l, s := d.s, pa := pa, stage := 0, reserved := [] }
              let s := flags a.s 1
              .did ({ s with growths := s.growths ++ [x] }.send p.dst (.slice (homeOf pa)) .request (.splitCmd s.growths.length))
    | _ => .no) s

/-- SPLIT_COMMAND (R121 step 2): the command reaches the home of bucket S. -/
def execSplitCommand (k : Nat) (s : State) : Out :=
  packetStep k (fun p s =>
    match p.body with
    | .splitCmd g => (s.growths[g]?).map fun x => s.setGrowth g { x with stage := 1 }
    | _ => none) s

/-- Whether an operation is still executing on a bucket: it waits for its replicas' acknowledgements (R121 step 3). -/
def State.bucketBusy (s : State) (pa : Nat) : Bool :=
  s.parked.any fun p => p.bucket == some pa &&
    match p.pkt.body with
    | .mapReq m => ((s.mark? (homeOf pa) m.map.id m.key).map HotMark.busy).getD false
    | _ => false

/-- SPLIT_LOCK (R121 steps 3 and 4, R357): LOCK and SPLITTING set, and the reservation asked for, or nothing to
reserve. -/
def execSplitLock (g : Nat) (s : State) : Out :=
  match s.growths[g]? with
  | none => .next s
  | some x =>
    if x.stage ≠ 1 || s.bucketBusy x.pa then .next s
    else
      match s.growRun x (do
          let chain ← readChain x.s
          let k := bktAt chain 0
          writeBkt (k.put 9 [BitVec.ofNat 8 (k.bfl ||| 3)])
          let a ← get
          if chain.length ≤ 1 then return (0, 0)
          return (chain.length - 1, ← arenaPa a.d.obase)) with
      | .error (.wait s) => .next s
      | .error (.fail _) => .next (s.growthFault g x)
      | .ok ((n, pa), a) =>
        let s := a.commit x.map.core
        if n = 0 then .next (s.setGrowth g { x with stage := 3 })
        else .next ((s.setGrowth g { x with stage := 2 }).send (.slice (homeOf x.pa)) (.slice (homeOf pa)) .request (.arenaAlloc g n))

/-- Allocates n buckets, or none. -/
def reserveBuckets (d : MapDesc) : Nat → AM (Option (List Nat))
  | 0 => return some []
  | n + 1 => do
    match ← arenaAlloc d.obase d.ocap 256 with
    | none => return none
    | some i =>
      match ← reserveBuckets d n with
      | none => return none
      | some l => return some (i :: l)

/-- ARENA_ALLOCATE (R117, R121 step 4): the reservation of a growth step; declined, bucket S opens again and its home
reports it. Placements allocate at the header in their own step. -/
def execArenaAllocate (k : Nat) (s : State) : Out :=
  waitingStep k (fun p s =>
    match p.body with
    | .arenaAlloc g n =>
      match s.growths[g]? with
      | none => .did s
      | some x =>
        match s.growRun x (do let a ← get; reserveBuckets a.d n) with
        | .error e => growthStop e fun _ => s.growthFault g x
        | .ok (none, a) => .did ((a.s.setBfl x.pa fun b => maskClear b 3).splitReport g x false false)
        | .ok (some l, a) => .did ((a.commit x.map.core).setGrowth g { x with stage := 3, reserved := l })
    | _ => .no) s

/-- ARENA_FREE (R117): the buckets that a growth step gives back go to the header's free list. -/
def execArenaFree (k : Nat) (s : State) : Out :=
  waitingStep k (fun p s =>
    match p.dst, p.body with
    | .slice h, .arenaFree g idx =>
      match s.growths[g]? with
      | none => .did s
      | some x =>
        match s.growRun x (do let a ← get; for n in idx do arenaFree a.d.obase 256 n) with
        | .error e => growthStop e fun _ => s.growthCheck h x.map
        | .ok (_, a) => .did (a.commit x.map.core)
    | _, _ => .no) s

/-- The entries of a chain that move: key, value and hash, in chain order. -/
def movingEntries (d : MapDesc) (l s : Nat) (chain : List Bkt) : List (Nat × Nat) :=
  chain.flatMap fun k => ((k.entries d).filter fun i => moves d l s (k.key d i)).map fun i => (k.key d i, k.val d i)

/-- Places entries in the new chain, drawing on the reservation. -/
def placeAll (d : MapDesc) (chain : List Bkt) (reserved : List Nat) : List (Nat × Nat) → AM (List Bkt × List Nat)
  | [] => return (chain, reserved)
  | (key, val) :: r => do
    match ← placeIn (pure reserved.head?) chain (fingerprint (d.hash key)) key val with
    | none => return (chain, reserved)
    | some c => placeAll d c (if chain.length < c.length then reserved.drop 1 else reserved) r

/-- The old chain without the moved entries: moved slots zeroed, and counts. -/
def clearMoved (d : MapDesc) (l s : Nat) (k : Bkt) : Bkt :=
  let k' := ((k.entries d).filter fun i => moves d l s (k.key d i)).foldl (fun k i => k.clear d i) k
  k'.setCount (popcount 64 k'.occ)

/-- Links the buckets of a chain that are kept. -/
def relink : List Bkt → List Bkt
  | [] => []
  | k :: r =>
    match relink r with
    | [] => [k.link 0]
    | n :: t => k.link n.idx :: n :: t

/-- The move of a split (R121 steps 5 to 7): the new chain, the old chain tidied, both open; the answer lists the
buckets to give back. -/
def splitMove (x : Growth) : AM (List Nat × Nat) := do
  let a ← get
  let d := a.d
  let chain ← readChain x.s
  let new0 : Bkt := { va := d.bucketVa (x.s + 2 ^ x.l), idx := 0, b := emptyBucket }
  let (new, unused) ← placeAll d [new0.put 8 [BitVec.ofNat 8 (x.l + 1)]] x.reserved (movingEntries d x.l x.s chain)
  for k in new do writeBkt k
  let cleared := chain.map (clearMoved d x.l x.s)
  let kept := relink (cleared.filter fun k => k.idx == 0 || k.occ != 0)
  let total := (kept.map fun k => popcount 64 k.occ).foldl (· + ·) 0
  let k0 := bktAt kept 0
  let kept := kept.set 0 (((k0.setCount total).put 8 [BitVec.ofNat 8 (x.l + 1)]).put 9 [BitVec.ofNat 8 (maskClear k0.bfl 3)])
  for k in kept do writeBkt k
  let gone := (cleared.filter fun k => k.idx != 0 && k.occ == 0).map Bkt.idx
  let back := gone ++ unused
  let pa ← if back.isEmpty then pure 0 else arenaPa d.obase
  return (back, pa)

/-- SPLIT_CREATE (R121 steps 5 to 7, R123, R143): once the moved keys' replicas are withdrawn, the entries move and
both buckets open. When it fails, the reservation is given back. -/
def execSplitCreate (g : Nat) (s : State) : Out :=
  match s.growths[g]? with
  | none => .next s
  | some x =>
    if x.stage ≠ 3 then .next s
    else
      let h := homeOf x.pa
      match s.growRun x (splitMove x) with
      | .error (.wait s) => .next s
      | .error (.fail _) =>
        match s.growRun x (do let a ← get; arenaPa a.d.obase) with
        | .ok (pa, a) => .next ((a.s.giveBack g x pa x.reserved).growthFault g x)
        | .error (.wait s) => .next s
        | .error (.fail _) => .next (s.growthFault g x)
      | .ok ((back, pa), a) =>
        let hot := s.movingMarks x a.d
        if hot.any fun k => !k.busy then
          .next (hot.foldl (fun s k => if k.busy then s else s.withdraw h k.map k.key) s)
        else if hot.any fun k => k.acks != 0 then .next s
        else
          let s := hot.foldl (fun s k => s.dropMark h k.map k.key) (a.commit x.map.core)
          .next ((s.giveBack g x pa back).splitReport g x true false)

/-- SPLIT_REPORT (R121 step 8, R123): the descriptor advances, stays, or stops growing; a slot that was released keeps its
bytes (R58). -/
def execSplitReport (k : Nat) (s : State) : Out :=
  waitingStep k (fun p s =>
    match p.body with
    | .splitReport g done fault =>
      match s.growths[g]? with
      | none => .did s
      | some x =>
        let ended := s.setGrowth g { x with stage := 5 }
        match s.mapAt x.map with
        | .error e => growthStop e fun _ => ended
        | .ok d =>
          match s.ready [(x.map.slot, 64)] true with
          | .wait s => .wait s
          | .ok =>
            let old := (s.byteNow (x.map.slot + 1)).toNat
            let s := ended.engineWrite (x.map.slot + 1) [BitVec.ofNat 8 (maskClear old 1 ||| (if fault then 4 else 0))]
            if !done then .did s
            else
              let full := decide (d.s + 1 = 2 ^ d.l)
              let l := if full then d.l + 1 else d.l
              let sp := if full then 0 else d.s + 1
              .did ((s.engineWrite (x.map.slot + 7) [BitVec.ofNat 8 l]).engineWrite (x.map.slot + 24) (leBytes 4 sp))
    | _ => .no) s

end Sys2Proof.Machine
end

