-- ==== Sys2Proof/Machine/Pages.lean ====
section
/-! DEFINITION. Key-page summaries: PGSUM, PGCLR, PGBOUND and PGPICK (R239–R243). -/

namespace Sys2Proof.Machine

/-! ## The argument block (R240) -/

/-- A checked block: descriptor, first page, page count. -/
inductive PgBlock where
  | ok (kp : KeyPage) (p0 n : Nat) (s : State)
  | wait (s : State)
  | trap (code : Nat) (v : W)
  deriving DecidableEq, Repr

/-- The checks that every PG instruction makes: the handle, then the page count. -/
def Vx.pgBlock (vx : Vx) (a : Reg) : PgBlock :=
  match vx.keys (vx.x 1 a) with
  | .trap code v => .trap code v
  | .wait s => .wait s
  | .ok _ kp s =>
    let n := vx.x 3 (a + 2)
    if n.toNat = 0 ∨ 64 < n.toNat then .trap cILLEGAL n else .ok kp (vx.x 3 (a + 1)).toNat n.toNat s

/-- The offset of an own-scratchpad address of the block, checked in R222's order: ADDR, ALIGN, ADDR, WINDOW (R240). -/
def pgAddr (c : Nat) (sup : Bool) (l : Local) (a : W) (al n : Nat) : Except (Nat × W) Nat :=
  match ownPlace c sup a with
  | .error e => .error e
  | .ok (w, off) =>
    if a.toNat % al ≠ 0 then .error (cALIGN, a)
    else if 2 ^ 18 < off + n then .error (cADDR, a)
    else if 12 < w ∨ !l.configured w ∨ Config.spadSize < off + n then .error (cWINDOW, a)
    else .ok off

/-- The pages p0 … p0 + n − 1 that exist. -/
def KeyPage.pagesOf (kp : KeyPage) (p0 n : Nat) : List Nat := (rangeFrom p0 n).filter (· < kp.npages)

/-- Translates ranges for a PG instruction; a range beyond the address space is ADDR. -/
def Vx.pgRanges (vx : Vx) (write : Bool) (l : List (Nat × Nat)) : Except (Nat × W) (Except State (List (List (Nat × Nat × Nat)))) :=
  match l.find? fun r => decide (2 ^ 56 < r.1 + r.2) with
  | some r => .error (cADDR, w64 r.1)
  | none => translateAll vx.s vx.c vx.sup write l

/-- Keeps what an instruction of several steps has done so far, and stays at it. -/
def Vx.keep (vx : Vx) (s : State) (got : List (List Byte)) : VRet :=
  .wait (s.onCore vx.c fun k => { k with vu := { k.vu with reply := some got } })

/-! ## PGSUM and PGCLR (R239) -/

/-- The channels of a page's tokens, folded by the rules of R238 from the empty state. -/
def KeyPage.fold (kp : KeyPage) (bytes : List Byte) : List (Nat × Nat) :=
  let n := leNat bytes
  let code := fun (e : Nat) => lane (8 * kp.es) n e
  let value := fun (e : Nat) => if kp.fmt = .bf16 then code e else sBF16.convert rne false (kp.fmt.value (fun _ => 0) (code e))
  (List.range kp.d).map fun j =>
    (List.range 64).foldl (fun mm t => widenBy mm (value (t * kp.d + j))) (0x7F80, 0xFF80)

/-- PGSUM and PGCLR: every page's data is read line by line, then every summary is written, each as one step; the
order across pages is assumption 23. -/
def pgWrite (a : Reg) (sum : Bool) (vx : Vx) : VRet :=
  match vx.pgBlock a with
  | .trap code v => .trap code v
  | .wait s => .wait s
  | .ok kp p0 n s =>
    let vx := { vx with s := s }
    let ps := kp.pagesOf p0 n
    let got := vx.k.vu.reply.getD []
    let data := if sum then ps.map fun p => (kp.pbase + p * kp.pstride, kp.size) else []
    match vx.pgRanges true (ps.map kp.summary), vx.pgRanges false data with
    | .error (code, v), _ | .ok _, .error (code, v) => if got.isEmpty then .trap code v else .done vx.s
    | .ok (.error s), _ | .ok (.ok _), .ok (.error s) => .wait s
    | .ok (.ok sums), .ok (.ok rows) =>
      let runs := rows.flatten
      match runs[got.length]? with
      | some r =>
        if vx.k.ungrantedIn (runs ++ sums.flatten) then .wait vx.s
        else
          match vx.s.ready [(r.2.1, r.2.2)] false with
          | .wait s => .wait s
          | .ok =>
            match vx.s.badRun [r] with
            | some v => .trap cPOISON (w64 v)
            | none => vx.keep (vx.s.dropCopies vx.c [(r.2.1, r.2.2)]) (got ++ [vx.s.bytesNow r.2.1 r.2.2])
      | none =>
        let i := got.length - runs.length
        match ps[i]? with
        | none => .done vx.s
        | some p =>
          if vx.k.ungrantedIn sums.flatten then .wait vx.s
          else
            let bytes := ((got.take runs.length).flatten.drop (i * kp.size)).take kp.size
            let new := if sum then kp.fold bytes else List.replicate kp.d (0x7F80, 0xFF80)
            let (made, s) := vx.summaryStep kp p false fun _ => new
            if made then vx.keep s (got ++ [[]]) else .wait s

/-- PGSUM (R239). -/
def execPgsum (f : Ra) (s : State) : Out :=
  vector (.plain (.pgsum f) false f.g (([0, 1, 2] : List Reg).map (f.a + ·))) (pgWrite f.a true) s
/-- PGCLR (R239). -/
def execPgclr (f : Ra) (s : State) : Out :=
  vector (.plain (.pgclr f) false f.g (([0, 1, 2] : List Reg).map (f.a + ·))) (pgWrite f.a false) s

/-! ## PGBOUND (R241) -/

/-- Rounding toward +∞. -/
def rup : Rnd := ⟨3, 0⟩

/-- Whether a channel is empty (R239). -/
def emptyChannel (mm : Nat × Nat) : Bool := mm.1 == 0x7F80 && mm.2 == 0xFF80

/-- The upper bound of one page (R241); `none` before the first channel, `true` when the loop has stopped. -/
def pageBound (q : List Nat) (l : List (Nat × Nat)) : Nat :=
  let up := fun (v : FVal) => sF32.decode (sF32.convert rup false v)
  let step := fun (acc : Option FVal × Bool) (e : Nat × (Nat × Nat)) =>
    if acc.2 then acc
    else
      let qv := sBF16.decode e.1
      let lo := sBF16.decode e.2.1
      let hi := sBF16.decode e.2.2
      let a := up (qv.mul lo)
      let b := up (qv.mul hi)
      let t := if emptyChannel e.2 || qv.isZero then FVal.ex false 0 0
        else if a.isNan || b.isNan then .nan
        else if a.orderLe b then b else a
      let s := match acc.1 with
        | none => t
        | some s => up (s.add 3 t)
      if qv.isNan || lo.isNan || hi.isNan || t.isNan || s.isNan then (some (.inf false), true) else (some s, false)
  if l.all emptyChannel then sF32.infCode true
  else sF32.convert rne false (((q.zip l).foldl step (none, false)).1.getD (.ex false 0 0))

/-- PGBOUND: the query in one arrival, then each summary as one step. -/
def execPgbound (f : Rba) (s : State) : Out :=
  vector (.plain (.pgbound f) false f.g (([0, 1, 2, 3] : List Reg).map (f.a + ·))) (fun vx =>
    match vx.pgBlock f.a with
    | .trap code v => .trap code v
    | .wait s => .wait s
    | .ok kp p0 n s =>
      let vx := { vx with s := s }
      let q := vx.x 3 (f.a + 3)
      match pgAddr vx.c vx.sup vx.k.lcl q 64 (2 * kp.d) with
      | .error (code, v) => .trap code v
      | .ok off =>
        match vx.pgRanges false ((kp.pagesOf p0 n).map kp.summary) with
        | .error (code, v) => .trap code v
        | .ok (.error s) => .wait s
        | .ok (.ok sums) =>
          match vx.k.vu.reply with
          | none =>
            if vx.k.ungrantedIn sums.flatten then .wait vx.s
            else vx.ownPort [⟨false, off, off + 2 * kp.d⟩] fun vx =>
              match vx.k.lcl.firstPoison off (2 * kp.d) with
              | some o => .trap cPOISON (atOffset q off o)
              | none => vx.keep vx.s [vx.k.lcl.spad.readN off (2 * kp.d)]
          | some got =>
            let i := got.length - 1
            if n ≤ i then
              let v := ofLanes 32 ((List.range 64).map fun j => if j < n then leNat (got.getD (j + 1) []) else sF32.infCode true)
              .done (vx.s.onCore vx.c fun k => { k with vu := k.vu.setReg f.b.toNat v })
            else if kp.npages ≤ p0 + i then vx.keep vx.s (got ++ [leBytes 4 (sF32.infCode true)])
            else
              let runs := sums.getD i []
              match vx.s.readyHome (runs.map fun x => (x.2.1, x.2.2)) false with
              | .wait s => .wait s
              | .ok =>
                match vx.s.badRun runs with
                | some v => .trap cPOISON (w64 v)
                | none =>
                  let bytes := runs.flatMap fun x => vx.s.bytesNow x.2.1 x.2.2
                  let query := (List.range kp.d).map fun j => lane 16 (leNat (got.headD [])) j
                  vx.keep (vx.s.dropCopies vx.c (runs.map fun x => (x.2.1, x.2.2)))
                    (got ++ [leBytes 4 (pageBound query (kp.channels bytes))])) s

/-! ## PGPICK (R242) -/

/-- Whether `i` goes before `j` in top-k order: the greater bound, then the lower index. -/
def pickBefore (v : Nat → FVal) (i j : Nat) : Bool :=
  (v j).lt (v i) || ((v i).eqv (v j) && decide (i < j))

/-- The pages that PGPICK selects, rising. -/
def pickPages (v : Nat → FVal) (n : Nat) (mask : W) (top : Bool) (k : Nat) (thr : FVal) : List Nat :=
  let cands := (List.range n).filter fun i => mask.getLsbD i && (FVal.inf true).lt (v i)
  if top then cands.filter fun i => decide ((cands.filter fun j => pickBefore v j i).length < k)
  else cands.filter fun i => thr.le (v i)

/-- PGPICK. -/
def execPgpick (f : Rba) (s : State) : Out :=
  vector (.plain (.pgpick f) false f.g (([0, 1, 2, 4, 5, 6, 7] : List Reg).map (f.a + ·))) (fun vx =>
    match vx.pgBlock f.a with
    | .trap code v => .trap code v
    | .wait s => .wait s
    | .ok kp p0 n s =>
      let vx := { vx with s := s }
      let m := vx.x 3 (f.a + 4)
      let thr := vx.x 3 (f.a + 5)
      let dst := vx.x 3 (f.a + 7)
      let top := m.getLsbD 63
      let k := m.bits 6 0
      if m.bits 62 7 ≠ 0 ∨ (if top then k = 0 ∨ 64 < k else k ≠ 0) then .trap cILLEGAL m
      else if thr.bits 63 32 ≠ 0 then .trap cILLEGAL thr
      else
        match pgAddr vx.c vx.sup vx.k.lcl dst 8 528 with
        | .error (code, v) => .trap code v
        | .ok off =>
          vx.ownPort [⟨false, off, off + 528⟩] fun vx =>
            let lanes := vx.k.vu.reg f.b.toNat
            let sel := pickPages (fun i => sF32.decode (lane 32 lanes i)) n (vx.x 3 (f.a + 6)) top k (sF32.decode thr.toNat)
            let words := sel.length :: sel.foldl maskSet 0 :: sel.map fun i => (p0 + i) * kp.pstride
            .done (vx.s.onCore vx.c fun k =>
              { k with lcl := k.lcl.writeSpad off (words.flatMap (leBytes 8)) })) s

end Sys2Proof.Machine
end

