-- ==== Sys2Proof/Machine/Power.lean ====
section
/-! DEFINITION. The power manager (R366, R367) and the resets (R368). -/

namespace Sys2Proof.Machine

/-- The clock of a die in MHz. -/
def State.clock (s : State) (d : Nat) : Nat := Tbl.getD s.clocks d Config.clockMax

/-- Sets the clock of a die, and records the change (R366). -/
def State.setClock (s : State) (d mhz : Nat) : State :=
  { s with clocks := Tbl.put Config.clockMax s.clocks d mhz, log := s.log ++ [LogEntry.clock d mhz] }

/-- The four dies. -/
def allDies : List Nat := [0, 1, 2, 3]

/-- The die with the greatest value, the lowest-numbered of equals (assumption 41). -/
def topDie (f : Nat → Nat) : Nat := allDies.foldl (fun a d => if f a < f d then d else a) 0

/-- Whether every die runs at 1.0 GHz. -/
def State.allSlow (s : State) : Bool := allDies.all fun d => decide (s.clock d ≤ Config.clockMin)

/-- POWER_TICK (R366): `total` is the estimate of module input power in watts, `dies` those of the dies. Ticks above the
limit with every die at 1.0 GHz are counted for R367. -/
def execPowerTick (total : Nat) (dies : List Nat) (s : State) : Out :=
  if 2800 < total then
    if s.allSlow then .next { s with hot := s.hot + 1 }
    else
      let s := { s with hot := 0 }
      let d := topDie fun d => dies.getD d 0
      .next (if Config.clockMin < s.clock d then s.setClock d (s.clock d - Config.clockStep) else s)
  else
    let s := { s with hot := 0 }
    if total < 2660 then
      let d := topDie fun d => Config.clockMax - s.clock d
      .next (if s.clock d < Config.clockMax then s.setClock d (s.clock d + Config.clockStep) else s)
    else .next s

/-- A machine check on every management core. -/
def State.checkAll (s : State) (m : MCheck) : State := allDies.foldl (fun s d => s.machineCheck d m) s

/-- POWER_LIMIT_TIMEOUT (R367): the estimate stayed above the limit for 1 ms at the lowest clocks. -/
def execPowerLimitTimeout (s : State) : Out := .next (if s.hot < Config.hotTicks then s else s.checkAll .power)

/-- JUNCTION_OVERTEMP (R367). -/
def execJunctionOvertemp (die : Nat) (s : State) : Out :=
  .next (if 4 ≤ die then s else s.checkAll (.overTemp die))

/-! ## Resets (R368) -/

/-- What both resets leave: every register at its Reset value, slices and L1s clear, no context. Host memory, the
signatures spent and the installed patch are outside of it; with a patch that fails its check, ROM alone runs
(assumption 42). The host's writes that wait are lost, and its link is not yet up. -/
def State.afterReset (s : State) (patchOk : Bool) : State :=
  { State.reset with
    turn := s.turn, tick := s.tick, fresh := s.fresh, hostMem := s.hostMem, booting := true,
    fw := { Firmware.reset with patchVersion := s.fw.patchVersion, patchDigest := if patchOk then s.fw.patchDigest else 0,
                                lmsUsed := s.fw.lmsUsed } }

/-- COLD_RESET (R368): every HBM granule is zero, and every page in device bias. -/
def execColdReset (patchOk : Bool) (s : State) : Out := .next (s.afterReset patchOk)

/-- Step 6 of a reset completes: BAR0 and BAR2 are served (R368). -/
def servedStep (s : State) : Out := .next { s with booting := false }

/-- Every queued controller write reaches memory. -/
def State.drainCtls (s : State) : State :=
  { s with mem := s.ctls.foldl (fun m e => e.2.foldl (fun m r => r.write.foldl (fun m w => m.write w.1 w.2) m) m) s.mem }

/-- A slice over a warm reset: its filters and its count of misses stay (R35). -/
def Slice.warm (x : Slice) : Slice :=
  { Slice.reset with filterA := x.filterA, filterB := x.filterB, activeB := x.activeB, missCount := x.missCount }

/-- WARM_RESET (R368): the cleaning engine writes back what slices and L1s hold (R101); HBM contents, poison and bias
are kept, and the filters, which only a cold reset clears. -/
def execWarmReset (patchOk : Bool) (s : State) : Out :=
  let t := (s.clean fun _ => true).drainCtls
  let t := (t.hostSectors.filter fun e => e.2 == .m || e.2 == .o).foldl (fun t e => t.sectorBack e.1) t
  let inHbm := fun (a : Nat) => decide (a < Config.hbmSize)
  .next { s.afterReset patchOk with
    mem := t.mem.filter (fun e => inHbm e.1), poison := t.poison.filter (fun e => inHbm (e.1 * 64)),
    latent := t.latent.filter (fun e => inHbm (e.1 * 64)), hostBias := t.hostBias, hostMem := t.hostMem,
    slices := s.slices.map fun e => (e.1, e.2.warm) }

end Sys2Proof.Machine
end

