-- ==== Sys2Proof/Machine/Dispatch.lean ====
section
/-! DEFINITION. The dispatch: one arm per row of the opcode table, each one direct call of the row's meaning. -/

namespace Sys2Proof.Machine

def exec (i : Instr) (s : State) : Host.Outcome State Fault Refusal :=
  match i with
  | .add f => Sys2Proof.Machine.execAdd f s
  | .addLit f => Sys2Proof.Machine.execAddLit f s
  | .sub f => Sys2Proof.Machine.execSub f s
  | .subLit f => Sys2Proof.Machine.execSubLit f s
  | .min f => Sys2Proof.Machine.execMin f s
  | .minLit f => Sys2Proof.Machine.execMinLit f s
  | .max f => Sys2Proof.Machine.execMax f s
  | .maxLit f => Sys2Proof.Machine.execMaxLit f s
  | .minu f => Sys2Proof.Machine.execMinu f s
  | .minuLit f => Sys2Proof.Machine.execMinuLit f s
  | .maxu f => Sys2Proof.Machine.execMaxu f s
  | .maxuLit f => Sys2Proof.Machine.execMaxuLit f s
  | .andn f => Sys2Proof.Machine.execAndn f s
  | .andnLit f => Sys2Proof.Machine.execAndnLit f s
  | .bfx f => Sys2Proof.Machine.execBfx f s
  | .bfxLit f => Sys2Proof.Machine.execBfxLit f s
  | .and f => Sys2Proof.Machine.execAnd f s
  | .andLit f => Sys2Proof.Machine.execAndLit f s
  | .or f => Sys2Proof.Machine.execOr f s
  | .orLit f => Sys2Proof.Machine.execOrLit f s
  | .xor f => Sys2Proof.Machine.execXor f s
  | .xorLit f => Sys2Proof.Machine.execXorLit f s
  | .bfi f => Sys2Proof.Machine.execBfi f s
  | .bfiLit f => Sys2Proof.Machine.execBfiLit f s
  | .shl f => Sys2Proof.Machine.execShl f s
  | .shlLit f => Sys2Proof.Machine.execShlLit f s
  | .shr f => Sys2Proof.Machine.execShr f s
  | .shrLit f => Sys2Proof.Machine.execShrLit f s
  | .sar f => Sys2Proof.Machine.execSar f s
  | .sarLit f => Sys2Proof.Machine.execSarLit f s
  | .rol f => Sys2Proof.Machine.execRol f s
  | .rolLit f => Sys2Proof.Machine.execRolLit f s
  | .mul f => Sys2Proof.Machine.execMul f s
  | .mulLit f => Sys2Proof.Machine.execMulLit f s
  | .mulh f => Sys2Proof.Machine.execMulh f s
  | .mulhLit f => Sys2Proof.Machine.execMulhLit f s
  | .mulhu f => Sys2Proof.Machine.execMulhu f s
  | .mulhuLit f => Sys2Proof.Machine.execMulhuLit f s
  | .xyaddr f => Sys2Proof.Machine.execXyaddr f s
  | .xyaddrLit f => Sys2Proof.Machine.execXyaddrLit f s
  | .div f => Sys2Proof.Machine.execDiv f s
  | .divLit f => Sys2Proof.Machine.execDivLit f s
  | .divu f => Sys2Proof.Machine.execDivu f s
  | .divuLit f => Sys2Proof.Machine.execDivuLit f s
  | .rem f => Sys2Proof.Machine.execRem f s
  | .remLit f => Sys2Proof.Machine.execRemLit f s
  | .remu f => Sys2Proof.Machine.execRemu f s
  | .remuLit f => Sys2Proof.Machine.execRemuLit f s
  | .clz f => Sys2Proof.Machine.execClz f s
  | .ctz f => Sys2Proof.Machine.execCtz f s
  | .popc f => Sys2Proof.Machine.execPopc f s
  | .ext f => Sys2Proof.Machine.execExt f s
  | .sel f => Sys2Proof.Machine.execSel f s
  | .selLit f => Sys2Proof.Machine.execSelLit f s
  | .wfld f => Sys2Proof.Machine.execWfld f s
  | .wfldLit f => Sys2Proof.Machine.execWfldLit f s
  | .cmp f => Sys2Proof.Machine.execCmp f s
  | .cmpLit f => Sys2Proof.Machine.execCmpLit f s
  | .addi f => Sys2Proof.Machine.execAddi f s
  | .addiLit f => Sys2Proof.Machine.execAddiLit f s
  | .andi f => Sys2Proof.Machine.execAndi f s
  | .andiLit f => Sys2Proof.Machine.execAndiLit f s
  | .ori f => Sys2Proof.Machine.execOri f s
  | .oriLit f => Sys2Proof.Machine.execOriLit f s
  | .xori f => Sys2Proof.Machine.execXori f s
  | .xoriLit f => Sys2Proof.Machine.execXoriLit f s
  | .shli f => Sys2Proof.Machine.execShli f s
  | .shri f => Sys2Proof.Machine.execShri f s
  | .sari f => Sys2Proof.Machine.execSari f s
  | .cmpi f => Sys2Proof.Machine.execCmpi f s
  | .cmpiLit f => Sys2Proof.Machine.execCmpiLit f s
  | .movi f => Sys2Proof.Machine.execMovi f s
  | .moviLit f => Sys2Proof.Machine.execMoviLit f s
  | .movhi f => Sys2Proof.Machine.execMovhi f s
  | .movhiLit f => Sys2Proof.Machine.execMovhiLit f s
  | .faddF32 f => Sys2Proof.Machine.execFaddF32 f s
  | .fsubF32 f => Sys2Proof.Machine.execFsubF32 f s
  | .fmulF32 f => Sys2Proof.Machine.execFmulF32 f s
  | .fdivF32 f => Sys2Proof.Machine.execFdivF32 f s
  | .faddF64 f => Sys2Proof.Machine.execFaddF64 f s
  | .fsubF64 f => Sys2Proof.Machine.execFsubF64 f s
  | .fmulF64 f => Sys2Proof.Machine.execFmulF64 f s
  | .fdivF64 f => Sys2Proof.Machine.execFdivF64 f s
  | .fsqrtF32 f => Sys2Proof.Machine.execFsqrtF32 f s
  | .fminF32 f => Sys2Proof.Machine.execFminF32 f s
  | .fmaxF32 f => Sys2Proof.Machine.execFmaxF32 f s
  | .fsqrtF64 f => Sys2Proof.Machine.execFsqrtF64 f s
  | .fminF64 f => Sys2Proof.Machine.execFminF64 f s
  | .fmaxF64 f => Sys2Proof.Machine.execFmaxF64 f s
  | .ffmaF32 f => Sys2Proof.Machine.execFfmaF32 f s
  | .ffmaF64 f => Sys2Proof.Machine.execFfmaF64 f s
  | .fcmp f => Sys2Proof.Machine.execFcmp f s
  | .fcvt f => Sys2Proof.Machine.execFcvt f s
  | .br f => Sys2Proof.Machine.execBr f s
  | .brLit f => Sys2Proof.Machine.execBrLit f s
  | .bp f => Sys2Proof.Machine.execBp f s
  | .bpLit f => Sys2Proof.Machine.execBpLit f s
  | .j f => Sys2Proof.Machine.execJ f s
  | .jLit f => Sys2Proof.Machine.execJLit f s
  | .jl f => Sys2Proof.Machine.execJl f s
  | .jlLit f => Sys2Proof.Machine.execJlLit f s
  | .jr f => Sys2Proof.Machine.execJr f s
  | .jlr f => Sys2Proof.Machine.execJlr f s
  | .plog f => Sys2Proof.Machine.execPlog f s
  | .pset f => Sys2Proof.Machine.execPset f s
  | .pget f => Sys2Proof.Machine.execPget f s
  | .pcnt f => Sys2Proof.Machine.execPcnt f s
  | .repb f => Sys2Proof.Machine.execRepb f s
  | .repe => Sys2Proof.Machine.execRepe s
  | .ld f => Sys2Proof.Machine.execLd f s
  | .ldLit f => Sys2Proof.Machine.execLdLit f s
  | .ldAcq f => Sys2Proof.Machine.execLdAcq f s
  | .ldAcqLit f => Sys2Proof.Machine.execLdAcqLit f s
  | .st f => Sys2Proof.Machine.execSt f s
  | .stLit f => Sys2Proof.Machine.execStLit f s
  | .stRel f => Sys2Proof.Machine.execStRel f s
  | .stRelLit f => Sys2Proof.Machine.execStRelLit f s
  | .ldx f => Sys2Proof.Machine.execLdx f s
  | .stx f => Sys2Proof.Machine.execStx f s
  | .ldp f => Sys2Proof.Machine.execLdp f s
  | .ldpLit f => Sys2Proof.Machine.execLdpLit f s
  | .stp f => Sys2Proof.Machine.execStp f s
  | .stpLit f => Sys2Proof.Machine.execStpLit f s
  | .amoW f => Sys2Proof.Machine.execAmoW f s
  | .amoD f => Sys2Proof.Machine.execAmoD f s
  | .casW f => Sys2Proof.Machine.execCasW f s
  | .casD f => Sys2Proof.Machine.execCasD f s
  | .cas2 f => Sys2Proof.Machine.execCas2 f s
  | .cwb f => Sys2Proof.Machine.execCwb f s
  | .cinv f => Sys2Proof.Machine.execCinv f s
  | .rld f => Sys2Proof.Machine.execRld f s
  | .rldLit f => Sys2Proof.Machine.execRldLit f s
  | .rst f => Sys2Proof.Machine.execRst f s
  | .rstLit f => Sys2Proof.Machine.execRstLit f s
  | .ramoW f => Sys2Proof.Machine.execRamoW f s
  | .ramoD f => Sys2Proof.Machine.execRamoD f s
  | .send f => Sys2Proof.Machine.execSend f s
  | .sendw f => Sys2Proof.Machine.execSendw f s
  | .sendc f => Sys2Proof.Machine.execSendc f s
  | .mrd f => Sys2Proof.Machine.execMrd f s
  | .tswap f => Sys2Proof.Machine.execTswap f s
  | .mxcmd f => Sys2Proof.Machine.execMxcmd f s
  | .capset f => Sys2Proof.Machine.execCapset f s
  | .get f => Sys2Proof.Machine.execGet f s
  | .put f => Sys2Proof.Machine.execPut f s
  | .getx f => Sys2Proof.Machine.execGetx f s
  | .putx f => Sys2Proof.Machine.execPutx f s
  | .putxa f => Sys2Proof.Machine.execPutxa f s
  | .putr f => Sys2Proof.Machine.execPutr f s
  | .mcast f => Sys2Proof.Machine.execMcast f s
  | .slotret f => Sys2Proof.Machine.execSlotret f s
  | .sbind f => Sys2Proof.Machine.execSbind f s
  | .cwait f => Sys2Proof.Machine.execCwait f s
  | .ldf f => Sys2Proof.Machine.execLdf f s
  | .ldfLit f => Sys2Proof.Machine.execLdfLit f s
  | .ldfe f => Sys2Proof.Machine.execLdfe f s
  | .ldfeLit f => Sys2Proof.Machine.execLdfeLit f s
  | .stf f => Sys2Proof.Machine.execStf f s
  | .stfLit f => Sys2Proof.Machine.execStfLit f s
  | .feclr f => Sys2Proof.Machine.execFeclr f s
  | .mprobe f => Sys2Proof.Machine.execMprobe f s
  | .minsert f => Sys2Proof.Machine.execMinsert f s
  | .mupsert f => Sys2Proof.Machine.execMupsert f s
  | .mremove f => Sys2Proof.Machine.execMremove f s
  | .mcas f => Sys2Proof.Machine.execMcas f s
  | .mprobev f => Sys2Proof.Machine.execMprobev f s
  | .mupsertv f => Sys2Proof.Machine.execMupsertv f s
  | .mrowget f => Sys2Proof.Machine.execMrowget f s
  | .mrowput f => Sys2Proof.Machine.execMrowput f s
  | .mscan f => Sys2Proof.Machine.execMscan f s
  | .mstat f => Sys2Proof.Machine.execMstat f s
  | .mrepl f => Sys2Proof.Machine.execMrepl f s
  | .vadd f => Sys2Proof.Machine.execVadd f s
  | .vsub f => Sys2Proof.Machine.execVsub f s
  | .vmul f => Sys2Proof.Machine.execVmul f s
  | .vfma f => Sys2Proof.Machine.execVfma f s
  | .vfms f => Sys2Proof.Machine.execVfms f s
  | .vfnma f => Sys2Proof.Machine.execVfnma f s
  | .vdiv f => Sys2Proof.Machine.execVdiv f s
  | .vmin f => Sys2Proof.Machine.execVmin f s
  | .vmax f => Sys2Proof.Machine.execVmax f s
  | .vand f => Sys2Proof.Machine.execVand f s
  | .vor f => Sys2Proof.Machine.execVor f s
  | .vxor f => Sys2Proof.Machine.execVxor f s
  | .vshl f => Sys2Proof.Machine.execVshl f s
  | .vshr f => Sys2Proof.Machine.execVshr f s
  | .vsar f => Sys2Proof.Machine.execVsar f s
  | .vcmp f => Sys2Proof.Machine.execVcmp f s
  | .vsel f => Sys2Proof.Machine.execVsel f s
  | .vperm f => Sys2Proof.Machine.execVperm f s
  | .vext f => Sys2Proof.Machine.execVext f s
  | .vins f => Sys2Proof.Machine.execVins f s
  | .vdot4I8 f => Sys2Proof.Machine.execVdot4I8 f s
  | .vdot4N8 f => Sys2Proof.Machine.execVdot4N8 f s
  | .vmov f => Sys2Proof.Machine.execVmov f s
  | .vabs f => Sys2Proof.Machine.execVabs f s
  | .vneg f => Sys2Proof.Machine.execVneg f s
  | .vsqrt f => Sys2Proof.Machine.execVsqrt f s
  | .vrcp f => Sys2Proof.Machine.execVrcp f s
  | .vrsq f => Sys2Proof.Machine.execVrsq f s
  | .vexp2 f => Sys2Proof.Machine.execVexp2 f s
  | .vlog2 f => Sys2Proof.Machine.execVlog2 f s
  | .vbcast f => Sys2Proof.Machine.execVbcast f s
  | .viota f => Sys2Proof.Machine.execViota f s
  | .vcomp f => Sys2Proof.Machine.execVcomp f s
  | .vlen f => Sys2Proof.Machine.execVlen f s
  | .vmovQ f => Sys2Proof.Machine.execVmovQ f s
  | .vred f => Sys2Proof.Machine.execVred f s
  | .vscan f => Sys2Proof.Machine.execVscan f s
  | .vld f => Sys2Proof.Machine.execVld f s
  | .vldLit f => Sys2Proof.Machine.execVldLit f s
  | .vst f => Sys2Proof.Machine.execVst f s
  | .vstLit f => Sys2Proof.Machine.execVstLit f s
  | .vlds f => Sys2Proof.Machine.execVlds f s
  | .vsts f => Sys2Proof.Machine.execVsts f s
  | .vldx f => Sys2Proof.Machine.execVldx f s
  | .vstx f => Sys2Proof.Machine.execVstx f s
  | .tblld f => Sys2Proof.Machine.execTblld f s
  | .winset f => Sys2Proof.Machine.execWinset f s
  | .vcvt f => Sys2Proof.Machine.execVcvt f s
  | .vdec f => Sys2Proof.Machine.execVdec f s
  | .venc f => Sys2Proof.Machine.execVenc f s
  | .vqnt f => Sys2Proof.Machine.execVqnt f s
  | .vdqnt f => Sys2Proof.Machine.execVdqnt f s
  | .mma f => Sys2Proof.Machine.execMma f s
  | .mmat f => Sys2Proof.Machine.execMmat f s
  | .tzero f => Sys2Proof.Machine.execTzero f s
  | .tld f => Sys2Proof.Machine.execTld f s
  | .tldT f => Sys2Proof.Machine.execTldT f s
  | .tst f => Sys2Proof.Machine.execTst f s
  | .tstn f => Sys2Proof.Machine.execTstn f s
  | .trow f => Sys2Proof.Machine.execTrow f s
  | .clld f => Sys2Proof.Machine.execClld f s
  | .clrot f => Sys2Proof.Machine.execClrot f s
  | .clwait f => Sys2Proof.Machine.execClwait f s
  | .pgbound f => Sys2Proof.Machine.execPgbound f s
  | .pgpick f => Sys2Proof.Machine.execPgpick f s
  | .pgsum f => Sys2Proof.Machine.execPgsum f s
  | .pgclr f => Sys2Proof.Machine.execPgclr f s
  | .dqpush f => Sys2Proof.Machine.execDqpush f s
  | .dqpop f => Sys2Proof.Machine.execDqpop f s
  | .dqsplit f => Sys2Proof.Machine.execDqsplit f s
  | .dqsteal f => Sys2Proof.Machine.execDqsteal f s
  | .done f => Sys2Proof.Machine.execDone f s
  | .idem f => Sys2Proof.Machine.execIdem f s
  | .idemEnd f => Sys2Proof.Machine.execIdemEnd f s
  | .hset f => Sys2Proof.Machine.execHset f s
  | .hmask f => Sys2Proof.Machine.execHmask f s
  | .launch f => Sys2Proof.Machine.execLaunch f s
  | .launchH f => Sys2Proof.Machine.execLaunchH f s
  | .barv f => Sys2Proof.Machine.execBarv f s
  | .barw f => Sys2Proof.Machine.execBarw f s
  | .fenceAcq f => Sys2Proof.Machine.execFenceAcq f s
  | .fenceRel f => Sys2Proof.Machine.execFenceRel f s
  | .fenceFull f => Sys2Proof.Machine.execFenceFull f s
  | .fenceM f => Sys2Proof.Machine.execFenceM f s
  | .rfence f => Sys2Proof.Machine.execRfence f s
  | .trap f => Sys2Proof.Machine.execTrap f s
  | .rtt f => Sys2Proof.Machine.execRtt f s
  | .srd f => Sys2Proof.Machine.execSrd f s
  | .swr f => Sys2Proof.Machine.execSwr f s
  | .tlbinv f => Sys2Proof.Machine.execTlbinv f s
  | .wait f => Sys2Proof.Machine.execWait f s
  | .cAdd f => Sys2Proof.Machine.execCAdd f s
  | .cSub f => Sys2Proof.Machine.execCSub f s
  | .cAnd f => Sys2Proof.Machine.execCAnd f s
  | .cOr f => Sys2Proof.Machine.execCOr f s
  | .cXor f => Sys2Proof.Machine.execCXor f s
  | .cMov f => Sys2Proof.Machine.execCMov f s
  | .cAddi f => Sys2Proof.Machine.execCAddi f s
  | .cAddiX0 f => Sys2Proof.Machine.execCAddiX0 f s
  | .cShli f => Sys2Proof.Machine.execCShli f s
  | .cShri f => Sys2Proof.Machine.execCShri f s
  | .cSari f => Sys2Proof.Machine.execCSari f s
  | .cAndi f => Sys2Proof.Machine.execCAndi f s
  | .cLdDX2 f => Sys2Proof.Machine.execCLdDX2 f s
  | .cStDX2 f => Sys2Proof.Machine.execCStDX2 f s
  | .cLdWX2 f => Sys2Proof.Machine.execCLdWX2 f s
  | .cStWX2 f => Sys2Proof.Machine.execCStWX2 f s
  | .cLdW f => Sys2Proof.Machine.execCLdW f s
  | .cStW f => Sys2Proof.Machine.execCStW f s
  | .cLdD f => Sys2Proof.Machine.execCLdD f s
  | .cStD f => Sys2Proof.Machine.execCStD f s
  | .cBrEq f => Sys2Proof.Machine.execCBrEq f s
  | .cBrNe f => Sys2Proof.Machine.execCBrNe f s
  | .cMul f => Sys2Proof.Machine.execCMul f s
  | .cCmpEq f => Sys2Proof.Machine.execCCmpEq f s
  | .cJr f => Sys2Proof.Machine.execCJr f s
  | .cJlr f => Sys2Proof.Machine.execCJlr f s
  | .cSrd f => Sys2Proof.Machine.execCSrd f s
  | .cDone => Sys2Proof.Machine.execCDone s
  | .cRfence => Sys2Proof.Machine.execCRfence s
  | .cTrap f => Sys2Proof.Machine.execCTrap f s
  | .nop => Sys2Proof.Machine.execNop s
  | .registrationRequest k => Sys2Proof.Machine.execRegistrationRequest k s
  | .registrationGrant k => Sys2Proof.Machine.execRegistrationGrant k s
  | .loadMissRequest k => Sys2Proof.Machine.execLoadMissRequest k s
  | .filterSwap k => Sys2Proof.Machine.execFilterSwap k s
  | .forwardRequest k => Sys2Proof.Machine.execForwardRequest k s
  | .forwardAnswer k => Sys2Proof.Machine.execForwardAnswer k s
  | .sectorFill k => Sys2Proof.Machine.execSectorFill k s
  | .recall k => Sys2Proof.Machine.execRecall k s
  | .recallAnswer k => Sys2Proof.Machine.execRecallAnswer k s
  | .writeback k => Sys2Proof.Machine.execWriteback k s
  | .resendRequest k => Sys2Proof.Machine.execResendRequest k s
  | .writebackAck k => Sys2Proof.Machine.execWritebackAck k s
  | .amoAtHome k => Sys2Proof.Machine.execAmoAtHome k s
  | .tileAccessAtHome k => Sys2Proof.Machine.execTileAccessAtHome k s
  | .pageWalk k => Sys2Proof.Machine.execPageWalk k s
  | .tlbFill k => Sys2Proof.Machine.execTlbFill k s
  | .controllerSelect ctl idx => Sys2Proof.Machine.execControllerSelect ctl idx s
  | .requestPromotion ctl idx => Sys2Proof.Machine.execRequestPromotion ctl idx s
  | .patrolScrub granule => Sys2Proof.Machine.execPatrolScrub granule s
  | .hostSnoopOwnership pa => Sys2Proof.Machine.execHostSnoopOwnership pa s
  | .hostSnoopSharing pa => Sys2Proof.Machine.execHostSnoopSharing pa s
  | .cxlExchangeComplete k excl poisoned data => Sys2Proof.Machine.execCxlExchangeComplete k excl poisoned data s
  | .hostCxlMemAccess write pa len data => Sys2Proof.Machine.execHostCxlMemAccess write pa len data s
  | .flipMarker k => Sys2Proof.Machine.execFlipMarker k s
  | .biasFlipComplete page => Sys2Proof.Machine.execBiasFlipComplete page s
  | .transferPiece x piece data => Sys2Proof.Machine.execTransferPiece x piece data s
  | .ownerPortPiece k => Sys2Proof.Machine.execOwnerPortPiece k s
  | .transferCompletion x => Sys2Proof.Machine.execTransferCompletion x s
  | .barrierDecrement k => Sys2Proof.Machine.execBarrierDecrement k s
  | .slotReturn k => Sys2Proof.Machine.execSlotReturn k s
  | .roundChunkFinal group chunk remote => Sys2Proof.Machine.execRoundChunkFinal group chunk remote s
  | .peerPortFailure port reach => Sys2Proof.Machine.execPeerPortFailure port reach s
  | .memberUnreachable group => Sys2Proof.Machine.execMemberUnreachable group s
  | .remoteLoadArrival k => Sys2Proof.Machine.execRemoteLoadArrival k s
  | .remoteStoreArrival k => Sys2Proof.Machine.execRemoteStoreArrival k s
  | .remoteAtomicArrival k => Sys2Proof.Machine.execRemoteAtomicArrival k s
  | .remoteTileStoreArrival k => Sys2Proof.Machine.execRemoteTileStoreArrival k s
  | .remoteTileLoadArrival k => Sys2Proof.Machine.execRemoteTileLoadArrival k s
  | .fullEmptyArrival k => Sys2Proof.Machine.execFullEmptyArrival k s
  | .feclrArrival k => Sys2Proof.Machine.execFeclrArrival k s
  | .remoteReply k => Sys2Proof.Machine.execRemoteReply k s
  | .postedAck k => Sys2Proof.Machine.execPostedAck k s
  | .postedRefusal k => Sys2Proof.Machine.execPostedRefusal k s
  | .barrierUpdate k => Sys2Proof.Machine.execBarrierUpdate k s
  | .barrierPark k => Sys2Proof.Machine.execBarrierPark k s
  | .messageArrival k => Sys2Proof.Machine.execMessageArrival k s
  | .messageStatus k => Sys2Proof.Machine.execMessageStatus k s
  | .mxcmdArrival k => Sys2Proof.Machine.execMxcmdArrival k s
  | .mxcmdExecute c => Sys2Proof.Machine.execMxcmdExecute c s
  | .mxcmdStatus k => Sys2Proof.Machine.execMxcmdStatus k s
  | .tswapArrival k => Sys2Proof.Machine.execTswapArrival k s
  | .tswapTileArrival k => Sys2Proof.Machine.execTswapTileArrival k s
  | .latchArrival k => Sys2Proof.Machine.execLatchArrival k s
  | .ringCredit k => Sys2Proof.Machine.execRingCredit k s
  | .bulkDeadlockProbe router => Sys2Proof.Machine.execBulkDeadlockProbe router s
  | .deadlockRecovery ring => Sys2Proof.Machine.execDeadlockRecovery ring s
  | .flitReplay link again => Sys2Proof.Machine.execFlitReplay link again s
  | .linkRetrain link ok => Sys2Proof.Machine.execLinkRetrain link ok s
  | .mapRequestArrival k => Sys2Proof.Machine.execMapRequestArrival k s
  | .mapQueuedExecute k => Sys2Proof.Machine.execMapQueuedExecute k s
  | .mapReply k => Sys2Proof.Machine.execMapReply k s
  | .arenaAllocate k => Sys2Proof.Machine.execArenaAllocate k s
  | .arenaFree k => Sys2Proof.Machine.execArenaFree k s
  | .growthRequest k => Sys2Proof.Machine.execGrowthRequest k s
  | .splitCommand k => Sys2Proof.Machine.execSplitCommand k s
  | .splitLock g => Sys2Proof.Machine.execSplitLock g s
  | .splitCreate g => Sys2Proof.Machine.execSplitCreate g s
  | .splitReport k => Sys2Proof.Machine.execSplitReport k s
  | .replicaFill k => Sys2Proof.Machine.execReplicaFill k s
  | .filledReply k => Sys2Proof.Machine.execFilledReply k s
  | .replicaInvalidate k => Sys2Proof.Machine.execReplicaInvalidate k s
  | .invalidateAck k => Sys2Proof.Machine.execInvalidateAck k s
  | .replicaRead k => Sys2Proof.Machine.execReplicaRead k s
  | .taskSelect c => Sys2Proof.Machine.execTaskSelect c s
  | .hiSuspend c => Sys2Proof.Machine.execHiSuspend c s
  | .stealRound c => Sys2Proof.Machine.execStealRound c s
  | .stealBackoffExpiry c => Sys2Proof.Machine.execStealBackoffExpiry c s
  | .stealRequest k => Sys2Proof.Machine.execStealRequest k s
  | .stealAnswer k => Sys2Proof.Machine.execStealAnswer k s
  | .launchArrival k => Sys2Proof.Machine.execLaunchArrival k s
  | .launchAnswer k => Sys2Proof.Machine.execLaunchAnswer k s
  | .launchPartRetry c => Sys2Proof.Machine.execLaunchPartRetry c s
  | .pendingTrapDelivery c => Sys2Proof.Machine.execPendingTrapDelivery c s
  | .tasklessTrapDelivery c => Sys2Proof.Machine.execTasklessTrapDelivery c s
  | .serviceCall c => Sys2Proof.Machine.execServiceCall c s
  | .watchdogExpiry c => Sys2Proof.Machine.execWatchdogExpiry c s
  | .waitExpiry c => Sys2Proof.Machine.execWaitExpiry c s
  | .machineCheck idx => Sys2Proof.Machine.execMachineCheck idx s
  | .contextStop k => Sys2Proof.Machine.execContextStop k s
  | .quiesce c => Sys2Proof.Machine.execQuiesce c s
  | .idemAbort c => Sys2Proof.Machine.execIdemAbort c s
  | .saveCopy ctx => Sys2Proof.Machine.execSaveCopy ctx s
  | .launchWindowGo n arg0 arg1 go => Sys2Proof.Machine.execLaunchWindowGo n arg0 arg1 go s
  | .launchWindowPerform n => Sys2Proof.Machine.execLaunchWindowPerform n s
  | .ctxcreate h ptroot dtab areas => Sys2Proof.Machine.execCtxcreate h ptroot dtab areas s
  | .ctxdestroy h ctx => Sys2Proof.Machine.execCtxdestroy h ctx s
  | .codeload h ctx r dst image => Sys2Proof.Machine.execCodeload h ctx r dst image s
  | .runtimeload h ctx r dst tvec image digest ecdsaOk lmsOk => Sys2Proof.Machine.execRuntimeload h ctx r dst tvec image digest ecdsaOk lmsOk s
  | .descset h ctx slot desc => Sys2Proof.Machine.execDescset h ctx slot desc s
  | .descrelease h ctx slot => Sys2Proof.Machine.execDescrelease h ctx slot s
  | .preempt h ctx urgent areas => Sys2Proof.Machine.execPreempt h ctx urgent areas s
  | .restore h ctx cores => Sys2Proof.Machine.execRestore h ctx cores s
  | .biasflip h page toHost => Sys2Proof.Machine.execBiasflip h page toHost s
  | .groupset h group valid slack members => Sys2Proof.Machine.execGroupset h group valid slack members s
  | .peerbind h ctx dev fabric peerCtx valid => Sys2Proof.Machine.execPeerbind h ctx dev fabric peerCtx valid s
  | .monread h units dst => Sys2Proof.Machine.execMonread h units dst s
  | .hosttier h base size => Sys2Proof.Machine.execHosttier h base size s
  | .patchload h version digest ecdsaOk lmsOk => Sys2Proof.Machine.execPatchload h version digest ecdsaOk lmsOk s
  | .events h dst => Sys2Proof.Machine.execEvents h dst s
  | .runtimecall h ctx core a0 a1 => Sys2Proof.Machine.execRuntimecall h ctx core a0 a1 s
  | .getVersion => Sys2Proof.Machine.execGetVersion s
  | .getCapabilities => Sys2Proof.Machine.execGetCapabilities s
  | .negotiateAlgorithms sha384 p384 => Sys2Proof.Machine.execNegotiateAlgorithms sha384 p384 s
  | .getDigests => Sys2Proof.Machine.execGetDigests s
  | .getCertificate off len => Sys2Proof.Machine.execGetCertificate off len s
  | .challenge nonce => Sys2Proof.Machine.execChallenge nonce s
  | .getMeasurements index signed => Sys2Proof.Machine.execGetMeasurements index signed s
  | .powerTick total dies => Sys2Proof.Machine.execPowerTick total dies s
  | .powerLimitTimeout => Sys2Proof.Machine.execPowerLimitTimeout s
  | .junctionOvertemp die => Sys2Proof.Machine.execJunctionOvertemp die s
  | .parityError c => Sys2Proof.Machine.execParityError c s
  | .coldReset patchOk => Sys2Proof.Machine.execColdReset patchOk s
  | .warmReset patchOk => Sys2Proof.Machine.execWarmReset patchOk s
  | .srMcrWrite c k v => Sys2Proof.Machine.execSrMcrWrite c k v s
  | .waybillFree c n => Sys2Proof.Machine.execWaybillFree c n s
  | .srPendLostClear c v => Sys2Proof.Machine.execSrPendLostClear c v s
  | .srVlWrite c v => Sys2Proof.Machine.execSrVlWrite c v s
  | .srRmodeWrite c v => Sys2Proof.Machine.execSrRmodeWrite c v s
  | .srDtabWrite c v => Sys2Proof.Machine.execSrDtabWrite c v s
  | .srBudgetWrite c v => Sys2Proof.Machine.execSrBudgetWrite c v s
  | .monitorCountClear u m => Sys2Proof.Machine.execMonitorCountClear u m s
  | .registerWrite c n v => Sys2Proof.Machine.execRegisterWrite c n v s
  | .illegalEncoding word => Sys2Proof.Machine.execIllegalEncoding word s

end Sys2Proof.Machine
end

