-- ==== Sys2Proof/Machine/Turns.lean ====
section
/-! DEFINITION. What an agent does in its turn: the scalar stream of a core fetches and runs its next instruction, or does
what comes before it; the vector/matrix stream runs its oldest instruction; other agents take the step of their row. -/

namespace Sys2Proof.Machine

/-! ## Cycles (R313, R324, R329, R363) -/

/-- A block captures a level `n` times (R363). -/
def Monitor.values (m : Monitor) (v : Nat) : Nat → Monitor
  | 0 => m
  | n + 1 => (m.value v).values v n

/-- A level's samples over `n` cycles at a unit (R363). -/
def State.level (s : State) (u code v n : Nat) : State :=
  let one := fun (e : Nat × Monitor) => if e.1 / 8 = u && e.2.captures u code 2 then (e.1, e.2.values v n) else e
  { s with monitors := s.monitors.map one }

/-- Samples of a level that the model does not hold: each is a free value (R363, assumption 43). -/
def State.freeLevel (s : State) (u code : Nat) : Nat → State
  | 0 => s
  | n + 1 =>
    if s.monitors.any fun e => e.1 / 8 = u && e.2.captures u code 2 then
      let (w, s) := s.freeW
      (s.level u code w.toNat 1).freeLevel u code n
    else s

/-- Requests that wait at locked buckets of a slice (R122, R364). -/
def State.lockedQueue (s : State) (h : Nat) : Nat :=
  (s.parked.filter fun p => p.bucket.isSome && p.pkt.dst == .slice h).length

/-- The levels that `n` cycles of a core sample: its own and, on the first core of a cluster, those of the slice and of
the router, which run on the same clock. -/
def State.sampleLevels (s : State) (c n : Nat) : State :=
  let s := s.level (unitCore c) 0x06 (s.core c).unack n
  if c % 4 = 0 then
    (s.level (unitSlice (c / 4)) 0x15 (s.lockedQueue (c / 4)) n).freeLevel (unitRouter (c / 4)) 0x23 n
  else s

/-- A WAIT has `n` cycles less to go. -/
def Task.passCycles (t : Task) (n : Nat) : Task :=
  match t.wait with
  | .cycles left => { t with wait := .cycles (left - n) }
  | _ => t

/-- `n` cycles go by on a core: SR.CYC, WAITs, and the count of the task that held the core throughout, outside a
handler (R313). `held` says which bank held it before. -/
def Core.passCycles (k : Core) (n : Nat) (held : Option Bool) : Core :=
  let k := { k with regs := { k.regs with cyc := k.regs.cyc + w64 n }, lo := k.lo.map (·.passCycles n), hi := k.hi.map (·.passCycles n) }
  if k.task?.isSome && held == some k.inHi && !k.regs.inTrap then
    k.onTask k.inHi fun t => { t with count := t.count + n }
  else k

/-- The bank that holds a core. -/
def Core.held (k : Core) : Option Bool := k.task?.map fun _ => k.inHi

/-- The cycles of core `c`'s step in state `s` go by in the state `t` that the step leaves. -/
def State.elapse (s t : State) (c : Nat) : State :=
  let n := Config.cycles s.tick + 1
  (t.sampleLevels c n).onCore c fun k => k.passCycles n (s.core c).held

/-! ## The scalar stream of a core -/

/-- Whether the task's instruction at its pc may execute, or go on executing: it waits for no answer. -/
def Task.mayIssue (t : Task) : Bool := t.wait == .none || t.wait.releasing

/-- Fetches, decodes and runs the instruction at the pc (R16, R24, R30); carried code that falls through its last
halfword ends as DONE (R162). -/
noncomputable def State.runNext (s : State) (k : Core) (t : Task) : Out :=
  if t.carried && decide (t.code.length ≤ t.pc) then execCDone s
  else
    match decode (k.halves t t.pc) with
    | .ok i => exec i s
    | .error _ => execIllegalEncoding (BitVec.ofNat 32 (k.instrWord t).toNat) s

/-- The fault of the vector/matrix stream that is due (R312): outside a handler (DEDUCED, assumption 21), once the instruction
under way has no answer to wait for and nothing of it done. -/
def Core.dueVector (k : Core) (t : Task) : Option VFault :=
  if !k.inHi && t.wait == .none && !k.regs.inTrap && t.bytewise.isNone && !t.skip then k.vu.fault else none

/-- What comes before the next instruction of a task that has no answer to take: a BARV that waits for its release goes on
unless the vector/matrix stream that owes it waits (R314); an abort; the arrival of HI work; the watchdog; pending traps. -/
noncomputable def State.boundaryStep (s : State) (c : Nat) (k : Core) (t : Task) : Out :=
  if t.wait.releasing && (k.inHi || (s.blockedHead c).isNone) then s.runNext k t
  else if s.mustAbort c then execIdemAbort c s
  else if k.wantsHi then execHiSuspend c s
  else if k.overBudget t then execWatchdogExpiry c s
  else if !k.regs.pend.isEmpty && !k.regs.inTrap && !k.quiesces && t.atBoundary then execPendingTrapDelivery c s
  else if t.mayIssue then s.runNext k t
  else
    match t.wait with
    | .cycles _ => execWaitExpiry c s
    | .parts .. => execLaunchPartRetry c s
    | _ => .next s

/-- A task whose answer brought a trap takes it: a completion trap at once, an exact one when every earlier instruction has
taken its effect (R307, R370). Until then an abort or the watchdog may end the instruction. -/
def State.failStep (s : State) (c : Nat) (k : Core) (t : Task) (f : Trap) : Out :=
  if t.skip || k.drained k.inHi t then .next (s.takeFail c k.inHi t f)
  else if s.mustAbort c then execIdemAbort c s
  else if k.overBudget t then execWatchdogExpiry c s
  else .next s

/-- A step of a core that holds a task. First come the resumption or selection after a HI task, a fault of the other stream and
the trap of a failed answer. -/
noncomputable def State.taskStep (s : State) (c : Nat) (k : Core) (t : Task) : Out :=
  if !k.inHi && k.sched.resel then execTaskSelect c s
  else
    match k.dueVector t with
    | some f => .next (s.takeVector c t f)
    | none =>
      match t.fail with
      | some f => s.failStep c k t f
      | none => s.boundaryStep c k t

/-- A step of a core without a task: the task of an abort record, a pending trap, a service call, or a selection (R282,
R310, R311, R318). -/
def State.idleStep (s : State) (c : Nat) (k : Core) : Out :=
  if k.abortRec.isSome then execTaskSelect c s
  else if !k.regs.pend.isEmpty then execTasklessTrapDelivery c s
  else if !k.calls.isEmpty then execServiceCall c s
  else execTaskSelect c s

/-- A context that has never run does once a core of its runs a task (R335). -/
def State.noteRun (s : State) (k : Core) : State :=
  match k.ctx with
  | none => s
  | some ctx =>
    match s.context? ctx with
    | none => s
    | some x => if x.state == .fresh && k.task?.isSome then s.setContext ctx { x with state := .running } else s

/-- A step of core `c`'s scalar stream. A core held in reset (R367), stopped, or without a context executes nothing, and no
cycle of a core held in reset goes by. -/
noncomputable def coreStep (c : Nat) (s : State) : Out :=
  let k := s.core c
  let r : Out :=
    if s.ended || !k.alive then .next s
    else
      match k.task? with
      | some t => (s.noteRun k).taskStep c k t
      | none => s.idleStep c k
  match r with
  | .next t => .next (if s.ended then t else s.elapse t c)
  | r => r

/-! ## The vector/matrix stream and the other agents -/

/-- A step of core `c`'s vector/matrix stream: the oldest instruction passed to it (R191). -/
def vectorStep (c : Nat) (s : State) : Out :=
  let k := s.core c
  if s.ended || !k.alive then .next s
  else
    match k.vu.viq with
    | [] => .next s
    | e :: _ =>
      match e.item? with
      | none => .next s
      | some it => exec (e.current it) s

/-- Whether a row is the step of an agent of its own: not an instruction of Isdex, and not what an instruction does to a
register, which that instruction's step holds. -/
def Instr.isEvent (i : Instr) : Bool :=
  (enc i).isNone &&
  match i with
  | .srMcrWrite .. | .waybillFree .. | .srPendLostClear .. | .srVlWrite .. | .srRmodeWrite .. | .srDtabWrite ..
  | .srBudgetWrite .. | .monitorCountClear .. | .registerWrite .. | .illegalEncoding .. => false
  | _ => true

/-- Whether a row is a step of a core, which a core held in reset does not take (R367). -/
def Instr.atCore (i : Instr) : Bool :=
  match i with
  | .taskSelect _ | .hiSuspend _ | .stealRound _ | .stealBackoffExpiry _ | .launchPartRetry _ | .pendingTrapDelivery _ => true
  | .tasklessTrapDelivery _ | .serviceCall _ | .watchdogExpiry _ | .waitExpiry _ | .quiesce _ | .idemAbort _ => true
  | .mxcmdExecute _ => true
  | _ => false

/-- The step of another agent. -/
def eventStep (i : Instr) (s : State) : Out :=
  if Instr.isEvent i && !(s.ended && Instr.atCore i) then exec i s else .next s

/-- A put-off access of core `c` is performed (R245, R252). -/
def lateStep (c : Nat) (hi : Bool) (i : Nat) (s : State) : Out := .next (if s.ended then s else s.performLate c hi i)

/-- A soft error makes a granule of HBM uncorrectable, until it is read (R41, R42). -/
def upsetMemStep (g : Nat) (s : State) : Out :=
  .next (if g * 64 < Config.hbmSize then { s with latent := Tbl.put false s.latent g true } else s)

/-- A soft error poisons a scratchpad word (R152, R369). -/
def upsetSpadStep (c w : Nat) (s : State) : Out :=
  .next (if c < Config.numCores ∧ 8 * w < Config.spadSize then
    s.onCore c fun k => { k with lcl := { k.lcl with poison := Tbl.put false k.lcl.poison w true } } else s)

/-- A soft error makes a sector's data in its home slice uncorrectable: the sector is poisoned when it is read (R43, R369). -/
def upsetSliceStep (g : Nat) (s : State) : Out :=
  .next (if s.present (g / 4) then { s with latent := Tbl.put false s.latent g true } else s)

/-- A soft error makes sector `k` of a line in an L1 uncorrectable (R369). DESIGN CHOICE (assumption 92): registered words of it
go back to the home with it, where the sector is poisoned; a sector with a store under way is let be. -/
def upsetL1Step (c line k : Nat) (s : State) : Out :=
  match (s.core c).l1.line? line with
  | none => .next s
  | some x =>
    let sector := maskOf (16 * k) 16
    if 4 ≤ k ∨ x.pend &&& sector ≠ 0 ∨ (x.sv.testBit k = false ∧ x.reg &&& sector = 0) then .next s
    else
      let ws := maskList 64 (x.reg &&& sector)
      let s := if ws.isEmpty then s
        else
          let s := s.pullFrom line c ws
          { s with poison := Tbl.put false s.poison (4 * line + k) true }
      .next (s.onL1 c fun l => match l.line? line with
        | none => l
        | some y => l.setLine line { y with sv := maskSet y.sv k, psn := maskSet y.psn k })

/-- A corrected error is counted at its unit (R364, R369). -/
def correctedStep (u : Nat) (s : State) : Out :=
  .next (if u < 1024 then s else if u < 1280 then s.event u 0x14 else if u < 1536 then s else s.event u 0x32)

end Sys2Proof.Machine
end

