-- ==== Sys2Proof/Machine/Step.lean ====
section
/-! DEFINITION. One step of the module: the agent whose turn it is acts, and `Config.schedule` names the next. -/

namespace Sys2Proof.Machine

/-- The turn passes on. -/
def State.pass (s : State) : State := { s with turn := Config.schedule s.tick, tick := s.tick + 1 }

/-- What the agent whose turn it is does. -/
noncomputable def State.act (s : State) : Out :=
  match s.turn with
  | .core c _ => coreStep c s
  | .vector c => vectorStep c s
  | .event i => eventStep i s
  | .late c hi i => lateStep c hi i s
  | .reach k => .next (s.reach k)
  | .barRead off n => barReadStep off n s
  | .barWrite off bytes => barWriteStep off bytes s
  | .unknownCommand h => unknownCommandStep h s
  | .posted => postedStep s
  | .remoteJoin g i len rop rty => .next (s.remoteJoin g i len rop rty)
  | .served => servedStep s
  | .upsetMem g => upsetMemStep g s
  | .upsetSpad c w => upsetSpadStep c w s
  | .upsetSlice g => upsetSliceStep g s
  | .upsetL1 c line k => upsetL1Step c line k s
  | .corrected u => correctedStep u s

/-- One step. -/
noncomputable def step (s : State) : Host.Outcome State Fault Refusal :=
  match s.act with
  | .next t => .next t.pass
  | r => r

/-- A core made ready to fetch: it runs a context and a task that waits for nothing, with no other work. -/
def Core.toFetch (k : Core) : Core :=
  let ready := fun (t : Task) =>
    { t with wait := .none, fail := none, skip := false, stalled := false, late := [], bytewise := none, carried := false, code := [],
             stale := [], count := 0,
             pc := if t.pc + 4 ≤ Config.imemHalfwords then t.pc else 0 }
  { k with
    ctx := some (k.ctx.getD 0), stopped := false, quiescing := false, abortRec := none,
    lo := match k.hi, k.lo with
      | none, none => some (Task.enter false 0 0 [])
      | none, some t => some (ready t)
      | some _, lo => lo,
    hi := k.hi.map ready,
    vu := { k.vu with fault := none, recording := none },
    sched := { k.sched with resel := false, inbox := [], codeq := [] },
    regs := { k.regs with pend := [] } }

/-- The pc of the task that holds a core. -/
def Core.fetchPc (k : Core) : Nat := (k.task?.map (·.pc)).getD 0

/-- The halfwords of an instruction stored where core 0 fetches next, and core 0's turn (assumption 1). -/
def State.withFetchWord (s : State) (nbits w : Nat) : State :=
  let k := (s.core 0).toFetch
  let bytes := (tableHalves nbits w).flatMap fun h => leBytes 2 h.toNat
  let k := { k with lcl := { k.lcl with imem := k.lcl.imem.writeN (2 * k.fetchPc) bytes } }
  { s.setCore 0 k with turn := .core 0 false, ended := false }

end Sys2Proof.Machine
end

