-- ==== Sys2Proof/Safety.lean ====
section
/-! DEFINITION. The terms that claims use: when an instruction may issue, what its completion leaves, the memory a
step keeps, and the canonical form of memories. -/

namespace Sys2Proof.Machine

/-! ## The scalar stream at an instruction -/

/-- The scalar stream of core `c` stands at an instruction that task `t` may issue: the core acts, no vector/matrix
instruction waits in its queue (R192), no recording is open (R214), no access of the task is put off (R245), and no misaligned
one is under way (R103). -/
structure Issues (s : State) (c : Nat) (t : Task) : Prop where
  turn : s.actor = c
  task : (s.core c).task? = some t
  queue : (s.core c).vu.viq = []
  recording : (s.core c).vu.recording = none
  late : t.late = []
  bytewise : t.bytewise = none

/-- The state in which core `c` is `k`, and its running task is `t` at `pc` with no instruction under way. -/
def State.retire (s : State) (c : Nat) (k : Core) (t : Task) (pc : Nat) : State :=
  s.setCore c (k.setTask k.inHi { t with pc := pc, stalled := false, bytewise := none })

/-- The state in which core `c` is `k`, and its running task `t` has issued its instruction and waits for `w`. -/
def State.stalledOn (s : State) (c : Nat) (k : Core) (t : Task) (w : Wait) : State :=
  s.setCore c (k.setTask k.inHi { t with stalled := true, wait := w })

/-- Operand b of a Q-format instruction: X[b], or the scalar port b names (R194). -/
def operandQ (s : State) (c : Nat) (t : Task) (pb : Bool) (b : Reg) : Got W :=
  if pb then scalarPop s c (s.core c) b.toNat else .ok (t.reg b) (s.core c)

/-- A core whose queue register `d` has got `v` (R194). -/
def Core.pushed (k : Core) (d : Reg) (v : W) : Core :=
  { k with vu := k.vu.setQueue d.toNat (k.vu.queue d.toNat ++ [v]) }

/-- Queue register `d` has room, and a LO task runs: a port destination can be written (R24, R194). -/
def Core.portOk (k : Core) (d : Reg) : Prop := k.inHi = false ∧ (k.vu.queue d.toNat).length < Config.queueSize

/-- The core and task that a result leaves: `v` in X[d], or in queue d when `pd` is set. -/
def Core.placed (k : Core) (pd : Bool) (d : Reg) (v : W) : Core := if pd then k.pushed d v else k
/-- The task's part of that. -/
def Task.placed (t : Task) (pd : Bool) (d : Reg) (v : W) : Task := if pd then t else t.setReg d v

/-- Instruction `i`, of `len` halfwords, under guard `g`, completes: `v` goes to X[d], or to queue d when `pd` is set;
the pc moves past the instruction; nothing else changes. -/
def WritesTo (i : Instr) (len : Nat) (g : Guard) (pd : Bool) (d : Reg) (v : Core → Task → W) : Prop :=
  ∀ s c t, Issues s c t → guardPasses g t = true → (pd = true → (s.core c).portOk d) →
    exec i s = .next (s.retire c ((s.core c).placed pd d (v (s.core c) t)) (t.placed pd d (v (s.core c) t)) (t.pc + len))

/-- Instruction `i` completes: `v` goes to X[d]. -/
def WritesX (i : Instr) (len : Nat) (g : Guard) (d : Reg) (v : Core → Task → W) : Prop := WritesTo i len g false d v

/-- Instruction `i` completes: `v` goes to P[d]; the pc moves past it; nothing else changes. -/
def WritesP (i : Instr) (len : Nat) (g : Guard) (d : PReg) (v : Core → Task → W) : Prop :=
  ∀ s c t, Issues s c t → guardPasses g t = true →
    exec i s = .next (s.retire c (s.core c) (t.setPred d (v (s.core c) t)) (t.pc + len))

/-- Instruction `i` of `len` halfwords branches: to `z` when `taken` and `z` lies in the code, with `link` in X[d];
past itself when not taken. -/
def Branches (i : Instr) (len : Nat) (g : Guard) (taken : Core → Task → Bool) (z : Task → Int) (d : Reg) (link : Nat → Nat) : Prop :=
  ∀ s c t, Issues s c t → guardPasses g t = true →
    (taken (s.core c) t = true → ∀ n : Nat, z t = n → n < (if t.carried then t.code.length else Config.imemHalfwords) →
      exec i s = .next (s.retire c (s.core c) (t.setReg d (w64 (link t.pc))) n)) ∧
    (taken (s.core c) t = false → exec i s = .next (s.retire c (s.core c) t (t.pc + len)))

/-! ## Traps -/

/-- Instruction `i` takes the exact trap `code` with SR.TRAPV `v` at the pc of task `t` of core `c` (R305, R307): its
only other mark is that the instruction has issued. -/
def TrapsWith (i : Instr) (s : State) (c : Nat) (t : Task) (code : Nat) (v : W) : Prop :=
  exec i s = .next (takeTrap (s.issue c (s.core c).inHi) c (s.core c).inHi t code v (trapPc t t.pc) false false)

/-! ## Memory -/

/-- Every byte of main memory, of the host's memory and of every core's scratchpad, instruction memory and full bits
reads as before. -/
def SameBytes (s s' : State) : Prop :=
  (∀ a, s'.mem.read a = s.mem.read a) ∧ (∀ a, s'.hostMem.read a = s.hostMem.read a) ∧
  (∀ c a, (s'.core c).lcl.spad.read a = (s.core c).lcl.spad.read a) ∧
  (∀ c a, (s'.core c).lcl.imem.read a = (s.core c).lcl.imem.read a) ∧
  (∀ c a, (s'.core c).lcl.full.read a = (s.core c).lcl.full.read a)

/-- Every core but `c` is as before. -/
def OtherCoresSame (s s' : State) (c : Nat) : Prop := ∀ d, d ≠ c → s'.core d = s.core d

/-- Main memory and the host's memory are in canonical form. -/
def MemInv (s : State) : Prop := s.mem.wf = true ∧ s.hostMem.wf = true

/-! ## Packets -/

/-- The packet at index `k` may be delivered: nothing sent before it on its lane is still in the mesh (R147). -/
def Delivers (s : State) (k : Nat) (src dst : Endpoint) (b : Body) : Prop :=
  ∃ pl, s.packet? k = some { src := src, dst := dst, plane := pl, body := b }

/-- The state in which the packet at index `k` goes on waiting at its endpoint (R149). -/
def State.heldBack (s : State) (k : Nat) : State :=
  match s.packet? k with
  | some p => (s.drop k).hold s k p
  | none => s

/-- A home's fetch of a line of HBM is at its controller, as normal reads of its granules (R36, R39). -/
def FetchUnderWay (s : State) (line : Nat) : Prop :=
  ∀ j, j < 4 → ∃ r ∈ s.ctl (controllerOf ((4 * line + j) * 64)), r.granule = 4 * line + j ∧ r.write = [] ∧ r.origin = .fetch line ∧ r.deadline = none

/-- The port of core `c` has taken an arrival: an own access may pass the next one again (R151, R358). -/
def State.portTurn (s : State) (c : Nat) : State :=
  if (s.core c).lcl.passed then s.onCore c fun k => { k with lcl := { k.lcl with passed := false } } else s

/-! ## The vector/matrix stream -/

/-- The vector/matrix stream of core `c` acts, stands at item `it` of entry `e`, and may work on it as instruction `i`: it is not
stopped, and waits for no answer (R191, R216). -/
structure AtStep (s : State) (c : Nat) (e : VEntry) (it : VItem) (i : Instr) : Prop where
  turn : s.turn = .vector c
  head : (s.core c).vu.viq.head? = some e
  item : e.item? = some it
  instr : e.current it = i
  running : (s.core c).vu.stopped = false
  free : (s.core c).vu.wait = false
  sound : (s.core c).vu.failed = none
  command : (s.core c).vu.mxWait = false

/-- The same, where nothing of the instruction is done yet. -/
structure AtItem (s : State) (c : Nat) (e : VEntry) (it : VItem) (i : Instr) : Prop extends AtStep s c e it i where
  fresh : (s.core c).vu.reply = none

/-- The same, where the instruction has got `got` from its steps so far, and shares its registers with the scalar stream. -/
structure AtWork (s : State) (c : Nat) (e : VEntry) (it : VItem) (i : Instr) (got : List (List Byte)) : Prop extends AtStep s c e it i where
  kept : (s.core c).vu.reply = some got
  shares : it.xdead = [] ∧ it.pvs = []

/-- The same, where no later scalar instruction has replaced a register that the item names (R192). -/
structure AtVector (s : State) (c : Nat) (e : VEntry) (it : VItem) (i : Instr) : Prop extends AtItem s c e it i where
  shares : it.xdead = [] ∧ it.pvs = []

/-- A predicate as an item of the stream sees it: the task's, or the value that it was passed with (R192). -/
def Core.itemPred (k : Core) (it : VItem) (p : PReg) : W :=
  match it.pvs.find? (·.1 == p.toNat) with
  | some e => k.vu.pv.getD e.2 0
  | none => match k.lo with
    | some t => t.pred p
    | none => if p = 0 then BitVec.allOnes 64 else 0

/-- Lane `i` is active: below SR.VL, and its bit of the guard passes (R22, R196). -/
def Core.laneOn (k : Core) (g : Guard) (i : Nat) : Bool :=
  decide (i < k.vu.vl) && (((match k.lo with | some t => t.pred g.p | none => if g.p = 0 then BitVec.allOnes 64 else 0).getLsbD i) != g.sense)

/-- Bit 0 of the guard passes: a matrix instruction executes (R22). -/
def Core.unitOn (k : Core) (g : Guard) : Bool :=
  ((match k.lo with | some t => t.pred g.p | none => if g.p = 0 then BitVec.allOnes 64 else 0).getLsbD 0) != g.sense

/-- The state in which core `c` is `k` and its vector/matrix stream has gone past the instruction it stood at. -/
def State.streamDone (s : State) (c : Nat) (k : Core) : State :=
  s.setCore c { k with vu := { k.vu.advance with mxWait := !k.mxq.isEmpty } }

/-- The state in which core `c`'s vector/matrix stream stays at its instruction and waits for an answer, with `got` kept. -/
def State.streamAsks (s : State) (c : Nat) (got : Option (List (List Byte))) : State :=
  s.onCore c fun k => { k with vu := { k.vu with wait := true, reply := got } }

/-- The state in which it stays at its instruction, with `got` kept. -/
def State.streamKeeps (s : State) (c : Nat) (got : List (List Byte)) : State :=
  s.onCore c fun k => { k with vu := { k.vu with reply := some got } }

/-- A vector source: V register r, or a port (R194, R195). -/
def sourceV (s : State) (c : Nat) (p : Bool) (r : Reg) : Got Nat :=
  if p then vectorPop s c (s.core c) r.toNat else .ok ((s.core c).vu.reg r.toNat) (s.core c)

/-- Core `k` with the active lanes of V[d] taken from `f` and the others kept, judged by core `k0` (R22). -/
def Core.lanesPut (k k0 : Core) (g : Guard) (d : Reg) (f : Nat → Nat) : Core :=
  { k with vu := k.vu.setReg d.toNat (ofLanes 32 ((List.range 64).map fun i =>
      if k0.laneOn g i then f i else lane 32 (k.vu.reg d.toNat) i)) }

/-- SR.RNG.STATE advanced by 64 in SR mode when an instruction rounds (R173, R371). -/
def Core.rounded (k : Core) (yes : Bool) : Core := { k with bankLo := if yes then k.bankLo.advance 64 else k.bankLo }

/-! ## Accesses of the scalar stream -/

/-- No posted store of core `c`'s running task to the spans of its own scratchpad is still under way (R193). -/
def SpansSettled (s : State) (c : Nat) (l : List Span) : Prop :=
  ∀ p ∈ s.net ++ s.held, ∀ x ∈ packetSpans c (s.core c).inHi p, ∀ y ∈ l, x.meets y = false

/-- No posted store of the running task to the `n` bytes at `ea` is still under way. -/
def Settled (s : State) (c : Nat) (ea : W) (n : Nat) : Prop := SpansSettled s c (spanAt c ea 0 0 n)

/-- The `n` bytes at `ea` lie at offset `off` of window `w` of core `c`'s own memories, its window rules allow task `t` the
access, no posted store of the task to those bytes is still under way, and no arrival at the core's port has its turn
(R11, R50, R193, R358). -/
structure OwnAt (s : State) (c : Nat) (t : Task) (acc : Access) (ea : W) (n w off : Nat) : Prop where
  place : decodeAddr c t.sup ea.toNat n = .ok (.loc c w off)
  window : (s.core c).lcl.windowCheck acc t.sup w off n = none
  settled : Settled s c ea n
  port : s.portOwes c = false

/-- The `n` bytes at `ea` lie in region 0x0 from `va`, and translate to the physical addresses `pas` (R11, R63). -/
structure GlobTouch (s : State) (c : Nat) (t : Task) (write : Bool) (ea : W) (n va : Nat) (pas : List Nat) : Prop where
  place : decodeAddr c t.sup ea.toNat n = .ok (.global va)
  residing : t.carried = false
  pages : translateRange s c (whoOf (s.core c).inHi) t.sup write va n = .ok (.ok pas)
  settled : Settled s c ea n

/-- The same for an aligned access, which is one event (R260). -/
structure GlobAt (s : State) (c : Nat) (t : Task) (write : Bool) (ea : W) (n va : Nat) (pas : List Nat) : Prop extends
    GlobTouch s c t write ea n va pas where
  aligned : ea.toNat % n = 0

/-- Core `c` puts no access off in this turn (R245). -/
def Prompt (s : State) (c : Nat) : Prop := ∀ lag, s.turn = .core c lag → lag = false

/-- Task `t` of core `c` is in the middle of the misaligned access `b` (R103). -/
structure MidAccess (s : State) (c : Nat) (t : Task) (b : Bytewise) : Prop where
  turn : s.actor = c
  task : (s.core c).task? = some t
  queue : (s.core c).vu.viq = []
  recording : (s.core c).vu.recording = none
  late : t.late = []
  bytewise : t.bytewise = some b

/-- Instruction `i` loads `n` bytes of the own core from address `ea`, does `post`, and writes registers by `upd`. -/
def LoadsOwn (i : Instr) (len : Nat) (g : Guard) (ea : Task → W) (n : Nat) (align : Bool) (post : State → Nat → State)
    (upd : Nat → Task → Task) : Prop :=
  ∀ s c t w off bytes, Issues s c t → guardPasses g t = true → OwnAt s c t .load (ea t) n w off →
    (align = true → (ea t).toNat % n = 0) → (s.core c).lcl.load w off n = some bytes →
    let s' := post (s.ownAccess c) c
    exec i s = .next (s'.retire c (s'.core c) (upd (leNat bytes) t) (t.pc + len))

/-- Instruction `i` stores `n` bytes of `v` at address `ea` of the own core: the port performs the store. A release store does so
once its conditions hold, when this turn does not put it off (R252). -/
def StoresOwn (i : Instr) (len : Nat) (g : Guard) (ea : Task → W) (n : Nat) (align rel : Bool) (v : Task → Nat) : Prop :=
  ∀ s c t w off, Issues s c t → guardPasses g t = true → OwnAt s c t .store (ea t) n w off →
    (align = true → (ea t).toNat % n = 0) →
    (rel = true → (s.core c).l1.ungranted = false ∧ Prompt s c) →
    let s' := s.ownAccess c
    exec i s = .next ((s'.retire c (s'.core c) t (t.pc + len)).portStore c w off (leBytes n (v t)))

/-- Instruction `i` does the atomic `op` on `n` bytes of the own scratchpad: the port stores the new value, and the old one
goes to the registers by `upd`. -/
def RmwOwn (i : Instr) (g : Guard) (ea : Task → W) (n : Nat) (op : Task → Rmw) (upd : Nat → Task → Task) : Prop :=
  ∀ s c t w off bytes, Issues s c t → guardPasses g t = true → OwnAt s c t .atomic (ea t) n w off → (ea t).toNat % n = 0 →
    (s.core c).lcl.load 0 off n = some bytes →
    let s' := s.ownAccess c
    exec i s = .next (match (op t).new n (leNat bytes) with
      | none => s'.retire c (s'.core c) (upd (leNat bytes) t) (t.pc + 2)
      | some v => (s'.retire c (s'.core c) (upd (leNat bytes) t) (t.pc + 2)).portStore c 0 off (leBytes n v))

/-- A register pair d, d+1 of a task with a 16-byte value (R105). -/
def Task.setPair (t : Task) (d : Reg) (v : Nat) : Task := (t.setReg d (w64 v)).setReg (d + 1) (w64 (v / 2 ^ 64))

/-- The pair as a 16-byte value, the lower register at the lower address (R105). -/
def Task.pairOf (t : Task) (d : Reg) : Nat := (t.reg d).toNat + 2 ^ 64 * (t.reg (d + 1)).toNat

/-- The extension of a loaded value of `n` bytes (R27 x). -/
def extended (sx : Bool) (n v : Nat) : W := if sx then (BitVec.ofNat (8 * n) v).signExtend 64 else w64 (v % 256 ^ n)

/-- The requester that the requests of task `t` of core `c` name (R53). -/
def State.requester (s : State) (c : Nat) (t : Task) : Requester :=
  { core := c, hi := (s.core c).inHi, ctx := (s.core c).ctx, sup := t.sup }

/-- Every byte of core `c`'s scratchpad outside the `n` bytes from `off` reads as before, and so do its instruction memory
and its full bits. -/
def SpadSameBut (s s' : State) (c off n : Nat) : Prop :=
  (∀ o, o < off ∨ off + n ≤ o → (s'.core c).lcl.spad.read o = (s.core c).lcl.spad.read o) ∧
  (s'.core c).lcl.imem = (s.core c).lcl.imem ∧ (s'.core c).lcl.full = (s.core c).lcl.full

/-! ## Instructions with further effects -/

/-- Under `pre`, instruction `i` completes: the state becomes `f`, the task `u` with its pc past the instruction. -/
def Completes (i : Instr) (len : Nat) (g : Guard) (pre : State → Nat → Task → Prop) (f : State → Nat → Task → State)
    (u : State → Nat → Task → Task) : Prop :=
  ∀ s c t, Issues s c t → guardPasses g t = true → pre s c t →
    exec i s = .next ((f s c t).retire c ((f s c t).core c) (u s c t) (t.pc + len))

/-- Under `pre`, instruction `i` does `f`, and its task stays at it and waits for `w`. -/
def StallsFor (i : Instr) (g : Guard) (pre : State → Nat → Task → Prop) (f : State → Nat → Task → State) (w : State → Nat → Task → Wait) : Prop :=
  ∀ s c t, Issues s c t → guardPasses g t = true → pre s c t →
    exec i s = .next ((f s c t).stalledOn c ((f s c t).core c) t (w s c t))

/-- Under `pre`, instruction `i` takes the exact trap `code` with the value `v`. -/
def Traps (i : Instr) (g : Guard) (pre : State → Nat → Task → Prop) (code : Nat) (v : State → Nat → Task → W) : Prop :=
  ∀ s c t, Issues s c t → guardPasses g t = true → pre s c t → TrapsWith i s c t code (v s c t)

/-- The state is not changed. -/
def State.same (s : State) (_ : Nat) (_ : Task) : State := s

/-- The `n` bytes at `ea` lie at offset `off` of window `w` of core `d`'s scratchpad, and no posted store of the task to them is still
under way. -/
structure RemoteAt (s : State) (c : Nat) (t : Task) (ea : W) (n d w off : Nat) : Prop where
  place : decodeAddr c t.sup ea.toNat n = .ok (.loc d w off)
  settled : Settled s c ea n

/-- The state in which the task of bank `hi` of core `c` is `t`. -/
def State.withTask (s : State) (c : Nat) (hi : Bool) (t : Task) : State := s.setCore c ((s.core c).setTask hi t)

/-- The scheduler's part of core `c` changed by `f`. -/
def State.onQueue (s : State) (c : Nat) (f : Sched → Sched) : State := s.onCore c fun k => { k with sched := f k.sched }

/-- The answer to the stalled task of bank `hi`: `v` in X[d], past an instruction of two halfwords. -/
def State.resumed (s : State) (c : Nat) (hi : Bool) (t : Task) (d : Reg) (v : W) : State :=
  s.withTask c hi { t.setReg d v with wait := .none, pc := t.pc + 2, stalled := false }

/-- The instruction's first 32 bits, as SR.TRAPV reports them (R308). -/
def wordHere (s : State) (c : Nat) (t : Task) : W := (s.core c).instrWord t

/-- The task of bank `hi` of core `c` is `t`. -/
def TaskAt (s : State) (c : Nat) (hi : Bool) (t : Task) : Prop := (s.core c).bankTask hi = some t

/-- X[b] … X[b+n−1]. -/
def Task.regs (t : Task) (b : Reg) (n : Nat) : List W := (List.range n).map fun i => t.reg (BitVec.ofNat 5 (b.toNat + i))

/-- The 16 bytes at `ea` are a barrier record of core `dst`'s scratchpad, or of global memory at the physical address `pa`, which the
checks of BARV and BARW let task `t` reach (R292, R303). -/
structure RecordAtAddress (s : State) (c : Nat) (t : Task) (ea : W) (dst : Endpoint) (pa : Option Nat) : Prop where
  aligned : ea.toNat % 16 = 0
  settled : Settled s c ea 16
  place : (∃ d w off, decodeAddr c t.sup ea.toNat 16 = .ok (.loc d w off) ∧
      (d = c → (s.core c).lcl.windowCheck .atomic t.sup w off 16 = none) ∧ dst = .core d ∧ pa = none) ∨
    (∃ va p, decodeAddr c t.sup ea.toNat 16 = .ok (.global va) ∧ translate s c (whoOf (s.core c).inHi) t.sup true va = .ok p ∧
      dst = .slice (homeOf p) ∧ pa = some p)

/-! ## Instructions of the vector/matrix stream -/

/-- A predicate as core `k`'s vector/matrix stream sees it: the LO task's. -/
def Core.vpred (k : Core) (p : PReg) : W :=
  match k.lo with
  | some t => t.pred p
  | none => if p = 0 then BitVec.allOnes 64 else 0

/-- Some lane is active under a guard. -/
def Core.anyLane (k : Core) (g : Guard) : Bool := (List.range 64).any (k.laneOn g)

/-- Under `pre`, the stream of a core executes instruction `i`: the core becomes `f`, and the stream goes on. -/
def Executes (i : Instr) (on : Core → Bool) (pre : State → Nat → VEntry → VItem → Prop) (f : State → Nat → VEntry → VItem → Core) : Prop :=
  ∀ s c e it, AtVector s c e it i → on (s.core c) = true → pre s c e it → exec i s = .next (s.streamDone c (f s c e it))

/-- Under `pre`, the stream stops at instruction `i` and holds the fault `code` with `v` (R312). -/
def HoldsFault (i : Instr) (on : Core → Bool) (pre : State → Nat → VEntry → VItem → Prop) (code : Nat) (v : State → Nat → VEntry → VItem → W) : Prop :=
  ∀ s c e it, AtVector s c e it i → on (s.core c) = true → pre s c e it →
    exec i s = .next ((s.onCore c fun k => { k.freeItem it with vu := k.vu.faulted ⟨code, v s c e it⟩ }).forgetWalks c whoVec)

/-- Lane i of V register r. -/
def Core.lane (k : Core) (r : Reg) (i : Nat) : Nat := Sys2Proof.lane 32 (k.vu.reg r.toNat) i

/-- No posted store of core `c`'s LO task to its own scratchpad is under way. -/
def NoOwnPosted (s : State) (c : Nat) : Prop := ∀ p ∈ s.net ++ s.held, packetSpans c false p = []

/-- An access of core `c`'s vector/matrix stream has the port: no posted store of the LO task is under way, and no arrival has its turn
(R193, R358). -/
def OwnTurn (s : State) (c : Nat) : Prop := NoOwnPosted s c ∧ s.portOwes c = false

/-- Under `pre`, the stream of a core executes instruction `i`, which has its turn at the core's own port: the core becomes `f`, and the
stream goes on. -/
def ExecutesAtPort (i : Instr) (on : Core → Bool) (pre : State → Nat → VEntry → VItem → Prop) (f : State → Nat → VEntry → VItem → Core) : Prop :=
  ∀ s c e it, AtVector s c e it i → on (s.core c) = true → OwnTurn s c → pre s c e it →
    exec i s = .next ((s.ownAccess c).streamDone c (f (s.ownAccess c) c e it))

/-- The core with V[d] replaced by a value whose lane, or element, i of width w is `f i`. -/
def Core.setV (k : Core) (d : Nat) (v : Nat) : Core := { k with vu := k.vu.setReg d v }

/-- The offset of element `e` of width `bits` from `off`. -/
def elemAt (off bits : Nat) (e : Int) : Int := (off : Int) + e * bits / 8

/-- Whether an element lies inside the scratchpad. -/
def elemInside (off bits : Nat) (e : Int) : Bool :=
  decide (0 ≤ elemAt off bits e) && decide (elemAt off bits e + (Nat.max 1 (bits / 8) : Nat) ≤ (Config.spadSize : Nat))

/-- What lane i of a vector load takes from window `w` (R211): the element converted as its format says; 0 outside. -/
def windowLane (k : Core) (w off : Nat) (e : Int) (i : Nat) : Nat :=
  let l := k.lcl
  let bits := l.elemBits w
  let o := (elemAt off bits e).toNat
  if elemInside off bits e then
    match l.fmtOf w, l.element w o (l.rawElem bits o e) with
    | some f, .ok v => laneOf f (k.bankLo.rnd i) v (l.rawElem bits o e)
    | _, _ => l.rawElem bits o e
  else 0

/-- No active lane of a vector load meets poison, or a scale byte outside the scratchpad (R152, R177, R213). -/
def LanesSound (k : Core) (g : Guard) (w off : Nat) (elem : Nat → Int) : Prop :=
  let l := k.lcl
  let bits := l.elemBits w
  ∀ i, i < 64 → k.laneOn g i = true → elemInside off bits (elem i) = true →
    let o := (elemAt off bits (elem i)).toNat
    l.firstPoison o (Nat.max 1 (bits / 8)) = none ∧
    (l.scaled w = true → ∃ q, l.scaleOffset w o = some q ∧ q < Config.spadSize) ∧
    (∀ q, l.scaleOffset w o = some q → l.firstPoison q 1 = none)

/-- The nibbles that a vector store writes to window `w` (R211). -/
def windowNibbles (k : Core) (g : Guard) (d : Reg) (w off : Nat) (elem : Nat → Int) : List (Nat × Nat) :=
  let l := k.lcl
  let bits := l.elemBits w
  ((List.range 64).filter fun i => k.laneOn g i && elemInside off bits (elem i)).flatMap fun i =>
    elemNibbles bits (elemAt off bits (elem i)).toNat (elem i) (match l.fmtOf w with
      | some f => elemOf f l.t8 (k.bankLo.rnd i) (k.lane d i)
      | none => k.lane d i)

/-- The core with SR.RNG.STATE advanced by 1024, when a tile store rounds in SR mode (R224, R371). -/
def Core.tileRounded (k : Core) (yes : Bool) : Core := if yes then { k with bankLo := k.bankLo.advance 1024 } else k

/-- The requester that a vector/matrix instruction of core `c` names. -/
def State.tileRequester (s : State) (c : Nat) (it : VItem) : Requester := ⟨c, false, (s.core c).ctx, it.sup⟩

/-- The rows of a tile of global memory, as ranges of virtual addresses. -/
def tileRows (va : Nat) (fm : Fmt) (step : Nat) : List (Nat × Nat) := (List.range 32).map fun r => (va + r * step, 4 * fm.width)

/-- The tile at `va` may be asked of its home: no store of the core to its lines waits for a grant, and no earlier access of the LO task
to its bytes is under way (R193, R245). -/
def TileFree (s : State) (c : Nat) (e : VEntry) (it : VItem) (runs : List (Nat × Nat × Nat)) (va : Nat) (fm : Fmt) (step : Nat) : Prop :=
  (s.core c).ungrantedIn runs = false ∧ (vxAt s c e it).mustWait (globalSpans va fm step) = false

/-- The bound of R241 over the channels left, `s` so far: query code, minimum and maximum of each. -/
def boundAfter (s : Option FVal) : List (Nat × Nat × Nat) → FVal
  | [] => s.getD (.ex false 0 0)
  | (q, lo, hi) :: r =>
    let up := fun (v : FVal) => sF32.decode (sF32.convert rup false v)
    let qv := sBF16.decode q
    let a := up (qv.mul (sBF16.decode lo))
    let b := up (qv.mul (sBF16.decode hi))
    let t := if (lo = 0x7F80 ∧ hi = 0xFF80) ∨ qv.isZero = true then FVal.ex false 0 0
      else if a.isNan = true ∨ b.isNan = true then .nan else if a.orderLe b = true then b else a
    let n := match s with
      | none => t
      | some s => up (s.add 3 t)
    if qv.isNan = true ∨ (sBF16.decode lo).isNan = true ∨ (sBF16.decode hi).isNan = true ∨ t.isNan = true ∨ n.isNan = true then .inf false
    else boundAfter (some n) r

/-- The vector/matrix instructions whose active lanes and guard are judged lane by lane, with their guard. -/
def laneGuard (i : Instr) : Option Guard :=
  match i with
  | .vadd f | .vsub f | .vmul f | .vfma f | .vfms f | .vfnma f | .vdiv f | .vmin f | .vmax f => some f.g
  | .vand f | .vor f | .vxor f | .vperm f | .vdot4I8 f | .vdot4N8 f => some f.g
  | .vshl f | .vshr f | .vsar f => some f.g
  | .vcmp f => some f.g
  | .vsel f => some f.g
  | .vext f | .vins f | .vlds f | .vsts f | .vldx f | .vstx f => some f.g
  | .vmov f | .vbcast f => some f.g
  | .vabs f | .vneg f | .vsqrt f | .vrcp f | .vrsq f | .vexp2 f | .vlog2 f => some f.g
  | .viota f => some f.g
  | .vcomp f => some f.g
  | .vlen f => some f.g
  | .vmovQ f => some f.g
  | .vred f => some f.g
  | .vscan f => some f.g
  | .vld f | .vst f => some f.g
  | .vldLit f | .vstLit f => some f.g
  | .vcvt f => some f.g
  | .vdec f | .vdqnt f => some f.g
  | .venc f => some f.g
  | .vqnt f => some f.g
  | _ => none

/-- The matrix and key-page instructions, whose guard is bit 0 of its predicate, with their guard. -/
def unitGuard (i : Instr) : Option Guard :=
  match i with
  | .mma f => some f.g
  | .mmat f => some f.g
  | .tzero f => some f.g
  | .tld f | .tldT f | .tst f | .tstn f | .trow f | .pgbound f | .pgpick f => some f.g
  | .clld f | .pgsum f | .pgclr f => some f.g
  | .clrot f | .clwait f => some f.g
  | _ => none

/-- The X registers whose values an instruction of the stream captures when it is passed (R191). -/
def capturedRegs (i : Instr) : List Reg :=
  match i with
  | .vbcast f => if f.p then [] else [f.a]
  | .vlen f => [f.a]
  | .vext f => [f.b]
  | .vins f => [f.a, f.b]
  | .mma f => [f.a]
  | .tld f | .tldT f | .tstn f => [f.a, f.b]
  | .trow f => [f.a]
  | .clld f => [f.a]
  | .pgsum f | .pgclr f => [f.a, f.a + 1, f.a + 2]
  | .pgbound f => [f.a, f.a + 1, f.a + 2, f.a + 3]
  | .pgpick f => [f.a, f.a + 1, f.a + 2, f.a + 4, f.a + 5, f.a + 6, f.a + 7]
  | _ => []

/-- The instructions that the scalar stream checks before it passes them (R213, R225). -/
def checkedWhenPassed (i : Instr) : Bool :=
  match i with
  | .vld _ | .vst _ | .vldLit _ | .vstLit _ | .vlds _ | .vsts _ | .vldx _ | .vstx _ | .tst _ => true
  | _ => false

/-- The instruction at a task's pc as an item of the stream, with its captured registers (R191). -/
def passedItem (k : Core) (t : Task) (i : Instr) (regs : List Reg) : VItem :=
  ⟨i, k.instrWord t, regs.map fun r => (r.toNat, t.reg r), t.sup, t.pc, false, none, [], []⟩

/-- An entry of one instruction, captured from task `t` at its pc (R191). -/
def passedEntry (k : Core) (t : Task) (i : Instr) (regs : List Reg) : VEntry := ⟨[passedItem k t i regs], 0, 0, 1, 0, 0, false⟩

/-- The replay of a recording (R215). -/
def replayEntry (r : Recording) : VEntry := ⟨r.items, r.stride, r.fmask, r.count, 0, 0, true⟩

/-- The core whose LO task `t` has gone past an instruction of `len` halfwords of the vector/matrix stream, with unit `u`. -/
def Core.wentPast (k : Core) (t : Task) (len : Nat) (u : VecUnit) : Core :=
  { k with vu := u, lo := some { t with pc := t.pc + len, stalled := false } }

/-! ## Transfers, tile exchange and matrix commands -/

/-- What task `t` of core `c` looks at when it checks an operand. -/
def State.frame (s : State) (c : Nat) (t : Task) : Cx := { s := s, c := c, k := s.core c, t := t, hi := (s.core c).inHi }

/-- Transfer `x` of a state. -/
def XferAt (s : State) (x : Nat) (t : Xfer) : Prop := s.xfers[x]? = some t

/-- Piece `i` of transfer `x` of a state. -/
def PieceOf (s : State) (x i : Nat) (t : Xfer) (p : Piece) : Prop := s.xfers[x]? = some t ∧ t.pieces[i]? = some p

/-- The matrix instruction that a command word carries passes its checks at core `c` (R166). -/
def commandOk (k : Core) (c : Nat) (word operand : W) : Bool :=
  match matCmd? word with
  | some m => m.operandOk c k operand
  | none => false

/-- The status of an arriving matrix command, the first condition that holds (R166). -/
def commandStatus (k : Core) (c : Nat) (ctx : Option Nat) (cap word operand : W) : Nat :=
  if k.refuses ctx = true then 4
  else if cap ≠ k.regs.cap ∨ k.regs.cap = 0 then 2
  else if commandOk k c word operand = false then 3
  else if 8 ≤ k.mxq.length then 1 else 0

/-- The registers of a copy: LOC, FAR, CTL and AUX. -/
def Task.loc (t : Task) (f : CopyForm) : W := t.reg f.a
/-- FAR. -/
def Task.far (t : Task) (f : CopyForm) : W := t.reg (f.a + 1)
/-- CTL. -/
def Task.ctl (t : Task) (f : CopyForm) : W := t.reg (f.a + 2)
/-- AUX. -/
def Task.aux (t : Task) (f : CopyForm) : W := t.reg (f.a + 3)

/-- The element size that a copy's addresses are aligned to (R80, R81). -/
def CopyOp.unit (o : CopyOp) (c : Ctl) : Nat := if o = .putxa ∨ o = .putr then rtyBytes c.rty else 1

/-- The entries that a copy reads from its index list. -/
def CopyOp.list (o : CopyOp) (l : Local) (c : Ctl) : List Int := if o.indexed then l.indexList c else []

/-- Task `t` of core `c` may issue copy `o` in linear mode: every check of R68 passes, with its local place `here`, its far place
`place` and its barrier record `rec`, and nothing makes it wait; one that reads an index list has its turn at the port (R358). -/
structure CopyReady (o : CopyOp) (f : CopyForm) (s : State) (c : Nat) (t : Task) (here : Nat) (place : Spot) (rec : Option (Nat × Option Nat)) :
    Prop where
  residing : t.carried = false
  control : ctlOk o (s.core c).regs (t.ctl f) (t.loc f) (t.far f) (t.aux f) = true
  linear : (ctlOf (t.ctl f)).tensor = false
  list : o.indexed = true → let x := ctlOf (t.ctl f)
    let n := x.count * (if x.ixw then 8 else 4)
    x.idx + n ≤ Config.spadSize ∧ (s.core c).lcl.firstPoison x.idx n = none ∧ Settled s c (w64 (9 * 2 ^ 60 + x.idx)) n
  near : (s.frame c t).locPlace (t.loc f) (planLinear o (ctlOf (t.ctl f)) place (o.list (s.core c).lcl (ctlOf (t.ctl f)))).len = .ok here
  away : (s.frame c t).farPlace o (t.far f) (ctlOf (t.ctl f)).len = .ok place
  aligned : (t.loc f).toNat % o.unit (ctlOf (t.ctl f)) = 0 ∧ (t.far f).toNat % o.unit (ctlOf (t.ctl f)) = 0
  record : o ≠ .mcast → (s.frame c t).auxRecord (t.aux f) = .ok (.ok rec)
  scatter : o = .putxa → t.idem = none
  room : s.outstanding c f.ch.toNat < 32
  stores : (s.frame c t).storesDone = true
  port : o.indexed = true → s.portOwes c = false

/-- The transfer that a linear copy issues, but for its reduction. -/
def copyXfer (o : CopyOp) (f : CopyForm) (s : State) (c : Nat) (t : Task) (here : Nat) (place : Spot) (rec : Option (Nat × Option Nat)) : Xfer :=
  let x := ctlOf (t.ctl f)
  let p := planLinear o x place (o.list (s.core c).lcl x)
  { (s.frame c t).newXfer o f.ch.toNat x here place (piecesFrom o.reads here p.segs) p.len p.len p.oob with aux := rec, deadline := p.deadline }

/-- Task `t` of core `c` may issue copy `o` in tensor mode: the box record and its descriptor give the plan `p` and leave state `s1`, every
check of R68 passes, and nothing makes it wait. -/
structure TensorReady (o : CopyOp) (f : CopyForm) (s : State) (c : Nat) (t : Task) (here : Nat) (rec : Option (Nat × Option Nat)) (p : Plan)
    (s1 : State) : Prop where
  residing : t.carried = false
  control : ctlOk o (s.core c).regs (t.ctl f) (t.loc f) (t.far f) (t.aux f) = true
  tensor : (ctlOf (t.ctl f)).tensor = true
  list : o.indexed = true → let x := ctlOf (t.ctl f)
    let n := x.count * (if x.ixw then 8 else 4)
    x.idx + n ≤ Config.spadSize ∧ (s.core c).lcl.firstPoison x.idx n = none ∧ Settled s c (w64 (9 * 2 ^ 60 + x.idx)) n
  port : s.portOwes c = false
  plan : ((s.issue c (s.core c).inHi).frame c t).planTensor o (ctlOf (t.ctl f)) (t.far f) (o.list (s.core c).lcl (ctlOf (t.ctl f))) = .ok p s1
  near : (s1.frame c t).locPlace (t.loc f) p.len = .ok here
  aligned : (t.loc f).toNat % o.unit (ctlOf (t.ctl f)) = 0
  record : (s1.frame c t).auxRecord (t.aux f) = .ok (.ok rec)
  scatter : o = .putxa → t.idem = none
  room : s1.outstanding c f.ch.toNat < 32
  stores : (s1.frame c t).storesDone = true

/-- The transfer that a tensor copy issues: a write to a read-only tensor has met its error (R57, R77). -/
def tensorXfer (o : CopyOp) (f : CopyForm) (s1 : State) (c : Nat) (t : Task) (here : Nat) (rec : Option (Nat × Option Nat)) (p : Plan) : Xfer :=
  { (s1.frame c t).newXfer o f.ch.toNat (ctlOf (t.ctl f)) here p.far (piecesFrom o.reads here p.segs) p.len p.len p.oob with
    aux := rec, deadline := p.deadline, err := if p.ro then some 8 else none, stop := p.ro }

/-- The state with a new transfer `x` of core `c`, whose channel's next ID has gone on and is in X[d] (R74), and whose slot counters
are `mcs` (R82). -/
def State.issueXfer (s : State) (c : Nat) (x : Xfer) (d : Reg) (mcs : Tbl Nat) : State :=
  { s with xfers := s.xfers ++ [x] }.onSched c fun k =>
    { k with regs := { k.regs with cnext := Tbl.put 0 k.regs.cnext x.ch ((x.id + 1) % 2 ^ 48), mcs := mcs } }.setX k.inHi d (w64 x.id)

/-- The state in which copy `o` has had its turn at the port, where it reads an index list there (R358). -/
def CopyOp.atPort (o : CopyOp) (s : State) (c : Nat) : State := if o.indexed then s.ownAccess c else s

/-- The offset of a piece's local side, of a transfer that reads far memory or writes it. -/
def Piece.near (p : Piece) (reads : Bool) : Nat :=
  match if reads then p.dst else p.src with
  | .scratch a => a
  | _ => 0

/-- The transfer of a channel ID has completed, with its XFER trap, if it had one, in the list (R74, R77). -/
def State.idDone (s : State) (c ch id : Nat) : Bool :=
  (s.xfers.reverse.find? fun x => x.core == c && x.ch == ch && x.id == id).any fun x => x.fin && !x.lost

/-- Transfer `t` with the error `e`, unless it has met one before, stopped (R77). -/
def Xfer.failed (t : Xfer) (e : Nat) : Xfer := { t with err := if t.err.isSome then t.err else some e, stop := true }

/-! ## Maps -/

/-- Register `a` of task `t` names a map whose descriptor is in the core's cache, at physical address `slot`, with the fields `m`
(R57, R110, R111). -/
structure NamesMap (s : State) (c : Nat) (t : Task) (a : Reg) (slot : Nat) (m : MapDesc) : Prop where
  form : (t.reg a).bits 63 32 = 0 ∧ (t.reg a).bits 31 12 < 2 ^ (s.core c).regs.dtab.bits 4 0
  cached : ∃ d, (s.core c).dcache.find? (·.1 == (t.reg a).toNat) = some ((t.reg a).toNat, slot, d) ∧ map? d = some m

/-- The map that register `a` of task `t` names, as its requests carry it (R120). -/
def mapRefOf (s : State) (c : Nat) (t : Task) (a : Reg) (slot : Nat) : MapRef :=
  { handle := (t.reg a).toNat, slot := slot, core := c, asid := (s.core c).asidOf, root := (s.core c).rootOf }

/-- A number of `n` bytes in X[b], and X[b+1] above it (R126). -/
def Task.number (t : Task) (b : Reg) (n : Nat) : Nat :=
  ((t.reg b).toNat + 2 ^ 64 * (t.reg (BitVec.ofNat 5 (b.toNat + 1))).toNat) % 256 ^ n

/-- What a scalar map instruction asks its key's bucket: the operation, its key and operand, the words of the answer for registers, and
the scratchpad offset for its bytes. -/
structure MapQuestion where
  kind : MapKind
  key : Nat
  operand : Nat
  words : Nat
  spad : Option Nat

/-- The state in which an instruction that reads a row of the own scratchpad has had its turn at the port (R358). -/
def State.rowAccess (s : State) (c : Nat) (k : MapKind) : State :=
  match k with
  | .rowPut _ => s.ownAccess c
  | _ => s

/-- Instruction `i` of a map, under `ok`, sends one request to the home of its key's bucket, on its own die or through the
replica slice of its own die for a row read, and waits (R127, R144). -/
def AsksMap (i : Instr) (g : Guard) (a d : Reg) (k : Option PReg) (ok : State → Nat → Task → MapDesc → Prop)
    (q : State → Nat → Task → MapDesc → MapQuestion) : Prop :=
  ∀ s s1 c t slot m pa, Issues s c t → guardPasses g t = true → NamesMap s c t a slot m → ok s c t m →
    let x := q s c t m
    let hash := m.hash x.key
    let b := bucketOf hash m.l m.s
    (∀ l, x.kind = .rowPut l → s.portOwes c = false) →
    (s.rowAccess c x.kind).engineTranslate c (s.core c).asidOf (s.core c).rootOf false true (m.bucketVa b) = .ok pa s1 →
    let direct := match x.kind with
      | .rowGet _ => dieOfCluster (homeOf pa) == dieOf c
      | _ => true
    let r : MapReq := { req := s.requester c t, kind := x.kind, vec := false, map := mapRefOf s c t a slot, key := x.key,
                        hash := hash, bucket := b, hops := 0, lanes := [(0, x.operand)], first := !direct }
    exec i s = .next ((s1.send (.core c) (.slice (if direct then homeOf pa else replicaSlice (homeOf pa) (dieOf c))) .request
        (.mapReq r)).stalledOn c (s1.core c) t
      (.map d k x.words x.spad (t.reg a).toNat (s.core c).regs.cyc.toNat (s1.latencyMask (unitCore c))))

/-- No posted store of the running task to `n` bytes of its own scratchpad from `off` is still under way. -/
def SpadSettled (s : State) (c off n : Nat) : Prop := SpansSettled s c [⟨false, off, off + n⟩]

/-- The requests of a vector map form, by key, with their lanes (R134, R136). -/
def laneAsks (k : Core) (m : MapDesc) (b d : Reg) (combine : Bool) : List (Nat × List (Nat × Nat)) :=
  laneGroups combine ((List.range k.vu.vl).map fun i =>
    (i, k.vu.laneNumber b m.key i, if combine then k.vu.laneNumber d m.vbytes i else 0))

/-- A vector map form sends a request for each lane, or each key, and waits for as many replies (R134–R136). -/
def AsksLanes (i : Instr) (g : Guard) (a b d : Reg) (k : Option PReg) (kind : MapKind) (combine : Bool) : Prop :=
  ∀ s c t slot m, Issues s c t → guardPasses g t = true → (s.core c).inHi = false → NamesMap s c t a slot m →
    (combine = true → m.rows = false) → vGroupOk m.key b = true → vGroupOk m.vbytes d = true →
    let req : MapReq := { req := s.requester c t, kind := kind, vec := true, map := mapRefOf s c t a slot, key := 0, hash := 0, bucket := 0,
                          hops := 0, lanes := [], first := false }
    let asks := laneAsks (s.core c) m b d combine
    (∀ q ∈ asks, ∀ s', s.engineTranslate c (s.core c).asidOf (s.core c).rootOf false true (m.bucketVa (bucketOf (m.hash q.1) m.l m.s)) ≠ .wait s') →
    let r := asks.foldl ((s.frame c t).mapLaneSend m req) (s, [], 0)
    r.2.2 ≠ 0 →
    exec i s = .next (r.1.stalledOn c (r.1.core c) t (.mapV d k m.vbytes (s.core c).vu.vl r.2.2 r.2.1 0 (t.reg a).toNat
      (s.core c).regs.cyc.toNat (s.latencyMask (unitCore c))))

/-- The work of a map unit on a map ends with `x` and the arena `a` (R120). -/
def MapDoes {α : Type} (s : State) (m : MapRef) (f : AM α) (x : α) (a : Arena) : Prop := s.mapRun m f = .ok (x, a)

/-- The work of a map unit on a map fails with `t` (R123, R127). -/
def MapFails {α : Type} (s : State) (m : MapRef) (f : AM α) (t : Trap) : Prop := s.mapRun m f = .error (.fail t)

/-- What a request does at its bucket, behind the requests that already wait there. -/
def atBucket (s : State) (h : Nat) (m : MapReq) : AM MapRes := mapAtBucket h m fun pa => s.parked.any (·.bucket == some pa)

/-- The work of a growth step on its map ends with `y` and the arena `a` (R121). -/
def GrowthDoes {α : Type} (s : State) (x : Growth) (f : AM α) (y : α) (a : Arena) : Prop := s.growRun x f = .ok (y, a)

/-- The work of a growth step on its map fails with `t` (R123). -/
def GrowthFails {α : Type} (s : State) (x : Growth) (f : AM α) (t : Trap) : Prop := s.growRun x f = .error (.fail t)

/-- Growth step `g` of a state. -/
def GrowthAt (s : State) (g : Nat) (x : Growth) : Prop := s.growths[g]? = some x

end Sys2Proof.Machine
end

