-- ==== Sys2Proof/Certificates/Slice0/Obligations.lean ====
section
/-! DEFINITION. The statements for the provers. Each says what the machine does on an instruction, a packet, an event or a
whole step, in the words of the rules its docstring names. -/

open Sys2Proof Sys2Proof.Machine

/-! ## Integer arithmetic (R263–R269, R271) -/

/-- An integer instruction of two operands: its register form, its literal form, and its result from the old X[d], X[a] and b. -/
abbrev Sys2Proof.Machine.IntOp : Type := (QForm → Instr) × (QLit → Instr) × (W → W → W → W)

/-- Sums, minima, maxima and logic (R263). -/
noncomputable def Sys2Proof.Machine.intOpsPlain : List IntOp :=
  [(.add, .addLit, fun _ a b => a + b), (.sub, .subLit, fun _ a b => a - b),
   (.min, .minLit, fun _ a b => if a.toInt ≤ b.toInt then a else b),
   (.max, .maxLit, fun _ a b => if a.toInt ≤ b.toInt then b else a),
   (.minu, .minuLit, fun _ a b => if a.toNat ≤ b.toNat then a else b),
   (.maxu, .maxuLit, fun _ a b => if a.toNat ≤ b.toNat then b else a),
   (.andn, .andnLit, fun _ a b => a &&& ~~~b), (.and, .andLit, fun _ a b => a &&& b),
   (.or, .orLit, fun _ a b => a ||| b), (.xor, .xorLit, fun _ a b => a ^^^ b)]

/-- Shifts and products (R263, R267). -/
noncomputable def Sys2Proof.Machine.intOpsShift : List IntOp :=
  [(.shl, .shlLit, fun _ a b => w64 (if b.toNat < 64 then a.toNat * 2 ^ b.toNat else 0)),
   (.shr, .shrLit, fun _ a b => w64 (if b.toNat < 64 then a.toNat / 2 ^ b.toNat else 0)),
   (.sar, .sarLit, fun _ a b =>
      if b.toNat < 64 then BitVec.ofInt 64 (a.toInt / 2 ^ b.toNat) else if a.getLsbD 63 then BitVec.allOnes 64 else 0),
   (.rol, .rolLit, fun _ a b => a.rotateLeft (b.toNat % 64)),
   (.mul, .mulLit, fun _ a b => a * b),
   (.mulh, .mulhLit, fun _ a b => BitVec.ofInt 64 (a.toInt * b.toInt / 2 ^ 64)),
   (.mulhu, .mulhuLit, fun _ a b => w64 (a.toNat * b.toNat / 2 ^ 64))]

/-- Division, bit fields and XYADDR (R265, R266, R271). -/
noncomputable def Sys2Proof.Machine.intOpsDivide : List IntOp :=
  [(.div, .divLit, fun _ a b => if b = 0 then BitVec.allOnes 64 else BitVec.ofInt 64 (a.toInt.tdiv b.toInt)),
   (.divu, .divuLit, fun _ a b => if b = 0 then BitVec.allOnes 64 else w64 (a.toNat / b.toNat)),
   (.rem, .remLit, fun _ a b => if b = 0 then a else BitVec.ofInt 64 (a.toInt.tmod b.toInt)),
   (.remu, .remuLit, fun _ a b => if b = 0 then a else w64 (a.toNat % b.toNat)),
   (.bfx, .bfxLit, fun _ a c => bfx a c), (.bfi, .bfiLit, fun d a c => bfi d a c),
   (.xyaddr, .xyaddrLit, fun _ a b => xyaddr a b)]

/-- The two-operand integer instructions. -/
noncomputable def Sys2Proof.Machine.intOps : List IntOp := intOpsPlain ++ intOpsShift ++ intOpsDivide

/-- R263, R265, R267, R266, R271, R19, R194: an integer instruction whose operand b is there (X[b], or the value its
port pops) completes: X[d] takes the result, or queue d does, the popped port moves on, the pc moves past the
instruction, and nothing else changes. -/
def Sys2Proof.Machine.IntegerResults : Prop :=
  ∀ e ∈ intOps, ∀ (f : QForm) (s : State) (c : Nat) (t : Task) (b : W) (k : Core),
    Issues s c t → guardPasses f.g t = true → ((f.pb || f.pd) = true → (s.core c).inHi = false) →
    operandQ s c t f.pb f.b = .ok b k → (f.pd = true → k.portOk f.d) →
    exec (e.1 f) s = .next (s.retire c (k.placed f.pd f.d (e.2.2 (t.reg f.d) (t.reg f.a) b))
      (t.placed f.pd f.d (e.2.2 (t.reg f.d) (t.reg f.a) b)) (t.pc + 2))

/-- R20, R263: the literal forms of the same instructions complete with the sign-extended literal as operand b. -/
def Sys2Proof.Machine.IntegerLiteralResults : Prop :=
  ∀ e ∈ intOps, ∀ f : QLit,
    WritesTo (e.2.1 f) 4 f.g f.pd f.d fun _ t => e.2.2 (t.reg f.d) (t.reg f.a) (f.lit.signExtend 64)

/-- R22, R189: what an instruction that only completes leaves as it was: every memory, every other core, the packets under way and all else outside the core's task; a write
of a register changes that register alone, X0 and P0 none. -/
def Sys2Proof.Machine.CompletionFrame : Prop :=
  (∀ (s : State) (c : Nat) (k : Core) (t : Task) (pc : Nat), let s' := s.retire c k t pc
    (k.lcl = (s.core c).lcl → SameBytes s s') ∧ OtherCoresSame s s' c ∧ { s' with cores := s.cores } = s ∧
    (s'.core c).regs = k.regs ∧ (s'.core c).vu = k.vu ∧ (s'.core c).lcl = k.lcl ∧ (s'.core c).l1 = k.l1 ∧ (s'.core c).waybill = k.waybill ∧
    (s'.core c).bankLo = k.bankLo ∧ (s'.core c).bankHi = k.bankHi ∧ (s'.core c).sched = k.sched ∧
    (s'.core c).bankTask (!k.inHi) = k.bankTask (!k.inHi) ∧ (s'.core c).bankTask k.inHi =
      some { t with pc := pc, stalled := false, bytewise := none }) ∧
  (∀ (t : Task) (d x : Reg) (v : W), (t.setReg d v).reg x = (if x = d ∧ d ≠ 0 then v else t.reg x) ∧ (t.setReg d v).p = t.p ∧
    (t.setReg d v).pc = t.pc) ∧
  (∀ (t : Task) (d x : PReg) (v : W), (t.setPred d v).pred x = (if x = d ∧ d ≠ 0 then v else t.pred x) ∧ (t.setPred d v).x = t.x) ∧
  (∀ (k : Core) (d : Reg) (v : W), (k.pushed d v).regs = k.regs ∧ (k.pushed d v).lcl = k.lcl ∧
    ∀ n, n ≠ d.toNat → (k.pushed d v).vu.queue n = k.vu.queue n)

/-- R19, R20, R22, R189, R194, R263, R265–R267, R271: the integer instructions of the Q format, with a register, a port or a literal, and what an instruction that only completes leaves as it was. -/
def Obligations.IntegerArithmetic : Prop := IntegerResults ∧ IntegerLiteralResults ∧ CompletionFrame

/-- R264, R268, R269, R21: instructions of one source or an immediate, and the compact arithmetic, complete with the
result in X[d] (or queue d). -/
def Obligations.ImmediateResults : Prop :=
  ((∀ f : Q1, WritesTo (.clz f) 2 f.g f.pd f.d fun _ t => clz (t.reg f.a)) ∧
   (∀ f : Q1, WritesTo (.ctz f) 2 f.g f.pd f.d fun _ t => ctz (t.reg f.a)) ∧
   (∀ f : Q1, WritesTo (.popc f) 2 f.g f.pd f.d fun _ t => popc (t.reg f.a)) ∧
   (∀ f : ExtForm, WritesTo (.ext f) 2 f.g f.pd f.d fun _ t =>
     let n := ExtWidth.bits f.width
     if f.uns then w64 ((t.reg f.a).toNat % 2 ^ n) else ((t.reg f.a).setWidth n).signExtend 64)) ∧
  ((∀ f : SelForm, WritesX (.sel f) 2 f.g f.d fun _ t => if (t.pred f.c).getLsbD 0 then t.reg f.a else t.reg f.b) ∧
   (∀ f : SelLit, WritesX (.selLit f) 4 f.g f.d fun _ t =>
     if (t.pred f.c).getLsbD 0 then t.reg f.a else f.lit.signExtend 64) ∧
   (∀ f : R3, WritesX (.wfld f) 2 f.g f.d fun _ t => wfld (t.reg f.a) (t.reg f.b)) ∧
   (∀ f : R2Lit, WritesX (.wfldLit f) 4 f.g f.d fun _ t => wfld (t.reg f.a) (f.lit.signExtend 64))) ∧
  ((∀ f : IForm, WritesX (.addi f) 2 f.g f.d (fun _ t => t.reg f.a + f.imm.signExtend 64) ∧
     WritesX (.andi f) 2 f.g f.d (fun _ t => t.reg f.a &&& f.imm.signExtend 64) ∧
     WritesX (.ori f) 2 f.g f.d (fun _ t => t.reg f.a ||| f.imm.signExtend 64) ∧
     WritesX (.xori f) 2 f.g f.d (fun _ t => t.reg f.a ^^^ f.imm.signExtend 64)) ∧
   (∀ f : R2Lit, WritesX (.addiLit f) 4 f.g f.d (fun _ t => t.reg f.a + f.lit.signExtend 64) ∧
     WritesX (.andiLit f) 4 f.g f.d (fun _ t => t.reg f.a &&& f.lit.signExtend 64) ∧
     WritesX (.oriLit f) 4 f.g f.d (fun _ t => t.reg f.a ||| f.lit.signExtend 64) ∧
     WritesX (.xoriLit f) 4 f.g f.d (fun _ t => t.reg f.a ^^^ f.lit.signExtend 64)) ∧
   (∀ f : ShiftI, WritesX (.shli f) 2 f.g f.d (fun _ t => t.reg f.a <<< f.n.toNat) ∧
     WritesX (.shri f) 2 f.g f.d (fun _ t => t.reg f.a >>> f.n.toNat) ∧
     WritesX (.sari f) 2 f.g f.d (fun _ t => (t.reg f.a).sshiftRight f.n.toNat))) ∧
  ((∀ f : MovForm, WritesX (.movi f) 2 f.g f.d (fun _ _ => f.imm.signExtend 64) ∧
     WritesX (.movhi f) 2 f.g f.d (fun _ t => w64 ((f.imm.signExtend 32).toNat * 2 ^ 32 + (t.reg f.d).toNat % 2 ^ 32))) ∧
   (∀ f : MovLit, WritesX (.moviLit f) 4 f.g f.d (fun _ _ => f.lit.signExtend 64) ∧
     WritesX (.movhiLit f) 4 f.g f.d (fun _ t => w64 (f.lit.toNat * 2 ^ 32 + (t.reg f.d).toNat % 2 ^ 32)))) ∧
  ((∀ f : C2, WritesX (.cAdd f) 1 .always f.d (fun _ t => t.reg f.d + t.reg f.b) ∧
     WritesX (.cSub f) 1 .always f.d (fun _ t => t.reg f.d - t.reg f.b) ∧
     WritesX (.cAnd f) 1 .always f.d (fun _ t => t.reg f.d &&& t.reg f.b) ∧
     WritesX (.cOr f) 1 .always f.d (fun _ t => t.reg f.d ||| t.reg f.b) ∧
     WritesX (.cXor f) 1 .always f.d (fun _ t => t.reg f.d ^^^ t.reg f.b) ∧
     WritesX (.cMov f) 1 .always f.d (fun _ t => t.reg f.b) ∧
     WritesX (.cMul f) 1 .always f.d (fun _ t => t.reg f.d * t.reg f.b)) ∧
   (∀ f : CImm, WritesX (.cAddi f) 1 .always f.d (fun _ t => t.reg f.d + f.imm.signExtend 64) ∧
     WritesX (.cAddiX0 f) 1 .always f.d (fun _ _ => f.imm.signExtend 64) ∧
     WritesX (.cAndi f) 1 .always f.d (fun _ t => t.reg f.d &&& f.imm.signExtend 64) ∧
     WritesX (.cShli f) 1 .always f.d (fun _ t => t.reg f.d <<< f.imm.toNat) ∧
     WritesX (.cShri f) 1 .always f.d (fun _ t => t.reg f.d >>> f.imm.toNat) ∧
     WritesX (.cSari f) 1 .always f.d (fun _ t => (t.reg f.d).sshiftRight f.imm.toNat)) ∧
   WritesX .nop 1 .always 0 fun _ _ => 0)

/-- R265: DIV and DIVU write the quotient, REM and REMU the remainder, of a register and of a literal. Over the integers
a = q × b + r when b is not 0: the quotient goes toward zero, a remainder takes the sign of the dividend, and its magnitude is
below the divisor's; a division by 0 gives all ones and a, and −2^63 by −1 gives −2^63 and 0. -/
def Sys2Proof.Machine.DivisionLaw : Prop :=
  (∀ f : QForm, f.pb = false →
    WritesTo (.div f) 2 f.g f.pd f.d (fun _ t => divS (t.reg f.a) (t.reg f.b)) ∧
    WritesTo (.divu f) 2 f.g f.pd f.d (fun _ t => divU (t.reg f.a) (t.reg f.b)) ∧
    WritesTo (.rem f) 2 f.g f.pd f.d (fun _ t => remS (t.reg f.a) (t.reg f.b)) ∧
    WritesTo (.remu f) 2 f.g f.pd f.d (fun _ t => remU (t.reg f.a) (t.reg f.b))) ∧
  (∀ f : QLit, let b : W := f.lit.signExtend 64
    WritesTo (.divLit f) 4 f.g f.pd f.d (fun _ t => divS (t.reg f.a) b) ∧
    WritesTo (.divuLit f) 4 f.g f.pd f.d (fun _ t => divU (t.reg f.a) b) ∧
    WritesTo (.remLit f) 4 f.g f.pd f.d (fun _ t => remS (t.reg f.a) b) ∧
    WritesTo (.remuLit f) 4 f.g f.pd f.d (fun _ t => remU (t.reg f.a) b)) ∧
  (∀ a b : W, b ≠ 0 →
    (∃ q r : Int, a.toInt = q * b.toInt + r ∧ r.natAbs < b.toInt.natAbs ∧ (q * b.toInt).natAbs ≤ a.toInt.natAbs ∧
      (0 ≤ a.toInt → 0 ≤ r) ∧ (a.toInt ≤ 0 → r ≤ 0) ∧ divS a b = BitVec.ofInt 64 q ∧ (remS a b).toInt = r ∧
      (a ≠ 0x8000000000000000 ∨ b ≠ 0xFFFFFFFFFFFFFFFF → (divS a b).toInt = q)) ∧
    a.toNat = (divU a b).toNat * b.toNat + (remU a b).toNat ∧ (remU a b).toNat < b.toNat) ∧
  (∀ a b : W, b ≠ 0 → divS a b * b + remS a b = a ∧ divU a b * b + remU a b = a) ∧
  (∀ a : W, divS a 0 = 0xFFFFFFFFFFFFFFFF ∧ divU a 0 = 0xFFFFFFFFFFFFFFFF ∧ remS a 0 = a ∧ remU a 0 = a) ∧
  divS 0x8000000000000000 0xFFFFFFFFFFFFFFFF = 0x8000000000000000 ∧ remS 0x8000000000000000 0xFFFFFFFFFFFFFFFF = 0

/-- R264, R266: CLZ and CTZ count the zeros above the highest and below the lowest set bit, POPC the set bits; BFI
changes the field alone, and BFX without SX reads back the field that BFI put in. -/
def Sys2Proof.Machine.BitCounts : Prop :=
  (∀ a : W, a ≠ 0 → ∃ n m : Nat, n < 64 ∧ m < 64 ∧ clz a = w64 (63 - n) ∧ ctz a = w64 m ∧ a.getLsbD n = true ∧ a.getLsbD m = true ∧
    (∀ i, n < i → a.getLsbD i = false) ∧ (∀ i, i < m → a.getLsbD i = false)) ∧
  (∀ a : W, popc a = w64 ((List.range 64).countP fun i => a.getLsbD i)) ∧
  clz 0 = 64 ∧ ctz 0 = 64 ∧
  (∀ d a c : W, ∀ i : Nat, i < c.bits 5 0 ∨ c.bits 5 0 + c.bits 11 6 < i → (bfi d a c).getLsbD i = d.getLsbD i) ∧
  (∀ d a c : W, c.getLsbD 12 = false → bfx (bfi d a c) c = bfx (a <<< c.bits 5 0) c)

/-- R264–R266: the laws of division, and the bit counts and fields. -/
def Obligations.DivisionAndBits : Prop := DivisionLaw ∧ BitCounts

/-! ## Comparison and predicates (R270, R272, R277) -/

/-- Every bit of a predicate, for a comparison that holds; else none (R270). -/
def Sys2Proof.Machine.everyBit (b : Bool) : W := if b then BitVec.allOnes 64 else 0

/-- The value of a condition on two 64-bit registers (R27, R270). -/
def Sys2Proof.Machine.conditionHolds (c : CmpCond) (a b : W) : Bool :=
  match c with
  | .eq => decide (a = b)
  | .ne => decide (a ≠ b)
  | .lt => decide (a.toInt < b.toInt)
  | .ge => decide (b.toInt ≤ a.toInt)
  | .ltu => decide (a.toNat < b.toNat)
  | .geu => decide (b.toNat ≤ a.toNat)
  | .le => decide (a.toInt ≤ b.toInt)
  | .gt => decide (b.toInt < a.toInt)
  | .leu => decide (a.toNat ≤ b.toNat)
  | .gtu => decide (b.toNat < a.toNat)

/-- R270, R272, R277, R21: comparisons complete with 64 equal bits in P[d], from a register, a port or a literal; PLOG,
PSET, PGET and PCNT complete with their results. -/
def Obligations.PredicateResults : Prop :=
  ((∀ (f : CmpForm) (s : State) (c : Nat) (t : Task) (b : W) (k : Core),
     Issues s c t → guardPasses f.g t = true → (f.pb = true → (s.core c).inHi = false) → operandQ s c t f.pb f.b = .ok b k →
     exec (.cmp f) s = .next (s.retire c k (t.setPred f.pd (everyBit (conditionHolds f.cond (t.reg f.a) b))) (t.pc + 2))) ∧
   (∀ f : CmpLit, WritesP (.cmpLit f) 4 f.g f.pd fun _ t =>
     everyBit (conditionHolds f.cond (t.reg f.a) (f.lit.signExtend 64))) ∧
   (∀ f : CmpiForm, WritesP (.cmpi f) 2 f.g f.pd fun _ t => everyBit (cmpiHolds f.cond (t.reg f.a) (f.imm.signExtend 64))) ∧
   (∀ f : CmpiLit, WritesP (.cmpiLit f) 4 f.g f.pd fun _ t => everyBit (cmpiHolds f.cond (t.reg f.a) (f.lit.signExtend 64))) ∧
   (∀ f : C2, WritesP (.cCmpEq f) 1 .always (f.d.extractLsb' 0 3) fun _ t => everyBit (decide (t.reg f.d = t.reg f.b))) ∧
   (∀ f : FcmpForm, WritesP (.fcmp f) 2 f.g f.pd fun _ t =>
     let x := fun (r : Reg) => if f.dbl then sF64.decode (t.reg r).toNat else sF32.decode ((t.reg r).toNat % 2 ^ 32)
     everyBit (fcmpHolds f.cond (x f.a) (x f.b)))) ∧
  ((∀ f : PlogForm, WritesP (.plog f) 2 f.g f.d fun _ t => plog f.tt (t.pred f.a) (t.pred f.b)) ∧
   (∀ f : PsetForm, WritesP (.pset f) 2 f.g f.d fun _ t => t.reg f.a) ∧
   (∀ f : PgetForm, WritesX (.pget f) 2 f.g f.d fun _ t => t.pred f.a) ∧
   (∀ f : PgetForm, WritesX (.pcnt f) 2 f.g f.d fun k t =>
     w64 ((List.range (if k.inHi then 64 else k.vu.vl)).countP fun i => (t.pred f.a).getLsbD i))) ∧
  (∀ (tt : BitVec 4) (a b : W) (i : Nat), i < 64 →
    (plog tt a b).getLsbD i = tt.getLsbD (2 * b2n (a.getLsbD i) + b2n (b.getLsbD i)))

/-! ## Scalar floating point (R275, R276, R278) -/

/-- A floating instruction completes: X[d] takes the code `v` of the format, with the rounding of r_0 in SR mode, and
SR.RNG.STATE then moves on by 64 in that mode (R173, R276). -/
def Sys2Proof.Machine.WritesF (i : Instr) (g : Guard) (d : Reg) (v : Rnd → Task → Nat) : Prop :=
  ∀ s c t, Issues s c t → guardPasses g t = true →
    exec i s = .next (s.retire c ((s.core c).setBank (s.core c).inHi (((s.core c).bank (s.core c).inHi).advance 64))
      (t.setReg d (w64 (v (((s.core c).bank (s.core c).inHi).rnd 0) t))) (t.pc + 2))

/-- R275, R276, R278: the floating operations complete with one rounding of the exact result; FMIN and FMAX, and FCVT
between equal codes, leave the rounding state. -/
def Obligations.FloatResults : Prop :=
  let w (t : Task) (r : Reg) : Nat := (t.reg r).toNat % 2 ^ 32
  let x (t : Task) (r : Reg) : Nat := (t.reg r).toNat
  (∀ f : R3, WritesF (.faddF32 f) f.g f.d (fun rd t => sF32.add rd (w t f.a) (w t f.b)) ∧
    WritesF (.fsubF32 f) f.g f.d (fun rd t => sF32.sub rd (w t f.a) (w t f.b)) ∧
    WritesF (.fmulF32 f) f.g f.d (fun rd t => sF32.mul rd (w t f.a) (w t f.b)) ∧
    WritesF (.fdivF32 f) f.g f.d (fun rd t => sF32.div rd (w t f.a) (w t f.b)) ∧
    WritesF (.ffmaF32 f) f.g f.d (fun rd t =>
      sF32.fma rd (sF32.decode (w t f.a)) (sF32.decode (w t f.b)) (sF32.decode (w t f.d)))) ∧
  (∀ f : R3, WritesF (.faddF64 f) f.g f.d (fun rd t => sF64.add rd (x t f.a) (x t f.b)) ∧
    WritesF (.fsubF64 f) f.g f.d (fun rd t => sF64.sub rd (x t f.a) (x t f.b)) ∧
    WritesF (.fmulF64 f) f.g f.d (fun rd t => sF64.mul rd (x t f.a) (x t f.b)) ∧
    WritesF (.fdivF64 f) f.g f.d (fun rd t => sF64.div rd (x t f.a) (x t f.b)) ∧
    WritesF (.ffmaF64 f) f.g f.d (fun rd t =>
      sF64.fma rd (sF64.decode (x t f.a)) (sF64.decode (x t f.b)) (sF64.decode (x t f.d)))) ∧
  (∀ f : R2, WritesF (.fsqrtF32 f) f.g f.d (fun rd t => sF32.sqrt rd (w t f.a)) ∧
    WritesF (.fsqrtF64 f) f.g f.d (fun rd t => sF64.sqrt rd (x t f.a))) ∧
  (∀ f : R3, WritesX (.fminF32 f) 2 f.g f.d (fun _ t => w64 (sF32.minmax false (w t f.a) (w t f.b))) ∧
    WritesX (.fmaxF32 f) 2 f.g f.d (fun _ t => w64 (sF32.minmax true (w t f.a) (w t f.b))) ∧
    WritesX (.fminF64 f) 2 f.g f.d (fun _ t => w64 (sF64.minmax false (x t f.a) (x t f.b))) ∧
    WritesX (.fmaxF64 f) 2 f.g f.d (fun _ t => w64 (sF64.minmax true (x t f.a) (x t f.b)))) ∧
  (∀ f : FcvtForm,
    (f.dst ≠ f.src → WritesF (.fcvt f) f.g f.d (fun rd t => (fcvt f.dst f.src rd (t.reg f.a)).toNat)) ∧
    (f.dst = f.src → WritesX (.fcvt f) 2 f.g f.d (fun _ t => extW (f.src == .i32) (cvtBits f.src) (x t f.a))))

/-! ## Branches (R16, R273, R274) -/

/-- R16, R273, R274, R21: a taken branch or jump to an index inside the code goes there and writes its link; one not
taken goes past itself. -/
def Sys2Proof.Machine.BranchResults : Prop :=
  (∀ f : BrForm, Branches (.br f) 2 f.g (fun _ t => brHolds f.cond (t.reg f.a)) (fun t => t.pc + f.off.toInt) 0 (fun _ => 0)) ∧
  (∀ f : BrLit, Branches (.brLit f) 4 f.g (fun _ t => brHolds f.cond (t.reg f.a)) (fun t => t.pc + f.lit.toInt) 0 (fun _ => 0)) ∧
  (∀ f : BpForm, Branches (.bp f) 2 f.g (fun k t => bpHolds f.cond (if k.inHi then 64 else k.vu.vl) (t.pred f.a))
    (fun t => t.pc + f.off.toInt) 0 (fun _ => 0)) ∧
  (∀ f : BpLit, Branches (.bpLit f) 4 f.g (fun k t => bpHolds f.cond (if k.inHi then 64 else k.vu.vl) (t.pred f.a))
    (fun t => t.pc + f.lit.toInt) 0 (fun _ => 0)) ∧
  (∀ f : JForm, Branches (.j f) 2 f.g (fun _ _ => true) (fun t => t.pc + f.off.toInt) 0 (fun _ => 0)) ∧
  (∀ f : JLit, Branches (.jLit f) 4 f.g (fun _ _ => true) (fun t => t.pc + f.lit.toInt) 0 (fun _ => 0)) ∧
  (∀ f : JlForm, Branches (.jl f) 2 f.g (fun _ _ => true) (fun t => t.pc + f.off.toInt) f.a (· + 2)) ∧
  (∀ f : JlLit, Branches (.jlLit f) 4 f.g (fun _ _ => true) (fun t => t.pc + f.lit.toInt) f.a (· + 4)) ∧
  (∀ f : Ra, Branches (.jr f) 2 f.g (fun _ _ => true) (fun t => (t.reg f.a).toNat) 0 (fun _ => 0)) ∧
  (∀ f : R2, Branches (.jlr f) 2 f.g (fun _ _ => true) (fun t => (t.reg f.a).toNat) f.d (· + 2)) ∧
  (∀ f : CImm, Branches (.cBrEq f) 1 .always (fun _ t => decide (t.reg f.d = 0)) (fun t => t.pc + f.imm.toInt) 0 (fun _ => 0)) ∧
  (∀ f : CImm, Branches (.cBrNe f) 1 .always (fun _ t => decide (t.reg f.d ≠ 0)) (fun t => t.pc + f.imm.toInt) 0 (fun _ => 0)) ∧
  (∀ f : C1, Branches (.cJr f) 1 .always (fun _ _ => true) (fun t => (t.reg f.a).toNat) 0 (fun _ => 0)) ∧
  (∀ f : C1, Branches (.cJlr f) 1 .always (fun _ _ => true) (fun t => (t.reg f.a).toNat) 1 (· + 1)) ∧
  (∀ (n : Nat) (p : W), n ≤ 64 →
    bpHolds .any n p = ((List.range n).any fun i => p.getLsbD i) ∧ bpHolds .all n p = ((List.range n).all fun i => p.getLsbD i) ∧
    bpHolds .none n p = ((List.range n).all fun i => !p.getLsbD i))

/-- The halfwords of a task's code: those of its carried buffer, or of instruction memory (R16, R162). -/
def Sys2Proof.Machine.codeEnd (t : Task) : Nat := if t.carried then t.code.length else Config.imemHalfwords

/-- Instruction `i` traps ILLEGAL at itself when it jumps, or branches and is taken, to a target outside the code (R16). -/
def Sys2Proof.Machine.OutsideTraps (i : Instr) (g : Guard) (taken : Core → Task → Bool) (z : Task → Int) : Prop :=
  ∀ (s : State) (c : Nat) (t : Task), Issues s c t → guardPasses g t = true → taken (s.core c) t = true →
    (z t < 0 ∨ (codeEnd t : Int) ≤ z t) → TrapsWith i s c t 0x01 ((s.core c).instrWord t)

/-- R16: a jump or taken branch whose target lies outside the code traps ILLEGAL at itself; no link register is written. -/
def Sys2Proof.Machine.JumpOutsideTraps : Prop :=
  (∀ f : R2, OutsideTraps (.jlr f) f.g (fun _ _ => true) (fun t => (t.reg f.a).toNat)) ∧
  (∀ f : Ra, OutsideTraps (.jr f) f.g (fun _ _ => true) (fun t => (t.reg f.a).toNat)) ∧
  (∀ f : C1, OutsideTraps (.cJr f) .always (fun _ _ => true) (fun t => (t.reg f.a).toNat) ∧
    OutsideTraps (.cJlr f) .always (fun _ _ => true) (fun t => (t.reg f.a).toNat)) ∧
  (∀ f : BrForm, OutsideTraps (.br f) f.g (fun _ t => brHolds f.cond (t.reg f.a)) (fun t => t.pc + f.off.toInt)) ∧
  (∀ f : BrLit, OutsideTraps (.brLit f) f.g (fun _ t => brHolds f.cond (t.reg f.a)) (fun t => t.pc + f.lit.toInt)) ∧
  (∀ f : BpForm, OutsideTraps (.bp f) f.g (fun k t => bpHolds f.cond (if k.inHi then 64 else k.vu.vl) (t.pred f.a))
    (fun t => t.pc + f.off.toInt)) ∧
  (∀ f : BpLit, OutsideTraps (.bpLit f) f.g (fun k t => bpHolds f.cond (if k.inHi then 64 else k.vu.vl) (t.pred f.a))
    (fun t => t.pc + f.lit.toInt)) ∧
  (∀ f : JForm, OutsideTraps (.j f) f.g (fun _ _ => true) (fun t => t.pc + f.off.toInt)) ∧
  (∀ f : JLit, OutsideTraps (.jLit f) f.g (fun _ _ => true) (fun t => t.pc + f.lit.toInt)) ∧
  (∀ f : JlForm, OutsideTraps (.jl f) f.g (fun _ _ => true) (fun t => t.pc + f.off.toInt)) ∧
  (∀ f : JlLit, OutsideTraps (.jlLit f) f.g (fun _ _ => true) (fun t => t.pc + f.lit.toInt)) ∧
  (∀ f : CImm, OutsideTraps (.cBrEq f) .always (fun _ t => decide (t.reg f.d = 0)) (fun t => t.pc + f.imm.toInt) ∧
    OutsideTraps (.cBrNe f) .always (fun _ t => decide (t.reg f.d ≠ 0)) (fun t => t.pc + f.imm.toInt))

/-- R16, R21, R273, R274: branches and jumps, and targets outside the code. -/
def Obligations.Branching : Prop := BranchResults ∧ JumpOutsideTraps
/-! ## Guards, privilege and restricted code (R22–R25, R162) -/

/-- The guarded instructions of the scalar stream, by length in halfwords and guard. -/
def Sys2Proof.Machine.scalarForm (i : Instr) : Option (Nat × Guard) :=
  match i with
  | .add f | .sub f | .min f | .max f | .minu f | .maxu f | .andn f | .bfx f | .and f | .or f | .xor f | .bfi f => some (2, f.g)
  | .shl f | .shr f | .sar f | .rol f | .mul f | .mulh f | .mulhu f | .xyaddr f | .div f | .divu f | .rem f | .remu f => some (2, f.g)
  | .addLit f | .subLit f | .minLit f | .maxLit f | .minuLit f | .maxuLit f | .andnLit f | .bfxLit f | .andLit f => some (4, f.g)
  | .orLit f | .xorLit f | .bfiLit f | .shlLit f | .shrLit f | .sarLit f | .rolLit f | .mulLit f | .mulhLit f => some (4, f.g)
  | .mulhuLit f | .xyaddrLit f | .divLit f | .divuLit f | .remLit f | .remuLit f => some (4, f.g)
  | .clz f | .ctz f | .popc f => some (2, f.g)
  | .ext f => some (2, f.g)
  | .sel f => some (2, f.g)
  | .selLit f => some (4, f.g)
  | .wfld f => some (2, f.g)
  | .wfldLit f | .addiLit f | .andiLit f | .oriLit f | .xoriLit f => some (4, f.g)
  | .cmp f => some (2, f.g)
  | .cmpLit f => some (4, f.g)
  | .addi f | .andi f | .ori f | .xori f => some (2, f.g)
  | .shli f | .shri f | .sari f => some (2, f.g)
  | .cmpi f => some (2, f.g)
  | .cmpiLit f => some (4, f.g)
  | .movi f | .movhi f => some (2, f.g)
  | .moviLit f | .movhiLit f => some (4, f.g)
  | .faddF32 f | .fsubF32 f | .fmulF32 f | .fdivF32 f | .faddF64 f | .fsubF64 f | .fmulF64 f | .fdivF64 f => some (2, f.g)
  | .fminF32 f | .fmaxF32 f | .fminF64 f | .fmaxF64 f | .ffmaF32 f | .ffmaF64 f => some (2, f.g)
  | .fsqrtF32 f | .fsqrtF64 f => some (2, f.g)
  | .fcmp f => some (2, f.g)
  | .fcvt f => some (2, f.g)
  | .br f => some (2, f.g)
  | .brLit f => some (4, f.g)
  | .bp f => some (2, f.g)
  | .bpLit f => some (4, f.g)
  | .j f => some (2, f.g)
  | .jLit f => some (4, f.g)
  | .jl f => some (2, f.g)
  | .jlLit f => some (4, f.g)
  | .jr f => some (2, f.g)
  | .jlr f => some (2, f.g)
  | .plog f => some (2, f.g)
  | .pset f => some (2, f.g)
  | .pget f | .pcnt f => some (2, f.g)
  | .repb f => some (4, f.g)
  | .ld f | .ldAcq f | .rld f | .rst f | .ldf f | .ldfe f => some (2, f.g)
  | .ldLit f | .ldAcqLit f | .rldLit f | .rstLit f | .ldfLit f | .ldfeLit f => some (4, f.g)
  | .st f | .stRel f | .stf f => some (2, f.g)
  | .stLit f | .stRelLit f | .stfLit f => some (4, f.g)
  | .ldx f => some (2, f.g)
  | .stx f => some (2, f.g)
  | .ldp f | .stp f => some (2, f.g)
  | .ldpLit f | .stpLit f => some (4, f.g)
  | .amoW f | .amoD f | .ramoW f | .ramoD f => some (2, f.g)
  | .casW f | .casD f | .cas2 f => some (2, f.g)
  | .cwb f | .cinv f | .feclr f | .winset f | .hset f => some (2, f.g)
  | .send f => some (2, f.g)
  | .sendw f => some (2, f.g)
  | .sendc f => some (2, f.g)
  | .mrd f => some (2, f.g)
  | .tswap f | .capset f | .tblld f | .wait f => some (2, f.g)
  | .mxcmd f => some (2, f.g)
  | .get f | .put f | .getx f | .putx f | .putxa f | .putr f | .mcast f => some (2, f.g)
  | .slotret f => some (2, f.g)
  | .sbind f => some (2, f.g)
  | .cwait f => some (2, f.g)
  | .mprobe f | .minsert f | .mremove f | .mcas f | .mprobev f | .mrowget f | .mrowput f | .mscan f | .mstat f | .mrepl f => some (2, f.g)
  | .mupsert f | .mupsertv f => some (2, f.g)
  | .dqpush f | .hmask f | .barv f | .barw f => some (2, f.g)
  | .dqpop f => some (2, f.g)
  | .dqsplit f | .dqsteal f | .launch f | .launchH f => some (2, f.g)
  | .done f | .idem f | .idemEnd f | .rfence f | .rtt f => some (2, f.g)
  | .fenceAcq f | .fenceRel f | .fenceFull f | .fenceM f => some (2, f.g)
  | .trap f => some (2, f.g)
  | .srd f => some (2, f.g)
  | .swr f => some (2, f.g)
  | .tlbinv f => some (2, f.g)
  | _ => none

/-- The instructions of the scalar stream that user mode may not run (R24, R306, R324). -/
def Sys2Proof.Machine.supervisorOnly (i : Instr) : Bool :=
  match i with
  | .hset _ | .capset _ | .rtt _ | .tlbinv _ => true
  | .srd f => decide (0x100 ≤ f.n.toNat)
  | .swr f => decide (0x100 ≤ f.n.toNat)
  | _ => false

/-- The instructions of the scalar stream that HI tasks may not run: every Q-format form with a port bit set, and those that R25 and
R324 name. -/
def Sys2Proof.Machine.barredInHi (i : Instr) : Bool :=
  match i with
  | .add f | .sub f | .min f | .max f | .minu f | .maxu f | .andn f | .bfx f | .and f | .or f | .xor f | .bfi f => f.pb || f.pd
  | .shl f | .shr f | .sar f | .rol f | .mul f | .mulh f | .mulhu f | .xyaddr f | .div f | .divu f | .rem f | .remu f => f.pb || f.pd
  | .addLit f | .subLit f | .minLit f | .maxLit f | .minuLit f | .maxuLit f | .andnLit f | .bfxLit f | .andLit f => f.pd
  | .orLit f | .xorLit f | .bfiLit f | .shlLit f | .shrLit f | .sarLit f | .rolLit f | .mulLit f | .mulhLit f => f.pd
  | .mulhuLit f | .xyaddrLit f | .divLit f | .divuLit f | .remLit f | .remuLit f => f.pd
  | .clz f | .ctz f | .popc f => f.pd
  | .ext f => f.pd
  | .cmp f => f.pb
  | .repb _ | .mprobev _ | .mupsertv _ | .sbind _ | .tswap _ | .mxcmd _ => true
  | .srd f => decide (f.n.toNat = 0x03 ∨ f.n.toNat = 0x0C)
  | .swr f => decide (f.n.toNat = 0x03 ∨ f.n.toNat = 0x0C)
  | _ => false

/-- The guarded instructions of the scalar stream whose majors R162 does not allow in carried code. -/
def Sys2Proof.Machine.barredCarried (i : Instr) : Bool :=
  match i with
  | .repb _ | .winset _ | .hset _ | .tswap _ | .capset _ | .tblld _ | .wait _ | .mxcmd _ => true
  | .get _ | .put _ | .getx _ | .putx _ | .putxa _ | .putr _ | .mcast _ | .slotret _ | .sbind _ | .cwait _ => true
  | .mprobev _ | .mupsertv _ | .dqpush _ | .dqpop _ | .dqsplit _ | .dqsteal _ | .hmask _ | .barv _ | .barw _ => true
  | .launch _ | .launchH _ | .idem _ | .idemEnd _ | .rfence _ | .rtt _ | .fenceAcq _ | .fenceRel _ | .fenceFull _ | .fenceM _ => true
  | .trap _ | .srd _ | .swr _ | .tlbinv _ => true
  | _ => false

/-- R22, R23: a guarded-off instruction of the scalar stream changes no register, predicate, memory or status: the pc
moves past it and its literal, in either mode, in LO tasks and in HI tasks. What the mode, the kind of task or carried code may not
run traps first (R24). -/
def Sys2Proof.Machine.GuardedOff : Prop :=
  ∀ (i : Instr) (len : Nat) (g : Guard) (s : State) (c : Nat) (t : Task), scalarForm i = some (len, g) → Issues s c t →
    guardPasses g t = false → (supervisorOnly i = true → t.sup = true) → (barredInHi i = true → (s.core c).inHi = false) →
    (barredCarried i = true → t.carried = false) →
    exec i s = .next (s.retire c (s.core c) t (t.pc + len))

/-- R24, R25, R306, R324: in user mode the supervisor instructions, and SRD and SWR of registers from 0x100, trap PRIV;
in a HI task every instruction of the vector/matrix stream and those of R25, the Q-format forms with a port bit set among them, trap
HIVEC; in carried code what R162 does not allow traps ILLEGAL; all whether or not the guard passes. -/
def Sys2Proof.Machine.RestrictedCodeTraps : Prop :=
  (∀ (i : Instr) (len : Nat) (g : Guard) (s : State) (c : Nat) (t : Task), scalarForm i = some (len, g) → Issues s c t →
    (t.carried = true → barredCarried i = true → TrapsWith i s c t 0x01 ((s.core c).instrWord t)) ∧
    ((barredCarried i = true → t.carried = false) → supervisorOnly i = true → t.sup = false →
      TrapsWith i s c t 0x02 ((s.core c).instrWord t)) ∧
    ((barredCarried i = true → t.carried = false) → (supervisorOnly i = true → t.sup = true) → barredInHi i = true →
      (s.core c).inHi = true → TrapsWith i s c t 0x09 ((s.core c).instrWord t))) ∧
  (∀ (s : State) (c : Nat) (t : Task), Issues s c t →
    (t.carried = true → TrapsWith .repe s c t 0x01 ((s.core c).instrWord t)) ∧
    (t.carried = false → (s.core c).inHi = true → TrapsWith .repe s c t 0x09 ((s.core c).instrWord t))) ∧
  (∀ (i : Instr) (s : State) (c : Nat) (t : Task), ((laneGuard i).isSome || (unitGuard i).isSome) = true → Issues s c t →
    (∃ lag, s.turn = .core c lag) →
    (t.carried = true → TrapsWith i s c t 0x01 ((s.core c).instrWord t)) ∧
    (t.carried = false → (s.core c).inHi = true → TrapsWith i s c t 0x09 ((s.core c).instrWord t)))

/-- R22–R25, R306, R324: guards, privilege and restricted code. -/
def Obligations.GuardsAndPrivilege : Prop := GuardedOff ∧ RestrictedCodeTraps

/-! ## Traps (R305–R307, R326, R327) -/

/-- R305, R306, R312: taking a trap outside a handler saves the cause, the value and the pc, records the task in SR.TSTAT, clears
SR.REPST.V, and puts the task in supervisor mode at SR.TVEC.PC; its registers, every memory and every other core stay. -/
def Sys2Proof.Machine.TrapEntry : Prop :=
  ∀ (s : State) (c : Nat) (hi : Bool) (t : Task) (code : Nat) (v pc : W) (taskless skip : Bool),
    (s.core c).regs.tstat.getLsbD 15 = false →
    let s' := takeTrap s c hi t code v pc taskless skip
    let r := (s.core c).regs
    (s'.core c).regs = { r with
      trapc := w64 code, trapv := v, trappc := pc, repst := r.repst &&& 0x7FFFFFFFFFFFFFFF,
      tstat := w64 (2 ^ 15 + b2n t.sup * 2 ^ 14 + b2n hi * 2 ^ 13 + b2n t.carried * 2 ^ 12 + b2n taskless * 2 ^ 11
        + b2n (t.idem.isSome && !hi) * 2 ^ 10 + b2n skip * 2 ^ 9 + t.entry % 64) } ∧
    (s'.core c).bankTask hi = some
      { t with sup := true, pc := r.tvec.bits 14 0, carried := false, stalled := false, bytewise := none } ∧
    (s'.core c).bankTask (!hi) = (s.core c).bankTask (!hi) ∧
    (s'.core c).lcl = (s.core c).lcl ∧ (s'.core c).l1 = (s.core c).l1 ∧ (s'.core c).vu = (s.core c).vu ∧
    (s'.core c).waybill = (s.core c).waybill ∧ OtherCoresSame s s' c ∧ SameBytes s s' ∧ s'.net = s.net ∧ s'.checks = s.checks

/-- R305: a trap inside a handler is a double trap: a machine check that names the core, and the core takes no further
instruction; no register changes. -/
def Sys2Proof.Machine.DoubleTrap : Prop :=
  ∀ (s : State) (c : Nat) (hi : Bool) (t : Task) (code : Nat) (v pc : W) (taskless skip : Bool),
    (s.core c).regs.tstat.getLsbD 15 = true →
    let s' := takeTrap s c hi t code v pc taskless skip
    s'.checks = s.checks ++ [(dieOf c, MCheck.doubleTrap c code v pc)] ∧ s'.core c = { s.core c with stopped := true } ∧
    OtherCoresSame s s' c ∧ SameBytes s s'

/-- R327 with the model's choice of log entry 20 (the spec gives no length to a place that holds no instruction): RTT with SKIP, or
after SOFT, whose SR.TRAPPC names no halfword of the code resumes at SR.TRAPPC itself. -/
def Sys2Proof.Machine.ReturnToNothing : Prop :=
  ∀ (f : G0) (s : State) (c : Nat) (t : Task), Issues s c t → t.carried = false → t.sup = true → guardPasses f.g t = true →
    let k := s.core c
    k.regs.tstat.getLsbD 15 = true → k.regs.tstat.getLsbD 8 = false → k.regs.tstat.getLsbD 11 = false → k.regs.repst.getLsbD 63 = false →
    k.half? { t with carried := k.regs.trappc.getLsbD 63 } (k.regs.trappc.bits 62 0) = none →
    exec (.rtt f) s = .next (s.retire c { k with regs := { k.regs with tstat := k.regs.tstat &&& 0xFFFFFFFFFFFF7FFF } }
      { t with sup := k.regs.tstat.getLsbD 14, carried := k.regs.trappc.getLsbD 63 } (k.regs.trappc.bits 62 0))

/-- R305, R306, R312: taking a trap, and a trap inside a handler; and (log entry 20, the model's choice) the return to a place that
holds no instruction. -/
def Obligations.TakingATrap : Prop := TrapEntry ∧ DoubleTrap ∧ ReturnToNothing

/-- R326, R327, R30: TRAP takes SOFT with its code, a pattern that is no instruction ILLEGAL with its word, and RTT, in a handler that
ends no task and holds no fault of the other stream, restores the mode and returns to SR.TRAPPC, past the instruction there for SOFT or
SKIP. -/
def Obligations.TrapAndReturn : Prop :=
  (∀ (f : TrapForm) (s : State) (c : Nat) (t : Task), Issues s c t → t.carried = false → guardPasses f.g t = true →
    TrapsWith (.trap f) s c t 0x0C (w64 f.code.toNat)) ∧
  (∀ (f : CZ) (s : State) (c : Nat) (t : Task), Issues s c t → t.carried = false → TrapsWith (.cTrap f) s c t 0x0C (w64 f.imm.toNat)) ∧
  (∀ (w : BitVec 32) (s : State) (c : Nat) (t : Task), Issues s c t → TrapsWith (.illegalEncoding w) s c t 0x01 (w64 w.toNat)) ∧
  (∀ (f : G0) (s : State) (c : Nat) (t : Task) (pc : Nat), Issues s c t → t.carried = false → t.sup = true → guardPasses f.g t = true →
    let k := s.core c
    let z := k.regs.trappc.bits 62 0
    k.regs.tstat.getLsbD 15 = true → k.regs.tstat.getLsbD 8 = false → k.regs.tstat.getLsbD 11 = false → k.regs.repst.getLsbD 63 = false →
    (if k.regs.tstat.getLsbD 9 ∨ k.regs.trapc.bits 7 0 = 0x0C then
      ∃ h, k.half? { t with carried := k.regs.trappc.getLsbD 63 } z = some h ∧ pc = z + lengthOf h
     else pc = z) →
    exec (.rtt f) s = .next (s.retire c { k with regs := { k.regs with tstat := k.regs.tstat &&& 0xFFFFFFFFFFFF7FFF } }
      { t with sup := k.regs.tstat.getLsbD 14, carried := k.regs.trappc.getLsbD 63 } pc)) ∧
  (∀ (f : G0) (s : State) (c : Nat) (t : Task), Issues s c t → t.carried = false → t.sup = true → guardPasses f.g t = true →
    (s.core c).regs.tstat.getLsbD 15 = false → TrapsWith (.rtt f) s c t 0x01 ((s.core c).instrWord t))

/-! ## System registers (R324, R325) -/

/-- What a write of value v to a system register does to a core, in supervisor mode (the registers' own descriptions). -/
def Sys2Proof.Machine.srEffects : List (Nat × (W → Core → Core)) :=
  [(0x03, fun v k => { k with vu := { k.vu with vl := if v.toNat % 128 = 0 then 1 else Nat.min (v.toNat % 128) 64 } }),
   (0x04, fun v k => k.setBank k.inHi { k.bank k.inHi with rmode := if 5 ≤ v.toNat % 8 then 0 else v.toNat % 8 }),
   (0x05, fun v k => k.setBank k.inHi { k.bank k.inHi with rng := v }),
   (0x09, fun v k => { k with regs := { k.regs with oobcnt := v } }),
   (0x0A, fun v k => { k with regs := { k.regs with ringNext := v.toNat % 1024 } }),
   (0x0B, fun v k => { k with regs := { k.regs with rprot := v.getLsbD 0 } }),
   (0x0F, fun v k => { k with regs := { k.regs with budget := v.toNat % 2 ^ 32 } }),
   (0x13, fun v k => { k with regs := { k.regs with cnext := Tbl.put 0 k.regs.cnext 3 (v.toNat % 2 ^ 48) } }),
   (0x23, fun v k => { k with regs := { k.regs with cdone := Tbl.put 0 k.regs.cdone 3 (v.toNat % 2 ^ 48) } })] ++
  [(0x100, fun v k => { k with regs := { k.regs with trapc := w64 (v.toNat % 256) } }),
   (0x101, fun v k => { k with regs := { k.regs with trappc := v } }),
   (0x102, fun v k => { k with regs := { k.regs with trapv := v } }),
   (0x103, fun v k => { k with regs := { k.regs with tstat := (k.regs.tstat &&& 0xFFFFFFFFFFFF3CFF) ||| (v &&& 0xC300) } }),
   (0x104, fun v k => { k with regs := { k.regs with tvec := w64 (v.toNat % 2 ^ 15) } }),
   (0x105, fun v k => { k with regs := { k.regs with tscr := v } }),
   (0x106, fun v k => { k with regs := { k.regs with lost := k.regs.lost && !v.getLsbD 63 } }),
   (0x107, fun v k => { k with regs := { k.regs with live := w64 (v.toNat % 2 ^ 48) } }),
   (0x108, fun v k => { k with regs := { k.regs with dtab := w64 (v.bits 55 12 * 2 ^ 12 + Nat.min (v.bits 4 0) 20) } }),
   (0x10B, fun _ k => k),
   (0x10C, fun v k => { k with regs := { k.regs with stealCnt := v.bits 47 16, stealScope := v.bits 1 0 } }),
   (0x10E, fun v k => { k with regs := k.regs.writeMcr 1 v }.settle)]

/-- R325 and the registers' descriptions: SRD completes with the register's value; SWR completes with the effect of its
register (a read-only register keeps its value); the register-write steps have the same effects. -/
def Obligations.SystemRegisters : Prop :=
  (∀ (f : SrdForm) (s : State) (c : Nat) (t : Task), Issues s c t → t.carried = false → guardPasses f.g t = true →
    (0x100 ≤ f.n.toNat → t.sup = true) → (f.n.toNat = 0x03 ∨ f.n.toNat = 0x0C → (s.core c).inHi = false) →
    exec (.srd f) s = .next (s.retire c (s.core c)
      (t.setReg f.d ((s.core c).readSr c t (s.core c).inHi f.n.toNat)) (t.pc + 2))) ∧
  (∀ (f : CImm) (s : State) (c : Nat) (t : Task), Issues s c t → t.carried = false →
    (f.imm.toNat = 0x03 ∨ f.imm.toNat = 0x0C → (s.core c).inHi = false) →
    exec (.cSrd f) s = .next (s.retire c (s.core c)
      (t.setReg f.d ((s.core c).readSr c t (s.core c).inHi f.imm.toNat)) (t.pc + 1))) ∧
  (∀ e ∈ srEffects, ∀ (f : SwrForm) (s : State) (c : Nat) (t : Task), f.n.toNat = e.1 → Issues s c t → t.carried = false → t.sup = true →
    guardPasses f.g t = true → (e.1 = 0x03 → (s.core c).inHi = false) →
    exec (.swr f) s = .next (s.retire c (e.2 (t.reg f.a) (s.core c)) t (t.pc + 2))) ∧
  (∀ (f : SwrForm) (s : State) (c : Nat) (t : Task), f.n.toNat ∈ [0x00, 0x01, 0x02, 0x06, 0x07, 0x08, 0x0C, 0x0D, 0x0E] →
    Issues s c t → t.carried = false → guardPasses f.g t = true → (f.n.toNat = 0x0C → (s.core c).inHi = false) →
    exec (.swr f) s = .next (s.retire c (s.core c) t (t.pc + 2))) ∧
  (∀ (s : State) (c : Nat) (v : W),
    exec (.srMcrWrite c 1 v) s = .next (s.onCore c fun k => { k with regs := k.regs.writeMcr 1 v }.settle) ∧
    exec (.srPendLostClear c v) s = .next (s.onCore c fun k => { k with regs := { k.regs with lost := k.regs.lost && !v.getLsbD 63 } }) ∧
    exec (.srVlWrite c v) s = .next (s.onCore c fun k =>
      { k with vu := { k.vu with vl := if v.toNat % 128 = 0 then 1 else Nat.min (v.toNat % 128) 64 } }) ∧
    exec (.srRmodeWrite c v) s = .next (s.onCore c fun k =>
      k.setBank k.inHi { k.bank k.inHi with rmode := if 5 ≤ v.toNat % 8 then 0 else v.toNat % 8 }) ∧
    exec (.srDtabWrite c v) s = .next (s.onCore c fun k =>
      { k with regs := { k.regs with dtab := w64 (v.bits 55 12 * 2 ^ 12 + Nat.min (v.bits 4 0) 20) } }) ∧
    exec (.srBudgetWrite c v) s = .next (s.onCore c fun k => { k with regs := { k.regs with budget := v.toNat % 2 ^ 32 } }) ∧
    exec (.registerWrite c 0x105 v) s = .next (s.onCore c fun k => { k with regs := { k.regs with tscr := v } })) ∧
  (∀ (r : Regs) (v : W) (e : Nat), e < 4 →
    let x := lane 16 v.toNat e
    Tbl.getD (r.writeMcr 1 v).mcs (4 + e) 0 = (if x / 2 ^ 15 = 0 then 0 else if bitsOf x 14 11 = 0 then 1 else bitsOf x 14 11) ∧
    (∀ j, j < 4 ∨ 8 ≤ j → Tbl.getD (r.writeMcr 1 v).mcs j 0 = Tbl.getD r.mcs j 0)) ∧
  (∀ (k : Core) (c : Nat) (t : Task) (hi : Bool), k.readSr c t hi 0x01 = t.wid ∧ k.readSr c t hi 0x02 = k.regs.cyc ∧
    k.readSr c t hi 0x03 = w64 k.vu.vl ∧ k.readSr c t hi 0x05 = (k.bank hi).rng ∧ k.readSr c t hi 0x0F = w64 k.regs.budget ∧
    k.readSr c t hi 0x15 = w64 (Tbl.getD k.regs.cnext 5 0) ∧ k.readSr c t hi 0x103 = k.regs.tstat ∧
    k.readSr c t hi 0x106 = w64 (b2n k.regs.lost * 2 ^ 63 + k.regs.pend.length))
/-! ## Loads, stores and atomics on the own core (R11, R50, R103–R107, R152, R193) -/

/-- R104, R105, R103: loads from the core's own scratchpad, instruction memory (window 13) or full bits (window 15) complete: the
destination takes the bytes at the effective address, extended as x says; LD.ACQ then acquires at PACKAGE scope. -/
def Obligations.OwnLoads : Prop :=
  (∀ f : MemForm,
    LoadsOwn (.ld f) 2 f.g (fun t => t.reg f.a + w64 (f.disp.toNat * f.sz.bytes)) f.sz.bytes false (fun s _ => s)
      (fun v t => t.setReg f.d (extended f.sx f.sz.bytes v)) ∧
    LoadsOwn (.ldAcq f) 2 f.g (fun t => t.reg f.a + w64 (f.disp.toNat * f.sz.bytes)) f.sz.bytes false (fun s c => s.acquire c .package)
      (fun v t => t.setReg f.d (extended f.sx f.sz.bytes v))) ∧
  (∀ f : MemLit,
    LoadsOwn (.ldLit f) 4 f.g (fun t => t.reg f.a + f.lit.signExtend 64) f.sz.bytes false (fun s _ => s)
      (fun v t => t.setReg f.d (extended f.sx f.sz.bytes v)) ∧
    LoadsOwn (.ldAcqLit f) 4 f.g (fun t => t.reg f.a + f.lit.signExtend 64) f.sz.bytes false (fun s c => s.acquire c .package)
      (fun v t => t.setReg f.d (extended f.sx f.sz.bytes v))) ∧
  (∀ f : LdxForm, LoadsOwn (.ldx f) 2 f.g (fun t => t.reg f.a + t.reg f.b) f.sz.bytes false (fun s _ => s)
    (fun v t => t.setReg f.d (extended f.sx f.sz.bytes v))) ∧
  (∀ f : DispForm, LoadsOwn (.ldp f) 2 f.g (fun t => t.reg f.a + w64 (f.disp.toNat * 16)) 16 true (fun s _ => s)
    (fun v t => t.setPair f.d v)) ∧
  (∀ f : R2Lit, LoadsOwn (.ldpLit f) 4 f.g (fun t => t.reg f.a + f.lit.signExtend 64) 16 true (fun s _ => s)
    (fun v t => t.setPair f.d v)) ∧
  (∀ f : CImm,
    LoadsOwn (.cLdDX2 f) 1 .always (fun t => t.reg 2 + w64 (f.imm.toNat * 8)) 8 false (fun s _ => s) (fun v t => t.setReg f.d (w64 v)) ∧
    LoadsOwn (.cLdWX2 f) 1 .always (fun t => t.reg 2 + w64 (f.imm.toNat * 4)) 4 false (fun s _ => s) (fun v t => t.setReg f.d (w64 v))) ∧
  (∀ f : C2,
    LoadsOwn (.cLdW f) 1 .always (fun t => t.reg f.b) 4 false (fun s _ => s) (fun v t => t.setReg f.d (w64 v)) ∧
    LoadsOwn (.cLdD f) 1 .always (fun t => t.reg f.b) 8 false (fun s _ => s) (fun v t => t.setReg f.d (w64 v))) ∧
  (∀ (l : Local) (w off n : Nat), l.load 13 off n = some (l.imem.readN off n) ∧ l.load 15 off n = some (l.full.readN off n) ∧
    (w ≤ 12 → l.poisoned off n = false → l.load w off n = some (l.spad.readN off n)) ∧
    (w ≤ 12 → l.poisoned off n = true → l.load w off n = none))

/-- R104, R105: stores to the core's own scratchpad, instruction memory (by supervisor code) or full bits complete: the port writes the
bytes of the source at the effective address; ST.REL once the release conditions hold. -/
def Sys2Proof.Machine.StoreForms : Prop :=
  (∀ f : StForm,
    StoresOwn (.st f) 2 f.g (fun t => t.reg f.a + w64 (f.disp.toNat * f.sz.bytes)) f.sz.bytes false false (fun t => (t.reg f.d).toNat) ∧
    StoresOwn (.stRel f) 2 f.g (fun t => t.reg f.a + w64 (f.disp.toNat * f.sz.bytes)) f.sz.bytes false true (fun t => (t.reg f.d).toNat)) ∧
  (∀ f : StLit,
    StoresOwn (.stLit f) 4 f.g (fun t => t.reg f.a + f.lit.signExtend 64) f.sz.bytes false false (fun t => (t.reg f.d).toNat) ∧
    StoresOwn (.stRelLit f) 4 f.g (fun t => t.reg f.a + f.lit.signExtend 64) f.sz.bytes false true (fun t => (t.reg f.d).toNat)) ∧
  (∀ f : StxForm, StoresOwn (.stx f) 2 f.g (fun t => t.reg f.a + t.reg f.b) f.sz.bytes false false (fun t => (t.reg f.d).toNat)) ∧
  (∀ f : DispForm, StoresOwn (.stp f) 2 f.g (fun t => t.reg f.a + w64 (f.disp.toNat * 16)) 16 true false (fun t => t.pairOf f.d)) ∧
  (∀ f : R2Lit, StoresOwn (.stpLit f) 4 f.g (fun t => t.reg f.a + f.lit.signExtend 64) 16 true false (fun t => t.pairOf f.d)) ∧
  (∀ f : CImm,
    StoresOwn (.cStDX2 f) 1 .always (fun t => t.reg 2 + w64 (f.imm.toNat * 8)) 8 false false (fun t => (t.reg f.d).toNat) ∧
    StoresOwn (.cStWX2 f) 1 .always (fun t => t.reg 2 + w64 (f.imm.toNat * 4)) 4 false false (fun t => (t.reg f.d).toNat)) ∧
  (∀ f : C2,
    StoresOwn (.cStW f) 1 .always (fun t => t.reg f.b) 4 false false (fun t => (t.reg f.d).toNat) ∧
    StoresOwn (.cStD f) 1 .always (fun t => t.reg f.b) 8 false false (fun t => (t.reg f.d).toNat))

/-- R104, R152 (the frame of a scratchpad store): the port writes each stored byte whose 8-byte word is sound or covered whole,
abandons the part of a poisoned word that it does not cover, clears the poison of words it covers, and changes no other byte, register,
core or memory. -/
def Sys2Proof.Machine.StoreAtThePort : Prop :=
  ∀ (s : State) (c w off : Nat) (bytes : List Byte), w ≤ 12 →
    let s' := s.portStore c w off bytes
    let l := (s.core c).lcl
    let l' := (s'.core c).lcl
    let covered := fun j => off ≤ 8 * j ∧ 8 * j + 8 ≤ off + bytes.length
    (∀ i b, bytes[i]? = some b → (Tbl.getD l.poison ((off + i) / 8) false = false ∨ covered ((off + i) / 8)) →
      l'.spad.read (off + i) = b) ∧
    (∀ i, i < bytes.length → Tbl.getD l.poison ((off + i) / 8) false = true → ¬ covered ((off + i) / 8) →
      l'.spad.read (off + i) = l.spad.read (off + i)) ∧
    (∀ j, Tbl.getD l'.poison j false = (Tbl.getD l.poison j false && !decide (covered j))) ∧
    SpadSameBut s s' c off bytes.length ∧ OtherCoresSame s s' c ∧
    (s'.core c).lo = (s.core c).lo ∧ (s'.core c).hi = (s.core c).hi ∧ (s'.core c).regs = (s.core c).regs ∧
    (s'.core c).vu = (s.core c).vu ∧ (s'.core c).l1 = (s.core c).l1 ∧
    s'.mem = s.mem ∧ s'.hostMem = s.hostMem ∧ s'.net = s.net

/-- R104, R105, R152: stores to the own scratchpad, and what the port does with them. -/
def Obligations.OwnStores : Prop := StoreForms ∧ StoreAtThePort

/-- R106, R107: AMO, CAS and CAS2 on a word of the own scratchpad complete as one action: the old value goes to the destination, the
new one to the word. -/
def Obligations.OwnAtomics : Prop :=
  (∀ f : AmoForm,
    RmwOwn (.amoW f) f.g (fun t => t.reg f.a) 4 (fun t => .amo f.op ((t.reg f.b).toNat % 2 ^ 32)) (fun v t => t.setReg f.d (w64 v)) ∧
    RmwOwn (.amoD f) f.g (fun t => t.reg f.a) 8 (fun t => .amo f.op (t.reg f.b).toNat) (fun v t => t.setReg f.d (w64 v))) ∧
  (∀ f : R3,
    RmwOwn (.casW f) f.g (fun t => t.reg f.a) 4 (fun t => .cas ((t.reg f.d).toNat % 2 ^ 32) ((t.reg f.b).toNat % 2 ^ 32))
      (fun v t => t.setReg f.d (w64 v)) ∧
    RmwOwn (.casD f) f.g (fun t => t.reg f.a) 8 (fun t => .cas (t.reg f.d).toNat (t.reg f.b).toNat) (fun v t => t.setReg f.d (w64 v)) ∧
    RmwOwn (.cas2 f) f.g (fun t => t.reg f.a) 16 (fun t => .cas (t.pairOf f.d) (t.pairOf f.b)) (fun v t => t.setPair f.d v)) ∧
  (∀ (n old v : Nat), n = 4 ∨ n = 8 → old < 256 ^ n → v < 256 ^ n →
    (Rmw.amo .add v).new n old = some ((old + v) % 256 ^ n) ∧ (Rmw.amo .swap v).new n old = some v ∧
    (Rmw.amo .and v).new n old = some (old &&& v) ∧ (Rmw.amo .or v).new n old = some (old ||| v) ∧
    (Rmw.amo .xor v).new n old = some (old ^^^ v) ∧
    (Rmw.amo .minu v).new n old = some (if old ≤ v then old else v) ∧ (Rmw.amo .maxu v).new n old = some (if old ≤ v then v else old) ∧
    (Rmw.amo .min v).new n old = some (if (BitVec.ofNat (8 * n) old).toInt ≤ (BitVec.ofNat (8 * n) v).toInt then old else v) ∧
    (Rmw.amo .max v).new n old = some (if (BitVec.ofNat (8 * n) old).toInt ≤ (BitVec.ofNat (8 * n) v).toInt then v else old) ∧
    (∀ e, (Rmw.cas e v).new n old = if old = e then some v else none))

/-- R11: what the bytes a … a+n−1 name: global memory below 2^56; in regions 0x8 and 0x9 the offset of a window of a core, whose
field bits [45:18] are 0; a peer in 0xA; a configuration register in 0xF, for supervisor mode; nothing else. -/
def Sys2Proof.Machine.AddressRegions : Prop :=
  ∀ (c : Nat) (sup : Bool) (a n : Nat), a < 2 ^ 64 → 1 ≤ n →
    (a + n ≤ 2 ^ 56 → decodeAddr c sup a n = .ok (.global a)) ∧
    (a < 2 ^ 60 → 2 ^ 56 < a + n → decodeAddr c sup a n = .error 0x08) ∧
    (2 ^ 60 ≤ a → a < 8 * 2 ^ 60 → decodeAddr c sup a n = .error 0x08) ∧
    (8 * 2 ^ 60 ≤ a → a < 9 * 2 ^ 60 →
      decodeAddr c sup a n = if a / 2 ^ 18 % 2 ^ 28 ≠ 0 then .error 0x08
        else if 0x30000 < a % 2 ^ 18 + n then .error 0x06
        else .ok (.loc (a / 2 ^ 50 % 1024) (a / 2 ^ 46 % 16) (a % 2 ^ 18))) ∧
    (9 * 2 ^ 60 ≤ a → a < 10 * 2 ^ 60 →
      decodeAddr c sup a n = if a / 2 ^ 50 % 1024 ≠ 0 ∨ a / 2 ^ 18 % 2 ^ 28 ≠ 0 then .error 0x08
        else if 0x30000 < a % 2 ^ 18 + n then .error 0x06
        else .ok (.loc c (a / 2 ^ 46 % 16) (a % 2 ^ 18))) ∧
    (10 * 2 ^ 60 ≤ a → a < 11 * 2 ^ 60 → decodeAddr c sup a n = .ok (.peer (a / 2 ^ 56 % 16) (a % 2 ^ 56))) ∧
    (11 * 2 ^ 60 ≤ a → a < 15 * 2 ^ 60 → decodeAddr c sup a n = .error 0x08) ∧
    (15 * 2 ^ 60 ≤ a →
      decodeAddr c sup a n = if sup then .ok (.config (a / 2 ^ 52 % 256) (a / 2 ^ 48 % 16) (a % 2 ^ 48)) else .error 0x02)

/-- R50: who may use which window: 0, and a configured one of 1–12, every access below 0x30000; 13 loads below 0x10000, and stores and
Porters in supervisor mode; 14 nobody; 15 loads and stores below 0xC00. -/
def Sys2Proof.Machine.WindowRules : Prop :=
  ∀ (l : Local) (acc : Access) (sup : Bool) (w off n : Nat),
    (w ≤ 12 → (w = 0 ∨ (Tbl.getD l.win w 0).getLsbD 63 = true) → off + n ≤ 0x30000 → l.windowCheck acc sup w off n = none) ∧
    (w ≤ 12 → (w ≠ 0 ∧ (Tbl.getD l.win w 0).getLsbD 63 = false ∨ 0x30000 < off + n) →
      l.windowCheck acc sup w off n = some 0x06) ∧
    (0x10000 < off + n → l.windowCheck acc sup 13 off n = some 0x06) ∧
    (off + n ≤ 0x10000 → l.windowCheck .load sup 13 off n = none ∧
      l.windowCheck .store sup 13 off n = (if sup then none else some 0x02) ∧
      l.windowCheck .porter sup 13 off n = (if sup then none else some 0x02) ∧
      l.windowCheck .atomic sup 13 off n = some 0x06 ∧ l.windowCheck .vector sup 13 off n = some 0x06) ∧
    l.windowCheck acc sup 14 off n = some 0x06 ∧
    (0xC00 < off + n → l.windowCheck acc sup 15 off n = some 0x06) ∧
    (off + n ≤ 0xC00 → l.windowCheck .load sup 15 off n = none ∧ l.windowCheck .store sup 15 off n = none ∧
      l.windowCheck .atomic sup 15 off n = some 0x06 ∧ l.windowCheck .vector sup 15 off n = some 0x06 ∧
      l.windowCheck .porter sup 15 off n = some 0x06)

/-- R47, R155, R362: LD.D and ST.D of a configuration register read and write it; another size, another instruction, a unit that the
cluster has not, and an offset from 2^24 up trap ADDR, a misaligned offset ALIGN, and every access of user mode PRIV. -/
def Sys2Proof.Machine.ConfigurationAccesses : Prop :=
  (∀ (f : MemForm) (g : StForm) (s : State) (c : Nat) (t : Task) (cl u off : Nat),
    Issues s c t → guardPasses f.g t = true → guardPasses g.g t = true → t.carried = false →
    let la := t.reg f.a + w64 (f.disp.toNat * f.sz.bytes)
    let sa := t.reg g.a + w64 (g.disp.toNat * g.sz.bytes)
    let there := fun (a : W) (n : Nat) => decodeAddr c t.sup a.toNat n = .ok (.config cl u off)
    (∀ unit, unitOf cl u = some unit → off < 2 ^ 24 → off % 8 = 0 →
      (f.sz = .d → f.sx = false → there la 8 →
        exec (.ld f) s = .next (s.retire c (s.core c) (t.setReg f.d (s.readConfig unit off)) (t.pc + 2))) ∧
      (g.sz = .d → there sa 8 →
        let s' := s.writeConfig unit off (t.reg g.d)
        exec (.st g) s = .next (s'.retire c (s'.core c) t (t.pc + 2)))) ∧
    (f.sz ≠ .d ∨ f.sx = true ∨ unitOf cl u = none ∨ 2 ^ 24 ≤ off → there la f.sz.bytes → TrapsWith (.ld f) s c t 0x08 la) ∧
    (g.sz ≠ .d ∨ unitOf cl u = none ∨ 2 ^ 24 ≤ off → there sa g.sz.bytes → TrapsWith (.st g) s c t 0x08 sa) ∧
    (f.sz = .d → f.sx = false → (unitOf cl u).isSome = true → off < 2 ^ 24 → off % 8 ≠ 0 → there la 8 →
      TrapsWith (.ld f) s c t 0x03 la)) ∧
  (∀ (cl u : Nat), (u < 4 → unitOf cl u = some (cl * 4 + u)) ∧ unitOf cl 4 = some (1024 + cl) ∧ unitOf cl 5 = some (1280 + cl) ∧
    (u = 6 ∨ u = 7 ∨ 12 ≤ u → unitOf cl u = none) ∧
    (∀ i p, (portersOf cl)[i]? = some p → i < 4 → unitOf cl (8 + i) = some (1536 + p))) ∧
  (∀ (s : State) (u off : Nat) (v : W), u < 1024 → 0x10000 ≤ off → off < 0x11000 → off % 8 = 0 →
    s.readConfig u off = w64 (((s.core u).wb ((off - 0x10000) / 64)).bits / 2 ^ (8 * (off % 64))) ∧
    (off % 64 = 56 → s.writeConfig u off v = s.onCore u fun k =>
      if (k.wb ((off - 0x10000) / 64)).state = 2 then k.setWb ((off - 0x10000) / 64) WbEntry.free else k) ∧
    (off % 64 ≠ 56 → s.writeConfig u off v = s)) ∧
  (∀ (s : State) (u m : Nat) (v : W), m < 8 →
    s.writeConfig u (0x20000 + 0x100 * m) v = s.setMonitor u m { s.monitor u m with ctl := v &&& 0xBF0000000000FFFF } ∧
    s.readConfig u (0x20000 + 0x100 * m) = (s.monitor u m).ctl ∧
    s.readConfig u (0x20008 + 0x100 * m) = w64 (s.monitor u m).count)

/-- R103: the checks of an access, in order: an address of no place traps with the cause its region gives, a window that the access may not
use with the window's cause, a misaligned pair or atomic with ALIGN, a poisoned word with POISON at its first bad byte, and a page that
does not translate with its page cause; TRAPV is the failing address. -/
def Sys2Proof.Machine.AccessChecks : Prop :=
  (∀ (f : MemForm) (s : State) (c : Nat) (t : Task), Issues s c t → guardPasses f.g t = true →
    let ea := t.reg f.a + w64 (f.disp.toNat * f.sz.bytes)
    let n := f.sz.bytes
    (∀ code, decodeAddr c t.sup ea.toNat n = .error code → TrapsWith (.ld f) s c t code ea) ∧
    (∀ d v, decodeAddr c t.sup ea.toNat n = .ok (.peer d v) → TrapsWith (.ld f) s c t 0x08 ea) ∧
    (∀ d w off, decodeAddr c t.sup ea.toNat n = .ok (.loc d w off) → d ≠ c → TrapsWith (.ld f) s c t 0x08 ea) ∧
    (∀ w off code, decodeAddr c t.sup ea.toNat n = .ok (.loc c w off) →
      (s.core c).lcl.windowCheck .load t.sup w off n = some code → TrapsWith (.ld f) s c t code ea) ∧
    (∀ w off o, OwnAt s c t .load ea n w off → w ≤ 12 → (s.core c).lcl.poisoned off n = true →
      (s.core c).lcl.firstPoison off n = some o → TrapsWith (.ld f) s c t 0x22 (ea + w64 (o - off))) ∧
    (∀ va code a, decodeAddr c t.sup ea.toNat n = .ok (.global va) → t.carried = false →
      translateRange s c (whoOf (s.core c).inHi) t.sup false va n = .error (code, a) → TrapsWith (.ld f) s c t code (w64 a))) ∧
  (∀ (f : StForm) (s : State) (c : Nat) (t : Task), Issues s c t → guardPasses f.g t = true →
    let ea := t.reg f.a + w64 (f.disp.toNat * f.sz.bytes)
    let n := f.sz.bytes
    (∀ code, decodeAddr c t.sup ea.toNat n = .error code → TrapsWith (.st f) s c t code ea) ∧
    (∀ off, decodeAddr c t.sup ea.toNat n = .ok (.loc c 13 off) → off + n ≤ 0x10000 → t.sup = false →
      TrapsWith (.st f) s c t 0x02 ea) ∧
    (∀ va code a, decodeAddr c t.sup ea.toNat n = .ok (.global va) → t.carried = false →
      translateRange s c (whoOf (s.core c).inHi) t.sup true va n = .error (code, a) → TrapsWith (.st f) s c t code (w64 a))) ∧
  (∀ (f : R3) (s : State) (c : Nat) (t : Task) (va : Nat), Issues s c t → guardPasses f.g t = true → t.carried = false →
    decodeAddr c t.sup (t.reg f.a).toNat 8 = .ok (.global va) → (t.reg f.a).toNat % 8 ≠ 0 →
    TrapsWith (.casD f) s c t 0x03 (t.reg f.a)) ∧
  (∀ (f : DispForm) (s : State) (c : Nat) (t : Task) (va : Nat), Issues s c t → guardPasses f.g t = true → t.carried = false →
    let ea := t.reg f.a + w64 (f.disp.toNat * 16)
    decodeAddr c t.sup ea.toNat 16 = .ok (.global va) → ea.toNat % 16 ≠ 0 →
    TrapsWith (.ldp f) s c t 0x03 ea ∧ TrapsWith (.stp f) s c t 0x03 ea)

/-- R11, R47, R50, R103: what an address names, who may use a window, the checks of an access in their order, and the configuration
registers. -/
def Obligations.AccessTraps : Prop := AddressRegions ∧ WindowRules ∧ AccessChecks ∧ ConfigurationAccesses

/-! ## Global memory through the L1 (R91, R92, R104, R106, R107) -/

/-- R104, R106, R91, R92: on translated, aligned global bytes, a load that the L1 can serve completes with the L1's bytes; a load that it
cannot serve asks the homes and stays at the instruction; a store whose words the L1 can take completes; an atomic goes to the home of
its word and the stream waits. -/
def Sys2Proof.Machine.GlobalForms : Prop :=
  (∀ (f : MemForm) (s s' : State) (c : Nat) (t : Task) (va : Nat) (pas : List Nat) (bytes : List Byte),
    Issues s c t → guardPasses f.g t = true →
    GlobAt s c t false (t.reg f.a + w64 (f.disp.toNat * f.sz.bytes)) f.sz.bytes va pas → Prompt s c →
    s.loadGlobal c pas = .ok bytes s' →
    exec (.ld f) s = .next (s'.retire c (s'.core c) (t.setReg f.d (extended f.sx f.sz.bytes (leNat bytes))) (t.pc + 2)) ∧
    bytes = (pas.map fun pa => (((s.core c).l1.line? (pa / 256)).map (·.byte (pa % 256))).getD 0) ∧
    SameBytes s s' ∧ s'.net = s.net ∧ OtherCoresSame s s' c) ∧
  (∀ (f : MemForm) (s s' : State) (c : Nat) (t : Task) (va : Nat) (pas : List Nat),
    Issues s c t → guardPasses f.g t = true →
    GlobAt s c t false (t.reg f.a + w64 (f.disp.toNat * f.sz.bytes)) f.sz.bytes va pas → Prompt s c →
    s.loadGlobal c pas = .wait s' → exec (.ld f) s = .next (s'.stalledOn c (s'.core c) t t.wait)) ∧
  (∀ (f : StForm) (s s' : State) (c : Nat) (t : Task) (va : Nat) (pas : List Nat),
    Issues s c t → guardPasses f.g t = true →
    GlobAt s c t true (t.reg f.a + w64 (f.disp.toNat * f.sz.bytes)) f.sz.bytes va pas →
    s.storeGlobal c va (pas.zip (leBytes f.sz.bytes (t.reg f.d).toNat)) = (true, s') →
    exec (.st f) s = .next (s'.retire c (s'.core c) t (t.pc + 2))) ∧
  (∀ (f : AmoForm) (s : State) (c : Nat) (t : Task) (va : Nat) (pas : List Nat),
    Issues s c t → guardPasses f.g t = true → GlobAt s c t true (t.reg f.a) 8 va pas →
    exec (.amoD f) s = .next ((s.stalledOn c (s.core c) t (.value f.d false 64 2 false)).send (.core c) (.slice (homeOf (pas.headD 0)))
      .request (.amo (s.requester c t) (pas.headD 0) 8 va (.amo f.op (t.reg f.b).toNat)))) ∧
  (∀ (f : R3) (s : State) (c : Nat) (t : Task) (va : Nat) (pas : List Nat),
    Issues s c t → guardPasses f.g t = true → GlobAt s c t true (t.reg f.a) 16 va pas →
    exec (.cas2 f) s = .next ((s.stalledOn c (s.core c) t (.pair f.d 2)).send (.core c) (.slice (homeOf (pas.headD 0)))
      .request (.amo (s.requester c t) (pas.headD 0) 16 va (.cas (t.pairOf f.d) (t.pairOf f.b)))))

/-- R103, R260: a misaligned global access goes byte by byte, each byte an event of its own: a step loads or stores the next byte, whose
words the others see as they are; the step of the last byte completes the instruction; a byte that the L1 cannot serve is asked for. -/
def Sys2Proof.Machine.MisalignedAccesses : Prop :=
  (∀ (f : MemForm) (s s' : State) (c : Nat) (t : Task) (va : Nat) (pas : List Nat) (x : Byte),
    Issues s c t → guardPasses f.g t = true →
    let ea := t.reg f.a + w64 (f.disp.toNat * f.sz.bytes)
    GlobTouch s c t false ea f.sz.bytes va pas → ea.toNat % f.sz.bytes ≠ 0 → 2 ≤ pas.length →
    (s.loadGlobal c [pas.getD 0 0] = .ok [x] s' →
      exec (.ld f) s = .next (s'.stalledOn c (s'.core c) { t with bytewise := some ⟨pas, [x]⟩ } t.wait)) ∧
    (s.loadGlobal c [pas.getD 0 0] = .wait s' →
      exec (.ld f) s = .next (s'.stalledOn c (s'.core c) { t with bytewise := some ⟨pas, []⟩ } t.wait))) ∧
  (∀ (f : MemForm) (s s' : State) (c : Nat) (t : Task) (b : Bytewise) (x : Byte),
    MidAccess s c t b → guardPasses f.g t = true → s.loadGlobal c [b.pas.getD b.done.length 0] = .ok [x] s' →
    exec (.ld f) s = .next (if b.pas.length ≤ b.done.length + 1 then
        s'.retire c (s'.core c) (t.setReg f.d (extended f.sx f.sz.bytes (leNat (b.done ++ [x])))) (t.pc + 2)
      else s'.stalledOn c (s'.core c) { t with bytewise := some ⟨b.pas, b.done ++ [x]⟩ } t.wait)) ∧
  (∀ (f : StForm) (s s' : State) (c : Nat) (t : Task) (va : Nat) (pas : List Nat),
    Issues s c t → guardPasses f.g t = true →
    let ea := t.reg f.a + w64 (f.disp.toNat * f.sz.bytes)
    let x := (leBytes f.sz.bytes (t.reg f.d).toNat).getD 0 0
    GlobTouch s c t true ea f.sz.bytes va pas → ea.toNat % f.sz.bytes ≠ 0 → 2 ≤ pas.length →
    s.storeGlobal c ea.toNat [(pas.getD 0 0, x)] = (true, s') →
    exec (.st f) s = .next (s'.stalledOn c (s'.core c) { t with bytewise := some ⟨pas, [x]⟩ } t.wait)) ∧
  (∀ (f : StForm) (s s' : State) (c : Nat) (t : Task) (b : Bytewise),
    MidAccess s c t b → guardPasses f.g t = true →
    let ea := t.reg f.a + w64 (f.disp.toNat * f.sz.bytes)
    let x := (leBytes f.sz.bytes (t.reg f.d).toNat).getD b.done.length 0
    s.storeGlobal c ea.toNat [(b.pas.getD b.done.length 0, x)] = (true, s') →
    exec (.st f) s = .next (if b.pas.length ≤ b.done.length + 1 then s'.retire c (s'.core c) t (t.pc + 2)
      else s'.stalledOn c (s'.core c) { t with bytewise := some ⟨b.pas, b.done ++ [x]⟩ } t.wait))

/-- R245, R252: a core may put off a load, or a release store, and go on: the instruction completes with its access kept for later, so
that accesses after it go first; a later step performs the oldest release store once its conditions hold, and a load from what its bytes
are then. -/
def Sys2Proof.Machine.PutOffAccesses : Prop :=
  (∀ (f : MemForm) (s : State) (c : Nat) (t : Task) (va : Nat) (pas : List Nat),
    Issues s c t → guardPasses f.g t = true → s.turn = .core c true →
    GlobAt s c t false (t.reg f.a + w64 (f.disp.toNat * f.sz.bytes)) f.sz.bytes va pas → s.sound c pas = true →
    exec (.ld f) s = .next (s.retire c (s.core c)
      { t with late := [{ d := f.d, sx := f.sx, n := f.sz.bytes, va := va, pas := pas, store := none }] } (t.pc + 2))) ∧
  (∀ (f : StForm) (s : State) (c : Nat) (t : Task) (va : Nat) (pas : List Nat),
    Issues s c t → guardPasses f.g t = true → s.turn = .core c true →
    GlobAt s c t true (t.reg f.a + w64 (f.disp.toNat * f.sz.bytes)) f.sz.bytes va pas →
    exec (.stRel f) s = .next (s.retire c (s.core c)
      { t with late := [{ d := 0, sx := false, n := f.sz.bytes, va := va, pas := pas, store := some (t.reg f.d).toNat }] } (t.pc + 2))) ∧
  (∀ (s s' : State) (c : Nat) (hi : Bool) (t : Task) (i : Nat) (l : Late) (bytes : List Byte),
    (s.core c).bankTask hi = some t → t.late[i]? = some l → l.store = none → l.n ≠ 16 → s.loadGlobal c l.pas = .ok bytes s' →
    s.performLate c hi i = s'.withTask c hi
      { t.setReg l.d (extended l.sx l.n (leNat bytes)) with late := t.late.eraseIdx i }) ∧
  (∀ (s s' : State) (c : Nat) (hi : Bool) (t : Task) (l : Late) (v : Nat),
    (s.core c).bankTask hi = some t → t.late[0]? = some l → l.store = some v → l.pas ≠ [] →
    (s.core c).released hi .package = true → s.storeGlobal c l.va (l.pas.zip (leBytes l.n v)) = (true, s') →
    s.performLate c hi 0 = s'.withTask c hi { t with late := t.late.eraseIdx 0 }) ∧
  (∀ (s : State) (c : Nat) (hi : Bool) (t : Task) (i : Nat) (l : Late) (v : Nat),
    (s.core c).bankTask hi = some t → t.late[i]? = some l → l.store = some v →
    (i ≠ 0 ∨ (s.core c).released hi .package = false) → s.performLate c hi i = s)

/-- R91 (a store to registered words): words that the L1 holds registered take the bytes at once and become dirty; no other byte of the line,
no other line, no packet and no other core changes. -/
def Sys2Proof.Machine.RegisteredStore : Prop :=
  ∀ (s : State) (c line va : Nat) (bytes : List (Nat × Byte)) (x : L1Line),
    (s.core c).l1.line? line = some x → bytes ≠ [] → (bytes.map (·.1)).Nodup →
    (∀ e ∈ bytes, e.1 / 256 = line ∧ x.reg.testBit (e.1 % 256 / 4) = true) →
    ∃ s' x', s.storeLine c line va bytes = (true, s') ∧ (s'.core c).l1.line? line = some x' ∧
      (∀ e ∈ bytes, x'.byte (e.1 % 256) = e.2 ∧ x'.drt.testBit (e.1 % 256 / 4) = true) ∧
      (∀ o, (∀ e ∈ bytes, e.1 % 256 ≠ o) → x'.byte o = x.byte o) ∧ x'.reg = x.reg ∧ x'.pend = x.pend ∧
      (∀ l, l ≠ line → (s'.core c).l1.line? l = (s.core c).l1.line? l) ∧
      s'.net = s.net ∧ OtherCoresSame s s' c ∧ SameBytes s s'

/-- R91, R92, R103, R104, R106, R245, R252, R260: loads, stores and atomics of global memory, misaligned ones, and accesses put off. -/
def Obligations.GlobalAccesses : Prop := GlobalForms ∧ MisalignedAccesses ∧ PutOffAccesses ∧ RegisteredStore

/-! ## Fences, cache maintenance and WAIT (R96, R108, R252–R256, R329) -/

/-- R252–R256, R329, R96: a fence completes once its conditions hold: an acquire drops the SV bits of the lines of its scope and what
is being filled; a release needs no store of the core waiting for its grant, its own tasks' stores all (log entry 50, the model's
reading); RFENCE waits for SR.UNACK 0; WAIT of X[a] cycles stalls for them. -/
def Sys2Proof.Machine.Fences : Prop :=
  (∀ (f : FenceForm) (s : State) (c : Nat) (t : Task), Issues s c t → t.carried = false → guardPasses f.g t = true →
    let a := s.acquire c f.scope
    exec (.fenceAcq f) s = .next (a.retire c (a.core c) t (t.pc + 2)) ∧
    (f.scope = .core ∨ (s.core c).l1.ungranted = false →
      exec (.fenceRel f) s = .next (s.retire c (s.core c) t (t.pc + 2)) ∧
      exec (.fenceFull f) s = .next (a.retire c (a.core c) t (t.pc + 2)) ∧
      exec (.fenceM f) s = .next (a.retire c (a.core c) t (t.pc + 2))) ∧
    (f.scope ≠ .core → (s.core c).l1.ungranted = true → exec (.fenceRel f) s = .next (s.stalledOn c (s.core c) t t.wait))) ∧
  (∀ (f : G0) (s : State) (c : Nat) (t : Task), Issues s c t → t.carried = false → guardPasses f.g t = true →
    ((s.core c).unack = 0 → exec (.rfence f) s = .next (s.retire c (s.core c) t (t.pc + 2))) ∧
    ((s.core c).unack ≠ 0 → exec (.rfence f) s = .next (s.stalledOn c (s.core c) t t.wait))) ∧
  (∀ (s : State) (c : Nat) (t : Task), Issues s c t → t.carried = false → (s.core c).unack = 0 →
    exec .cRfence s = .next (s.retire c (s.core c) t (t.pc + 1))) ∧
  (∀ (f : Ra) (s : State) (c : Nat) (t : Task), Issues s c t → t.carried = false → guardPasses f.g t = true →
    (t.reg f.a = 0 → exec (.wait f) s = .next (s.retire c (s.core c) t (t.pc + 2))) ∧
    (t.reg f.a ≠ 0 → exec (.wait f) s = .next (s.stalledOn c (s.core c) t (.cycles (t.reg f.a).toNat)))) ∧
  (∀ (s : State) (c : Nat) (sc : Scope) (line : Nat) (x : L1Line), (s.core c).l1.line? line = some x →
    ∃ x', ((s.acquire c sc).core c).l1.line? line = some x' ∧
      x'.sv = (if sc = .core ∨ (sc ≠ .system ∧ s.hostLine (line * 256) = true) then x.sv else 0) ∧
      x'.reg = x.reg ∧ x'.drt = x.drt ∧ x'.data = x.data ∧ SameBytes s (s.acquire c sc) ∧ OtherCoresSame s (s.acquire c sc) c)

/-- R108: CWB and CINV of no byte complete at once; of a range of region 0x0 whose pages translate, CWB completes when no line
of it is registered, pending or in a writeback buffer, and CINV then drops the SV bits of its lines; a line that is registered is written
back, and the instruction waits. -/
def Sys2Proof.Machine.CacheMaintenance : Prop :=
  (∀ (f : Rba) (s : State) (c : Nat) (t : Task), Issues s c t → guardPasses f.g t = true → t.reg f.b = 0 →
    exec (.cwb f) s = .next (s.retire c (s.core c) t (t.pc + 2)) ∧ exec (.cinv f) s = .next (s.retire c (s.core c) t (t.pc + 2))) ∧
  (∀ (f : Rba) (s : State) (c : Nat) (t : Task) (va : Nat) (lines : List Nat), Issues s c t → guardPasses f.g t = true →
    t.carried = false → 0 < (t.reg f.b).toNat → (t.reg f.b).toNat ≤ 2 ^ 31 →
    decodeAddr c t.sup (t.reg f.a).toNat (t.reg f.b).toNat = .ok (.global va) →
    Cx.rangeLines { s := s, c := c, k := s.core c, t := t, hi := (s.core c).inHi } va (t.reg f.b).toNat = .ok (.ok lines) →
    (∀ x ∈ lines, (∀ y, (s.core c).l1.line? x = some y → y.reg = 0 ∧ y.pend = 0) ∧ ∀ b ∈ (s.core c).l1.wb, b.line ≠ x) →
    exec (.cwb f) s = .next (s.retire c (s.core c) t (t.pc + 2)) ∧
    exec (.cinv f) s = .next ((s.onL1 c fun l => lines.foldl (fun l x => l.clearSv x 15) l).retire c
      ((s.onL1 c fun l => lines.foldl (fun l x => l.clearSv x 15) l).core c) t (t.pc + 2))) ∧
  (∀ (f : Rba) (s : State) (c : Nat) (t : Task) (va : Nat) (lines : List Nat), Issues s c t → guardPasses f.g t = true →
    t.carried = false → 0 < (t.reg f.b).toNat → (t.reg f.b).toNat ≤ 2 ^ 31 →
    decodeAddr c t.sup (t.reg f.a).toNat (t.reg f.b).toNat = .ok (.global va) →
    Cx.rangeLines { s := s, c := c, k := s.core c, t := t, hi := (s.core c).inHi } va (t.reg f.b).toNat = .ok (.ok lines) →
    let l := (s.core c).l1
    let held := lines.filter fun x => (l.line? x).any fun y => y.reg != 0 && y.pend == 0
    (∀ x r l' b, held = x :: r → l.wb.length < Config.wbufs → l.release x = (l', b) →
      let s' := (s.onL1 c fun _ => l').sendWb c b
      exec (.cwb f) s = .next (s'.stalledOn c (s'.core c) t t.wait) ∧
      exec (.cinv f) s = .next (s'.stalledOn c (s'.core c) t t.wait)) ∧
    (held = [] → (∃ x ∈ lines, (∃ y, l.line? x = some y ∧ y.pend ≠ 0) ∨ ∃ b ∈ l.wb, b.line = x) →
      exec (.cwb f) s = .next (s.stalledOn c (s.core c) t t.wait) ∧
      exec (.cinv f) s = .next (s.stalledOn c (s.core c) t t.wait))) ∧
  (∀ (f : Rba) (s : State) (c : Nat) (t : Task), Issues s c t → guardPasses f.g t = true → 2 ^ 31 < (t.reg f.b).toNat →
    TrapsWith (.cwb f) s c t 0x01 ((s.core c).instrWord t) ∧ TrapsWith (.cinv f) s c t 0x01 ((s.core c).instrWord t)) ∧
  (∀ (l l' : L1) (line : Nat) (x : L1Line) (b : WBuf), l.line? line = some x → l.release line = (l', some b) →
    b.line = line ∧ b.words.map (·.1) = maskList 64 x.reg ∧ (∀ e ∈ b.words, e.2.1 = x.word e.1 ∧ e.2.2 = x.drt.testBit e.1) ∧
    l'.line? line = some { x with reg := 0, drt := 0 } ∧ l'.wb = l.wb ++ [b])

/-- R96, R108, R252–R256, R329: fences and cache maintenance. -/
def Obligations.FencesAndCaches : Prop := Fences ∧ CacheMaintenance
/-! ## Remote accesses and the Waybill (R153–R158, R248) -/

/-- R158, R157: RLD and RAMO send one request to the owner's port, and the stream stalls for its answer; a nibble is named by its byte
and half. -/
def Obligations.RemoteRequests : Prop :=
  (∀ (f : MemForm) (d w off : Nat),
    let a := fun (t : Task) => nibbleAddr (t.reg f.a) f.sz (f.disp.toNat * f.sz.bytes : Nat)
    StallsFor (.rld f) f.g (fun s c t => RemoteAt s c t (a t).1 f.sz.bytes d w off)
      (fun s c t => s.send (.core c) (.core d) .request (.rld (s.requester c t) (a t).1.toNat f.sz.bytes (a t).2))
      (fun _ _ _ => .value f.d f.sx (8 * f.sz.bytes) 2 false)) ∧
  (∀ (f : MemLit) (d w off : Nat),
    let a := fun (t : Task) => nibbleAddr (t.reg f.a) f.sz f.lit.toInt
    StallsFor (.rldLit f) f.g (fun s c t => RemoteAt s c t (a t).1 f.sz.bytes d w off)
      (fun s c t => s.send (.core c) (.core d) .request (.rld (s.requester c t) (a t).1.toNat f.sz.bytes (a t).2))
      (fun _ _ _ => .value f.d f.sx (8 * f.sz.bytes) 4 false)) ∧
  (∀ (f : AmoForm) (d w off : Nat),
    StallsFor (.ramoW f) f.g (fun s c t => RemoteAt s c t (t.reg f.a) 4 d w off ∧ (t.reg f.a).toNat % 4 = 0)
      (fun s c t => s.send (.core c) (.core d) .request
        (.ramo (s.requester c t) (t.reg f.a).toNat 4 (.amo f.op ((t.reg f.b).toNat % 2 ^ 32))))
      (fun _ _ _ => .value f.d false 32 2 false) ∧
    StallsFor (.ramoD f) f.g (fun s c t => RemoteAt s c t (t.reg f.a) 8 d w off ∧ (t.reg f.a).toNat % 8 = 0)
      (fun s c t => s.send (.core c) (.core d) .request (.ramo (s.requester c t) (t.reg f.a).toNat 8 (.amo f.op (t.reg f.b).toNat)))
      (fun _ _ _ => .value f.d false 64 2 false) ∧
    Traps (.ramoD f) f.g (fun s c t => RemoteAt s c t (t.reg f.a) 8 d w off ∧ (t.reg f.a).toNat % 8 ≠ 0) 0x03 (fun _ _ t => t.reg f.a)) ∧
  (∀ (base : W) (sz : Size) (off : Int), sz ≠ .n → nibbleAddr base sz off = (base + BitVec.ofInt 64 off, none)) ∧
  (∀ (base : W) (off : Int), nibbleAddr base .n off = (base + BitVec.ofInt 64 (off / 2), some (decide (off % 2 = 1)))) ∧
  (∀ (f : MemForm) (code : Nat), f.sz ≠ .n →
    Traps (.rld f) f.g (fun _ c t => decodeAddr c t.sup (t.reg f.a + w64 (f.disp.toNat * f.sz.bytes)).toNat f.sz.bytes = .error code) code
      (fun _ _ t => t.reg f.a + w64 (f.disp.toNat * f.sz.bytes)))

/-- R153, R155, R158: RST takes the lowest free Waybill entry, records the store in it, sends the store, and goes on without waiting; with
no entry free it waits at the instruction. -/
def Obligations.PostedStores : Prop :=
  (∀ (f : MemForm) (d w off e : Nat),
    let a := fun (t : Task) => nibbleAddr (t.reg f.a) f.sz (f.disp.toNat * f.sz.bytes : Nat)
    let v := fun (t : Task) => if f.sz = .n then (t.reg f.d).toNat % 16 else (t.reg f.d).toNat % 256 ^ f.sz.bytes
    Completes (.rst f) 2 f.g (fun s c t => RemoteAt s c t (a t).1 f.sz.bytes d w off ∧ (s.core c).freeEntry? = some e)
      (fun s c t => (s.post c e t (a t).1 [w64 (v t)] (sizeCode f.sz * 8 + b2n f.sx * 64)).send (.core c) (.core d)
        (if f.sx then .bulk else .request) (.rst (s.requester c t) (a t).1.toNat f.sz.bytes (v t) (a t).2 e))
      (fun _ _ t => t) ∧
    StallsFor (.rst f) f.g (fun s c t => RemoteAt s c t (a t).1 f.sz.bytes d w off ∧ (s.core c).freeEntry? = none)
      State.same (fun _ _ t => t.wait)) ∧
  (∀ (f : MemLit) (d w off e : Nat),
    let a := fun (t : Task) => nibbleAddr (t.reg f.a) f.sz f.lit.toInt
    let v := fun (t : Task) => if f.sz = .n then (t.reg f.d).toNat % 16 else (t.reg f.d).toNat % 256 ^ f.sz.bytes
    Completes (.rstLit f) 4 f.g (fun s c t => RemoteAt s c t (a t).1 f.sz.bytes d w off ∧ (s.core c).freeEntry? = some e)
      (fun s c t => (s.post c e t (a t).1 [w64 (v t)] (sizeCode f.sz * 8 + b2n f.sx * 64)).send (.core c) (.core d)
        (if f.sx then .bulk else .request) (.rst (s.requester c t) (a t).1.toNat f.sz.bytes (v t) (a t).2 e))
      (fun _ _ t => t)) ∧
  (∀ (s : State) (c e : Nat) (t : Task) (ea : W) (data : List W) (kind : Nat), (s.core c).freeEntry? = some e →
    e < Config.waybillSize ∧ ((s.core c).wb e).state = 0 ∧ (∀ n, n < e → ((s.core c).wb n).state ≠ 0) ∧
    let s' := s.post c e t ea data kind
    ((s'.core c).wb e).target = ea ∧ ((s'.core c).wb e).data = data ∧ ((s'.core c).wb e).state = 1 ∧
    ((s'.core c).wb e).kind = kind ∧ ((s'.core c).wb e).seq = (s.core c).seq ∧ (s'.core c).seq = ((s.core c).seq + 1) % 2 ^ 16 ∧
    (∀ n, n ≠ e → (s'.core c).wb n = (s.core c).wb n))

/-- R153, R155, R248: the answer to a stalled task writes its registers and moves it past its instruction; a failure becomes the exact trap of its
instruction, which the core's next step takes once every earlier instruction has taken its effect; an acknowledgement frees its Waybill entry,
and a refusal marks it refused and makes WAYBILL (MBOXREF for a message) pending. A row about no packet changes nothing: which row comes next is
the schedule's choice (log entry 2). -/
def Obligations.Answers : Prop :=
  (∀ (s : State) (k c : Nat) (src : Endpoint) (hi : Bool) (v : Nat) (r : List Nat) (t : Task) (d : Reg) (sx : Bool) (n len : Nat) (cn : Bool),
    Delivers s k src (.core c) (.reply hi (v :: r)) → TaskAt s c hi t → t.wait = .value d sx (8 * n) len cn → n ≤ 8 →
    exec (.remoteReply k) s = .next ((s.drop k).withTask c hi
      { t.setReg d (extended sx n v) with wait := .none, pc := t.pc + len, stalled := false })) ∧
  (∀ (s : State) (k c : Nat) (src : Endpoint) (hi : Bool) (v w : Nat) (t : Task) (d : Reg) (len : Nat),
    Delivers s k src (.core c) (.reply hi [v, w]) → TaskAt s c hi t → t.wait = .pair d len →
    exec (.remoteReply k) s = .next ((s.drop k).withTask c hi
      { (t.setReg d (w64 v)).setReg (d + 1) (w64 w) with wait := .none, pc := t.pc + len, stalled := false })) ∧
  (∀ (s : State) (k c : Nat) (src : Endpoint) (hi : Bool) (tr : Trap) (t : Task),
    Delivers s k src (.core c) (.failed hi tr) → TaskAt s c hi t →
    exec (.remoteReply k) s = .next ((s.drop k).withTask c hi { t with wait := .none, fail := some tr })) ∧
  (∀ (s : State) (c : Nat) (lag : Bool) (t : Task) (tr : Trap), let k := s.core c
    s.turn = .core c lag → s.ended = false → k.alive = true → k.task? = some t → k.inHi = true ∨ (k.sched.resel = false ∧ k.vu.fault = none) →
    t.fail = some tr →
    let u : Task := { t with fail := none, skip := false }
    (t.skip = true ∨ k.drained k.inHi t = true →
      step s = .next (s.elapse (takeTrap ((s.noteRun k).withTask c k.inHi u) c k.inHi u tr.code tr.v (trapPc t t.pc) false t.skip) c).pass) ∧
    (t.skip = false → k.drained k.inHi t = false → s.mustAbort c = false → k.overBudget t = false →
      step s = .next (s.elapse (s.noteRun k) c).pass)) ∧
  (∀ (s : State) (k c e : Nat) (src : Endpoint), Delivers s k src (.core c) (.ack e) →
    exec (.postedAck k) s = .next ((s.drop k).onCore c fun x => x.setWb e WbEntry.free)) ∧
  (∀ (s : State) (k c e cause : Nat) (src : Endpoint), Delivers s k src (.core c) (.refusal e cause) →
    let w := (s.core c).wb e
    exec (.postedRefusal k) s = .next (((s.drop k).onCore c fun x => x.setWb e { w with state := 2, cause := cause }).pending c
      (if w.kind % 8 = 2 then 0x23 else 0x20) (w64 (cause * 256 + e)))) ∧
  (∀ (s : State) (c n : Nat), ((s.core c).wb n).state = 2 → exec (.waybillFree c n) s = .next (s.onCore c fun x => x.setWb n WbEntry.free)) ∧
  (∀ (s : State) (c n : Nat), ((s.core c).wb n).state ≠ 2 → exec (.waybillFree c n) s = .next (s.onCore c id)) ∧
  (∀ (s : State) (k : Nat), s.packet? k = none →
    exec (.remoteReply k) s = .next s ∧ exec (.postedAck k) s = .next s ∧ exec (.remoteLoadArrival k) s = .next s ∧
    exec (.remoteStoreArrival k) s = .next s)

/-- R53, R151, R152, R156, R158: at the owner's port a load answers the bytes, a store writes them and is acknowledged, an atomic stores the new
value and answers the old one; an access of another context, or one that its window does not allow, changes nothing and is answered with its
cause; with SR.RPROT set a store of another core to a full word is refused; the arrival has then had its turn
at the port, before which the core's own accesses passed it at most once (R358). -/
def Obligations.OwnerPort : Prop :=
  (∀ (s : State) (k c addr n : Nat) (src : Endpoint) (r : Requester) (nib : Option Bool),
    Delivers s k src (.core c) (.rld r addr n nib) →
    let off := bitsOf addr 17 0
    (∀ bytes, (s.core c).arrivalCheck r .load addr n = none → (s.core c).lcl.load (bitsOf addr 49 46) off n = some bytes →
      exec (.remoteLoadArrival k) s = .next (((s.drop k).send (.core c) (.core r.core) .reply (.reply r.hi [match nib with
        | none => leNat bytes
        | some h => if h then leNat bytes / 16 else leNat bytes % 16])).portTurn c)) ∧
    (∀ code, (s.core c).arrivalCheck r .load addr n = some code →
      exec (.remoteLoadArrival k) s = .next (((s.drop k).send (.core c) (.core r.core) .reply (.failed r.hi ⟨code, w64 addr⟩)).portTurn c))) ∧
  (∀ (s : State) (k c addr n v e : Nat) (src : Endpoint) (r : Requester),
    Delivers s k src (.core c) (.rst r addr n v none e) →
    let off := bitsOf addr 17 0
    let w := bitsOf addr 49 46
    ((s.core c).arrivalCheck r .store addr n = none → (s.core c).fullRefused c r addr n = false →
      (s.core c).lcl.mergeFails off n = false →
      exec (.remoteStoreArrival k) s =
        .next ((((s.drop k).portStore c w off (leBytes n v)).send (.core c) (.core r.core) .reply (.ack e)).portTurn c)) ∧
    ((s.core c).arrivalCheck r .store addr n = none → (s.core c).fullRefused c r addr n = true →
      exec (.remoteStoreArrival k) s = .next (((s.drop k).send (.core c) (.core r.core) .reply (.refusal e 4)).portTurn c)) ∧
    (∀ code, (s.core c).arrivalCheck r .store addr n = some code →
      exec (.remoteStoreArrival k) s = .next (((s.drop k).send (.core c) (.core r.core) .reply
        (.refusal e (if code = 0x02 then 1 else if code = 0x0D then 7 else if code = 0x22 then 3 else 2))).portTurn c))) ∧
  (∀ (s : State) (k c addr n : Nat) (src : Endpoint) (r : Requester) (op : Rmw) (bytes : List Byte),
    Delivers s k src (.core c) (.ramo r addr n op) → (s.core c).arrivalCheck r .atomic addr n = none →
    (s.core c).lcl.load 0 (bitsOf addr 17 0) n = some bytes →
    exec (.remoteAtomicArrival k) s = .next (((match op.new n (leNat bytes) with
      | none => s.drop k
      | some v => (s.drop k).portStore c 0 (bitsOf addr 17 0) (leBytes n v)).send (.core c) (.core r.core) .reply
        (.reply r.hi [leNat bytes])).portTurn c)) ∧
  (∀ (s : State) (k c addr n : Nat) (src : Endpoint) (r : Requester), Delivers s k src (.core c) (.feclr r addr n) →
    (s.core c).arrivalCheck r .atomic addr n = none →
    exec (.feclrArrival k) s =
      .next ((((s.drop k).portFeclr c (bitsOf addr 17 0) n).send (.core c) (.core r.core) .reply (.reply r.hi [0])).portTurn c)) ∧
  (∀ (k : Core) (r : Requester) (acc : Access) (addr n : Nat),
    (k.ctx = none ∨ k.ctx ≠ r.ctx ∨ k.stopped = true → k.arrivalCheck r acc addr n = some 0x0D) ∧
    (k.ctx ≠ none → k.ctx = r.ctx → k.stopped = false →
      k.arrivalCheck r acc addr n = k.lcl.windowCheck acc r.sup (bitsOf addr 49 46) (bitsOf addr 17 0) n)) ∧
  (∀ (k : Core) (c addr n : Nat) (r : Requester),
    k.fullRefused c r addr n = true ↔ k.regs.rprot = true ∧ r.core ≠ c ∧ bitsOf addr 49 46 ≤ 12 ∧ k.lcl.anyFull (bitsOf addr 17 0) n = true) ∧
  (∀ (s : State) (c : Nat), (s.portOwes c = true ↔ (s.core c).lcl.passed = true ∧ s.portWaits c = true) ∧
    (s.portWaits c = false → s.ownAccess c = s) ∧
    (s.portWaits c = true → (s.ownAccess c).portOwes c = true ∧ s.ownAccess c = s.onCore c fun k =>
      { k with lcl := { k.lcl with passed := true } }) ∧
    (s.portTurn c).portOwes c = false)

/-! ## Full and empty words (R51, R86–R88, R257) -/

/-- R87, R88, R257: LDF and LDFE ask the owner's port for a word that is full, their own at once, another's by a request; STF writes its
bytes and fills the word; FECLR empties the words of its range. -/
def Sys2Proof.Machine.FullEmptyInstructions : Prop :=
  (∀ (f : MemForm) (w off : Nat),
    let ea := fun (t : Task) => t.reg f.a + w64 (f.disp.toNat * f.sz.bytes)
    let n := f.sz.bytes
    let ask := fun (take : Bool) (s : State) (c : Nat) (t : Task) =>
      (s.ownAccess c).portLdf c { r := s.requester c t, addr := (ea t).toNat, n := n, take := take }
    let own := fun s c t => OwnAt s c t .atomic (ea t) n w off ∧ (ea t).toNat % n = 0
    StallsFor (.ldf f) f.g own (ask false) (fun _ _ _ => .value f.d f.sx (8 * n) 2 true) ∧
    StallsFor (.ldfe f) f.g own (ask true) (fun _ _ _ => .value f.d f.sx (8 * n) 2 true) ∧
    (∀ d, let far := fun s c t => RemoteAt s c t (ea t) n d w off ∧ d ≠ c ∧ (ea t).toNat % n = 0
      StallsFor (.ldf f) f.g far
        (fun s c t => s.send (.core c) (.core d) .request (.fullOp (s.requester c t) (ea t).toNat n .ldf))
        (fun _ _ _ => .value f.d f.sx (8 * n) 2 true) ∧
      StallsFor (.ldfe f) f.g far
        (fun s c t => s.send (.core c) (.core d) .request (.fullOp (s.requester c t) (ea t).toNat n .ldfe))
        (fun _ _ _ => .value f.d f.sx (8 * n) 2 true))) ∧
  (∀ (f : MemLit) (w off : Nat),
    let ea := fun (t : Task) => t.reg f.a + f.lit.signExtend 64
    let n := f.sz.bytes
    let ask := fun (take : Bool) (s : State) (c : Nat) (t : Task) =>
      (s.ownAccess c).portLdf c { r := s.requester c t, addr := (ea t).toNat, n := n, take := take }
    let own := fun s c t => OwnAt s c t .atomic (ea t) n w off ∧ (ea t).toNat % n = 0
    StallsFor (.ldfLit f) f.g own (ask false) (fun _ _ _ => .value f.d f.sx (8 * n) 4 true) ∧
    StallsFor (.ldfeLit f) f.g own (ask true) (fun _ _ _ => .value f.d f.sx (8 * n) 4 true)) ∧
  (∀ (f : StForm) (w off : Nat),
    let ea := fun (t : Task) => t.reg f.a + w64 (f.disp.toNat * f.sz.bytes)
    let n := f.sz.bytes
    Completes (.stf f) 2 f.g
      (fun s c t => OwnAt s c t .atomic (ea t) n w off ∧ (ea t).toNat % n = 0 ∧
        ∀ p ∈ s.net ++ s.held, ¬ (p.src = .core c ∧ p.dst = .core c ∧ p.plane = .request))
      (fun s c t => (s.ownAccess c).portStf c off (leBytes n (t.reg f.d).toNat)) (fun _ _ t => t) ∧
    (∀ d, StallsFor (.stf f) f.g (fun s c t => RemoteAt s c t (ea t) n d w off ∧ d ≠ c ∧ (ea t).toNat % n = 0)
      (fun s c t => s.send (.core c) (.core d) .request
        (.fullOp (s.requester c t) (ea t).toNat n (.stf ((t.reg f.d).toNat % 256 ^ n)))) (fun _ _ _ => .value 0 false 64 2 false))) ∧
  (∀ (f : StLit) (w off : Nat),
    let ea := fun (t : Task) => t.reg f.a + f.lit.signExtend 64
    let n := f.sz.bytes
    Completes (.stfLit f) 4 f.g
      (fun s c t => OwnAt s c t .atomic (ea t) n w off ∧ (ea t).toNat % n = 0 ∧
        ∀ p ∈ s.net ++ s.held, ¬ (p.src = .core c ∧ p.dst = .core c ∧ p.plane = .request))
      (fun s c t => (s.ownAccess c).portStf c off (leBytes n (t.reg f.d).toNat)) (fun _ _ t => t)) ∧
  (∀ (f : Rba) (w off : Nat),
    Completes (.feclr f) 2 f.g
      (fun s c t => OwnAt s c t .atomic (t.reg f.a) (t.reg f.b).toNat w off ∧ decodeAddr c t.sup (t.reg f.a).toNat 0 = .ok (.loc c w off) ∧
        (t.reg f.a).toNat % 8 = 0 ∧ (t.reg f.b).toNat % 8 = 0 ∧ 0 < (t.reg f.b).toNat)
      (fun s c t => (s.ownAccess c).portFeclr c off (t.reg f.b).toNat) (fun _ _ t => t)) ∧
  (∀ (s : State) (c off n j : Nat), off % 8 = 0 → n % 8 = 0 →
    ((s.portFeclr c off n).core c).lcl.isFull j = (((s.core c).lcl.isFull j) && !decide (off ≤ 8 * j ∧ 8 * j < off + n)))

/-- R51, R86, R87: at the port, a read of a full word is answered, LDFE then empties it, and a read of an empty word waits; STF writes and fills
the word and ends the waits it satisfies in order, the reads before the first LDFE and that LDFE; a store through window 15 writes full
bits, and ends the wait on a word that it fills. -/
def Sys2Proof.Machine.FullEmptyPort : Prop :=
  (∀ (s : State) (c : Nat) (w : FullWaiter) (bytes : List Byte),
    let off := bitsOf w.addr 17 0
    (s.core c).lcl.load (bitsOf w.addr 49 46) off w.n = some bytes →
    ((s.core c).lcl.isFull (off / 8) = true →
      s.portLdf c w = (if w.take then s.onCore c fun k => { k with lcl := k.lcl.setFull (off / 8) false } else s).send
        (.core c) (.core w.r.core) .reply (.reply w.r.hi [leNat bytes])) ∧
    ((s.core c).lcl.isFull (off / 8) = false →
      s.portLdf c w = s.onCore c fun k => { k with lcl := { k.lcl with fullWait := k.lcl.fullWait ++ [w] } })) ∧
  (∀ (s : State) (c off : Nat) (bytes : List Byte), (s.core c).lcl.fullWait = [] →
    s.portStf c off bytes = s.onCore c fun k => { k with lcl := (k.lcl.writeSpad off bytes).setFull (off / 8) true }) ∧
  (∀ (s : State) (c off : Nat) (bytes : List Byte) (p r : List FullWaiter) (q : FullWaiter),
    (s.core c).lcl.fullWait = p ++ q :: r → (∀ w ∈ p ++ q :: r, bitsOf w.addr 17 0 / 8 = off / 8) → (∀ w ∈ p, w.take = false) →
    q.take = true →
    let l := ((s.core c).lcl.writeSpad off bytes).setFull (off / 8) true
    let got := fun (w : FullWaiter) => l.load (bitsOf w.addr 49 46) (bitsOf w.addr 17 0) w.n
    (∀ w ∈ p ++ [q], (got w).isSome = true) →
    s.portStf c off bytes = (p ++ [q]).foldl
      (fun s w => s.send (.core c) (.core w.r.core) .reply (.reply w.r.hi [leNat ((got w).getD [])]))
      (s.onCore c fun k => { k with lcl := { l.setFull (off / 8) false with fullWait := r } })) ∧
  (∀ (s : State) (c off : Nat) (bytes : List Byte), (∀ w ∈ (s.core c).lcl.fullWait, bitsOf w.addr 17 0 / 8 = off / 8 ∧ w.take = false) →
    let l := ((s.core c).lcl.writeSpad off bytes).setFull (off / 8) true
    let got := fun (w : FullWaiter) => l.load (bitsOf w.addr 49 46) (bitsOf w.addr 17 0) w.n
    (∀ w ∈ (s.core c).lcl.fullWait, (got w).isSome = true) →
    s.portStf c off bytes = (s.core c).lcl.fullWait.foldl
      (fun s w => s.send (.core c) (.core w.r.core) .reply (.reply w.r.hi [leNat ((got w).getD [])]))
      (s.onCore c fun k => { k with lcl := { l with fullWait := [] } })) ∧
  (∀ (s : State) (c off : Nat) (bytes : List Byte) (w : FullWaiter), (s.core c).lcl.fullWait = [w] →
    let l := { (s.core c).lcl with full := (s.core c).lcl.full.writeN off bytes }
    (l.isFull (bitsOf w.addr 17 0 / 8) = false →
      s.portStore c 15 off bytes = s.onCore c fun k => { k with lcl := l }) ∧
    (∀ v, l.isFull (bitsOf w.addr 17 0 / 8) = true → l.load (bitsOf w.addr 49 46) (bitsOf w.addr 17 0) w.n = some v →
      s.portStore c 15 off bytes = (s.onCore c fun k =>
        { k with lcl := { (if w.take then l.setFull (bitsOf w.addr 17 0 / 8) false else l) with fullWait := [] } }).send
        (.core c) (.core w.r.core) .reply (.reply w.r.hi [leNat v]))) ∧
  (∀ (l : Local) (off i j : Nat) (bytes : List Byte) (b : Byte), bytes[i]? = some b → j < 8 →
    ({ l with full := l.full.writeN off bytes }).isFull (8 * (off + i) + j) = b.getLsbD j) ∧
  (∀ (s : State) (k c addr n : Nat) (src : Endpoint) (r : Requester), (s.core c).arrivalCheck r .atomic addr n = none →
    (Delivers s k src (.core c) (.fullOp r addr n .ldf) → exec (.fullEmptyArrival k) s =
      .next (((s.drop k).portLdf c { r := r, addr := addr, n := n, take := false }).portTurn c)) ∧
    (Delivers s k src (.core c) (.fullOp r addr n .ldfe) → exec (.fullEmptyArrival k) s =
      .next (((s.drop k).portLdf c { r := r, addr := addr, n := n, take := true }).portTurn c)) ∧
    (∀ v, Delivers s k src (.core c) (.fullOp r addr n (.stf v)) → exec (.fullEmptyArrival k) s =
      .next ((((s.drop k).portStf c (bitsOf addr 17 0) (leBytes n v)).send (.core c) (.core r.core) .reply (.reply r.hi [0])).portTurn c))) ∧
  (∀ (l : Local) (w j : Nat) (b : Bool), (l.setFull w b).isFull j = if j = w then b else l.isFull j)

/-- R51, R86–R88, R257: full and empty words, at the issuer and at the owner's port. -/
def Obligations.FullEmptyWords : Prop := FullEmptyInstructions ∧ FullEmptyPort

/-! ## Active messages (R159–R163) -/

/-- R161, R162, R163: SEND posts its words, SENDW and SENDC stall for the status, and MRD takes the oldest word of a channel, or reads 0 with a clear
predicate when there is none. -/
def Sys2Proof.Machine.MessageInstructions : Prop :=
  (∀ (f : SendForm) (e : Nat),
    Completes (.send f) 2 f.g
      (fun s c t => (t.reg f.a).toNat < 2 ^ 15 ∧ f.b.toNat + f.n.toNat ≤ 32 ∧ (s.core c).freeEntry? = some e)
      (fun s c t => (s.post c e t (t.reg f.a) (t.regs f.b f.n.toNat) 2).send (.core c) (.core ((t.reg f.a).toNat % 1024)) .request
        (.msg (s.requester c t) ((t.reg f.a).toNat / 1024) (t.regs f.b f.n.toNat) (some e)))
      (fun _ _ t => t) ∧
    Traps (.send f) f.g (fun _ _ t => 2 ^ 15 ≤ (t.reg f.a).toNat) 0x01 (fun _ _ t => t.reg f.a)) ∧
  (∀ f : SendwForm,
    StallsFor (.sendw f) f.g (fun _ _ t => (t.reg f.a).toNat < 2 ^ 15 ∧ f.b.toNat + f.n.toNat ≤ 32)
      (fun s c t => s.send (.core c) (.core ((t.reg f.a).toNat % 1024)) .request
        (.msg (s.requester c t) ((t.reg f.a).toNat / 1024) (t.regs f.b f.n.toNat) none))
      (fun _ _ _ => .value f.d false 64 2 false)) ∧
  (∀ f : SendcForm,
    StallsFor (.sendc f) f.g (fun _ _ t => (t.reg f.a).toNat < 2 ^ 10 ∧ f.b.toNat + (f.n.toNat + 4) / 4 ≤ 32)
      (fun s c t => s.send (.core c) (.core (t.reg f.a).toNat) .request (.code (s.requester c t)
        ((List.range (f.n.toNat + 1)).map fun i =>
          BitVec.ofNat 16 ((t.reg (BitVec.ofNat 5 (f.b.toNat + i / 4))).toNat / 2 ^ (16 * (i % 4))))))
      (fun _ _ _ => .value f.d false 64 2 false)) ∧
  (∀ (f : MrdForm) (p q : List InboxWord) (x : InboxWord),
    Completes (.mrd f) 2 f.g
      (fun s c t => (t.reg f.a).toNat < 32 ∧ (s.core c).sched.inbox = p ++ x :: q ∧ x.ch = (t.reg f.a).toNat ∧
        ∀ y ∈ p, y.ch ≠ (t.reg f.a).toNat)
      (fun s c _ => s.onCore c fun k => { k with sched := { k.sched with inbox := p ++ q } }.settle)
      (fun _ _ t => (t.setReg f.d x.w).setPred f.b 1)) ∧
  (∀ f : MrdForm,
    Completes (.mrd f) 2 f.g (fun s c t => (t.reg f.a).toNat < 32 ∧ ∀ y ∈ (s.core c).sched.inbox, y.ch ≠ (t.reg f.a).toNat)
      State.same (fun _ _ t => (t.setReg f.d 0).setPred f.b 0))

/-- R160, R161, R162: a message that its target accepts enters the inbox with its words in order; a target of another context, without a handler for
the channel, or without room refuses it whole; the sender learns the status. -/
def Sys2Proof.Machine.MessageArrivals : Prop :=
  (∀ (s : State) (k c ch : Nat) (src : Endpoint) (r : Requester) (ws : List W) (e : Nat),
    Delivers s k src (.core c) (.msg r ch ws (some e)) →
    ((s.core c).messageStatus r.ctx ch ws.length = 0 →
      exec (.messageArrival k) s = .next (((s.drop k).onCore c fun x => { x with sched := { x.sched with
        inbox := x.sched.inbox ++ (List.range ws.length).map fun i => ⟨(ws[i]?).getD 0, r.core, ch, i == 0⟩ } }).send
        (.core c) (.core r.core) .reply (.ack e))) ∧
    (∀ st, (s.core c).messageStatus r.ctx ch ws.length = st → st ≠ 0 →
      exec (.messageArrival k) s = .next ((s.drop k).send (.core c) (.core r.core) .reply
        (.refusal e (if st = 4 then 7 else if st = 2 then 6 else 5))))) ∧
  (∀ (s : State) (k c ch : Nat) (src : Endpoint) (r : Requester) (ws : List W) (st : Nat),
    Delivers s k src (.core c) (.msg r ch ws none) → (s.core c).messageStatus r.ctx ch ws.length = st → st ≠ 0 →
    exec (.messageArrival k) s = .next ((s.drop k).send (.core c) (.core r.core) .reply (.msgStatus r.hi st))) ∧
  (∀ (s : State) (k c : Nat) (src : Endpoint) (r : Requester) (h : List HW), Delivers s k src (.core c) (.code r h) →
    (s.core c).refuses r.ctx = false → (s.core c).sched.codeq.length < Config.codeqSize →
    exec (.messageArrival k) s = .next (((s.drop k).onCore c fun x =>
      { x with sched := { x.sched with codeq := x.sched.codeq ++ [⟨h, r.core⟩] } }).send (.core c) (.core r.core) .reply (.msgStatus r.hi 0))) ∧
  (∀ (s : State) (k c st : Nat) (src : Endpoint) (hi : Bool) (t : Task) (d : Reg), Delivers s k src (.core c) (.msgStatus hi st) →
    TaskAt s c hi t → t.wait = .value d false 64 2 false →
    exec (.messageStatus k) s = .next ((if st = 0 then s.drop k else (s.drop k).event c 0x02).withTask c hi
      { t.setReg d (w64 st) with wait := .none, pc := t.pc + 2, stalled := false })) ∧
  (∀ (k : Core) (ctx : Option Nat) (ch n : Nat),
    (k.refuses ctx = true → k.messageStatus ctx ch n = 4) ∧
    (k.refuses ctx = false → (∀ i, 1 ≤ i → i ≤ 31 → (k.handler i).v = true → (k.handler i).ch ≠ ch) → k.messageStatus ctx ch n = 2) ∧
    (∀ i, k.refuses ctx = false → 1 ≤ i → i ≤ 31 → (k.handler i).v = true → (k.handler i).ch = ch →
      (∀ j, 1 ≤ j → j < i → (k.handler j).v = true → (k.handler j).ch ≠ ch) →
      k.messageStatus ctx ch n =
        if (k.handler i).depth < (k.fifo ch).length + n ∨ Config.inboxWords < k.sched.inbox.length + n then 1 else 0))

/-- R160–R163: active messages, at the sender and at the target. -/
def Obligations.Messages : Prop := MessageInstructions ∧ MessageArrivals
/-! ## The vector/matrix stream (R191, R214–R216, R22) -/

/-- The length in halfwords of an instruction of the vector/matrix stream (R14, R20). -/
def Sys2Proof.Machine.streamLength (i : Instr) : Nat :=
  match i with
  | .vldLit _ | .vstLit _ => 4
  | _ => 2

/-- R191, R23, R192: the scalar stream passes an instruction of the vector/matrix stream with its X operands captured, and goes on; one that is
guarded off it passes at once; executed with no active lane (with its guard off, for a matrix instruction) it changes nothing, and the
stream goes on. An instruction whose predicate a later scalar instruction has replaced is judged by the value that it was passed with. -/
def Obligations.PassingAndSkipping : Prop :=
  (∀ (i : Instr) (s : State) (c : Nat) (t : Task), (laneGuard i).isSome ∨ (unitGuard i).isSome →
    (∃ lag, s.turn = .core c lag) → (s.core c).hi = none → (s.core c).lo = some t → t.carried = false →
    t.late = [] → (s.core c).vu.recording = none → (s.core c).vu.viq = [] →
    let u := (s.core c).vu
    let on := (laneGuard i).any (s.core c).anyLane || (unitGuard i).any (s.core c).unitOn
    (on = false → exec i s = .next (s.setCore c ((s.core c).wentPast t (streamLength i) u))) ∧
    (on = true → checkedWhenPassed i = false → s.turn = .core c true →
      exec i s = .next (s.setCore c ((s.core c).wentPast t 2
        { u with viq := [passedEntry (s.core c) t i (capturedRegs i)] })))) ∧
  (∀ (i : Instr) (g : Guard) (s : State) (c : Nat) (e : VEntry) (it : VItem), laneGuard i = some g → AtItem s c e it i →
    ((List.range 64).any fun j => decide (j < (s.core c).vu.vl) && ((s.core c).itemPred it g.p).getLsbD j != g.sense) = false →
    exec i s = .next (s.streamDone c (s.core c))) ∧
  (∀ (i : Instr) (g : Guard) (s : State) (c : Nat) (e : VEntry) (it : VItem), laneGuard i = some g → AtVector s c e it i →
    (s.core c).anyLane g = false → exec i s = .next (s.streamDone c (s.core c))) ∧
  (∀ (i : Instr) (g : Guard) (s : State) (c : Nat) (e : VEntry) (it : VItem), unitGuard i = some g → AtVector s c e it i →
    (s.core c).unitOn g = false → exec i s = .next (s.streamDone c (s.core c))) ∧
  (∀ (u : VecUnit) (e : VEntry) (r : List VEntry), u.viq = e :: r →
    u.advance.viq = (if e.pos + 1 < e.items.length then { e with pos := e.pos + 1 } :: r
      else if e.replay = true ∧ e.iter + 1 < e.count then { e with pos := 0, iter := e.iter + 1 } :: r else r))

/-- R214, R215: REPB opens a recording, the instructions of the vector/matrix stream that follow are recorded, and REPE puts them into the queue as one
replay of X[a] iterations, in each of which the marked fields have moved on by the stride. -/
def Obligations.Repetition : Prop :=
  (∀ f : RepbForm,
    Completes (.repb f) 4 f.g (fun s c t => t.carried = false ∧ (s.core c).inHi = false ∧ (t.reg f.a).toNat < 2 ^ 32)
      (fun s c t =>
        let r : Recording := ⟨[], f.stride.toNat, f.fmask.toNat, f.pmask.toNat, (t.reg f.a).toNat, t.pc⟩
        s.onCore c fun k => { k with vu := { k.vu with recording := some r } }) (fun _ _ t => t)) ∧
  (∀ (f : VForm) (s : State) (c : Nat) (lag : Bool) (t : Task) (r : Recording), s.turn = .core c lag → (s.core c).hi = none →
    (s.core c).lo = some t → t.carried = false → t.late = [] → (s.core c).regs.tstat.getLsbD 15 = false → (s.core c).vu.recording = some r →
    (s.core c).vu.viq = [] → r.items.length < 16 → r.pmask.testBit r.items.length = false →
    let u := (s.core c).vu
    let r' := { r with items := r.items ++ [passedItem (s.core c) t (.vadd f) []] }
    exec (.vadd f) s = .next (s.setCore c ((s.core c).wentPast t 2 { u with recording := some r' }))) ∧
  (∀ (s : State) (c : Nat) (lag : Bool) (t : Task) (r : Recording), s.turn = .core c lag → (s.core c).hi = none →
    (s.core c).lo = some t → t.carried = false → t.late = [] → (s.core c).regs.tstat.getLsbD 15 = false → (s.core c).vu.recording = some r →
    r.items ≠ [] → r.pmask < 2 ^ r.items.length → (∀ it ∈ r.items, it.marked = true → portFields it.instr &&& r.fmask = 0) →
    (s.core c).vu.queued + r.items.length ≤ Config.viqSize →
    let u := (s.core c).vu
    (0 < r.count → exec .repe s =
      .next (s.setCore c ((s.core c).wentPast t 2 { u with recording := none, viq := u.viq ++ [replayEntry r] }))) ∧
    (r.count = 0 → exec .repe s = .next (s.setCore c ((s.core c).wentPast t 2 { u with recording := none })))) ∧
  (∀ (f : VForm) (fm n : Nat), f.p = false → stagger (.vadd f) fm n = .vadd { f with
    d := if fm.testBit 0 then f.d + BitVec.ofNat 5 n else f.d,
    a := if fm.testBit 1 then f.a + BitVec.ofNat 5 n else f.a,
    b := if fm.testBit 2 then f.b + BitVec.ofNat 5 n else f.b })

/-! ## Lane arithmetic (R194–R209) -/

/-- A two-operand lane instruction: its form, whether a type makes it round, and its result in a lane from the lanes of Va, operand b and the
old Vd. -/
abbrev Sys2Proof.Machine.LaneOp : Type := (VForm → Instr) × (Ty → Bool) × (Ty → Rnd → Nat → Nat → Nat → Nat)

/-- Sums, products and quotients. -/
noncomputable def Sys2Proof.Machine.laneSums : List LaneOp :=
  [(.vadd, Ty.isFloat, fun t rd a b _ => tyAdd t rd a b), (.vsub, Ty.isFloat, fun t rd a b _ => tyOp t (fun x => x.sub rd) (· - ·) a b),
   (.vmul, Ty.isFloat, fun t rd a b _ => tyOp t (fun x => x.mul rd) (· * ·) a b),
   (.vdiv, Ty.isFloat, fun t rd a b _ => tyOp t (fun x => x.div rd) divInt a b),
   (.vmin, fun _ => false, fun t _ a b _ => tyMinMax t false a b), (.vmax, fun _ => false, fun t _ a b _ => tyMinMax t true a b)]

/-- The fused operations. -/
noncomputable def Sys2Proof.Machine.laneFused : List LaneOp :=
  [(.vfma, fun _ => true, fun t rd a b d => tyFma t rd false false a b d),
   (.vfms, fun _ => true, fun t rd a b d => tyFma t rd false true a b d),
   (.vfnma, fun _ => true, fun t rd a b d => tyFma t rd true false a b d)]

/-- The operations on whole lanes, from the lanes of Va, operand b and the old Vd. -/
noncomputable def Sys2Proof.Machine.laneBits : List ((VBin → Instr) × (Nat → Nat → Nat → Nat)) :=
  [(.vand, fun a b _ => a &&& b), (.vor, fun a b _ => a ||| b), (.vxor, fun a b _ => a ^^^ b),
   (.vdot4I8, fun a b d => wrap 32 ((d : Int) + signed 8 (lane 8 a 0) * signed 8 (lane 8 b 0) + signed 8 (lane 8 a 1) * signed 8 (lane 8 b 1)
     + signed 8 (lane 8 a 2) * signed 8 (lane 8 b 2) + signed 8 (lane 8 a 3) * signed 8 (lane 8 b 3))),
   (.vdot4N8, fun a b d => (d + lane 8 a 0 * lane 8 b 0 + lane 8 a 1 * lane 8 b 1 + lane 8 a 2 * lane 8 b 2 + lane 8 a 3 * lane 8 b 3) % 2 ^ 32)]

/-- R198, R199, R200, R203, R206, R22, R194: a lane instruction of two operands (V registers or a port) writes each active lane with the operation on the
lanes, keeps the others, and advances STATE when it rounds. -/
def Sys2Proof.Machine.LaneResults : Prop :=
  (∀ e ∈ laneSums ++ laneFused, ∀ (f : VForm) (b : Nat) (k : Core),
    Executes (e.1 f) (·.anyLane f.g) (fun s c _ _ => sourceV s c f.p f.b = .ok b k)
      (fun s c _ _ => (k.lanesPut (s.core c) f.g f.d fun i =>
        e.2.2 f.ty (k.bankLo.rnd i) (k.lane f.a i) (lane 32 b i) (k.lane f.d i)).rounded (e.2.1 f.ty))) ∧
  (∀ e ∈ laneBits, ∀ (f : VBin) (b : Nat) (k : Core),
    Executes (e.1 f) (·.anyLane f.g) (fun s c _ _ => sourceV s c f.p f.b = .ok b k)
      (fun s c _ _ => k.lanesPut (s.core c) f.g f.d fun i => e.2 (k.lane f.a i) (lane 32 b i) (k.lane f.d i))) ∧
  (∀ (f : VBin) (b : Nat) (k : Core),
    Executes (.vperm f) (·.anyLane f.g) (fun s c _ _ => sourceV s c f.p f.b = .ok b k)
      (fun s c _ _ => k.lanesPut (s.core c) f.g f.d fun i => if lane 32 b i < 64 then k.lane f.a (lane 32 b i) else 0)) ∧
  (∀ (f : VShForm) (b : Nat) (k : Core),
    let w := if f.half then 16 else 32
    let x := fun (k : Core) (i : Nat) => k.lane f.a i % 2 ^ w
    let n := fun (i : Nat) => lane 32 b i % 2 ^ w
    Executes (.vshl f) (·.anyLane f.g) (fun s c _ _ => sourceV s c f.p f.b = .ok b k)
      (fun s c _ _ => k.lanesPut (s.core c) f.g f.d fun i => if n i < w then x k i * 2 ^ n i % 2 ^ w else 0) ∧
    Executes (.vshr f) (·.anyLane f.g) (fun s c _ _ => sourceV s c f.p f.b = .ok b k)
      (fun s c _ _ => k.lanesPut (s.core c) f.g f.d fun i => if n i < w then x k i / 2 ^ n i else 0) ∧
    Executes (.vsar f) (·.anyLane f.g) (fun s c _ _ => sourceV s c f.p f.b = .ok b k)
      (fun s c _ _ => k.lanesPut (s.core c) f.g f.d fun i => wrap w (signed w (x k i) / (2 ^ Nat.min (n i) (w - 1) : Nat)))) ∧
  (∀ (rd : Rnd) (t : Ty) (a b : Nat), t = .i32 ∨ t = .n32 ∨ t = .i16 ∨ t = .n16 → tyAdd t rd a b = (a + b) % 2 ^ tyBits t) ∧
  (∀ (rd : Rnd) (a b : Nat), a < 2 ^ 32 → b < 2 ^ 32 → tyAdd .f32 rd a b = sF32.add rd a b) ∧
  (∀ a : Int, divInt a 0 = -1) ∧
  (∀ (k k0 : Core) (g : Guard) (d : Reg) (f : Nat → Nat) (i : Nat), i < 64 →
    (k.lanesPut k0 g d f).lane d i = if k0.laneOn g i then f i % 2 ^ 32 else k.lane d i)

/-- R201, R202, R194, R195: the instructions of one source or none write their lanes; VLEN sets SR.VL and X[d], and VMOV to a queue pushes lanes 0 and 1. -/
def Sys2Proof.Machine.UnaryLanes : Prop :=
  (∀ (f : VUn0) (v : Nat) (k : Core),
    Executes (.vmov f) (·.anyLane f.g) (fun s c _ _ => sourceV s c f.p f.a = .ok v k)
      (fun s c _ _ => k.lanesPut (s.core c) f.g f.d fun i => lane 32 v i)) ∧
  (∀ (f : VUn) (v : Nat) (k : Core),
    let src := fun s c (_ : VEntry) (_ : VItem) => sourceV s c f.p f.a = .ok v k
    let x := fun (i : Nat) => lane 32 v i % 2 ^ tyBits f.ty
    let n := tyBits f.ty
    Executes (.vabs f) (·.anyLane f.g) src (fun s c _ _ => k.lanesPut (s.core c) f.g f.d fun i =>
      if f.ty.isFloat then x i % 2 ^ (n - 1) else (tyInt f.ty (x i)).natAbs % 2 ^ n) ∧
    Executes (.vneg f) (·.anyLane f.g) src (fun s c _ _ => k.lanesPut (s.core c) f.g f.d fun i =>
      if f.ty.isFloat then x i ^^^ 2 ^ (n - 1) else (2 ^ n - x i) % 2 ^ n) ∧
    Executes (.vsqrt f) (·.anyLane f.g) src (fun s c _ _ => (k.lanesPut (s.core c) f.g f.d fun i =>
      tyUn f.ty (fun y => y.sqrt (k.bankLo.rnd i)) (x i)).rounded true) ∧
    Executes (.vrcp f) (·.anyLane f.g) src (fun s c _ _ => (k.lanesPut (s.core c) f.g f.d fun i =>
      tyUn f.ty (fun y a => y.convert (k.bankLo.rnd i) false (y.decode a).rcp) (x i)).rounded true) ∧
    Executes (.vrsq f) (·.anyLane f.g) src (fun s c _ _ => (k.lanesPut (s.core c) f.g f.d fun i =>
      tyUn f.ty (fun y a => y.convert (k.bankLo.rnd i) false (y.decode a).rsqrt) (x i)).rounded true) ∧
    Executes (.vexp2 f) (·.anyLane f.g) src (fun s c _ _ => (k.lanesPut (s.core c) f.g f.d fun i =>
      tyUn f.ty (fun y => y.exp2 (k.bankLo.rnd i)) (x i)).rounded true) ∧
    Executes (.vlog2 f) (·.anyLane f.g) src (fun s c _ _ => (k.lanesPut (s.core c) f.g f.d fun i =>
      tyUn f.ty (fun y => y.log2 (k.bankLo.rnd i)) (x i)).rounded true)) ∧
  (∀ (f : VUn0) (v : Nat) (k : Core),
    (f.p = true → Executes (.vbcast f) (·.anyLane f.g) (fun s c _ _ => sourceV s c true f.a = .ok v k)
      (fun s c _ _ => k.lanesPut (s.core c) f.g f.d fun _ => lane 32 v 0)) ∧
    (f.p = false → Executes (.vbcast f) (·.anyLane f.g) (fun _ _ _ _ => True)
      (fun s c e it => (s.core c).lanesPut (s.core c) f.g f.d fun _ => (e.x it 1 f.a).toNat % 2 ^ 32))) ∧
  (∀ f : Rd, Executes (.viota f) (·.anyLane f.g) (fun _ _ _ _ => True)
    (fun s c _ _ => (s.core c).lanesPut (s.core c) f.g f.d fun i => i)) ∧
  (∀ f : R2, Executes (.vlen f) (·.anyLane f.g) (fun _ _ _ _ => True) (fun s c e it =>
    let n := Nat.min (e.x it 1 f.a).toNat 64
    { s.core c with vu := { (s.core c).vu with vl := Nat.max n 1 } }.setX false f.d (w64 n))) ∧
  (∀ f : VmovqForm, Executes (.vmovQ f) (·.anyLane f.g)
    (fun s c _ _ => ((s.core c).vu.queue (4 + f.q.toNat)).length < Config.queueSize)
    (fun s c _ _ => (s.core c).pushed (BitVec.ofNat 5 (4 + f.q.toNat))
      (w64 ((if (s.core c).laneOn f.g 0 then (s.core c).lane f.a 0 else 0) +
        (if (s.core c).laneOn f.g 1 then (s.core c).lane f.a 1 else 0) * 2 ^ 32))))

/-- R22, R194, R195, R198–R203, R206: results lane by lane. -/
def Obligations.LaneArithmetic : Prop := LaneResults ∧ UnaryLanes

/-- R204, R205, R207: VCMP writes the predicate bits of its active lanes; VSEL picks by a predicate's bits; VEXT, VINS and VCOMP move lanes. -/
def Sys2Proof.Machine.LaneMovement : Prop :=
  (∀ (f : VcmpForm) (s : State) (c : Nat) (e : VEntry) (it : VItem) (b : Nat) (k : Core),
    AtVector s c e it (.vcmp f) → (s.core c).anyLane f.g = true → sourceV s c f.p f.b = .ok b k →
    ∃ p : W, exec (.vcmp f) s = .next (s.streamDone c (k.setP false f.pd p)) ∧ ∀ i, i < 64 → p.getLsbD i =
      if (s.core c).laneOn f.g i then
        (match tySpec f.ty with
          | some y => vcmpFloat f.cond (y.decode (k.lane f.a i % 2 ^ tyBits f.ty)) (y.decode (lane 32 b i % 2 ^ tyBits f.ty))
          | none => vcmpInt f.cond (tyInt f.ty (k.lane f.a i)) (tyInt f.ty (lane 32 b i)))
      else ((s.core c).vpred f.pd).getLsbD i) ∧
  (∀ (f : VselForm) (b : Nat) (k : Core),
    Executes (.vsel f) (·.anyLane f.g) (fun s c _ _ => sourceV s c f.p f.b = .ok b k)
      (fun s c _ _ => k.lanesPut (s.core c) f.g f.d fun i => if ((s.core c).vpred f.c).getLsbD i then k.lane f.a i else lane 32 b i)) ∧
  (∀ f : R3, Executes (.vext f) (·.anyLane f.g) (fun _ _ _ _ => True) (fun s c e it => (s.core c).setX false f.d
    (w64 (if (e.x it 2 f.b).toNat < 64 then (s.core c).lane f.a (e.x it 2 f.b).toNat else 0)))) ∧
  (∀ f : R3, Executes (.vins f) (·.anyLane f.g) (fun _ _ _ _ => True) (fun s c e it => (s.core c).lanesPut (s.core c) f.g f.d fun i =>
    if i = (e.x it 2 f.b).toNat then (e.x it 1 f.a).toNat % 2 ^ 32 else (s.core c).lane f.d i)) ∧
  (∀ (f : VcompForm) (v : Nat) (k : Core),
    Executes (.vcomp f) (·.anyLane f.g) (fun s c _ _ => sourceV s c f.p f.a = .ok v k) (fun s c _ _ => k.lanesPut (s.core c) f.g f.d fun j =>
      ((((List.range (s.core c).vu.vl).filter fun i => ((s.core c).vpred f.c).getLsbD i).map fun i => lane 32 v i)[j]?).getD 0))

/-- R208, R209: VRED leaves the reduction of the active lanes in lane 0 of V[d], and VSCAN the running results; for ADD on an integer type these are
the sums modulo the width. -/
def Sys2Proof.Machine.Reductions : Prop :=
  (∀ (f : VredForm) (v : Nat) (k : Core),
    Executes (.vred f) (·.anyLane f.g) (fun s c _ _ => sourceV s c f.p f.a = .ok v k) (fun s c _ _ =>
      ((k.setV f.d.toNat (k.vu.reg f.d.toNat / 2 ^ 32 * 2 ^ 32 + (redTree (fun i => redOp f.ty f.op (k.bankLo.rnd i)) 6 ((List.range 64).map fun i =>
        if (s.core c).laneOn f.g i then some (lane 32 v i % 2 ^ tyBits f.ty) else none)).getD (redIdentity f.ty f.op)))).rounded
        (f.op == .add && f.ty.isFloat))) ∧
  (∀ (f : VscanForm) (v : Nat) (k : Core),
    Executes (.vscan f) (·.anyLane f.g) (fun s c _ _ => sourceV s c f.p f.a = .ok v k) (fun s c _ _ =>
      (k.lanesPut (s.core c) f.g f.d fun i => (((scanFrom (fun i => redOp f.ty (match f.op with | .add => .add | .min => .min | .max => .max)
        (k.bankLo.rnd i)) 0 none ((List.range 64).map fun i =>
          if (s.core c).laneOn f.g i then some (lane 32 v i % 2 ^ tyBits f.ty) else none))[i]?).join).getD 0).rounded
        (f.op == .add && f.ty.isFloat))) ∧
  (∀ (t : Ty) (rd : Nat → Rnd) (l : List (Option Nat)), t.isFloat = false → l.length = 64 → (∀ x, some x ∈ l → x < 2 ^ tyBits t) →
    (∃ x, some x ∈ l) →
    redTree (fun i => redOp t .add (rd i)) 6 l = some ((l.filterMap id).foldl (· + ·) 0 % 2 ^ tyBits t)) ∧
  (∀ (t : Ty) (rd : Nat → Rnd) (l : List (Option Nat)) (i x : Nat), t.isFloat = false → (∀ x, some x ∈ l → x < 2 ^ tyBits t) →
    l[i]? = some (some x) →
    (scanFrom (fun i => redOp t .add (rd i)) 0 none l)[i]? = some (some (((l.take (i + 1)).filterMap id).foldl (· + ·) 0 % 2 ^ tyBits t)))

/-- R204, R205, R207–R209: movement across lanes, reductions and scans. -/
def Obligations.MovementAndReductions : Prop := LaneMovement ∧ Reductions

/-! ## Vector memory (R210–R213, R185–R187) -/

/-- R210, R211, R213: a vector load from a window of the own scratchpad takes each active lane's element, converted as the window's format says; a
vector store writes the active lanes' elements as one arrival; a load of global memory takes the words once all have come.
A whole 8-byte word written loses its poison. -/
def Obligations.VectorMemory : Prop :=
  (∀ (i : Instr) (g : Guard) (d : Reg) (b : VEntry → VItem → W) (st : VEntry → VItem → Int),
    (∃ f : DispForm, i = .vld f ∧ g = f.g ∧ d = f.d ∧ (b = fun e it => e.x it 1 f.a + w64 (f.disp.toNat * 256)) ∧ st = fun _ _ => 1) ∨
    (∃ f : R2Lit, i = .vldLit f ∧ g = f.g ∧ d = f.d ∧ (b = fun e it => e.x it 1 f.a + f.lit.signExtend 64) ∧ st = fun _ _ => 1) ∨
    (∃ f : R3, i = .vlds f ∧ g = f.g ∧ d = f.d ∧ (b = fun e it => e.x it 1 f.a) ∧ st = fun e it => (e.x it 2 f.b).toInt) →
    ∀ w off : Nat, ExecutesAtPort i (·.anyLane g)
      (fun s c e it => vecCheck s c whoVec it.sup (s.core c).vu.vl (b e it) (some (st e it)) false = .own w off ∧
        LanesSound (s.core c) g w off fun j => j * st e it)
      (fun s c e it => ((s.core c).lanesPut (s.core c) g d fun j => windowLane (s.core c) w off (j * st e it) j).rounded
        ((s.core c).lcl.scaled w))) ∧
  (∀ (i : Instr) (g : Guard) (d : Reg) (b : VEntry → VItem → W) (st : VEntry → VItem → Int),
    (∃ f : DispForm, i = .vst f ∧ g = f.g ∧ d = f.d ∧ (b = fun e it => e.x it 1 f.a + w64 (f.disp.toNat * 256)) ∧ st = fun _ _ => 1) ∨
    (∃ f : R2Lit, i = .vstLit f ∧ g = f.g ∧ d = f.d ∧ (b = fun e it => e.x it 1 f.a + f.lit.signExtend 64) ∧ st = fun _ _ => 1) ∨
    (∃ f : R3, i = .vsts f ∧ g = f.g ∧ d = f.d ∧ (b = fun e it => e.x it 1 f.a) ∧ st = fun e it => (e.x it 2 f.b).toInt) →
    ∀ w off : Nat, ExecutesAtPort i (·.anyLane g)
      (fun s c e it => vecCheck s c whoVec it.sup (s.core c).vu.vl (b e it) (some (st e it)) true = .own w off)
      (fun s c e it => { s.core c with lcl := (s.core c).lcl.writeNibbles (windowNibbles (s.core c) g d w off fun j => j * st e it) }.rounded
        (roundingFmt ((s.core c).lcl.fmtOf w)))) ∧
  (∀ (f : R3) (w off : Nat),
    let elem := fun (k : Core) (j : Nat) => signed 32 (k.lane f.b j)
    ExecutesAtPort (.vldx f) (·.anyLane f.g)
      (fun s c e it => vecCheck s c whoVec it.sup (s.core c).vu.vl (e.x it 1 f.a) none false = .own w off ∧
        LanesSound (s.core c) f.g w off (elem (s.core c)))
      (fun s c _ _ => ((s.core c).lanesPut (s.core c) f.g f.d fun j => windowLane (s.core c) w off (elem (s.core c) j) j).rounded
        ((s.core c).lcl.scaled w)) ∧
    ExecutesAtPort (.vstx f) (·.anyLane f.g)
      (fun s c e it => vecCheck s c whoVec it.sup (s.core c).vu.vl (e.x it 1 f.a) none true = .own w off)
      (fun s c _ _ => { s.core c with lcl := (s.core c).lcl.writeNibbles (windowNibbles (s.core c) f.g f.d w off (elem (s.core c))) }.rounded
        (roundingFmt ((s.core c).lcl.fmtOf w)))) ∧
  (∀ (f : DispForm) (s s' : State) (c : Nat) (e : VEntry) (it : VItem) (pas : List Nat) (got : List (List Byte)),
    let b := e.x it 1 f.a + w64 (f.disp.toNat * 256)
    AtVector s c e it (.vld f) → (s.core c).anyLane f.g = true →
    vecCheck s c whoVec it.sup (s.core c).vu.vl b (some 1) false = .glob pas →
    (vxAt s c e it).globalLoad f.g (fun i => ((b.toNat : Int) + ((i : Nat) : Int) * 1 * 4).toNat) pas = .ok (s', got) →
    (∀ i, i < 64 → (s.core c).laneOn f.g i = true → got.getD i [] ≠ []) →
    exec (.vld f) s = .next (s'.streamDone c ((s'.core c).lanesPut (s.core c) f.g f.d fun i => leNat (got.getD i [])))) ∧
  (∀ (f : DispForm) (code : Nat) (v : W), HoldsFault (.vld f) (·.anyLane f.g)
    (fun s c e it => vecCheck s c whoVec it.sup (s.core c).vu.vl (e.x it 1 f.a + w64 (f.disp.toNat * 256)) (some 1) false = .trap code v)
    code (fun _ _ _ _ => v)) ∧
  (∀ (l : Local) (ns : List (Nat × Nat)) (o : Nat), (∀ e ∈ ns, e.1 / 2 ≠ o) → (l.writeNibbles ns).spad.read o = l.spad.read o) ∧
  (∀ (l : Local) (o : Nat) (v : Nat), v < 2 ^ 32 → l.poisoned o 4 = false →
    (l.writeNibbles (elemNibbles 32 o 0 v)).spad.readN o 4 = leBytes 4 v)

/-- R185, R11: what an address of TBLLD names, by its fields, and the trap of every other address. -/
def Sys2Proof.Machine.TableAddress : Prop :=
  ∀ (c : Nat) (sup : Bool) (a : W),
    let own := a.bits 45 18 = 0 ∧ (a.bits 63 60 = 9 ∧ a.bits 59 50 = 0 ∨
      a.bits 63 60 = 8 ∧ (a.bits 59 56 * 16 + a.bits 55 52) * 4 + a.bits 51 50 = c)
    (own → ownParts c sup a.toNat = .ok (a.bits 49 46, a.bits 17 0)) ∧
    (¬ own → (a.bits 63 60 ≠ 15 ∨ sup = true) → ownParts c sup a.toNat = .error 0x08) ∧
    (a.bits 63 60 = 15 → sup = false → ownParts c sup a.toNat = .error 0x02)

/-- R185, R186: TBLLD fills the decode table with the upper 19 bits of its words, read in one access of the port; it traps ADDR, WINDOW,
ALIGN and WINDOW, in this order, and POISON on a poisoned byte (region 0xF in user mode traps PRIV: log entry 85, DEDUCED). -/
def Sys2Proof.Machine.TableLoads : Prop :=
  TableAddress ∧
  (∀ (f : Ra) (s : State) (c : Nat) (t : Task) (w off : Nat), Issues s c t → guardPasses f.g t = true → t.carried = false →
    ownParts c t.sup (t.reg f.a).toNat = .ok (w, off) → w ≤ 12 → (s.core c).lcl.configured w = true → (t.reg f.a).toNat % 64 = 0 →
    off + 1024 ≤ 0x30000 → Settled s c (t.reg f.a) 1024 → s.portOwes c = false →
    (∀ bytes : List Byte, (s.core c).lcl.load 0 off 1024 = some bytes →
      ∃ T : Tbl (BitVec 32), (∀ j, j < 256 → (Tbl.getD T j 0).toNat = leNat ((bytes.drop (4 * j)).take 4) / 2 ^ 13 * 2 ^ 13) ∧
        let s' := s.ownAccess c
        let k := s'.core c
        exec (.tblld f) s = .next (s'.retire c { k with lcl := { k.lcl with table := T } } t (t.pc + 2))) ∧
    (∀ o : Nat, (s.core c).lcl.firstPoison off 1024 = some o →
      TrapsWith (.tblld f) s c t 0x22 (byteVa (t.reg f.a) (o - off)))) ∧
  (∀ f : Ra,
    (∀ code : Nat, Traps (.tblld f) f.g (fun _ c t => t.carried = false ∧ ownParts c t.sup (t.reg f.a).toNat = .error code) code (fun _ _ t => t.reg f.a)) ∧
    (∀ w off : Nat,
      Traps (.tblld f) f.g (fun s c t => t.carried = false ∧ ownParts c t.sup (t.reg f.a).toNat = .ok (w, off) ∧
        (12 < w ∨ (s.core c).lcl.configured w = false)) 0x06 (fun _ _ t => t.reg f.a) ∧
      Traps (.tblld f) f.g (fun s c t => t.carried = false ∧ ownParts c t.sup (t.reg f.a).toNat = .ok (w, off) ∧
        w ≤ 12 ∧ (s.core c).lcl.configured w = true ∧ (t.reg f.a).toNat % 64 ≠ 0) 0x03 (fun _ _ t => t.reg f.a) ∧
      Traps (.tblld f) f.g (fun s c t => t.carried = false ∧ ownParts c t.sup (t.reg f.a).toNat = .ok (w, off) ∧
        w ≤ 12 ∧ (s.core c).lcl.configured w = true ∧ (t.reg f.a).toNat % 64 = 0 ∧ 0x30000 < off + 1024) 0x06 (fun _ _ t => t.reg f.a)))

/-- R176: which descriptors may be bound. -/
def Sys2Proof.Machine.BindableWindows : Prop :=
  (windowOk 0 0 = true ∧ ∀ d t : W, d.getLsbD 63 = false → windowOk d t = true → d = 0 ∧ t = 0) ∧
  (∀ d t : W, d.getLsbD 63 = true →
    (windowOk d t = true ↔ d.bits 62 48 = 0 ∧ d.bits 47 44 ≤ 12 ∧ d.bits 41 36 = 0 ∧ t.bits 63 32 = 0 ∧ t.bits 30 23 ≠ 255 ∧
      (d.bits 43 42 = 0 ∧ d.bits 35 18 = 0 ∧ d.bits 17 0 = 0 ∨
       d.bits 43 42 = 1 ∧ (d.bits 47 44 = 3 ∨ d.bits 47 44 = 4 ∨ d.bits 47 44 = 5) ∧ d.bits 35 18 < 0x30000 ∧ d.bits 17 0 < 0x30000 ∧
         d.bits 17 0 % 64 = 0)))

/-- R185, R186, R187, R176: TBLLD fills the decode table; WINSET binds windows 1 to 12 once no store that the task posted to its own scratchpad is under
way, waits for one that is, and traps ILLEGAL on another number or a descriptor that may not be bound. -/
def Obligations.TableAndWindows : Prop :=
  TableLoads ∧ BindableWindows ∧
  (∀ f : Rba,
    let good := fun (t : Task) => t.carried = false ∧ 1 ≤ (t.reg f.a).toNat ∧ (t.reg f.a).toNat ≤ 12 ∧ windowOk (t.reg f.b) (t.reg (f.b + 1)) = true
    let posted := fun (s : State) (c : Nat) => ∃ p ∈ s.net ++ s.held, packetSpans c (s.core c).inHi p ≠ []
    Completes (.winset f) 2 f.g (fun s c t => good t ∧ ¬ posted s c)
      (fun s c t => s.onCore c fun k =>
        let win := Tbl.put 0 k.lcl.win (t.reg f.a).toNat (t.reg f.b)
        let tscale := Tbl.put 0 k.lcl.tscale (t.reg f.a).toNat (t.reg (f.b + 1))
        { k with lcl := { k.lcl with win := win, tscale := tscale } }) (fun _ _ t => t) ∧
    (∀ s c t, Issues s c t → guardPasses f.g t = true → good t → posted s c → exec (.winset f) s = .next (s.issue c (s.core c).inHi)) ∧
    Traps (.winset f) f.g (fun _ _ t => t.carried = false ∧ ((t.reg f.a).toNat = 0 ∨ 12 < (t.reg f.a).toNat)) 0x01 (fun _ _ t => t.reg f.a) ∧
    Traps (.winset f) f.g (fun _ _ t => t.carried = false ∧ 1 ≤ (t.reg f.a).toNat ∧ (t.reg f.a).toNat ≤ 12 ∧
      windowOk (t.reg f.b) (t.reg (f.b + 1)) = false) 0x01 (fun _ _ t => t.reg f.b))

/-! ## Conversions (R179–R184) -/

/-- R179–R184, R371: VCVT, VDEC and VDQNT convert lane by lane, VENC and VQNT replace their part of V[d] and, for VQNT, its scale bytes; what is not
named by an active lane keeps its bits, and so does the scale byte of a block without one; the rounding state moves on as R371 says. -/
def Obligations.Conversions : Prop :=
  (∀ f : CvtForm, Executes (.vcvt f) (·.anyLane f.g) (fun _ _ _ _ => True) (fun s c _ _ =>
    let k := s.core c
    (k.lanesPut k f.g f.d fun i =>
      let x := k.lane f.a i % 2 ^ f.src.width
      if f.dst = f.src then x else f.dst.convert k.lcl.t8 (k.bankLo.rnd i) f.ns (f.src.value k.lcl.t8 x)).rounded
      (f.dst != f.src && f.dst != .t8))) ∧
  (∀ f : UnpackForm, Executes (.vdec f) (·.anyLane f.g) (fun _ _ _ _ => True) (fun s c _ _ =>
    let k := s.core c
    k.lanesPut k f.g f.d fun i =>
      sF32.convert rne false (f.src.value k.lcl.t8 (lane f.src.width (k.vu.reg f.a.toNat) (64 * f.p.toNat + i))))) ∧
  (∀ (f : PackForm) (s : State) (c : Nat) (e : VEntry) (it : VItem), AtVector s c e it (.venc f) → (s.core c).anyLane f.g = true →
    let k := s.core c
    let w := f.dst.width
    ∃ n : Nat, exec (.venc f) s = .next (s.streamDone c ((k.setV f.d.toNat n).rounded (f.dst != .t8))) ∧
      ∀ j, j < 2048 / w → lane w n j =
        if 64 * f.p.toNat ≤ j ∧ j < 64 * f.p.toNat + 64 ∧ k.laneOn f.g (j - 64 * f.p.toNat) = true then
          f.dst.convert k.lcl.t8 (k.bankLo.rnd (j - 64 * f.p.toNat)) f.ns (sF32.decode (k.lane f.a (j - 64 * f.p.toNat))) % 2 ^ w
        else lane w (k.vu.reg f.d.toNat) j) ∧
  (∀ (f : QuantForm) (s : State) (c : Nat) (e : VEntry) (it : VItem), AtVector s c e it (.vqnt f) → (s.core c).anyLane f.g = true →
    f.dst.spec = none →
    let k := s.core c
    let w := f.dst.width
    let sc := k.vu.reg (f.d.toNat + 1)
    ∃ n : Nat, exec (.vqnt f) s = .next (s.streamDone c ((k.setV f.d.toNat n).rounded true)) ∧
      ∀ j, j < 2048 / w → lane w n j =
        if 64 * f.p.toNat ≤ j ∧ j < 64 * f.p.toNat + 64 ∧ k.laneOn f.g (j - 64 * f.p.toNat) = true then
          quantRow w (k.bankLo.rnd (j - 64 * f.p.toNat)) (sF16.decode (lane 16 sc 0)) (sF16.decode (lane 16 sc 1))
            (sF32.decode (k.lane f.a (j - 64 * f.p.toNat))) % 2 ^ w
        else lane w (k.vu.reg f.d.toNat) j) ∧
  (∀ (f : QuantForm) (sp : FSpec) (s : State) (c : Nat) (e : VEntry) (it : VItem), AtVector s c e it (.vqnt f) → (s.core c).anyLane f.g = true →
    f.dst.spec = some sp →
    let k := s.core c
    let w := f.dst.width
    let block := fun (b : Nat) => ((List.range 64).filter fun i => k.laneOn f.g i && i / 32 == b).map fun i => (i, k.lane f.a i)
    ∃ n m : Nat, exec (.vqnt f) s = .next (s.streamDone c (((k.setV f.d.toNat n).setV (f.d.toNat + 1) m).rounded true)) ∧
      (∀ b, b < 2 → block b ≠ [] → lane 8 m (2 * f.p.toNat + b) = (quantBlock f.dst sp k.bankLo.rnd (block b)).1 % 2 ^ 8) ∧
      (∀ j, j < 256 → (∀ b, b < 2 → block b ≠ [] → j ≠ 2 * f.p.toNat + b) → lane 8 m j = lane 8 (k.vu.reg (f.d.toNat + 1)) j) ∧
      (∀ j, j < 2048 / w → (64 * f.p.toNat ≤ j → j < 64 * f.p.toNat + 64 → k.laneOn f.g (j - 64 * f.p.toNat) = false) →
        lane w n j = lane w (k.vu.reg f.d.toNat) j) ∧
      (∀ b x, b < 2 → x ∈ (quantBlock f.dst sp k.bankLo.rnd (block b)).2 → 64 * f.p.toNat + x.1 < 2048 / w →
        lane w n (64 * f.p.toNat + x.1) = x.2 % 2 ^ w)) ∧
  (∀ f : UnpackForm, Executes (.vdqnt f) (·.anyLane f.g) (fun _ _ _ _ => True) (fun s c _ _ =>
    let k := s.core c
    let sc := k.vu.reg (f.a.toNat + 1)
    (k.lanesPut k f.g f.d fun i =>
      let q := lane f.src.width (k.vu.reg f.a.toNat) (64 * f.p.toNat + i)
      match f.src.spec with
      | none => sF32.fma (k.bankLo.rnd i) (sF16.decode (lane 16 sc 0)) (.ofInt (q : Nat)) (sF16.decode (lane 16 sc 1))
      | some sp =>
        let sb := lane 8 sc (2 * f.p.toNat + i / 32)
        if sb = 0xFF ∨ (sp.decode q).isNan then sF32.nanCode
        else sF32.convert (k.bankLo.rnd i) false ((sp.decode q).mul (.ex false 1 ((sb : Int) - 127)))).rounded true))

/-! ## The matrix unit (R217–R237) -/

/-- R230, R234, R235, R236, R217: MMA and MMAT add the product of their operand and the latch to each element of a tile, rounding once with RNE, and set
its scale pair; TZERO clears a tile; CLLD loads the latch; TROW moves two rows between a tile and a V register. -/
def Obligations.MatrixResults : Prop :=
  (∀ (f : MmaForm) (s : State) (c : Nat) (e : VEntry) (it : VItem) (w off : Nat) (cur x : LatchTile), AtVector s c e it (.mma f) →
    let k := s.core c
    let a := e.x it 1 f.a
    k.unitOn f.g = true → operandCheck c it.sup k.lcl a = .ok (w, off) → k.vu.cur = some cur →
    ((k.lcl.fmtOf w).map Fmt.width).getD 0 = cur.fmt.width → OwnTurn s c → k.lcl.operand a w off = .ok x →
    ∃ T : Nat, (∀ m n, m < 32 → n < 32 → lane 32 T (32 * m + n) =
        mmaCell (k.vu.cell f.t.toNat m n) (512 / cur.fmt.width) (x.elem k.lcl.t8 m) (cur.elem k.lcl.t8 n) % 2 ^ 32) ∧
      let s' := s.ownAccess c
      exec (.mma f) s = .next (s'.streamDone c
        { s'.core c with vu := ((s'.core c).vu.setTile f.t.toNat T).setScales f.t.toNat x.tscale cur.tscale })) ∧
  (∀ (f : MmaForm) (code : Nat) (v : W), HoldsFault (.mma f) (·.unitOn f.g)
    (fun s c e it => operandCheck c it.sup (s.core c).lcl (e.x it 1 f.a) = .error (code, v)) code (fun _ _ _ _ => v)) ∧
  (∀ (f : MmaForm) (w off : Nat) (cur : LatchTile), HoldsFault (.mma f) (·.unitOn f.g)
    (fun s c e it => operandCheck c it.sup (s.core c).lcl (e.x it 1 f.a) = .ok (w, off) ∧ (s.core c).vu.cur = some cur ∧
      (((s.core c).lcl.fmtOf w).map Fmt.width).getD 0 ≠ cur.fmt.width) 0x01 (fun _ _ e it => e.x it 1 f.a)) ∧
  (∀ (f : MmatForm) (s : State) (c : Nat) (e : VEntry) (it : VItem) (cur : LatchTile), AtVector s c e it (.mmat f) →
    let k := s.core c
    k.unitOn f.g = true → k.vu.cur = some cur → cur.fmt.width = 16 →
    ∃ T : Nat, (∀ m n, m < 32 → n < 32 → lane 32 T (32 * m + n) =
        mmaCell (k.vu.cell f.t.toNat m n) 32 (fun j => sF32.decode (k.vu.cell f.s.toNat m j)) (cur.elem k.lcl.t8 n) % 2 ^ 32) ∧
      exec (.mmat f) s = .next (s.streamDone c
        { k with vu := (k.vu.setTile f.t.toNat T).setScales f.t.toNat f32One cur.tscale })) ∧
  (∀ f : MmatForm, HoldsFault (.mmat f) (·.unitOn f.g) (fun s c _ _ => (s.core c).vu.cur = none) 0x01 (fun _ _ _ it => it.word)) ∧
  (∀ f : TForm, Executes (.tzero f) (·.unitOn f.g) (fun _ _ _ _ => True) (fun s c _ _ =>
    { s.core c with vu := ((s.core c).vu.setTile f.t.toNat 0).setScales f.t.toNat f32One f32One })) ∧
  (∀ (f : Ra) (w off : Nat) (x : LatchTile), ExecutesAtPort (.clld f) (·.unitOn f.g)
    (fun s c e it => operandCheck c it.sup (s.core c).lcl (e.x it 1 f.a) = .ok (w, off) ∧
      (s.core c).lcl.operand (e.x it 1 f.a) w off = .ok x)
    (fun s c _ _ => { s.core c with vu := { (s.core c).vu with cur := some x } })) ∧
  (∀ (f : TileForm) (s : State) (c : Nat) (e : VEntry) (it : VItem), AtVector s c e it (.trow f) →
    let k := s.core c
    let r := (e.x it 1 f.a).toNat % 32
    k.unitOn f.g = true → (e.x it 1 f.a).toNat < 64 →
    ((e.x it 1 f.a).getLsbD 5 = false → ∃ V : Nat, (∀ n, n < 32 → lane 32 V n = k.vu.cell f.t.toNat r n ∧
        lane 32 V (32 + n) = k.vu.cell f.t.toNat ((r + 1) % 32) n) ∧ exec (.trow f) s = .next (s.streamDone c (k.setV f.b.toNat V))) ∧
    ((e.x it 1 f.a).getLsbD 5 = true → ∃ T : Nat, (∀ m n, m < 32 → n < 32 → lane 32 T (32 * m + n) =
        if m = (r + 1) % 32 then k.lane f.b (32 + n) else if m = r then k.lane f.b n else k.vu.cell f.t.toNat m n) ∧
      exec (.trow f) s = .next (s.streamDone c { k with vu := k.vu.setTile f.t.toNat T }))) ∧
  (∀ (acc depth : Nat) (a b : Nat → FVal), mmaCell acc depth a b = sF32.convert rne false
    ((List.range depth).foldl (fun s j => s.add 0 ((a j).mul (b j))) (sF32.decode acc)))

/-- R221, R222, R223, R226: TLD and TLD.T load a tile of the own scratchpad in one access of the port; one of another core is asked of its
owner, one of global memory of the home of its first line in one request; the answer that came completes the instruction. -/
def Sys2Proof.Machine.TileLoads : Prop :=
  (∀ (f : TileForm) (sh : Shape) (w off step : Nat) (fm : Fmt) (rows : List (List Nat)) (tr : Bool),
    ExecutesAtPort (if tr then .tldT f else .tld f) (·.unitOn f.g)
      (fun s c e it => shapeOf (.tld tr) (e.x it 2 f.b) ((e.x it 1 f.a).bits 63 60) f.b f.t = some sh ∧
        tileCheck c it.sup (s.core c).lcl (.tld tr) (e.x it 1 f.a) (e.x it 2 f.b) sh = .ok (.own w off fm step) ∧
        (s.core c).lcl.readTile (e.x it 1 f.a) w off fm step = .ok rows)
      (fun s c _ _ => { s.core c with vu := (s.core c).vu.loadTile f.t tr rows })) ∧
  (∀ (u : VecUnit) (t : PReg) (tr : Bool) (rows : List (List Nat)) (m n : Nat), m < 32 → n < 32 →
    (u.loadTile t tr rows).cell t.toNat m n = (if tr then (rows.getD n []).getD m 0 else (rows.getD m []).getD n 0) % 2 ^ 32 ∧
    (u.loadTile t tr rows).scales t.toNat = (f32One, f32One)) ∧
  (∀ (f : TileForm) (sh : Shape) (tr : Bool) (s : State) (c d : Nat) (e : VEntry) (it : VItem),
    AtVector s c e it (if tr then .tldT f else .tld f) → (s.core c).unitOn f.g = true →
    shapeOf (.tld tr) (e.x it 2 f.b) ((e.x it 1 f.a).bits 63 60) f.b f.t = some sh →
    tileCheck c it.sup (s.core c).lcl (.tld tr) (e.x it 1 f.a) (e.x it 2 f.b) sh = .ok (.far d) →
    exec (if tr then .tldT f else .tld f) s = .next ((s.send (.core c) (.core d) .request
      (.tileLoad (s.tileRequester c it) (e.x it 1 f.a).toNat sh.pitch)).streamAsks c none)) ∧
  (∀ (f : TileForm) (sh : Shape) (tr : Bool) (s : State) (c va step : Nat) (fm : Fmt) (e : VEntry) (it : VItem) (rows : List (List (Nat × Nat × Nat))),
    AtVector s c e it (if tr then .tldT f else .tld f) → (s.core c).unitOn f.g = true →
    shapeOf (.tld tr) (e.x it 2 f.b) ((e.x it 1 f.a).bits 63 60) f.b f.t = some sh →
    tileCheck c it.sup (s.core c).lcl (.tld tr) (e.x it 1 f.a) (e.x it 2 f.b) sh = .ok (.glob va fm step) →
    translateAll s c it.sup false (tileRows va fm step) = .ok (.ok rows) → TileFree s c e it rows.flatten va fm step →
    exec (if tr then .tldT f else .tld f) s = .next ((s.send (.core c) (.slice ((rows.flatten.head?.map fun r => homeOf r.2.1).getD 0)) .request
      (.tile (s.tileRequester c it) (.read rows.flatten))).streamAsks c none)) ∧
  (∀ (f : TileForm) (sh : Shape) (tr : Bool) (s : State) (c : Nat) (e : VEntry) (it : VItem) (got : List (List Byte)),
    AtWork s c e it (if tr then .tldT f else .tld f) got → (s.core c).unitOn f.g = true →
    shapeOf (.tld tr) (e.x it 2 f.b) ((e.x it 1 f.a).bits 63 60) f.b f.t = some sh →
    let rows := if (e.x it 1 f.a).bits 63 60 = 0 then
        (chunks (4 * sh.fmt.width) 32 got.flatten).map fun r => (rowCodes sh.fmt.width r).map (elemF32 sh.fmt (s.core c).lcl.t8)
      else got.map (rowCodes 32)
    exec (if tr then .tldT f else .tld f) s = .next (s.streamDone c { s.core c with vu := (s.core c).vu.loadTile f.t tr rows }))

/-- R221, R222, R224, R225, R226: TST and TSTN store a tile of the own scratchpad in one access of the port; a TST to another core sends its
elements with the Waybill entry it took and goes on (whether it advances STATE is judged by the owner's window as it stands: log entry 22, DEDUCED);
a tile of global memory is asked of the home of its first line, and the answer completes the instruction. -/
def Sys2Proof.Machine.TileStores : Prop :=
  (∀ (f : TileForm) (sh : Shape) (w off step : Nat) (fm : Fmt),
    let rows := fun (k : Core) (sc : Option (FVal × FVal)) => storeRows fm k.lcl.t8 k.bankLo.rmode k.bankLo.rng sc (k.vu.codes f.t.toNat)
    ExecutesAtPort (.tst f) (·.unitOn f.g)
      (fun s c e it => shapeOf .tst (e.x it 2 f.b) ((e.x it 1 f.a).bits 63 60) f.b f.t = some sh ∧ sh.kph = 0 ∧ sh.lsrc = false ∧
        tileCheck c it.sup (s.core c).lcl .tst (e.x it 1 f.a) (e.x it 2 f.b) sh = .ok (.own w off fm step))
      (fun s c _ _ => { s.core c with lcl := (s.core c).lcl.writeTile off step (rows (s.core c) none) }.tileRounded (tileRounds .tst false fm)) ∧
    ExecutesAtPort (.tstn f) (·.unitOn f.g)
      (fun s c e it => shapeOf .tstn (e.x it 2 f.b) ((e.x it 1 f.a).bits 63 60) f.b f.t = some sh ∧ sh.kph = 0 ∧ sh.lsrc = false ∧
        tileCheck c it.sup (s.core c).lcl .tstn (e.x it 1 f.a) (e.x it 2 f.b) sh = .ok (.own w off fm step))
      (fun s c _ _ =>
        let q := (s.core c).vu.scales f.t.toNat
        let sc := some (sF32.decode q.1.toNat, sF32.decode q.2.toNat)
        { s.core c with lcl := (s.core c).lcl.writeTile off step (rows (s.core c) sc) }.tileRounded (tileRounds .tstn false fm))) ∧
  (∀ (f : TileForm) (sh : Shape) (s : State) (c d n : Nat) (e : VEntry) (it : VItem),
    AtVector s c e it (.tst f) → (s.core c).unitOn f.g = true → it.entry = some n →
    shapeOf .tst (e.x it 2 f.b) ((e.x it 1 f.a).bits 63 60) f.b f.t = some sh → sh.kph = 0 → sh.lsrc = false →
    tileCheck c it.sup (s.core c).lcl .tst (e.x it 1 f.a) (e.x it 2 f.b) sh = .ok (.far d) →
    let k := s.core c
    exec (.tst f) s = .next ((s.send (.core c) (.core d) .bulk (.tileStore (s.tileRequester c it) (e.x it 1 f.a).toNat sh.pitch
      (.elems k.bankLo.rmode k.bankLo.rng (k.vu.codes f.t.toNat)) n)).streamDone c (k.tileRounded (s.farRounds d (e.x it 1 f.a).toNat)))) ∧
  (∀ (i : Instr) (k : TileKind) (f : TileForm) (sh : Shape) (s : State) (c va step : Nat) (fm : Fmt) (e : VEntry) (it : VItem)
      (runs : List (List (Nat × Nat × Nat))),
    (i = .tst f ∧ k = .tst) ∨ (i = .tstn f ∧ k = .tstn) → AtVector s c e it i → (s.core c).unitOn f.g = true →
    shapeOf k (e.x it 2 f.b) ((e.x it 1 f.a).bits 63 60) f.b f.t = some sh → sh.kph = 0 → sh.lsrc = false →
    tileCheck c it.sup (s.core c).lcl k (e.x it 1 f.a) (e.x it 2 f.b) sh = .ok (.glob va fm step) →
    translateAll s c it.sup true (tileRows va fm step) = .ok (.ok runs) → TileFree s c e it runs.flatten va fm step →
    let o := s.core c
    let q := o.vu.scales f.t.toNat
    let bytes := storeRows fm o.lcl.t8 o.bankLo.rmode o.bankLo.rng
      (if k = .tstn then some (sF32.decode q.1.toNat, sF32.decode q.2.toNat) else none) (o.vu.codes f.t.toNat)
    let tile := (runs.take 32).flatten
    exec i s = .next ((s.send (.core c) (.slice ((tile.head?.map fun r => homeOf r.2.1).getD 0)) .request
      (.tile (s.tileRequester c it) (.write (withBytes tile bytes.flatten)))).streamAsks c (some ([] :: bytes)))) ∧
  (∀ (i : Instr) (k : TileKind) (f : TileForm) (sh : Shape) (s : State) (c : Nat) (e : VEntry) (it : VItem) (got : List (List Byte)),
    (i = .tst f ∧ k = .tst) ∨ (i = .tstn f ∧ k = .tstn) → AtWork s c e it i got → (s.core c).unitOn f.g = true →
    shapeOf k (e.x it 2 f.b) ((e.x it 1 f.a).bits 63 60) f.b f.t = some sh → (e.x it 1 f.a).bits 63 60 = 0 → got.head? = some [] →
    exec i s = .next (s.streamDone c ((s.core c).tileRounded (tileRounds k sh.lsrc sh.fmt))))

/-- R223–R226, R53: an owner answers a tile load with the rows as F32, and performs a tile store whole, in one access of its port; a home reads or writes all the
lines of a tile in one step; an answer lets the stream go on. -/
def Sys2Proof.Machine.TilePackets : Prop :=
  (∀ (s : State) (k c : Nat) (src : Endpoint) (bytes : List (List Byte)), Delivers s k src (.core c) (.tileData bytes) →
    exec (.remoteReply k) s = .next ((s.drop k).onCore c fun x => { x with vu := { x.vu with wait := false, reply := some bytes } })) ∧
  (∀ (s : State) (k c : Nat) (src : Endpoint), Delivers s k src (.core c) .tileDone →
    exec (.remoteReply k) s = .next ((s.drop k).onCore c fun x =>
      { x with vu := { x.vu with wait := false, reply := some (x.vu.reply.getD [] ++ [[]]) } })) ∧
  (∀ (s : State) (k c addr pitch w off step : Nat) (src : Endpoint) (r : Requester) (fm : Fmt) (rows : List (List Nat)),
    Delivers s k src (.core c) (.tileLoad r addr pitch) → (s.core c).arrivalCheck r .vector addr 1 = none →
    (s.core c).farTile addr pitch false none = some (w, off, fm, step) → (s.core c).lcl.readTile (w64 addr) w off fm step = .ok rows →
    exec (.remoteTileLoadArrival k) s = .next (((s.drop k).send (.core c) (.core r.core) .reply
      (.tileData (rows.map (codesRow 32)))).portTurn c)) ∧
  (∀ (s : State) (k c addr pitch w off step mode e : Nat) (rng : W) (codes : List Nat) (src : Endpoint) (r : Requester) (fm : Fmt),
    Delivers s k src (.core c) (.tileStore r addr pitch (.elems mode rng codes) e) → (s.core c).arrivalCheck r .vector addr 1 = none →
    (s.core c).farTile addr pitch true none = some (w, off, fm, step) →
    (∀ i, i < 32 → (s.core c).fullRefused c r (addr + i * step) (4 * fm.width) = false) →
    exec (.remoteTileStoreArrival k) s = .next ((((s.drop k).onCore c fun x =>
      { x with lcl := x.lcl.writeTile off step (storeRows fm x.lcl.t8 mode rng none codes) }).send (.core c) (.core r.core) .reply
        (.ack e)).portTurn c)) ∧
  (∀ (s : State) (k : Nat) (src dst : Endpoint) (r : Requester) (runs : List (Nat × Nat × Nat)), Delivers s k src dst (.tile r (.read runs)) →
    (s.drop k).readyHome (runs.map fun x => (x.2.1, x.2.2)) false = .ok → (s.drop k).badRun runs = none →
    exec (.tileAccessAtHome k) s = .next (((s.drop k).dropCopies r.core (runs.map fun x => (x.2.1, x.2.2))).send dst src .reply
      (.tileData (runs.map fun x => (s.drop k).bytesNow x.2.1 x.2.2)))) ∧
  (∀ (s : State) (k a : Nat) (src dst : Endpoint) (r : Requester) (runs : List (Nat × Nat × Nat)), Delivers s k src dst (.tile r (.read runs)) →
    (s.drop k).readyHome (runs.map fun x => (x.2.1, x.2.2)) false = .ok → (s.drop k).badRun runs = some a →
    exec (.tileAccessAtHome k) s = .next (((s.drop k).detectRuns runs).send dst src .reply (.tileFailed ⟨0x22, w64 a⟩))) ∧
  (∀ (s : State) (k : Nat) (src dst : Endpoint) (r : Requester) (runs : List (Nat × Nat × List Byte)), Delivers s k src dst (.tile r (.write runs)) →
    (s.drop k).readyHome (runs.map fun x => (x.2.1, x.2.2.length)) true = .ok →
    exec (.tileAccessAtHome k) s = .next (((s.drop k).homeTileWrite r.core runs).send dst src .reply .tileDone))

/-- R221–R226: tiles of the own scratchpad, of another core, and of global memory (log entry 22 for a remote store's rounding). -/
def Obligations.TileAccesses : Prop := TileLoads ∧ TileStores ∧ TilePackets

/-- R231, R232, R229: CLROT spends the ring credit and sends the latch to SR.RINGNEXT's core, where it becomes INC or is dropped; CLWAIT takes INC and returns
the credit. -/
def Obligations.LatchRing : Prop :=
  (∀ (f : G0) (s : State) (c : Nat) (e : VEntry) (it : VItem) (x : LatchTile), AtVector s c e it (.clrot f) → (s.core c).unitOn f.g = true →
    (s.core c).vu.cur = some x → (s.core c).regs.cr = true →
    exec (.clrot f) s = .next ((s.send (.core c) (.core (s.core c).regs.ringNext) .bulk (.latch (s.core c).ctx x)).streamDone c
      { s.core c with regs := { (s.core c).regs with cr := false } })) ∧
  (∀ (f : G0) (s : State) (c : Nat) (e : VEntry) (it : VItem) (x : LatchTile), AtVector s c e it (.clrot f) → (s.core c).unitOn f.g = true →
    (s.core c).vu.cur = some x → (s.core c).regs.cr = false → exec (.clrot f) s = .next s) ∧
  (∀ (f : G0) (s : State) (c d : Nat) (e : VEntry) (it : VItem) (x : LatchTile), AtVector s c e it (.clwait f) → (s.core c).unitOn f.g = true →
    (s.core c).vu.inc = some (d, x) →
    exec (.clwait f) s = .next ((s.send (.core c) (.core d) .request .credit).streamDone c
      { s.core c with vu := { (s.core c).vu with cur := some x, inc := none } })) ∧
  (∀ (s : State) (k c d : Nat) (ctx : Option Nat) (x : LatchTile), Delivers s k (.core d) (.core c) (.latch ctx x) →
    ((s.core c).ctx ≠ none → (s.core c).ctx = ctx → (s.core c).vu.inc = none → exec (.latchArrival k) s =
      .next ((s.drop k).onCore c fun o => { o with vu := { o.vu with inc := some (d, x) } })) ∧
    ((s.core c).ctx = none ∨ (s.core c).ctx ≠ ctx ∨ (s.core c).vu.inc ≠ none → exec (.latchArrival k) s =
      .next (((s.drop k).event c 0x05).send (.core c) (.core d) .request .credit))) ∧
  (∀ (s : State) (k c : Nat) (src : Endpoint), Delivers s k src (.core c) .credit →
    exec (.ringCredit k) s = .next ((s.drop k).onCore c fun o => { o with regs := { o.regs with cr := true } }))

/-! ## Key pages (R238–R243) -/

/-- R239, R240: PGSUM and PGCLR: while a line of the pages' data is unread, one line is read; then every summary is written in one step, by the fold of its
page or as empty; then the instruction completes (log entry 23 for the order across pages). -/
def Sys2Proof.Machine.SummaryWrites (i : Instr) (f : Ra) (sum : Bool) : Prop :=
  ∀ (s s1 : State) (c : Nat) (e : VEntry) (it : VItem) (kp : KeyPage) (p0 n : Nat) (sums rows : List (List (Nat × Nat × Nat))),
    let vx := vxAt s c e it
    let pages := kp.pagesOf p0 n
    let got := (s.core c).vu.reply.getD []
    let runs := rows.flatten
    let bytes := fun (j : Nat) => ((got.take runs.length).flatten.drop (j * kp.size)).take kp.size
    let new := fun (j : Nat) => if sum then kp.fold (bytes j) else List.replicate kp.d (0x7F80, 0xFF80)
    AtStep s c e it i → it.pvs = [] → (s.core c).unitOn f.g = true → vx.pgBlock f.a = .ok kp p0 n s1 →
    { vx with s := s1 }.pgRanges true (pages.map kp.summary) = .ok (.ok sums) →
    { vx with s := s1 }.pgRanges false (if sum then pages.map fun p => (kp.pbase + p * kp.pstride, kp.size) else []) = .ok (.ok rows) →
    (∀ r, runs[got.length]? = some r → (s.core c).ungrantedIn (runs ++ sums.flatten) = false → s1.ready [(r.2.1, r.2.2)] false = .ok →
      s1.badRun [r] = none →
      exec i s = .next ((s1.dropCopies c [(r.2.1, r.2.2)]).streamKeeps c (got ++ [s1.bytesNow r.2.1 r.2.2]))) ∧
    (∀ (j p : Nat) (s' : State), got.length = runs.length + j → pages[j]? = some p → (s.core c).ungrantedIn sums.flatten = false →
      { vx with s := s1 }.summaryStep kp p false (fun _ => new j) = (true, s') → exec i s = .next (s'.streamKeeps c (got ++ [[]]))) ∧
    (got.length = runs.length + pages.length → exec i s = .next (s1.streamDone c (s1.core c)))

/-- R238, R239: one step on a summary, and what it holds afterwards. -/
def Sys2Proof.Machine.SummaryChannels : Prop :=
  (∀ (vx : Vx) (kp : KeyPage) (p : Nat) (merge : Bool) (g : List (Nat × Nat) → List (Nat × Nat)) (rows : List (List (Nat × Nat × Nat))),
    let runs := rows.flatten
    vx.mustWait [⟨true, (kp.summary p).1, (kp.summary p).1 + (kp.summary p).2⟩] = false →
    translateAll vx.s vx.c vx.sup true [kp.summary p] = .ok (.ok rows) → vx.s.readyHome (runs.map fun x => (x.2.1, x.2.2)) true = .ok →
    (merge = true → vx.s.badRun runs = none) →
    vx.summaryStep kp p merge g = (true, vx.s.homeTileWrite vx.c (withBytes runs (kp.pack (g (kp.channels
      (runs.flatMap fun x => vx.s.bytesNow x.2.1 x.2.2))))))) ∧
  (∀ (mm : Nat × Nat) (v : Nat), (sBF16.decode v).isNan = true → widenBy mm v = (0x7FC0, 0x7FC0)) ∧
  (∀ (mm : Nat × Nat) (v : Nat), (sBF16.decode v).isNan = false →
    ((sBF16.decode mm.1).isNan = true → (widenBy mm v).1 = mm.1) ∧ ((sBF16.decode mm.2).isNan = true → (widenBy mm v).2 = mm.2) ∧
    ((sBF16.decode mm.1).isNan = false →
      (widenBy mm v).1 = if (sBF16.decode mm.1).orderLe (sBF16.decode v) = true then mm.1 else v) ∧
    ((sBF16.decode mm.2).isNan = false →
      (widenBy mm v).2 = if (sBF16.decode mm.2).orderLe (sBF16.decode v) = true then v else mm.2)) ∧
  (∀ (kp : KeyPage) (bytes : List Byte) (j : Nat), j < kp.d → kp.fmt = .bf16 →
    (kp.fold bytes)[j]? = some ((List.range 64).foldl (fun mm t => widenBy mm (lane 16 (leNat bytes) (t * kp.d + j))) (0x7F80, 0xFF80))) ∧
  (∀ (i : Instr) (k : TileKind) (f : TileForm) (sh : Shape) (s s' : State) (c p : Nat) (e : VEntry) (it : VItem) (got : List (List Byte)) (kp : KeyPage),
    let vx := vxAt s c e it
    let va := (e.x it 1 f.a).toNat
    let hits := kp.hits va (sh.step sh.fmt.width)
    let code := fun (x : Nat) => lane sh.fmt.width (leNat ((got.drop 1).getD (x / 32) [])) (x % 32)
    let widen := fun (l : List (Nat × Nat)) => (hits.filter (·.1 == p)).foldl (fun l h =>
      setAt l h.2.1 (widenBy (l.getD h.2.1 (0, 0)) (sBF16.convert rne false (sh.fmt.value (s.core c).lcl.t8 (code h.2.2))))) l
    (i = .tst f ∧ k = .tst) ∨ (i = .tstn f ∧ k = .tstn) → AtWork s c e it i got → (s.core c).unitOn f.g = true →
    shapeOf k (e.x it 2 f.b) ((e.x it 1 f.a).bits 63 60) f.b f.t = some sh → (e.x it 1 f.a).bits 63 60 = 0 →
    keyPage? (leNat (got.headD [])) = some kp →
    (((hits.map (·.1)).eraseDups)[got.length - 34]? = some p → vx.summaryStep kp p true widen = (true, s') →
      exec i s = .next (s'.streamKeeps c (got ++ [[]]))) ∧
    (((hits.map (·.1)).eraseDups)[got.length - 34]? = none →
      exec i s = .next (s.streamDone c ((s.core c).tileRounded (tileRounds k sh.lsrc sh.fmt)))))

/-- R241: PGBOUND reads its query, then each summary in one step, and ends with one bound in each lane below the page count and −∞ in the others. -/
def Sys2Proof.Machine.PageBounds : Prop :=
  (∀ (f : Rba) (s s1 : State) (c : Nat) (e : VEntry) (it : VItem) (kp : KeyPage) (p0 n off : Nat) (sums : List (List (Nat × Nat × Nat))),
    let vx := vxAt s c e it
    AtStep s c e it (.pgbound f) → it.pvs = [] → (s.core c).unitOn f.g = true →
    vx.pgBlock f.a = .ok kp p0 n s1 → pgAddr c it.sup (s.core c).lcl (vx.x 3 (f.a + 3)) 64 (2 * kp.d) = .ok off →
    { vx with s := s1 }.pgRanges false ((kp.pagesOf p0 n).map kp.summary) = .ok (.ok sums) →
    ((s.core c).vu.reply = none → (s.core c).ungrantedIn sums.flatten = false → OwnTurn s1 c →
      (s1.core c).lcl.firstPoison off (2 * kp.d) = none →
      exec (.pgbound f) s = .next ((s1.ownAccess c).streamKeeps c [(s1.core c).lcl.spad.readN off (2 * kp.d)])) ∧
    (∀ got : List (List Byte), (s.core c).vu.reply = some got →
      let j := got.length - 1
      let runs := sums.getD j []
      let query := (List.range kp.d).map fun i => lane 16 (leNat (got.headD [])) i
      (j < n → p0 + j < kp.npages → s1.readyHome (runs.map fun x => (x.2.1, x.2.2)) false = .ok → s1.badRun runs = none →
        exec (.pgbound f) s = .next ((s1.dropCopies c (runs.map fun x => (x.2.1, x.2.2))).streamKeeps c (got ++
          [leBytes 4 (pageBound query (kp.channels (runs.flatMap fun x => s1.bytesNow x.2.1 x.2.2)))]))) ∧
      (j < n → kp.npages ≤ p0 + j → exec (.pgbound f) s = .next (s1.streamKeeps c (got ++ [leBytes 4 0xFF800000]))) ∧
      (n ≤ j → exec (.pgbound f) s = .next (s1.streamDone c ((s1.core c).setV f.b.toNat (ofLanes 32 ((List.range 64).map fun i =>
        if i < n then leNat (got.getD (i + 1) []) else 0xFF800000))))))) ∧
  (∀ (q : List Nat) (l : List (Nat × Nat)), (∀ x ∈ l, x = (0x7F80, 0xFF80)) → pageBound q l = 0xFF800000) ∧
  (∀ (q : List Nat) (l : List (Nat × Nat)), (∃ x ∈ l, x ≠ (0x7F80, 0xFF80)) →
    pageBound q l = sF32.convert rne false (boundAfter none (q.zip l)))

/-- R242: PGPICK writes the selection block in one access of the port. -/
def Sys2Proof.Machine.PagePicks : Prop :=
  (∀ (f : Rba) (s s1 : State) (c : Nat) (e : VEntry) (it : VItem) (kp : KeyPage) (p0 n off : Nat), AtVector s c e it (.pgpick f) →
    let vx := vxAt s c e it
    let m := vx.x 3 (f.a + 4)
    let thr := vx.x 3 (f.a + 5)
    (s.core c).unitOn f.g = true → vx.pgBlock f.a = .ok kp p0 n s1 → m.bits 62 7 = 0 →
    (if m.getLsbD 63 then 1 ≤ m.bits 6 0 ∧ m.bits 6 0 ≤ 64 else m.bits 6 0 = 0) → thr.bits 63 32 = 0 →
    pgAddr c it.sup (s.core c).lcl (vx.x 3 (f.a + 7)) 8 528 = .ok off → OwnTurn s1 c →
    let s' := s1.ownAccess c
    let sel := pickPages (fun i => sF32.decode (lane 32 ((s1.core c).vu.reg f.b.toNat) i)) n (vx.x 3 (f.a + 6)) (m.getLsbD 63) (m.bits 6 0)
      (sF32.decode thr.toNat)
    let words := sel.length :: sel.foldl maskSet 0 :: sel.map fun i => (p0 + i) * kp.pstride
    let l := (s'.core c).lcl.writeSpad off (words.flatMap (leBytes 8))
    exec (.pgpick f) s = .next (s'.streamDone c { s'.core c with lcl := l })) ∧
  (∀ (v : Nat → FVal) (n : Nat) (mask : W) (k : Nat) (thr : FVal) (top : Bool), (pickPages v n mask top k thr).Pairwise (· < ·) ∧
    ∀ i ∈ pickPages v n mask top k thr, i < n ∧ mask.getLsbD i = true ∧ (FVal.inf true).lt (v i) = true) ∧
  (∀ (v : Nat → FVal) (n : Nat) (mask : W) (k : Nat) (thr : FVal) (i : Nat), i ∈ pickPages v n mask false k thr ↔
    i < n ∧ mask.getLsbD i = true ∧ (FVal.inf true).lt (v i) = true ∧ thr.le (v i) = true) ∧
  (∀ (v : Nat → FVal) (n : Nat) (mask : W) (k : Nat) (thr : FVal) (i : Nat), let cand := fun (j : Nat) => mask.getLsbD j && (FVal.inf true).lt (v j)
    i ∈ pickPages v n mask true k thr ↔ i < n ∧ cand i = true ∧
      ((List.range n).filter fun j => cand j && ((v i).lt (v j) || ((v j).eqv (v i) && decide (j < i)))).length < k)

/-- R239, R240, R241, R242, R238: PGSUM and PGCLR write every summary; PGBOUND ends with its bounds, PGPICK with its list; a stored key widens its channel
(log entry 23: the order across pages is the model's). -/
def Obligations.KeyPages : Prop :=
  (∀ f : Ra, SummaryWrites (.pgsum f) f true ∧ SummaryWrites (.pgclr f) f false) ∧ SummaryChannels ∧ PageBounds ∧ PagePicks

/-! ## Tasks and their selection (R190, R279–R284, R298–R300) -/

/-- R298, R299, R300, R329: DONE ends its task, a LO task with its queues, bindings and instruction queue; IDEM marks the restart point and copies X8–X15 of a LO
task, IDEM.END forgets them; HSET by supervisor code replaces a handler entry and drops the inbox words of a channel it no longer has, or traps ILLEGAL on
a value its entry may not hold, or an entry above 31 (with the instruction word: log entry 55, DEDUCED); HMASK sets the masks that it selects and
returns the old ones; WAIT of X[a] cycles stalls for them, ends after them, or early for a pending trap, which in a trap handler does not end it (log
entry 60, DEDUCED). -/
def Obligations.TaskInstructions : Prop :=
  (∀ (f : G0) (s : State) (c : Nat) (t : Task), Issues s c t → guardPasses f.g t = true →
    exec (.done f) s = .next (s.endTask c (s.core c).inHi)) ∧
  (∀ (s : State) (c : Nat) (t : Task), Issues s c t → exec .cDone s = .next (s.endTask c (s.core c).inHi)) ∧
  (∀ (s : State) (c : Nat) (hi : Bool),
    let k := s.core c
    let k' := (s.endTask c hi).core c
    k'.bankTask hi = none ∧ k'.bankTask (!hi) = k.bankTask (!hi) ∧ k'.regs = k.regs ∧ k'.lcl = k.lcl ∧ k'.l1 = k.l1 ∧ k'.waybill = k.waybill ∧
    k'.vu = (if hi then k.vu else { k.vu with q := [], s := [], viq := [], recording := none }) ∧
    OtherCoresSame s (s.endTask c hi) c ∧ SameBytes s (s.endTask c hi)) ∧
  (∀ f : G0,
    Completes (.idem f) 2 f.g (fun _ _ t => t.carried = false) State.same
      (fun s c t => if (s.core c).inHi then t else { t with idem := some { pc := t.pc + 2, xs := t.regs 8 8 } }) ∧
    Completes (.idemEnd f) 2 f.g (fun _ _ t => t.carried = false) State.same (fun _ _ t => { t with idem := none })) ∧
  (∀ f : Rba,
    Completes (.hset f) 2 f.g
      (fun s c t => t.carried = false ∧ t.sup = true ∧ (t.reg f.a).toNat ≤ 31 ∧ (s.core c).handlerOk (t.reg f.a).toNat (t.reg f.b) = true)
      (fun s c t =>
        let i := (t.reg f.a).toNat
        let old := (s.core c).handler i
        let new := Handler.ofW (t.reg f.b)
        s.onSched c fun k => (if i ≠ 0 ∧ old.v = true ∧ ¬ (new.v = true ∧ old.ch = new.ch) then
          { k with sched := { k.sched with inbox := k.sched.inbox.filter (·.ch != old.ch) } } else k).setHandler i new)
      (fun _ _ t => t) ∧
    Traps (.hset f) f.g
      (fun s c t => t.carried = false ∧ t.sup = true ∧ (t.reg f.a).toNat ≤ 31 ∧ (s.core c).handlerOk (t.reg f.a).toNat (t.reg f.b) = false)
      0x01 (fun _ _ t => t.reg f.b) ∧
    Traps (.hset f) f.g (fun _ _ t => t.carried = false ∧ t.sup = true ∧ 31 < (t.reg f.a).toNat) 0x01 wordHere) ∧
  (∀ f : Ra,
    Completes (.wait f) 2 f.g (fun _ _ t => t.carried = false ∧ t.reg f.a = 0) State.same (fun _ _ t => t) ∧
    StallsFor (.wait f) f.g (fun _ _ t => t.carried = false ∧ t.reg f.a ≠ 0) State.same (fun _ _ t => .cycles (t.reg f.a).toNat)) ∧
  (∀ (s : State) (c n : Nat) (t : Task), (s.core c).lo = some t → (s.core c).hi = none → t.wait = .cycles n →
    (n = 0 ∨ ((s.core c).regs.inTrap = false ∧ (s.core c).regs.pend ≠ []) → exec (.waitExpiry c) s =
      .next (s.withTask c false { t with wait := .none, pc := t.pc + 2, stalled := false })) ∧
    (n ≠ 0 → (s.core c).regs.pend = [] ∨ (s.core c).regs.inTrap = true → exec (.waitExpiry c) s = .next s)) ∧
  (∀ (k : Core) (i : Nat) (w : W), 1 ≤ i → i ≤ 31 →
    let h := Handler.ofW w
    (k.handlerOk i w = true ↔ w.bits 35 31 = 0 ∧ (h.v = true →
      1 ≤ h.cons ∧ h.cons ≤ 6 ∧ h.cons ≤ h.depth ∧ h.depth ≤ 1024 ∧
      ∀ j, 1 ≤ j → j ≤ 31 → j ≠ i → (k.handler j).v = true → (k.handler j).ch ≠ h.ch))) ∧
  (∀ f : R3,
    let masked := fun (k : Core) (a b : W) => (maskList 32 b.toNat).foldl (fun k i => k.setHandler i { k.handler i with mask := a.getLsbD i }) k
    Completes (.hmask f) 2 f.g (fun _ _ t => t.carried = false ∧ (t.reg f.a).toNat < 2 ^ 32 ∧ (t.reg f.b).toNat < 2 ^ 32)
      (fun s c t => s.onSched c fun k => masked k (t.reg f.a) (t.reg f.b))
      (fun s c t => t.setReg f.d (w64 (((List.range 32).filter fun i => ((s.core c).handler i).mask).foldl maskSet 0))) ∧
    ∀ (k : Core) (a b : W) (i : Nat), i < 32 →
      (masked k a b).handler i = if b.getLsbD i then { k.handler i with mask := a.getLsbD i } else k.handler i)

/-- R282, R283, R284, R190, R355: a core without a task fires the entry that its selection finds: of the runnable entries the one of the highest PRIO, unless
one was passed over 256 times; the fired task has its work in its registers, every other register zero, user mode, and the pc of its template or
entry; a HI entry suspends the LO task; a range pushed while the core held no task fires before a later pre-emption request is taken
(log entry 44 for what holds that up). -/
def Obligations.Selection : Prop :=
  (∀ (s : State) (c i : Nat), let k := s.core c
    k.hi = none → k.lo = none → k.open = true → k.abortRec = none → k.regs.pend = [] → k.calls = [] → k.choose true = some i →
    exec (.taskSelect c) s = .next (s.setCore c (k.selectFire i))) ∧
  (∀ (s : State) (c : Nat), (s.core c).hi.isSome = true → exec (.taskSelect c) s = .next (s.setCore c (s.core c))) ∧
  (∀ (s : State) (c i : Nat), (s.core c).wantsHi = true → (s.core c).choose false = some i →
    exec (.hiSuspend c) s = .next (s.setCore c ((s.core c).selectFire i)) ∧
    (i ≠ 0 → ((s.core c).selectFire i).lo = (s.core c).lo)) ∧
  (∀ (s : State) (c : Nat), (s.core c).wantsHi = false → exec (.hiSuspend c) s = .next (s.setCore c (s.core c))) ∧
  (∀ (k : Core) (l : List Nat), (∀ j ∈ l, j ∈ k.sched.recency) → l ≠ [] → ∃ i, k.best l = some i ∧ i ∈ l ∧
    ((∀ j ∈ l, Tbl.getD k.sched.starve j 0 < 256) → ∀ j ∈ l, (k.handler j).prio ≤ (k.handler i).prio) ∧
    ((∃ j ∈ l, 256 ≤ Tbl.getD k.sched.starve j 0) → 256 ≤ Tbl.getD k.sched.starve i 0)) ∧
  (∀ (k : Core) (p : List WRange) (r : WRange), k.sched.deque = p ++ [r] → k.quiescing = false →
    let k' := k.fire 0
    k'.lo = some (Task.ofRange r) ∧ k'.sched = { k.sched with deque := p } ∧ k'.hi = k.hi ∧ k'.regs = k.regs ∧ k'.lcl = k.lcl ∧
    k'.vu = { VecUnit.reset with inc := k.vu.inc }) ∧
  (∀ (k : Core) (p q : List WRange) (r : WRange), k.sched.deque = p ++ r :: q → k.quiescing = true → r.firm = true → (∀ x ∈ q, x.firm = false) →
    (k.fire 0).lo = some (Task.ofRange r) ∧ (k.fire 0).sched.deque = p ++ q) ∧
  (∀ (k : Core) (r : WRange), (k.pushRange r).sched.deque =
    k.sched.deque ++ [{ r with firm := k.hi.isNone && (k.lo.isNone || (k.regs.inTrap && k.regs.tstat.getLsbD 11)) && !k.quiescing }]) ∧
  (∀ (k : Core), k.ctx ≠ none → k.stopped = false → k.regs.inTrap = false → (k.handler 0).v = true → (k.handler 0).mask = false →
    k.slotsOk (k.handler 0) = true → (∃ r ∈ k.sched.deque, r.firm = true) → k.open = true ∧ k.settled = false) ∧
  (∀ (r : WRange) (x : Reg), let t := Task.ofRange r
    t.pc = r.tpl.pc ∧ t.sup = false ∧ t.idem = none ∧ (∀ p : PReg, p ≠ 0 → t.pred p = 0) ∧
    t.reg x = (if x = 8 then r.lo else if x = 9 then r.hi else if x = 10 then r.tpl.arg0 else if x = 11 then r.tpl.arg1
      else if x = 16 then w64 r.src else 0)) ∧
  (∀ (i : Nat) (h : Handler) (ws : List InboxWord) (x : Reg), i < 32 → ws.length ≤ 6 → let t := Task.ofWords i h ws
    t.pc = h.pc ∧ t.hi = h.hi ∧ t.sup = false ∧
    t.reg x = (if x = 9 then w64 h.cons else if x = 16 then w64 ((ws.map (·.src)).headD 0) else if x = 17 then w64 i
      else if 10 ≤ x.toNat ∧ x.toNat < 16 then ((ws[x.toNat - 10]?).map (·.w)).getD 0 else 0)) ∧
  (∀ (k : Core) (i : Nat), 1 ≤ i → i ≤ 31 → (k.handler i).hi = true →
    let h := k.handler i
    let k' := k.fire i
    k'.hi = some (Task.ofWords i h (takeWords h.ch h.cons k.sched.inbox).1) ∧ k'.lo = k.lo ∧ k'.vu = k.vu ∧
    k'.sched = { k.sched with inbox := (takeWords h.ch h.cons k.sched.inbox).2 } ∧ k'.bankHi = { k.bankLo with mst := 0 }) ∧
  (∀ (ch n : Nat) (l : List InboxWord), n ≤ (l.filter (·.ch == ch)).length →
    (takeWords ch n l).1 = (l.filter (·.ch == ch)).take n ∧
    (takeWords ch n l).2.filter (·.ch == ch) = (l.filter (·.ch == ch)).drop n ∧
    (takeWords ch n l).2.filter (·.ch != ch) = l.filter (·.ch != ch))

/-! ## The deque and stealing (R285–R289, R294–R297) -/

/-- A range that core `k` pushes is marked as pushed while the core held no task (R355). -/
def Sys2Proof.Machine.pushesFirm (k : Core) : Bool := k.holdsNone && !k.quiescing

/-- R294, R11: the traps of DQPUSH for a header in the own scratchpad, in their order. (An aligned header that begins inside the scratchpad ends
inside it.) -/
def Sys2Proof.Machine.PushTraps : Prop :=
  ∀ f : R3, f.b ≠ 0 →
    (∀ code : Nat, Traps (.dqpush f) f.g (fun _ c t => t.carried = false ∧ ownParts c t.sup (t.reg f.b).toNat = .error code) code (fun _ _ t => t.reg f.b)) ∧
    (∀ w off : Nat, let own := fun (c : Nat) (t : Task) => t.carried = false ∧ ownParts c t.sup (t.reg f.b).toNat = .ok (w, off)
      Traps (.dqpush f) f.g (fun s c t => own c t ∧ (12 < w ∨ (s.core c).lcl.configured w = false ∨ 0x30000 ≤ off)) 0x06 (fun _ _ t => t.reg f.b) ∧
      Traps (.dqpush f) f.g (fun s c t => own c t ∧ w ≤ 12 ∧ (s.core c).lcl.configured w = true ∧ off < 0x30000 ∧ (t.reg f.b).toNat % 64 ≠ 0)
        0x03 (fun _ _ t => t.reg f.b) ∧
      (∀ header : Nat, Traps (.dqpush f) f.g (fun s c t => own c t ∧ w ≤ 12 ∧ (s.core c).lcl.configured w = true ∧ off < 0x30000 ∧
        (t.reg f.b).toNat % 64 = 0 ∧ SpansSettled s c (spanAt c (t.reg f.b) 0 0 8 ++ spanAt c (w64 ((t.reg f.b).toNat + 24)) 0 0 24) ∧
        s.portOwes c = false ∧ (s.core c).lcl.templateBytes off = some header ∧ headerTemplate header = none) 0x01 (fun _ _ t => t.reg f.b)))

/-- R294, R295, R296, R297: DQPUSH, DQPOP and DQSPLIT complete with their results and effects on the deque; DQSTEAL of another core holds an entry and asks it. -/
def Sys2Proof.Machine.DequeInstructions : Prop :=
  PushTraps ∧
  (∀ (f : R3) (tpl : Template),
    let push := fun (access : State → Nat → Task → State) (pre : State → Nat → Task → Prop) =>
      Completes (.dqpush f) 2 f.g (fun s c t => pre s c t ∧ (t.reg (f.a + 1)).toNat ≤ (t.reg f.a).toNat) access (fun _ _ t => t.setReg f.d 2) ∧
      Completes (.dqpush f) 2 f.g
        (fun s c t => pre s c t ∧ (t.reg f.a).toNat < (t.reg (f.a + 1)).toNat ∧ (s.core c).sched.room = false)
        access (fun _ _ t => t.setReg f.d 1) ∧
      Completes (.dqpush f) 2 f.g
        (fun s c t => pre s c t ∧ (t.reg f.a).toNat < (t.reg (f.a + 1)).toNat ∧ (s.core c).sched.room = true)
        (fun s c t => (access s c t).onQueue c fun q => { q with deque := q.deque ++ [⟨t.reg f.a, t.reg (f.a + 1), tpl, c, pushesFirm (s.core c)⟩] })
        (fun _ _ t => t.setReg f.d 0)
    (f.b = 0 → push State.same fun _ _ t => t.carried = false ∧ t.tpl = some tpl) ∧
    (f.b ≠ 0 → ∀ (w off header : Nat), push (fun s c _ => s.ownAccess c) fun s c t =>
      t.carried = false ∧ ownParts c t.sup (t.reg f.b).toNat = .ok (w, off) ∧ w ≤ 12 ∧ (s.core c).lcl.configured w = true ∧
      (t.reg f.b).toNat % 64 = 0 ∧ off + 64 ≤ 0x30000 ∧
      SpansSettled s c (spanAt c (t.reg f.b) 0 0 8 ++ spanAt c (w64 ((t.reg f.b).toNat + 24)) 0 0 24) ∧ s.portOwes c = false ∧
      (s.core c).lcl.templateBytes off = some header ∧ headerTemplate header = some tpl)) ∧
  (∀ (f : Rd) (p : List WRange) (r : WRange),
    Completes (.dqpop f) 2 f.g (fun s c t => t.carried = false ∧ (s.core c).sched.deque = p ++ [r] ∧ t.tpl = some r.tpl)
      (fun s c _ => s.onSched c fun k => { k with sched := { k.sched with deque := p } })
      (fun _ _ t => (t.setReg f.d r.lo).setReg (f.d + 1) r.hi) ∧
    Completes (.dqpop f) 2 f.g (fun s c t => t.carried = false ∧ (s.core c).sched.deque = p ++ [r] ∧ t.tpl ≠ some r.tpl)
      State.same (fun _ _ t => (t.setReg f.d 0).setReg (f.d + 1) 0)) ∧
  (∀ f : Rd, Completes (.dqpop f) 2 f.g (fun s c t => t.carried = false ∧ (s.core c).sched.deque = []) State.same
    (fun _ _ t => (t.setReg f.d 0).setReg (f.d + 1) 0)) ∧
  (∀ (f : R2) (tpl : Template),
    Completes (.dqsplit f) 2 f.g
      (fun s c t => t.carried = false ∧ t.tpl = some tpl ∧ (t.reg f.a).toNat + 2 ≤ (t.reg (f.a + 1)).toNat ∧ (s.core c).sched.room = true)
      (fun s c t => s.onQueue c fun q => { q with deque := q.deque ++
        [⟨w64 (splitPoint tpl.widths (t.reg f.a).toNat (t.reg (f.a + 1)).toNat), t.reg (f.a + 1), tpl, c, pushesFirm (s.core c)⟩] })
      (fun _ _ t => t.setReg f.d (w64 (splitPoint tpl.widths (t.reg f.a).toNat (t.reg (f.a + 1)).toNat))) ∧
    Completes (.dqsplit f) 2 f.g
      (fun s c t => t.carried = false ∧ t.tpl = some tpl ∧ ((t.reg (f.a + 1)).toNat < (t.reg f.a).toNat + 2 ∨ (s.core c).sched.room = false))
      State.same (fun _ _ t => t.setReg f.d (t.reg (f.a + 1)))) ∧
  (∀ f : R2,
    Traps (.dqsplit f) f.g (fun _ _ t => t.carried = false ∧ t.tpl = none) 0x01 wordHere ∧
    StallsFor (.dqsteal f) f.g
      (fun s c t => t.carried = false ∧ (t.reg f.a).toNat < 1024 ∧ (s.core c).sched.room = true ∧ (t.reg f.a).toNat ≠ c)
      (fun s c t => (((s.onQueue c fun q => { q with held := q.held + 1 }).send (.core c) (.core (t.reg f.a).toNat) .request
        (.steal (s.requester c t) true)).event (unitCore c) 0x03))
      (fun _ _ _ => .value f.d false 64 2 false) ∧
    Completes (.dqsteal f) 2 f.g (fun s c t => t.carried = false ∧ (t.reg f.a).toNat < 1024 ∧ (s.core c).sched.room = true ∧ (t.reg f.a).toNat = c)
      State.same (fun _ _ t => t.setReg f.d 1) ∧
    Completes (.dqsteal f) 2 f.g (fun s c t => t.carried = false ∧ (t.reg f.a).toNat < 1024 ∧ (s.core c).sched.room = false)
      State.same (fun _ _ t => t.setReg f.d 2)) ∧
  (∀ (widths : List Nat) (lo hi : Nat), lo + 2 ≤ hi → lo < splitPoint widths lo hi ∧ splitPoint widths lo hi < hi)

/-- R287, R288, R289, R297: a victim gives half of its oldest range, or a whole range of one WID when it keeps another, and answers empty or refused otherwise; the
answer fills or frees the held entry; an idle core that steals draws its victims inside its scope, never itself, and waits 2,048 cycles after a failed round. -/
def Sys2Proof.Machine.Stealing : Prop :=
  (∀ (s : State) (k c : Nat) (src : Endpoint) (r : Requester) (instr : Bool), Delivers s k src (.core c) (.steal r instr) →
    let answer := fun (s : State) (st : Nat) (g : Option WRange) => s.send (.core c) (.core r.core) .reply (.stealAns r.hi instr st g)
    ((s.core c).refuses r.ctx = true → exec (.stealRequest k) s = .next (answer (s.drop k) 4 none)) ∧
    ((s.core c).refuses r.ctx = false → (s.core c).sched.deque = [] → exec (.stealRequest k) s = .next (answer (s.drop k) 1 none)) ∧
    (∀ e rest, (s.core c).refuses r.ctx = false → (s.core c).sched.deque = e :: rest →
      let m := splitPoint e.tpl.widths e.lo.toNat e.hi.toNat
      let keeps := fun (d : List WRange) => (s.drop k).onSched c fun k => { k with sched := { k.sched with deque := d } }
      (e.lo.toNat + 2 ≤ e.hi.toNat → e.hi.toNat - m < m - e.lo.toNat →
        exec (.stealRequest k) s = .next (answer (keeps ({ e with lo := w64 m } :: rest)) 0 (some { e with hi := w64 m }))) ∧
      (e.lo.toNat + 2 ≤ e.hi.toNat → m - e.lo.toNat ≤ e.hi.toNat - m →
        exec (.stealRequest k) s = .next (answer (keeps ({ e with hi := w64 m } :: rest)) 0 (some { e with lo := w64 m }))) ∧
      (e.hi.toNat < e.lo.toNat + 2 → rest = [] → exec (.stealRequest k) s = .next (answer (s.drop k) 1 none)) ∧
      (e.hi.toNat < e.lo.toNat + 2 → rest ≠ [] → exec (.stealRequest k) s = .next (answer (keeps rest) 0 (some e))))) ∧
  (∀ (s : State) (k c v st : Nat) (hi : Bool) (g : Option WRange) (t : Task) (d : Reg),
    Delivers s k (.core v) (.core c) (.stealAns hi true st g) → TaskAt s c hi t → t.wait = .value d false 64 2 false →
    let freed := (s.drop k).onQueue c fun q => { q with held := q.held - 1 }
    exec (.stealAnswer k) s = .next ((match g with
      | none => freed
      | some r => (freed.onQueue c fun q => { q with deque := q.deque ++ [{ r with src := v, firm := pushesFirm (s.core c) }] }).event
        (unitCore c) 0x04).resumed c hi t d (w64 st))) ∧
  (∀ (s : State) (k c v st : Nat) (hi : Bool), Delivers s k (.core v) (.core c) (.stealAns hi false st none) →
    let ended := fun (q : Sched) => { q with held := q.held - 1, stealing := false, abandoned := false }
    ((s.core c).sched.abandoned = true ∨ (s.core c).ready ≠ [] → exec (.stealAnswer k) s = .next ((s.drop k).onQueue c fun q =>
      { ended q with roundLeft := [], backoff := 0 })) ∧
    ((s.core c).sched.abandoned = false → (s.core c).ready = [] → (s.core c).sched.roundLeft = [] →
      exec (.stealAnswer k) s = .next ((s.drop k).onQueue c fun q => { ended q with backoff := (s.core c).regs.cyc.toNat + 2048 })) ∧
    ((s.core c).sched.abandoned = false → (s.core c).ready = [] → (s.core c).sched.roundLeft ≠ [] →
      exec (.stealAnswer k) s = .next ((s.drop k).onQueue c ended))) ∧
  (∀ (s : State) (k c v st : Nat) (hi : Bool) (r : WRange), Delivers s k (.core v) (.core c) (.stealAns hi false st (some r)) →
    exec (.stealAnswer k) s = .next ((((s.drop k).onQueue c fun q =>
      { q with held := q.held - 1, deque := q.deque ++ [{ r with src := v, firm := pushesFirm (s.core c) }] }).event (unitCore c) 0x04).onQueue c fun q =>
        { q with stealing := false, abandoned := false, roundLeft := [], backoff := 0 })) ∧
  (∀ (s : State) (c st : Nat) (rest : List Nat), let k := s.core c
    k.lo = none → k.hi = none → k.open = true → k.sched.stealing = false → k.ready = [] → k.regs.stealScope ≠ 0 → k.sched.room = true →
    (k.sched.roundLeft = st :: rest ∨ (k.sched.roundLeft = [] ∧ k.sched.backoff = 0 ∧
      st :: rest = if 2 ≤ k.regs.stealScope then List.range 11 else List.range 3)) →
    let v := (k.victim c st).1
    let k' := (k.victim c st).2
    exec (.stealRound c) s = .next (((s.setCore c
      { k' with sched := { k.sched with roundLeft := rest, stealing := true, held := k.sched.held + 1 } }).send (.core c) (.core v) .request
      (.steal { core := c, hi := false, ctx := k.ctx, sup := false } false)).event (unitCore c) 0x03)) ∧
  (∀ (k : Core) (c st : Nat), c < 1024 → let v := (k.victim c st).1
    v < 1024 ∧ v ≠ c ∧ (st < 3 → clusterOf v = clusterOf c) ∧ (3 ≤ st → clusterOf v ≠ clusterOf c) ∧
    (k.regs.stealScope = 2 → dieOf v = dieOf c) ∧ ((k.victim c st).2 = if st < 3 then k else
      { k with regs := { k.regs with stealCnt := (k.regs.stealCnt + 1) % 2 ^ 32 } })) ∧
  (∀ (s : State) (c : Nat), (s.core c).sched.backoff ≠ 0 → (s.core c).sched.backoff ≤ (s.core c).regs.cyc.toNat →
    exec (.stealBackoffExpiry c) s = .next (s.onQueue c fun q => { q with backoff := 0 })) ∧
  (∀ (s : State) (c : Nat), (s.core c).regs.cyc.toNat < (s.core c).sched.backoff → exec (.stealBackoffExpiry c) s = .next s)

/-- R285–R289, R294–R297: the deque and stealing. -/
def Obligations.DequeAndStealing : Prop := DequeInstructions ∧ Stealing

/-! ## Launching (R290, R301, R302, R332) -/

/-- A launch request is decided at the target by its context, its range template and its deque's room (R290, R301). -/
def Sys2Proof.Machine.launchStatus (k : Core) (ctx : Option Nat) : Nat :=
  if k.refuses ctx = true then 4 else if (k.handler 0).v = false then 2 else if k.sched.room = false then 1 else 0

/-- R290, R301, R302, R332: LAUNCH asks its target for one WID; LAUNCH.H loads its header and asks the cores of its rectangle for their parts one after another;
the target pushes the range and adds its live registers, or says why not; the answer reaches X[d], or the launch window; a window's launches go to its core one at
a time, eight may wait beside it (log entry 17, DEDUCED), and a part that met a full deque goes again after 256 cycles. -/
def Obligations.Launching : Prop :=
  (∀ f : R2,
    let tpl := fun (t : Task) => ({ pc := (t.reg (f.a + 1)).toNat, arg0 := t.reg (f.a + 2), arg1 := t.reg (f.a + 3), widths := [0, 0, 0, 0, 0, 0] } : Template)
    StallsFor (.launch f) f.g (fun _ _ t => t.carried = false ∧ (t.reg f.a).toNat < 1024 ∧ (t.reg (f.a + 1)).toNat < 2 ^ 15)
      (fun s c t => s.send (.core c) (.core (t.reg f.a).toNat) .request (.launch (s.requester c t) ⟨0, 1, tpl t, c, false⟩ 0 none))
      (fun _ _ _ => .value f.d false 64 2 false) ∧
    Traps (.launch f) f.g (fun _ _ t => t.carried = false ∧ (1024 ≤ (t.reg f.a).toNat ∨ 2 ^ 15 ≤ (t.reg (f.a + 1)).toNat)) 0x01 wordHere) ∧
  (∀ (f : R2) (s s' : State) (c va : Nat) (t : Task) (pas : List Nat) (bytes : List Byte),
    Issues s c t → guardPasses f.g t = true → GlobAt s c t false (t.reg f.a) 64 va pas →
    s.loadGlobal c pas = .ok bytes s' →
    let h := leNat bytes
    let live := w64 (dfield h 48 6)
    (headerOk h = true → headerParts h c = [] → exec (.launchH f) s = .next (s'.retire c (s'.core c) (t.setReg f.d 0) (t.pc + 2))) ∧
    (∀ p ps, headerOk h = true → headerParts h c = p :: ps →
      exec (.launchH f) s = .next ((s'.send (.core c) (.core p.1) .request (.launch (s.requester c t) p.2 live none)).stalledOn c
        (s'.core c) t (.parts f.d (p :: ps) live 0 true 0))) ∧
    (headerOk h = false → TrapsWith (.launchH f) s c t 0x01 (t.reg f.a))) ∧
  (∀ (h src : Nat), (∀ p ∈ headerParts h src, p.1 ∈ headerCores h ∧ p.2.lo.toNat < p.2.hi.toNat ∧ headerTemplate h = some p.2.tpl) ∧
    (∀ c ∈ headerCores h, let cl := clusterOf c
      dfield h 26 1 % 16 ≤ clusterX cl ∧ clusterX cl ≤ dfield h 26 1 / 16 ∧ dfield h 27 1 % 16 ≤ clusterY cl ∧ clusterY cl ≤ dfield h 27 1 / 16 ∧
      (dfield h 28 1).testBit (c % 4) = true)) ∧
  (∀ (s : State) (k c : Nat) (src : Endpoint) (r : Requester) (rg : WRange) (live : W) (win : Option Nat),
    Delivers s k src (.core c) (.launch r rg live win) →
    (∀ st, launchStatus (s.core c) r.ctx = st → st ≠ 0 →
      exec (.launchArrival k) s = .next ((s.drop k).send (.core c) src .reply (.launchAns r.hi win st))) ∧
    (launchStatus (s.core c) r.ctx = 0 →
      exec (.launchArrival k) s = .next (((s.drop k).onCore c fun k =>
        { k.pushRange rg with regs := { k.regs with live := k.regs.live ||| live } }).send (.core c) src .reply (.launchAns r.hi win 0)))) ∧
  (∀ (s : State) (k c : Nat) (src : Endpoint) (hi : Bool) (st : Nat) (t : Task),
    Delivers s k src (.core c) (.launchAns hi none st) → TaskAt s c hi t →
    (∀ d, t.wait = .value d false 64 2 false → exec (.launchAnswer k) s = .next ((s.drop k).resumed c hi t d (w64 st))) ∧
    (∀ d p live dropped flying retry, t.wait = .parts d [p] live dropped flying retry → st ≠ 1 →
      exec (.launchAnswer k) s = .next ((s.drop k).resumed c hi t d (w64 (if st = 0 then dropped else dropped + 1)))) ∧
    (∀ d p q ps live dropped flying retry, t.wait = .parts d (p :: q :: ps) live dropped flying retry → st ≠ 1 → (s.core c).overBudget t = false →
      exec (.launchAnswer k) s = .next (((s.drop k).send (.core c) (.core q.1) .request
        (.launch { core := c, hi := hi, ctx := (s.core c).ctx, sup := t.sup } q.2 live none)).withTask c hi
          { t with wait := .parts d (q :: ps) live (if st = 0 then dropped else dropped + 1) true 0 })) ∧
    (∀ d todo live dropped flying retry, t.wait = .parts d todo live dropped flying retry → st = 1 →
      exec (.launchAnswer k) s = .next ((s.drop k).withTask c hi
        { t with wait := .parts d todo live dropped false ((s.core c).regs.cyc.toNat + 256) }))) ∧
  (∀ (s : State) (k n st : Nat) (src dst : Endpoint) (hi : Bool), Delivers s k src dst (.launchAns hi (some n) st) →
    exec (.launchAnswer k) s = .next ((s.drop k).windowAnswer n st)) ∧
  (∀ (s : State) (c : Nat) (t : Task) (d : Reg) (p : Nat × WRange) (ps : List (Nat × WRange)) (live : W) (dropped time : Nat),
    (s.core c).lo = some t → (s.core c).hi = none → t.wait = .parts d (p :: ps) live dropped false time →
    time ≤ (s.core c).regs.cyc.toNat → (s.core c).overBudget t = false →
    exec (.launchPartRetry c) s = .next ((s.send (.core c) (.core p.1) .request
      (.launch { core := c, hi := false, ctx := (s.core c).ctx, sup := t.sup } p.2 live none)).withTask c false
      { t with wait := .parts d (p :: ps) live dropped true 0 })) ∧
  (∀ (s : State) (n : Nat) (l : Launch) (rest : List Launch), let w := s.window n
    w.queue = l :: rest → w.flying = false → s.launchWaits l = false →
    (l.go.bits 63 32 = 0 → l.go.getLsbD 15 = false →
      exec (.launchWindowPerform n) s = .next ({ s with windows := Tbl.insert s.windows n { w with queue := rest, flying := true } }.send
        .hostAgent (.core n) .request (.launch { core := n, hi := false, ctx := some (l.go.bits 31 16), sup := true }
          ⟨0, 1, { pc := l.go.bits 14 0, arg0 := l.arg0, arg1 := l.arg1, widths := [0, 0, 0, 0, 0, 0] }, n, false⟩ 0 (some n)))) ∧
    (l.go.bits 63 32 ≠ 0 ∨ l.go.getLsbD 15 = true →
      exec (.launchWindowPerform n) s = .next ({ s with windows := Tbl.insert s.windows n { w with queue := rest } }.windowAnswer n 3))) ∧
  (∀ (s : State) (n : Nat) (a0 a1 go : W), n < 1024 → s.booting = false →
    exec (.launchWindowGo n a0 a1 go) s = .next (s.windowWrite n a0 a1 go s.postedNext)) ∧
  (∀ (s : State) (n : Nat) (a0 a1 go : W) (before : Nat), let w := s.window n
    (w.queue.length < 8 → s.windowWrite n a0 a1 go before =
      { s with windows := Tbl.insert s.windows n { w with arg0 := a0, arg1 := a1, queue := w.queue ++ [⟨a0, a1, go, before⟩] } }) ∧
    (8 ≤ w.queue.length → s.windowWrite n a0 a1 go before =
      { s with windows := Tbl.insert s.windows n { w with arg0 := a0, arg1 := a1, result := 6 } }))

/-! ## Barrier records (R75, R292, R303, R304) -/

/-- R303, R304: BARV asks for word 0 of its record, at its core or home; with the record's SCOPE known it waits for the release and then sends its
update; BARW parks there. -/
def Sys2Proof.Machine.BarrierSteps : Prop :=
  ∀ (f : R3) (dst : Endpoint) (pa : Option Nat),
    let here := fun (s : State) (c : Nat) (t : Task) => t.carried = false ∧ RecordAtAddress s c t (t.reg f.a) dst pa
    StallsFor (.barv f) f.g (fun s c t => here s c t ∧ ∀ d st, t.wait ≠ .barv d st)
      (fun s c t => s.send (.core c) dst .request (.barRead (s.requester c t) (t.reg f.a).toNat pa))
      (fun _ _ _ => .barv f.d 1) ∧
    (∀ d st, 2 ≤ st → st ≤ 5 → StallsFor (.barv f) f.g
      (fun s c t => here s c t ∧ t.wait = .barv d st ∧ (st = 2 ∨ (s.core c).l1.ungranted = false))
      (fun s c t => s.send (.core c) dst .request (.barUpdate (s.requester c t) (t.reg f.a).toNat pa (t.reg f.b).toNat))
      (fun _ _ _ => .barv f.d 6)) ∧
    (∀ s c t d st, 3 ≤ st → st ≤ 5 → Issues s c t → guardPasses f.g t = true → here s c t → t.wait = .barv d st → (s.core c).l1.ungranted = true →
      exec (.barv f) s = .next (s.issue c (s.core c).inHi)) ∧
    StallsFor (.barw f) f.g here
      (fun s c t => s.send (.core c) dst .request (.barPark (s.requester c t) (t.reg f.a).toNat pa ((t.reg f.b).bits 11 0)))
      (fun _ _ _ => .barw f.d)

/-- R292, R303, R304: what a record's owner or home does with each request: the value of word 0; the update, whose new phase wakes the parked;
the park. -/
def Sys2Proof.Machine.BarrierRequests : Prop :=
  (∀ (s : State) (k c addr v : Nat) (src : Endpoint) (r : Requester) (bytes : List Byte),
    let off := bitsOf addr 17 0
    (s.core c).arrivalCheck r .atomic addr 16 = none → (s.core c).lcl.load 0 off 16 = some bytes → leNat bytes = v →
    let reply := fun (s : State) (vals : List Nat) => (s.send (.core c) (.core r.core) .reply (.reply r.hi vals)).portTurn c
    (Delivers s k src (.core c) (.barRead r addr none) → exec (.barrierUpdate k) s = .next (reply (s.drop k) [v % 2 ^ 64])) ∧
    (∀ n, Delivers s k src (.core c) (.barUpdate r addr none n) → recordBad (v % 2 ^ 64) = true →
      exec (.barrierUpdate k) s = .next (reply (s.drop k) [])) ∧
    (∀ n, Delivers s k src (.core c) (.barUpdate r addr none n) → recordBad (v % 2 ^ 64) = false →
      let a := recordArrive (v % 2 ^ 64) (v / 2 ^ 64) n
      let stored := (s.drop k).portStore c 0 off (leBytes 16 (a.1 + 2 ^ 64 * a.2.1))
      exec (.barrierUpdate k) s = .next (reply (if a.2.2 then stored.wakeRecord (.port c (bitsOf addr 49 46) off) a.1 else stored) [bitsOf v 11 0])) ∧
    (∀ seen, Delivers s k src (.core c) (.barPark r addr none seen) →
      (bitsOf v 11 0 ≠ seen → exec (.barrierPark k) s = .next (reply (s.drop k) [bitsOf v 11 0, bitsOf v 54 53])) ∧
      (bitsOf v 11 0 = seen → exec (.barrierPark k) s = .next (((s.drop k).onCore c fun x =>
        { x with lcl := { x.lcl with barWait := x.lcl.barWait ++ [⟨r, off, seen⟩] } }).portTurn c)))) ∧
  (∀ (s : State) (k h addr pa : Nat) (src : Endpoint) (r : Requester), (s.drop k).bad (pa / 64) = false →
    let v := leNat ((s.drop k).bytesNow pa 16)
    let reply := fun (s : State) (vals : List Nat) => s.send (.slice h) (.core r.core) .reply (.reply r.hi vals)
    (Delivers s k src (.slice h) (.barRead r addr (some pa)) → (s.drop k).ready [(pa, 16)] false = .ok →
      exec (.barrierUpdate k) s = .next (reply (s.drop k) [v % 2 ^ 64])) ∧
    (∀ n, Delivers s k src (.slice h) (.barUpdate r addr (some pa) n) → (s.drop k).readyHome [(pa, 16)] true = .ok → recordBad (v % 2 ^ 64) = false →
      let a := recordArrive (v % 2 ^ 64) (v / 2 ^ 64) n
      let stored := (s.drop k).engineWrite pa (leBytes 16 (a.1 + 2 ^ 64 * a.2.1))
      let woken := if a.2.2 then stored.wakeRecord (.home pa) a.1 else stored
      exec (.barrierUpdate k) s = .next (reply (woken.onL1 r.core fun l => l.clearSv (lineOf pa) (2 ^ (pa % 256 / 64))) [bitsOf v 11 0])) ∧
    (∀ seen, Delivers s k src (.slice h) (.barPark r addr (some pa) seen) → (s.drop k).ready [(pa, 16)] false = .ok →
      (bitsOf v 11 0 ≠ seen → exec (.barrierPark k) s = .next (reply (s.drop k) [bitsOf v 11 0, bitsOf v 54 53])) ∧
      (bitsOf v 11 0 = seen → exec (.barrierPark k) s = .next { s.drop k with homeBar := s.homeBar ++ [⟨r, pa, seen⟩] })))

/-- R303, R304: what the answers do: BARV learns the SCOPE to release at, or completes with the phase found; a reserved bit in word 0 is an exact
ILLEGAL at either step; BARW acquires at the SCOPE found on waking and completes. -/
def Sys2Proof.Machine.BarrierAnswers : Prop :=
  (∀ (s : State) (k c v : Nat) (src : Endpoint) (hi : Bool) (t : Task) (d : Reg),
    Delivers s k src (.core c) (.reply hi [v]) → TaskAt s c hi t →
    (t.wait = .barv d 1 → recordBad v = false →
      exec (.remoteReply k) s = .next ((s.drop k).withTask c hi { t with wait := .barv d (2 + bitsOf v 54 53) })) ∧
    (t.wait = .barv d 1 → recordBad v = true →
      exec (.remoteReply k) s = .next ((s.drop k).withTask c hi { t with wait := .none, fail := some ⟨0x01, wordHere s c t⟩ })) ∧
    (t.wait = .barv d 6 → exec (.remoteReply k) s = .next ((s.drop k).resumed c hi t d (w64 v)))) ∧
  (∀ (s : State) (k c : Nat) (src : Endpoint) (hi : Bool) (t : Task) (d : Reg),
    Delivers s k src (.core c) (.reply hi []) → TaskAt s c hi t → t.wait = .barv d 6 →
    exec (.remoteReply k) s = .next ((s.drop k).withTask c hi { t with wait := .none, fail := some ⟨0x01, wordHere s c t⟩ })) ∧
  (∀ (s : State) (k c v sc : Nat) (src : Endpoint) (hi : Bool) (t : Task) (d : Reg),
    Delivers s k src (.core c) (.reply hi [v, sc]) → TaskAt s c hi t → t.wait = .barw d →
    exec (.remoteReply k) s = .next (((s.drop k).acquire c (scopeOf sc)).resumed c hi t d (w64 v)))

/-- R292: the arithmetic of an arrival: AWAIT, ARRIVED, the phase, and the bits that stay. -/
def Sys2Proof.Machine.RecordArithmetic : Prop :=
  ∀ (w0 w1 n : Nat), w0 < 2 ^ 64 → w1 < 2 ^ 64 → n < 2 ^ 64 →
    let arrived := Nat.min (bitsOf w0 51 32 + 1) (2 ^ 20 - 1)
    let a := recordArrive w0 w1 n
    a.2.1 = (w1 + n) % 2 ^ 64 ∧
    (a.2.2 = true ↔ bitsOf w0 31 12 ≤ arrived ∧ signed 64 a.2.1 ≤ 0) ∧
    bitsOf a.1 63 52 = bitsOf w0 63 52 ∧ bitsOf a.1 31 12 = bitsOf w0 31 12 ∧
    bitsOf a.1 51 32 = (if a.2.2 then arrived - bitsOf w0 31 12 else arrived) ∧
    bitsOf a.1 11 0 = (if a.2.2 then (bitsOf w0 11 0 + 1) % 4096 else bitsOf w0 11 0)

/-- R292, R303, R304: on a record of any scratchpad or of global memory, BARV reads word 0, releases at the record's SCOPE and then arrives; BARW parks until the
phase differs from the one it saw, then acquires at SCOPE; the port or home counts an arrival and advances the phase when every expected arrival and every byte came. -/
def Obligations.BarrierRecords : Prop := BarrierSteps ∧ BarrierRequests ∧ BarrierAnswers ∧ RecordArithmetic

/-! ## Tile exchange and remote matrix commands (R164–R166) -/

/-- R164: TSWAP sends its offset to the mirror core and waits; each side sends its tile once both have issued, writes the other's, and both go on when both
tiles are written; a core on the diagonal goes on at once. A poisoned word stays poisoned at the other core (log entry 24, DEDUCED). -/
def Obligations.TileExchange : Prop :=
  (∀ (f : Ra) (w off : Nat),
    let fits := fun (s : State) (c : Nat) (t : Task) => t.carried = false ∧ (s.core c).inHi = false ∧ ownPlace c t.sup (t.reg f.a) = .ok (w, off) ∧ w ≤ 12 ∧
      (s.core c).lcl.configured w = true ∧ (t.reg f.a).toNat % 64 = 0 ∧ off + 2048 ≤ Config.spadSize
    let begun := fun (s : State) (c : Nat) => (s.onCore c fun k =>
      { k with tswSent := k.tswSent + 1, tswOff := some off, tswTile := false }).send (.core c) (.core (mirrorOf c)) .request
        (.tswap ((s.core c).tswSent + 1))
    Completes (.tswap f) 2 f.g (fun s c t => fits s c t ∧ mirrorOf c = c) State.same (fun _ _ t => t) ∧
    StallsFor (.tswap f) f.g (fun s c t => fits s c t ∧ mirrorOf c ≠ c ∧ Settled s c (t.reg f.a) 2048 ∧ (s.core c).tswGot ≤ (s.core c).tswSent)
      (fun s c _ => begun s c) (fun s c _ => .tswap ((s.core c).tswSent + 1)) ∧
    StallsFor (.tswap f) f.g (fun s c t => fits s c t ∧ mirrorOf c ≠ c ∧ Settled s c (t.reg f.a) 2048 ∧ (s.core c).tswSent + 1 ≤ (s.core c).tswGot ∧
        s.portOwes c = false)
      (fun s c _ => (begun (s.ownAccess c) c).sendSwap c ((s.core c).tswSent + 1))
      (fun s c _ => .tswap ((s.core c).tswSent + 1))) ∧
  (∀ c, c < 1024 → mirrorOf c < 1024 ∧ mirrorOf (mirrorOf c) = c ∧ clusterX (clusterOf (mirrorOf c)) = clusterY (clusterOf c) ∧
    clusterY (clusterOf (mirrorOf c)) = clusterX (clusterOf c) ∧ mirrorOf c % 4 = c % 4) ∧
  (∀ (s : State) (k c n : Nat) (src : Endpoint), Delivers s k src (.core c) (.tswap n) →
    let s' := (s.drop k).onCore c fun k => { k with tswGot := n }
    exec (.tswapArrival k) s = .next (if n ≤ (s.core c).tswSent then s'.sendSwap c n else s')) ∧
  (∀ (s : State) (c n off : Nat), (s.core c).tswOff = some off →
    s.sendSwap c n = s.send (.core c) (.core (mirrorOf c)) .bulk (.tswapTile n ((s.core c).lcl.spad.readN off 2048)
      ((List.range 256).filter fun w => Tbl.getD (s.core c).lcl.poison (off / 8 + w) false))) ∧
  (∀ (s : State) (k c n off : Nat) (src : Endpoint) (bytes : List Byte) (bad : List Nat), Delivers s k src (.core c) (.tswapTile n bytes bad) →
    (s.core c).tswOff = some off → n ≤ (s.core c).tswGot →
    let s' := (s.drop k).setCore c { s.core c with lcl := (s.core c).lcl.writeSwap off bytes bad, tswTile := true }
    exec (.tswapTileArrival k) s = .next ((if (s'.core (mirrorOf c)).tswTile then (s'.endSwap c).endSwap (mirrorOf c) else s').portTurn c)) ∧
  (∀ (l : Local) (off : Nat) (bytes : List Byte) (bad : List Nat) (w : Nat), w ∈ bad →
    Tbl.getD (l.writeSwap off bytes bad).poison (off / 8 + w) false = true) ∧
  (∀ (s : State) (c : Nat) (t : Task), (s.core c).lo = some t →
    s.endSwap c = s.setCore c { s.core c with tswOff := none, tswTile := false, lo := some { t with wait := .none, pc := t.pc + 2, stalled := false } })

/-- R165, R166: CAPSET sets the core's capability; MXCMD sends a command and waits for its status; the target takes a command of its own context whose capability is the
core's own, that is one of the listed instructions and passes its checks, while fewer than eight wait, and says otherwise why not; a command executes between two
instructions of the stream, and its completion word goes to the issuer (log entries 25, 26, 27 and 51 for the shape word, the completion address, a
command that fails when it executes, and the reserved half of the command word). -/
def Obligations.MatrixCommands : Prop :=
  (∀ f : Ra, Completes (.capset f) 2 f.g (fun _ _ t => t.carried = false ∧ t.sup = true)
    (fun s c t => s.onCore c fun k => { k with regs := { k.regs with cap := t.reg f.a } }) (fun _ _ t => t)) ∧
  (∀ f : R3,
    let send := fun (s : State) (c : Nat) (t : Task) (done : W) => s.send (.core c) (.core (t.reg f.a).toNat) .request
      (.mxcmd (s.requester c t) (t.reg f.b) (t.reg (f.b + 1)) (t.reg (f.b + 2)) done)
    StallsFor (.mxcmd f) f.g
      (fun s c t => t.carried = false ∧ (s.core c).inHi = false ∧ (t.reg f.a).toNat < 1024 ∧ t.reg (f.b + 3) = 0)
      (fun s c t => send s c t 0) (fun _ _ _ => .value f.d false 64 2 false) ∧
    (∀ w off, StallsFor (.mxcmd f) f.g
      (fun s c t => t.carried = false ∧ (s.core c).inHi = false ∧ (t.reg f.a).toNat < 1024 ∧ t.reg (f.b + 3) ≠ 0 ∧
        decodeAddr c t.sup (t.reg (f.b + 3)).toNat 8 = .ok (.loc c w off) ∧ (s.core c).lcl.windowCheck .atomic t.sup w off 8 = none ∧
        (t.reg (f.b + 3)).toNat % 8 = 0)
      (fun s c t => send s c t (w64 (localAddr c ((t.reg (f.b + 3)).bits 49 46) ((t.reg (f.b + 3)).bits 17 0))))
      (fun _ _ _ => .value f.d false 64 2 false)) ∧
    Traps (.mxcmd f) f.g (fun s c t => t.carried = false ∧ (s.core c).inHi = false ∧ 1024 ≤ (t.reg f.a).toNat) 0x01 wordHere) ∧
  (∀ (s : State) (k c : Nat) (src : Endpoint) (r : Requester) (cap word operand done : W), Delivers s k src (.core c) (.mxcmd r cap word operand done) →
    (∀ st, commandStatus (s.core c) c r.ctx cap word operand = st → st ≠ 0 →
      exec (.mxcmdArrival k) s = .next ((s.drop k).send (.core c) (.core r.core) .reply (.mxStatus r.hi st))) ∧
    (commandStatus (s.core c) c r.ctx cap word operand = 0 →
      exec (.mxcmdArrival k) s = .next (((s.drop k).onCore c fun k =>
        { k with mxq := k.mxq ++ [⟨BitVec.ofNat 32 word.toNat, operand, done, r.core⟩] }).send (.core c) (.core r.core) .reply (.mxStatus r.hi 0)))) ∧
  (∀ (s : State) (k c st : Nat) (src : Endpoint) (hi : Bool) (t : Task) (d : Reg), Delivers s k src (.core c) (.mxStatus hi st) →
    TaskAt s c hi t → t.wait = .value d false 64 2 false → exec (.mxcmdStatus k) s = .next ((s.drop k).resumed c hi t d (w64 st))) ∧
  (∀ (s : State) (c : Nat) (m : MxCmd) (rest : List MxCmd) (td : PReg), (s.core c).command? = some (m, rest) → matCmd? (w64 m.word.toNat) = some (.tzero td) →
    let k := s.core c
    let s' := s.setCore c { k with mxq := rest, vu := { (k.vu.setTile td.toNat 0).setScales td.toNat f32One f32One with mxWait := false } }
    exec (.mxcmdExecute c) s = .next (if m.done = 0 then s' else s'.send (.core c) (.core m.src) .request
      (.mxDone { core := c, hi := false, ctx := k.ctx, sup := true } m.done.toNat))) ∧
  (∀ (s : State) (c : Nat) (m : MxCmd) (rest : List MxCmd) (i : MatCmd), (s.core c).command? = some (m, rest) →
    matCmd? (w64 m.word.toNat) = some i →
    let s' := s.setCore c { s.core c with mxq := rest, vu := { (s.core c).vu with mxWait := false } }
    let vx : Vx := { s := s', c := c, k := s'.core c, t := none, x := fun _ _ => 0, sup := true, word := 0, pc := 0, entry := none, xdead := [], pvs := [] }
    (∀ t, i.body m.operand vx = .done t → exec (.mxcmdExecute c) s = .next (if m.done = 0 then t else t.send (.core c) (.core m.src) .request
      (.mxDone { core := c, hi := false, ctx := (s.core c).ctx, sup := true } m.done.toNat))) ∧
    (∀ t, i.body m.operand vx = .wait t → exec (.mxcmdExecute c) s = .next s) ∧
    (∀ v, i.body m.operand vx = .trap 0x22 v → exec (.mxcmdExecute c) s = .next (s'.pending c 0x22 v)) ∧
    (∀ d x, i = .clwait → (s.core c).vu.inc = some (d, x) →
      i.body m.operand vx = .done ((s'.setCore c { s'.core c with vu := { (s'.core c).vu with cur := some x, inc := none } }).send (.core c) (.core d)
        .request .credit)) ∧
    (∀ w off x, i = .clld → operandCheck c true (s.core c).lcl m.operand = .ok (w, off) → s'.portOwes c = false →
      (s.core c).lcl.operand m.operand w off = .ok x →
      i.body m.operand vx = .done ((s'.ownAccess c).setCore c { (s'.ownAccess c).core c with vu := { (s'.core c).vu with cur := some x } }))) ∧
  (∀ w : W, (∃ m, matCmd? w = some m) → w.toNat < 2 ^ 32 ∧ w.bits 22 16 = 0 ∧ w.bits 12 9 = 0 ∧ w.bits 1 0 = 1 ∧ w.bits 8 2 ∈ [0x68, 0x69, 0x6A])

/-! ## Copies between memories (R65–R88) -/

/-- The copies whose pieces are fixed when they are issued. -/
noncomputable def Sys2Proof.Machine.copyForms : List ((CopyForm → Instr) × CopyOp) :=
  [(.get, .get), (.put, .put), (.getx, .getx), (.putx, .putx), (.putxa, .putxa)]

/-- R66, R68, R69, R74, R81, R82: a linear copy whose checks pass takes its channel's next ID to X[d] and goes on; GET, PUT and the indexed forms queue their pieces, PUTR joins its
group's next round, MCAST sends the same bytes to every receiver it selects and takes a slot of each; one of no bytes ends at once. -/
def Sys2Proof.Machine.LinearCopies : Prop :=
  (∀ e ∈ copyForms, ∀ (f : CopyForm) (s : State) (c : Nat) (t : Task) (here : Nat) (place : Spot) (rec : Option (Nat × Option Nat)),
    Issues s c t → guardPasses f.g t = true → CopyReady e.2 f s c t here place rec →
    let x := copyXfer e.2 f s c t here place rec
    let s1 := ((e.2.atPort s c).issueXfer c x f.d (s.core c).regs.mcs).settleXfer s.xfers.length
    let s2 := if x.pieces = [] ∧ rec = none then s1.completeXfer s.xfers.length else s1
    exec (e.1 f) s = .next (s2.retire c (s2.core c) (t.setReg f.d (w64 x.id)) (t.pc + 2))) ∧
  (∀ (f : CopyForm) (s : State) (c : Nat) (t : Task) (here : Nat) (place : Spot) (rec : Option (Nat × Option Nat)),
    Issues s c t → guardPasses f.g t = true → CopyReady .putr f s c t here place rec →
    let w := ctlOf (t.ctl f)
    let x := { copyXfer .putr f s c t here place rec with
      pieces := [], group := some (w.count, 0, w.rop, w.rty), deadline := some (s.group w.count).slack, chunks := if w.len = 0 then 1 else 0 }
    let s1 := ((s.issueXfer c x f.d (s.core c).regs.mcs).joinRound s.xfers.length w.count c).settleXfer s.xfers.length
    let s2 := if w.len = 0 ∧ rec = none then s1.completeXfer s.xfers.length else s1
    exec (.putr f) s = .next (s2.retire c (s2.core c) (t.setReg f.d (w64 x.id)) (t.pc + 2))) ∧
  (∀ (f : CopyForm) (s : State) (c : Nat) (t : Task) (here a : Nat),
    Issues s c t → guardPasses f.g t = true → CopyReady .mcast f s c t here (.scratch a) none →
    (∀ j ∈ maskList 16 (t.aux f).toNat, Tbl.getD (s.core c).regs.mcs j 0 ≠ 0) →
    let n := (ctlOf (t.ctl f)).len
    let slots := maskList 16 (t.aux f).toNat
    let x := { copyXfer .mcast f s c t here (.scratch a) none with
      pieces := slots.flatMap fun j => piecesOf false here (.scratch (localAddr (bitsOf ((s.core c).regs.mcrAt j) 9 0) (localParts a).2.1 (localParts a).2.2)) n,
      nominal := n * slots.length }
    let s1 := s.issueXfer c x f.d (slots.foldl (fun q j => Tbl.put 0 q j (Tbl.getD q j 0 - 1)) (s.core c).regs.mcs)
    let s2 := if n = 0 then s1.completeXfer s.xfers.length else s1
    exec (.mcast f) s = .next (s2.retire c (s2.core c) (t.setReg f.d (w64 x.id)) (t.pc + 2)))

/-- R67, R68, R69, R72: a tensor copy whose checks pass issues the pieces of its box's elements; an element lies at its exact address, or out of bounds, where it is read as the
fill pattern; a box that the record and its descriptor give is planned whole, dimension 0 fastest; a write to a read-only tensor is issued with its error. -/
def Sys2Proof.Machine.TensorCopies : Prop :=
  (∀ e ∈ copyForms, ∀ (f : CopyForm) (s s1 : State) (c : Nat) (t : Task) (here : Nat) (rec : Option (Nat × Option Nat)) (p : Plan),
    Issues s c t → guardPasses f.g t = true → TensorReady e.2 f s c t here rec p s1 →
    let x := tensorXfer e.2 f s1 c t here rec p
    let s2 := ((s1.ownAccess c).issueXfer c x f.d (s1.core c).regs.mcs).settleXfer s1.xfers.length
    let s3 := if x.pieces = [] ∧ rec = none then s2.completeXfer s1.xfers.length else s2
    exec (e.1 f) s = .next (s3.retire c (s3.core c) (t.setReg f.d (w64 x.id)) (t.pc + 2))) ∧
  (∀ (cx : Cx) (o : CopyOp) (w : Ctl) (far : W) (entries : List Int) (b : BoxRec) (d : Nat) (s1 : State) (T : Tensor),
    cx.boxRecord o far = .ok (some b) → cx.s.descriptor cx.c cx.k.asidOf cx.k.rootOf cx.k.regs.dtab b.handle 2 = .ok d s1 → tensor? d = some T →
    let size := 2 ^ T.esize * (b.n.foldl (· * ·) 1)
    (0x30000 < size → cx.planTensor o w far entries = .trap 0x01 far) ∧
    (size ≤ 0x30000 → o = .get ∨ o = .put → ∃ p, cx.planTensor o w far entries = .ok p s1 ∧
      p.segs = segments (2 ^ T.esize) T.fillBytes (T.box b.c b.n) ∧ p.len = size ∧ p.oob = ((T.box b.c b.n).filter Option.isNone).length ∧
      p.ro = (T.ro && (o == .put))) ∧
    (size ≤ 0x30000 → o.indexed = true → ∃ p, cx.planTensor o w far entries = .ok p s1 ∧ p.len = size * w.count ∧
      p.segs = segments (2 ^ T.esize) T.fillBytes (entries.flatMap fun e => T.box (b.c.set 1 e) b.n))) ∧
  (∀ (T : Tensor) (c0 c1 c2 c3 n0 n1 n2 n3 k0 k1 k2 k3 : Nat) (o0 o1 o2 o3 s0 s1 s2 s3 : Int), T.stride = [s0, s1, s2, s3] → T.ext = [c0, c1, c2, c3] →
    (let a := (T.base : Int) + o0 * s0 + o1 * s1 + o2 * s2 + o3 * s3
     let inside := 0 ≤ o0 ∧ o0 < c0 ∧ 0 ≤ o1 ∧ o1 < c1 ∧ 0 ≤ o2 ∧ o2 < c2 ∧ 0 ≤ o3 ∧ o3 < c3 ∧ 0 ≤ a ∧ a + 2 ^ T.esize ≤ 2 ^ 56
     (inside → T.elem [o0, o1, o2, o3] = some a.toNat) ∧ (¬ inside → T.elem [o0, o1, o2, o3] = none)) ∧
    (T.box [o0, o1, o2, o3] [n0, n1, n2, n3]).length = n0 * n1 * n2 * n3 ∧
    (k0 < n0 → k1 < n1 → k2 < n2 → k3 < n3 →
      (T.box [o0, o1, o2, o3] [n0, n1, n2, n3])[k0 + n0 * (k1 + n1 * (k2 + n2 * k3))]? = some (T.elem [o0 + k0, o1 + k1, o2 + k2, o3 + k3]))) ∧
  (∀ (n : Nat) (fill : List Byte) (l : List (Option Nat)), fill.length = n →
    ((segments n fill l).map (·.2)).sum = n * l.length ∧
    (∀ b m, (Spot.fill b, m) ∈ segments n fill l → b.length = m ∧ none ∈ l) ∧
    (∀ a m, (Spot.global a, m) ∈ segments n fill l → some a ∈ l)) ∧
  (∀ (T : Tensor), T.esize ≤ 4 → T.fillBytes.length = 2 ^ T.esize)

/-- R66, R68, R69, R70, R74, R81, R82: linear and tensor copies issue their pieces; a control word that breaks its rules traps ILLEGAL; a range of global memory is cut at its lines,
whole and without overlap. -/
def Obligations.Copies : Prop :=
  LinearCopies ∧ TensorCopies ∧
  (∀ f : CopyForm,
    let bad := fun (o : CopyOp) (s : State) (c : Nat) (t : Task) => t.carried = false ∧ ctlOk o (s.core c).regs (t.ctl f) (t.loc f) (t.far f) (t.aux f) = false
    Traps (.get f) f.g (bad .get) 0x01 (fun _ _ t => t.ctl f) ∧ Traps (.put f) f.g (bad .put) 0x01 (fun _ _ t => t.ctl f) ∧
    Traps (.getx f) f.g (bad .getx) 0x01 (fun _ _ t => t.ctl f) ∧ Traps (.putx f) f.g (bad .putx) 0x01 (fun _ _ t => t.ctl f) ∧
    Traps (.putxa f) f.g (bad .putxa) 0x01 (fun _ _ t => t.ctl f) ∧ Traps (.putr f) f.g (bad .putr) 0x01 (fun _ _ t => t.ctl f) ∧
    Traps (.mcast f) f.g (bad .mcast) 0x01 (fun _ _ t => t.ctl f)) ∧
  (∀ (reads : Bool) (loc va n : Nat), let l := piecesOf reads loc (.global va) n
    (l.map (·.len)).sum = n ∧ l.Pairwise (fun p q => p.near reads + p.len ≤ q.near reads) ∧
    ∀ p ∈ l, ∃ o, 0 < p.len ∧ o + p.len ≤ n ∧ (va + o) / 256 = (va + o + p.len - 1) / 256 ∧
      (if reads then p.src = .global (va + o) ∧ p.dst = .scratch (loc + o) else p.src = .scratch (loc + o) ∧ p.dst = .global (va + o))) ∧
  (∀ (w loc far aux : W) (r : Regs) (o : CopyOp), ctlOk o r w loc far aux = true →
    w.toNat &&& ctlUses o = w.toNat ∧ (o.indexed = true → 1 ≤ (ctlOf w).count) ∧ ((ctlOf w).tensor = true → (ctlOf w).len = 0) ∧
    ((ctlOf w).full = true → if o.reads then namesScratch loc = true else (ctlOf w).tensor = false ∧ namesScratch far = true))

/-- R70, R71, R76: a piece reads its source and then writes its destination, a part of it in each step: a fill, 64 bytes of the own scratchpad, or a line; the part of
a line that is not held at its home is asked of its controller; a far core's port is asked by a packet; a stopped or ended transfer's pieces do nothing. -/
def Sys2Proof.Machine.PieceSteps : Prop :=
  (∀ (s : State) (x i : Nat) (t : Xfer) (p : Piece), PieceOf s x i t p →
    ((t.fin = true ∨ t.stop = true) → ∀ data, exec (.transferPiece x i data) s = .next s) ∧
    (t.fin = false → t.stop = false → p.phase = 0 →
      (∀ b data, p.src = .fill b → exec (.transferPiece x i data) s = .next (s.setPiece x i { p with data := b, phase := 2 })) ∧
      (∀ a bytes data, p.src = .scratch a → t.isLocal true = true → p.data = [] → p.len ≤ 64 - (localParts a).2.2 % 64 →
        (s.core (localParts a).1).lcl.load (localParts a).2.1 (localParts a).2.2 p.len = some bytes → bytes.length = p.len →
        exec (.transferPiece x i data) s = .next (s.setPiece x i { p with data := bytes, phase := 2 })) ∧
      (∀ a data, p.src = .scratch a → t.isLocal true = false →
        exec (.transferPiece x i data) s = .next ((s.setPiece x i { p with phase := 1 }).send (.core t.core) (.core (localParts a).1) .request
          (.piece x i t.req a none false none))) ∧
      (∀ va pa s1 data, p.src = .global va → s.pieceAt t false va = .ok pa s1 → s1.ready [(pa, p.len)] false = .ok →
        (s1.firstBad pa p.len = none → 2 ^ 40 ≤ pa ∨ s1.present (lineOf pa) = true →
          ∃ m n, exec (.transferPiece x i data) s = .next ({ s1 with monitors := m, fresh := n }.setPiece x i
            { p with data := s1.bytesNow pa p.len, phase := 2, holes := [] })) ∧
        (pa < 2 ^ 40 → s1.present (lineOf pa) = false → p.fetchesCode = false →
          exec (.transferPiece x i data) s = .next ((s1.setPiece x i { p with phase := 1 }).askPiece x i t pa (granulesOf pa p.len) []))) ∧
      (∀ va data, p.src = .global va → ∀ e, s.pieceAt t false va = .fail e → exec (.transferPiece x i data) s = .next (s.failXfer x e)))) ∧
  (∀ (s : State) (x i : Nat) (t : Xfer) (p : Piece), PieceOf s x i t p → t.fin = false → t.stop = false → p.phase = 2 → t.addBlocked i p = false →
    (t.addMisaligned p = true → ∀ data, exec (.transferPiece x i data) s = .next (s.failXfer x 7)) ∧
    (t.addMisaligned p = false →
      (∀ b data, p.dst = .fill b → exec (.transferPiece x i data) s = .next (s.setPiece x i { p with phase := 4 })) ∧
      (∀ a s1 data, p.dst = .scratch a → t.isLocal false = true → p.landed = 0 → 0 < p.len → p.holes = [] → p.len ≤ 64 - (localParts a).2.2 % 64 →
        s.landBytes t i (localParts a).1 (localParts a).2.1 (localParts a).2.2 (p.data.take p.len) = (true, s1) →
        exec (.transferPiece x i data) s = .next (s1.setPiece x i { p with landed := p.len, phase := 4 })) ∧
      (∀ a data, p.dst = .scratch a → t.isLocal false = false →
        exec (.transferPiece x i data) s = .next ((s.setPiece x i { p with phase := 3 }).send (.core t.core) (.core (localParts a).1) .bulk
          (.piece x i t.req a (some p.data) t.full t.add))) ∧
      (∀ va e data, p.dst = .global va → s.pieceAt t true va = .fail e → exec (.transferPiece x i data) s = .next (s.failXfer x e)) ∧
      (∀ va pa s1 data, p.dst = .global va → s.pieceAt t true va = .ok pa s1 → s1.ready [(pa, p.len)] true = .ok → t.add = none → p.holes = [] →
        0 < p.len → p.data.length = p.len →
        let s2 := s1.pullBytes pa p.len
        ((∀ g ∈ granulesOf pa p.len, s2.bad g = false) → 2 ^ 40 ≤ pa ∨ s2.present (lineOf pa) = true →
          ∃ s', exec (.transferPiece x i data) s = .next s' ∧ (∃ t', PieceOf s' x i t' { p with phase := 4 }) ∧
            (∀ j, j < p.len → s'.mem.read (pa + j) = p.data.getD j 0) ∧ (∀ a, a < pa ∨ pa + p.len ≤ a → s'.mem.read a = s2.mem.read a)) ∧
        (pa < 2 ^ 40 → s2.present (lineOf pa) = false → ∃ s', exec (.transferPiece x i data) s = .next s' ∧ s'.mem = s2.mem ∧
          ∀ g ∈ granulesOf pa p.len, ∃ r ∈ s'.ctl (controllerOf (g * 64)), r.granule = g ∧ r.origin = .xfer x i ∧ r.deadline = t.deadline.map (s2.tick + ·) ∧
            ∀ a b, (a, b) ∈ r.write ↔ a / 64 = g ∧ pa ≤ a ∧ a < pa + p.len ∧ p.data[a - pa]? = some b)))) ∧
  (∀ (s : State) (x i pa : Nat) (t : Xfer) (gs : List Nat), let s' := s.askPiece x i t pa gs []
    (∀ g ∈ gs, ∃ r ∈ s'.ctl (controllerOf (g * 64)), r.granule = g ∧ r.write = [] ∧ r.origin = .xfer x i ∧ r.deadline = t.deadline.map (s.tick + ·)) ∧
    (∀ n, ∃ l, s'.ctl n = s.ctl n ++ l ∧ ∀ r ∈ l, r.granule ∈ gs) ∧ s'.mem = s.mem ∧ s'.xfers = s.xfers) ∧
  (∀ (s : State) (x i : Nat) (t : Xfer) (p q : Piece), PieceOf s x i t p → t.aux = none →
    s.setPiece x i q = s.setXfer x { t with pieces := t.pieces.set i q })

/-- R73–R77, R86: a transfer completes when every piece is written and its barrier decremented, or at its first error, which becomes an XFER trap; it adds its count of
out-of-bounds elements; DONE then passes the IDs that are complete, and no other; a word whose bytes are all written gets its full bit. -/
def Sys2Proof.Machine.TransferEnds : Prop :=
  (∀ (s : State) (x : Nat) (t : Xfer), XferAt s x t →
    (t.ready = false → exec (.transferCompletion x) s = .next s) ∧
    (t.ready = true → ∃ s' l, exec (.transferCompletion x) s = .next s' ∧ XferAt s' x { t with fin := true, lost := l } ∧
      (t.err = none → (s'.core t.core).regs.pend = (s.core t.core).regs.pend ∧ l = false) ∧
      (∀ e, t.err = some e → (s.core t.core).regs.pend.length < 32 → l = false ∧
        (s'.core t.core).regs.pend = (s.core t.core).regs.pend ++ [⟨0x21, w64 (t.ch * 2 ^ 60 + e * 2 ^ 56 + t.id)⟩]) ∧
      (∀ e, t.err = some e → 32 ≤ (s.core t.core).regs.pend.length → l = true ∧ (s'.core t.core).regs.pend = (s.core t.core).regs.pend ∧
        (s'.core t.core).regs.lost = true) ∧
      (s'.core t.core).regs.oobcnt = w64 (Nat.min ((s.core t.core).regs.oobcnt.toNat + t.oob) (2 ^ 64 - 1)) ∧
      (let done := fun (s : State) => Tbl.getD (s.core t.core).regs.cdone t.ch 0
       let next := Tbl.getD (s.core t.core).regs.cnext t.ch 0
       done s < 2 ^ 48 → s.xfers.length < 2 ^ 48 → ∃ n, done s' = (done s + n) % 2 ^ 48 ∧
        (∀ i, i < n → (done s + i) % 2 ^ 48 ≠ next ∧ s'.idDone t.core t.ch ((done s + i) % 2 ^ 48) = true) ∧
        (done s' = next ∨ s'.idDone t.core t.ch (done s') = false)) ∧
      (∀ j, j ≠ t.ch → Tbl.getD (s'.core t.core).regs.cdone j 0 = Tbl.getD (s.core t.core).regs.cdone j 0) ∧
      SameBytes s s' ∧ OtherCoresSame s s' t.core)) ∧
  (∀ (s : State) (t : Xfer) (i c w off q : Nat) (bytes : List Byte), w ≤ 12 → 0 < bytes.length → off + bytes.length ≤ Config.spadSize →
    (s.core c).lcl.fullWait = [] → (s.core c).lcl.mergeFails off bytes.length = false →
    let r := s.landBytes t i c w off bytes
    r.1 = true ∧ (∀ j, j < bytes.length → (r.2.core c).lcl.spad.read (off + j) = bytes.getD j 0) ∧
    (∀ o, o < off ∨ off + bytes.length ≤ o → (r.2.core c).lcl.spad.read o = (s.core c).lcl.spad.read o) ∧
    ((r.2.core c).lcl.isFull q = true ↔ (s.core c).lcl.isFull q = true ∨
      (t.full = true ∧ off / 8 ≤ q ∧ q ≤ (off + bytes.length - 1) / 8 ∧ t.restWritten i q c (off + bytes.length) = true))) ∧
  (∀ (t : Xfer) (p : Piece) (a q hi : Nat), t.pieces = [p] → t.group = none → p.dst = .scratch a → p.holes = [] →
    let off := (localParts a).2.2
    t.restWritten 0 q (localParts a).1 hi = true ↔ off + p.len ≤ hi ∨ off + p.len ≤ 8 * q ∨ 8 * q + 8 ≤ hi)

/-- R53, R75, R81, R85, R292: a piece at a far core's port is checked there, and its bytes are read or written; a barrier decrement lowers its record, or ends its transfer with
BARRIER. -/
def Sys2Proof.Machine.OwnerPieces : Prop :=
  (∀ (s : State) (k c x i addr : Nat) (src : Endpoint) (r : Requester) (write : Option (List Byte)) (full : Bool) (add : Option Nat) (t : Xfer) (p : Piece),
    Delivers s k src (.core c) (.piece x i r addr write full add) → PieceOf s x i t p →
    let w := bitsOf addr 49 46
    let off := bitsOf addr 17 0
    (∀ code, (s.core c).arrivalCheck r .porter addr p.len = some code →
      exec (.ownerPortPiece k) s = .next ((((s.drop k).setPiece x i { p with phase := 0 }).failXfer x
        (if code = 0x0D then 12 else if code = 0x02 then 6 else 3)).portTurn c)) ∧
    ((s.core c).arrivalCheck r .porter addr p.len = none →
      (∀ bytes, write = none → (s.core c).lcl.load w off p.len = some bytes →
        exec (.ownerPortPiece k) s = .next (((s.drop k).setPiece x i { p with data := bytes, phase := 2 }).portTurn c)) ∧
      (write = none → (s.core c).lcl.load w off p.len = none →
        exec (.ownerPortPiece k) s = .next ((((s.drop k).setPiece x i { p with phase := 0 }).failXfer x 4).portTurn c)) ∧
      (∀ bytes, write = some bytes → t.stop = false → add = none → (s.core c).fullRefused c r addr p.len = false →
        (∀ s1, (s.drop k).landBytes t i c w off bytes = (true, s1) →
          exec (.ownerPortPiece k) s = .next ((s1.setPiece x i { p with phase := 4, landed := p.len }).portTurn c)) ∧
        (∀ s1, (s.drop k).landBytes t i c w off bytes = (false, s1) →
          exec (.ownerPortPiece k) s = .next (((s1.setPiece x i { p with phase := 0 }).failXfer x 4).portTurn c))) ∧
      (∀ bytes old rty s1, write = some bytes → t.stop = false → add = some rty → (s.core c).lcl.load w off p.len = some old →
        (s.drop k).landBytes t i c w off (combBytes 0 rty old bytes) = (true, s1) →
        exec (.ownerPortPiece k) s = .next ((s1.setPiece x i { p with phase := 4, landed := p.len }).portTurn c)))) ∧
  (∀ (s : State) (k c x addr n v : Nat) (src : Endpoint) (t : Xfer) (bytes : List Byte),
    Delivers s k src (.core c) (.barDec x addr none n) → XferAt s x t → (s.core c).arrivalCheck t.req .atomic addr 16 = none →
    (s.core c).lcl.load 0 (bitsOf addr 17 0) 16 = some bytes → leNat bytes = v →
    (recordBad (v % 2 ^ 64) = true → exec (.barrierDecrement k) s = .next ((((s.drop k).setXfer x { t with decDone := true }).faultXfer x 11).portTurn c)) ∧
    (recordBad (v % 2 ^ 64) = false → let a := recordDec (v % 2 ^ 64) (v / 2 ^ 64) n
      let stored := (s.drop k).portStore c 0 (bitsOf addr 17 0) (leBytes 16 (a.1 + 2 ^ 64 * a.2.1))
      exec (.barrierDecrement k) s = .next (((if a.2.2 then stored.wakeRecord (.port c (bitsOf addr 49 46) (bitsOf addr 17 0)) a.1 else stored).setXfer x
        { t with decDone := true }).portTurn c)))

/-- R70–R77, R83–R86: a transfer's pieces, its completion and its pieces at far ports are as said above; SLOTRET, SBIND and CWAIT complete with their effects. -/
def Obligations.TransferProgress : Prop :=
  PieceSteps ∧ TransferEnds ∧ OwnerPieces ∧
  (∀ f : SlotretForm, Completes (.slotret f) 2 f.g (fun _ _ t => t.carried = false ∧ (t.reg f.a).toNat < 1024)
    (fun s c t => s.send (.core c) (.core (t.reg f.a).toNat) .request (.slotRet c (f.n.toNat + 1))) (fun _ _ t => t)) ∧
  (∀ (s : State) (k c n from_ : Nat) (src : Endpoint), Delivers s k src (.core c) (.slotRet from_ n) →
    ∃ q : Tbl Nat, exec (.slotReturn k) s = .next ((s.drop k).onSched c fun k => { k with regs := { k.regs with mcs := q } }) ∧
      ∀ j, j < 16 → let e := (s.core c).regs.mcrAt j
        Tbl.getD q j 0 = if bitOf e 15 ∧ bitsOf e 9 0 = from_ then Nat.min (Tbl.getD (s.core c).regs.mcs j 0 + n) (bitsOf e 14 11)
          else Tbl.getD (s.core c).regs.mcs j 0) ∧
  (∀ (f : SbindForm) (x : Xfer), Completes (.sbind f) 2 f.g
    (fun s c t => let id := (t.reg f.a).bits 47 0
      let age := (Tbl.getD (s.core c).regs.cnext f.ch.toNat 0 + 2 ^ 48 - id) % 2 ^ 48
      t.carried = false ∧ (s.core c).inHi = false ∧ 1 ≤ age ∧ age ≤ 32 ∧ (x.op = 0 ∨ x.op = 2) ∧
      s.xfers.reverse.find? (fun x => x.core == c && x.ch == f.ch.toNat && x.id == id) = some x)
    (fun s c t =>
      let b : Binding := { ch := f.ch.toNat, id := (t.reg f.a).bits 47 0, base := x.base, len := x.len, pos := 0, reader := 0 }
      s.onCore c fun k => { k with vu := { k.vu with s := Tbl.insert k.vu.s f.n.toNat b } })
    (fun _ _ t => t)) ∧
  (∀ f : ChForm,
    let next := fun (s : State) (c : Nat) => Tbl.getD (s.core c).regs.cnext f.ch.toNat 0
    let done := fun (s : State) (c : Nat) => Tbl.getD (s.core c).regs.cdone f.ch.toNat 0
    let id := fun (s : State) (c : Nat) (t : Task) => let i := (t.reg f.a).bits 47 0
      let newest := (next s c + 2 ^ 48 - 1) % 2 ^ 48
      if i = newest ∨ idBefore i newest = true then i else newest
    Completes (.cwait f) 2 f.g (fun s c t => t.carried = false ∧ (done s c = next s c ∨ idBefore (id s c t) (done s c) = true)) State.same (fun _ _ t => t) ∧
    StallsFor (.cwait f) f.g (fun s c t => t.carried = false ∧ done s c ≠ next s c ∧ idBefore (id s c t) (done s c) = false) State.same (fun _ _ t => t.wait)) ∧
  (∀ x y : Nat, idBefore x y = true ↔ 1 ≤ (y + 2 ^ 48 - x) % 2 ^ 48 ∧ (y + 2 ^ 48 - x) % 2 ^ 48 ≤ 2 ^ 47)

/-! ## HBM controllers, reduction rounds and ports (R38–R42, R81, R336–R341) -/

/-- The peer device of a transfer is not reached when its port is down (R336). -/
def Sys2Proof.Machine.State.cutOff (s : State) (reach : List Nat) (t : Xfer) (d : Nat) : Bool :=
  (s.peerOf t d).any fun e => e.1 != Config.fabricId && !reach.contains e.1

/-- R38–R43: a controller serves the requests to one granule in their order, a deadline request of the earliest deadline before a normal one of its bank; a request that waited 8,192
cycles takes its own arrival as deadline (entry 73); a write reaches memory, but for a partial one of a bad granule, which is abandoned and reported; a scrub of an uncorrectable
granule poisons it and raises a machine check. -/
def Sys2Proof.Machine.Controllers : Prop :=
  (∀ (s : State) (ctl i j : Nat) (r : CtlReq), ctlChoice (s.ctl ctl) i = some j → (s.ctl ctl)[j]? = some r →
    ∃ s', exec (.controllerSelect ctl i) s = .next (if s'.ctlBusy (r.granule / 4) then s' else s'.retryHome (homeOfLine (r.granule / 4))) ∧
      s'.ctl ctl = (s.ctl ctl).eraseIdx j ∧ s'.hostMem = s.hostMem ∧ (∀ c, s'.core c = s.core c) ∧
      (r.write = [] ∨ 64 ≤ r.write.length ∨ s.bad r.granule = false → s'.mem = r.write.foldl (fun m e => m.write e.1 e.2) s.mem) ∧
      (0 < r.write.length → r.write.length < 64 → s.bad r.granule = true → s'.mem = s.mem ∧ Tbl.getD s'.poison r.granule false = true ∧
        (∃ l, s'.checks = s.checks ++ (if r.granule * 64 < 2 ^ 40 then dieOfStack (stackOf (r.granule * 64)) else 0, .granule r.granule) :: l) ∧
        ∀ x i t, r.origin = .xfer x i → XferAt s x t → ∃ t', XferAt s' x t' ∧ t'.err = if t.err.isSome then t.err else some 4) ∧
      (∀ x i t p va, r.origin = .xfer x i → r.write = [] → PieceOf s x i t p → p.phase = 1 → p.src = .global va →
        (∀ y ∈ (s.ctl ctl).eraseIdx j, y.origin ≠ r.origin) →
        let pa := r.granule / 4 * 256 + va % 256
        s.firstBad pa p.len = none → s.bad r.granule = false →
        ∃ t', PieceOf s' x i t' { p with data := s.bytesNow pa p.len, phase := 2, holes := [] })) ∧
  (∀ (q : List CtlReq) (i j : Nat) (r : CtlReq), ctlChoice q i = some j → q[j]? = some r →
    (∀ (j' : Nat) (r' : CtlReq), j' < j → q[j']? = some r' → r'.granule ≠ r.granule) ∧
    ∃ x ∈ q, x.granule = r.granule ∧
      ((∃ d, x.deadline = some d ∧ ∀ y ∈ q, ∀ e, y.deadline = some e → d ≤ e) ∨
       (q[i]? = some x ∧ x.deadline = none ∧ ∀ y ∈ q, y.deadline ≠ none → Config.bankOf y.granule ≠ Config.bankOf x.granule))) ∧
  (∀ (s : State) (ctl i : Nat) (r : CtlReq), (s.ctl ctl)[i]? = some r → r.deadline = none → r.promoted = false → r.arrived + 8192 ≤ s.tick →
    exec (.requestPromotion ctl i) s = .next ({ s with ctls := Tbl.insert s.ctls ctl ((s.ctl ctl).set i
      { r with deadline := some r.arrived, promoted := true }) }.event (unitPorter (ctl / 4)) 0x31)) ∧
  (∀ (s : State) (g : Nat), (Tbl.getD s.latent g false = false → exec (.patrolScrub g) s = .next s) ∧
    (Tbl.getD s.latent g false = true → ∃ s', exec (.patrolScrub g) s = .next s' ∧ Tbl.getD s'.poison g false = true ∧ Tbl.getD s'.latent g false = false ∧
      s'.checks = s.checks ++ [(if g * 64 < 2 ^ 40 then dieOfStack (stackOf (g * 64)) else 0, .granule g)] ∧ SameBytes s s'))

/-- R81, R208, R339, R341: once every member of a group has joined its oldest round, a chunk of it is the pairwise tree reduction of the members' bytes, and goes to each local member's
FAR; members that disagree end the round with GROUP, poison in one member's source ends it with POISON for every member (entry 80). -/
def Sys2Proof.Machine.Rounds : Prop :=
  (∀ (s : State) (e : Group) (r : Round) (ms : List (Nat × Nat × Xfer)), s.roundReady e r = some ms ↔
    ms.map (·.1) = e.locals ∧ ∀ m ∈ ms, Tbl.find? r.joined m.1 = some m.2.1 ∧ XferAt s m.2.1 m.2.2) ∧
  (∀ (s : State) (g q len rop rty : Nat) (r : Round) (rest : List Round) (ms : List (Nat × Nat × Xfer)) (remote : List (Nat × List Byte)),
    let e := s.group g
    e.rounds = r :: rest → s.roundReady e r = some ms → ms ≠ [] → (∀ i ∈ e.remotes, ∃ f ∈ r.far, f.1 = i) →
    ((∃ a ∈ ms.map (fun m => m.2.2.shape) ++ r.far.map (·.2), ∃ b ∈ ms.map (fun m => m.2.2.shape) ++ r.far.map (·.2), a ≠ b) →
      exec (.roundChunkFinal g q remote) s = .next (s.failRound g r 9)) ∧
    ((∀ m ∈ ms, m.2.2.shape = (len, rop, rty)) → (∀ f ∈ r.far, f.2 = (len, rop, rty)) →
      let chunks := Nat.max 1 ((len + 65535) / 65536)
      let lo := q * 65536
      let n := Nat.min 65536 (len - lo)
      q < chunks → q ∉ r.final → (∀ i ∈ e.remotes, ∃ b, Tbl.find? remote i = some b ∧ b.length = n) →
      ((∃ m ∈ ms, s.chunkOf m.2.2 lo n = none) → exec (.roundChunkFinal g q remote) s = .next (s.failRound g r 4)) ∧
      (∀ leaf : Nat → Option (List Byte), (∀ m ∈ ms, (leaf m.1).isSome = true ∧ leaf m.1 = s.chunkOf m.2.2 lo n) →
        (∀ i, i ∉ ms.map (·.1) → leaf i = Tbl.find? remote i) →
        let bytes := treeReduce (combBytes rop rty) ((List.range 64).map leaf)
        let rounds := if chunks ≤ r.final.length + 1 then rest else { r with final := r.final ++ [q] } :: rest
        exec (.roundChunkFinal g q remote) s = .next (ms.foldl (fun s m => s.chunkTo m.2.1 lo n bytes) (s.setGroup g { e with rounds := rounds }))))) ∧
  (∀ (s : State) (x lo n : Nat) (t : Xfer) (bytes : List Byte), XferAt s x t →
    let new := (piecesOf false 0 (t.far.skip lo) n).map fun p =>
      let d := (bytes.drop (p.near false)).take p.len
      { p with src := .fill d, data := d, phase := 2 }
    s.chunkTo x lo n bytes = (s.setXfer x { t with pieces := t.pieces ++ new, chunks := t.chunks + 1 }).settleXfer x) ∧
  (∀ (s : State) (g cause : Nat) (r : Round), let s' := s.failRound g r cause
    (s'.group g).rounds = (s.group g).rounds.filter (·.number != r.number) ∧ SameBytes s s' ∧
    ∀ x t, XferAt s x t → ((∃ j ∈ r.joined, j.2 = x) → XferAt s' x (t.failed cause)) ∧ ((∀ j ∈ r.joined, j.2 ≠ x) → XferAt s' x t)) ∧
  (∀ (f : List Byte → List Byte → List Byte) (a b c d : List Byte),
    treeReduce f ([some a, some b] ++ List.replicate 62 none) = f a b ∧
    treeReduce f ([some a, none, some c] ++ List.replicate 61 none) = f a c ∧
    treeReduce f ([some a, some b, some c, some d] ++ List.replicate 60 none) = f (f a b) (f c d)) ∧
  (∀ (rop rty i : Nat) (a b : List Byte), let n := rtyBytes rty
    i < a.length / n → ((combBytes rop rty a b).drop (n * i)).take n =
      leBytes n (rtyComb rop rty (leNat ((a.drop (n * i)).take n)) (leNat ((b.drop (n * i)).take n))))

/-- R38–R42, R81, R309, R336, R339–R341: controllers and rounds are as said above; a dead port or a member that no path reaches ends what needed it with LINK, and tells each core
with a transfer outstanding on the port once (entry 89: which transfers used it, where another path stays, is free). -/
def Obligations.ControllersAndRounds : Prop :=
  Controllers ∧ Rounds ∧
  (∀ (s : State) (port : Nat) (reach : List Nat), (Tbl.getD s.downPorts port false = true → exec (.peerPortFailure port reach) s = .next s) ∧
    (Tbl.getD s.downPorts port false = false → ∃ s', exec (.peerPortFailure port reach) s = .next s' ∧ Tbl.getD s'.downPorts port false = true ∧
      s'.log = s.log ++ [.port port false] ∧ SameBytes s s' ∧
      (∀ x t, XferAt s x t → XferAt s' x (if t.needsPeer (s.cutOff reach t) then t.failed 10 else t)) ∧
      (∀ c, (∀ x t, XferAt s x t → t.core = c → s.portDevices t = []) → (s'.core c).regs.pend = (s.core c).regs.pend) ∧
      (∀ x t, XferAt s x t → t.needsPeer (s.cutOff reach t) = true → (s.core t.core).regs.pend.length < 32 →
        ∃ y u d, XferAt s y u ∧ u.core = t.core ∧ d ∈ s.portDevices u ∧
          (s'.core t.core).regs.pend = (s.core t.core).regs.pend ++ [⟨0x24, w64 (port % 16 * 256 + d)⟩]))) ∧
  (∀ (s : State) (g : Nat), let e := s.group g
    (e.valid = true → (∃ m ∈ e.members, memberRemote m = true) → e.rounds ≠ [] →
      ∃ s', exec (.memberUnreachable g) s = .next s' ∧ (s'.group g).down = true ∧ (s'.group g).rounds = [] ∧ SameBytes s s' ∧
        (∀ x t, XferAt s x t → ((∃ r ∈ e.rounds, ∃ j ∈ r.joined, j.2 = x) → XferAt s' x (t.failed 10)) ∧
          ((∀ r ∈ e.rounds, ∀ j ∈ r.joined, j.2 ≠ x) → XferAt s' x t))) ∧
    (e.rounds = [] → exec (.memberUnreachable g) s = .next s))

/-! ## Maps (R109–R144) -/

/-- R113, R124–R142: a map instruction on a map whose descriptor is cached asks the home of its key's bucket (MSCAN and MSTAT the descriptor's home) and waits; its reply writes the
destination registers, the predicate and SR.MST; a vector form asks for each lane or each key, and reports the lanes that missed or failed in SR.MLANE (log entry
70, the model's choice, for when a monitor counts the instruction). -/
def Obligations.MapInstructions : Prop :=
  ((∀ f : MapForm,
    AsksMap (.mprobe f) f.g f.a f.d (some f.k) (fun _ _ _ m => groupOk m.key f.b = true ∧ groupOk m.vbytes f.d = true)
      (fun _ _ t m => ⟨.probe, t.number f.b m.key, 0, xWords m.vbytes, none⟩) ∧
    AsksMap (.minsert f) f.g f.a f.d (some f.k) (fun _ _ _ m => groupOk m.key f.b = true ∧ groupOk m.vbytes f.d = true)
      (fun _ _ t m => ⟨.insert, t.number f.b m.key, if m.rows then 0 else t.number f.d m.vbytes, 0, none⟩) ∧
    AsksMap (.mremove f) f.g f.a f.d (some f.k) (fun _ _ _ m => groupOk m.key f.b = true ∧ groupOk m.vbytes f.d = true)
      (fun _ _ t m => ⟨.remove, t.number f.b m.key, 0, xWords m.vbytes, none⟩) ∧
    AsksMap (.mcas f) f.g f.a f.d (some f.k)
      (fun _ _ _ m => m.vals ≠ 0 ∧ m.rows = false ∧ groupOk m.key f.b = true ∧ f.d.toNat % (2 * xWords m.vbytes) = 0)
      (fun _ _ t m => ⟨.cas, t.number f.b m.key,
        t.number f.d m.vbytes + 256 ^ m.vbytes * t.number (BitVec.ofNat 5 (f.d.toNat + xWords m.vbytes)) m.vbytes, xWords m.vbytes, none⟩) ∧
    (∀ off, AsksMap (.mrowget f) f.g f.a f.d (some f.k)
      (fun s c t m => m.rows = true ∧ groupOk m.key f.b = true ∧ (s.frame c t).rowPlace (t.reg f.d) m.rsize true = .ok off ∧ SpadSettled s c off m.rsize)
      (fun _ _ t m => ⟨.rowGet off, t.number f.b m.key, 0, 0, some off⟩)) ∧
    (∀ off, AsksMap (.mrowput f) f.g f.a f.d (some f.k)
      (fun s c t m => m.rows = true ∧ groupOk m.key f.b = true ∧ (s.frame c t).rowPlace (t.reg f.d) m.rsize true = .ok off ∧ SpadSettled s c off m.rsize ∧
        (s.core c).lcl.firstPoison off m.rsize = none)
      (fun s c t m => ⟨.rowPut ((s.core c).lcl.spad.readN off m.rsize), t.number f.b m.key, 0, 0, some off⟩)) ∧
    AsksMap (.mrepl f) f.g f.a f.d (some f.k)
      (fun _ _ t m => m.rows = true ∧ m.hotok = true ∧ groupOk m.key f.b = true ∧ (t.reg f.d).bits 63 1 = 0)
      (fun _ _ t m => ⟨.repl ((t.reg f.d).getLsbD 0), t.number f.b m.key, 0, 0, none⟩)) ∧
   (∀ f : MapOpForm,
    AsksMap (.mupsert f) f.g f.a f.d none (fun _ _ _ m => m.rows = false ∧ groupOk m.key f.b = true ∧ groupOk m.vbytes f.d = true)
      (fun _ _ t m => ⟨.upsert f.op, t.number f.b m.key, t.number f.d m.vbytes, 0, none⟩) ∧
    AsksLanes (.mupsertv f) f.g f.a f.b f.d none (.upsert f.op) true) ∧
   (∀ f : MapForm, AsksLanes (.mprobev f) f.g f.a f.b f.d (some f.k) .probe false ∧
    Traps (.mprobe f) f.g (fun _ _ t => (t.reg f.a).bits 63 32 ≠ 0) 0x07 (fun _ _ t => t.reg f.a))) ∧
  ((∀ (f : MapForm) (s : State) (c : Nat) (t : Task) (slot off : Nat) (m : MapDesc), Issues s c t → guardPasses f.g t = true → NamesMap s c t f.a slot m →
    let ask := fun (home : Nat) (s : State) (kind : MapKind) (bucket : Nat) (spad : Option Nat) (first : Bool) =>
      let r : MapReq := { req := s.requester c t, kind := kind, vec := false, map := mapRefOf s c t f.a slot, key := 0, hash := 0, bucket := bucket,
                          hops := 0, lanes := [(0, 0)], first := first }
      (s.send (.core c) (.slice home) .request (.mapReq r)).stalledOn c (s.core c) t
        (.map f.d (some f.k) 1 spad (t.reg f.a).toNat (s.core c).regs.cyc.toNat (s.latencyMask (unitCore c)))
    ((s.frame c t).rowPlace (t.reg (f.b + 1)) ((t.reg f.d).toNat * m.sbytes) false = .ok off → SpadSettled s c off ((t.reg f.d).toNat * m.sbytes) →
      exec (.mscan f) s = .next (ask (homeOf slot) s (.scan ((t.reg f.b).bits 31 0) ((t.reg f.b).bits 63 32) off (t.reg f.d).toNat)
        ((t.reg f.b).bits 31 0) (some off) true)) ∧
    (t.reg f.b = 0 → exec (.mstat f) s = .next (ask (homeOf slot) s (.stat 0) 0 none false)) ∧
    (∀ (item pa : Nat) (s1 : State), t.reg f.b = w64 item → (item = 1 ∧ m.ocap ≠ 0) ∨ (item = 2 ∧ m.rows = true) →
      s.engineTranslate c (s.core c).asidOf (s.core c).rootOf false true (if item = 1 then m.obase else m.rbase) = .ok pa s1 →
      exec (.mstat f) s = .next (ask (homeOf pa) s1 (.stat item) 0 none false)) ∧
    (3 ≤ (t.reg f.b).toNat ∨ (t.reg f.b = 1 ∧ m.ocap = 0) ∨ (t.reg f.b = 2 ∧ m.rows = false) → exec (.mstat f) s = .next (s.retire c ((s.core c).setMst (s.core c).inHi 1)
      ((t.setReg f.d 0).setPred f.k 0) (t.pc + 2))))) ∧
  ((∀ (s : State) (k c : Nat) (src : Endpoint) (hi vec : Bool) (hops : Nat) (a : LaneAns) (rest : List LaneAns) (lvl : Option (Nat × Nat)) (t : Task)
      (d : Reg) (p : Option PReg) (words : Nat) (spad : Option Nat) (handle start mask : Nat),
    Delivers s k src (.core c) (.mapReply hi vec hops (a :: rest) lvl) → TaskAt s c hi t → t.wait = .map d p words spad handle start mask →
    (a.fail = none → ∃ s', exec (.mapReply k) s = .next s' ∧
      TaskAt s' c hi { (t.setWords d (a.vals.take words)).setCode p a.code with wait := .none, pc := t.pc + 2, stalled := false } ∧
      ((s'.core c).bank hi).mst = w64 (Nat.min hops 255 * 256 + a.code) ∧ OtherCoresSame s s' c ∧
      (spad = none → SameBytes s s') ∧
      (∀ off, spad = some off → (s'.core c).lcl = (s.core c).lcl.writeSpad off ((a.vals.drop words).map (BitVec.ofNat 8)))) ∧
    (∀ tr, a.fail = some tr → ∃ s', exec (.mapReply k) s = .next s' ∧ TaskAt s' c hi { t with wait := .none, fail := some tr } ∧ SameBytes s s')) ∧
   (∀ (s : State) (k c : Nat) (src : Endpoint) (hi vec : Bool) (hops : Nat) (ans : List LaneAns) (lvl : Option (Nat × Nat)) (t : Task)
      (d : Reg) (p : Option PReg) (bytes vl owed : Nat) (got : List LaneAns) (most handle start mask : Nat),
    Delivers s k src (.core c) (.mapReply hi vec hops ans lvl) → TaskAt s c hi t → t.wait = .mapV d p bytes vl owed got most handle start mask →
    let s1 := (s.drop k).onCore c fun x => x.afterReply hi handle hops none
    (1 < owed → exec (.mapReply k) s = .next (s1.withTask c hi
      { t with wait := .mapV d p bytes vl (owed - 1) (got ++ ans.map LaneAns.whole) (Nat.max most hops) handle start mask })) ∧
    (owed ≤ 1 → exec (.mapReply k) s = .next ((s1.mapMonitor c start mask).mapVDone c d p bytes vl (Nat.max most hops) (got ++ ans.map LaneAns.whole)))) ∧
   (∀ (s : State) (c : Nat) (d : Reg) (p : Option PReg) (bytes vl hops : Nat) (got : List LaneAns) (i : Nat), i < 64 → (∀ a ∈ got, a.lane < 64) →
    ((((s.mapVDone c d p bytes vl hops got).core c).regs.mlane.getLsbD i = true ↔ ∃ a ∈ got, a.lane = i ∧ (a.code ≠ 0 ∨ a.fail.isSome = true))))) ∧
  ((∀ (b : Bool) (l : List (Nat × Nat × Nat)) (i key x : Nat), (i, key, x) ∈ l ↔ ∃ g ∈ laneGroups b l, g.1 = key ∧ (i, x) ∈ g.2) ∧
   (∀ l, ((laneGroups true l).map (·.1)).Nodup) ∧
   (∀ h l s, s < 2 ^ l → bucketOf h l s < 2 ^ l + s ∧ (bucketOf h l s) % 2 ^ l = h % 2 ^ l) ∧
   (∀ (op : MapOp) (old x : Nat), old < 2 ^ 64 → x < 2 ^ 64 →
     combineValue .add 8 old x = (old + x) % 2 ^ 64 ∧ combineValue .or 8 old x = old ||| x ∧ combineValue .and 8 old x = old &&& x ∧
     combineValue .replace 8 old x = x ∧ combineValue .keep 8 old x = old ∧
     combineValue .min 8 old x = (if signed 64 old ≤ signed 64 x then old else x) ∧ combineValue op 0 old x = 0))

/-- R113, R122, R127, R140, R141, R143, R144: at its bucket's home a request waits behind LOCK and earlier ones, is forwarded where the bucket's level sends its key, or executes
whole and is answered; a search finds an entry exactly when its chain has the key; replicas are filled, confirmed at the present version alone, withdrawn and acknowledged, and a
confirmed one answers row reads. -/
def Sys2Proof.Machine.MapHomes : Prop :=
  (∀ (s : State) (k h : Nat) (src : Endpoint) (m : MapReq), Delivers s k src (.slice h) (.mapReq m) → m.first = false → (∀ i, m.kind ≠ .stat i) →
    let s1 := s.drop k
    (∀ pa a, MapDoes s1 m.map (atBucket s h m) (.park pa) a →
      exec (.mapRequestArrival k) s = .next { a.s with parked := a.s.parked ++ [⟨⟨src, .slice h, ((s.packet? k).map (·.plane)).getD .request, .mapReq m⟩, some pa⟩] }) ∧
    (∀ b pa a, MapDoes s1 m.map (atBucket s h m) (.forward b pa) a →
      exec (.mapRequestArrival k) s = .next (a.s.send (.slice h) (.slice (homeOf pa)) .request (.mapReq { m with bucket := b, hops := m.hops + 1 }))) ∧
    (∀ ans a, MapDoes s1 m.map (atBucket s h m) (.reply ans false) a → (m.kind.withdraws = false ∨ s1.mark? h m.map.id m.key = none) →
      exec (.mapRequestArrival k) s = .next (((a.commit m.req.core).afterMap h m a.hot).mapAnswer h m ans none)) ∧
    (∀ ans a, MapDoes s1 m.map (atBucket s h m) (.reply ans true) a → (m.kind.withdraws = false ∨ s1.mark? h m.map.id m.key = none) →
      exec (.mapRequestArrival k) s = .next ((((a.commit m.req.core).afterMap h m a.hot).mapAnswer h m ans none).send (.slice h) (.slice (homeOf m.map.slot)) .request
        (.growth m.map))) ∧
    (∀ ans g a mark pa s2, MapDoes s1 m.map (atBucket s h m) (.reply ans g) a → m.kind.withdraws = true →
      s1.mark? h m.map.id m.key = some mark → mark.busy = false →
      s1.engineTranslate m.map.core m.map.asid m.map.root false true (a.d.bucketVa m.bucket) = .ok pa s2 →
      let s3 := s2.withdraw h m.map.id m.key
      exec (.mapRequestArrival k) s = .next { s3 with parked := s3.parked ++
        [⟨⟨src, .slice h, ((s.packet? k).map (·.plane)).getD .request, .mapReq m⟩, some pa⟩] }) ∧
    (∀ t, MapFails s1 m.map (atBucket s h m) t → m.kind.withdraws = false →
      exec (.mapRequestArrival k) s = .next (s1.mapAnswer h m (m.failed t) none))) ∧
  (∀ (s : State) (k h : Nat) (src : Endpoint) (m : MapReq) (d : MapDesc), Delivers s k src (.slice h) (.mapReq m) → m.kind = .stat 0 →
    (s.drop k).mapAt m.map = .ok d →
    exec (.mapRequestArrival k) s = .next ((s.drop k).mapAnswer h m
      [⟨0, 0, [d.s + d.l * 2 ^ 32 + (b2n d.split + 2 * b2n d.nogrow + 4 * b2n d.gstop) * 2 ^ 40], none⟩] (some (d.l, d.s)))) ∧
  (∀ (s : State) (k h item : Nat) (src : Endpoint) (m : MapReq) (bytes : List Byte) (a : Arena), Delivers s k src (.slice h) (.mapReq m) →
    m.kind = .stat item → item ≠ 0 →
    MapDoes (s.drop k) m.map (do let a ← get; arenaRead (if item = 1 then a.d.obase else a.d.rbase) 8) bytes a →
    exec (.mapRequestArrival k) s = .next (a.s.mapAnswer h m [⟨0, 0, [leNat bytes], none⟩] none)) ∧
  (∀ (s : State) (k q h : Nat) (src : Endpoint) (pl : Plane) (m : MapReq) (ans : List LaneAns) (a : Arena),
    s.parked[k]? = some ⟨⟨src, .slice h, pl, .mapReq m⟩, some q⟩ → (∀ j, j < k → ∀ x, s.parked[j]? = some x → x.bucket ≠ some q) →
    (m.kind.withdraws = false ∨ ∀ mark, s.mark? h m.map.id m.key = some mark → mark.busy = true ∧ mark.acks = 0) →
    MapDoes { s with parked := s.parked.eraseIdx k } m.map (mapAtBucket h m fun _ => false) (.reply ans false) a →
    exec (.mapQueuedExecute k) s = .next (((a.commit m.req.core).afterMap h m a.hot).mapAnswer h m ans none)) ∧
  (∀ (d : MapDesc) (f key : Nat) (chain : List Bkt),
    (∀ j i, findEntry d f key chain = some (j, i) → i < d.slots ∧ ∃ k, chain[j]? = some k ∧ k.has i = true ∧ k.key d i = key) ∧
    (findEntry d f key chain = none → ∀ k ∈ chain, ∀ i, i < d.slots → k.has i = true → k.num (16 + i) 1 = f → k.key d i ≠ key)) ∧
  (∀ (s : State) (k r map key ver : Nat) (src : Endpoint) (bytes : List Byte), Delivers s k src (.slice r) (.repFill map key ver bytes) →
    (∀ e ∈ (s.slice r).replicas, ¬ (e.map = map ∧ e.key = key)) → (s.slice r).replicas.length < 256 →
    exec (.replicaFill k) s = .next (((s.drop k).setSlice r { s.slice r with replicas := (s.slice r).replicas ++ [⟨map, key, ver, false, bytes⟩] }).send
      (.slice r) src .reply (.filled map key ver true))) ∧
  (∀ (s : State) (k h r map key ver : Nat) (m : HotMark), Delivers s k (.slice r) (.slice h) (.filled map key ver true) → s.mark? h map key = some m →
    m.ver = ver → m.busy = false →
    exec (.filledReply k) s = .next (((((s.drop k).onMark h map key fun m => { m with filling := m.filling.filter (· != dieOfCluster r) }).onMark h map key
      fun m => { m with dies := m.dies.filter (· != dieOfCluster r) ++ [dieOfCluster r] })).send (.slice h) (.slice r) .request (.repConfirm map key ver true))) ∧
  (∀ (s : State) (k h r map key ver : Nat) (room : Bool), Delivers s k (.slice r) (.slice h) (.filled map key ver room) → s.mark? h map key = none →
    exec (.filledReply k) s = .next ((s.drop k).send (.slice h) (.slice r) .request (.repConfirm map key ver false))) ∧
  (∀ (s : State) (k r map key : Nat) (src : Endpoint), Delivers s k src (.slice r) (.repInval map key) →
    exec (.replicaInvalidate k) s = .next (((s.drop k).setSlice r { s.slice r with replicas := (s.slice r).replicas.filter fun e => !(e.map == map && e.key == key) }).send
      (.slice r) src .reply (.invalAck map key))) ∧
  (∀ (s : State) (k h r map key : Nat), Delivers s k (.slice r) (.slice h) (.invalAck map key) →
    let e := dieOfCluster r
    exec (.invalidateAck k) s = .next (((s.drop k).onMark h map key fun m =>
      if m.busy then { m with acks := m.acks - 1 }
      else { m with acks := m.acks - 1, dies := m.dies.filter (· != e), filling := m.filling.filter (· != e) }).fillReplicas h map key)) ∧
  (∀ (s : State) (h map key : Nat), (∀ m, s.mark? h map key = some m → m.busy = true) → s.fillReplicas h map key = s) ∧
  (∀ (s : State) (k r dst : Nat) (src : Endpoint) (m : MapReq) (e : Replica), Delivers s k src (.slice r) (.mapReq m) → m.kind = .rowGet dst → m.first = true →
    (s.slice r).replicas.find? (fun e => e.map == m.map.id && e.key == m.key && e.confirmed) = some e →
    exec (.replicaRead k) s = .next ((s.drop k).mapAnswer r m [⟨0, 0, e.bytes.map BitVec.toNat, none⟩] none))

/-- R117, R121, R123: a map that may grow and does not is claimed for a split, with the descriptor as it stands; the home of bucket S locks it and asks for as many overflow buckets as its
chain has, or for none; the entries whose hash selects the new bucket move, once the replicas of moved hot keys are withdrawn, and both buckets open; the descriptor then advances to the next bucket, or to
the next level after the last one; a growth that fails stops further growth, gives its reservation back and raises a machine check (entry 66: a poisoned byte is such a failure). -/
def Sys2Proof.Machine.MapGrowth : Prop :=
  (∀ (s : State) (k : Nat) (src dst : Endpoint) (m : MapRef) (d : MapDesc), Delivers s k src dst (.growth m) → (s.drop k).mapAt m = .ok d →
    ((d.split = true ∨ d.nogrow = true ∨ d.gstop = true ∨ d.l = d.lmax) → exec (.growthRequest k) s = .next (s.drop k)) ∧
    (d.split = false → d.nogrow = false → d.gstop = false → d.l ≠ d.lmax → (s.drop k).ready [(m.slot, 64)] true = .ok →
      (∀ pa a, MapDoes (s.drop k) m (arenaPa (d.bucketVa d.s)) pa a →
        let s2 := a.s.engineWrite (m.slot + 1) [BitVec.ofNat 8 ((a.s.byteNow (m.slot + 1)).toNat ||| 1)]
        let x : Growth := { map := m, desc := leNat ((s.drop k).bytesNow m.slot 64), l := d.l, s := d.s, pa := pa, stage := 0, reserved := [] }
        exec (.growthRequest k) s = .next ({ s2 with growths := s2.growths ++ [x] }.send dst (.slice (homeOf pa)) .request
          (.splitCmd s2.growths.length))) ∧
      (∀ t, MapFails (s.drop k) m (arenaPa (d.bucketVa d.s)) t →
        exec (.growthRequest k) s = .next (((s.drop k).engineWrite (m.slot + 1) [BitVec.ofNat 8 (((s.drop k).byteNow (m.slot + 1)).toNat ||| 4)]).growthCheck
          (homeOf m.slot) m)))) ∧
  (∀ (s : State) (k g : Nat) (src dst : Endpoint) (x : Growth), Delivers s k src dst (.splitCmd g) → GrowthAt s g x →
    exec (.splitCommand k) s = .next ((s.drop k).setGrowth g { x with stage := 1 })) ∧
  (∀ (s : State) (g : Nat) (x : Growth) (chain : List Bkt) (a a1 : Arena), GrowthAt s g x → x.stage = 1 → s.bucketBusy x.pa = false →
    GrowthDoes s x (readChain x.s) chain a →
    (writeBkt ((bktAt chain 0).put 9 [BitVec.ofNat 8 ((bktAt chain 0).bfl ||| 3)])).run a = .ok ((), a1) →
    (chain.length = 1 → exec (.splitLock g) s = .next ((a1.commit x.map.core).setGrowth g { x with stage := 3 })) ∧
    (∀ pa a2, 1 < chain.length → (arenaPa a1.d.obase).run a1 = .ok (pa, a2) →
      exec (.splitLock g) s = .next (((a2.commit x.map.core).setGrowth g { x with stage := 2 }).send (.slice (homeOf x.pa)) (.slice (homeOf pa)) .request
        (.arenaAlloc g (chain.length - 1))))) ∧
  (∀ (s : State) (g : Nat) (x : Growth) (t : Trap), GrowthAt s g x → x.stage = 1 → s.bucketBusy x.pa = false → GrowthFails s x (readChain x.s) t →
    exec (.splitLock g) s = .next (s.growthFault g x) ∧
    ∃ l, (s.growthFault g x).checks = s.checks ++ l ++ [(dieOfCluster (homeOf x.pa), .mapGrowth x.map.handle)]) ∧
  (∀ (s : State) (k g n : Nat) (src dst : Endpoint) (x : Growth), Delivers s k src dst (.arenaAlloc g n) → GrowthAt s g x →
    let grab : AM (Option (List Nat)) := do let a ← get; reserveBuckets a.d n
    (∀ l a, GrowthDoes (s.drop k) x grab (some l) a →
      exec (.arenaAllocate k) s = .next ((a.commit x.map.core).setGrowth g { x with stage := 3, reserved := l })) ∧
    (∀ a, GrowthDoes (s.drop k) x grab none a →
      exec (.arenaAllocate k) s = .next ((a.s.setBfl x.pa fun b => maskClear b 3).splitReport g x false false)) ∧
    (∀ t, GrowthFails (s.drop k) x grab t → exec (.arenaAllocate k) s = .next ((s.drop k).growthFault g x))) ∧
  (∀ (a a' : Arena) (n : Nat) (l : List Nat), (reserveBuckets a.d n).run a = .ok (some l, a') → l.length = n) ∧
  (∀ (s : State) (k h g : Nat) (src : Endpoint) (x : Growth) (idx : List Nat), Delivers s k src (.slice h) (.arenaFree g idx) → GrowthAt s g x →
    let back : AM Unit := do let a ← get; for n in idx do arenaFree a.d.obase 256 n
    (∀ a, GrowthDoes (s.drop k) x back () a → exec (.arenaFree k) s = .next (a.commit x.map.core)) ∧
    (∀ t, GrowthFails (s.drop k) x back t → exec (.arenaFree k) s = .next ((s.drop k).growthCheck h x.map))) ∧
  (∀ (s : State) (g : Nat) (x : Growth), GrowthAt s g x → x.stage = 3 →
    (∀ back pa a, GrowthDoes s x (splitMove x) (back, pa) a →
      (s.movingMarks x a.d = [] → exec (.splitCreate g) s = .next (((a.commit x.map.core).giveBack g x pa back).splitReport g x true false)) ∧
      ((∃ k ∈ s.movingMarks x a.d, k.busy = false) → exec (.splitCreate g) s = .next ((s.movingMarks x a.d).foldl
        (fun s k => if k.busy then s else s.withdraw (homeOf x.pa) k.map k.key) s)) ∧
      ((∀ k ∈ s.movingMarks x a.d, k.busy = true) → (∃ k ∈ s.movingMarks x a.d, k.acks ≠ 0) → exec (.splitCreate g) s = .next s)) ∧
    (∀ t pa a, GrowthFails s x (splitMove x) t → GrowthDoes s x (do let a ← get; arenaPa a.d.obase) pa a →
      exec (.splitCreate g) s = .next ((a.s.giveBack g x pa x.reserved).growthFault g x))) ∧
  (∀ (s : State) (k g : Nat) (src dst : Endpoint) (x : Growth) (d : MapDesc) (fault : Bool), GrowthAt s g x → (s.drop k).mapAt x.map = .ok d →
    (s.drop k).ready [(x.map.slot, 64)] true = .ok →
    let old := ((s.drop k).byteNow (x.map.slot + 1)).toNat
    let ended := fun (f : Bool) => ((s.drop k).setGrowth g { x with stage := 5 }).engineWrite (x.map.slot + 1) [BitVec.ofNat 8 (maskClear old 1 ||| (if f then 4 else 0))]
    (Delivers s k src dst (.splitReport g false fault) → exec (.splitReport k) s = .next (ended fault)) ∧
    (Delivers s k src dst (.splitReport g true false) →
      exec (.splitReport k) s = .next (((ended false).engineWrite (x.map.slot + 7) [BitVec.ofNat 8 (if d.s + 1 = 2 ^ d.l then d.l + 1 else d.l)]).engineWrite
        (x.map.slot + 24) (leBytes 4 (if d.s + 1 = 2 ^ d.l then 0 else d.s + 1))))) ∧
  (∀ (d : MapDesc) (l s key : Nat), s < 2 ^ l → d.hash key % 2 ^ l = s → (moves d l s key = true ↔ bucketOf (d.hash key) l (s + 1) = s + 2 ^ l))

/-- R113, R117, R121–R123, R127, R140–R144: maps at their homes, replicas and growth. -/
def Obligations.MapHomesAndGrowth : Prop := MapHomes ∧ MapGrowth
/-! ## Coherence (R35, R36, R89–R95, R106) and translation (R61–R63, R320, R321, R328) -/

/-- The home may serve a request for a line of HBM in device bias at once: its slice holds the line, no error in its granules, no bias flip of its page, no
access of a controller to it, no recall or forward of it under way, and no earlier request waiting. -/
structure Sys2Proof.Machine.HomeFree (s : State) (line : Nat) : Prop where
  device : ∀ k, k < 4 → s.hostLine ((line * 4 + k) * 64) = false
  sound : ∀ k, k < 4 → s.bad (line * 4 + k) = false
  service : s.flipping line = false
  unlocked : s.locked line = false
  quiet : s.parked = []
  here : s.present line = true
  idle : s.ctlBusy line = false

/-- The state in which the home has recorded core `c` as registrant of the words of a mask, and answers the request with V and the
words' values (R91). -/
def Sys2Proof.Machine.State.granted (s : State) (line : Nat) (e : HomeLine) (c mask : Nat) (dst src : Endpoint) : State :=
  let ws := maskList 64 mask
  (s.setHome line { e with owner := ws.foldl (fun t w => Tbl.insert t w c) e.owner, granted := s.tick }).send dst src .reply
    (.regGrant line mask e.ver (ws.map fun w => (w, s.homeNum (line * 256 + 4 * w) 4)) 0)

/-- R36, R91, R93, R97: a registration request of words that no other core holds is granted with V and the words' values; a word of another core is recalled first and the request
waits; a host-tier sector that the device does not hold is asked of the host; a line that the slice does not hold is allocated and fetched first. -/
def Sys2Proof.Machine.RegistrationAtHome : Prop :=
  (∀ (s : State) (k c line mask va full : Nat) (dst : Endpoint) (e : HomeLine), Delivers s k (.core c) dst (.regReq line mask va full) →
    HomeFree s line → mask < 2 ^ 64 → s.home? line = some e → e.reclaim = false → (∀ o ∈ e.owner, mask.testBit o.1 = false) →
    exec (.registrationRequest k) s = .next ((s.drop k).granted line e c mask dst (.core c))) ∧
  (∀ (s : State) (k c line mask va full : Nat) (dst : Endpoint), Delivers s k (.core c) dst (.regReq line mask va full) →
    HomeFree s line → mask < 2 ^ 64 → s.home? line = none → (s.entriesOf (homeOfLine line)).length < Config.registryLines →
    exec (.registrationRequest k) s =
      .next (((s.drop k).setHome line HomeLine.new).granted line HomeLine.new c mask dst (.core c))) ∧
  (∀ (s : State) (k c d line mask va full w : Nat) (dst : Endpoint) (e : HomeLine), Delivers s k (.core c) dst (.regReq line mask va full) →
    HomeFree s line → mask < 2 ^ 64 → s.home? line = some e → e.reclaim = false →
    e.owner.filter (fun o => mask.testBit o.1) = [(w, d)] → e.late.length < 255 →
    ∃ p, s.packet? k = some p ∧
    exec (.registrationRequest k) s = .next ((((s.drop k).setHome line { e with recalling := [w] }).send
      (.slice (homeOfLine line)) (.core d) .request (.recall line (2 ^ w))).park p)) ∧
  (∀ (s : State) (k c line w va full : Nat) (dst : Endpoint), Delivers s k (.core c) dst (.regReq line (2 ^ w) va full) → w < 64 →
    s.flipping line = false → s.locked line = false → s.ctlBusy line = false → s.parked = [] → s.present line = true →
    s.hostLine ((line * 4 + w / 16) * 64) = true → s.hostState (line * 4 + w / 16) = .i → s.exchanges = [] →
    ∃ p, s.packet? k = some p ∧
    exec (.registrationRequest k) s = .next ({ s.drop k with exchanges := [{ sector := line * 4 + w / 16, own := true }] }.park p)) ∧
  (∀ (s : State) (k c line mask va full : Nat) (dst : Endpoint), Delivers s k (.core c) dst (.regReq line mask va full) →
    s.present line = false → line * 256 < 2 ^ 40 →
    ∃ p, s.packet? k = some p ∧ exec (.registrationRequest k) s = .next (((s.drop k).allocate line).park p)) ∧
  (∀ (s : State) (line : Nat), s.present line = false → (s.allocate line).present line = true ∧
    (line * 256 < 2 ^ 40 → FetchUnderWay (s.allocate line) line ∧ (s.allocate line).ctlBusy line = true)) ∧
  (∀ (s : State) (k : Nat), s.packet? k = none → exec (.registrationRequest k) s = .next s)

/-- R42, R91, R260: at the grant the L1 merges what the store did not write, holds the words, marks the written ones, and takes V as LV; a store to several words is performed when
none of them is pending, and until then other agents meet the old values; with a word's granule bad it gives the word up and POISON becomes pending, once for a store. -/
def Sys2Proof.Machine.GrantAtL1 : Prop :=
  (∀ (s : State) (k c line mask ver bad : Nat) (vals : List (Nat × Nat)) (src : Endpoint) (x : L1Line),
    Delivers s k src (.core c) (.regGrant line mask ver vals bad) → (s.core c).l1.line? line = some x →
    exec (.registrationGrant k) s = .next (((s.drop k).onL1 c fun l => l.setLine line
      { x.granted ver (maskClear mask bad) bad vals with hs := (List.range 4).map fun j => s.hostState (line * 4 + j) }).tellStores c
        ((maskList 64 bad).map fun w => Tbl.getD x.vas w 0))) ∧
  (∀ (s : State) (k c line mask ver bad : Nat) (vals : List (Nat × Nat)) (src : Endpoint),
    Delivers s k src (.core c) (.regGrant line mask ver vals bad) → (s.core c).l1.line? line = none →
    exec (.registrationGrant k) s = .next (s.drop k)) ∧
  (∀ (x : L1Line) (ver good bad : Nat) (vals : List (Nat × Nat)), let y := x.granted ver good bad vals
    y.pend = maskClear x.pend (good ||| bad) ∧ y.reg = x.reg ||| good ∧ y.lv = ver ∧ (vals = [] → y.data = x.data) ∧
    (∀ w, w < 64 → (y.drt.testBit w = true ↔ x.drt.testBit w = true ∨ (good.testBit w = true ∧ x.bytes / 2 ^ (4 * w) % 16 ≠ 0))) ∧
    (∀ u, u ∈ y.units ↔ u ∈ x.units ∧ u &&& y.pend ≠ 0)) ∧
  (∀ (x : L1Line) (ver w v : Nat), w < 64 → let y := x.granted ver (2 ^ w) 0 [(w, v)]
    (∀ o, y.byte o = (x.merge w v).byte o) ∧
    ((∃ u ∈ y.units, u.testBit w = true) → y.shown w = (v, false)) ∧
    ((∀ u ∈ y.units, u.testBit w = false) → y.shown w = (y.word w, y.drt.testBit w))) ∧
  (∀ (x : L1Line) (w v o : Nat), o / 4 = w →
    (x.merge w v).byte o = if x.pend.testBit w && x.bytes.testBit o then x.byte o else BitVec.ofNat 8 (v / 256 ^ (o % 4))) ∧
  (∀ (x : L1Line) (w v o : Nat), o / 4 ≠ w → (x.merge w v).byte o = x.byte o) ∧
  (∀ (s : State) (c va : Nat), s.tellStores c [va] = s.pending c 0x22 (w64 va) ∧ s.tellStores c [va, va] = s.pending c 0x22 (w64 va) ∧ s.tellStores c [] = s)

/-- R93, R260: the registrant answers a recall with the word's value, from its line or from a writeback buffer, and clears REG and DRT of nothing else; a word of a store that is not
performed yet is answered as it was, and asked for again; the home records the value, makes the word home-current, counts V, and the request that waited is granted. -/
def Sys2Proof.Machine.RecallAndAnswer : Prop :=
  (∀ (s : State) (k c line w : Nat) (src : Endpoint) (x : L1Line), Delivers s k src (.core c) (.recall line (2 ^ w)) → w < 64 →
    (s.core c).l1.line? line = some x → x.reg.testBit w = true →
    let y := { x with reg := maskClear x.reg (2 ^ w), drt := maskClear x.drt (2 ^ w), old := Tbl.erase x.old w }
    let left := fun (y : L1Line) => (s.drop k).onL1 c fun l => (l.setLine line y).dropMiss fun a j => a == line && j == w / 16
    (Tbl.find? x.old w = none →
      exec (.recall k) s = .next ((left y).send (.core c) src .reply
        (.recallAns line (if x.drt.testBit w then 2 ^ w else 0) [(w, Tbl.getD x.vas w 0)] [(w, x.word w)] []))) ∧
    (∀ v d, Tbl.find? x.old w = some (v, d) → let z := { y with pend := maskSet y.pend w }
      exec (.recall k) s = .next (((left z).send (.core c) src .reply
        (.recallAns line (if d then 2 ^ w else 0) [(w, Tbl.getD x.vas w 0)] [(w, v)] [])).send (.core c) (.slice (homeOfLine line)) .request
        (.regReq line (2 ^ w) (Tbl.getD x.vas w 0) (z.whole (2 ^ w)))))) ∧
  (∀ (s : State) (k c line w v : Nat) (d : Bool) (src : Endpoint) (b : WBuf), Delivers s k src (.core c) (.recall line (2 ^ w)) → w < 64 →
    (s.core c).l1.line? line = none → (s.core c).l1.buffer? line w = some b → b.words = [(w, v, d)] →
    exec (.recall k) s = .next (((s.drop k).onL1 c fun l =>
        { l with wb := l.wb.map fun y => if y.id = b.id then { y with words := y.words.filter (·.1 != w) } else y }).send (.core c) src .reply
      (.recallAns line (if d then 2 ^ w else 0) [(w, Tbl.getD b.vas w 0)] [(w, v)] [(w, b.ver)]))) ∧
  (∀ (s : State) (k c line w : Nat) (src : Endpoint), Delivers s k src (.core c) (.recall line (2 ^ w)) → w < 64 →
    (s.core c).l1.awaits line w = true → exec (.recall k) s = .next (s.heldBack k)) ∧
  (∀ (s : State) (k c line w v va : Nat) (late : Option Nat) (dst : Endpoint) (e : HomeLine),
    Delivers s k (.core c) dst (.recallAns line (2 ^ w) [(w, va)] [(w, v)] (match late with | none => [] | some lv => [(w, lv)])) → w < 64 →
    s.parked = [] → s.home? line = some e → e.reclaim = false → s.bad (4 * line + w / 16) = false →
    let t := (s.drop k).setHome line { e with
      owner := Tbl.erase e.owner w, ver := (e.ver + 1) % 256, recalling := e.recalling.filter (· != w),
      resent := e.resent.filter fun x => !(x.1 == c && x.2.1 == w),
      late := match late with | none => e.late | some lv => if e.resent.contains (c, w, lv) then e.late else e.late ++ [(c, w, lv)] }
    exec (.recallAnswer k) s = .next ((if late.isSome then t.event (unitSlice (homeOfLine line)) 0x13 else t).writeHome (line * 256 + 4 * w)
      (leBytes 4 v))) ∧
  (∀ (s : State) (k c d line w v va va' full : Nat) (dst dst' : Endpoint) (pl : Plane) (e : HomeLine),
    Delivers s k (.core c) dst (.recallAns line (2 ^ w) [(w, va)] [(w, v)] []) → w < 64 → s.home? line = some e → e.reclaim = false →
    e.owner = [(w, c)] → e.recalling = [w] → (∀ j, j < 4 → s.hostLine ((line * 4 + j) * 64) = false) →
    (∀ j, j < 4 → s.bad (4 * line + j) = false) → s.flipping line = false → s.ctlBusy line = false →
    s.parked = [{ pkt := { src := .core d, dst := dst', plane := pl, body := .regReq line (2 ^ w) va' full }, bucket := none }] →
    let e' : HomeLine := { e with owner := [], ver := (e.ver + 1) % 256, recalling := [], resent := e.resent.filter fun x => !(x.1 == c && x.2.1 == w) }
    let t := { (((s.drop k).setHome line e').writeHome (line * 256 + 4 * w) (leBytes 4 v)) with parked := [] }
    exec (.recallAnswer k) s = .next (t.granted line e' d (2 ^ w) dst' (.core d))) ∧
  (∀ (s : State) (k c line w v va : Nat) (dst : Endpoint) (e : HomeLine),
    Delivers s k (.core c) dst (.recallAns line 0 [(w, va)] [(w, v)] []) → w < 64 → s.parked = [] → s.home? line = some e → e.reclaim = true →
    e.owner = [(w, c)] → e.recalling = [w] → e.late = [] →
    ∃ t, exec (.recallAnswer k) s = .next t ∧ t.home? line = none ∧ t.mem = s.mem)

/-- R94, R95: a writeback with LV = V applies the words still registered to its writer; a stale one applies none and asks for those
again; both are acknowledged, and the acknowledgement frees the writer's buffer. -/
def Sys2Proof.Machine.Writebacks : Prop :=
  (∀ (s : State) (k c line id ver w v : Nat) (vas : Tbl Nat) (d : Bool) (dst : Endpoint) (e : HomeLine),
    Delivers s k (.core c) dst (.wback id line ver vas [(w, v, d)]) → w < 64 → s.flipping line = false → s.locked line = false →
    s.ctlBusy line = false → s.parked = [] → s.home? line = some e → e.reclaim = false →
    let late := e.late.erase (c, w, ver)
    let resent := e.resent.filter fun x => !(x.1 == c && w == x.2.1)
    (ver = e.ver → Tbl.find? e.owner w = some c → s.bad (4 * line + w / 16) = false →
      let t := (s.drop k).setHome line { e with owner := Tbl.erase e.owner w, late := late, resent := resent }
      exec (.writeback k) s = .next ((if d then t.writeHome (line * 256 + 4 * w) (leBytes 4 v) else t).send dst (.core c) .reply (.wbackAck id))) ∧
    (Tbl.find? e.owner w ≠ some c →
      exec (.writeback k) s = .next (((s.drop k).setHome line { e with late := late, resent := resent }).send dst (.core c) .reply (.wbackAck id))) ∧
    (Tbl.find? e.owner w = some c → ver ≠ e.ver →
      exec (.writeback k) s = .next ((((s.drop k).setHome line { e with late := late, resent := resent ++ [(c, w, ver)] }).send dst (.core c) .reply
        (.resend line e.ver (2 ^ w))).send dst (.core c) .reply (.wbackAck id)))) ∧
  (∀ (s : State) (k c line id ver : Nat) (vas : Tbl Nat) (words : List (Nat × Nat × Bool)) (dst : Endpoint),
    Delivers s k (.core c) dst (.wback id line ver vas words) → s.flipping line = false → s.locked line = false →
    s.ctlBusy line = false → s.parked = [] → s.home? line = none →
    exec (.writeback k) s = .next ((s.drop k).send dst (.core c) .reply (.wbackAck id))) ∧
  (∀ (s : State) (k c line ver w : Nat) (src : Endpoint) (x : L1Line), Delivers s k src (.core c) (.resend line ver (2 ^ w)) → w < 64 →
    (s.core c).l1.line? line = some x → x.reg.testBit w = true → Tbl.find? x.old w = none →
    let b : WBuf := { id := (s.core c).l1.clock, line := line, vas := [(w, Tbl.getD x.vas w 0)], ver := ver, words := [(w, x.word w, x.drt.testBit w)] }
    exec (.resendRequest k) s = .next (((s.drop k).onL1 c fun l =>
        { l.unregister line w with wb := l.wb ++ [b], clock := l.clock + 1 }).send (.core c) (.slice (homeOfLine line)) .bulk b.body)) ∧
  (∀ (s : State) (k c line ver w : Nat) (src : Endpoint), Delivers s k src (.core c) (.resend line ver (2 ^ w)) → w < 64 →
    (s.core c).l1.value? line w = none → exec (.resendRequest k) s = .next (s.drop k)) ∧
  (∀ (s : State) (k c id : Nat) (src : Endpoint), Delivers s k src (.core c) (.wbackAck id) →
    exec (.writebackAck k) s = .next ((s.drop k).onL1 c fun l => { l with wb := l.wb.filter (·.id != id) }))

/-- R91, R93–R95: registration, recall and writeback of words of HBM lines, at the home and at the L1s. -/
def Obligations.Registration : Prop := RegistrationAtHome ∧ GrantAtL1 ∧ RecallAndAnswer ∧ Writebacks

/-- R35, R36: a counted miss is counted; a line the filters remember is allocated, another is remembered by the active filter; the miss
that fills the period swaps the filters, and the newly active one starts empty. -/
def Sys2Proof.Machine.SecondTouch : Prop :=
  (∀ (s : State) (line : Nat), s.countsMiss line = true → s.swapsFilter line = false →
    let x := s.slice (homeOfLine line)
    let y := (s.countMiss line).slice (homeOfLine line)
    y.missCount = x.missCount + 1 ∧ y.activeB = x.activeB ∧
    (filterTest x.filterA line = true ∨ filterTest x.filterB line = true →
      y.present.contains line = true ∧ y.filterA = x.filterA ∧ y.filterB = x.filterB) ∧
    (filterTest x.filterA line = false → filterTest x.filterB line = false →
      y.present = x.present ∧ filterTest (if x.activeB then y.filterB else y.filterA) line = true) ∧
    FetchUnderWay (s.countMiss line) line) ∧
  (∀ (s : State) (line : Nat), s.swapsFilter line = true →
    let x := s.slice (homeOfLine line)
    let y := (s.countMiss line).slice (homeOfLine line)
    x.missCount = 65535 ∧ y.missCount = 0 ∧ y.activeB = !x.activeB ∧ (if y.activeB then y.filterB else y.filterA) = []) ∧
  (∀ (s : State) (line : Nat), s.countsMiss line = false → line * 256 < Config.hbmSize → s.countMiss line = s) ∧
  (∀ (s : State) (line : Nat), Config.hbmSize ≤ line * 256 → s.countMiss line = s.allocate line)

/-- The words of the sectors of a mask. -/
def Sys2Proof.Machine.wordsOf (sectors : Nat) : List Nat := (maskList 4 sectors).flatMap fun k => rangeFrom (16 * k) 16

/-- R35, R92: a sector request is answered with each word's value: the home's, or the registrant's, which the home asks for by a forward
and the registrant answers without releasing it; the L1 installs the sectors, leaving words registered to it. -/
def Obligations.SectorRequests : Prop :=
  SecondTouch ∧
  (∀ (s : State) (k c line sectors id : Nat) (dst : Endpoint), Delivers s k (.core c) dst (.missReq line sectors id [] false) → HomeFree s line →
    (∀ e, s.home? line = some e → ∀ o ∈ e.owner, sectors.testBit (o.1 / 16) = false) →
    exec (.loadMissRequest k) s = .next ((s.drop k).send dst (.core c) .reply
      (.fill line sectors id 0 ((wordsOf sectors).map fun w => (w, s.homeNum (line * 256 + 4 * w) 4)))) ∧ exec (.filterSwap k) s = .next s) ∧
  (∀ (s : State) (k c line sectors id : Nat) (dst : Endpoint) (got : List (Nat × Nat)) (asked : Bool),
    Delivers s k (.core c) dst (.missReq line sectors id got asked) → s.countsMiss line = true ∨ (s.present line = false ∧ s.ctlBusy line = true) →
    ∃ p, s.packet? k = some p ∧ let t := ((s.drop k).countMiss line).park p
      (s.swapsFilter line = false → exec (.loadMissRequest k) s = .next t ∧ exec (.filterSwap k) s = .next s) ∧
      (s.swapsFilter line = true → exec (.filterSwap k) s = .next t ∧ exec (.loadMissRequest k) s = .next s)) ∧
  (∀ (s : State) (k c d line sectors id w : Nat) (dst : Endpoint) (pl : Plane) (e : HomeLine),
    s.packet? k = some { src := .core c, dst := dst, plane := pl, body := .missReq line sectors id [] false } → HomeFree s line →
    s.home? line = some e → e.owner = [(w, d)] → w < 64 → sectors.testBit (w / 16) = true →
    exec (.loadMissRequest k) s = .next (((s.drop k).send dst (.core d) .request (.fwdReq line (2 ^ w))).park
      { src := .core c, dst := dst, plane := pl, body := .missReq line sectors id [] true })) ∧
  (∀ (s : State) (k c line mask : Nat) (src : Endpoint), Delivers s k src (.core c) (.fwdReq line mask) →
    ((∀ w ∈ maskList 64 mask, (s.core c).l1.awaits line w = false ∧ ((s.core c).l1.value? line w).isSome = true) →
      exec (.forwardRequest k) s = .next ((s.drop k).send (.core c) src .reply
        (.fwdAns line ((maskList 64 mask).map fun w => (w, ((s.core c).l1.value? line w).getD 0))))) ∧
    (∀ w ∈ maskList 64 mask, (s.core c).l1.awaits line w = true → exec (.forwardRequest k) s = .next (s.heldBack k))) ∧
  (∀ (s : State) (k c d line sectors id w v : Nat) (dst dst' : Endpoint) (pl : Plane) (e : HomeLine),
    Delivers s k (.core d) dst (.fwdAns line [(w, v)]) → w < 64 → s.home? line = some e → e.owner = [(w, d)] →
    (∀ j, j < 4 → s.hostLine ((line * 4 + j) * 64) = false) → (∀ j, j < 4 → s.bad (line * 4 + j) = false) → s.flipping line = false →
    s.parked = [{ pkt := { src := .core c, dst := dst', plane := pl, body := .missReq line sectors id [] true }, bucket := none }] →
    exec (.forwardAnswer k) s = .next ({ s.drop k with parked := [] }.send dst' (.core c) .reply (.fill line sectors id 0
      ((wordsOf sectors).map fun i => (i, if i = w then v else s.homeNum (line * 256 + 4 * i) 4))))) ∧
  (∀ (s : State) (k c line j id psn : Nat) (vals : List (Nat × Nat)) (src : Endpoint) (x : L1Line),
    Delivers s k src (.core c) (.fill line (2 ^ j) id psn vals) → j < 4 → (s.core c).l1.line? line = some x →
    (line, j, id) ∈ (s.core c).l1.missing →
    let y := vals.foldl (fun y v => if v.1 / 16 = j ∧ y.reg.testBit v.1 = false then y.merge v.1 v.2 else y) x
    exec (.sectorFill k) s = .next ((s.drop k).onL1 c fun l =>
      { l with missing := l.missing.filter fun m => !(m.1 == line && m.2.2 == id) }.setLine line { y with
        sv := x.sv ||| 2 ^ j, psn := maskClear x.psn (2 ^ j) ||| (psn &&& 2 ^ j),
        hs := (List.range 4).map fun i => s.hostState (line * 4 + i) })) ∧
  (∀ (s : State) (k c line sectors id psn : Nat) (vals : List (Nat × Nat)) (src : Endpoint),
    Delivers s k src (.core c) (.fill line sectors id psn vals) → (s.core c).l1.line? line = none →
    exec (.sectorFill k) s = .next ((s.drop k).onL1 c fun l =>
      { l with missing := l.missing.filter fun m => !(m.1 == line && m.2.2 == id) }))

/-- R106, R107, R93: an atomic at its home stores the new value, takes the requester's copy of the sector, and answers the old value; with
the words of another core registered they are recalled first; with a bad granule it stores nothing and fails with POISON. -/
def Obligations.AtomicsAtHome : Prop :=
  (∀ (s : State) (k c pa n va : Nat) (r : Requester) (op : Rmw) (dst : Endpoint), Delivers s k (.core c) dst (.amo r pa n va op) →
    0 < n → pa % 256 + n ≤ 256 → HomeFree s (lineOf pa) →
    (∀ e, s.home? (lineOf pa) = some e → ∀ o ∈ e.owner, (wordMask (lineOf pa) pa n).testBit o.1 = false) →
    let old := s.homeNum pa n
    let t := match op.new n old with
      | none => s.drop k
      | some v => (s.drop k).writeHome pa (leBytes n v)
    exec (.amoAtHome k) s = .next ((t.onL1 r.core fun l => l.clearSv (lineOf pa) ((sectorsOf (wordMask (lineOf pa) pa n)).foldl maskSet 0)).send
      dst (.core c) .reply (.reply r.hi (oldWords n old)))) ∧
  (∀ (s : State) (k c d pa n va w : Nat) (r : Requester) (op : Rmw) (dst : Endpoint) (e : HomeLine), Delivers s k (.core c) dst (.amo r pa n va op) →
    0 < n → pa % 256 + n ≤ 256 → HomeFree s (lineOf pa) → s.home? (lineOf pa) = some e →
    e.owner.filter (fun o => (wordMask (lineOf pa) pa n).testBit o.1) = [(w, d)] → e.late.length < 255 →
    ∃ p, s.packet? k = some p ∧
    exec (.amoAtHome k) s = .next ((((s.drop k).setHome (lineOf pa) { e with recalling := [w] }).send (.slice (homeOfLine (lineOf pa))) (.core d)
      .request (.recall (lineOf pa) (2 ^ w))).park p)) ∧
  (∀ (s : State) (k c pa n va : Nat) (r : Requester) (op : Rmw) (dst : Endpoint), Delivers s k (.core c) dst (.amo r pa n va op) →
    s.present (lineOf pa) = false → lineOf pa * 256 < 2 ^ 40 →
    ∃ p, s.packet? k = some p ∧ exec (.amoAtHome k) s = .next (((s.drop k).allocate (lineOf pa)).park p)) ∧
  (∀ (s : State) (k c pa n va a : Nat) (r : Requester) (op : Rmw) (dst : Endpoint), Delivers s k (.core c) dst (.amo r pa n va op) →
    0 < n → pa % 256 + n ≤ 256 → (∀ j, j < 4 → s.hostLine ((lineOf pa * 4 + j) * 64) = false) → s.flipping (lineOf pa) = false →
    s.locked (lineOf pa) = false → s.ctlBusy (lineOf pa) = false → s.present (lineOf pa) = true → s.parked = [] → s.home? (lineOf pa) = none →
    s.firstBad pa n = some a →
    exec (.amoAtHome k) s = .next (((s.drop k).detectAll pa n).send dst (.core c) .reply (.failed r.hi ⟨0x22, w64 (va + (a - pa))⟩)))

/-- A page-table entry at a physical address can be read now, and is `e`. -/
def Sys2Proof.Machine.EntryAt (s : State) (pa e : Nat) : Prop :=
  s.ready [(pa, 8)] false = .ok ∧ s.bad (pa / 64) = false ∧ leNat (s.bytesNow pa 8) = e

/-- A table entry that names the next-level table `t` of 32 KiB (R62). -/
def Sys2Proof.Machine.Names (s : State) (e t : Nat) : Prop :=
  e % 4 = 1 ∧ bitsOf e 63 52 = 0 ∧ bitsOf e 11 2 = 0 ∧ t = bitsOf e 51 12 * 2 ^ 12 ∧ t % 2 ^ 15 = 0 ∧ s.populated t 0x8000 = true

/-- A leaf entry of a page of `bits` offset bits (R62). -/
def Sys2Proof.Machine.LeafEntry (s : State) (e bits : Nat) : Prop :=
  e % 4 = 3 ∧ bitsOf e 63 58 = 0 ∧ bitsOf e 18 7 = 0 ∧ bitsOf e 51 19 * 2 ^ 19 % 2 ^ bits = 0 ∧
  s.populated (bitsOf e 51 19 * 2 ^ 19) (2 ^ bits) = true

/-- The translation that a leaf entry gives (R62, R320). -/
def Sys2Proof.Machine.leafTlb (e bits asid va : Nat) : TlbEntry :=
  { asid := asid, g := bitOf e 6, sz := bitsOf e 3 2, page := va / 2 ^ bits, ppn := bitsOf e 51 19, u := bitOf e 5, w := bitOf e 4 }

/-- R61–R63, R320, R321, R328: a walk reads one entry of each level, by VA[55:43], VA[42:31] and VA[30:19]; a leaf of level 2 maps 2 GiB, one of level 3 512 KiB or
32 MiB; an entry not present is rejected. The result is installed for every requester, or the requesters learn that it failed; a walk that
TLBINV overtook is walked again; TLBINV drops the matching entries of the TLBs in its scope. -/
def Obligations.Translation : Prop :=
  (∀ (s : State) (k : Nat) (w : Walk) (e1 t2 e2 t3 e3 bits : Nat), s.walks[k]? = some w → w.result = none → s.populated w.ptroot 0x10000 = true →
    EntryAt s (w.ptroot + 8 * bitsOf w.va 55 43) e1 → Names s e1 t2 → EntryAt s (t2 + 8 * bitsOf w.va 42 31) e2 → Names s e2 t3 →
    EntryAt s (t3 + 8 * bitsOf w.va 30 19) e3 → LeafEntry s e3 bits →
    (bitsOf e3 3 2 = 0 ∧ bits = 19) ∨ (bitsOf e3 3 2 = 1 ∧ bits = 25) →
    exec (.pageWalk k) s = .next { s with walks := s.walks.set k { w with result := some (some (leafTlb e3 bits w.asid w.va)) } }) ∧
  (∀ (s : State) (k : Nat) (w : Walk) (e1 t2 e2 : Nat), s.walks[k]? = some w → w.result = none → s.populated w.ptroot 0x10000 = true →
    EntryAt s (w.ptroot + 8 * bitsOf w.va 55 43) e1 → Names s e1 t2 → EntryAt s (t2 + 8 * bitsOf w.va 42 31) e2 → LeafEntry s e2 31 →
    bitsOf e2 3 2 = 2 →
    exec (.pageWalk k) s = .next { s with walks := s.walks.set k { w with result := some (some (leafTlb e2 31 w.asid w.va)) } }) ∧
  (∀ (s : State) (k : Nat) (w : Walk) (e1 : Nat), s.walks[k]? = some w → w.result = none → s.populated w.ptroot 0x10000 = true →
    EntryAt s (w.ptroot + 8 * bitsOf w.va 55 43) e1 →
    e1 % 2 = 0 ∨ (∃ t2 e2, Names s e1 t2 ∧ EntryAt s (t2 + 8 * bitsOf w.va 42 31) e2 ∧ e2 % 2 = 0) ∨
      (∃ t2 e2 t3 e3, Names s e1 t2 ∧ EntryAt s (t2 + 8 * bitsOf w.va 42 31) e2 ∧ Names s e2 t3 ∧
        EntryAt s (t3 + 8 * bitsOf w.va 30 19) e3 ∧ e3 % 2 = 0) →
    exec (.pageWalk k) s = .next { s with walks := s.walks.set k { w with result := some none } }) ∧
  (∀ (s : State) (k : Nat) (w : Walk) (e : TlbEntry), s.walks[k]? = some w → w.result = some (some e) → w.dead = false →
    exec (.tlbFill k) s = .next (w.who.foldl (fun s q => s.installTlb q.1 e) { s with walks := s.walks.eraseIdx k })) ∧
  (∀ (s : State) (c : Nat) (e : TlbEntry), e ∈ ((s.installTlb c e).core c).tlb ∧ e ∈ (s.installTlb c e).dtlb (dieOf c)) ∧
  (∀ (s : State) (k : Nat) (w : Walk), s.walks[k]? = some w → w.result = some none → w.dead = false →
    exec (.tlbFill k) s = .next (w.who.foldl (fun s q => s.onCore q.1 fun x => { x with walkFail := x.walkFail ++ [(q.2, w.va / 2 ^ 19)] })
      { s with walks := s.walks.eraseIdx k })) ∧
  (∀ (s : State) (k : Nat) (w : Walk) (r : Option TlbEntry), s.walks[k]? = some w → w.result = some r → w.dead = true →
    exec (.tlbFill k) s = .next { s with walks := s.walks.set k { w with result := none, dead := false } }) ∧
  (∀ (s : State) (k : Nat), s.walks[k]? = none → exec (.pageWalk k) s = .next s ∧ exec (.tlbFill k) s = .next s) ∧
  (∀ (f : TlbForm),
    Completes (.tlbinv f) 2 f.g (fun _ _ t => t.sup = true ∧ t.carried = false ∧ (t.reg f.b).toNat / 2 ^ 18 = 0 ∧ (t.reg f.b).getLsbD 17 = true)
      (fun s c t => s.tlbinv c f.scope fun e => (t.reg f.b).getLsbD 16 || e.asid == (t.reg f.b).toNat % 2 ^ 16 || e.g) (fun _ _ t => t) ∧
    (∀ va, Completes (.tlbinv f) 2 f.g (fun _ c t => t.sup = true ∧ t.carried = false ∧ (t.reg f.b).toNat / 2 ^ 18 = 0 ∧
        (t.reg f.b).getLsbD 17 = false ∧ decodeAddr c true (t.reg f.a).toNat 1 = .ok (.global va))
      (fun s c t => s.tlbinv c f.scope fun e =>
        ((t.reg f.b).getLsbD 16 || e.asid == (t.reg f.b).toNat % 2 ^ 16 || e.g) && e.page == va / 2 ^ pageBits e.sz) (fun _ _ t => t)) ∧
    Traps (.tlbinv f) f.g (fun _ _ t => t.sup = true ∧ t.carried = false ∧ (t.reg f.b).toNat / 2 ^ 18 ≠ 0) 0x01 (fun _ _ t => t.reg f.b)) ∧
  (∀ (s : State) (c : Nat) (sc : Scope) (drop : TlbEntry → Bool) (d : Nat) (e : TlbEntry), drop e = true →
    (sc = .core → d = c) → (sc = .cluster → d / 4 = c / 4) → e ∉ ((s.tlbinv c sc drop).core d).tlb)
/-! ## Host coherence, bias flips and links (R97, R99–R101, R150, R369) -/

/-- R97: what a snoop leaves of sector `g` in state `t` from state `s`: no word of it registered, and a host-tier sector back in the host's memory whole. -/
def Sys2Proof.Machine.GivenBack (s t : State) (g : Nat) : Prop :=
  (∀ e o, t.home? (g / 4) = some e → o ∈ e.owner → o.1 < 64 → o.1 / 16 ≠ g % 4) ∧
  (Config.hostTierPa ≤ g * 64 → ∀ i, i < 64 →
    t.hostMem.read (s.hostPa (g * 64) + i) = (s.pullBytes (g * 64) 64).byteNow (g * 64 + i))

/-- R97: a snoop for ownership takes the sector from every L1 and leaves I; one for sharing, of a sector in M or O, takes it from the L1s
with registered words and leaves S; others change nothing. -/
def Sys2Proof.Machine.Snoops : Prop :=
  (∀ (s : State) (pa : Nat), s.snoopable (pa / 64) = true → s.hostState (pa / 64) ≠ .i →
    ∃ t, exec (.hostSnoopOwnership pa) s = .next t ∧ t.hostState (pa / 64) = .i ∧ GivenBack s t (pa / 64) ∧
      (∀ c x, (t.core c).l1.line? (pa / 256) = some x → x.sv.testBit (pa / 64 % 4) = false) ∧
      (∀ g, g ≠ pa / 64 → t.hostState g = s.hostState g)) ∧
  (∀ (s : State) (pa : Nat), s.snoopable (pa / 64) = true → s.hostState (pa / 64) = .m ∨ s.hostState (pa / 64) = .o →
    ∃ t, exec (.hostSnoopSharing pa) s = .next t ∧ t.hostState (pa / 64) = .s ∧ GivenBack s t (pa / 64) ∧
      (∀ c x, c ∈ s.sectorOwners (pa / 64) → (t.core c).l1.line? (pa / 256) = some x → x.sv.testBit (pa / 64 % 4) = false) ∧
      (∀ g, g ≠ pa / 64 → t.hostState g = s.hostState g)) ∧
  (∀ (s : State) (pa : Nat),
    (s.snoopable (pa / 64) = false ∨ s.hostState (pa / 64) = .i → exec (.hostSnoopOwnership pa) s = .next s) ∧
    (s.snoopable (pa / 64) = false ∨ (s.hostState (pa / 64) ≠ .m ∧ s.hostState (pa / 64) ≠ .o) → exec (.hostSnoopSharing pa) s = .next s))

/-- R97, R44: an exchange that ends brings the sector in S, or in E when the host grants it or an ownership read asked for it; an ownership read of a sector held in S
brings no data; poisoned data poison the sector and raise a machine check. -/
def Sys2Proof.Machine.Exchanges : Prop :=
  (∀ (s : State) (k : Nat) (x : Exchange) (excl : Bool) (data : List Byte), s.exchanges[k]? = some x → s.parked = [] →
    s.hostState x.sector = .i → data.length = 64 →
    let t := { s with exchanges := s.exchanges.eraseIdx k }.writeHome (x.sector * 64) data
    let st : HostState := if x.own || excl then .e else .s
    exec (.cxlExchangeComplete k excl false data) s = .next (t.setHostState x.sector st) ∧
    exec (.cxlExchangeComplete k excl true data) s = .next (({ t with poison := Tbl.put false t.poison x.sector true }.machineCheck 0
      (.granule x.sector)).setHostState x.sector st)) ∧
  (∀ (s : State) (k : Nat) (x : Exchange) (excl poisoned : Bool) (data : List Byte), s.exchanges[k]? = some x → s.parked = [] →
    x.own = true → s.hostState x.sector = .s →
    exec (.cxlExchangeComplete k excl poisoned data) s = .next ({ s with exchanges := s.exchanges.eraseIdx k }.setHostState x.sector .e)) ∧
  (∀ (s : State) (k : Nat) (excl poisoned : Bool) (data : List Byte), s.exchanges[k]? = none →
    exec (.cxlExchangeComplete k excl poisoned data) s = .next s)

/-- R99, R330, R333: a host access of HBM in device bias is served at the homes, one in host bias when the device holds nothing of the
sector: a write recalls the words it touches and replaces the bytes, a read gets the registrants' values or the home's (R92), and of poison
nothing (R43). Writes are posted: one that must wait is kept, in order; a read comes after them. Past the populated memory there is
nothing to access. -/
def Sys2Proof.Machine.HostAccesses : Prop :=
  (∀ (s : State) (pa : Nat) (data : List Byte), data ≠ [] → pa % 64 + data.length ≤ 64 → pa + data.length ≤ Config.hbmSize →
    s.booting = false →
    (s.hostPosted = [] → s.bad (pa / 64) = false →
      (s.hostLine (pa / 64 * 64) = false ∧ s.ready [(pa / 64 * 64, 64)] true = .ok) ∨
        (s.hostLine (pa / 64 * 64) = true ∧ s.hostOwn (pa / 64) = true) →
      exec (.hostCxlMemAccess true pa 0 data) s = .next (s.hostStore pa data) ∧
      ∀ i, i < data.length → (s.hostStore pa data).mem.read (pa + i) = data.getD i 0) ∧
    (s.hostPosted ≠ [] ∨ (s.hostLine (pa / 64 * 64) = true ∧ s.hostOwn (pa / 64) = false) →
      exec (.hostCxlMemAccess true pa 0 data) s =
        .next { s with hostPosted := s.hostPosted ++ [(s.postedNext, pa, data)], postedNext := s.postedNext + 1 })) ∧
  (∀ (s : State) (n pa : Nat) (data : List Byte) (rest : List (Nat × Nat × List Byte)), s.hostPosted = (n, pa, data) :: rest →
    s.hostMay pa data.length true = .ok → s.hostAgain = { s.hostStore pa data with hostPosted := rest }) ∧
  (∀ (s : State) (pa n : Nat), 0 < n → pa % 64 + n ≤ 64 → pa + n ≤ Config.hbmSize → s.booting = false → s.hostPosted = [] →
    (s.hostLine (pa / 64 * 64) = false ∧ s.ready [(pa / 64 * 64, 64)] false = .ok) ∨
      (s.hostLine (pa / 64 * 64) = true ∧ s.hostOwn (pa / 64) = true) →
    (s.bad (pa / 64) = false → exec (.hostCxlMemAccess false pa n []) s = .next { s with hostGot := (rangeFrom pa n).map s.byteNow }) ∧
    (s.bad (pa / 64) = true → exec (.hostCxlMemAccess false pa n []) s = .next { s.detect (pa / 64) with hostGot := [] })) ∧
  (∀ (s : State) (pa n : Nat), 0 < n → pa % 64 + n ≤ 64 → pa + n ≤ Config.hbmSize →
    s.hostPosted ≠ [] ∨ (s.hostLine (pa / 64 * 64) = true ∧ s.hostState (pa / 64) ≠ .i) →
    exec (.hostCxlMemAccess false pa n []) s = .next s) ∧
  (∀ (s : State) (pa n : Nat) (data : List Byte), s.booting = false →
    (0 < n → Config.hbmSize < pa + n → exec (.hostCxlMemAccess false pa n data) s = .fault (.unpopulated pa)) ∧
    (data ≠ [] → Config.hbmSize < pa + data.length → exec (.hostCxlMemAccess true pa n data) s = .fault (.unpopulated pa))) ∧
  (∀ (s : State) (write : Bool) (pa n : Nat) (data : List Byte), s.booting = true → exec (.hostCxlMemAccess write pa n data) s = .next s)

/-- R100, R101: a marker takes the page's lines out of service at its home; with every home reached and the page quiet, the flip recalls every
registration of the page and clears its sectors in every L1; to device bias it then asks the host, with a snoop for ownership, for every
sector that the device does not hold for itself alone; when there is none it changes the bias and completes its command. -/
def Sys2Proof.Machine.Flips : Prop :=
  (∀ (s : State) (k page h : Nat) (src dst : Endpoint) (f : Flip), Delivers s k src dst (.flipMarker page h) → s.flips = [f] → f.page = page →
    f.arrived.contains h = false →
    exec (.flipMarker k) s = .next { s.drop k with flips := [{ f with arrived := f.arrived ++ [h] }] } ∧
    ∀ line, pageOfLine line = page → homeOfLine line = h →
      State.flipping { s.drop k with flips := [{ f with arrived := f.arrived ++ [h] }] } line = true) ∧
  (∀ (s : State) (page : Nat) (f : Flip), s.flips.find? (·.page == page) = some f → Config.numSlices ≤ f.arrived.length →
    s.cleanable page = true → s.parked = [] →
    let t := (s.clean fun line => pageOfLine line == page).renewPage page
    let r := { t with hostSectors := t.hostSectors.filter (fun e => pageOfLine (e.1 / 4) != page),
                      hostBias := Tbl.put false t.hostBias page f.toHost, flips := t.flips.erase f }
    (f.toHost = true ∨ t.hostsOf page = [] → exec (.biasFlipComplete page) s = .next (r.complete f.head 0 []) ∧
      Tbl.getD (r.complete f.head 0 []).hostBias page false = f.toHost) ∧
    (f.toHost = false → t.hostsOf page ≠ [] →
      ∃ u, exec (.biasFlipComplete page) s = .next u ∧ u = (t.hostsOf page).foldl (fun u g => u.exchange g true) t ∧
        ∀ g ∈ t.hostsOf page, ∃ x ∈ u.exchanges, x.sector = g)) ∧
  (∀ (s : State) (p : Nat → Bool) (line : Nat), p line = true →
    (∀ e, (s.clean p).home? line = some e → ∀ o ∈ e.owner, o.1 < 64 → Tbl.find? e.owner o.1 = none) ∧
    (∀ c x, ((s.clean p).core c).l1.line? line = some x → x.sv = 0)) ∧
  (∀ (s : State) (page : Nat), s.flips.find? (·.page == page) = none ∨ s.cleanable page = false →
    exec (.biasFlipComplete page) s = .next s)

/-- R97, R99–R101: the host's snoops, exchanges and accesses, and bias flips. -/
def Obligations.HostCoherence : Prop := Snoops ∧ Exchanges ∧ HostAccesses ∧ Flips

/-- R150, R369: probes and recovery steps count at their routers and change nothing else; replays of a link are counted while they fail in a row, and after
16 of them the link retrains, a mesh or UCIe link that fails retraining raising a machine check (a Hololel link, whose numbers begin at
0x10000 by log entry 32, raises none). -/
def Sys2Proof.Machine.Links : Prop :=
  (∀ (s : State) (r : Nat), exec (.bulkDeadlockProbe r) s = .next (s.event (unitRouter (r % 256)) 0x20)) ∧
  (∀ (s : State) (ring : List Nat), exec (.deadlockRecovery ring) s = .next (ring.foldl (fun s r => s.event (unitRouter (r % 256)) 0x21) s)) ∧
  (∀ (s : State) (u code : Nat), SameBytes s (s.event u code) ∧ (s.event u code).net = s.net ∧ ∀ c, (s.event u code).core c = s.core c) ∧
  (∀ (s : State) (link : Nat), ∃ t u, exec (.flitReplay link false) s = .next t ∧ exec (.flitReplay link true) s = .next u ∧
    Tbl.getD t.replays link 0 = 1 ∧ Tbl.getD u.replays link 0 = Tbl.getD s.replays link 0 + 1) ∧
  (∀ (s : State) (link : Nat) (ok : Bool), Tbl.getD s.replays link 0 < 16 → exec (.linkRetrain link ok) s = .next s) ∧
  (∀ (s : State) (link : Nat), 16 ≤ Tbl.getD s.replays link 0 →
    let t := { s with replays := Tbl.put 0 s.replays link 0 }
    exec (.linkRetrain link true) s = .next t ∧
    exec (.linkRetrain link false) s = .next (if link < 0x10000 then t.machineCheck (dieOfCluster (link % 256)) (.link link) else t))

/-! ## Commands of Ebpex (R334, R335) and pre-emption (R315–R318) -/

/-- A starting write finds its slot free and the device served, and sets no reserved bit; no earlier command on the same context has still to
take effect (R334, R368). -/
structure Sys2Proof.Machine.Starts (s : State) (h : CmdHead) (ctx : Option Nat) : Prop where
  slot : h.slot ≤ 15
  served : s.booting = false
  free : ∀ x, Tbl.find? s.slots h.slot = some x → x.running = false
  plain : h.reserved = false
  first : s.cmdBehind h ctx s.tick = false

/-- A command that has started waits in its slot, with nothing on its context before it (R334). -/
structure Sys2Proof.Machine.Continues (s : State) (h : CmdHead) (params : List Nat) (ctx : Option Nat) : Prop where
  slot : h.slot ≤ 15
  served : s.booting = false
  waits : ∃ x, Tbl.find? s.slots h.slot = some x ∧ x.running = true ∧ x.waits = some (h, params) ∧ s.cmdBehind h ctx x.since = false

/-- The head of a command whose first step is its starting write. -/
def Sys2Proof.Machine.startOf (i : Instr) : Option CmdHead :=
  match i with
  | .ctxcreate h _ _ _ | .ctxdestroy h _ | .codeload h _ _ _ _ | .runtimeload h _ _ _ _ _ _ _ _ => some h
  | .descset h _ _ _ | .preempt h _ _ _ | .restore h _ _ | .biasflip h _ _ | .groupset h _ _ _ _ => some h
  | .peerbind h _ _ _ _ _ | .monread h _ _ | .hosttier h _ _ | .patchload h _ _ _ _ | .events h _ => some h
  | .runtimecall h _ _ _ _ => some h
  | _ => none

/-- R334, R368: a starting write is ignored while its slot runs a command or a reset is under way; a reserved bit ends the command with BADCMD; one that
may not take effect yet runs in its slot, and takes effect when its turn comes; a completion reports its code and results, returns the tag, and
raises the slot's MSI-X vector when IRQ asks for it. -/
def Sys2Proof.Machine.CommandSlots : Prop :=
  (∀ (i : Instr) (h : CmdHead) (s : State), startOf i = some h →
    (15 < h.slot ∨ s.booting = true → exec i s = .next s) ∧
    (∀ x, Tbl.find? s.slots h.slot = some x → x.running = true → (∀ ps, x.waits ≠ some (h, ps)) → exec i s = .next s) ∧
    (h.slot ≤ 15 → s.booting = false → (∀ x, Tbl.find? s.slots h.slot = some x → x.running = false) → h.reserved = true →
      ∃ op ps ctx, exec i s = .next ((s.started h op ps ctx).complete h 1 []))) ∧
  (∀ (s : State) (h : CmdHead) (op : Nat) (ps : List Nat) (ctx : Option Nat) (g : State → CmdRes),
    (h.slot ≤ 15 → s.booting = false → (∀ x, Tbl.find? s.slots h.slot = some x → x.running = false) → h.reserved = false →
      s.cmdBehind h ctx s.tick = true → s.command h op ps ctx g = .next (s.started h op ps ctx)) ∧
    (Starts s h ctx → s.command h op ps ctx g = .next (match g (s.started h op ps ctx) with | .wait t => t | .did t => t)) ∧
    (Continues s h ps ctx → s.command h op ps ctx g = .next (match g s with | .wait t => t | .did t => t)) ∧
    (∀ x, h.slot ≤ 15 → Tbl.find? s.slots h.slot = some x → x.running = true → x.waits = some (h, ps) → s.cmdBehind h ctx x.since = true →
      s.command h op ps ctx g = .next s)) ∧
  (∀ (s : State) (h : CmdHead) (ctx : Option Nat) (since : Nat), s.cmdBehind h ctx since = true ↔
    ctx ≠ none ∧ ∃ e ∈ s.slots, e.1 ≠ h.slot ∧ e.2.running = true ∧ e.2.ctx = ctx ∧ e.2.since < since) ∧
  (∀ (s : State) (h : CmdHead) (code : Nat) (out : List Nat),
    Tbl.find? (s.complete h code out).slots h.slot = some { s.cmdSlot h.slot with
      running := false, code := code, tag := h.tag, irq := h.irq, out := out, waits := none, ctx := none } ∧
    (s.complete h code out).msix = (if h.irq then s.msix ||| 2 ^ h.slot else s.msix))

/-- R331, R332, R334, R368: what BAR0 reads as: STATUS of a command slot is its code, or 0x8000_0000 while it runs or a reset is under way; STATUS of a launch window
holds the result and, above it, the count of launches pushed; the reserved part reads as zero and ignores writes; no write is served during a
reset. What the host reads comes after its posted writes (R333). -/
def Sys2Proof.Machine.Bar0 : Prop :=
  (∀ (s : State) (go : W) (n j : Nat), n < 16 → j < 4 →
    s.barByte go (0x8000 + 256 * n + 4 + j) = BitVec.ofNat 8 (s.slotStatus n / 256 ^ j)) ∧
  (∀ (s : State) (n : Nat), s.slotStatus n = if s.booting = true ∨ (s.cmdSlot n).running = true then 0x80000000 else (s.cmdSlot n).code) ∧
  (∀ (s : State) (h : CmdHead) (op : Nat) (ps : List Nat) (ctx : Option Nat), (s.started h op ps ctx).slotStatus h.slot = 0x80000000) ∧
  (∀ (s : State) (go : W) (n j : Nat), n < 1024 → j < 8 →
    let w := s.window n
    s.barByte go (32 * n + j) = BitVec.ofNat 8 (w.arg0.toNat / 256 ^ j) ∧ s.barByte go (32 * n + 8 + j) = BitVec.ofNat 8 (w.arg1.toNat / 256 ^ j) ∧
    s.barByte go (32 * n + 24 + j) = BitVec.ofNat 8 ((w.result % 256 + 256 * (w.pushed % 2 ^ 56)) / 256 ^ j)) ∧
  (∀ (s : State) (go : W) (a : Nat), 0x9000 ≤ a → s.barByte go a = 0) ∧
  (∀ (s : State) (off : Nat) (bytes : List Byte), 0x9000 ≤ off ∨ s.booting = true → barWriteStep off bytes s = .next s) ∧
  (∀ (s : State) (off n : Nat), off + n ≤ 0x10000 →
    (s.hostPosted = [] → barReadStep off n s = .next { s.freeW.2 with hostGot := (rangeFrom off n).map (s.freeW.2.barByte s.freeW.1) }) ∧
    (s.hostPosted ≠ [] → barReadStep off n s = .next s)) ∧
  (∀ (s : State) (h : CmdHead), Starts s h none → unknownCommandStep h s = .next ((s.started h 0 [] none).complete h 1 []))

/-- R322, R335, R354: CTXCREATE gives a free CTXID, which is the ASID of the cores it names, and writes every slot of the table to zero; it is NORES with 64
contexts or a core in use, and FAULT when a slot has no page (log entry 45). -/
def Sys2Proof.Machine.Creating : Prop :=
  (∀ (h : CmdHead) (pt dt n : Nat) (areas : List (Nat × Nat)) (s : State), Starts s h none → areasOk areas = true → pt % 2 ^ 16 = 0 → pt < 2 ^ 52 →
    s.contexts.length < 64 → (∀ e ∈ areas, (s.core e.1).ctx = none) →
    let u := (s.started h 1 (pt :: dt :: areaParams areas) none).freeW
    let d := dtabOf (w64 dt)
    let walks := u.2.slotWalks n pt d
    u.2.newCtx u.1.toNat = some n → walksWait walks = none →
    ((mappedSlots walks).length = walks.length → u.2.ready ((mappedSlots walks).map fun pa => (pa, 64)) true = .ok →
      exec (.ctxcreate h pt dt areas) s = .next ((((areas.foldl (fun s e => s.onCore e.1 fun k => k.bind n pt d) u.2).zeroSlots (mappedSlots walks)).setContext n
        { state := .fresh, ptroot := pt, dtab := d.toNat, areas := areas, peers := [], preempt := none, moving := false }).complete h 0 [n])) ∧
    ((mappedSlots walks).length ≠ walks.length → exec (.ctxcreate h pt dt areas) s = .next (u.2.complete h 4 []))) ∧
  (∀ (s : State) (pa i : Nat), i < 64 → (s.zeroSlots [pa]).mem.read (pa + i) = 0) ∧
  (∀ (s : State) (k n : Nat), s.newCtx k = some n → s.context? n = none) ∧
  (∀ (k : Core) (n pt : Nat) (d : W), (k.bind n pt d).ctx = some n ∧ (k.bind n pt d).regs.asid = w64 n ∧ (k.bind n pt d).regs.ptroot = w64 pt ∧
    (k.bind n pt d).regs.dtab = d ∧ (k.bind n pt d).lo = none ∧ (k.bind n pt d).hi = none) ∧
  (∀ (h : CmdHead) (pt dt : Nat) (areas : List (Nat × Nat)) (s : State), Starts s h none → areasOk areas = true → pt % 2 ^ 16 = 0 → pt < 2 ^ 52 →
    64 ≤ s.contexts.length ∨ (∃ e ∈ areas, (s.core e.1).ctx ≠ none) →
    exec (.ctxcreate h pt dt areas) s = .next ((s.started h 1 (pt :: dt :: areaParams areas) none).complete h 3 []))

/-- The mapped slots of a context's table that hold a descriptor, by physical address. -/
def Sys2Proof.Machine.liveSlots (s : State) (ctx : Nat) (x : Context) : List Nat :=
  (mappedSlots (s.slotWalks ctx x.ptroot (w64 x.dtab))).filter fun pa => leNat (s.bytesNow pa 1) != 0

/-- R58, R335, R356: CTXDESTROY of a context that is not running and of which nothing is under way releases its slots and forgets it, and waits while
something is; a released slot's GEN is advanced, 4,095 to 1, and its KIND 0. -/
def Sys2Proof.Machine.Destroying : Prop :=
  (∀ (h : CmdHead) (ctx : Nat) (x : Context) (s : State), Starts s h (some ctx) → s.context? ctx = some x → x.state ≠ .running → x.preempt = none →
    let u := s.started h 2 [ctx] (some ctx)
    (u.ctxBusy ctx = true → exec (.ctxdestroy h ctx) s = .next u) ∧
    (u.ctxBusy ctx = false → walksWait (u.slotWalks ctx x.ptroot (w64 x.dtab)) = none →
      ((∃ pa ∈ liveSlots u ctx x, u.growing pa = true) → exec (.ctxdestroy h ctx) s = .next u) ∧
      ((∀ pa ∈ liveSlots u ctx x, u.growing pa = false) → u.ready ((liveSlots u ctx x).map fun pa => (pa, 64)) true = .ok →
        exec (.ctxdestroy h ctx) s =
          .next ((((liveSlots u ctx x).foldl (fun s pa => s.releaseSlot pa) u).forgetContext ctx).complete h 0 [])))) ∧
  (∀ (s : State) (ctx : Nat), (s.forgetContext ctx).context? ctx = none ∧ ∀ c, ((s.forgetContext ctx).core c).ctx ≠ some ctx) ∧
  (∀ w : Nat, let g := bitsOf w 27 16
    bitsOf (releasedWord w) 27 16 = (if g = 4095 then 1 else g + 1) ∧ bitsOf (releasedWord w) 7 0 = 0) ∧
  (∀ (h : CmdHead) (ctx : Nat) (s : State), Starts s h (some ctx) →
    s.context? ctx = none ∨ (∃ x, s.context? ctx = some x ∧ (x.state = .running ∨ x.preempt ≠ none)) →
    exec (.ctxdestroy h ctx) s = .next ((s.started h 2 [ctx] (some ctx)).complete h 2 []))

/-- The bytes that a command's parameter names: those in HBM as the device reads them, the others as the host's memory gives them (R335). -/
def Sys2Proof.Machine.State.param (s : State) (src : Nat) (given : List Byte) : List Byte :=
  s.bytesNow src (hbmPart src given.length) ++ given.drop (hbmPart src given.length)

/-- Those bytes can be read now, and none is poisoned. -/
def Sys2Proof.Machine.ParamSound (s : State) (src n : Nat) : Prop := s.hostReady src n false = .ok ∧ s.hostSound src n = true

/-- R52, R335, R342: a load of code reads the image at its parameter address and writes it to the instruction memory of every core of the rectangle
when each runs the context and no task of it; an image that cannot be read ends with FAULT; the runtime also needs both signatures, and sets SR.TVEC. -/
def Sys2Proof.Machine.LoadingCode : Prop :=
  (∀ (h : CmdHead) (ctx dst src : Nat) (r : Rect) (image : List HW) (s : State), Starts s h (some ctx) → loadOk r dst image.length = true →
    s.context? ctx ≠ none → (∀ c ∈ rectCores r, (s.core c).ctx = some ctx ∧ (s.core c).lo = none ∧ (s.core c).hi = none) →
    let given := image.flatMap fun w => leBytes 2 w.toNat
    let u := s.started h 3 (loadParams ctx r dst src image) (some ctx)
    (ParamSound u src given.length → exec (.codeload h ctx r dst ⟨src, image⟩) s =
      .next (((rectCores r).foldl (fun s c => s.onCore c fun k => k.writeImem (2 * dst) (u.param src given)) u).complete h 0 [])) ∧
    (u.hostReady src given.length false = .ok → u.hostSound src given.length = false → exec (.codeload h ctx r dst ⟨src, image⟩) s =
      .next ((u.detectAll src (hbmPart src given.length)).complete h 4 [])) ∧
    (∀ tvec digest, tvec < Config.imemHalfwords →
      let v := s.started h 4 (loadParams ctx r dst src image ++ [tvec, digest, 1, 1]) (some ctx)
      ParamSound v src given.length → exec (.runtimeload h ctx r dst tvec ⟨src, image⟩ digest true true) s =
      .next { ((rectCores r).foldl (fun s c => s.onCore c fun k =>
          let y := k.writeImem (2 * dst) (v.param src given)
          { y with regs := { y.regs with tvec := w64 tvec } }) v).complete h 0 [] with fw := { v.fw with runtimeDigest := digest } })) ∧
  (∀ (h : CmdHead) (ctx dst src : Nat) (r : Rect) (image : List HW) (s : State), Starts s h (some ctx) → loadOk r dst image.length = true →
    s.context? ctx = none ∨ (∃ c ∈ rectCores r, (s.core c).lo ≠ none ∨ (s.core c).ctx ≠ some ctx) →
    exec (.codeload h ctx r dst ⟨src, image⟩) s = .next ((s.started h 3 (loadParams ctx r dst src image) (some ctx)).complete h 2 [])) ∧
  (∀ (h : CmdHead) (ctx dst tvec src digest : Nat) (r : Rect) (image : List HW) (a b : Bool) (s : State), Starts s h (some ctx) →
    tvec < Config.imemHalfwords → (a && b) = false → exec (.runtimeload h ctx r dst tvec ⟨src, image⟩ digest a b) s =
      .next ((s.started h 4 (loadParams ctx r dst src image ++ [tvec, digest, b2n a, b2n b]) (some ctx)).complete h 5 [])) ∧
  (∀ (k : Core) (off : Nat) (bytes : List Byte),
    (∀ i, i < bytes.length → (k.writeImem off bytes).lcl.imem.read (off + i) = bytes.getD i 0) ∧
    (∀ a, a < off ∨ off + bytes.length ≤ a → (k.writeImem off bytes).lcl.imem.read a = k.lcl.imem.read a))

/-- Slot `n` of a live context's table lies at the physical address `pa`, and can be written with `heads` now. -/
structure Sys2Proof.Machine.SlotAt (s : State) (ctx : Nat) (x : Context) (n pa : Nat) (heads : List (Nat × Nat)) : Prop where
  named : s.context? ctx = some x
  alive : x.state ≠ .failed
  inTable : n < 2 ^ (w64 x.dtab).bits 4 0
  page : s.ctxParts ctx x.ptroot (slotVa (w64 x.dtab) n) 64 = .ok [(pa, 64)]
  ready : s.ready ((pa, 64) :: heads) true = .ok
  sound : s.bad (pa / 64) = false

/-- R58, R117, R118, R335, R354: DESCSET reads the descriptor at its parameter address, writes it to a free slot, and a map's arena headers to the context's
space, and answers the handle with the slot's GEN, 1 for a GEN of 0; a slot in use is NORES, a header without a page FAULT; DESCRELEASE advances GEN at once
and is reported when no operation on the slot is under way. -/
def Sys2Proof.Machine.DescriptorSlots : Prop :=
  (∀ (h : CmdHead) (ctx slot src pa : Nat) (x : Context) (desc : List Byte) (s : State), Starts s h (some ctx) → desc.length = 64 →
    let u := s.started h 5 (ctx :: slot :: src :: desc.map BitVec.toNat) (some ctx)
    let d := leNat (u.param src desc)
    let heads := (arenaHeaders d).map fun e => (u.ctxParts ctx x.ptroot e.1 e.2.length, e.2)
    let found := headParts heads
    let old := leNat (u.bytesNow pa 64)
    let gen := if bitsOf old 27 16 = 0 then 1 else bitsOf old 27 16
    ParamSound u src 64 → SlotAt u ctx x slot pa (found.flatMap Prod.fst) → (∀ e ∈ heads, ∀ t, e.1 ≠ .wait t) →
    (1 ≤ dfield d 0 1 → dfield d 0 1 ≤ 3 → dfield old 0 1 = 0 → (∀ e ∈ heads, e.1 ≠ .fail) →
      exec (.descset h ctx slot ⟨src, desc⟩) s = .next ((((found.foldl (fun s e => s.writeParts e.1 e.2) u).engineWrite pa
        (leBytes 64 (d / 2 ^ 28 * 2 ^ 28 + gen * 2 ^ 16 + d % 2 ^ 16))).forgetSlot pa).complete h 0 [slot * 4096 + gen])) ∧
    (1 ≤ dfield d 0 1 → dfield d 0 1 ≤ 3 → dfield old 0 1 = 0 → (∃ e ∈ heads, e.1 = .fail) →
      exec (.descset h ctx slot ⟨src, desc⟩) s = .next (u.complete h 4 [])) ∧
    (1 ≤ dfield d 0 1 → dfield d 0 1 ≤ 3 → dfield old 0 1 ≠ 0 → exec (.descset h ctx slot ⟨src, desc⟩) s = .next (u.complete h 3 [])) ∧
    (dfield d 0 1 = 0 ∨ 4 ≤ dfield d 0 1 → exec (.descset h ctx slot ⟨src, desc⟩) s = .next (u.complete h 1 []))) ∧
  (∀ d : Nat, let l := arenaHeaders d
    (dfield d 0 1 ≠ 1 → l = []) ∧
    (dfield d 0 1 = 1 → dfield d 40 4 ≠ 0 → ∃ e ∈ l, e.1 = dfield d 32 8 ∧ e.2.length = 256 ∧ leNat (e.2.take 4) = 0 ∧ leNat ((e.2.drop 4).take 4) = 1 ∧
      ∀ b ∈ e.2.drop 8, b = 0) ∧
    (dfield d 0 1 = 1 → dfield d 5 1 = 4 → ∃ e ∈ l, e.1 = dfield d 48 8 ∧ e.2.length = dfield d 60 2 ∧
      ∀ j, j < e.2.length → e.2[j]? = some (if j = 4 then 1 else 0))) ∧
  (∀ (h : CmdHead) (ctx slot src : Nat) (x : Context) (desc : List Byte) (s : State), Starts s h (some ctx) → s.context? ctx = some x →
    x.state ≠ .failed → 2 ^ (w64 x.dtab).bits 4 0 ≤ slot → desc.length = 64 →
    let u := s.started h 5 (ctx :: slot :: src :: desc.map BitVec.toNat) (some ctx)
    (ParamSound u src 64 → exec (.descset h ctx slot ⟨src, desc⟩) s = .next (u.complete h 1 [])) ∧
    (s.releases.find? (fun e => e.2.2 == h) = none →
      exec (.descrelease h ctx slot) s = .next ((s.started h 6 [ctx, slot] (some ctx)).complete h 1 []))) ∧
  (∀ (h : CmdHead) (ctx slot pa : Nat) (x : Context) (s : State), Starts s h (some ctx) → s.releases.find? (fun e => e.2.2 == h) = none →
    let u := s.started h 6 [ctx, slot] (some ctx)
    SlotAt u ctx x slot pa [] → exec (.descrelease h ctx slot) s =
      .next { (u.releaseSlot pa).begin h none with releases := s.releases ++ [(ctx, pa, h)] }) ∧
  (∀ (h : CmdHead) (ctx slot : Nat) (e : Nat × Nat × CmdHead) (s : State), s.releases.find? (fun e => e.2.2 == h) = some e →
    (s.slotBusy e.1 e.2.1 = true → exec (.descrelease h ctx slot) s = .next s) ∧
    (s.slotBusy e.1 e.2.1 = false →
      exec (.descrelease h ctx slot) s = .next ({ s with releases := s.releases.erase e }.complete h 0 [])))

/-- R45, R100, R311, R335, R336, R338, R341, R342, R365: the commands that write one table, or hand something to a core. -/
def Sys2Proof.Machine.TableCommands : Prop :=
  (∀ (h : CmdHead) (page : Nat) (b : Bool) (s : State), Starts s h none → page < 2 ^ 21 →
    let u := s.started h 9 [page, b2n b] none
    exec (.biasflip h page b) s = .next ((List.range 256).foldl (fun s i => s.send (.mgmt 0) (.slice i) .request (.flipMarker page i))
      { u.begin h none with flips := s.flips ++ [{ page := page, toHost := b, arrived := [], head := h }] })) ∧
  (∀ (h : CmdHead) (g slack : Nat) (v : Bool) (mem : List Nat) (s : State), Starts s h none → g < 4096 → slack < 4096 →
    (v = true → 2 ≤ mem.length ∧ mem.length ≤ 64) → (∀ m ∈ mem, m < 2 ^ 15) →
    let u := s.started h 10 (g :: b2n v :: slack :: mem) none
    ((s.group g).rounds = [] → exec (.groupset h g v slack mem) s = .next ((u.setGroup g
      { valid := v, down := false, slack := slack, members := mem, counts := [], rounds := [] }).complete h 0 [])) ∧
    ((s.group g).rounds ≠ [] → exec (.groupset h g v slack mem) s = .next u)) ∧
  (∀ (h : CmdHead) (ctx dev fabric peer : Nat) (x : Context) (s : State), Starts s h (some ctx) → s.context? ctx = some x → dev < 16 →
    let u := fun b => s.started h 11 [ctx, dev, fabric, peer, b2n b] (some ctx)
    exec (.peerbind h ctx dev fabric peer true) s =
      .next (((u true).setContext ctx { x with peers := Tbl.insert x.peers dev (fabric, peer) }).complete h 0 []) ∧
    exec (.peerbind h ctx dev fabric peer false) s = .next (((u false).setContext ctx { x with peers := Tbl.erase x.peers dev }).complete h 0 [])) ∧
  (∀ (h : CmdHead) (base size : Nat) (s : State), Starts s h none → size % 2 ^ 31 = 0 → size ≤ 2 ^ 44 →
    let u := s.started h 13 [base, size] none
    (s.contexts = [] → exec (.hosttier h base size) s = .next ({ u with hostBase := base, hostSize := size }.complete h 0 [])) ∧
    (s.contexts ≠ [] → exec (.hosttier h base size) s = .next (u.complete h 2 []))) ∧
  (∀ (h : CmdHead) (ver digest : Nat) (a b : Bool) (s : State), Starts s h none →
    let u := s.started h 14 [ver, digest, b2n a, b2n b] none
    (a = true → b = true → s.fw.patchVersion < ver → exec (.patchload h ver digest a b) s =
      .next ({ u with fw := { s.fw with patchVersion := ver, patchDigest := digest } }.complete h 0 [])) ∧
    (a = false ∨ b = false ∨ ver ≤ s.fw.patchVersion → exec (.patchload h ver digest a b) s = .next (u.complete h 5 []))) ∧
  (∀ (h : CmdHead) (n dst : Nat) (s : State), Starts s h none → n < 1664 → Config.hbmSize ≤ dst →
    exec (.monread h [n] dst) s =
      .next (((List.range 8).foldl (fun t m => t.hostWrite (dst + 0x100 * m) (s.monitor n m).bytes) (s.started h 12 [dst, n] none)).complete h 0 [])) ∧
  (∀ (h : CmdHead) (dst : Nat) (s : State), Starts s h none → Config.hbmSize ≤ dst →
    exec (.events h dst) s = .next (({ s.started h 15 [dst] none with log := [] }.hostWrite dst (s.log.flatMap fun e : LogEntry =>
      Config.eventBytes (LogEntry.code e).1 (LogEntry.code e).2.1 (LogEntry.code e).2.2)).complete h 0 [s.log.length])) ∧
  (∀ (h : CmdHead) (ctx c : Nat) (a0 a1 : W) (x : Context) (s : State), Starts s h (some ctx) → s.context? ctx = some x → x.state ≠ .failed →
    let u := s.started h 16 [ctx, c, a0.toNat, a1.toNat] (some ctx)
    ((s.core c).ctx = some ctx → exec (.runtimecall h ctx c a0 a1) s =
      .next (State.onCore { u.begin h none with runtimeCalls := s.runtimeCalls ++ [(h, c)] } c fun k => { k with calls := k.calls ++ [(h.slot, a0, a1)] })) ∧
    ((s.core c).ctx ≠ some ctx → exec (.runtimecall h ctx c a0 a1) s = .next (u.complete h 2 [])))

/-- R331–R335: BAR0, and the commands of Ebpex, but for pre-emption. -/
def Obligations.FirmwareCommands : Prop :=
  CommandSlots ∧ Creating ∧ Destroying ∧ LoadingCode ∧ DescriptorSlots ∧ TableCommands ∧ Bar0

/-- The save area of core `c` in a context's list. -/
def Sys2Proof.Machine.Context.area (x : Context) (c : Nat) : Nat := ((x.areas.find? fun e => e.1 == c).map (·.2)).getD 0

/-- R39, R317: what is saved at a host physical address: deadline requests of slack 256 at the controllers of HBM, one for each granule, or bytes of host memory at
once; a load asks the controllers with the same slack. -/
def Sys2Proof.Machine.SaveTraffic : Prop :=
  (∀ (s : State) (ctx a i : Nat) (bytes : List Byte) (bad : Nat → Bool), a % 64 = 0 → bytes.length % 64 = 0 → a + bytes.length ≤ Config.hbmSize →
    i < bytes.length / 64 → ∃ r ∈ (s.saveBytes ctx a bytes bad).ctl (controllerOf (a + 64 * i)),
      r.granule = a / 64 + i ∧ r.write = (List.range 64).map (fun j => (a + 64 * i + j, bytes.getD (64 * i + j) 0)) ∧
      r.deadline = some (s.tick + 256) ∧ r.origin = .save ctx (bad i)) ∧
  (∀ (s : State) (ctx a i : Nat) (bytes : List Byte) (bad : Nat → Bool), Config.hbmSize ≤ a → i < bytes.length →
    (s.saveBytes ctx a bytes bad).hostMem.read (a + i) = bytes.getD i 0) ∧
  (∀ (s : State) (ctx a n i : Nat), a % 64 = 0 → a + n ≤ Config.hbmSize → i < n / 64 →
    ∃ r ∈ (s.loadBytes ctx a n).ctl (controllerOf (a + 64 * i)), r.granule = a / 64 + i ∧ r.write = [] ∧ r.deadline = some (s.tick + 256))

/-- R315–R317: PREEMPT tells every core of the context; a core that has nothing left reports quiescent; an urgent one ends a task in an idempotent region with its
abort record; SAVE_COPY sends every core's image and takes it out of the context, and reports the context saved once that traffic is served. -/
def Sys2Proof.Machine.Preempting : Prop :=
  (∀ (h : CmdHead) (ctx : Nat) (urgent : Bool) (areas : List (Nat × Nat)) (x : Context) (s : State), Starts s h (some ctx) → s.context? ctx = some x →
    areasOk areas = true → x.preempt = none → x.moving = false →
    let u := s.started h 7 (ctx :: b2n urgent :: areaParams areas) (some ctx)
    let y : Context := { x with preempt := some (h, urgent), areas := areas ++ x.areas.filter fun e => !(areas.any fun a => a.1 == e.1) }
    (x.state = .fresh ∨ x.state = .running → exec (.preempt h ctx urgent areas) s =
      .next ((s.coresOf ctx).foldl (fun s c => s.onCore c fun k => { k with quiescing := true, quiet := false })
        ((u.setContext ctx y).begin h (some ctx)))) ∧
    (x.state = .saved ∨ x.state = .failed → exec (.preempt h ctx urgent areas) s = .next (u.complete h 2 []))) ∧
  (∀ (c ctx : Nat) (s : State), (s.core c).ctx = some ctx → (s.core c).stopped = false → (s.core c).quiesces = true → (s.core c).lo = none →
    (s.core c).hi = none → (s.core c).unack = 0 → (s.core c).l1.ungranted = false → (s.core c).sched.stealing = false → (s.core c).sched.held = 0 →
    s.openXfers c = [] → exec (.quiesce c) s = .next (s.onCore c fun k => { k with quiet := true })) ∧
  (∀ (c : Nat) (s : State), (s.core c).lo ≠ none ∨ (s.core c).hi ≠ none ∨ (s.core c).unack ≠ 0 ∨ (s.core c).l1.ungranted = true ∨
      (s.core c).sched.stealing = true ∨ (s.core c).sched.held ≠ 0 →
    exec (.quiesce c) s = .next s) ∧
  (∀ (c ctx : Nat) (s : State), (s.core c).ctx = some ctx → (s.core c).stopped = false → (s.core c).settled = true → s.openXfers c ≠ [] →
    (∀ d ∈ s.coresOf ctx, (s.core d).settled = true ∧ ∀ y ∈ s.openXfers d, s.inOpenRound y = true) →
    exec (.quiesce c) s = .next ((s.openRounds.filter fun r => r.2.joined.any fun j =>
      ((s.coresOf ctx).flatMap s.openXfers).contains j.2).foldl (fun s r => s.failRound r.1 r.2 9) s)) ∧
  (∀ (c : Nat) (t : Task) (s : State), (s.core c).lo = some t → s.mustAbort c = true → t.wait = .none → t.skip = false → t.late = [] →
    t.bytewise = none → (s.core c).vu.fault = none → (s.core c).vu.viq = [] →
    exec (.idemAbort c) s = .next ((((s.onCore c fun k => k.onTask false fun t => { t with wait := .none, fail := none, stalled := false }).onCore c fun k =>
      { k.dropStream with abortRec := some t })).endTask c false)) ∧
  (∀ (c : Nat) (s : State), s.mustAbort c = false → exec (.idemAbort c) s = .next s) ∧
  (∀ (ctx : Nat) (h : CmdHead) (urgent : Bool) (x : Context) (s : State), s.context? ctx = some x → x.preempt = some (h, urgent) →
    (x.moving = false → (∀ c ∈ s.coresOf ctx, (s.core c).quiet = true ∧ (s.core c).stopped = false ∧
        (x.areas.find? fun e => e.1 == c).isSome = true ∧ s.areaReady (x.area c) (s.core c).liveGranules true = true) → s.runtimeCalls = [] →
      let saved := (s.coresOf ctx).foldl (fun (s : State) c => s.saveCore ctx c (x.area c)) s
      let left : State := { (s.coresOf ctx).foldl (fun (s : State) c => s.onCore c Core.unbound) saved with runtimeCalls := [] }
      exec (.saveCopy ctx) s = .next (left.setContext ctx { x with moving := true })) ∧
    (x.moving = false → (∃ c ∈ s.coresOf ctx, (s.core c).quiet = false) → exec (.saveCopy ctx) s = .next s) ∧
    (x.moving = true → s.saving ctx = true → exec (.saveCopy ctx) s = .next s) ∧
    (x.moving = true → s.saving ctx = false → exec (.saveCopy ctx) s =
      .next ((s.setContext ctx { x with state := .saved, preempt := none, moving := false }).complete h 0 []))) ∧
  (∀ (k : Core) (c : Nat),
    let b := assemble 0 (k.imagePieces c)
    leNat (b.take 4) = 1 ∧ leNat ((b.drop 4).take 2) = c % 2 ^ 16 ∧ leNat ((b.drop 0x10).take 8) = k.regs.live.toNat ∧
    leNat ((b.drop 0x40).take 8) = (k.handler 0).toW.toNat ∧ k.unbound.ctx = none ∧ k.unbound.lo = none ∧ k.unbound.regs.cyc = k.regs.cyc ∧
    k.unbound.lcl.spad = k.lcl.spad)

/-- R318: RESTORE asks for the images of a saved context, waits until that traffic is served, and then restores every core; an image of another
format, or one that cannot be read, is FAULT; a core in use NORES. -/
def Sys2Proof.Machine.Restoring : Prop :=
  (∀ (h : CmdHead) (ctx c area : Nat) (x : Context) (s : State), Starts s h (some ctx) → s.context? ctx = some x → x.state = .saved →
    x.moving = false → areasOk [(c, area)] = true →
    let u := s.started h 8 [ctx, c, area] (some ctx)
    ((s.core c).ctx = none → u.areaReady area (u.imageLive area) false = true → exec (.restore h ctx [(c, area)]) s =
      .next (((u.imageLive area).foldl (fun s g => s.loadBytes ctx (area + 0x5000 + 0x1000 * g) 0x1000) (u.loadBytes ctx area 0x5000)).setContext ctx
        { x with moving := true })) ∧
    ((s.core c).ctx ≠ none → exec (.restore h ctx [(c, area)]) s = .next (u.complete h 3 []))) ∧
  (∀ (h : CmdHead) (ctx c area : Nat) (x : Context) (s : State), Continues s h [ctx, c, area] (some ctx) → s.context? ctx = some x → x.state = .saved →
    x.moving = true → areasOk [(c, area)] = true → s.areaReady area (s.imageLive area) false = true →
    (s.saving ctx = true → exec (.restore h ctx [(c, area)]) s = .next s) ∧
    (s.saving ctx = false → (s.core c).ctx = none →
      (leNat (s.hostRead area 4) = 1 → s.hostSound area 0x5000 = true → exec (.restore h ctx [(c, area)]) s =
        .next (((s.restoreCore ctx c area).setContext ctx { x with state := .running, areas := [(c, area)], moving := false }).complete h 0 [])) ∧
      (leNat (s.hostRead area 4) ≠ 1 ∨ s.hostSound area 0x5000 = false → exec (.restore h ctx [(c, area)]) s =
        .next ((s.setContext ctx { x with moving := false }).complete h 4 [])))) ∧
  (∀ (s : State) (ctx c area : Nat),
    let b := s.hostRead area 0x5000
    let word := fun (o : Nat) => leNat ((b.drop o).take 8)
    let k := (s.restoreCore ctx c area).core c
    k.ctx = some ctx ∧ k.lo = none ∧ k.hi = none ∧ k.regs.live = w64 (word 0x10) ∧ k.regs.asid = w64 (word 0x1D0) ∧
    k.regs.ptroot = w64 (word 0x1D8) ∧ k.bankLo.rng = w64 (word 0x188) ∧ k.regs.cap = w64 (word 0x1E0) ∧ k.regs.cyc = (s.core c).regs.cyc ∧
    k.regs.tstat = Regs.reset.tstat ∧ k.dcache = [] ∧ k.vu = Core.reset.vu ∧ k.unack = 0)

/-- R39, R315–R318, R341: pre-emption, the save and the restore of a context. -/
def Obligations.PreemptionAndRestore : Prop := Preempting ∧ SaveTraffic ∧ Restoring

/-! ## Delivery of traps, machine checks, attestation, power and resets (R309–R314, R305, R335, R342, R343, R366–R369) -/

/-- R309–R311: a pending trap is taken at a boundary of the task that holds the core, the oldest first; on a core without a task in a fresh LO bank; a service call,
in such a bank with its arguments in X10 and X11, when no trap is pending. -/
def Sys2Proof.Machine.Delivery : Prop :=
  (∀ (s : State) (c : Nat) (t : Task) (p : Trap) (rest : List Trap), let k := s.core c
    k.task? = some t → k.regs.pend = p :: rest → k.ctx ≠ none → k.stopped = false → k.quiesces = false → k.regs.inTrap = false →
    t.wait = .none → t.fail = none → t.stalled = false →
    exec (.pendingTrapDelivery c) s = .next (takeTrap (s.onCore c fun k => { k with regs := { k.regs with pend := rest } }) c k.inHi t p.code p.v
      (trapPc t t.pc) false false)) ∧
  (∀ (s : State) (c : Nat), (s.core c).regs.inTrap = true ∨ (s.core c).quiesces = true ∨ (s.core c).regs.pend = [] →
    exec (.pendingTrapDelivery c) s = .next s ∧ exec (.tasklessTrapDelivery c) s = .next s) ∧
  (∀ (s : State) (c : Nat) (p : Trap) (rest : List Trap), let k := s.core c
    k.regs.pend = p :: rest → k.idle = true →
    let t := Task.enter false 0 0 []
    exec (.tasklessTrapDelivery c) s =
      .next (takeTrap (s.setCore c ({ k with regs := { k.regs with pend := rest } }.enterLo t)) c false t p.code p.v 0 true false)) ∧
  (∀ (s : State) (c n : Nat) (a0 a1 : W) (rest : List (Nat × W × W)), let k := s.core c
    k.calls = (n, a0, a1) :: rest → k.idle = true → k.regs.pend = [] →
    ∃ t, exec (.serviceCall c) s = .next (takeTrap (s.setCore c ({ k with calls := rest }.enterLo t)) c false t 0 0 0 true false) ∧
      t.service = true ∧ ∀ x : Reg, t.reg x = if x = 10 then a0 else if x = 11 then a1 else 0) ∧
  (∀ (s : State) (c : Nat), (s.core c).regs.pend ≠ [] ∨ (s.core c).lo ≠ none ∨ (s.core c).hi ≠ none → exec (.serviceCall c) s = .next s)

/-- R309: an asynchronous trap joins the core's list of 32, or is lost and LOST is set. -/
def Sys2Proof.Machine.Pending : Prop :=
  ∀ (s : State) (c code : Nat) (v : W), let r := (s.core c).regs
    ((s.pending c code v).core c).regs = (if r.pend.length < 32 then { r with pend := r.pend ++ [⟨code, v⟩] } else { r with lost := true }) ∧
    OtherCoresSame s (s.pending c code v) c ∧ SameBytes s (s.pending c code v)

/-- R313, R314, R329: a task whose count has reached SR.BUDGET takes WDOG with the limit when no wait holds its boundary; a WAIT ends after its cycles, or early for a
pending trap. -/
def Sys2Proof.Machine.Expiries : Prop :=
  (∀ (s : State) (c : Nat) (t : Task), (s.core c).lo = some t → (s.core c).hi = none → (s.core c).ctx ≠ none → (s.core c).stopped = false →
    (s.core c).regs.inTrap = false → (s.core c).regs.budget ≠ 0 → (s.core c).regs.budget ≤ t.count → (s.core c).vu.viq = [] →
    (t.wait = .none ∧ t.skip = false ∧ t.bytewise = none) ∨ (∃ n, t.wait = .cycles n) →
    let u : Task := { t with wait := .none, fail := none, stalled := false }
    exec (.watchdogExpiry c) s = .next (takeTrap (s.withTask c false u) c false u 0x0B (w64 (s.core c).regs.budget) (trapPc t t.pc) false false)) ∧
  (∀ (s : State) (c : Nat) (t : Task), (s.core c).task? = some t → (s.core c).overBudget t = false → exec (.watchdogExpiry c) s = .next s) ∧
  (∀ (k : Core) (t : Task), k.overBudget t = true ↔ k.regs.budget ≠ 0 ∧ k.regs.budget ≤ t.count ∧ k.regs.inTrap = false) ∧
  (∀ (s : State) (c n : Nat) (t : Task), (s.core c).lo = some t → (s.core c).hi = none → t.wait = .cycles n →
    (n = 0 ∨ ((s.core c).regs.inTrap = false ∧ (s.core c).regs.pend ≠ []) → exec (.waitExpiry c) s =
      .next (s.withTask c false { t with wait := .none, pc := t.pc + 2, stalled := false })) ∧
    (n ≠ 0 → (s.core c).regs.pend = [] → exec (.waitExpiry c) s = .next s))

/-- R305, R335, R369: a machine check is logged; one that names a core fails its context, whose other cores are told to stop; each stops then; the end of service fails
every context; a parity error stops its core. -/
def Sys2Proof.Machine.Checks : Prop :=
  (∀ (s : State) (i die : Nat) (m : MCheck), s.checks[i]? = some (die, m) →
    let t := { s with checks := s.checks.eraseIdx i, log := s.log ++ [LogEntry.check die m] }
    (∀ c code v pc x, m = .doubleTrap c code v pc → (s.core c).ctx = some x → exec (.machineCheck i) s = .next (t.failContext die x)) ∧
    (∀ c x, m = .parity c → (s.core c).ctx = some x → exec (.machineCheck i) s = .next (t.failContext die x)) ∧
    (∀ g, m = .granule g → exec (.machineCheck i) s = .next t) ∧ (∀ n, m = .link n → exec (.machineCheck i) s = .next t) ∧
    (m = .power → exec (.machineCheck i) s =
      .next { (s.contexts.map (·.1)).foldl (fun (u : State) x => u.failContext die x) t with ended := true })) ∧
  (∀ (s : State) (i : Nat), s.checks[i]? = none → exec (.machineCheck i) s = .next s) ∧
  (∀ (s : State) (die ctx : Nat) (x : Context), s.context? ctx = some x → x.preempt = none → s.runtimeCalls = [] →
    s.failContext die ctx = (s.coresOf ctx).foldl (fun (u : State) c => u.send (.mgmt die) (.core c) .request (.ctxStop ctx))
      { s.setContext ctx { x with state := .failed, moving := false } with log := s.log ++ [LogEntry.ctxFailed ctx] }) ∧
  (∀ (s : State) (k c ctx : Nat) (src : Endpoint), Delivers s k src (.core c) (.ctxStop ctx) →
    ((s.core c).ctx = some ctx → exec (.contextStop k) s = .next ((s.drop k).onCore c fun k => { k with stopped := true })) ∧
    ((s.core c).ctx ≠ some ctx → exec (.contextStop k) s = .next (s.drop k))) ∧
  (∀ (s : State) (c : Nat), c < 1024 →
    exec (.parityError c) s = .next ((s.machineCheck (dieOf c) (.parity c)).onCore c fun k => { k with stopped := true }))

/-- R305, R309–R314, R329, R335, R369: traps that arrive on their own, the watchdog, waits, and machine checks. -/
def Obligations.TrapsThatArrive : Prop := Delivery ∧ Pending ∧ Expiries ∧ Checks

/-- R343: the requests of SPDM that the device answers, each response with the transcript advanced; a signed response needs a signature of the LMS key, of which
there are 2^30. -/
def Sys2Proof.Machine.Attestation : Prop :=
  (∀ s : State,
    let answers := fun (i : Instr) (r : SpdmResp) => ∃ t msg, exec i s = .next t ∧ t.fw.response = some r ∧
      t.fw = { s.fw with transcript := Config.absorb s.fw.transcript msg, response := some r }
    answers .getVersion (.version [0x12, 0x13]) ∧ answers .getCapabilities (.capabilities false false) ∧
    (∀ a b, answers (.negotiateAlgorithms a b) (.algorithms (a && b))) ∧ answers .getDigests (.digests [Config.certDigest]) ∧
    (∀ off n, answers (.getCertificate off n) (.certificate ((Config.certChain.drop off).take n))) ∧
    (∀ i, answers (.getMeasurements i false) (.measurements (s.fw.measurements i) none))) ∧
  (∀ (s : State) (n i : Nat), ∃ t u, exec (.challenge n) s = .next t ∧ exec (.getMeasurements i true) s = .next u ∧
    (2 ^ 30 ≤ s.fw.lmsUsed → t.fw.response = some .unspecified ∧ u.fw.response = some .unspecified ∧ t.fw.lmsUsed = s.fw.lmsUsed) ∧
    (s.fw.lmsUsed < 2 ^ 30 → t.fw.lmsUsed = s.fw.lmsUsed + 1 ∧ u.fw.lmsUsed = s.fw.lmsUsed + 1 ∧
      t.fw.response = some (.challengeAuth (Config.signature false t.fw.transcript) (Config.signature true t.fw.transcript)) ∧
      u.fw.response = some (.measurements (s.fw.measurements i)
        (some (Config.signature false u.fw.transcript, Config.signature true u.fw.transcript))))) ∧
  (∀ f : Firmware, f.measurements 1 = [(1, Config.romDigest)] ∧ f.measurements 2 = [(2, f.patchDigest)] ∧
    f.measurements 3 = [(3, f.runtimeDigest)] ∧ f.measurements 4 = [(4, f.patchVersion)])

/-- R366, R367: above 2,800 W the die of the highest estimate slows by one step, below 2,660 W the slowest die below 2.25 GHz speeds up by one, each change is
logged; the end of service raises a machine check on every management core. -/
def Sys2Proof.Machine.PowerManager : Prop :=
  (∀ (s : State) (total : Nat) (dies : List Nat), 2800 < total → s.allSlow = false →
    let d := topDie fun d => dies.getD d 0
    exec (.powerTick total dies) s = .next (if 1000 < s.clock d then { s with hot := 0 }.setClock d (s.clock d - 125) else { s with hot := 0 })) ∧
  (∀ (s : State) (total : Nat) (dies : List Nat), 2800 < total → s.allSlow = true →
    exec (.powerTick total dies) s = .next { s with hot := s.hot + 1 }) ∧
  (∀ (s : State) (total : Nat) (dies : List Nat), total < 2660 → ∃ d, d < 4 ∧ (∀ e, e < 4 → s.clock d ≤ s.clock e ∨ 2250 ≤ s.clock d) ∧
    exec (.powerTick total dies) s = .next (if s.clock d < 2250 then { s with hot := 0 }.setClock d (s.clock d + 125) else { s with hot := 0 })) ∧
  (∀ (s : State) (total : Nat) (dies : List Nat), 2660 ≤ total → total ≤ 2800 → exec (.powerTick total dies) s = .next { s with hot := 0 }) ∧
  (∀ (s : State) (d mhz : Nat), (s.setClock d mhz).clock d = mhz ∧ (s.setClock d mhz).log = s.log ++ [LogEntry.clock d mhz]) ∧
  (∀ f : Nat → Nat, topDie f < 4 ∧ ∀ e, e < 4 → f e ≤ f (topDie f)) ∧
  (∀ s : State, (100 ≤ s.hot → exec .powerLimitTimeout s =
      .next { s with checks := s.checks ++ [(0, .power), (1, .power), (2, .power), (3, .power)] }) ∧
    (s.hot < 100 → exec .powerLimitTimeout s = .next s)) ∧
  (∀ (s : State) (d : Nat), d < 4 → exec (.junctionOvertemp d) s =
    .next { s with checks := s.checks ++ [(0, .overTemp d), (1, .overTemp d), (2, .overTemp d), (3, .overTemp d)] })

/-- R35, R99, R368: a cold reset leaves every register, slice and L1 as State.reset has them, no context, HBM zero and in device bias; a warm one keeps what HBM holds
with its poison and bias, and each slice's filters and count of misses, which only a cold reset clears; until the last step of a reset no starting write is served; the
monitors' counts are cleared by CLR. What a reset leaves of host memory, the patch and the signatures spent is log entry 42. -/
def Sys2Proof.Machine.Resets : Prop :=
  (∀ (s : State) (ok : Bool), ∃ t, exec (.coldReset ok) s = .next t ∧ (∀ c, t.core c = Core.reset) ∧ t.contexts = [] ∧ t.mem = [] ∧
    t.poison = [] ∧ t.latent = [] ∧ t.hostBias = [] ∧ t.slices = [] ∧ t.homeLines = [] ∧ t.net = [] ∧ t.xfers = [] ∧ t.hostMem = s.hostMem ∧
    t.booting = true ∧
    t.fw.patchVersion = s.fw.patchVersion ∧ t.fw.lmsUsed = s.fw.lmsUsed ∧ t.fw.patchDigest = if ok then s.fw.patchDigest else 0) ∧
  (∀ (s : State) (ok : Bool), ∃ t, exec (.warmReset ok) s = .next t ∧ (∀ c, t.core c = Core.reset) ∧ t.contexts = [] ∧ t.booting = true ∧
    (∀ h, (t.slice h).filterA = (s.slice h).filterA ∧ (t.slice h).filterB = (s.slice h).filterB ∧ (t.slice h).activeB = (s.slice h).activeB ∧
      (t.slice h).missCount = (s.slice h).missCount ∧ (t.slice h).present = [] ∧ (t.slice h).replicas = []) ∧
    t.homeLines = [] ∧ t.net = [] ∧ t.xfers = [] ∧ (s.homeLines = [] → s.ctls = [] → s.hostSectors = [] →
      t.hostBias = s.hostBias ∧ (∀ a, a < Config.hbmSize → t.mem.read a = s.mem.read a) ∧
      (∀ g, g * 64 < Config.hbmSize → Tbl.getD t.poison g false = Tbl.getD s.poison g false))) ∧
  (∀ s : State, servedStep s = .next { s with booting := false }) ∧
  (∀ (s : State) (u m : Nat), ∃ t, exec (.monitorCountClear u m) s = .next t ∧ (t.monitor u m).ctl = (s.monitor u m).ctl ∧
    (t.monitor u m).count = 0 ∧ (t.monitor u m).sum = 0 ∧ (t.monitor u m).max = 0 ∧ (t.monitor u m).hist = [] ∧
    ∀ n, n ≠ u * 8 + m → Tbl.getD t.monitors n Monitor.reset = Tbl.getD s.monitors n Monitor.reset)

/-- R343, R366–R369, R150: attestation, the power manager, links, resets and monitors. -/
def Obligations.ModuleServices : Prop := Attestation ∧ PowerManager ∧ Links ∧ Resets
/-! ## Decoding, reset and the step (R15–R20, R24, R26, R30, R191, R368) -/

/-- The decoder reads the halfwords, the lowest address first, as `i`. -/
def Sys2Proof.Machine.Reads (hs : List Nat) (i : Instr) : Prop := decode (hs.map (BitVec.ofNat 16)) = .ok i

/-- R15, R17, R20, R21, R26, R27, R30: the words that the worked programs of the spec print decode to the instructions that they print them for; a word of an unassigned major, one cut short, and a
reserved pattern of four halfwords of which two are missing are refused. -/
def Obligations.DecodeWords : Prop :=
  Reads [0x8035, 0x0120] (.shli ⟨2, 8, 4, .always⟩) ∧
  Reads [0x8025, 0x4010] (.addi ⟨0x80, 4, 4, .always⟩) ∧
  Reads [0x8001, 0x1481] (.sub ⟨false, false, 9, 0, 12, .always⟩) ∧
  Reads [0xA109, 0x0328] (.mupsert ⟨.add, 6, 10, 5, .always⟩) ∧
  Reads [0xC1D1, 0x062C] (.barv ⟨12, 11, 6, .always⟩) ∧
  Reads [0xC1D1, 0x132C] (.barw ⟨6, 11, 6, .always⟩) ∧
  Reads [0xE101, 0x1328] (.mprobe ⟨1, 6, 10, 7, .always⟩) ∧
  Reads [0xE027, 0x0000, 0x0640, 0x0000] (.addiLit ⟨0, 7, .always, 0x640⟩) ∧
  Reads [0x01D5, 0x2000] (.fenceAcq ⟨.package, .always⟩) ∧
  Reads [0x0179, 0x0594] (.vlen ⟨5, 0, .always⟩) ∧
  Reads [0x4181, 0x0110] (.vld ⟨0, 4, 2, .always⟩) ∧
  Reads [0xE089, 0x51AD] (.st ⟨10, .d, 11, 15, .always⟩) ∧
  Reads [0x003E] .nop ∧
  decode [0xFFFF, 0xFFFF] = .error .beyondEnd ∧ decode [0x01FD, 0x0000] = .error .unassigned ∧ decode [0x8001] = .error .beyondEnd

/-- R15, R17–R20, R26: decoding the words of a well-formed instruction gives it back, whatever follows them. -/
def Obligations.DecodeEncode : Prop :=
  ∀ (i : Instr) (hs rest : List HW), i.wellFormed = true → encode i = some hs → decode (hs ++ rest) = .ok i

/-- Core `c`'s scalar stream is to act, and nothing comes before the instruction `i` at the pc of its task `t`. -/
structure Sys2Proof.Machine.Fetches (s : State) (c : Nat) (t : Task) (i : Instr) : Prop where
  service : s.ended = false
  alive : (s.core c).alive = true
  task : (s.core c).task? = some t
  quiet : (s.core c).quiescing = false
  select : (s.core c).inHi = true ∨ (s.core c).sched.resel = false
  answered : t.fail = none
  sound : (s.core c).inHi = true ∨ t.wait ≠ .none ∨ (s.core c).vu.fault = none
  noHi : (s.core c).wantsHi = false
  budget : (s.core c).overBudget t = false
  noPending : (s.core c).regs.pend = []
  ready : t.mayIssue = true
  inCode : t.carried = true → t.pc < t.code.length
  decoded : decode ((s.core c).halves t t.pc) = .ok i

/-- R16, R24, R191, R335: a step of a core's scalar stream that may issue runs the instruction that its pc's halfwords decode to, then the core's cycles go by and the turn
passes on; a step of its vector/matrix stream runs the oldest instruction passed to it; the step of another agent's row runs that row. -/
def Obligations.StepRunsDecoded : Prop :=
  (∀ (s : State) (c : Nat) (lag : Bool) (t : Task) (i : Instr), s.turn = .core c lag → Fetches s c t i →
    step s = match exec i (s.noteRun (s.core c)) with
      | .next u => .next (s.elapse u c).pass
      | r => r) ∧
  (∀ (s : State) (k : Core), (∀ ctx x, k.ctx = some ctx → s.context? ctx = some x → x.state ≠ .fresh) → s.noteRun k = s) ∧
  (∀ (s : State) (c : Nat) (e : VEntry) (it : VItem), s.turn = .vector c → s.ended = false → (s.core c).alive = true →
    (s.core c).vu.viq.head? = some e → e.item? = some it →
    step s = match exec (e.current it) s with
      | .next u => .next u.pass
      | r => r) ∧
  (∀ (s : State) (i : Instr), s.turn = .event i → Sys2Proof.Machine.Instr.isEvent i = true →
    s.ended = false ∨ Sys2Proof.Machine.Instr.atCore i = false →
    step s = match exec i s with
      | .next u => .next u.pass
      | r => r) ∧
  (∀ (s t : State) (c : Nat), (s.elapse t c).mem = t.mem ∧ ((s.elapse t c).core c).regs.cyc = (t.core c).regs.cyc + w64 (Config.cycles s.tick + 1) ∧
    ∀ d, d ≠ c → (s.elapse t c).core d = t.core d)

/-- R368, and the Reset columns of the registers' descriptions: what reset leaves. (SR.VL, SR.RMODE, SR.TVEC, SR.TSTAT, SR.CNEXT, SR.CDONE, SR.MCR, SR.UNACK and the
others named here have a Reset value in the spec.) -/
def Obligations.ResetState : Prop :=
  let s := State.reset
  MemInv s ∧ s.contexts = [] ∧ s.net = [] ∧ s.hostBias = [] ∧ (∀ a, s.mem.read a = 0) ∧
  (∀ c, let k := s.core c
    k.ctx = none ∧ k.lo = none ∧ k.hi = none ∧ k.vu.vl = 64 ∧ k.regs.cyc = 0 ∧ k.regs.budget = 0x400000 ∧ k.regs.tstat = 0 ∧ k.regs.tvec = 0 ∧
    k.regs.pend = [] ∧ k.regs.lost = false ∧ k.unack = 0 ∧ k.regs.cr = true ∧ k.regs.live = 0 ∧ k.regs.cap = 0 ∧ k.regs.stealCnt = 0 ∧
    k.regs.stealScope = 3 ∧ k.regs.rprot = false ∧ k.bankLo.rmode = 0 ∧ k.bankLo.mst = 0 ∧ k.regs.oobcnt = 0 ∧ k.sched.deque = [] ∧ k.sched.inbox = [] ∧
    k.l1.lines = [] ∧ ∀ n, n < 16 → Tbl.getD k.regs.cnext n 0 = 0 ∧ Tbl.getD k.regs.cdone n 0 = 0) ∧
  (∀ d, s.clock d = 2250)

/-- R10, R37, R43, R45: a step keeps main memory and the host's memory in their canonical form: addresses strictly rising, no byte listed that reads as an unlisted one. -/
def Obligations.StepKeepsMemory : Prop := ∀ s t : State, MemInv s → step s = .next t → MemInv t
end

