-- ==== Sys2Proof/Laws/State.lean ====
section
/-! SUPPORT. Tables, and the fields of a state after the updates that the meanings share. -/

namespace Sys2Proof

/-- What is inserted at a key is found there. -/
@[simp] theorem Tbl.find?_insert_self {α : Type} (t : Tbl α) (k : Nat) (v : α) : (t.insert k v).find? k = some v := by
  induction t with
  | nil => simp [Tbl.insert, Tbl.find?]
  | cons e r ih =>
    simp only [Tbl.insert]
    split
    · simp [Tbl.find?]
    · split
      · simp [Tbl.find?]
      · next h1 h2 => simp [Tbl.find?, ih, Ne.symm h2]

/-- Another key keeps its entry. -/
theorem Tbl.find?_insert_ne {α : Type} (t : Tbl α) {k j : Nat} (v : α) (h : j ≠ k) : (t.insert k v).find? j = t.find? j := by
  induction t with
  | nil => simp [Tbl.insert, Tbl.find?, Ne.symm h]
  | cons e r ih =>
    simp only [Tbl.insert]
    split
    · simp [Tbl.find?, Ne.symm h]
    · split
      · next _ h2 => simp [Tbl.find?, Ne.symm h, ← h2]
      · simp only [Tbl.find?, ih]

/-- The second of two insertions at a key stands. -/
@[simp] theorem Tbl.insert_insert {α : Type} (t : Tbl α) (k : Nat) (v w : α) : (t.insert k v).insert k w = t.insert k w := by
  induction t with
  | nil => simp [Tbl.insert]
  | cons e r ih =>
    simp only [Tbl.insert]
    split
    · simp [Tbl.insert]
    · split
      · simp [Tbl.insert]
      · next h1 h2 => simp [Tbl.insert, h1, h2, ih]

@[simp] theorem Tbl.getD_insert_self {α : Type} (t : Tbl α) (k : Nat) (v d : α) : (t.insert k v).getD k d = v := by
  simp [Tbl.getD]

theorem Tbl.getD_insert_ne {α : Type} (t : Tbl α) {k j : Nat} (v d : α) (h : j ≠ k) : (t.insert k v).getD j d = t.getD j d := by
  simp [Tbl.getD, Tbl.find?_insert_ne t v h]

/-- An erased key is not found. -/
@[simp] theorem Tbl.find?_erase_self {α : Type} (t : Tbl α) (k : Nat) : (t.erase k).find? k = none := by
  induction t with
  | nil => rfl
  | cons e r ih =>
    simp only [Tbl.erase]
    split
    · exact ih
    · next h => simp [Tbl.find?, h, ih]

/-- Another key keeps its entry when one is erased. -/
theorem Tbl.find?_erase_ne {α : Type} (t : Tbl α) {k j : Nat} (h : j ≠ k) : (t.erase k).find? j = t.find? j := by
  induction t with
  | nil => rfl
  | cons e r ih =>
    simp only [Tbl.erase]
    split
    · next he => simp [Tbl.find?, ih, he, Ne.symm h]
    · simp [Tbl.find?, ih]

/-- What is put at a key reads back. -/
@[simp] theorem Tbl.getD_put_self {α : Type} [DecidableEq α] (d : α) (t : Tbl α) (k : Nat) (v : α) : (t.put d k v).getD k d = v := by
  unfold Tbl.put
  split
  · next h => simp [Tbl.getD, h]
  · simp

/-- Another key reads as before. -/
theorem Tbl.getD_put_ne {α : Type} [DecidableEq α] (d : α) (t : Tbl α) {k j : Nat} (v : α) (h : j ≠ k) :
    (t.put d k v).getD j d = t.getD j d := by
  unfold Tbl.put
  split
  · simp [Tbl.getD, Tbl.find?_erase_ne t h]
  · exact Tbl.getD_insert_ne t v d h

namespace Machine

/-! ## `setCore` and `onCore` -/

@[simp] theorem State.core_setCore_self (s : State) (c : Nat) (k : Core) : (s.setCore c k).core c = k := by
  simp [State.core, State.setCore]

theorem State.core_setCore_ne (s : State) {c d : Nat} (k : Core) (h : d ≠ c) : (s.setCore c k).core d = s.core d := by
  simp [State.core, State.setCore, Tbl.getD_insert_ne _ k _ h]

@[simp] theorem State.setCore_setCore (s : State) (c : Nat) (k l : Core) : (s.setCore c k).setCore c l = s.setCore c l := by
  simp [State.setCore]

@[simp] theorem State.onCore_setCore (s : State) (c : Nat) (k : Core) (f : Core → Core) :
    (s.setCore c k).onCore c f = s.setCore c (f k) := by simp [State.onCore]

@[simp] theorem State.core_onCore_self (s : State) (c : Nat) (f : Core → Core) : (s.onCore c f).core c = f (s.core c) := by
  simp [State.onCore]

theorem State.core_onCore_ne (s : State) {c d : Nat} (f : Core → Core) (h : d ≠ c) : (s.onCore c f).core d = s.core d :=
  State.core_setCore_ne s _ h

@[simp] theorem State.setCore_turn (s : State) (c : Nat) (k : Core) : (s.setCore c k).turn = s.turn := rfl
@[simp] theorem State.setCore_tick (s : State) (c : Nat) (k : Core) : (s.setCore c k).tick = s.tick := rfl
@[simp] theorem State.setCore_fresh (s : State) (c : Nat) (k : Core) : (s.setCore c k).fresh = s.fresh := rfl
@[simp] theorem State.setCore_mem (s : State) (c : Nat) (k : Core) : (s.setCore c k).mem = s.mem := rfl
@[simp] theorem State.setCore_hostMem (s : State) (c : Nat) (k : Core) : (s.setCore c k).hostMem = s.hostMem := rfl
@[simp] theorem State.setCore_poison (s : State) (c : Nat) (k : Core) : (s.setCore c k).poison = s.poison := rfl
@[simp] theorem State.setCore_latent (s : State) (c : Nat) (k : Core) : (s.setCore c k).latent = s.latent := rfl
@[simp] theorem State.setCore_hostBias (s : State) (c : Nat) (k : Core) : (s.setCore c k).hostBias = s.hostBias := rfl
@[simp] theorem State.setCore_hostSectors (s : State) (c : Nat) (k : Core) : (s.setCore c k).hostSectors = s.hostSectors := rfl
@[simp] theorem State.setCore_homeLines (s : State) (c : Nat) (k : Core) : (s.setCore c k).homeLines = s.homeLines := rfl
@[simp] theorem State.setCore_slices (s : State) (c : Nat) (k : Core) : (s.setCore c k).slices = s.slices := rfl
@[simp] theorem State.setCore_net (s : State) (c : Nat) (k : Core) : (s.setCore c k).net = s.net := rfl
@[simp] theorem State.setCore_held (s : State) (c : Nat) (k : Core) : (s.setCore c k).held = s.held := rfl
@[simp] theorem State.setCore_parked (s : State) (c : Nat) (k : Core) : (s.setCore c k).parked = s.parked := rfl
@[simp] theorem State.setCore_exchanges (s : State) (c : Nat) (k : Core) : (s.setCore c k).exchanges = s.exchanges := rfl
@[simp] theorem State.setCore_walks (s : State) (c : Nat) (k : Core) : (s.setCore c k).walks = s.walks := rfl
@[simp] theorem State.setCore_dieTlb (s : State) (c : Nat) (k : Core) : (s.setCore c k).dieTlb = s.dieTlb := rfl
@[simp] theorem State.setCore_homeBar (s : State) (c : Nat) (k : Core) : (s.setCore c k).homeBar = s.homeBar := rfl
@[simp] theorem State.setCore_ctls (s : State) (c : Nat) (k : Core) : (s.setCore c k).ctls = s.ctls := rfl
@[simp] theorem State.setCore_xfers (s : State) (c : Nat) (k : Core) : (s.setCore c k).xfers = s.xfers := rfl
@[simp] theorem State.setCore_groups (s : State) (c : Nat) (k : Core) : (s.setCore c k).groups = s.groups := rfl
@[simp] theorem State.setCore_downPorts (s : State) (c : Nat) (k : Core) : (s.setCore c k).downPorts = s.downPorts := rfl
@[simp] theorem State.setCore_replays (s : State) (c : Nat) (k : Core) : (s.setCore c k).replays = s.replays := rfl
@[simp] theorem State.setCore_growths (s : State) (c : Nat) (k : Core) : (s.setCore c k).growths = s.growths := rfl
@[simp] theorem State.setCore_flips (s : State) (c : Nat) (k : Core) : (s.setCore c k).flips = s.flips := rfl
@[simp] theorem State.setCore_contexts (s : State) (c : Nat) (k : Core) : (s.setCore c k).contexts = s.contexts := rfl
@[simp] theorem State.setCore_windows (s : State) (c : Nat) (k : Core) : (s.setCore c k).windows = s.windows := rfl
@[simp] theorem State.setCore_slots (s : State) (c : Nat) (k : Core) : (s.setCore c k).slots = s.slots := rfl
@[simp] theorem State.setCore_msix (s : State) (c : Nat) (k : Core) : (s.setCore c k).msix = s.msix := rfl
@[simp] theorem State.setCore_checks (s : State) (c : Nat) (k : Core) : (s.setCore c k).checks = s.checks := rfl
@[simp] theorem State.setCore_log (s : State) (c : Nat) (k : Core) : (s.setCore c k).log = s.log := rfl
@[simp] theorem State.setCore_monitors (s : State) (c : Nat) (k : Core) : (s.setCore c k).monitors = s.monitors := rfl
@[simp] theorem State.setCore_clocks (s : State) (c : Nat) (k : Core) : (s.setCore c k).clocks = s.clocks := rfl
@[simp] theorem State.setCore_hot (s : State) (c : Nat) (k : Core) : (s.setCore c k).hot = s.hot := rfl
@[simp] theorem State.setCore_ended (s : State) (c : Nat) (k : Core) : (s.setCore c k).ended = s.ended := rfl
@[simp] theorem State.setCore_releases (s : State) (c : Nat) (k : Core) : (s.setCore c k).releases = s.releases := rfl
@[simp] theorem State.setCore_runtimeCalls (s : State) (c : Nat) (k : Core) : (s.setCore c k).runtimeCalls = s.runtimeCalls := rfl
@[simp] theorem State.setCore_fw (s : State) (c : Nat) (k : Core) : (s.setCore c k).fw = s.fw := rfl
@[simp] theorem State.setCore_hostBase (s : State) (c : Nat) (k : Core) : (s.setCore c k).hostBase = s.hostBase := rfl
@[simp] theorem State.setCore_hostSize (s : State) (c : Nat) (k : Core) : (s.setCore c k).hostSize = s.hostSize := rfl
@[simp] theorem State.setCore_hostPosted (s : State) (c : Nat) (k : Core) : (s.setCore c k).hostPosted = s.hostPosted := rfl
@[simp] theorem State.setCore_postedNext (s : State) (c : Nat) (k : Core) : (s.setCore c k).postedNext = s.postedNext := rfl
@[simp] theorem State.setCore_hostGot (s : State) (c : Nat) (k : Core) : (s.setCore c k).hostGot = s.hostGot := rfl
@[simp] theorem State.setCore_booting (s : State) (c : Nat) (k : Core) : (s.setCore c k).booting = s.booting := rfl
@[simp] theorem State.setCore_actor (s : State) (c : Nat) (k : Core) : (s.setCore c k).actor = s.actor := rfl

/-! ## Tasks of a core -/

@[simp] theorem Core.bankTask_setTask (k : Core) (hi : Bool) (t : Task) : (k.setTask hi t).bankTask hi = some t := by
  cases hi <;> rfl

@[simp] theorem Core.setTask_setTask (k : Core) (hi : Bool) (t u : Task) : (k.setTask hi t).setTask hi u = k.setTask hi u := by
  cases hi <;> rfl

/-- The task that holds a core is the one of its running bank. -/
theorem Core.bankTask_inHi (k : Core) : k.bankTask k.inHi = k.task? := by
  unfold Core.bankTask Core.inHi Core.task?
  cases k.hi <;> rfl

@[simp] theorem Core.onTask_setTask (k : Core) (hi : Bool) (t : Task) (f : Task → Task) :
    (k.setTask hi t).onTask hi f = k.setTask hi (f t) := by simp [Core.onTask]

/-- A change of a task that is there. -/
theorem Core.onTask_of_some {k : Core} {hi : Bool} {t : Task} (h : k.bankTask hi = some t) (f : Task → Task) :
    k.onTask hi f = k.setTask hi (f t) := by simp [Core.onTask, h]

@[simp] theorem Core.setTask_bank (k : Core) (hi b : Bool) (t : Task) : (k.setTask hi t).bank b = k.bank b := by cases hi <;> rfl
@[simp] theorem Core.setTask_ctx (k : Core) (hi : Bool) (t : Task) : (k.setTask hi t).ctx = k.ctx := by cases hi <;> rfl
@[simp] theorem Core.setTask_stopped (k : Core) (hi : Bool) (t : Task) : (k.setTask hi t).stopped = k.stopped := by cases hi <;> rfl
@[simp] theorem Core.setTask_quiescing (k : Core) (hi : Bool) (t : Task) : (k.setTask hi t).quiescing = k.quiescing := by cases hi <;> rfl
@[simp] theorem Core.setTask_quiet (k : Core) (hi : Bool) (t : Task) : (k.setTask hi t).quiet = k.quiet := by cases hi <;> rfl
@[simp] theorem Core.setTask_bankLo (k : Core) (hi : Bool) (t : Task) : (k.setTask hi t).bankLo = k.bankLo := by cases hi <;> rfl
@[simp] theorem Core.setTask_bankHi (k : Core) (hi : Bool) (t : Task) : (k.setTask hi t).bankHi = k.bankHi := by cases hi <;> rfl
@[simp] theorem Core.setTask_vu (k : Core) (hi : Bool) (t : Task) : (k.setTask hi t).vu = k.vu := by cases hi <;> rfl
@[simp] theorem Core.setTask_sched (k : Core) (hi : Bool) (t : Task) : (k.setTask hi t).sched = k.sched := by cases hi <;> rfl
@[simp] theorem Core.setTask_regs (k : Core) (hi : Bool) (t : Task) : (k.setTask hi t).regs = k.regs := by cases hi <;> rfl
@[simp] theorem Core.setTask_lcl (k : Core) (hi : Bool) (t : Task) : (k.setTask hi t).lcl = k.lcl := by cases hi <;> rfl
@[simp] theorem Core.setTask_l1 (k : Core) (hi : Bool) (t : Task) : (k.setTask hi t).l1 = k.l1 := by cases hi <;> rfl
@[simp] theorem Core.setTask_tlb (k : Core) (hi : Bool) (t : Task) : (k.setTask hi t).tlb = k.tlb := by cases hi <;> rfl
@[simp] theorem Core.setTask_walkFail (k : Core) (hi : Bool) (t : Task) : (k.setTask hi t).walkFail = k.walkFail := by cases hi <;> rfl
@[simp] theorem Core.setTask_dcache (k : Core) (hi : Bool) (t : Task) : (k.setTask hi t).dcache = k.dcache := by cases hi <;> rfl
@[simp] theorem Core.setTask_waybill (k : Core) (hi : Bool) (t : Task) : (k.setTask hi t).waybill = k.waybill := by cases hi <;> rfl
@[simp] theorem Core.setTask_seq (k : Core) (hi : Bool) (t : Task) : (k.setTask hi t).seq = k.seq := by cases hi <;> rfl
@[simp] theorem Core.setTask_mxq (k : Core) (hi : Bool) (t : Task) : (k.setTask hi t).mxq = k.mxq := by cases hi <;> rfl
@[simp] theorem Core.setTask_calls (k : Core) (hi : Bool) (t : Task) : (k.setTask hi t).calls = k.calls := by cases hi <;> rfl
@[simp] theorem Core.setTask_tswSent (k : Core) (hi : Bool) (t : Task) : (k.setTask hi t).tswSent = k.tswSent := by cases hi <;> rfl
@[simp] theorem Core.setTask_tswGot (k : Core) (hi : Bool) (t : Task) : (k.setTask hi t).tswGot = k.tswGot := by cases hi <;> rfl
@[simp] theorem Core.setTask_tswOff (k : Core) (hi : Bool) (t : Task) : (k.setTask hi t).tswOff = k.tswOff := by cases hi <;> rfl
@[simp] theorem Core.setTask_tswTile (k : Core) (hi : Bool) (t : Task) : (k.setTask hi t).tswTile = k.tswTile := by cases hi <;> rfl
@[simp] theorem Core.setTask_abortRec (k : Core) (hi : Bool) (t : Task) : (k.setTask hi t).abortRec = k.abortRec := by cases hi <;> rfl

/-- Setting the task that holds a core again leaves the same bank running. -/
theorem Core.inHi_setTask_self {k : Core} {t : Task} (u : Task) (h : k.task? = some t) : (k.setTask k.inHi u).inHi = k.inHi := by
  unfold Core.task? at h
  cases hk : k.hi <;> simp_all [Core.inHi, Core.setTask]

/-! ## Registers of a task (R18) -/

@[simp] theorem Task.reg_zero (t : Task) : t.reg 0 = 0 := rfl
@[simp] theorem Task.setReg_zero (t : Task) (v : W) : t.setReg 0 v = t := rfl
@[simp] theorem Task.pred_zero (t : Task) : t.pred 0 = BitVec.allOnes 64 := rfl
@[simp] theorem Task.setPred_zero (t : Task) (v : W) : t.setPred 0 v = t := rfl
@[simp] theorem Task.setReg_hi (t : Task) (r : Reg) (v : W) : (t.setReg r v).hi = t.hi := by unfold Task.setReg; split <;> rfl
@[simp] theorem Task.setReg_entry (t : Task) (r : Reg) (v : W) : (t.setReg r v).entry = t.entry := by unfold Task.setReg; split <;> rfl
@[simp] theorem Task.setReg_carried (t : Task) (r : Reg) (v : W) : (t.setReg r v).carried = t.carried := by unfold Task.setReg; split <;> rfl
@[simp] theorem Task.setReg_code (t : Task) (r : Reg) (v : W) : (t.setReg r v).code = t.code := by unfold Task.setReg; split <;> rfl
@[simp] theorem Task.setReg_stale (t : Task) (r : Reg) (v : W) : (t.setReg r v).stale = t.stale := by unfold Task.setReg; split <;> rfl
@[simp] theorem Task.setReg_pc (t : Task) (r : Reg) (v : W) : (t.setReg r v).pc = t.pc := by unfold Task.setReg; split <;> rfl
@[simp] theorem Task.setReg_sup (t : Task) (r : Reg) (v : W) : (t.setReg r v).sup = t.sup := by unfold Task.setReg; split <;> rfl
@[simp] theorem Task.setReg_p (t : Task) (r : Reg) (v : W) : (t.setReg r v).p = t.p := by unfold Task.setReg; split <;> rfl
@[simp] theorem Task.setReg_wid (t : Task) (r : Reg) (v : W) : (t.setReg r v).wid = t.wid := by unfold Task.setReg; split <;> rfl
@[simp] theorem Task.setReg_src (t : Task) (r : Reg) (v : W) : (t.setReg r v).src = t.src := by unfold Task.setReg; split <;> rfl
@[simp] theorem Task.setReg_tpl (t : Task) (r : Reg) (v : W) : (t.setReg r v).tpl = t.tpl := by unfold Task.setReg; split <;> rfl
@[simp] theorem Task.setReg_idem (t : Task) (r : Reg) (v : W) : (t.setReg r v).idem = t.idem := by unfold Task.setReg; split <;> rfl
@[simp] theorem Task.setReg_wait (t : Task) (r : Reg) (v : W) : (t.setReg r v).wait = t.wait := by unfold Task.setReg; split <;> rfl
@[simp] theorem Task.setReg_fail (t : Task) (r : Reg) (v : W) : (t.setReg r v).fail = t.fail := by unfold Task.setReg; split <;> rfl
@[simp] theorem Task.setReg_skip (t : Task) (r : Reg) (v : W) : (t.setReg r v).skip = t.skip := by unfold Task.setReg; split <;> rfl
@[simp] theorem Task.setReg_stalled (t : Task) (r : Reg) (v : W) : (t.setReg r v).stalled = t.stalled := by unfold Task.setReg; split <;> rfl
@[simp] theorem Task.setReg_late (t : Task) (r : Reg) (v : W) : (t.setReg r v).late = t.late := by unfold Task.setReg; split <;> rfl
@[simp] theorem Task.setReg_bytewise (t : Task) (r : Reg) (v : W) : (t.setReg r v).bytewise = t.bytewise := by unfold Task.setReg; split <;> rfl
@[simp] theorem Task.setReg_count (t : Task) (r : Reg) (v : W) : (t.setReg r v).count = t.count := by unfold Task.setReg; split <;> rfl
@[simp] theorem Task.setReg_service (t : Task) (r : Reg) (v : W) : (t.setReg r v).service = t.service := by unfold Task.setReg; split <;> rfl
@[simp] theorem Task.setPred_hi (t : Task) (p : PReg) (v : W) : (t.setPred p v).hi = t.hi := by unfold Task.setPred; split <;> rfl
@[simp] theorem Task.setPred_entry (t : Task) (p : PReg) (v : W) : (t.setPred p v).entry = t.entry := by unfold Task.setPred; split <;> rfl
@[simp] theorem Task.setPred_carried (t : Task) (p : PReg) (v : W) : (t.setPred p v).carried = t.carried := by unfold Task.setPred; split <;> rfl
@[simp] theorem Task.setPred_code (t : Task) (p : PReg) (v : W) : (t.setPred p v).code = t.code := by unfold Task.setPred; split <;> rfl
@[simp] theorem Task.setPred_stale (t : Task) (p : PReg) (v : W) : (t.setPred p v).stale = t.stale := by unfold Task.setPred; split <;> rfl
@[simp] theorem Task.setPred_pc (t : Task) (p : PReg) (v : W) : (t.setPred p v).pc = t.pc := by unfold Task.setPred; split <;> rfl
@[simp] theorem Task.setPred_sup (t : Task) (p : PReg) (v : W) : (t.setPred p v).sup = t.sup := by unfold Task.setPred; split <;> rfl
@[simp] theorem Task.setPred_x (t : Task) (p : PReg) (v : W) : (t.setPred p v).x = t.x := by unfold Task.setPred; split <;> rfl
@[simp] theorem Task.setPred_wid (t : Task) (p : PReg) (v : W) : (t.setPred p v).wid = t.wid := by unfold Task.setPred; split <;> rfl
@[simp] theorem Task.setPred_src (t : Task) (p : PReg) (v : W) : (t.setPred p v).src = t.src := by unfold Task.setPred; split <;> rfl
@[simp] theorem Task.setPred_tpl (t : Task) (p : PReg) (v : W) : (t.setPred p v).tpl = t.tpl := by unfold Task.setPred; split <;> rfl
@[simp] theorem Task.setPred_idem (t : Task) (p : PReg) (v : W) : (t.setPred p v).idem = t.idem := by unfold Task.setPred; split <;> rfl
@[simp] theorem Task.setPred_wait (t : Task) (p : PReg) (v : W) : (t.setPred p v).wait = t.wait := by unfold Task.setPred; split <;> rfl
@[simp] theorem Task.setPred_fail (t : Task) (p : PReg) (v : W) : (t.setPred p v).fail = t.fail := by unfold Task.setPred; split <;> rfl
@[simp] theorem Task.setPred_skip (t : Task) (p : PReg) (v : W) : (t.setPred p v).skip = t.skip := by unfold Task.setPred; split <;> rfl
@[simp] theorem Task.setPred_stalled (t : Task) (p : PReg) (v : W) : (t.setPred p v).stalled = t.stalled := by unfold Task.setPred; split <;> rfl
@[simp] theorem Task.setPred_late (t : Task) (p : PReg) (v : W) : (t.setPred p v).late = t.late := by unfold Task.setPred; split <;> rfl
@[simp] theorem Task.setPred_bytewise (t : Task) (p : PReg) (v : W) : (t.setPred p v).bytewise = t.bytewise := by unfold Task.setPred; split <;> rfl
@[simp] theorem Task.setPred_count (t : Task) (p : PReg) (v : W) : (t.setPred p v).count = t.count := by unfold Task.setPred; split <;> rfl
@[simp] theorem Task.setPred_service (t : Task) (p : PReg) (v : W) : (t.setPred p v).service = t.service := by unfold Task.setPred; split <;> rfl

/-- A register other than X0 reads back what is written to it. -/
theorem Task.reg_setReg_self (t : Task) {r : Reg} (v : W) (h : r ≠ 0) : (t.setReg r v).reg r = v := by
  unfold Task.setReg Task.reg
  rw [if_neg h, if_neg h]
  exact Tbl.getD_put_self 0 t.x _ v

/-- Another register keeps its value. -/
theorem Task.reg_setReg_ne (t : Task) {r q : Reg} (v : W) (h : q ≠ r) : (t.setReg r v).reg q = t.reg q := by
  have hn : q.toNat ≠ r.toNat := fun e => h (BitVec.eq_of_toNat_eq e)
  unfold Task.setReg
  split
  · rfl
  · unfold Task.reg
    rw [Tbl.getD_put_ne 0 t.x v hn]

/-- A predicate other than P0 reads back what is written to it. -/
theorem Task.pred_setPred_self (t : Task) {p : PReg} (v : W) (h : p ≠ 0) : (t.setPred p v).pred p = v := by
  unfold Task.setPred Task.pred
  rw [if_neg h, if_neg h]
  exact Tbl.getD_put_self 0 t.p _ v

/-- Another predicate keeps its value. -/
theorem Task.pred_setPred_ne (t : Task) {p q : PReg} (v : W) (h : q ≠ p) : (t.setPred p v).pred q = t.pred q := by
  have hn : q.toNat ≠ p.toNat := fun e => h (BitVec.eq_of_toNat_eq e)
  unfold Task.setPred
  split
  · rfl
  · unfold Task.pred
    rw [Tbl.getD_put_ne 0 t.p v hn]

/-- Writing an X register leaves the predicates. -/
@[simp] theorem Task.pred_setReg (t : Task) (r : Reg) (q : PReg) (v : W) : (t.setReg r v).pred q = t.pred q := by
  simp [Task.pred]

/-- Writing a predicate leaves the X registers. -/
@[simp] theorem Task.reg_setPred (t : Task) (p : PReg) (q : Reg) (v : W) : (t.setPred p v).reg q = t.reg q := by
  simp [Task.reg]

end Machine
end Sys2Proof
end

