-- ==== Sys2Proof/Laws/Frame.lean ====
section
/-! SUPPORT. The frame of a scalar-stream instruction: what `scalar` answers when the instruction may issue, and everything
it can answer at all. -/

namespace Sys2Proof.Machine

/-- What an instruction's own part runs on when core `c` may issue it from task `t`. -/
def State.cx (s : State) (c : Nat) (t : Task) : Cx :=
  { s := s.issue c (s.core c).inHi, c := c, k := (s.issue c (s.core c).inHi).core c, t := t, hi := (s.core c).inHi }

/-- The running task is the one of the running bank. -/
theorem Core.bankTask_of_task {k : Core} {t : Task} (h : k.task? = some t) : k.bankTask k.inHi = some t := by
  rw [Core.bankTask_inHi, h]

/-- Issuing marks the running task. -/
theorem State.core_issue {s : State} {c : Nat} {t : Task} (h : (s.core c).task? = some t) :
    (s.issue c (s.core c).inHi).core c = (s.core c).setTask (s.core c).inHi { t with stalled := true } := by
  unfold State.issue
  rw [State.core_onCore_self, Core.onTask_of_some (Core.bankTask_of_task h)]

/-- Issuing changes the running task only. -/
theorem State.issue_eq {s : State} {c : Nat} {t : Task} (h : (s.core c).task? = some t) :
    s.issue c (s.core c).inHi = s.setCore c ((s.core c).setTask (s.core c).inHi { t with stalled := true }) := by
  show s.setCore c ((s.core c).onTask (s.core c).inHi fun t => { t with stalled := true }) = _
  rw [Core.onTask_of_some (Core.bankTask_of_task h)]

@[simp] theorem State.cx_c (s : State) (c : Nat) (t : Task) : (s.cx c t).c = c := rfl
@[simp] theorem State.cx_t (s : State) (c : Nat) (t : Task) : (s.cx c t).t = t := rfl
@[simp] theorem State.cx_hi (s : State) (c : Nat) (t : Task) : (s.cx c t).hi = (s.core c).inHi := rfl
@[simp] theorem State.cx_x (s : State) (c : Nat) (t : Task) (r : Reg) : (s.cx c t).x r = t.reg r := rfl
@[simp] theorem State.cx_p (s : State) (c : Nat) (t : Task) (p : PReg) : (s.cx c t).p p = t.pred p := rfl

/-- The word of the instruction at a task's pc depends on the code memory, the time and the task alone. -/
theorem Core.instrWord_setTask (k : Core) (hi : Bool) (t u : Task) : (k.setTask hi t).instrWord u = k.instrWord u := by
  cases hi <;> rfl

/-- A queue without instructions makes nothing wait (R192). -/
theorem busy_nil {k : Core} (uses : Local → VItem → VUse) (n : Need) (h : k.vu.viq = []) (b1 b2 sr : Bool) :
    (b1 && b2 && k.vu.viq.any fun e => e.items.any fun it =>
      n.waitsOn (uses k.lcl it) it (e.replay && it.marked && e.stride != 0) sr) = false := by
  rw [h]; simp

/-- With no access put off, nothing waits for one (R245). -/
@[simp] theorem Need.waitsLate_nil (n : Need) : n.waitsLate [] = false := rfl

/-- No queued instruction names what a result replaces. -/
theorem VecUnit.replace_nil {u : VecUnit} (h : u.viq = []) (xd : List Reg) (pd : List PReg) (old : PReg → W) :
    u.replace xd pd old = u := by
  simp [VecUnit.replace, h]

/-- The one answer of the frame for an instruction that may issue (R22–R25). -/
theorem scalar_eq {s : State} {c : Nat} {t : Task} (hs : Issues s c t) (n : Need) (body : Cx → Ret)
    (hc : t.carried = true → n.carried = true) (hsup : n.sup = true → t.sup = true)
    (hhi : n.noHi = true → (s.core c).inHi = false) :
    scalar n body s = if guardPasses n.g t = true then (body (s.cx c t)).finish (s.cx c t) n
      else (Ret.done (s.cx c t).s).finish (s.cx c t) { n with xd := [], pd := [] } := by
  have hq : ((s.issue c (s.core c).inHi).core c).vu.viq = [] := by rw [State.core_issue hs.task]; simp [hs.queue]
  have hr : ((s.issue c (s.core c).inHi).core c).vu.recording = none := by rw [State.core_issue hs.task]; simp [hs.recording]
  have h1 : (t.carried && !n.carried) = false := by cases h : t.carried <;> simp_all
  have h2 : (n.sup && !t.sup) = false := by cases h : n.sup <;> simp_all
  have h3 : (n.noHi && (s.core c).inHi) = false := by cases h : n.noHi <;> simp_all
  unfold scalar scalarWith
  simp only [hs.turn, hs.task, h1, h2, h3, hr, hs.late, busy_nil _ _ hq, Need.waitsLate_nil, Option.isSome_none, Bool.and_false,
    Bool.false_and, Bool.or_false, Bool.false_eq_true, if_false]
  by_cases hg : guardPasses n.g t = true
  · simp [hg, State.cx]
  · simp [hg, State.cx]

/-- A guard that passes lets the instruction's own part run. -/
theorem scalar_runs {s : State} {c : Nat} {t : Task} (hs : Issues s c t) (n : Need) (body : Cx → Ret)
    (hc : t.carried = true → n.carried = true) (hsup : n.sup = true → t.sup = true)
    (hhi : n.noHi = true → (s.core c).inHi = false)
    (hg : guardPasses n.g t = true) : scalar n body s = (body (s.cx c t)).finish (s.cx c t) n := by
  rw [scalar_eq hs n body hc hsup hhi, if_pos hg]

/-- Completing with core `k`, whose running task is `u` and whose stream owes nothing, goes past the instruction. -/
theorem Cx.complete_setCore {s : State} {c : Nat} {t : Task} (n : Need) (k : Core) (u : Task) (pc : Nat)
    (hb : k.bankTask (s.core c).inHi = some u) (hh : k.inHi = (s.core c).inHi) (hq : k.vu.viq = []) :
    (s.cx c t).complete n ((s.cx c t).s.setCore c k) pc = s.retire c k u pc := by
  have hr : { k with vu := k.vu.replace n.xd n.pd t.pred } = k := by rw [VecUnit.replace_nil hq]
  simp only [Cx.complete, State.cx_c, State.cx_hi, State.cx_t, State.onCore_setCore, hr, ite_self, Core.onTask_of_some hb,
    State.retire, hh]
  simp [State.cx, State.issue, State.onCore]

/-- An instruction that is done with core `k`, whose running task is `u`, has gone past itself. -/
theorem Ret.finish_done {s : State} {c : Nat} {t : Task} (k : Core) (u : Task) (n : Need)
    (hb : k.bankTask (s.core c).inHi = some u) (hh : k.inHi = (s.core c).inHi) (hq : k.vu.viq = []) :
    (Ret.done ((s.cx c t).s.setCore c k)).finish (s.cx c t) n = .next (s.retire c k u (t.pc + n.len)) :=
  congrArg _ (Cx.complete_setCore n k u _ hb hh hq)

/-- The state that an issued instruction starts from, as a change of its core. -/
theorem State.cx_s_eq {s : State} {c : Nat} {t : Task} (h : (s.core c).task? = some t) :
    (s.cx c t).s = (s.cx c t).s.setCore c ((s.core c).setTask (s.core c).inHi { t with stalled := true }) := by
  simp [State.cx, State.issue_eq h]

/-- A guarded-off instruction goes past itself and does nothing else (R22). -/
theorem Ret.finish_off {s : State} {c : Nat} {t : Task} (n : Need) (hs : Issues s c t) :
    (Ret.done (s.cx c t).s).finish (s.cx c t) n = .next (s.retire c (s.core c) t (t.pc + n.len)) := by
  rw [State.cx_s_eq hs.task, Ret.finish_done _ { t with stalled := true } n (by simp) (Core.inHi_setTask_self _ hs.task)
    (by simp [hs.queue])]
  simp [State.retire, Core.inHi_setTask_self _ hs.task]

/-- An exact trap of an instruction that may issue (R305, R307). -/
theorem Ret.finish_trap {s : State} {c : Nat} {t : Task} (hs : Issues s c t) (code : Nat) (v : W) (n : Need) :
    (Ret.trap code v).finish (s.cx c t) n =
      .next (takeTrap (s.issue c (s.core c).inHi) c (s.core c).inHi t code v (trapPc t t.pc) false false) := by
  have hd : (s.cx c t).k.drained (s.cx c t).hi (s.cx c t).t = true := by
    simp [Core.drained, State.cx, State.core_issue hs.task, hs.late, hs.queue]
  simp only [Ret.finish, Cx.trapOut, Cx.trapTo, hd, if_true]
  rfl

end Sys2Proof.Machine
end

