-- ==== Sys2Proof/Laws/Memory.lean ====
section
/-! SUPPORT. Memory: every operation keeps the canonical form, a byte reads back what was written to it, and a write leaves
every other byte; what the writes of a home and of a core's port leave of a state. -/

namespace Sys2Proof.Machine

/-! ## Canonical form -/

/-- A memory whose addresses start at `lo` starts at any lower one too. -/
theorem Memory.wfFrom_mono {m : Memory} {lo lo' : Nat} (h : m.wfFrom lo = true) (hl : lo' ≤ lo) : m.wfFrom lo' = true := by
  cases m with
  | nil => rfl
  | cons e r =>
    simp only [Memory.wfFrom, Bool.and_eq_true, decide_eq_true_eq] at h ⊢
    exact ⟨⟨Nat.le_trans hl h.1.1, h.1.2⟩, h.2⟩

/-- Inserting a byte other than 0 keeps the form. -/
theorem Memory.wfFrom_insert {m : Memory} {lo a : Nat} {b : Byte} (h : m.wfFrom lo = true) (hb : b ≠ 0) (hl : lo ≤ a) :
    Memory.wfFrom lo (Tbl.insert m a b) = true := by
  induction m generalizing lo with
  | nil => simpa [Tbl.insert, Memory.wfFrom, hl] using hb
  | cons e r ih =>
    simp only [Memory.wfFrom, Bool.and_eq_true, decide_eq_true_eq] at h
    obtain ⟨⟨h1, h2⟩, h3⟩ := h
    simp only [Tbl.insert]
    split
    · next hlt =>
      simp only [Memory.wfFrom, Bool.and_eq_true, decide_eq_true_eq]
      exact ⟨⟨hl, hb⟩, ⟨⟨hlt, h2⟩, h3⟩⟩
    · split
      · next he =>
        simp only [Memory.wfFrom, Bool.and_eq_true, decide_eq_true_eq]
        exact ⟨⟨hl, hb⟩, he ▸ h3⟩
      · next hn hne =>
        simp only [Memory.wfFrom, Bool.and_eq_true, decide_eq_true_eq]
        exact ⟨⟨h1, h2⟩, ih h3 (by omega)⟩

/-- Removing a byte keeps the form. -/
theorem Memory.wfFrom_erase {m : Memory} {lo : Nat} (a : Nat) (h : m.wfFrom lo = true) : Memory.wfFrom lo (Tbl.erase m a) = true := by
  induction m generalizing lo with
  | nil => rfl
  | cons e r ih =>
    simp only [Memory.wfFrom, Bool.and_eq_true, decide_eq_true_eq] at h
    obtain ⟨⟨h1, h2⟩, h3⟩ := h
    simp only [Tbl.erase]
    split
    · exact Memory.wfFrom_mono (ih h3) (by omega)
    · simp only [Memory.wfFrom, Bool.and_eq_true, decide_eq_true_eq]
      exact ⟨⟨h1, h2⟩, ih h3⟩

/-- A write of a byte keeps the form. -/
theorem Memory.wf_write {m : Memory} (a : Nat) (b : Byte) (h : m.wf = true) : (m.write a b).wf = true := by
  unfold Memory.write Tbl.put
  split
  · exact Memory.wfFrom_erase a h
  · next hb => exact Memory.wfFrom_insert h hb (Nat.zero_le a)

/-- A write of bytes keeps the form. -/
theorem Memory.wf_writeN {m : Memory} (a : Nat) (l : List Byte) (h : m.wf = true) : (m.writeN a l).wf = true := by
  induction l generalizing m a with
  | nil => exact h
  | cons b r ih => exact ih (a + 1) (Memory.wf_write a b h)

/-- Writes of single bytes, one after another, keep the form. -/
theorem Memory.wf_foldl_write {m : Memory} (l : List (Nat × Byte)) (h : m.wf = true) :
    Memory.wf (l.foldl (fun m e => m.write e.1 e.2) m) = true := by
  induction l generalizing m with
  | nil => exact h
  | cons e r ih => exact ih (Memory.wf_write e.1 e.2 h)

/-- Memory after reset lists nothing, in every core too. -/
theorem Memory.wf_reset : State.reset.mem.wf = true ∧ State.reset.hostMem.wf = true ∧ Local.reset.spad.wf = true ∧
    Local.reset.imem.wf = true ∧ Local.reset.full.wf = true := ⟨rfl, rfl, rfl, rfl, rfl⟩

/-- The memories after reset are in canonical form. -/
theorem memInv_reset : MemInv State.reset := ⟨rfl, rfl⟩

/-! ## Reading what was written -/

/-- A byte reads back what was written to it. -/
@[simp] theorem Memory.read_write_self (m : Memory) (a : Nat) (b : Byte) : (m.write a b).read a = b := by
  simp [Memory.read, Memory.write]

/-- A write leaves every other byte. -/
theorem Memory.read_write_ne (m : Memory) {a a' : Nat} (b : Byte) (h : a' ≠ a) : (m.write a b).read a' = m.read a' :=
  Tbl.getD_put_ne 0 m b h

/-- A write of bytes leaves every byte outside them. -/
theorem Memory.read_writeN_out (m : Memory) (a : Nat) (l : List Byte) {a' : Nat} (h : a' < a ∨ a + l.length ≤ a') :
    (m.writeN a l).read a' = m.read a' := by
  induction l generalizing m a with
  | nil => rfl
  | cons b r ih =>
    simp only [List.length_cons] at h
    simp only [Memory.writeN]
    rw [ih (m.write a b) (a + 1) (by omega), Memory.read_write_ne m b (by omega)]

/-- Written bytes read back. -/
theorem Memory.read_writeN_in (m : Memory) (a : Nat) (l : List Byte) {i : Nat} (h : i < l.length) :
    (m.writeN a l).read (a + i) = l.getD i 0 := by
  induction l generalizing m a i with
  | nil => exact absurd h (Nat.not_lt_zero i)
  | cons b r ih =>
    simp only [Memory.writeN]
    cases i with
    | zero =>
      rw [Memory.read_writeN_out _ _ _ (Or.inl (by omega))]
      simp
    | succ i =>
      have hi : i < r.length := by simpa using h
      have := ih (m.write a b) (a + 1) hi
      simpa [Nat.add_assoc, Nat.add_comm 1 i] using this

/-- A range of bytes reads back what was written to it. -/
theorem Memory.readN_writeN (m : Memory) (a : Nat) (l : List Byte) : (m.writeN a l).readN a l.length = l := by
  apply List.ext_getElem
  · simp [Memory.readN]
  · intro i h1 h2
    simp [Memory.readN, Memory.read_writeN_in m a l h2, h2]

/-! ## Writes of a home and of a port -/

/-- A request at a controller leaves everything else. -/
@[simp] theorem State.ask_mem (s : State) (r : CtlReq) : (s.ask r).mem = s.mem := rfl
@[simp] theorem State.ask_hostMem (s : State) (r : CtlReq) : (s.ask r).hostMem = s.hostMem := rfl
@[simp] theorem State.ask_net (s : State) (r : CtlReq) : (s.ask r).net = s.net := rfl
@[simp] theorem State.ask_core (s : State) (r : CtlReq) (c : Nat) : (s.ask r).core c = s.core c := rfl

/-- A write at the home replaces its bytes of main memory. -/
@[simp] theorem State.writeHome_mem (s : State) (pa : Nat) (bytes : List Byte) : (s.writeHome pa bytes).mem = s.mem.writeN pa bytes := rfl
@[simp] theorem State.writeHome_hostMem (s : State) (pa : Nat) (bytes : List Byte) : (s.writeHome pa bytes).hostMem = s.hostMem := rfl
@[simp] theorem State.writeHome_core (s : State) (pa c : Nat) (bytes : List Byte) : (s.writeHome pa bytes).core c = s.core c := rfl
@[simp] theorem State.writeHome_net (s : State) (pa : Nat) (bytes : List Byte) : (s.writeHome pa bytes).net = s.net := rfl

/-- A write at the home keeps the memories' form. -/
theorem memInv_writeHome {s : State} (pa : Nat) (bytes : List Byte) (h : MemInv s) : MemInv (s.writeHome pa bytes) :=
  ⟨Memory.wf_writeN pa bytes h.1, h.2⟩

/-- A granule that is lost leaves the memories (R42). -/
@[simp] theorem State.failGranule_mem (s : State) (g : Nat) : (s.failGranule g).mem = s.mem := rfl
@[simp] theorem State.failGranule_hostMem (s : State) (g : Nat) : (s.failGranule g).hostMem = s.hostMem := rfl

/-- A write granule by granule keeps the memories' form. -/
theorem memInv_mergeHome {s : State} (pa : Nat) (bytes : List Byte) (h : MemInv s) : MemInv (s.mergeHome pa bytes) := by
  simp only [State.mergeHome]
  split
  · exact memInv_writeHome pa bytes h
  · next hne =>
    clear hne
    generalize granulesOf pa bytes.length = l
    generalize s.mergeBad pa bytes.length = lost
    induction l generalizing s with
    | nil => exact h
    | cons g r ih =>
      refine ih ?_
      show MemInv (if lost.contains g = true then s.failGranule g else _)
      split
      · exact h
      · exact memInv_writeHome _ _ h

/-- A change of a core keeps the memories' form. -/
theorem memInv_onCore {s : State} (c : Nat) (f : Core → Core) (h : MemInv s) : MemInv (s.onCore c f) := h

/-- A change of a core's own state keeps every byte of main and host memory. -/
theorem onCore_mem (s : State) (c : Nat) (f : Core → Core) : (s.onCore c f).mem = s.mem ∧ (s.onCore c f).hostMem = s.hostMem := ⟨rfl, rfl⟩

/-- A sent packet leaves the memories. -/
@[simp] theorem State.send_mem (s : State) (src dst : Endpoint) (pl : Plane) (b : Body) : (s.send src dst pl b).mem = s.mem := rfl
@[simp] theorem State.send_hostMem (s : State) (src dst : Endpoint) (pl : Plane) (b : Body) :
    (s.send src dst pl b).hostMem = s.hostMem := rfl
@[simp] theorem State.send_held (s : State) (src dst : Endpoint) (pl : Plane) (b : Body) : (s.send src dst pl b).held = s.held := rfl
@[simp] theorem State.send_core (s : State) (src dst : Endpoint) (pl : Plane) (b : Body) (c : Nat) :
    (s.send src dst pl b).core c = s.core c := rfl

/-- Taking a packet out, or leaving it waiting at its endpoint, leaves the memories and the cores. -/
@[simp] theorem State.drop_mem (s : State) (k : Nat) : (s.drop k).mem = s.mem := by unfold State.drop; split <;> rfl
@[simp] theorem State.drop_hostMem (s : State) (k : Nat) : (s.drop k).hostMem = s.hostMem := by unfold State.drop; split <;> rfl
@[simp] theorem State.drop_core (s : State) (k c : Nat) : (s.drop k).core c = s.core c := by unfold State.drop; split <;> rfl
@[simp] theorem State.hold_mem (t s : State) (k : Nat) (p : Packet) : (t.hold s k p).mem = t.mem := by
  unfold State.hold; split <;> rfl
@[simp] theorem State.hold_hostMem (t s : State) (k : Nat) (p : Packet) : (t.hold s k p).hostMem = t.hostMem := by
  unfold State.hold; split <;> rfl
@[simp] theorem State.hold_core (t s : State) (k c : Nat) (p : Packet) : (t.hold s k p).core c = t.core c := by
  unfold State.hold; split <;> rfl

/-- A turn of a core's port leaves the memories (R358). -/
@[simp] theorem State.portTook_mem (s : State) (p : Packet) : (s.portTook p).mem = s.mem := by
  unfold State.portTook; split <;> [split; skip] <;> rfl
@[simp] theorem State.portTook_hostMem (s : State) (p : Packet) : (s.portTook p).hostMem = s.hostMem := by
  unfold State.portTook; split <;> [split; skip] <;> rfl
@[simp] theorem State.ownAccess_mem (s : State) (c : Nat) : (s.ownAccess c).mem = s.mem := by
  unfold State.ownAccess; split <;> rfl
@[simp] theorem State.ownAccess_hostMem (s : State) (c : Nat) : (s.ownAccess c).hostMem = s.hostMem := by
  unfold State.ownAccess; split <;> rfl

/-- A step on a packet keeps the memories' form if its effect does. -/
theorem memInv_take {s : State} (k : Nat) (f : Packet → State → Take) (h : MemInv s)
    (hd : ∀ p t, s.packet? k = some p → f p (s.drop k) = .did t → MemInv t)
    (hw : ∀ p t, s.packet? k = some p → f p (s.drop k) = .wait t → MemInv t) : MemInv (s.take k f) := by
  unfold State.take
  split
  · exact h
  · next p hp =>
    split
    · exact h
    · next t ht => exact ⟨by simpa using (hw p t hp ht).1, by simpa using (hw p t hp ht).2⟩
    · next t ht => exact ⟨by simpa using (hd p t hp ht).1, by simpa using (hd p t hp ht).2⟩

end Sys2Proof.Machine
end

