-- ==== Sys2Proof/Laws/Scalar.lean ====
section
/-! SUPPORT. What the shared scalar operand forms answer when the instruction may issue, what a packet's step answers, and what
taking a trap leaves alone. -/

namespace Sys2Proof.Machine

/-- Writing back the running bank's task leaves the running bank as it is. -/
theorem Issues.inHi_setTask {s : State} {c : Nat} {t : Task} (hs : Issues s c t) (u : Task) :
    ((s.core c).setTask (s.core c).inHi u).inHi = (s.core c).inHi :=
  Core.inHi_setTask_self u hs.task

/-- Going past an instruction overwrites whatever the running task was. -/
theorem Issues.retire_setTask {s : State} {c : Nat} {t : Task} (hs : Issues s c t) (u v : Task) (pc : Nat) :
    s.retire c ((s.core c).setTask (s.core c).inHi v) u pc = s.retire c (s.core c) u pc := by
  unfold State.retire; rw [Issues.inHi_setTask hs]; simp

/-- A register write and the stall mark are independent. -/
theorem Task.setReg_withStalled (t : Task) (d : Reg) (v : W) (b : Bool) :
    ({ t with stalled := b } : Task).setReg d v = { t.setReg d v with stalled := b } := by
  unfold Task.setReg; split <;> rfl

/-- Going past an instruction clears the stall mark. -/
theorem State.retire_stalled (s : State) (c : Nat) (k : Core) (t : Task) (b : Bool) (pc : Nat) :
    s.retire c k { t with stalled := b } pc = s.retire c k t pc := rfl

/-- A body that writes one register and is done: the step writes it and goes past the instruction. -/
theorem Ret.finish_setX {s : State} {c : Nat} {t : Task} (hs : Issues s c t) (d : Reg) (v : W) (n : Need) :
    (Ret.done ((s.cx c t).s.setCore c ((s.cx c t).k.setX (s.core c).inHi d v))).finish (s.cx c t) n =
      .next (s.retire c (s.core c) (t.setReg d v) (t.pc + n.len)) := by
  have : (s.cx c t).k.setX (s.core c).inHi d v =
      (s.core c).setTask (s.core c).inHi (({ t with stalled := true } : Task).setReg d v) := by
    simp only [State.cx, State.core_issue hs.task, Core.setX, Core.onTask_setTask]
  rw [this, Ret.finish_done _ (({ t with stalled := true } : Task).setReg d v) n (by simp) (Issues.inHi_setTask hs _)
    (by simp [hs.queue]), Issues.retire_setTask hs, Task.setReg_withStalled, State.retire_stalled]

/-- What the immediate frame `iOp` answers when the instruction may issue and its guard passes. -/
theorem iOp_next (len : Nat) (g : Guard) (a d : Reg) (fn : W → W) {s : State} {c : Nat} {t : Task}
    (hs : Issues s c t) (hg : guardPasses g t = true) :
    iOp len g a d fn s = .next (s.retire c (s.core c) (t.setReg d (fn (t.reg a))) (t.pc + len)) := by
  unfold iOp
  refine (scalar_runs hs _ _ ?_ ?_ ?_ ?_).trans ?_
  iterate 3 · simp [Need.plain]
  · exact hg
  exact Ret.finish_setX hs d _ _

/-- What the compact frame `cOp` answers when the instruction may issue. -/
theorem cOp_next (f : C2) (fn : W → W → W) {s : State} {c : Nat} {t : Task}
    (hs : Issues s c t) (hg : guardPasses .always t = true) :
    cOp f fn s = .next (s.retire c (s.core c) (t.setReg f.d (fn (t.reg f.d) (t.reg f.b))) (t.pc + 1)) := by
  unfold cOp
  refine (scalar_runs hs _ _ ?_ ?_ ?_ ?_).trans ?_
  iterate 3 · simp [Need.plain]
  · exact hg
  exact Ret.finish_setX hs f.d _ _

/-- What the one-source frame `q1Op` answers when it may issue: the result in the register, or pushed to the queue (R29). -/
theorem q1Op_next (pd : Bool) (a d : Reg) (g : Guard) (fn : W → W) {s : State} {c : Nat} {t : Task} (hs : Issues s c t)
    (hg : guardPasses g t = true) (hp : pd = true → (s.core c).portOk d) :
    q1Op pd a d g fn s =
      .next (s.retire c ((s.core c).placed pd d (fn (t.reg a))) (t.placed pd d (fn (t.reg a))) (t.pc + 2)) := by
  unfold q1Op
  refine (scalar_runs hs _ _ ?_ ?_ ?_ ?_).trans ?_
  iterate 2 · simp [Need.plain]
  · exact fun h => (hp h).1
  · exact hg
  simp only [Cx.alu, Cx.result, State.cx_x]
  cases pd
  · exact Ret.finish_setX hs d _ _
  · obtain ⟨h1, h2⟩ := hp rfl
    have hk : (s.cx c t).k = (s.core c).setTask (s.core c).inHi { t with stalled := true } := by
      simp only [State.cx, State.core_issue hs.task]
    have hq : (((s.core c).vu.setQueue d.toNat ((s.core c).vu.queue d.toNat ++ [fn (t.reg a)])).viq) = [] := hs.queue
    have hh : (s.core c).hi = none := by simpa [Core.inHi] using h1
    simp only [if_true, hk, Core.setTask_vu, if_neg (Nat.not_le.mpr h2)]
    let u : Task := { t with stalled := true }
    refine (Ret.finish_done (s := s) (c := c) (t := t)
      { (s.core c).setTask (s.core c).inHi u with vu := (s.core c).vu.setQueue d.toNat ((s.core c).vu.queue d.toNat ++ [fn (t.reg a)]) }
      u _ ?_ ?_ hq).trans ?_
    · simp [Core.setTask, Core.bankTask, h1]
    · simp [Core.inHi, Core.setTask, hh]
    · simp [u, State.retire, Core.placed, Task.placed, Core.pushed, Core.setTask, Core.inHi, hh, Need.plain]

/-! ## A packet's step -/

/-- No packet at that place, or one that others of its lane precede (R147): the step changes nothing. -/
theorem waitingStep_none {k : Nat} {s : State} (f : Packet → State → Take) (h : s.packet? k = none) :
    waitingStep k f s = .next s := by
  simp [waitingStep, State.take, h]

/-- A packet of another kind: the step changes nothing. -/
theorem waitingStep_no {k : Nat} {s : State} {p : Packet} (f : Packet → State → Take) (h : s.packet? k = some p)
    (hf : f p (s.drop k) = .no) : waitingStep k f s = .next s := by
  simp [waitingStep, State.take, h, hf]

/-- A packet that the unit cannot take yet waits at its endpoint (R149). -/
theorem waitingStep_wait {k : Nat} {s t : State} {p : Packet} (f : Packet → State → Take) (h : s.packet? k = some p)
    (hf : f p (s.drop k) = .wait t) : waitingStep k f s = .next (t.hold s k p) := by
  simp [waitingStep, State.take, h, hf]

/-- A packet that the unit takes: the step is the unit's answer on the state without the packet, and a turn of its port. -/
theorem waitingStep_did {k : Nat} {s t : State} {p : Packet} (f : Packet → State → Take) (h : s.packet? k = some p)
    (hf : f p (s.drop k) = .did t) : waitingStep k f s = .next (t.portTook p) := by
  simp [waitingStep, State.take, h, hf]

/-- The same for a unit that always takes what it knows. -/
theorem packetStep_none {k : Nat} {s : State} (f : Packet → State → Option State) (h : s.packet? k = none) :
    packetStep k f s = .next s := by
  simp [packetStep, State.take, h]

/-- A packet of another kind: the step changes nothing. -/
theorem packetStep_no {k : Nat} {s : State} {p : Packet} (f : Packet → State → Option State) (h : s.packet? k = some p)
    (hf : f p (s.drop k) = none) : packetStep k f s = .next s := by
  simp [packetStep, State.take, h, hf]

/-- A packet that the unit takes. -/
theorem packetStep_some {k : Nat} {s t : State} {p : Packet} (f : Packet → State → Option State) (h : s.packet? k = some p)
    (hf : f p (s.drop k) = some t) : packetStep k f s = .next (t.portTook p) := by
  simp [packetStep, State.take, h, hf]

/-- Where no arrival has its turn, the turn passes to nobody (R358). -/
theorem State.portTook_same {s : State} {p : Packet} (h : ∀ c, p.dst = .core c → (s.core c).lcl.passed = false) :
    s.portTook p = s := by
  unfold State.portTook
  split
  · next c hc => simp [h c hc]
  · rfl

/-! ## Taking a trap (R307) -/

/-- Taking a trap writes no memory and sends nothing. -/
theorem takeTrap_frame (s : State) (c : Nat) (hi : Bool) (t : Task) (code : Nat) (v pc : W) (taskless skip : Bool) :
    (takeTrap s c hi t code v pc taskless skip).mem = s.mem ∧ (takeTrap s c hi t code v pc taskless skip).hostMem = s.hostMem ∧
      (takeTrap s c hi t code v pc taskless skip).net = s.net := by
  unfold takeTrap
  by_cases h : (s.core c).regs.inTrap = true
  · rw [if_pos h]; exact ⟨rfl, rfl, rfl⟩
  · rw [if_neg h]; exact ⟨rfl, rfl, rfl⟩

end Sys2Proof.Machine
end

