-- ==== Sys2Proof/Tests/Slice0.lean ====
section
/-! SUPPORT. Tests: for every check of well-formedness an ill-formed instruction; the words of every encoded row; and for every
obligation with hypotheses a concrete state and operands that meet them, clause by clause. `witness_<name>_<clause>` is a
witness for the obligation (or the part of one) `<name>`; most of them also evaluate the clause there. -/

section
set_option Elab.async false

namespace Sys2Proof.Tests
open Sys2Proof.Machine

/-- The outcome is the next state `t`. -/
def answers (o : Out) (t : State) : Bool := match o with
  | .next u => decide (u = t)
  | _ => false

/-- The outcome is a next state with the property `p`. -/
def gives (o : Out) (p : State → Bool) : Bool := match o with
  | .next u => p u
  | _ => false

/-- Instruction `i` takes the exact trap `code` with `v`. -/
def traps (i : Instr) (s : State) (c : Nat) (t : Task) (code : Nat) (v : W) : Bool :=
  answers (exec i s) (takeTrap (s.issue c (s.core c).inHi) c (s.core c).inHi t code v (trapPc t t.pc) false false)

/-- A user LO task at pc 0 with X4 = 7 and X5 = 3. -/
def task0 : Task := { Task.enter false 0 0 [] with x := [(4, 7), (5, 3)] }

/-- Core `k` in a machine after reset. -/
def withCore (k : Core) : State := { State.reset with cores := [(0, k)] }

/-- Core 0 runs the LO task `t` in context 0. -/
def core0 (t : Task) : Core := { Core.reset with ctx := some 0, lo := some t }
/-- The machine after reset, but for that. -/
def at0 (t : Task) : State := withCore (core0 t)

/-- Guard and issue conditions of an instruction of core 0's scalar stream. -/
theorem issues_of {s : State} {t : Task} (h : (decide (s.actor = 0) && decide ((s.core 0).task? = some t) &&
    decide ((s.core 0).vu.viq = []) && decide ((s.core 0).vu.recording = none) && decide (t.late = []) && decide (t.bytewise = none)) = true) :
    Issues s 0 t := by
  simp only [Bool.and_eq_true, decide_eq_true_eq] at h
  exact ⟨h.1.1.1.1.1, h.1.1.1.1.2, h.1.1.1.2, h.1.1.2, h.1.2, h.2⟩

/-- Such a task issues. -/
theorem issues_at0 (t : Task) (h1 : t.late = [] := by rfl) (h2 : t.bytewise = none := by rfl) : Issues (at0 t) 0 t :=
  ⟨rfl, rfl, rfl, rfl, h1, h2⟩

/-- An answer is the outcome that a statement names. -/
theorem answers_next {o : Out} {t : State} (h : answers o t = true) : o = .next t := by
  unfold answers at h; split at h
  · simpa using h
  · cases h

/-- The scratchpad address of core 5's offset `off` of window `w`. -/
def ad (w off : Nat) : Nat := localAddr 5 w off

/-- A task whose X4 is core 5's offset `off`. -/
def tF (off : Nat) : Task := { Task.enter false 0 0 [] with x := [(4, w64 (ad 0 off)), (5, 9), (6, 0x12345678ABCDEF01), (8, 1), (9, 2)] }

/-- Core 0 runs it; core 5 is of the same context. -/
def sF (off : Nat) (f : Core → Core := id) : State := { State.reset with cores := [(0, f (core0 (tF off))), (5, { Core.reset with ctx := some 0 })] }

/-- A packet. -/
def pk (src dst : Endpoint) (pl : Plane) (b : Body) : Packet := { src := src, dst := dst, plane := pl, body := b }

/-- One packet is under way. -/
def withNet (s : State) (p : Packet) : State := { s with net := [p] }

/-- The task waits. -/
def stalled (w : Wait) (f : Core → Core := id) : State := sF 0x40 fun k => f (k.setTask false { tF 0x40 with wait := w, stalled := true })

/-- That task. -/
def ts (w : Wait) : Task := { tF 0x40 with wait := w, stalled := true }

/-- Core 5 with a packet for its port; word 16 of its scratchpad is full. -/
def own (f : Core → Core) (src : Nat) (b : Body) : State := { State.reset with cores := [(5, f { Core.reset with ctx := some 0, lcl := { Local.reset with spad := [⟨0x40, 0x9A⟩, ⟨0x41, 7⟩], full := [⟨1, 1⟩] } })], net := [pk (.core src) (.core 5) .request b] }

/-- A requester of context 0. -/
def rq (src : Nat) : Requester := { core := src, hi := false, ctx := some 0, sup := false }

/-- A vector register of 32-bit lanes. -/
def bv (l : List Nat) : BitVec 2048 := BitVec.ofNat 2048 (ofLanes 32 l)
/-- Core 0 with instruction `i` at the head of its vector queue. -/
def vItem (i : Instr) (caps : List (Nat × W) := []) : VItem := ⟨i, 0x1234, caps, false, 12, false, none, [], []⟩

/-- That instruction alone. -/
def vEntry (i : Instr) (caps : List (Nat × W) := []) : VEntry := ⟨[vItem i caps], 0, 0, 1, 0, 0, false⟩

/-- Its vector unit, four registers filled. -/
def vUnit (i : Instr) (caps : List (Nat × W) := []) : VecUnit := { VecUnit.reset with viq := [vEntry i caps], vl := 40, v := [(4, bv ((List.range 64).map fun j => j * 0x3C0A1B2D + 0x40490FDB)), (5, bv ((List.range 64).map fun j => (63 - j) * 0x01234567 + 0x3F800000)), (6, bv ((List.range 64).map fun j => j + 1000)), (7, bv ((List.range 64).map fun j => (j * 7) % 70))] }

/-- A task with two predicates. -/
def vTask : Task := { Task.enter false 0 12 [] with p := [(1, 0x5555555555), (2, 0x0F0F0F0F0F)] }

/-- The core of these. -/
def vCore (i : Instr) (caps : List (Nat × W) := []) : Core := { core0 vTask with vu := vUnit i caps, bankLo := { rmode := 4, rng := 0x123456789ABC, mst := 0 } }

/-- Core 0 is that core, and its vector stream is to act. -/
def vAt (i : Instr) (caps : List (Nat × W) := []) (f : Core → Core := id) : State := { withCore (f (vCore i caps)) with turn := .vector 0 }
end Sys2Proof.Tests

/-! ## Well-formed instructions and their words -/

namespace Sys2Proof.Tests.Encodings
open Sys2Proof.Machine Sys2Proof.Tests

/-- R18, R19, R20, R22, R27, R28, R324: for each check of `Instr.wellFormed` an instruction that it refuses, and the nearest one that it lets pass. -/
theorem test_wellFormed : ([
  (.add ⟨false, false, 8, 16, 6, ⟨true, 0⟩⟩, .add ⟨false, false, 8, 16, 6, ⟨false, 0⟩⟩),
  (.add ⟨true, false, 3, 16, 6, .always⟩, .add ⟨true, false, 4, 16, 6, .always⟩),
  (.add ⟨true, false, 12, 16, 6, .always⟩, .add ⟨true, false, 11, 16, 6, .always⟩),
  (.add ⟨false, true, 8, 16, 4, .always⟩, .add ⟨false, true, 8, 16, 3, .always⟩),
  (.fcvt ⟨.i64, .n32, 16, 6, .always⟩, .fcvt ⟨.i64, .f32, 16, 6, .always⟩),
  (.jl ⟨1, 0, .always⟩, .jl ⟨1, 1, .always⟩),
  (.ld ⟨0, true, .d, 16, 6, .always⟩, .ld ⟨0, true, .w, 16, 6, .always⟩),
  (.ld ⟨0, false, .n, 16, 6, .always⟩, .ld ⟨0, false, .d, 16, 6, .always⟩),
  (.rld ⟨0, true, .n, 16, 6, .always⟩, .rld ⟨0, false, .n, 16, 6, .always⟩),
  (.ldp ⟨0, 16, 7, .always⟩, .ldp ⟨0, 16, 8, .always⟩),
  (.cas2 ⟨9, 16, 6, .always⟩, .cas2 ⟨10, 16, 6, .always⟩),
  (.send ⟨0, 8, 16, .always⟩, .send ⟨1, 8, 16, .always⟩),
  (.send ⟨7, 8, 16, .always⟩, .send ⟨6, 8, 16, .always⟩),
  (.send ⟨6, 27, 16, .always⟩, .send ⟨6, 26, 16, .always⟩),
  (.sendc ⟨15, 29, 16, 6, .always⟩, .sendc ⟨15, 28, 16, 6, .always⟩),
  (.mxcmd ⟨10, 16, 6, .always⟩, .mxcmd ⟨12, 16, 6, .always⟩),
  (.get ⟨3, 18, 6, .always⟩, .get ⟨3, 16, 6, .always⟩),
  (.get ⟨3, 0, 6, .always⟩, .get ⟨3, 28, 6, .always⟩),
  (.pgsum ⟨12, .always⟩, .pgsum ⟨24, .always⟩),
  (.mscan ⟨5, 7, 16, 6, .always⟩, .mscan ⟨5, 8, 16, 6, .always⟩),
  (.vadd ⟨true, .f32, 4, 16, 6, .always⟩, .vadd ⟨true, .f32, 3, 16, 6, .always⟩),
  (.vfma ⟨false, .i32, 8, 16, 6, .always⟩, .vfma ⟨false, .bf16, 8, 16, 6, .always⟩),
  (.vneg ⟨false, .n16, 16, 6, .always⟩, .vneg ⟨false, .i16, 16, 6, .always⟩),
  (.vred ⟨false, .i32, .and, 16, 6, .always⟩, .vred ⟨false, .f32, .and, 16, 6, .always⟩),
  (.vcvt ⟨false, .q8r, .f16, 16, 6, .always⟩, .vcvt ⟨false, .e4m3, .f16, 16, 6, .always⟩),
  (.vdec ⟨0, .f32, 16, 6, .always⟩, .vdec ⟨0, .f16, 16, 6, .always⟩),
  (.vdec ⟨2, .f16, 16, 6, .always⟩, .vdec ⟨1, .f16, 16, 6, .always⟩),
  (.vqnt ⟨.f16, 0, 16, 6, .always⟩, .vqnt ⟨.e4m3, 0, 16, 6, .always⟩),
  (.vqnt ⟨.e4m3, 3, 16, 7, .always⟩, .vqnt ⟨.e4m3, 3, 16, 6, .always⟩),
  (.winset ⟨9, 16, .always⟩, .winset ⟨10, 16, .always⟩),
  (.srd ⟨0x30, 6, .always⟩, .srd ⟨0x2F, 6, .always⟩),
  (.srd ⟨0xFF, 6, .always⟩, .srd ⟨0x100, 6, .always⟩),
  (.swr ⟨0x111, 16, .always⟩, .swr ⟨0x110, 16, .always⟩),
  (.cCmpEq ⟨9, 8⟩, .cCmpEq ⟨9, 7⟩)] : List (Instr × Instr)).all (fun p => !p.1.wellFormed && p.2.wellFormed) = true := by decide +kernel

/-- Every pair's halfwords decode to its instruction. -/
noncomputable def reads (l : List (List Nat × Instr)) : Bool := l.all fun p =>
  match decode (p.1.map (BitVec.ofNat 16)) with
  | .ok i => decide (i = p.2)
  | .error _ => false

/-- R263–R271, R25: the words of the arithmetic forms. -/
theorem test_decode_scalar : reads [
  ([0x5601, 0xC440], .add ⟨true, true, 8, 16, 2, ⟨true, 3⟩⟩),
  ([0x5601, 0xD440], .sub ⟨true, true, 8, 16, 2, ⟨true, 3⟩⟩),
  ([0x5601, 0xE440], .min ⟨true, true, 8, 16, 2, ⟨true, 3⟩⟩),
  ([0x5601, 0xF440], .max ⟨true, true, 8, 16, 2, ⟨true, 3⟩⟩),
  ([0x5605, 0xC440], .minu ⟨true, true, 8, 16, 2, ⟨true, 3⟩⟩),
  ([0x5605, 0xD440], .maxu ⟨true, true, 8, 16, 2, ⟨true, 3⟩⟩),
  ([0x5605, 0xE440], .andn ⟨true, true, 8, 16, 2, ⟨true, 3⟩⟩),
  ([0x5605, 0xF440], .bfx ⟨true, true, 8, 16, 2, ⟨true, 3⟩⟩),
  ([0x5609, 0xC440], .and ⟨true, true, 8, 16, 2, ⟨true, 3⟩⟩),
  ([0x5609, 0xD440], .or ⟨true, true, 8, 16, 2, ⟨true, 3⟩⟩),
  ([0x5609, 0xE440], .xor ⟨true, true, 8, 16, 2, ⟨true, 3⟩⟩),
  ([0x5609, 0xF440], .bfi ⟨true, true, 8, 16, 2, ⟨true, 3⟩⟩),
  ([0x560D, 0xC440], .shl ⟨true, true, 8, 16, 2, ⟨true, 3⟩⟩),
  ([0x560D, 0xD440], .shr ⟨true, true, 8, 16, 2, ⟨true, 3⟩⟩),
  ([0x560D, 0xE440], .sar ⟨true, true, 8, 16, 2, ⟨true, 3⟩⟩),
  ([0x560D, 0xF440], .rol ⟨true, true, 8, 16, 2, ⟨true, 3⟩⟩)] = true := by decide +kernel

/-- R264–R267: the words of multiplication, division and the bit counts. -/
theorem test_decode_multiply : reads [
  ([0x5611, 0xC440], .mul ⟨true, true, 8, 16, 2, ⟨true, 3⟩⟩),
  ([0x5611, 0xD440], .mulh ⟨true, true, 8, 16, 2, ⟨true, 3⟩⟩),
  ([0x5611, 0xE440], .mulhu ⟨true, true, 8, 16, 2, ⟨true, 3⟩⟩),
  ([0x5611, 0xF440], .xyaddr ⟨true, true, 8, 16, 2, ⟨true, 3⟩⟩),
  ([0x5615, 0xC440], .div ⟨true, true, 8, 16, 2, ⟨true, 3⟩⟩),
  ([0x5615, 0xD440], .divu ⟨true, true, 8, 16, 2, ⟨true, 3⟩⟩),
  ([0x5615, 0xE440], .rem ⟨true, true, 8, 16, 2, ⟨true, 3⟩⟩),
  ([0x5615, 0xF440], .remu ⟨true, true, 8, 16, 2, ⟨true, 3⟩⟩),
  ([0x5619, 0x4040], .clz ⟨true, 16, 2, ⟨true, 3⟩⟩),
  ([0x5619, 0x5040], .ctz ⟨true, 16, 2, ⟨true, 3⟩⟩),
  ([0x5619, 0x6040], .popc ⟨true, 16, 2, ⟨true, 3⟩⟩),
  ([0x5619, 0x7340], .ext ⟨true, true, .w32, 16, 2, ⟨true, 3⟩⟩),
  ([0xD61D, 0x5440], .sel ⟨5, 8, 16, 6, ⟨true, 3⟩⟩),
  ([0xD61D, 0x8440], .wfld ⟨8, 16, 6, ⟨true, 3⟩⟩),
  ([0xB621, 0x9442], .cmp ⟨true, .gtu, 8, 16, 5, ⟨true, 3⟩⟩)] = true := by decide +kernel

/-- R20, R27: the words of the immediates. -/
theorem test_decode_immediate : reads [
  ([0xD625, 0xAAC0], .addi ⟨0x155, 16, 6, ⟨true, 3⟩⟩),
  ([0xD629, 0xAAC0], .andi ⟨0x155, 16, 6, ⟨true, 3⟩⟩),
  ([0xD62D, 0xAAC0], .ori ⟨0x155, 16, 6, ⟨true, 3⟩⟩),
  ([0xD631, 0xAAC0], .xori ⟨0x155, 16, 6, ⟨true, 3⟩⟩),
  ([0xD635, 0x15C0], .shli ⟨0x2B, 16, 6, ⟨true, 3⟩⟩),
  ([0xD635, 0x55C0], .shri ⟨0x2B, 16, 6, ⟨true, 3⟩⟩),
  ([0xD635, 0x95C0], .sari ⟨0x2B, 16, 6, ⟨true, 3⟩⟩),
  ([0xB639, 0xAAC3], .cmpi ⟨0x155, .ge, 16, 5, ⟨true, 3⟩⟩),
  ([0xD63D, 0xAA80], .movi ⟨0x155, 6, ⟨true, 3⟩⟩),
  ([0xD63D, 0xAA84], .movhi ⟨0x155, 6, ⟨true, 3⟩⟩)] = true := by decide +kernel

/-- R27: the words of the scalar floating-point forms, part 1. -/
theorem test_decode_float1 : reads [
  ([0xD641, 0x0440], .faddF32 ⟨8, 16, 6, ⟨true, 3⟩⟩),
  ([0xD645, 0x0440], .faddF64 ⟨8, 16, 6, ⟨true, 3⟩⟩),
  ([0xD641, 0x1440], .fsubF32 ⟨8, 16, 6, ⟨true, 3⟩⟩),
  ([0xD645, 0x1440], .fsubF64 ⟨8, 16, 6, ⟨true, 3⟩⟩),
  ([0xD641, 0x2440], .fmulF32 ⟨8, 16, 6, ⟨true, 3⟩⟩),
  ([0xD645, 0x2440], .fmulF64 ⟨8, 16, 6, ⟨true, 3⟩⟩),
  ([0xD641, 0x3440], .fdivF32 ⟨8, 16, 6, ⟨true, 3⟩⟩),
  ([0xD645, 0x3440], .fdivF64 ⟨8, 16, 6, ⟨true, 3⟩⟩),
  ([0xD649, 0x1440], .fminF32 ⟨8, 16, 6, ⟨true, 3⟩⟩),
  ([0xD64D, 0x1440], .fminF64 ⟨8, 16, 6, ⟨true, 3⟩⟩),
  ([0xD649, 0x2440], .fmaxF32 ⟨8, 16, 6, ⟨true, 3⟩⟩),
  ([0xD64D, 0x2440], .fmaxF64 ⟨8, 16, 6, ⟨true, 3⟩⟩),
  ([0xD651, 0x0440], .ffmaF32 ⟨8, 16, 6, ⟨true, 3⟩⟩),
  ([0xD651, 0x1440], .ffmaF64 ⟨8, 16, 6, ⟨true, 3⟩⟩),
  ([0xD649, 0x0040], .fsqrtF32 ⟨16, 6, ⟨true, 3⟩⟩),
  ([0xD64D, 0x0040], .fsqrtF64 ⟨16, 6, ⟨true, 3⟩⟩)] = true := by decide +kernel

/-- R27: the words of the scalar floating-point forms, part 2. -/
theorem test_decode_float2 : reads [
  ([0xB655, 0xB440], .fcmp ⟨true, .le, 8, 16, 5, ⟨true, 3⟩⟩),
  ([0xD659, 0x33C0], .fcvt ⟨.bf16, .n32, 16, 6, ⟨true, 3⟩⟩)] = true := by decide +kernel

/-- R274–R278: the words of branches and predicates. -/
theorem test_decode_branch : reads [
  ([0x9661, 0xAAC0], .br ⟨0x155, .gt, 16, ⟨true, 3⟩⟩),
  ([0x7665, 0xAA94], .bp ⟨0x155, .b0, 5, ⟨true, 3⟩⟩),
  ([0x1669, 0xAA80], .j ⟨0x155, ⟨true, 3⟩⟩),
  ([0x3669, 0xAAC0], .jl ⟨0x155, 16, ⟨true, 3⟩⟩),
  ([0x166D, 0x0040], .jr ⟨16, ⟨true, 3⟩⟩),
  ([0xD66D, 0x1040], .jlr ⟨16, 6, ⟨true, 3⟩⟩),
  ([0xB671, 0x9294], .plog ⟨9, 5, 5, 5, ⟨true, 3⟩⟩),
  ([0xB675, 0x0040], .pset ⟨16, 5, ⟨true, 3⟩⟩),
  ([0xD675, 0x1014], .pget ⟨5, 6, ⟨true, 3⟩⟩),
  ([0xD675, 0x2014], .pcnt ⟨5, 6, ⟨true, 3⟩⟩),
  ([0x167B, 0x0040, 0xA5C3, 0x004D], .repb ⟨16, ⟨true, 3⟩, 9, 5, 0xA5C3⟩),
  ([0x007D, 0x0000], .repe)] = true := by decide +kernel

/-- R27, R30: the words of loads, stores and atomics. -/
theorem test_decode_memory : reads [
  ([0xD681, 0xAD40], .ld ⟨21, true, .w, 16, 6, ⟨true, 3⟩⟩),
  ([0xD685, 0xAD40], .ldAcq ⟨21, true, .w, 16, 6, ⟨true, 3⟩⟩),
  ([0xD689, 0xA940], .st ⟨21, .w, 16, 6, ⟨true, 3⟩⟩),
  ([0xD68D, 0xA940], .stRel ⟨21, .w, 16, 6, ⟨true, 3⟩⟩),
  ([0xD691, 0xA440], .ldx ⟨true, .w, 8, 16, 6, ⟨true, 3⟩⟩),
  ([0xD695, 0x2440], .stx ⟨.w, 8, 16, 6, ⟨true, 3⟩⟩),
  ([0xD699, 0xA9C0], .ldp ⟨21, 16, 6, ⟨true, 3⟩⟩),
  ([0xD69D, 0xA9C0], .stp ⟨21, 16, 6, ⟨true, 3⟩⟩),
  ([0xD6A1, 0x8440], .amoW ⟨.swap, 8, 16, 6, ⟨true, 3⟩⟩),
  ([0xD6A5, 0x8440], .amoD ⟨.swap, 8, 16, 6, ⟨true, 3⟩⟩),
  ([0xD6A9, 0x0440], .casW ⟨8, 16, 6, ⟨true, 3⟩⟩),
  ([0xD6A9, 0x1440], .casD ⟨8, 16, 6, ⟨true, 3⟩⟩),
  ([0xD6AD, 0x0440], .cas2 ⟨8, 16, 6, ⟨true, 3⟩⟩),
  ([0x16B1, 0x0440], .cwb ⟨8, 16, ⟨true, 3⟩⟩),
  ([0x16B1, 0x1440], .cinv ⟨8, 16, ⟨true, 3⟩⟩)] = true := by decide +kernel

/-- R27: the words of remote accesses, full and empty words and messages. -/
theorem test_decode_remote : reads [
  ([0xD6C1, 0xAD40], .rld ⟨21, true, .w, 16, 6, ⟨true, 3⟩⟩),
  ([0xD6C5, 0xAD40], .rst ⟨21, true, .w, 16, 6, ⟨true, 3⟩⟩),
  ([0xD6C9, 0x8440], .ramoW ⟨.swap, 8, 16, 6, ⟨true, 3⟩⟩),
  ([0xD6CD, 0x8440], .ramoD ⟨.swap, 8, 16, 6, ⟨true, 3⟩⟩),
  ([0xD6E9, 0xAD40], .ldf ⟨21, true, .w, 16, 6, ⟨true, 3⟩⟩),
  ([0xD6ED, 0xAD40], .ldfe ⟨21, true, .w, 16, 6, ⟨true, 3⟩⟩),
  ([0xD6F1, 0xA940], .stf ⟨21, .w, 16, 6, ⟨true, 3⟩⟩),
  ([0x16F5, 0x0440], .feclr ⟨8, 16, ⟨true, 3⟩⟩),
  ([0x16D1, 0x3440], .send ⟨3, 8, 16, ⟨true, 3⟩⟩),
  ([0xD6D1, 0xB440], .sendw ⟨3, 8, 16, 6, ⟨true, 3⟩⟩),
  ([0xD6D5, 0x9440], .sendc ⟨9, 8, 16, 6, ⟨true, 3⟩⟩),
  ([0xD6D9, 0x02C0], .mrd ⟨5, 16, 6, ⟨true, 3⟩⟩),
  ([0x16DD, 0x0040], .tswap ⟨16, ⟨true, 3⟩⟩),
  ([0xD6DD, 0x1440], .mxcmd ⟨8, 16, 6, ⟨true, 3⟩⟩),
  ([0x16DD, 0x2040], .capset ⟨16, ⟨true, 3⟩⟩)] = true := by decide +kernel

/-- R27: the words of copies. -/
theorem test_decode_copy : reads [
  ([0xD6E1, 0x04C0], .get ⟨9, 16, 6, ⟨true, 3⟩⟩),
  ([0xD6E1, 0x0CC0], .put ⟨9, 16, 6, ⟨true, 3⟩⟩),
  ([0xD6E1, 0x14C0], .getx ⟨9, 16, 6, ⟨true, 3⟩⟩),
  ([0xD6E1, 0x1CC0], .putx ⟨9, 16, 6, ⟨true, 3⟩⟩),
  ([0xD6E1, 0x24C0], .putxa ⟨9, 16, 6, ⟨true, 3⟩⟩),
  ([0xD6E1, 0x2CC0], .putr ⟨9, 16, 6, ⟨true, 3⟩⟩),
  ([0xD6E1, 0x34C0], .mcast ⟨9, 16, 6, ⟨true, 3⟩⟩),
  ([0x16E5, 0x04C0], .slotret ⟨9, 16, ⟨true, 3⟩⟩),
  ([0x56E5, 0x0CC0], .sbind ⟨9, 16, 2, ⟨true, 3⟩⟩),
  ([0x16E5, 0x14C0], .cwait ⟨9, 16, ⟨true, 3⟩⟩)] = true := by decide +kernel

/-- R27: the words of map instructions. -/
theorem test_decode_map : reads [
  ([0xD701, 0x5440], .mprobe ⟨5, 8, 16, 6, ⟨true, 3⟩⟩),
  ([0xD705, 0x5440], .minsert ⟨5, 8, 16, 6, ⟨true, 3⟩⟩),
  ([0xD70D, 0x5440], .mremove ⟨5, 8, 16, 6, ⟨true, 3⟩⟩),
  ([0xD711, 0x5440], .mcas ⟨5, 8, 16, 6, ⟨true, 3⟩⟩),
  ([0xD715, 0x5440], .mprobev ⟨5, 8, 16, 6, ⟨true, 3⟩⟩),
  ([0xD71D, 0x5440], .mrowget ⟨5, 8, 16, 6, ⟨true, 3⟩⟩),
  ([0xD721, 0x5440], .mrowput ⟨5, 8, 16, 6, ⟨true, 3⟩⟩),
  ([0xD725, 0x5440], .mscan ⟨5, 8, 16, 6, ⟨true, 3⟩⟩),
  ([0xD729, 0x5440], .mstat ⟨5, 8, 16, 6, ⟨true, 3⟩⟩),
  ([0xD72D, 0x5440], .mrepl ⟨5, 8, 16, 6, ⟨true, 3⟩⟩),
  ([0xD709, 0x3440], .mupsert ⟨.min, 8, 16, 6, ⟨true, 3⟩⟩),
  ([0xD719, 0x3440], .mupsertv ⟨.min, 8, 16, 6, ⟨true, 3⟩⟩)] = true := by decide +kernel

/-- R27, R28: the words of vector forms of two operands, part 1. -/
theorem test_decode_vectorBinary1 : reads [
  ([0xD741, 0xA440], .vadd ⟨true, .bf16, 8, 16, 6, ⟨true, 3⟩⟩),
  ([0xD745, 0xA440], .vsub ⟨true, .bf16, 8, 16, 6, ⟨true, 3⟩⟩),
  ([0xD749, 0xA440], .vmul ⟨true, .bf16, 8, 16, 6, ⟨true, 3⟩⟩),
  ([0xD74D, 0xA440], .vfma ⟨true, .bf16, 8, 16, 6, ⟨true, 3⟩⟩),
  ([0xD751, 0xA440], .vfms ⟨true, .bf16, 8, 16, 6, ⟨true, 3⟩⟩),
  ([0xD755, 0xA440], .vfnma ⟨true, .bf16, 8, 16, 6, ⟨true, 3⟩⟩),
  ([0xD759, 0xA440], .vdiv ⟨true, .bf16, 8, 16, 6, ⟨true, 3⟩⟩),
  ([0xD75D, 0xA440], .vmin ⟨true, .bf16, 8, 16, 6, ⟨true, 3⟩⟩),
  ([0xD761, 0xA440], .vmax ⟨true, .bf16, 8, 16, 6, ⟨true, 3⟩⟩),
  ([0xD765, 0x8440], .vand ⟨true, 8, 16, 6, ⟨true, 3⟩⟩),
  ([0xD765, 0x9440], .vor ⟨true, 8, 16, 6, ⟨true, 3⟩⟩),
  ([0xD765, 0xA440], .vxor ⟨true, 8, 16, 6, ⟨true, 3⟩⟩),
  ([0xD769, 0x9440], .vshl ⟨true, true, 8, 16, 6, ⟨true, 3⟩⟩),
  ([0xD769, 0xB440], .vshr ⟨true, true, 8, 16, 6, ⟨true, 3⟩⟩),
  ([0xD769, 0xD440], .vsar ⟨true, true, 8, 16, 6, ⟨true, 3⟩⟩),
  ([0xB76D, 0xA443], .vcmp ⟨true, .bf16, 8, 16, .le, 5, ⟨true, 3⟩⟩)] = true := by decide +kernel

/-- R27, R28: the words of vector forms of two operands, part 2. -/
theorem test_decode_vectorBinary2 : reads [
  ([0xD771, 0xD440], .vsel ⟨true, 5, 8, 16, 6, ⟨true, 3⟩⟩),
  ([0xD775, 0x8440], .vperm ⟨true, 8, 16, 6, ⟨true, 3⟩⟩),
  ([0xD775, 0x1440], .vext ⟨8, 16, 6, ⟨true, 3⟩⟩),
  ([0xD775, 0x2440], .vins ⟨8, 16, 6, ⟨true, 3⟩⟩),
  ([0xD775, 0xB440], .vdot4I8 ⟨true, 8, 16, 6, ⟨true, 3⟩⟩),
  ([0xD775, 0xC440], .vdot4N8 ⟨true, 8, 16, 6, ⟨true, 3⟩⟩)] = true := by decide +kernel

/-- R27, R28: the words of vector forms of one operand. -/
theorem test_decode_vectorUnary : reads [
  ([0xD779, 0x8024], .vmov ⟨true, 9, 6, ⟨true, 3⟩⟩),
  ([0xD779, 0xA0A4], .vabs ⟨true, .bf16, 9, 6, ⟨true, 3⟩⟩),
  ([0xD779, 0xA124], .vneg ⟨true, .bf16, 9, 6, ⟨true, 3⟩⟩),
  ([0xD779, 0xA1A4], .vsqrt ⟨true, .bf16, 9, 6, ⟨true, 3⟩⟩),
  ([0xD779, 0xA224], .vrcp ⟨true, .bf16, 9, 6, ⟨true, 3⟩⟩),
  ([0xD779, 0xA2A4], .vrsq ⟨true, .bf16, 9, 6, ⟨true, 3⟩⟩),
  ([0xD779, 0xA324], .vexp2 ⟨true, .bf16, 9, 6, ⟨true, 3⟩⟩),
  ([0xD779, 0xA3A4], .vlog2 ⟨true, .bf16, 9, 6, ⟨true, 3⟩⟩),
  ([0xD779, 0x8424], .vbcast ⟨true, 9, 6, ⟨true, 3⟩⟩),
  ([0xD779, 0x0480], .viota ⟨6, ⟨true, 3⟩⟩),
  ([0xD779, 0xD524], .vcomp ⟨true, 5, 9, 6, ⟨true, 3⟩⟩),
  ([0xD779, 0x05C0], .vlen ⟨16, 6, ⟨true, 3⟩⟩),
  ([0xD779, 0x0640], .vmovQ ⟨16, 2, ⟨true, 3⟩⟩),
  ([0xD779, 0xA924], .vred ⟨true, .bf16, .max, 9, 6, ⟨true, 3⟩⟩),
  ([0xD779, 0xAD24], .vscan ⟨true, .bf16, .max, 9, 6, ⟨true, 3⟩⟩)] = true := by decide +kernel

/-- R27: the words of vector memory and conversions. -/
theorem test_decode_vectorMemory : reads [
  ([0xD781, 0xA940], .vld ⟨21, 16, 6, ⟨true, 3⟩⟩),
  ([0xD781, 0xAD40], .vst ⟨21, 16, 6, ⟨true, 3⟩⟩),
  ([0xD785, 0x0440], .vlds ⟨8, 16, 6, ⟨true, 3⟩⟩),
  ([0xD785, 0x1440], .vsts ⟨8, 16, 6, ⟨true, 3⟩⟩),
  ([0xD785, 0x2440], .vldx ⟨8, 16, 6, ⟨true, 3⟩⟩),
  ([0xD785, 0x3440], .vstx ⟨8, 16, 6, ⟨true, 3⟩⟩),
  ([0x1789, 0x0040], .tblld ⟨16, ⟨true, 3⟩⟩),
  ([0x1789, 0x1440], .winset ⟨8, 16, ⟨true, 3⟩⟩),
  ([0xD78D, 0x9DC0], .vcvt ⟨true, .e4m3, .n16, 16, 6, ⟨true, 3⟩⟩),
  ([0xD791, 0x11C0], .vdec ⟨2, .e4m3, 16, 6, ⟨true, 3⟩⟩),
  ([0xD795, 0xAB40], .venc ⟨true, .e2m1, 6, 16, 6, ⟨true, 3⟩⟩),
  ([0xD799, 0x69C0], .vqnt ⟨.q8r, 3, 16, 6, ⟨true, 3⟩⟩),
  ([0xD79D, 0x2F40], .vdqnt ⟨5, .q4r, 16, 6, ⟨true, 3⟩⟩)] = true := by decide +kernel

/-- R27: the words of tiles, latches and key pages. -/
theorem test_decode_matrix : reads [
  ([0xB7A1, 0x0040], .mma ⟨16, 5, ⟨true, 3⟩⟩),
  ([0xB7A1, 0x1280], .mmat ⟨5, 5, ⟨true, 3⟩⟩),
  ([0xB7A1, 0x2000], .tzero ⟨5, ⟨true, 3⟩⟩),
  ([0xB7A5, 0x0440], .tld ⟨8, 16, 5, ⟨true, 3⟩⟩),
  ([0xB7A5, 0x1440], .tldT ⟨8, 16, 5, ⟨true, 3⟩⟩),
  ([0xB7A5, 0x2440], .tst ⟨8, 16, 5, ⟨true, 3⟩⟩),
  ([0xB7A5, 0x3440], .tstn ⟨8, 16, 5, ⟨true, 3⟩⟩),
  ([0xB7A5, 0x4440], .trow ⟨8, 16, 5, ⟨true, 3⟩⟩),
  ([0x17A9, 0x0040], .clld ⟨16, ⟨true, 3⟩⟩),
  ([0x17A9, 0x1000], .clrot ⟨⟨true, 3⟩⟩),
  ([0x17A9, 0x2000], .clwait ⟨⟨true, 3⟩⟩),
  ([0x17AD, 0x0440], .pgbound ⟨8, 16, ⟨true, 3⟩⟩),
  ([0x17AD, 0x1440], .pgpick ⟨8, 16, ⟨true, 3⟩⟩),
  ([0x17AD, 0x2040], .pgsum ⟨16, ⟨true, 3⟩⟩),
  ([0x17AD, 0x3040], .pgclr ⟨16, ⟨true, 3⟩⟩)] = true := by decide +kernel

/-- R27: the words of tasks and barriers. -/
theorem test_decode_task : reads [
  ([0xD7C1, 0x0440], .dqpush ⟨8, 16, 6, ⟨true, 3⟩⟩),
  ([0xD7C1, 0x1000], .dqpop ⟨6, ⟨true, 3⟩⟩),
  ([0xD7C1, 0x2040], .dqsplit ⟨16, 6, ⟨true, 3⟩⟩),
  ([0xD7C1, 0x3040], .dqsteal ⟨16, 6, ⟨true, 3⟩⟩),
  ([0x17C5, 0x0000], .done ⟨⟨true, 3⟩⟩),
  ([0x17C5, 0x1000], .idem ⟨⟨true, 3⟩⟩),
  ([0x17C5, 0x1004], .idemEnd ⟨⟨true, 3⟩⟩),
  ([0x17C9, 0x0440], .hset ⟨8, 16, ⟨true, 3⟩⟩),
  ([0xD7C9, 0x1440], .hmask ⟨8, 16, 6, ⟨true, 3⟩⟩),
  ([0xD7CD, 0x0040], .launch ⟨16, 6, ⟨true, 3⟩⟩),
  ([0xD7CD, 0x00C0], .launchH ⟨16, 6, ⟨true, 3⟩⟩),
  ([0xD7D1, 0x0440], .barv ⟨8, 16, 6, ⟨true, 3⟩⟩),
  ([0xD7D1, 0x1440], .barw ⟨8, 16, 6, ⟨true, 3⟩⟩)] = true := by decide +kernel

/-- R27, R324: the words of fences, traps and system registers. -/
theorem test_decode_system : reads [
  ([0x17D5, 0x2000], .fenceAcq ⟨.package, ⟨true, 3⟩⟩),
  ([0x17D5, 0x6000], .fenceRel ⟨.package, ⟨true, 3⟩⟩),
  ([0x17D5, 0xA000], .fenceFull ⟨.package, ⟨true, 3⟩⟩),
  ([0x17D5, 0xE000], .fenceM ⟨.package, ⟨true, 3⟩⟩),
  ([0x17D9, 0x0000], .rfence ⟨⟨true, 3⟩⟩),
  ([0x17E1, 0xAA80], .trap ⟨0x155, ⟨true, 3⟩⟩),
  ([0x17E5, 0x0000], .rtt ⟨⟨true, 3⟩⟩),
  ([0xD7E9, 0x8500], .srd ⟨0x10A, 6, ⟨true, 3⟩⟩),
  ([0x17ED, 0x8540], .swr ⟨0x10A, 16, ⟨true, 3⟩⟩),
  ([0x17F1, 0x2440], .tlbinv ⟨.package, 8, 16, ⟨true, 3⟩⟩),
  ([0x17F5, 0x0040], .wait ⟨16, ⟨true, 3⟩⟩)] = true := by decide +kernel

/-- R21: the words of the compact halfwords, part 1. -/
theorem test_decode_compact1 : reads [
  ([0x4982], .cAdd ⟨9, 6⟩),
  ([0x4984], .cSub ⟨9, 6⟩),
  ([0x4986], .cAnd ⟨9, 6⟩),
  ([0x4988], .cOr ⟨9, 6⟩),
  ([0x498A], .cXor ⟨9, 6⟩),
  ([0x498C], .cMov ⟨9, 6⟩),
  ([0x49A2], .cLdW ⟨9, 6⟩),
  ([0x49A4], .cStW ⟨9, 6⟩),
  ([0x49A6], .cLdD ⟨9, 6⟩),
  ([0x49A8], .cStD ⟨9, 6⟩),
  ([0x49AE], .cMul ⟨9, 6⟩),
  ([0x49B0], .cCmpEq ⟨9, 6⟩),
  ([0xA98E], .cAddi ⟨21, 6⟩),
  ([0xA990], .cAddiX0 ⟨21, 6⟩),
  ([0xA992], .cShli ⟨21, 6⟩),
  ([0xA994], .cShri ⟨21, 6⟩)] = true := by decide +kernel

/-- R21: the words of the compact halfwords, part 2. -/
theorem test_decode_compact2 : reads [
  ([0xA996], .cSari ⟨21, 6⟩),
  ([0xA998], .cAndi ⟨21, 6⟩),
  ([0xA99A], .cLdDX2 ⟨21, 6⟩),
  ([0xA99C], .cStDX2 ⟨21, 6⟩),
  ([0xA99E], .cLdWX2 ⟨21, 6⟩),
  ([0xA9A0], .cStWX2 ⟨21, 6⟩),
  ([0xA9AA], .cBrEq ⟨21, 6⟩),
  ([0xA9AC], .cBrNe ⟨21, 6⟩),
  ([0xA9B6], .cSrd ⟨21, 6⟩),
  ([0x01B2], .cJr ⟨6⟩),
  ([0x01B4], .cJlr ⟨6⟩),
  ([0xA83C], .cTrap ⟨21⟩),
  ([0x0038], .cDone),
  ([0x003A], .cRfence),
  ([0x003E], .nop)] = true := by decide +kernel

/-- R20: the words of the literal forms, part 1. -/
theorem test_decode_literal1 : reads [
  ([0x5603, 0x4040, 0xCDEF, 0x89AB], .addLit ⟨true, 16, 2, ⟨true, 3⟩, 0x89ABCDEF⟩),
  ([0x5603, 0x5040, 0xCDEF, 0x89AB], .subLit ⟨true, 16, 2, ⟨true, 3⟩, 0x89ABCDEF⟩),
  ([0x5603, 0x6040, 0xCDEF, 0x89AB], .minLit ⟨true, 16, 2, ⟨true, 3⟩, 0x89ABCDEF⟩),
  ([0x5603, 0x7040, 0xCDEF, 0x89AB], .maxLit ⟨true, 16, 2, ⟨true, 3⟩, 0x89ABCDEF⟩),
  ([0x5607, 0x4040, 0xCDEF, 0x89AB], .minuLit ⟨true, 16, 2, ⟨true, 3⟩, 0x89ABCDEF⟩),
  ([0x5607, 0x5040, 0xCDEF, 0x89AB], .maxuLit ⟨true, 16, 2, ⟨true, 3⟩, 0x89ABCDEF⟩),
  ([0x5607, 0x6040, 0xCDEF, 0x89AB], .andnLit ⟨true, 16, 2, ⟨true, 3⟩, 0x89ABCDEF⟩),
  ([0x5607, 0x7040, 0xCDEF, 0x89AB], .bfxLit ⟨true, 16, 2, ⟨true, 3⟩, 0x89ABCDEF⟩),
  ([0x560B, 0x4040, 0xCDEF, 0x89AB], .andLit ⟨true, 16, 2, ⟨true, 3⟩, 0x89ABCDEF⟩),
  ([0x560B, 0x5040, 0xCDEF, 0x89AB], .orLit ⟨true, 16, 2, ⟨true, 3⟩, 0x89ABCDEF⟩),
  ([0x560B, 0x6040, 0xCDEF, 0x89AB], .xorLit ⟨true, 16, 2, ⟨true, 3⟩, 0x89ABCDEF⟩),
  ([0x560B, 0x7040, 0xCDEF, 0x89AB], .bfiLit ⟨true, 16, 2, ⟨true, 3⟩, 0x89ABCDEF⟩),
  ([0x560F, 0x4040, 0xCDEF, 0x89AB], .shlLit ⟨true, 16, 2, ⟨true, 3⟩, 0x89ABCDEF⟩),
  ([0x560F, 0x5040, 0xCDEF, 0x89AB], .shrLit ⟨true, 16, 2, ⟨true, 3⟩, 0x89ABCDEF⟩),
  ([0x560F, 0x6040, 0xCDEF, 0x89AB], .sarLit ⟨true, 16, 2, ⟨true, 3⟩, 0x89ABCDEF⟩),
  ([0x560F, 0x7040, 0xCDEF, 0x89AB], .rolLit ⟨true, 16, 2, ⟨true, 3⟩, 0x89ABCDEF⟩)] = true := by decide +kernel

/-- R20: the words of the literal forms, part 2. -/
theorem test_decode_literal2 : reads [
  ([0x5613, 0x4040, 0xCDEF, 0x89AB], .mulLit ⟨true, 16, 2, ⟨true, 3⟩, 0x89ABCDEF⟩),
  ([0x5613, 0x5040, 0xCDEF, 0x89AB], .mulhLit ⟨true, 16, 2, ⟨true, 3⟩, 0x89ABCDEF⟩),
  ([0x5613, 0x6040, 0xCDEF, 0x89AB], .mulhuLit ⟨true, 16, 2, ⟨true, 3⟩, 0x89ABCDEF⟩),
  ([0x5613, 0x7040, 0xCDEF, 0x89AB], .xyaddrLit ⟨true, 16, 2, ⟨true, 3⟩, 0x89ABCDEF⟩),
  ([0x5617, 0x4040, 0xCDEF, 0x89AB], .divLit ⟨true, 16, 2, ⟨true, 3⟩, 0x89ABCDEF⟩),
  ([0x5617, 0x5040, 0xCDEF, 0x89AB], .divuLit ⟨true, 16, 2, ⟨true, 3⟩, 0x89ABCDEF⟩),
  ([0x5617, 0x6040, 0xCDEF, 0x89AB], .remLit ⟨true, 16, 2, ⟨true, 3⟩, 0x89ABCDEF⟩),
  ([0x5617, 0x7040, 0xCDEF, 0x89AB], .remuLit ⟨true, 16, 2, ⟨true, 3⟩, 0x89ABCDEF⟩),
  ([0xD61F, 0x5040, 0xCDEF, 0x89AB], .selLit ⟨5, 16, 6, ⟨true, 3⟩, 0x89ABCDEF⟩),
  ([0xD61F, 0x8040, 0xCDEF, 0x89AB], .wfldLit ⟨16, 6, ⟨true, 3⟩, 0x89ABCDEF⟩),
  ([0xB623, 0x1042, 0xCDEF, 0x89AB], .cmpLit ⟨.gtu, 16, 5, ⟨true, 3⟩, 0x89ABCDEF⟩),
  ([0xD627, 0x0040, 0xCDEF, 0x89AB], .addiLit ⟨16, 6, ⟨true, 3⟩, 0x89ABCDEF⟩),
  ([0xD62B, 0x0040, 0xCDEF, 0x89AB], .andiLit ⟨16, 6, ⟨true, 3⟩, 0x89ABCDEF⟩),
  ([0xD62F, 0x0040, 0xCDEF, 0x89AB], .oriLit ⟨16, 6, ⟨true, 3⟩, 0x89ABCDEF⟩),
  ([0xD633, 0x0040, 0xCDEF, 0x89AB], .xoriLit ⟨16, 6, ⟨true, 3⟩, 0x89ABCDEF⟩),
  ([0xB63B, 0x0043, 0xCDEF, 0x89AB], .cmpiLit ⟨.ge, 16, 5, ⟨true, 3⟩, 0x89ABCDEF⟩)] = true := by decide +kernel

/-- R20: the words of the literal forms, part 3. -/
theorem test_decode_literal3 : reads [
  ([0xD63F, 0x0000, 0xCDEF, 0x89AB], .moviLit ⟨6, ⟨true, 3⟩, 0x89ABCDEF⟩),
  ([0xD63F, 0x0004, 0xCDEF, 0x89AB], .movhiLit ⟨6, ⟨true, 3⟩, 0x89ABCDEF⟩),
  ([0x9663, 0x0040, 0xCDEF, 0x89AB], .brLit ⟨.gt, 16, ⟨true, 3⟩, 0x89ABCDEF⟩),
  ([0x7667, 0x0014, 0xCDEF, 0x89AB], .bpLit ⟨.b0, 5, ⟨true, 3⟩, 0x89ABCDEF⟩),
  ([0x166B, 0x0000, 0xCDEF, 0x89AB], .jLit ⟨⟨true, 3⟩, 0x89ABCDEF⟩),
  ([0x366B, 0x0040, 0xCDEF, 0x89AB], .jlLit ⟨16, ⟨true, 3⟩, 0x89ABCDEF⟩),
  ([0xD683, 0x0540, 0xCDEF, 0x89AB], .ldLit ⟨true, .w, 16, 6, ⟨true, 3⟩, 0x89ABCDEF⟩),
  ([0xD687, 0x0540, 0xCDEF, 0x89AB], .ldAcqLit ⟨true, .w, 16, 6, ⟨true, 3⟩, 0x89ABCDEF⟩),
  ([0xD6C3, 0x0540, 0xCDEF, 0x89AB], .rldLit ⟨true, .w, 16, 6, ⟨true, 3⟩, 0x89ABCDEF⟩),
  ([0xD6EB, 0x0540, 0xCDEF, 0x89AB], .ldfLit ⟨true, .w, 16, 6, ⟨true, 3⟩, 0x89ABCDEF⟩),
  ([0xD6EF, 0x0540, 0xCDEF, 0x89AB], .ldfeLit ⟨true, .w, 16, 6, ⟨true, 3⟩, 0x89ABCDEF⟩),
  ([0xD68B, 0x0140, 0xCDEF, 0x89AB], .stLit ⟨.w, 16, 6, ⟨true, 3⟩, 0x89ABCDEF⟩),
  ([0xD68F, 0x0140, 0xCDEF, 0x89AB], .stRelLit ⟨.w, 16, 6, ⟨true, 3⟩, 0x89ABCDEF⟩),
  ([0xD6F3, 0x0140, 0xCDEF, 0x89AB], .stfLit ⟨.w, 16, 6, ⟨true, 3⟩, 0x89ABCDEF⟩),
  ([0xD6C7, 0x0540, 0xCDEF, 0x89AB], .rstLit ⟨true, .w, 16, 6, ⟨true, 3⟩, 0x89ABCDEF⟩),
  ([0xD69B, 0x01C0, 0xCDEF, 0x89AB], .ldpLit ⟨16, 6, ⟨true, 3⟩, 0x89ABCDEF⟩)] = true := by decide +kernel

/-- R20: the words of the literal forms, part 4. -/
theorem test_decode_literal4 : reads [
  ([0xD69F, 0x01C0, 0xCDEF, 0x89AB], .stpLit ⟨16, 6, ⟨true, 3⟩, 0x89ABCDEF⟩),
  ([0xD783, 0x0140, 0xCDEF, 0x89AB], .vldLit ⟨16, 6, ⟨true, 3⟩, 0x89ABCDEF⟩),
  ([0xD783, 0x0540, 0xCDEF, 0x89AB], .vstLit ⟨16, 6, ⟨true, 3⟩, 0x89ABCDEF⟩)] = true := by decide +kernel

/-- The halfwords are refused with the error `e`. -/
noncomputable def refuses (hs : List Nat) (e : DecodeError) : Bool :=
  match decode (hs.map (BitVec.ofNat 16)) with
  | .ok _ => false
  | .error x => decide (x = e)

/-- R17, R21, R22, R24: words that name no instruction: an unassigned major, an unassigned compact code, a field that must be zero, the guard 1000, and too few halfwords. -/
theorem test_decode_refused : (refuses [] .beyondEnd && refuses [0x8001] .beyondEnd && refuses [0xE027, 0, 0x640] .beyondEnd &&
  refuses [0x0000] .unassigned && refuses [0x01FD, 0] .unassigned && refuses [0x0037, 0, 0, 0] .unassigned &&
  refuses [0x0832] .mustBeZero && refuses [0xE027, 0x0080, 0, 0] .mustBeZero && refuses [0x1001, 0] .constraint) = true := by decide +kernel

end Sys2Proof.Tests.Encodings

/-! ## Integer, predicate, floating and branch instructions: what meets the hypotheses of their statements -/

namespace Sys2Proof.Tests.Arithmetic
open Sys2Proof.Machine Sys2Proof.Tests

/-- IntegerResults without ports: X5 and X4 are the operands. -/
theorem witness_IntegerResults_registers : Issues (at0 task0) 0 task0 ∧ guardPasses .always task0 = true ∧
    operandQ (at0 task0) 0 task0 false 5 = .ok 3 ((at0 task0).core 0) ∧
    intOps.all (fun e => answers (exec (e.1 ⟨false, false, 5, 4, 6, .always⟩) (at0 task0))
      ((at0 task0).retire 0 ((at0 task0).core 0) (task0.setReg 6 (e.2.2 0 7 3)) 2)) = true :=
  ⟨issues_at0 _, by decide, rfl, by decide +kernel⟩

/-- Queue 6 holds 9; queue 2 has room. -/
def portCore : Core := { core0 task0 with vu := { VecUnit.reset with q := [(6, [9])] } }

/-- IntegerResults with both ports. -/
theorem witness_IntegerResults_ports : Issues (withCore portCore) 0 task0 ∧ (withCore portCore).core 0 = portCore ∧ portCore.inHi = false ∧
    operandQ (withCore portCore) 0 task0 true 6 = .ok 9 { portCore with vu := portCore.vu.setQueue 6 [] } ∧
    Core.portOk { portCore with vu := portCore.vu.setQueue 6 [] } 2 ∧
    answers (exec (.add ⟨true, true, 6, 4, 2, .always⟩) (withCore portCore))
      ((withCore portCore).retire 0 (Core.pushed { portCore with vu := portCore.vu.setQueue 6 [] } 2 16) task0 2) = true :=
  ⟨⟨rfl, rfl, rfl, rfl, rfl, rfl⟩, rfl, rfl, by rfl, ⟨by decide +kernel, by decide +kernel⟩, by decide +kernel⟩

/-- IntegerLiteralResults, to a register and to a queue. -/
theorem witness_IntegerLiteralResults : Issues (at0 task0) 0 task0 ∧ guardPasses .always task0 = true ∧ ((at0 task0).core 0).portOk 2 ∧
    intOps.all (fun e => answers (exec (e.2.1 ⟨false, 4, 6, .always, 0xFFFFFFFF⟩) (at0 task0))
      ((at0 task0).retire 0 ((at0 task0).core 0) (task0.setReg 6 (e.2.2 0 7 0xFFFFFFFFFFFFFFFF)) 4)) = true ∧
    answers (exec (.addLit ⟨true, 4, 2, .always, 0xFFFFFFFF⟩) (at0 task0))
      ((at0 task0).retire 0 (((at0 task0).core 0).pushed 2 6) task0 4) = true :=
  ⟨issues_at0 _, by decide, ⟨by decide +kernel, by decide +kernel⟩, by decide +kernel, by decide +kernel⟩

/-- CompletionFrame: a core with the memories it had; a queue that is not the one pushed to. -/
theorem witness_CompletionFrame : (core0 task0).lcl = ((at0 task0).core 0).lcl ∧ (3 : Nat) ≠ (2 : Reg).toNat := ⟨rfl, by decide⟩

/-- X4, X5 and X7 hold floating-point values or a negative integer; P1 = 5; the code at 40. -/
def taskA : Task := { Task.enter false 0 0 [] with x := [(4, 0x40400000), (5, 0xC0000000), (7, 0xFFFFFFFFFFFFFF85)], p := [(1, 5), (2, 6)], pc := 40 }
/-- A core in SR mode that runs it. -/
def coreA : Core := { core0 taskA with bankLo := { rmode := 4, rng := 0x123456789, mst := 0 } }
/-- The machine of that core. -/
def sA : State := withCore coreA

/-- Whether `i` completes with X[d] = `v`. -/
noncomputable def writesX (i : Instr) (len : Nat) (d : Reg) (v : W) : Bool := answers (exec i sA) (sA.retire 0 coreA (taskA.setReg d v) (40 + len))
/-- Whether `i` completes with P[d] = `v`. -/
noncomputable def writesP (i : Instr) (len : Nat) (d : PReg) (v : W) : Bool := answers (exec i sA) (sA.retire 0 coreA (taskA.setPred d v) (40 + len))

/-- ImmediateResults: what issues, passes its guard and may push. -/
theorem witness_ImmediateResults : Issues sA 0 taskA ∧ guardPasses .always taskA = true ∧ (sA.core 0).portOk 2 ∧
    writesX (.clz ⟨false, 4, 6, .always⟩) 2 6 33 ∧ writesX (.ctz ⟨false, 4, 6, .always⟩) 2 6 22 ∧ writesX (.popc ⟨false, 4, 6, .always⟩) 2 6 2 ∧
    writesX (.sel ⟨1, 5, 4, 6, .always⟩) 2 6 0x40400000 ∧ writesX (.addi ⟨0x1F5, 4, 6, .always⟩) 2 6 0x403FFFF5 ∧
    writesX (.sari ⟨3, 7, 6, .always⟩) 2 6 0xFFFFFFFFFFFFFFF0 ∧ writesX (.moviLit ⟨6, .always, 0xFFFFFFF1⟩) 4 6 0xFFFFFFFFFFFFFFF1 ∧
    writesX (.movhiLit ⟨5, .always, 3⟩) 4 5 0x3C0000000 ∧ writesX (.cAddiX0 ⟨0x1F, 13⟩) 1 13 0xFFFFFFFFFFFFFFFF ∧ writesX .nop 1 0 0 :=
  ⟨⟨rfl, rfl, rfl, rfl, rfl, rfl⟩, by decide, ⟨by decide +kernel, by decide +kernel⟩, by decide +kernel⟩

/-- DivisionLaw: −7 by 3, and −2^63 by −1, whose quotient over the integers has no 64-bit form. -/
theorem witness_DivisionLaw : (3 : W) ≠ 0 ∧ (divS (-7) 3, remS (-7) 3) = (-2, -1) ∧ (divU 7 3, remU 7 3) = (2, 1) ∧
    ((-7 : W) ≠ 0x8000000000000000 ∨ (3 : W) ≠ 0xFFFFFFFFFFFFFFFF) ∧ (0xFFFFFFFFFFFFFFFF : W) ≠ 0 ∧
    (0x8000000000000000 : W).toInt = 2 ^ 63 * (0xFFFFFFFFFFFFFFFF : W).toInt + 0 ∧
    divS 0x8000000000000000 0xFFFFFFFFFFFFFFFF = BitVec.ofInt 64 (2 ^ 63) := by decide

/-- DivisionLaw and BitCounts: a divisor that is not 0, a value that is not 0, a bit below and one above a field, and a control without SX. -/
theorem witness_DivisionAndBits : (3 : W) ≠ 0 ∧ (⟨false, false, 5, 4, 6, .always⟩ : QForm).pb = false ∧ 0 ≤ (7 : W).toInt ∧ (-7 : W).toInt ≤ 0 ∧
    2 < (0x0C3 : W).bits 5 0 ∧ (0x0C3 : W).bits 5 0 + (0x0C3 : W).bits 11 6 < 63 ∧ (0x0C3 : W).getLsbD 12 = false := by decide

/-- PredicateResults. -/
theorem witness_PredicateResults : Issues sA 0 taskA ∧ guardPasses .always taskA = true ∧ operandQ sA 0 taskA false 5 = .ok 0xC0000000 (sA.core 0) ∧
    operandQ (withCore portCore) 0 task0 true 6 = .ok 9 { portCore with vu := portCore.vu.setQueue 6 [] } ∧ (5 : Nat) < 64 ∧
    writesP (.cmp ⟨false, .lt, 5, 4, 2, .always⟩) 2 2 0xFFFFFFFFFFFFFFFF ∧ writesP (.cmpLit ⟨.ltu, 4, 2, .always, 0xFFFFFFF1⟩) 4 2 0xFFFFFFFFFFFFFFFF ∧
    writesP (.cmpi ⟨0x1F5, .lt, 4, 2, .always⟩) 2 2 0 ∧ writesP (.fcmp ⟨false, .lt, 5, 4, 2, .always⟩) 2 2 0 ∧
    writesP (.cCmpEq ⟨4, 5⟩) 1 5 0 ∧ writesP (.plog ⟨6, 2, 1, 3, .always⟩) 2 3 3 ∧ writesP (.pset ⟨4, 3, .always⟩) 2 3 0x40400000 ∧
    writesX (.pget ⟨1, 6, .always⟩) 2 6 5 ∧ writesX (.pcnt ⟨1, 6, .always⟩) 2 6 2 :=
  ⟨⟨rfl, rfl, rfl, rfl, rfl, rfl⟩, by decide, rfl, by rfl, by decide, by decide +kernel⟩

/-- FloatResults: 3 and −2 in SR mode, where r_0 moves SR.RNG.STATE on; formats that differ and formats that do not. -/
theorem witness_FloatResults : Issues sA 0 taskA ∧ guardPasses .always taskA = true ∧
    (⟨.f64, .i64, 4, 6, .always⟩ : FcvtForm).dst ≠ (⟨.f64, .i64, 4, 6, .always⟩ : FcvtForm).src ∧
    (⟨.f64, .f64, 4, 6, .always⟩ : FcvtForm).dst = (⟨.f64, .f64, 4, 6, .always⟩ : FcvtForm).src ∧
    answers (exec (.faddF32 ⟨5, 4, 6, .always⟩) sA)
      (sA.retire 0 { coreA with bankLo := coreA.bankLo.advance 64 } (taskA.setReg 6 0x3F800000) 42) ∧
    writesX (.fminF32 ⟨5, 4, 6, .always⟩) 2 6 0xC0000000 :=
  ⟨⟨rfl, rfl, rfl, rfl, rfl, rfl⟩, by decide, by decide, by decide, by decide +kernel, by decide +kernel⟩

/-- X4 = 100, a halfword of the code; X5 is outside it; P1 has a bit. -/
def taskB : Task := { taskA with x := [(4, 100), (5, 0x8000)] }
/-- The machine that runs it. -/
def sB : State := withCore { coreA with lo := some taskB }
/-- Whether `i` goes to `z`. -/
noncomputable def goes (i : Instr) (z : Nat) (d : Reg) (link : W) : Bool := answers (exec i sB) (sB.retire 0 (sB.core 0) (taskB.setReg d link) z)

/-- BranchResults: targets inside the code, taken and not taken. -/
theorem witness_BranchResults : Issues sB 0 taskB ∧ guardPasses .always taskB = true ∧ (64 : Nat) ≤ 64 ∧
    goes (.br ⟨3, .ne, 4, .always⟩) 43 0 0 ∧ goes (.br ⟨3, .eq, 4, .always⟩) 42 0 0 ∧ goes (.brLit ⟨.ne, 4, .always, 0xFFFFFFF8⟩) 32 0 0 ∧
    goes (.bp ⟨3, .any, 1, .always⟩) 43 0 0 ∧ goes (.bpLit ⟨.none, 1, .always, 5⟩) 44 0 0 ∧ goes (.j ⟨0x1FFF, .always⟩) 39 0 0 ∧
    goes (.jl ⟨3, 1, .always⟩) 43 1 42 ∧ goes (.jlLit ⟨1, .always, 5⟩) 45 1 44 ∧ goes (.jr ⟨4, .always⟩) 100 0 0 ∧ goes (.jlr ⟨4, 6, .always⟩) 100 6 42 ∧
    goes (.cBrEq ⟨4, 13⟩) 44 0 0 ∧ goes (.cBrNe ⟨4, 13⟩) 41 0 0 ∧ goes (.cJr ⟨4⟩) 100 0 0 ∧ goes (.cJlr ⟨4⟩) 100 1 41 :=
  ⟨⟨rfl, rfl, rfl, rfl, rfl, rfl⟩, by decide, by decide, by decide +kernel⟩

/-- JumpOutsideTraps: a register that holds 0x8000, and offsets that leave the code at either end. -/
theorem witness_JumpOutsideTraps : Issues sB 0 taskB ∧ guardPasses .always taskB = true ∧ codeEnd taskB ≤ (taskB.reg 5).toNat ∧
    brHolds .ne (taskB.reg 4) = true ∧ (taskB.pc : Int) + (⟨0x1C0, .ne, 4, .always⟩ : BrForm).off.toInt < 0 ∧
    (codeEnd { taskB with pc := 0x7FFF } : Int) ≤ ({ taskB with pc := 0x7FFF } : Task).pc + (⟨3, .ne, 4, .always⟩ : BrForm).off.toInt ∧
    traps (.jlr ⟨5, 1, .always⟩) sB 0 taskB 1 ((sB.core 0).instrWord taskB) ∧ traps (.cJr ⟨5⟩) sB 0 taskB 1 ((sB.core 0).instrWord taskB) ∧
    traps (.br ⟨0x1C0, .ne, 4, .always⟩) sB 0 taskB 1 ((sB.core 0).instrWord taskB) ∧
    traps (.jl ⟨0x1C0, 4, .always⟩) sB 0 taskB 1 ((sB.core 0).instrWord taskB) :=
  ⟨⟨rfl, rfl, rfl, rfl, rfl, rfl⟩, by decide, by decide +kernel, by decide +kernel, by decide +kernel, by decide +kernel, by decide +kernel⟩

/-- JumpOutsideTraps, the other forms: taken, with a target before the code. -/
theorem witness_JumpOutsideTraps_forms : bpHolds .any 64 (taskB.pred 1) = true ∧ (taskB.pc : Int) + (0xFFFFFF00 : BitVec 32).toInt < 0 ∧
    brHolds .ne (taskB.reg 4) = true ∧ (taskB.reg 8 = 0) ∧ ({ taskB with pc := 3 } : Task).pc + (⟨0x1C, 13⟩ : CImm).imm.toInt < 0 ∧
    (let w := (sB.core 0).instrWord taskB
    traps (.bp ⟨0x1C0, .any, 1, .always⟩) sB 0 taskB 1 w ∧ traps (.bpLit ⟨.any, 1, .always, 0xFFFFFF00⟩) sB 0 taskB 1 w ∧
    traps (.j ⟨0x1F00, .always⟩) sB 0 taskB 1 w ∧ traps (.jLit ⟨.always, 0x8000⟩) sB 0 taskB 1 w ∧
    traps (.jlLit ⟨1, .always, 0x8000⟩) sB 0 taskB 1 w ∧ traps (.brLit ⟨.ne, 4, .always, 0xFFFFFF00⟩) sB 0 taskB 1 w ∧
    traps (.jr ⟨5, .always⟩) sB 0 taskB 1 w ∧ traps (.cJlr ⟨5⟩) sB 0 taskB 1 w) ∧
    (let t : Task := { taskB with pc := 3 }
    let s := withCore { coreA with lo := some t }
    Issues s 0 t ∧ traps (.cBrEq ⟨0x1C, 8⟩) s 0 t 1 ((s.core 0).instrWord t) ∧ traps (.cBrNe ⟨0x1C, 4⟩) s 0 t 1 ((s.core 0).instrWord t)) :=
  ⟨by decide, by decide +kernel, by decide +kernel, by decide +kernel, by decide, by decide +kernel, ⟨rfl, rfl, rfl, rfl, rfl, rfl⟩, by decide +kernel⟩

end Sys2Proof.Tests.Arithmetic

/-! ## Guards, restricted code, traps and system registers -/

namespace Sys2Proof.Tests.Traps
open Sys2Proof.Machine Sys2Proof.Tests

/-- A supervisor task, a HI task, and a task whose code is carried. -/
def taskS : Task := { task0 with sup := true }
def taskHi : Task := { task0 with hi := true }
def taskC : Task := { taskS with carried := true, code := [0, 0, 0, 0] }
/-- A core that runs the HI task. -/
def coreHi : Core := { Core.reset with ctx := some 0, hi := some taskHi }

/-- GuardedOff: P0 is all ones, so the negated guard of P0 never passes. -/
theorem witness_GuardedOff : Issues (at0 taskS) 0 taskS ∧ guardPasses ⟨true, 0⟩ taskS = false ∧ taskS.carried = false ∧ taskS.sup = true ∧
    ((at0 taskS).core 0).inHi = false ∧ scalarForm (.add ⟨false, false, 5, 4, 6, ⟨true, 0⟩⟩) = some (2, ⟨true, 0⟩) :=
  ⟨issues_at0 _, rfl, rfl, rfl, rfl, rfl⟩

/-- GuardedOff, in user mode and in a HI task: nothing that the mode or the task may not run. -/
theorem witness_GuardedOff_user_hi : supervisorOnly (.add ⟨false, false, 5, 4, 6, ⟨true, 0⟩⟩) = false ∧
    barredInHi (.add ⟨false, false, 5, 4, 6, ⟨true, 0⟩⟩) = false ∧ barredCarried (.add ⟨false, false, 5, 4, 6, ⟨true, 0⟩⟩) = false ∧
    answers (exec (.add ⟨false, false, 5, 4, 6, ⟨true, 0⟩⟩) (at0 task0)) ((at0 task0).retire 0 ((at0 task0).core 0) task0 2) = true ∧
    Issues (withCore coreHi) 0 taskHi ∧ guardPasses ⟨true, 0⟩ taskHi = false ∧
    answers (exec (.add ⟨false, false, 5, 4, 6, ⟨true, 0⟩⟩) (withCore coreHi)) ((withCore coreHi).retire 0 coreHi taskHi 2) = true :=
  ⟨rfl, rfl, rfl, by decide +kernel, ⟨rfl, rfl, rfl, rfl, rfl, rfl⟩, rfl, by decide +kernel⟩

/-- RestrictedCodeTraps, in user mode. -/
theorem witness_RestrictedCodeTraps_user : Issues (at0 task0) 0 task0 ∧ task0.carried = false ∧ task0.sup = false ∧ 0x100 ≤ (0x100 : BitVec 9).toNat ∧
    (let w := ((at0 task0).core 0).instrWord task0
    traps (.hset ⟨5, 4, .always⟩) (at0 task0) 0 task0 0x02 w ∧ traps (.capset ⟨4, .always⟩) (at0 task0) 0 task0 0x02 w ∧
      traps (.rtt ⟨.always⟩) (at0 task0) 0 task0 0x02 w ∧
    traps (.tlbinv ⟨.core, 5, 4, .always⟩) (at0 task0) 0 task0 0x02 w ∧ traps (.srd ⟨0x100, 4, .always⟩) (at0 task0) 0 task0 0x02 w ∧
    traps (.swr ⟨0x100, 4, .always⟩) (at0 task0) 0 task0 0x02 w = true) :=
  ⟨issues_at0 _, rfl, rfl, by decide, by decide +kernel⟩

/-- RestrictedCodeTraps, in a HI task. -/
theorem witness_RestrictedCodeTraps_hi : Issues (withCore coreHi) 0 taskHi ∧ taskHi.carried = false ∧ ((withCore coreHi).core 0).inHi = true ∧
    (∃ lag, (withCore coreHi).turn = .core 0 lag) ∧
    (let s := withCore coreHi; let t := taskHi; let w := (s.core 0).instrWord t
    traps (.add ⟨true, false, 5, 4, 6, .always⟩) s 0 t 0x09 w ∧ traps (.repb ⟨4, .always, 1, 1, 1⟩) s 0 t 0x09 w ∧
    traps (.mprobev ⟨1, 5, 4, 6, .always⟩) s 0 t 0x09 w ∧ traps (.mupsertv ⟨.add, 5, 4, 6, .always⟩) s 0 t 0x09 w ∧
    traps (.sbind ⟨1, 4, 1, .always⟩) s 0 t 0x09 w ∧ traps (.tswap ⟨4, .always⟩) s 0 t 0x09 w ∧ traps (.mxcmd ⟨5, 4, 6, .always⟩) s 0 t 0x09 w ∧
    traps (.vadd ⟨false, .f32, 5, 4, 6, .always⟩) s 0 t 0x09 w ∧ traps .repe s 0 t 0x09 w ∧ traps (.cmp ⟨true, .lt, 5, 4, 2, .always⟩) s 0 t 0x09 w ∧
    traps (.addLit ⟨true, 4, 2, .always, 1⟩) s 0 t 0x09 w ∧ traps (.clz ⟨true, 4, 2, .always⟩) s 0 t 0x09 w = true) :=
  ⟨⟨rfl, rfl, rfl, rfl, rfl, rfl⟩, rfl, rfl, ⟨false, rfl⟩, by decide +kernel⟩

/-- RestrictedCodeTraps, in carried code. -/
theorem witness_RestrictedCodeTraps_carried : Issues (at0 taskC) 0 taskC ∧ taskC.carried = true ∧
    (let s := at0 taskC; let t := taskC; let w := (s.core 0).instrWord t
    traps (.idem ⟨.always⟩) s 0 t 0x01 w ∧ traps (.wait ⟨4, .always⟩) s 0 t 0x01 w ∧ traps (.trap ⟨3, .always⟩) s 0 t 0x01 w ∧
    traps (.mprobev ⟨1, 5, 4, 6, .always⟩) s 0 t 0x01 w ∧ traps (.get ⟨3, 4, 6, .always⟩) s 0 t 0x01 w ∧ traps .repe s 0 t 0x01 w = true) :=
  ⟨issues_at0 _, rfl, by decide +kernel⟩

/-- TrapEntry: no handler runs. The saved status names the open IDEM region and the skipped instruction (R306). -/
theorem witness_TrapEntry : ((at0 task0).core 0).regs.tstat.getLsbD 15 = false ∧
    (let t : Task := { task0 with pc := 77, idem := some ⟨3, []⟩ }
    ((takeTrap (at0 t) 0 false t 0x22 5 77 false true).core 0).regs.tstat) = 0x8600 := by decide +kernel

/-- A handler runs; with an instruction at the saved pc, and without. -/
def coreTrap : Core := { core0 taskS with regs := { Regs.reset with tstat := 0x8000, trappc := 0x30, trapc := 0x0C } }
def coreTrapI : Core := { coreTrap with lcl := { Local.reset with imem := [⟨0x60, 1⟩] } }

/-- DoubleTrap: a handler runs. -/
theorem witness_DoubleTrap : ((withCore coreTrap).core 0).regs.tstat.getLsbD 15 = true ∧
   (let s := withCore coreTrap; let s' := takeTrap s 0 false taskS 0x03 9 8 false false
    s'.checks = s.checks ++ [(dieOf 0, MCheck.doubleTrap 0 0x03 9 8)] ∧ s'.core 0 = { s.core 0 with stopped := true }) :=
  ⟨by decide +kernel, by decide +kernel⟩

/-- TrapAndReturn, TRAP and patterns that are no instruction. -/
theorem witness_TrapAndReturn_trap : Issues (at0 task0) 0 task0 ∧ task0.carried = false ∧ guardPasses .always task0 = true ∧
    traps (.trap ⟨3, .always⟩) (at0 task0) 0 task0 0x0C 3 ∧ traps (.cTrap ⟨3⟩) (at0 task0) 0 task0 0x0C 3 ∧
    answers (exec (.illegalEncoding 0x1234567F) (at0 task0)) (takeTrap (at0 task0) 0 false task0 0x01 (w64 0x1234567F) (trapPc task0 0) false false) :=
  ⟨issues_at0 _, rfl, by decide, by decide +kernel⟩

/-- ReturnToNothing: no halfword lies at 0x7FFFF. -/
theorem witness_ReturnToNothing : let k : Core := { coreTrap with regs := { coreTrap.regs with trappc := 0x7FFFF } }
    k.half? taskS 0x7FFFF = none ∧ k.regs.tstat.getLsbD 15 = true ∧ answers (exec (.rtt ⟨.always⟩) (withCore k))
      ((withCore k).retire 0 { k with regs := { k.regs with tstat := 0 } } { taskS with sup := false } 0x7FFFF) = true := by decide +kernel

/-- TrapAndReturn, RTT in a handler (SOFT: past the instruction at 0x30, whose length the code there tells) and outside one. -/
theorem witness_TrapAndReturn_rtt : (let s := withCore coreTrap; let k := s.core 0
    Issues s 0 taskS ∧ taskS.carried = false ∧ taskS.sup = true ∧ guardPasses .always taskS = true ∧ k.regs.tstat.getLsbD 15 = true ∧
    k.regs.tstat.getLsbD 8 = false ∧ k.regs.tstat.getLsbD 11 = false ∧ k.regs.repst.getLsbD 63 = false) ∧
    coreTrapI.half? taskS 0x30 = some 1 ∧
    ([(coreTrap, 0x31), (coreTrapI, 0x32)].all fun (p : Core × Nat) => answers (exec (.rtt ⟨.always⟩) (withCore p.1))
      ((withCore p.1).retire 0 { p.1 with regs := { p.1.regs with tstat := 0 } } { taskS with sup := false } p.2)) = true ∧
    (at0 taskS |>.core 0).regs.tstat.getLsbD 15 = false ∧ traps (.rtt ⟨.always⟩) (at0 taskS) 0 taskS 0x01 (((at0 taskS).core 0).instrWord taskS) :=
  ⟨⟨⟨rfl, rfl, rfl, rfl, rfl, rfl⟩, rfl, rfl, by decide, by decide +kernel, by decide +kernel, by decide +kernel, by decide +kernel⟩,
    by decide +kernel, by decide +kernel, by decide +kernel, by decide +kernel⟩

/-- Whether SWR of register `e.1` with the value `v` has the effect `e.2`. -/
noncomputable def swrOk (e : Nat × (W → Core → Core)) (v : W) : Bool :=
  let t : Task := { taskS with x := [(4, v)] }
  answers (exec (.swr ⟨BitVec.ofNat 9 e.1, 4, .always⟩) (at0 t)) ((at0 t).retire 0 (e.2 v ((at0 t).core 0)) t 2)

/-- SystemRegisters, SRD and C.SRD of each register, in supervisor and in user mode, outside a HI task. -/
theorem witness_SystemRegisters_srd : Issues (at0 taskS) 0 taskS ∧ taskS.carried = false ∧ guardPasses .always taskS = true ∧
    (0x100 ≤ (0x100 : BitVec 9).toNat → taskS.sup = true) ∧ ((at0 taskS).core 0).inHi = false ∧
    ((List.range 0x140).all fun n => answers (exec (.srd ⟨BitVec.ofNat 9 n, 4, .always⟩) (at0 taskS))
      ((at0 taskS).retire 0 (core0 taskS) (taskS.setReg 4 ((core0 taskS).readSr 0 taskS false n)) 2)) = true ∧
    ((List.range 0x20).all fun n => answers (exec (.cSrd ⟨BitVec.ofNat 5 n, 4⟩) (at0 task0))
      ((at0 task0).retire 0 (core0 task0) (task0.setReg 4 ((core0 task0).readSr 0 task0 false n)) 1)) = true :=
  ⟨issues_at0 _, rfl, by decide, by decide, rfl, by decide +kernel, by decide +kernel⟩

/-- SystemRegisters, SWR of each register that takes a value, and of each read-only one. -/
theorem witness_SystemRegisters_swr : Issues (at0 taskS) 0 taskS ∧ taskS.carried = false ∧ taskS.sup = true ∧ guardPasses .always taskS = true ∧
    (srEffects.all fun e => [0, 0xFFFFFFFFFFFFFFFF, 0x8123456780AB].all (swrOk e)) = true ∧
    ([0x00, 0x01, 0x02, 0x06, 0x07, 0x08, 0x0C, 0x0D, 0x0E].all fun n => swrOk (n, fun _ k => k) 0xFFFFFFFFFFFFFFFF) = true ∧ (3 : Nat) < 4 ∧ (8 : Nat) ≤ 9 :=
  ⟨issues_at0 _, rfl, rfl, by decide, by decide +kernel, by decide +kernel, by decide, by decide⟩

/-- SR.VL: a write of 0 modulo 128 sets 1, and one above 64 sets 64. -/
theorem test_srVlWrite_bounds : [(0, 1), (128, 1), (64, 64), (65, 64), (127, 64)].all (fun (p : Nat × Nat) =>
    gives (exec (.srVlWrite 0 (w64 p.1)) (at0 task0)) fun s => (s.core 0).vu.vl == p.2) = true := by decide +kernel

/-- SR.PEND: a write of bit 63 clears LOST; SR.DTAB.K: a write above 20 stores 20. -/
theorem test_srPend_srDtab : gives (exec (.srPendLostClear 0 (w64 (2 ^ 63))) (withCore { core0 task0 with regs := { Regs.reset with lost := true } }))
      (fun s => (s.core 0).regs.lost == false) ∧
    gives (exec (.srDtabWrite 0 0x501F) (at0 task0)) (fun s => (s.core 0).regs.dtab == 0x5014) := by decide +kernel

end Sys2Proof.Tests.Traps

/-! ## Loads, stores and atomics of the own core: what meets the hypotheses of their statements -/

namespace Sys2Proof.Tests.OwnMemory
open Sys2Proof.Machine Sys2Proof.Tests

/-- A state, a core and its task. -/
structure Smp where
  s : State
  c : Nat
  t : Task

/-- X2, X4 and X5 address the own scratchpad. -/
def taskD : Task := { Task.enter false 0 0 [] with x := [(2, 0x9000000000000040), (4, 0x9000000000000020), (5, 16), (6, 0x8000000012345678), (7, 1), (8,3), (9,4)] }

/-- Scratchpad bytes from 0x20 on. -/
def coreD : Core := { core0 taskD with lcl := { Local.reset with spad := Memory.writeN [] 0x20 ((List.range 0x60).map fun i => BitVec.ofNat 8 (i * 37 + 200)) } }

/-- The sample. -/
def smp : Smp := ⟨withCore coreD, 0, taskD⟩

/-- Window and offset of `n` bytes at an own address. -/
def placeOf (m : Smp) (a : W) (n : Nat) : Nat × Nat := match decodeAddr m.c m.t.sup a.toNat n with
  | .ok (.loc c w off) => if c = m.c then (w, off) else (99, 0)
  | _ => (99, 0)

/-- The hypotheses of LoadsOwn at a sample, and that the load completes with the bytes there. -/
noncomputable def LoadsOwnAt (m : Smp) (i : Instr) (len : Nat) (g : Guard) (ea : Task → W) (n : Nat) (align : Bool) (post : State → Nat → State)
    (upd : Nat → Task → Task) : Bool :=
  let s := m.s; let c := m.c; let t := m.t
  let p := placeOf m (ea t) n
  match (s.core c).lcl.load p.1 p.2 n with
  | some bytes => answers (exec i s) ((post s c).retire c ((post s c).core c) (upd (leNat bytes) t) (t.pc + len)) && decide (p.1 < 99) &&
     decide ((s.core c).lcl.windowCheck .load t.sup p.1 p.2 n = none) && (!align || decide ((ea t).toNat % n = 0)) && leNat bytes != 0
  | none => false

/-- The hypotheses of StoresOwn at a sample, and that the store completes. -/
noncomputable def StoresOwnAt (m : Smp) (i : Instr) (len : Nat) (g : Guard) (ea : Task → W) (n : Nat) (align rel : Bool) (v : Task → Nat) : Bool :=
  let s := m.s; let c := m.c; let t := m.t
  let p := placeOf m (ea t) n
  answers (exec i s) ((s.retire c (s.core c) t (t.pc + len)).portStore c p.1 p.2 (leBytes n (v t))) && decide (p.1 < 99) && (!align || decide ((ea t).toNat % n = 0))
   && (((s.retire c (s.core c) t (t.pc + len)).portStore c p.1 p.2 (leBytes n (v t)) != s))

/-- The hypotheses of RmwOwn at a sample, and that the atomic completes. -/
noncomputable def RmwOwnAt (m : Smp) (i : Instr) (g : Guard) (ea : Task → W) (n : Nat) (op : Task → Rmw) (upd : Nat → Task → Task) : Bool :=
  let s := m.s; let c := m.c; let t := m.t
  let p := placeOf m (ea t) n
  match (s.core c).lcl.load 0 p.2 n with
  | some bytes => answers (exec i s) (match (op t).new n (leNat bytes) with
      | none => s.retire c (s.core c) (upd (leNat bytes) t) (t.pc + 2)
      | some v => (s.retire c (s.core c) (upd (leNat bytes) t) (t.pc + 2)).portStore c 0 p.2 (leBytes n v)) && decide (p.1 < 99) && decide ((ea t).toNat % n = 0)
  | none => false

/-- OwnLoads: every form at addresses of the own scratchpad; LoadsOwnAt checks each hypothesis of LoadsOwn. -/
theorem witness_OwnLoads : Issues smp.s smp.c smp.t ∧ guardPasses .always smp.t = true ∧ (
  (let f : MemForm := ⟨1,true,.h,4,6,.always⟩;
    LoadsOwnAt smp (.ld f) 2 f.g (fun t => t.reg f.a + w64 (f.disp.toNat * f.sz.bytes)) f.sz.bytes false (fun s _ => s)
      (fun v t => t.setReg f.d (extended f.sx f.sz.bytes v)) &&
    LoadsOwnAt smp (.ldAcq f) 2 f.g (fun t => t.reg f.a + w64 (f.disp.toNat * f.sz.bytes)) f.sz.bytes false (fun s c => s.acquire c .package)
      (fun v t => t.setReg f.d (extended f.sx f.sz.bytes v))) &&
  (let f : MemLit := ⟨true,.h,4,6,.always,16⟩;
    LoadsOwnAt smp (.ldLit f) 4 f.g (fun t => t.reg f.a + f.lit.signExtend 64) f.sz.bytes false (fun s _ => s)
      (fun v t => t.setReg f.d (extended f.sx f.sz.bytes v)) &&
    LoadsOwnAt smp (.ldAcqLit f) 4 f.g (fun t => t.reg f.a + f.lit.signExtend 64) f.sz.bytes false (fun s c => s.acquire c .package)
      (fun v t => t.setReg f.d (extended f.sx f.sz.bytes v))) &&
  (let f : LdxForm := ⟨true,.h,5,4,6,.always⟩; LoadsOwnAt smp (.ldx f) 2 f.g (fun t => t.reg f.a + t.reg f.b) f.sz.bytes false (fun s _ => s)
    (fun v t => t.setReg f.d (extended f.sx f.sz.bytes v))) &&
  (let f : DispForm := ⟨1,4,6,.always⟩; LoadsOwnAt smp (.ldp f) 2 f.g (fun t => t.reg f.a + w64 (f.disp.toNat * 16)) 16 true (fun s _ => s)
    (fun v t => t.setPair f.d v)) &&
  (let f : R2Lit := ⟨4,6,.always,16⟩; LoadsOwnAt smp (.ldpLit f) 4 f.g (fun t => t.reg f.a + f.lit.signExtend 64) 16 true (fun s _ => s)
    (fun v t => t.setPair f.d v)) &&
  (let f : CImm := ⟨1,6⟩;
    LoadsOwnAt smp (.cLdDX2 f) 1 .always (fun t => t.reg 2 + w64 (f.imm.toNat * 8)) 8 false (fun s _ => s) (fun v t => t.setReg f.d (w64 v)) &&
    LoadsOwnAt smp (.cLdWX2 f) 1 .always (fun t => t.reg 2 + w64 (f.imm.toNat * 4)) 4 false (fun s _ => s) (fun v t => t.setReg f.d (w64 v))) &&
  (let f : C2 := ⟨4,6⟩;
    LoadsOwnAt smp (.cLdW f) 1 .always (fun t => t.reg f.b) 4 false (fun s _ => s) (fun v t => t.setReg f.d (w64 v)) &&
    LoadsOwnAt smp (.cLdD f) 1 .always (fun t => t.reg f.b) 8 false (fun s _ => s) (fun v t => t.setReg f.d (w64 v)))) = true :=
  ⟨⟨rfl, rfl, rfl, rfl, rfl, rfl⟩, by decide, by decide +kernel⟩

/-- OwnLoads, OwnStores and OwnAtomics: such an address is a place of the own core that the port is free for; nothing is put off. -/
theorem witness_OwnLoads_places : OwnAt smp.s 0 smp.t .load 0x9000000000000022 2 0 0x22 ∧ OwnAt smp.s 0 smp.t .store 0x9000000000000030 16 0 0x30 ∧
    OwnAt smp.s 0 smp.t .atomic 0x9000000000000020 8 0 0x20 ∧ (0x9000000000000030 : W).toNat % 16 = 0 ∧ Prompt smp.s 0 :=
  ⟨⟨rfl, by decide +kernel, (by intro p h; cases h), by decide +kernel⟩, ⟨rfl, by decide +kernel, (by intro p h; cases h), by decide +kernel⟩,
    ⟨rfl, by decide +kernel, (by intro p h; cases h), by decide +kernel⟩, by decide, fun lag h => by cases h; rfl⟩

/-- StoreForms: every form, the pairs aligned; no store waits for its grant. -/
theorem witness_StoreForms : Issues smp.s smp.c smp.t ∧ guardPasses .always smp.t = true ∧ (
  (let f : StForm := ⟨1,.h,4,6,.always⟩;
    StoresOwnAt smp (.st f) 2 f.g (fun t => t.reg f.a + w64 (f.disp.toNat * f.sz.bytes)) f.sz.bytes false false (fun t => (t.reg f.d).toNat) &&
    StoresOwnAt smp (.stRel f) 2 f.g (fun t => t.reg f.a + w64 (f.disp.toNat * f.sz.bytes)) f.sz.bytes false true (fun t => (t.reg f.d).toNat)) &&
  (let f : StLit := ⟨.h,4,6,.always,16⟩;
    StoresOwnAt smp (.stLit f) 4 f.g (fun t => t.reg f.a + f.lit.signExtend 64) f.sz.bytes false false (fun t => (t.reg f.d).toNat) &&
    StoresOwnAt smp (.stRelLit f) 4 f.g (fun t => t.reg f.a + f.lit.signExtend 64) f.sz.bytes false true (fun t => (t.reg f.d).toNat)) &&
  (let f : StxForm := ⟨.h,5,4,6,.always⟩; StoresOwnAt smp (.stx f) 2 f.g (fun t => t.reg f.a + t.reg f.b) f.sz.bytes false false (fun t => (t.reg f.d).toNat)) &&
  (let f : DispForm := ⟨1,4,6,.always⟩; StoresOwnAt smp (.stp f) 2 f.g (fun t => t.reg f.a + w64 (f.disp.toNat * 16)) 16 true false (fun t => t.pairOf f.d)) &&
  (let f : R2Lit := ⟨4,6,.always,16⟩; StoresOwnAt smp (.stpLit f) 4 f.g (fun t => t.reg f.a + f.lit.signExtend 64) 16 true false (fun t => t.pairOf f.d)) &&
  (let f : CImm := ⟨1,6⟩;
    StoresOwnAt smp (.cStDX2 f) 1 .always (fun t => t.reg 2 + w64 (f.imm.toNat * 8)) 8 false false (fun t => (t.reg f.d).toNat) &&
    StoresOwnAt smp (.cStWX2 f) 1 .always (fun t => t.reg 2 + w64 (f.imm.toNat * 4)) 4 false false (fun t => (t.reg f.d).toNat)) &&
  (let f : C2 := ⟨4,6⟩;
    StoresOwnAt smp (.cStW f) 1 .always (fun t => t.reg f.b) 4 false false (fun t => (t.reg f.d).toNat) &&
    StoresOwnAt smp (.cStD f) 1 .always (fun t => t.reg f.b) 8 false false (fun t => (t.reg f.d).toNat))
) = true :=
  ⟨⟨rfl, rfl, rfl, rfl, rfl, rfl⟩, by decide, by decide +kernel⟩

/-- OwnAtomics: AMO, CAS and CAS2 on aligned words of the own scratchpad. -/
theorem witness_OwnAtomics : Issues smp.s smp.c smp.t ∧ guardPasses .always smp.t = true ∧ (
  (let f : AmoForm := ⟨.max,5,4,6,.always⟩;
    RmwOwnAt smp (.amoW f) f.g (fun t => t.reg f.a) 4 (fun t => .amo f.op ((t.reg f.b).toNat % 2 ^ 32)) (fun v t => t.setReg f.d (w64 v)) &&
    RmwOwnAt smp (.amoD f) f.g (fun t => t.reg f.a) 8 (fun t => .amo f.op (t.reg f.b).toNat) (fun v t => t.setReg f.d (w64 v))) &&
  (let f : R3 := ⟨8,4,6,.always⟩;
    RmwOwnAt smp (.casW f) f.g (fun t => t.reg f.a) 4 (fun t => .cas ((t.reg f.d).toNat % 2 ^ 32) ((t.reg f.b).toNat % 2 ^ 32))
      (fun v t => t.setReg f.d (w64 v)) &&
    RmwOwnAt smp (.casD f) f.g (fun t => t.reg f.a) 8 (fun t => .cas (t.reg f.d).toNat (t.reg f.b).toNat) (fun v t => t.setReg f.d (w64 v)) &&
    RmwOwnAt smp (.cas2 f) f.g (fun t => t.reg f.a) 16 (fun t => .cas (t.pairOf f.d) (t.pairOf f.b)) (fun v t => t.setPair f.d v))) = true :=
  ⟨⟨rfl, rfl, rfl, rfl, rfl, rfl⟩, by decide, by decide +kernel⟩

/-- R106: the new value of each AMO at the edges of the unsigned and the signed order. -/
theorem test_amo_new : ([4, 8].all fun n => [0, 1, 5, 0x80000000, 0xFFFFFFFF, 0x7FFFFFFF].all fun old => [0, 3, 0x80000001, 0xFFFFFFFF].all fun v =>
    (Rmw.amo .add v).new n old = some ((old + v) % 256 ^ n) ∧ (Rmw.amo .swap v).new n old = some v ∧
    (Rmw.amo .and v).new n old = some (old &&& v) ∧ (Rmw.amo .or v).new n old = some (old ||| v) ∧
    (Rmw.amo .xor v).new n old = some (old ^^^ v) ∧
    (Rmw.amo .minu v).new n old = some (if old ≤ v then old else v) ∧ (Rmw.amo .maxu v).new n old = some (if old ≤ v then v else old) ∧
    (Rmw.amo .min v).new n old = some (if (BitVec.ofNat (8 * n) old).toInt ≤ (BitVec.ofNat (8 * n) v).toInt then old else v) ∧
    (Rmw.amo .max v).new n old = some (if (BitVec.ofNat (8 * n) old).toInt ≤ (BitVec.ofNat (8 * n) v).toInt then v else old)) = true := by decide +kernel

/-- OwnLoads, the windows themselves: a sound word, a poisoned word. -/
theorem witness_OwnLoads_poison : coreD.lcl.poisoned 0x20 4 = false ∧ { coreD.lcl with poison := [(4, true)] }.poisoned 0x20 4 = true ∧
    { coreD.lcl with poison := [(4, true)] }.load 12 0x20 4 = none ∧ (12 : Nat) ≤ 12 ∧ smp.s.net = [] ∧ (coreD.l1.ungranted = false) := by decide +kernel

/-- StoreAtThePort: a sound word; a poisoned word covered whole, and one that is not. -/
theorem witness_StoreAtThePort : let l : Local := { Local.reset with poison := [(4, true), (5, true)] }
    let s : State := withCore { core0 taskD with lcl := l }
    let l' := ((s.portStore 0 0 0x1C (leBytes 16 0x77777777777777777777777777777777)).core 0).lcl
    Tbl.getD l.poison 3 false = false ∧ Tbl.getD l.poison 4 false = true ∧ 0x1C ≤ 8 * 4 ∧ 8 * 4 + 8 ≤ 0x1C + 16 ∧ ¬ (8 * 5 + 8 ≤ 0x1C + 16) ∧
    l'.spad.read 0x1C = 0x77 ∧ l'.spad.read 0x20 = 0x77 ∧ l'.spad.read 0x28 = 0 ∧ Tbl.getD l'.poison 4 false = false ∧
    Tbl.getD l'.poison 5 false = true := by decide +kernel

/-- OwnAtomics, the values: a width, values that fit, a compare that fails. -/
theorem witness_OwnAtomics_values : ((4 : Nat) = 4 ∨ (4 : Nat) = 8) ∧ (5 : Nat) < 256 ^ 4 ∧ (Rmw.cas 5 9).new 4 5 = some 9 ∧ (Rmw.cas 6 9).new 4 5 = none :=
    by decide +kernel

end Sys2Proof.Tests.OwnMemory

/-! ## Access traps, global memory, fences and cache maintenance -/

namespace Sys2Proof.Tests.Access
open Sys2Proof.Machine Sys2Proof.Tests

/-- Core 0 with X registers `x`. -/
def atX (x : List (Nat × W)) (f : Core → Core := id) : State × Task :=
  let t : Task := { Task.enter false 0 0 [] with x := x }
  (withCore (f (core0 t)), t)

/-- Whether `i` takes the trap `code` with `v`. -/
noncomputable def tr (i : Instr) (p : State × Task) (code : Nat) (v : W) : Bool := traps i p.1 0 p.2 code v

/-- LD.W X6, [X4 + 4]. -/
def ldW : Instr := .ld ⟨1, false, .w, 4, 6, .always⟩

/-- ST.W X6, [X4 + 4]. -/
def stW : Instr := .st ⟨1, .w, 4, 6, .always⟩

/-- AccessTraps: one access for each cause, with its TRAPV. -/
theorem witness_AccessTraps : (tr ldW (atX [(4, 0x1000000000000000)]) 0x08 0x1000000000000004 ∧ tr ldW (atX [(4, 0xA100000000000000)]) 0x08 0xA100000000000004 ∧
   tr ldW (atX [(4, 0x8010000000000000)]) 0x08 0x8010000000000004 ∧ tr ldW (atX [(4, 0x9003C0000000C000)]) 0x06 0x9003C0000000C004 ∧
   tr ldW (atX [(4, 0x900040000000C000)]) 0x06 0x900040000000C004 ∧
   tr ldW (atX [(4, 0x900000000000000E)] fun k => { k with lcl := { k.lcl with poison := [(2, true)] } }) 0x22 0x9000000000000012 ∧
   tr stW (atX [(4, 0x1000000000000000)]) 0x08 0x1000000000000004 ∧
   tr stW (atX [(4, 0x9003400000000000)]) 0x02 0x9003400000000004 ∧
   tr (.casD ⟨5, 4, 6, .always⟩) (atX [(4, 0x80004)]) 0x03 0x80004 ∧
   tr (.ldp ⟨1, 4, 6, .always⟩) (atX [(4, 0x80008)]) 0x03 0x80018 ∧ tr (.stp ⟨1, 4, 6, .always⟩) (atX [(4, 0x80008)]) 0x03 0x80018) = true := by decide +kernel

/-- A TLB entry of ASID 0. -/
def tlbE (sz page ppn : Nat) (u w : Bool) : TlbEntry := { asid := 0, g := false, sz := sz, page := page, ppn := ppn, u := u, w := w }

/-- AccessTraps, a load of a page that user code may not use: PAGE.PROT. -/
theorem witness_AccessTraps_load_page : (let p := atX [(4, 0x80000)] fun k => { k with tlb := [tlbE 0 1 2 false true] }
   decide (translateRange p.1 0 (whoOf false) false false 0x80004 4 = .error (5, 0x80004)) && tr ldW p 5 0x80004) = true := by decide +kernel

/-- AccessTraps, a store to a page that is not writable: PAGE.PROT. -/
theorem witness_AccessTraps_store_page : (let p := atX [(4, 0x80000)] fun k => { k with tlb := [tlbE 0 1 2 true false] }
   decide (translateRange p.1 0 (whoOf false) false true 0x80004 4 = .error (5, 0x80004)) && tr stW p 5 0x80004) = true := by decide +kernel

/-- An L1 line with a sector, registered words and a pending word. -/
def line0 : L1Line := { vas := [], units := [], old := [], sv := 1, reg := 2^20 + 2^21, drt := 0, pend := 2^30, bytes := 2^120, hs := [], psn := 0, lv := 3, data := [(4, 7), (5, 8), (80, 3), (84, 9)], used := 0 }

/-- A core whose TLB maps VA 0x80000 to PA 0x100000 and whose L1 holds that line. -/
def coreG (t : Task) : Core := { core0 t with tlb := [tlbE 0 1 2 true true], l1 := { lines := [(0x100000 / 256, line0)], missing := [], wb := [], clock := 5 } }

/-- X4 is the address. -/
def taskG (a : W) : Task := { Task.enter false 0 0 [] with x := [(4, a), (5, 9), (6, 0x12345678), (8, 1), (9, 2)] }

/-- The machine of that core. -/
def sG (a : W) : State := withCore (coreG (taskG a))

/-- The physical addresses of `n` bytes from `va`. -/
def pasG (va n : Nat) : List Nat := (List.range n).map fun i => va + i + 0x80000

/-- GlobalForms: a load whose bytes translate. -/
theorem witness_GlobalForms_load_pages : (translateRange (sG 0x80000) 0 (whoOf false) false false 0x80004 4 = .ok (.ok (pasG 0x80004 4))) := by decide +kernel

/-- GlobalForms: a store whose bytes translate. -/
theorem witness_GlobalForms_store_pages : (translateRange (sG 0x80000) 0 (whoOf false) false true 0x80004 4 = .ok (.ok (pasG 0x80004 4))) := by decide +kernel

/-- GlobalForms: a load that the L1 serves. -/
theorem witness_GlobalForms_load : (let s := sG 0x80000; let t := taskG 0x80000; match s.loadGlobal 0 (pasG 0x80004 4) with
   | .ok bytes s' => answers (exec ldW s) (s'.retire 0 (s'.core 0) (t.setReg 6 (extended false 4 (leNat bytes))) 2) && decide (leNat bytes = 0x807)
      && decide (bytes = ((pasG 0x80004 4).map fun pa => (((s.core 0).l1.line? (pa / 256)).map (·.byte (pa % 256))).getD 0))
   | _ => false) = true := by decide +kernel

/-- GlobalForms: a load that the L1 cannot serve asks. -/
theorem witness_GlobalForms_wait : (let s := sG 0x80040; let t := taskG 0x80040; match s.loadGlobal 0 (pasG 0x80044 4) with
   | .wait s' => answers (exec ldW s) (s'.stalledOn 0 (s'.core 0) t t.wait) && !s'.net.isEmpty
   | _ => false) = true := by decide +kernel

/-- GlobalForms: a store to registered words, and one to words that are not. -/
theorem witness_GlobalForms_store : ([(0x8004C : W), 0x80000].all fun a => let s := sG a; let t := taskG a; let va := a.toNat + 4
   match s.storeGlobal 0 va ((pasG va 4).zip (leBytes 4 (t.reg 6).toNat)) with
   | (true, s') => answers (exec stW s) (s'.retire 0 (s'.core 0) t 2)
   | _ => false) = true := by decide +kernel

/-- GlobalForms: an aligned AMO goes to the home. -/
theorem witness_GlobalForms_amo : (let s := sG 0x80008; let t := taskG 0x80008;
    answers (exec (.amoD ⟨.add, 5, 4, 6, .always⟩) s) ((s.stalledOn 0 (s.core 0) t (.value 6 false 64 2 false)).send (.core 0) (.slice (homeOf ((pasG 0x80008 8).headD 0)))
      .request (.amo (s.requester 0 t) 0x100008 8 0x80008 (.amo .add 9)))) = true := by decide +kernel

/-- GlobalForms: an aligned CAS2 goes to the home. -/
theorem witness_GlobalForms_cas2 : (let s := sG 0x80010; let t := taskG 0x80010;
    answers (exec (.cas2 ⟨8, 4, 6, .always⟩) s) ((s.stalledOn 0 (s.core 0) t (.pair 6 2)).send (.core 0) (.slice (homeOf 0x100010))
      .request (.amo (s.requester 0 t) 0x100010 16 0x80010 (.cas (t.pairOf 6) (t.pairOf 8))))) = true := by decide +kernel

/-- RegisteredStore: two bytes of a registered word. -/
theorem witness_RegisteredStore : (let s := sG 0; let bytes : List (Nat × Byte) := [(0x100050, 1), (0x100051, 2)]; match s.storeLine 0 0x1000 0x80000 bytes with
   | (true, s') => match (s'.core 0).l1.line? 0x1000 with
      | some x' => (bytes.all fun e => x'.byte (e.1 % 256) = e.2 ∧ x'.drt.testBit (e.1 % 256 / 4)) ∧
        ((List.range 256).all fun o => o = 80 ∨ o = 81 ∨ x'.byte o = line0.byte o)
         ∧ x'.reg = line0.reg ∧ x'.pend = line0.pend
      | none => false
   | _ => false) = true := by decide +kernel

/-- A line with pending words. -/
def lineU : L1Line := { line0 with pend := 3 }

/-- A core whose L1 waits for grants. -/
def sU : State := withCore { coreG (taskG 0x80000) with l1 := { lines := [(0x1000, lineU)], missing := [(0x1000, 1, 4)], wb := [], clock := 5 } }

/-- Fences: a store waits for its grant. -/
theorem witness_Fences_ungranted : (((sG 0).core 0).l1.ungranted, (sU.core 0).l1.ungranted) = (true, true) := by decide +kernel

/-- A core with no store waiting, but a fill under way. -/
def sQ : State := withCore { coreG (taskG 0x80000) with l1 := { lines := [(0x1000, { line0 with pend := 0 })], missing := [(0x1000, 1, 4)], wb := [], clock := 5 } }

/-- Its task. -/
def tQ : Task := taskG 0x80000

/-- Fences: each scope with no store waiting; a line that the L1 holds. -/
theorem witness_Fences_complete : ([Scope.core, .cluster, .package, .system].all fun sc => let s := sQ; let t := tQ; let f : FenceForm := ⟨sc, .always⟩;
    let a := s.acquire 0 sc
   answers (exec (.fenceAcq f) s) (a.retire 0 (a.core 0) t 2) ∧ answers (exec (.fenceRel f) s) (s.retire 0 (s.core 0) t 2) ∧
   answers (exec (.fenceFull f) s) (a.retire 0 (a.core 0) t 2) ∧ answers (exec (.fenceM f) s) (a.retire 0 (a.core 0) t 2) ∧
   (match (a.core 0).l1.line? 0x1000 with
     | some x' => decide (x'.sv = (if sc = .core ∨ (sc ≠ .system ∧ s.hostLine (0x1000 * 256) = true) then 1 else 0)) && decide (x'.reg = line0.reg ∧ x'.data = line0.data)
     | none => false) = true) = true := by decide +kernel

/-- Fences: a release of a wider scope waits for a grant, one of CORE scope does not. -/
theorem witness_Fences_release_waits : ([Scope.core, .cluster, .package, .system].all fun sc => let s := sU; let t := tQ; let f : FenceForm := ⟨sc, .always⟩
   if sc = .core then answers (exec (.fenceRel f) s) (s.retire 0 (s.core 0) t 2) else answers (exec (.fenceRel f) s) (s.stalledOn 0 (s.core 0) t t.wait)) = true := by decide +kernel

/-- A core with one Waybill entry in flight. -/
def sK : State := withCore { coreG tQ with waybill := [(2, { WbEntry.free with state := 1 })] }

/-- Fences: RFENCE with SR.UNACK 0 and 1; WAIT of 9 cycles and of none. -/
theorem witness_Fences_rfence_wait : (answers (exec (.rfence ⟨.always⟩) sQ) (sQ.retire 0 (sQ.core 0) tQ 2) ∧ answers (exec .cRfence sQ) (sQ.retire 0 (sQ.core 0) tQ 1) ∧
    (sK.core 0).unack = 1 ∧
   answers (exec (.rfence ⟨.always⟩) sK) (sK.stalledOn 0 (sK.core 0) tQ tQ.wait) ∧ answers (exec (.wait ⟨5, .always⟩) sQ) (sQ.stalledOn 0 (sQ.core 0) tQ (.cycles 9)) ∧
   answers (exec (.wait ⟨0, .always⟩) sQ) (sQ.retire 0 (sQ.core 0) tQ 2)) = true := by decide +kernel

/-- CWB of 128 bytes from VA 0x80000. -/
def tC : Task := { tQ with x := [(4, 0x80000), (5, 0x80)] }

/-- A core whose line has the registered words `reg`. -/
def sC (reg : Nat) : State := withCore { coreG tC with l1 := { lines := [(0x1000, { line0 with pend := 0, reg := reg })], missing := [], wb := [], clock := 5 } }

/-- CacheMaintenance: a range with no registered, pending or buffered line. -/
theorem witness_CacheMaintenance : (let s := sC 0; let t := tC; let f : Rba := ⟨5, 4, .always⟩
   match Cx.rangeLines { s := s, c := 0, k := s.core 0, t := t, hi := (s.core 0).inHi } 0x80000 0x80 with
   | .ok (.ok lines) => decide (lines = [0x1000]) && answers (exec (.cwb f) s) (s.retire 0 (s.core 0) t 2) &&
     (let u := s.onL1 0 fun l => lines.foldl (fun l x => l.clearSv x 15) l
      answers (exec (.cinv f) s) (u.retire 0 (u.core 0) t 2))
   | _ => false) = true := by decide +kernel

/-- CacheMaintenance: no byte. -/
theorem witness_CacheMaintenance_none : (let s := sC 0; let t := tC; let f : Rba := ⟨0, 4, .always⟩; answers (exec (.cwb f) s) (s.retire 0 (s.core 0) t 2) ∧
    answers (exec (.cinv f) s) (s.retire 0 (s.core 0) t 2)) = true := by decide +kernel

/-- CacheMaintenance: above 2^31 bytes. -/
theorem witness_CacheMaintenance_large : (let t : Task := { tQ with x := [(4, 0x80000), (5, 0x80000001)] }; let s := withCore (coreG t); let f : Rba := ⟨5, 4, .always⟩;
    traps (.cwb f) s 0 t 1 ((s.core 0).instrWord t) ∧ traps (.cinv f) s 0 t 1 ((s.core 0).instrWord t)) = true := by decide +kernel

/-- CacheMaintenance: the writeback of a line with registered words. -/
theorem witness_CacheMaintenance_release : (let l : L1 := { lines := [(0x1000, { line0 with drt := 2^20 })], missing := [], wb := [], clock := 5 }
   match l.release 0x1000 with
   | (l', some b) => b.line = 0x1000 ∧ b.words.map (·.1) = [20, 21] ∧ (b.words.all fun e => e.2.1 = line0.word e.1 ∧ e.2.2 = (2^20).testBit e.1) ∧
      l'.line? 0x1000 = some { line0 with reg := 0, drt := 0 } ∧ l'.wb = [b]
   | _ => false) = true := by decide +kernel

/-- AccessTraps, the places that its hypotheses name: no place; another core; a reserved window; instruction memory in user mode; a poisoned word. -/
theorem witness_AccessTraps_places : (let t : Task := { Task.enter false 0 0 [] with x := [(4, 0x900000000000000E)] }
    let s := withCore { core0 t with lcl := { Local.reset with poison := [(2, true)] } }
    decodeAddr 0 false 0x1000000000000004 4 = .error 8 ∧ decodeAddr 0 false 0x8010000000000004 4 = .ok (.loc 4 0 4) ∧ (4 : Nat) ≠ 0 ∧
    decodeAddr 0 false 0x900040000000C004 4 = .ok (.loc 0 1 0xC004) ∧ Local.reset.windowCheck .load false 1 0xC004 4 = some 6 ∧
    decodeAddr 0 false 0x9003400000000004 4 = .ok (.loc 0 13 4) ∧
    OwnAt s 0 t .load 0x9000000000000012 4 0 0x12 ∧ (s.core 0).lcl.poisoned 0x12 4 = true ∧ (s.core 0).lcl.firstPoison 0x12 4 = some 0x12 ∧
    decodeAddr 0 false 0x80004 8 = .ok (.global 0x80004) ∧ decodeAddr 0 false 0x80018 16 = .ok (.global 0x80018) ∧ t.carried = false) := by
  exact ⟨rfl, rfl, by decide, rfl, by decide +kernel, rfl, ⟨rfl, by decide +kernel, (by intro p h; cases h), by decide +kernel⟩, by decide +kernel, by decide +kernel,
    rfl, rfl, rfl⟩

/-- Fences and CacheMaintenance: what issues and passes its guard, and the range of a CWB. -/
theorem witness_FencesAndCaches : Issues sQ 0 tQ ∧ tQ.carried = false ∧ guardPasses .always tQ = true ∧ (sQ.core 0).l1.ungranted = false ∧
    Scope.cluster ≠ Scope.core ∧ (sQ.core 0).unack = 0 ∧ (sK.core 0).unack ≠ 0 ∧ Issues (sC 0) 0 tC ∧ tC.reg 0 = 0 ∧ 0 < (tC.reg 5).toNat ∧
    (tC.reg 5).toNat ≤ 2 ^ 31 ∧ decodeAddr 0 tC.sup (tC.reg 4).toNat (tC.reg 5).toNat = .ok (.global 0x80000) ∧ (sC 0).net = [] :=
  ⟨⟨rfl, rfl, rfl, rfl, rfl, rfl⟩, rfl, by decide, by decide +kernel, by decide, by decide +kernel, by decide +kernel, ⟨rfl, rfl, rfl, rfl, rfl, rfl⟩, by decide,
    by decide,
    by decide, by rfl, rfl⟩

/-- GlobalForms: the places and alignments that its hypotheses name. -/
theorem witness_GlobalForms : Issues (sG 0x80000) 0 (taskG 0x80000) ∧ GlobAt (sG 0x80000) 0 (taskG 0x80000) false 0x80004 4 0x80004 (pasG 0x80004 4) ∧
    GlobAt (sG 0x80000) 0 (taskG 0x80000) true 0x80004 4 0x80004 (pasG 0x80004 4) ∧
    GlobAt (sG 0x80010) 0 (taskG 0x80010) true 0x80010 16 0x80010 (pasG 0x80010 16) ∧ (0x80010 : W).toNat % 16 = 0 ∧ (0x80008 : W).toNat % 8 = 0 :=
  ⟨⟨rfl, rfl, rfl, rfl, rfl, rfl⟩, ⟨⟨rfl, rfl, witness_GlobalForms_load_pages, by intro p h; cases h⟩, by decide⟩,
    ⟨⟨rfl, rfl, witness_GlobalForms_store_pages, by intro p h; cases h⟩, by decide⟩,
    ⟨⟨rfl, rfl, by decide +kernel, by intro p h; cases h⟩, by decide⟩, by decide, by decide⟩

/-- AddressRegions: both ends of each region, and the last offset below 0x30000 and the first above. -/
theorem witness_AddressRegions : ([(0, 8, .ok (.global 0)), (2 ^ 56 - 8, 8, .ok (.global (2 ^ 56 - 8))), (2 ^ 56 - 7, 8, .error 8), (2 ^ 56, 1, .error 8),
    (2 ^ 60 - 1, 1, .error 8), (2 ^ 60, 1, .error 8), (8 * 2 ^ 60 - 1, 1, .error 8), (8 * 2 ^ 60, 1, .ok (.loc 0 0 0)),
    (8 * 2 ^ 60 + 5 * 2 ^ 50 + 3 * 2 ^ 46 + 0x2FFFF, 1, .ok (.loc 5 3 0x2FFFF)), (8 * 2 ^ 60 + 0x2FFFF, 2, .error 6), (8 * 2 ^ 60 + 2 ^ 18, 1, .error 8),
    (9 * 2 ^ 60 - 1, 1, .error 8), (9 * 2 ^ 60, 1, .ok (.loc 7 0 0)), (9 * 2 ^ 60 + 0x2FFF8, 8, .ok (.loc 7 0 0x2FFF8)), (9 * 2 ^ 60 + 0x2FFF9, 8, .error 6),
    (9 * 2 ^ 60 + 2 ^ 50, 1, .error 8), (10 * 2 ^ 60, 1, .ok (.peer 0 0)), (11 * 2 ^ 60 - 1, 1, .ok (.peer 15 (2 ^ 56 - 1))), (11 * 2 ^ 60, 1, .error 8),
    (15 * 2 ^ 60 - 1, 1, .error 8), (15 * 2 ^ 60, 8, .error 2), (2 ^ 64 - 8, 8, .error 2)] : List (Nat × Nat × Except Nat Place)).all (fun e =>
      decide (decodeAddr 7 false e.1 e.2.1 = e.2.2)) = true ∧
    decodeAddr 7 true (15 * 2 ^ 60 + 0x123 * 2 ^ 48 + 9) 8 = .ok (.config 0x12 3 9) := by decide +kernel

/-- WindowRules: each window at the last length that its rule allows, and one byte more; window 1 is configured, window 2 is not. -/
theorem witness_WindowRules : (let l : Local := { Local.reset with win := [(1, 2 ^ 63)] }
    ([(.load, false, 0, 0x2FFFF, 1, none), (.load, false, 0, 0x2FFFF, 2, some 6), (.vector, false, 1, 0x2FF00, 0x100, none),
      (.vector, false, 1, 0x2FF00, 0x101, some 6), (.atomic, true, 2, 0, 4, some 6), (.store, true, 12, 0, 1, some 6), (.load, false, 13, 0xFFFF, 1, none),
      (.load, false, 13, 0xFFFF, 2, some 6), (.store, false, 13, 0, 1, some 2), (.store, true, 13, 0xFFFF, 1, none), (.porter, false, 13, 0, 1, some 2),
      (.porter, true, 13, 0, 0x10000, none), (.atomic, true, 13, 0, 4, some 6), (.vector, true, 13, 0, 4, some 6), (.load, true, 14, 0, 1, some 6),
      (.load, false, 15, 0xBFF, 1, none), (.load, false, 15, 0xBFF, 2, some 6), (.store, false, 15, 0xBFF, 1, none), (.atomic, false, 15, 0, 4, some 6),
      (.vector, true, 15, 0, 4, some 6), (.porter, true, 15, 0, 1, some 6)] :
        List (Access × Bool × Nat × Nat × Nat × Option Nat)).all (fun e =>
      decide (l.windowCheck e.1 e.2.1 e.2.2.1 e.2.2.2.1 e.2.2.2.2.1 = e.2.2.2.2.2))) = true := by decide +kernel

/-- A supervisor task whose X4 is the address. -/
def taskV (a : W) : Task := { taskG a with sup := true }
/-- The machine that runs it, with a Waybill entry refused. -/
def sV (a : W) : State := withCore { core0 (taskV a) with waybill := [(2, { WbEntry.free with state := 2, seq := 5 })] }

/-- ConfigurationAccesses: a load and a store of a Waybill word and of a monitor's control, each unit of a cluster, and each trap. -/
theorem witness_ConfigurationAccesses : (let ld : Instr := .ld ⟨0, false, .d, 4, 6, .always⟩
    let st : Instr := .st ⟨0, .d, 4, 6, .always⟩
    Issues (sV 0xF0000000000100B8) 0 (taskV 0xF0000000000100B8) ∧ decodeAddr 0 true 0xF0000000000100B8 8 = .ok (.config 0 0 0x100B8) ∧ unitOf 0 0 = some 0 ∧
    gives (exec ld (sV 0xF0000000000100B8)) (fun s => ((s.core 0).lo.map fun t => t.reg 6 == (sV 0).readConfig 0 0x100B8) == some true) ∧
    gives (exec st (sV 0xF0000000000100B8)) (fun s => ((s.core 0).wb 2).state == 0) ∧
    gives (exec st (sV 0xF000000000020100)) (fun s => (s.monitor 0 1).ctl == (0x12345678 &&& 0xBF0000000000FFFF)) ∧
    traps (.ld ⟨0, false, .w, 4, 6, .always⟩) (sV 0xF000000000010000) 0 (taskV 0xF000000000010000) 8 0xF000000000010000 ∧
    traps ld (sV 0xF006000000010000) 0 (taskV 0xF006000000010000) 8 0xF006000000010000 ∧
    traps ld (sV 0xF000000001000000) 0 (taskV 0xF000000001000000) 8 0xF000000001000000 ∧
    traps st (sV 0xF000000001000000) 0 (taskV 0xF000000001000000) 8 0xF000000001000000 ∧
    traps ld (sV 0xF000000000010004) 0 (taskV 0xF000000000010004) 3 0xF000000000010004 ∧
    unitOf 3 3 = some 15 ∧ unitOf 3 4 = some 1027 ∧ unitOf 3 5 = some 1283 ∧ unitOf 3 6 = none ∧ unitOf 3 12 = none) :=
  ⟨⟨rfl, rfl, rfl, rfl, rfl, rfl⟩, rfl, rfl, by decide +kernel⟩

/-- MisalignedAccesses: LD.W and ST.W at 0x80050 + 1, the first byte and a byte in the middle. -/
theorem witness_MisalignedAccesses : (let a : W := 0x8004D
    let s := sG a; let t := taskG a; let pas := pasG 0x80051 4
    Issues s 0 t ∧ GlobTouch s 0 t false 0x80051 4 0x80051 pas ∧ GlobTouch s 0 t true 0x80051 4 0x80051 pas ∧ (0x80051 : W).toNat % 4 ≠ 0 ∧ 2 ≤ pas.length) :=
  ⟨⟨rfl, rfl, rfl, rfl, rfl, rfl⟩, ⟨rfl, rfl, by decide +kernel, by intro p h; cases h⟩, ⟨rfl, rfl, by decide +kernel, by intro p h; cases h⟩, by decide, by decide⟩

/-- MisalignedAccesses: what those steps leave, and the last byte, which completes. -/
theorem witness_MisalignedAccesses_steps : (let a : W := 0x8004D
    let t := taskG a; let pas := pasG 0x80051 4
    let at_ := fun (d : List Byte) => withCore (coreG { t with bytewise := some ⟨pas, d⟩, stalled := true })
    (match (sG a).loadGlobal 0 [pas.getD 0 0] with
     | .ok [x] s' => answers (exec ldW (sG a)) (s'.stalledOn 0 (s'.core 0) { t with bytewise := some ⟨pas, [x]⟩ } t.wait)
     | _ => false) &&
    (match (at_ [1]).loadGlobal 0 [pas.getD 1 0] with
     | .ok [x] s' => answers (exec ldW (at_ [1])) (s'.stalledOn 0 (s'.core 0) { t with bytewise := some ⟨pas, [1, x]⟩, stalled := true } t.wait)
     | _ => false) &&
    (match (at_ [1, 2, 3]).loadGlobal 0 [pas.getD 3 0] with
     | .ok [x] s' => answers (exec ldW (at_ [1, 2, 3]))
         (s'.retire 0 (s'.core 0) ({ t with bytewise := some ⟨pas, [1, 2, 3]⟩, stalled := true }.setReg 6 (extended false 4 (leNat [1, 2, 3, x]))) 2)
     | _ => false) &&
    (match (sG a).storeGlobal 0 0x80051 [(pas.getD 0 0, 0x78)] with
     | (true, s') => answers (exec stW (sG a)) (s'.stalledOn 0 (s'.core 0) { t with bytewise := some ⟨pas, [0x78]⟩ } t.wait)
     | _ => false) &&
    (match (at_ [1, 2, 3]).storeGlobal 0 0x80051 [(pas.getD 3 0, 0x12)] with
     | (true, s') => answers (exec stW (at_ [1, 2, 3])) (s'.retire 0 (s'.core 0) { t with bytewise := some ⟨pas, [1, 2, 3]⟩, stalled := true } 2)
     | _ => false) &&
    (match (sG 0x8003D).loadGlobal 0 [0x100041] with
     | .wait s' => answers (exec ldW (sG 0x8003D)) (s'.stalledOn 0 (s'.core 0) { taskG 0x8003D with bytewise := some ⟨pasG 0x80041 4, []⟩ } .none)
     | _ => false)) = true := by decide +kernel

/-- MisalignedAccesses: a task in the middle of one. -/
theorem witness_MisalignedAccesses_mid : (let b : Bytewise := ⟨pasG 0x80051 4, [1]⟩
    let t : Task := { taskG 0x8004D with bytewise := some b, stalled := true }
    MidAccess (withCore (coreG t)) 0 t b) := ⟨rfl, rfl, rfl, rfl, rfl, rfl⟩

/-- PutOffAccesses: the turn puts a load and a release store off; each is performed later, the store once nothing waits. -/
theorem witness_PutOffAccesses : (let s : State := { sG 0x80000 with turn := .core 0 true }; let t := taskG 0x80000; let pas := pasG 0x80004 4
    let ldLate : Late := { d := 6, sx := false, n := 4, va := 0x80004, pas := pas, store := none }
    let stLate : Late := { d := 0, sx := false, n := 4, va := 0x80004, pas := pas, store := some 0x12345678 }
    let held := fun (l : List Late) => withCore { coreG { t with late := l } with l1 := { lines := [(0x1000, { line0 with pend := 0 })], missing := [], wb := [], clock := 5 } }
    s.sound 0 pas &&
    answers (exec ldW s) (s.retire 0 (s.core 0) { t with late := [ldLate] } 2) &&
    answers (exec (.stRel ⟨1, .w, 4, 6, .always⟩) s) (s.retire 0 (s.core 0) { t with late := [stLate] } 2) &&
    (match (held [ldLate]).loadGlobal 0 pas with
     | .ok bytes s' => decide ((held [ldLate]).performLate 0 false 0 = s'.withTask 0 false { t.setReg 6 (extended false 4 (leNat bytes)) with late := [] })
     | _ => false) &&
    ((held [stLate]).core 0).released false .package &&
    (match (held [stLate]).storeGlobal 0 0x80004 (pas.zip (leBytes 4 0x12345678)) with
     | (true, s') => decide ((held [stLate]).performLate 0 false 0 = s'.withTask 0 false { t with late := [] })
     | _ => false) &&
    decide ((held [ldLate, stLate]).performLate 0 false 1 = held [ldLate, stLate])) = true := by decide +kernel

/-- PutOffAccesses: the turn and the task. -/
theorem witness_PutOffAccesses_at : (let s : State := { sG 0x80000 with turn := .core 0 true }
    Issues s 0 (taskG 0x80000) ∧ GlobAt s 0 (taskG 0x80000) false 0x80004 4 0x80004 (pasG 0x80004 4)) :=
  ⟨⟨rfl, rfl, rfl, rfl, rfl, rfl⟩, ⟨⟨rfl, rfl, by decide +kernel, by intro p h; cases h⟩, by decide⟩⟩

/-- CacheMaintenance: a registered line is written back and waited for; a pending line, or a buffer on its way, is waited for. -/
theorem witness_CacheMaintenance_waits : (let s := sC (2 ^ 20); let f : Rba := ⟨5, 4, .always⟩
    (match (s.core 0).l1.release 0x1000 with
     | (l', b) => let s' := (s.onL1 0 fun _ => l').sendWb 0 b
       answers (exec (.cwb f) s) (s'.stalledOn 0 (s'.core 0) tC tC.wait) && answers (exec (.cinv f) s) (s'.stalledOn 0 (s'.core 0) tC tC.wait)) &&
    ((s.core 0).l1.wb.length < Config.wbufs : Bool) &&
    (let u := withCore { coreG tC with l1 := { lines := [(0x1000, { line0 with reg := 0 })], missing := [], wb := [], clock := 5 } }
     answers (exec (.cwb f) u) (u.stalledOn 0 (u.core 0) tC tC.wait) && answers (exec (.cinv f) u) (u.stalledOn 0 (u.core 0) tC tC.wait))) = true := by decide +kernel

end Sys2Proof.Tests.Access

/-! ## Remote accesses, their answers and the owner's port -/

namespace Sys2Proof.Tests.Remote
open Sys2Proof.Machine Sys2Proof.Tests

/-- An address of core 5. -/
def a5 (w off : Nat) : W := w64 (localAddr 5 w off)

/-- The address names core 5. -/
theorem witness_RemoteAt : (match decodeAddr 0 false (a5 0 0x44).toNat 4 with | .ok (.loc d w off) => decide ((d, w, off) = (5, 0, 0x44)) | _ => false) = true := by decide +kernel

/-- RemoteRequests, RLD of every size. -/
theorem witness_RemoteRequests_rld : (let s := sF 0x40; let t := tF 0x40; [Size.b, .h, .w, .d, .n].all fun sz => let f : MemForm := ⟨1, true, sz, 4, 6, .always⟩
   let a := nibbleAddr (t.reg f.a) f.sz (f.disp.toNat * f.sz.bytes : Nat)
   answers (exec (.rld f) s) ((s.send (.core 0) (.core 5) .request (.rld (s.requester 0 t) a.1.toNat f.sz.bytes a.2)).stalledOn 0 (s.core 0) t (.value f.d f.sx (8 * f.sz.bytes) 2 false))) = true := by decide +kernel

/-- RemoteRequests, the literal form, with a negative offset. -/
theorem witness_RemoteRequests_rldLit : (let s := sF 0x40; let t := tF 0x40;
    [Size.b, .h, .w, .d, .n].all fun sz => let f : MemLit := ⟨true, sz, 4, 6, .always, 0xFFFFFFF9⟩
   let a := nibbleAddr (t.reg f.a) f.sz f.lit.toInt
   answers (exec (.rldLit f) s) ((s.send (.core 0) (.core 5) .request (.rld (s.requester 0 t) a.1.toNat f.sz.bytes a.2)).stalledOn 0 (s.core 0) t (.value f.d f.sx (8 * f.sz.bytes) 4 false))) = true := by decide +kernel

/-- RemoteRequests, RAMO of both widths, a misaligned one, and RLD of no place. -/
theorem witness_RemoteRequests_ramo : (let s := sF 0x40; let t := tF 0x40;
    answers (exec (.ramoW ⟨.add, 6, 4, 7, .always⟩) s) ((s.send (.core 0) (.core 5) .request (.ramo (s.requester 0 t) (t.reg 4).toNat 4 (.amo .add 0xABCDEF01))).stalledOn 0 (s.core 0) t (.value 7 false 32 2 false)) ∧
   answers (exec (.ramoD ⟨.add, 6, 4, 7, .always⟩) s) ((s.send (.core 0) (.core 5) .request (.ramo (s.requester 0 t) (t.reg 4).toNat 8 (.amo .add 0x12345678ABCDEF01))).stalledOn 0 (s.core 0) t (.value 7 false 64 2 false)) ∧
   traps (.ramoD ⟨.add, 6, 4, 7, .always⟩) (sF 0x44) 0 (tF 0x44) 0x03 (a5 0 0x44) ∧
   traps (.rld ⟨1, true, .h, 5, 6, .always⟩) (let t : Task := { tF 0 with x := [(5, 0x1000000000000000)] };
     at0 t) 0 { tF 0 with x := [(5, 0x1000000000000000)] } 8 0x1000000000000002) := by decide +kernel

/-- R157: offset n of a nibble access names half n mod 2 of byte ⌊n/2⌋. -/
theorem test_nibbleAddr : ([(0:Int), 1, 5, -1, -2, -3].all fun off => nibbleAddr 100 .n off = (100 + BitVec.ofInt 64 (off / 2), some (decide (off % 2 = 1)))) = true :=
    by decide +kernel

/-- Waybill entry 0 is taken. -/
def wb1 (k : Core) : Core := { k with waybill := [(0, { WbEntry.free with state := 1 })] }

/-- Every Waybill entry is taken. -/
def wbFull (k : Core) : Core := { k with waybill := (List.range Config.waybillSize).map fun i => (i, { WbEntry.free with state := 1 }) }

/-- PostedStores, RST of every size and both planes with entry 1 free. -/
theorem witness_PostedStores_rst : (let s := sF 0x40 wb1; let t := tF 0x40; ((s.core 0).freeEntry? = some 1) &&
    (([false, true].product [Size.b, .h, .w, .d, .n]).all fun p => let f : MemForm := ⟨1, p.1, p.2, 4, 6, .always⟩
   let a := nibbleAddr (t.reg f.a) f.sz (f.disp.toNat * f.sz.bytes : Nat)
   let v := if f.sz = .n then (t.reg f.d).toNat % 16 else (t.reg f.d).toNat % 256 ^ f.sz.bytes
   let u := ((s.post 0 1 t a.1 [w64 v] (sizeCode f.sz * 8 + b2n f.sx * 64)).send (.core 0) (.core 5) (if f.sx then .bulk else .request) (.rst (s.requester 0 t) a.1.toNat f.sz.bytes v a.2 1))
   answers (exec (.rst f) s) (u.retire 0 (u.core 0) t 2))) = true := by decide +kernel

/-- PostedStores, with no entry free. -/
theorem witness_PostedStores_full : (let s := sF 0x40 wbFull; let t := tF 0x40; (s.core 0).freeEntry? = none ∧
    answers (exec (.rst ⟨1, false, .w, 4, 6, .always⟩) s) (s.stalledOn 0 (s.core 0) t t.wait)) := by decide +kernel

/-- PostedStores, the literal form. -/
theorem witness_PostedStores_rstLit : (let s := sF 0x40 wb1; let t := tF 0x40;
    ([Size.b, .h, .w, .d, .n].all fun p => let f : MemLit := ⟨false, p, 4, 6, .always, 0xFFFFFFF9⟩
   let a := nibbleAddr (t.reg f.a) f.sz f.lit.toInt
   let v := if f.sz = .n then (t.reg f.d).toNat % 16 else (t.reg f.d).toNat % 256 ^ f.sz.bytes
   let u := ((s.post 0 1 t a.1 [w64 v] (sizeCode f.sz * 8 + b2n f.sx * 64)).send (.core 0) (.core 5) (if f.sx then .bulk else .request) (.rst (s.requester 0 t) a.1.toNat f.sz.bytes v a.2 1))
   answers (exec (.rstLit f) s) (u.retire 0 (u.core 0) t 4))) = true := by decide +kernel

/-- PostedStores, the entry taken. -/
theorem witness_PostedStores_entry : (let s := sF 0x40 wb1; let t := tF 0x40; let s' := s.post 0 1 t 77 [3] 5
   ((s'.core 0).wb 1).target = 77 ∧ ((s'.core 0).wb 1).data = [3] ∧ ((s'.core 0).wb 1).state = 1 ∧ ((s'.core 0).wb 1).kind = 5 ∧
     ((s'.core 0).wb 1).seq = (s.core 0).seq ∧ (s'.core 0).seq = 1 ∧ ((s'.core 0).wb 0) = ((s.core 0).wb 0)) := by decide +kernel

/-- Answers, one register: a task that waits for 2 bytes. -/
theorem witness_Answers_value : (let w : Wait := .value 6 true 16 4 false; let s := withNet (stalled w) (pk (.core 5) (.core 0) .reply (.reply false [0xF123, 4]));
    let t := ts w
   answers (exec (.remoteReply 0) s) ((s.drop 0).withTask 0 false { t.setReg 6 (extended true 2 0xF123) with wait := .none, pc := 4, stalled := false })) = true := by decide +kernel

/-- Answers, a register pair. -/
theorem witness_Answers_pair : (let w : Wait := .pair 6 2; let s := withNet (stalled w) (pk (.core 5) (.core 0) .reply (.reply false [0xF123, 4])); let t := ts w
   answers (exec (.remoteReply 0) s) ((s.drop 0).withTask 0 false { (t.setReg 6 0xF123).setReg 7 4 with wait := .none, pc := 2, stalled := false })) = true := by decide +kernel

/-- Answers, a failure, whatever the task waits for. -/
theorem witness_Answers_failed : ([Wait.value 6 true 16 4 false, .pair 6 2, .barv 6 1, .barw 6, .map 6 none 1 none 0 0 0, .tswap 1, .cycles 3, .none].all fun w =>
    let s := withNet (stalled w) (pk (.core 5) (.core 0) .reply (.failed false ⟨3, 9⟩)); let t := ts w
   answers (exec (.remoteReply 0) s) ((s.drop 0).withTask 0 false { t with wait := .none, fail := some ⟨3, 9⟩ })) = true := by decide +kernel

/-- Waybill entry 1 is in flight. -/
def wb2 (kind : Nat) (k : Core) : Core := { k with waybill := [(1, { WbEntry.free with state := 1, kind := kind, target := 5 })] }

/-- Answers, an acknowledgement. -/
theorem witness_Answers_ack : (let s := withNet (stalled .none (wb2 2)) (pk (.core 5) (.core 0) .reply (.ack 1));
    answers (exec (.postedAck 0) s) ((s.drop 0).onCore 0 fun x => x.setWb 1 WbEntry.free)) = true := by decide +kernel

/-- Answers, refusals of a store and of a message. -/
theorem witness_Answers_refusal : ([2, 8, 10, 0].all fun kind => let s := withNet (stalled .none (wb2 kind)) (pk (.core 5) (.core 0) .reply (.refusal 1 7));
    let w := (s.core 0).wb 1
  answers (exec (.postedRefusal 0) s) (((s.drop 0).onCore 0 fun x =>
    x.setWb 1 { w with state := 2, cause := 7 }).pending 0 (if w.kind % 8 = 2 then 0x23 else 0x20) (w64 (7 * 256 + 1)))) = true := by decide +kernel

/-- Answers, SR.WBFREE of a refused entry and of others. -/
theorem witness_Answers_free : (let s := sF 0 fun k => { k with waybill := [(1, { WbEntry.free with state := 2 }), (2, { WbEntry.free with state := 1 })] }
   answers (exec (.waybillFree 0 1) s) (s.onCore 0 fun x => x.setWb 1 WbEntry.free) ∧ answers (exec (.waybillFree 0 2) s) (s.onCore 0 id) ∧
     answers (exec (.waybillFree 0 3) s) (s.onCore 0 id)
   ∧ answers (exec (.waybillFree 0 0x13) s) (s.onCore 0 id)) := by decide +kernel

/-- Answers, with no packet under way. -/
theorem witness_Answers_none : (let s := sF 0; answers (exec (.remoteReply 0) s) s ∧ answers (exec (.postedAck 0) s) s ∧ answers (exec (.remoteLoadArrival 0) s) s ∧
    answers (exec (.remoteStoreArrival 0) s) s) := by decide +kernel

/-- Core 5 with a packet for its port; word 16 of its scratchpad is full. -/
def own (f : Core → Core) (src : Nat) (b : Body) : State := { State.reset with cores := [(5, f { Core.reset with ctx := some 0, lcl := { Local.reset with spad := [⟨0x40, 0x9A⟩, ⟨0x41, 7⟩], full := [⟨2, 1⟩] } })], net := [pk (.core src) (.core 5) .request b] }

/-- OwnerPort, a load of a byte and of either half. -/
theorem witness_OwnerPort_load : ([none, some false, some true].all fun nib => let s := own id 0 (.rld (rq 0) (ad 0 0x40) 1 nib)
   match (s.core 5).lcl.load (bitsOf (ad 0 0x40) 49 46) (bitsOf (ad 0 0x40) 17 0) 1 with
   | some bytes => decide ((s.core 5).arrivalCheck (rq 0) .load (ad 0 0x40) 1 = none) &&
     answers (exec (.remoteLoadArrival 0) s) ((s.drop 0).send (.core 5) (.core 0) .reply (.reply false [match nib with
        | none => leNat bytes
        | some h => if h then leNat bytes / 16 else leNat bytes % 16]))
   | none => false) = true := by decide +kernel

/-- OwnerPort, loads that their window does not allow. -/
theorem witness_OwnerPort_load_refused : ([ad 1 0x40, ad 14 0].all fun a => let s := own id 0 (.rld (rq 0) a 1 none); match (s.core 5).arrivalCheck (rq 0) .load a 1 with
    | some code => answers (exec (.remoteLoadArrival 0) s) ((s.drop 0).send (.core 5) (.core 0) .reply (.failed false ⟨code,
      w64 a⟩)) | none => false) = true := by decide +kernel

/-- OwnerPort, a load at a core of no context. -/
theorem witness_OwnerPort_load_context : (let a := ad 0 0x40; let s := own (fun k => { k with ctx := none }) 0 (.rld (rq 0) a 1 none);
    match (s.core 5).arrivalCheck (rq 0) .load a 1 with
    | some code => answers (exec (.remoteLoadArrival 0) s) ((s.drop 0).send (.core 5) (.core 0) .reply (.failed false ⟨code,
      w64 a⟩)) | none => false) = true := by decide +kernel

/-- OwnerPort, a store to a full word under SR.RPROT. -/
theorem witness_OwnerPort_full : (let a := ad 0 0x80; let s := own (fun k => { k with regs := { k.regs with rprot := true } }) 0 (.rst (rq 0) a 4 0x1234567 none 3)
   (s.core 5).fullRefused 5 (rq 0) a 4 = true ∧ answers (exec (.remoteStoreArrival 0) s) ((s.drop 0).send (.core 5) (.core 0) .reply (.refusal 3 4))) := by decide +kernel

/-- OwnerPort, stores, one across two words. -/
theorem witness_OwnerPort_store : ([ad 0 0x40, ad 0 0x80, ad 0 0x85].all fun a => let s := own id 0 (.rst (rq 0) a 4 0x1234567 none 3)
   decide ((s.core 5).fullRefused 5 (rq 0) a 4 = false) && decide ((s.core 5).arrivalCheck (rq 0) .store a 4 = none) && !(s.core 5).lcl.mergeFails (bitsOf a 17 0) 4 &&
     answers (exec (.remoteStoreArrival 0) s) (((s.drop 0).portStore 5 (bitsOf a 49 46) (bitsOf a 17 0) (leBytes 4 0x1234567)).send (.core 5) (.core 0) .reply (.ack 3))) = true := by decide +kernel

/-- OwnerPort, stores that their window does not allow. -/
theorem witness_OwnerPort_store_refused : ([(ad 13 0, 0), (ad 14 0, 0), (ad 2 0, 0)].all fun p => let s := own id 0 (.rst (rq 0) p.1 4 5 none 3);
    match (s.core 5).arrivalCheck (rq 0) .store p.1 4 with
   | some code => answers (exec (.remoteStoreArrival 0) s) ((s.drop 0).send (.core 5) (.core 0) .reply (.refusal 3 (if code = 0x02 then 1 else if code = 0x0D then 7 else if code = 0x22 then 3 else 2)))
   | none => false) = true := by decide +kernel

/-- OwnerPort, a store at a stopped core. -/
theorem witness_OwnerPort_store_context : (let s := own (fun k => { k with stopped := true }) 0 (.rst (rq 0) (ad 0 0) 4 5 none 3);
    match (s.core 5).arrivalCheck (rq 0) .store (ad 0 0) 4 with
   | some code => answers (exec (.remoteStoreArrival 0) s) ((s.drop 0).send (.core 5) (.core 0) .reply (.refusal 3 (if code = 0x02 then 1 else if code = 0x0D then 7 else if code = 0x22 then 3 else 2)))
   | none => false) = true := by decide +kernel

/-- OwnerPort, an AMO, a CAS that succeeds and one that fails. -/
theorem witness_OwnerPort_atomic : ([Rmw.amo .add 5, .cas 0x79A 9, .cas 3 4].all fun op => let a := ad 0 0x40; let s := own id 0 (.ramo (rq 0) a 4 op);
    match (s.core 5).lcl.load 0 (bitsOf a 17 0) 4 with
   | some bytes => answers (exec (.remoteAtomicArrival 0) s) ((match op.new 4 (leNat bytes) with
      | none => s.drop 0
      | some v => (s.drop 0).portStore 5 0 (bitsOf a 17 0) (leBytes 4 v)).send (.core 5) (.core 0) .reply (.reply false [leNat bytes]))
   | none => false) = true := by decide +kernel

/-- OwnerPort, FECLR. -/
theorem witness_OwnerPort_feclr : (let a := ad 0 0x80; let s := own id 0 (.feclr (rq 0) a 16);
    answers (exec (.feclrArrival 0) s) (((s.drop 0).portFeclr 5 (bitsOf a 17 0) 16).send (.core 5) (.core 0) .reply (.reply false [0]))) = true := by decide +kernel

/-- FullEmptyInstructions, the words that FECLR of 64 bytes from 72 empties. -/
theorem witness_FullEmptyInstructions_feclr : ((List.range 40).all fun j =>
    let s := own (fun k => { k with lcl := { k.lcl with full := [⟨1, 0xFF⟩, ⟨2, 0xFF⟩, ⟨3, 0x81⟩] } }) 0 (.ack 0);
    ((s.portFeclr 5 72 64).core 5).lcl.isFull j = (((s.core 5).lcl.isFull j) && !decide (72 ≤ 8 * j ∧ 8 * j < 72 + 64))) = true := by decide +kernel

/-- RemoteRequests and PostedStores: what issues, the place, a free entry. -/
theorem witness_RemoteAccess : Issues (sF 0x40) 0 (tF 0x40) ∧ guardPasses .always (tF 0x40) = true ∧ RemoteAt (sF 0x40) 0 (tF 0x40) (a5 0 0x44) 4 5 0 0x44 ∧
    (tF 0x40).reg 4 = a5 0 0x40 ∧ (a5 0 0x40).toNat % 8 = 0 ∧ (a5 0 0x44).toNat % 8 ≠ 0 ∧ Size.w ≠ Size.n ∧ ((sF 0x40).core 0).freeEntry? = some 0 :=
  ⟨⟨rfl, rfl, rfl, rfl, rfl, rfl⟩, by decide, ⟨rfl, by intro p h; cases h⟩, rfl, by decide +kernel, by decide +kernel, by decide, by decide +kernel⟩

/-- Answers and OwnerPort: a packet that may be delivered, a stalled task, an allowed and a refused access. -/
theorem witness_Answers_deliver : Delivers (withNet (stalled (.value 6 true 16 4 false)) (pk (.core 5) (.core 0) .reply (.reply false [0xF123]))) 0 (.core 5) (.core 0) (.reply false [0xF123]) ∧
    TaskAt (withNet (stalled (.value 6 true 16 4 false)) (pk (.core 5) (.core 0) .reply (.reply false [0xF123]))) 0 false (ts (.value 6 true 16 4 false)) ∧
    (ts (.value 6 true (8 * 2) 4 false)).wait = .value 6 true (8 * 2) 4 false ∧ (2 : Nat) ≤ 8 ∧ State.reset.packet? 0 = none ∧
    Delivers (own id 0 (.rst (rq 0) (ad 0 0x40) 4 7 none 3)) 0 (.core 0) (.core 5) (.rst (rq 0) (ad 0 0x40) 4 7 none 3) ∧
    (let k := (own id 0 (.ack 0)).core 5; k.ctx ≠ none ∧ k.ctx = (rq 0).ctx ∧ k.stopped = false ∧ k.arrivalCheck (rq 0) .store (ad 0 0x40) 4 = none ∧
      k.arrivalCheck (rq 0) .atomic (ad 0 0x40) 4 = none ∧ k.arrivalCheck (rq 0) .load (ad 14 0) 4 = some 6 ∧ k.lcl.mergeFails 0x40 4 = false ∧
        k.fullRefused 5 (rq 0) (ad 0 0x40) 4 = false) :=
  ⟨⟨.reply, rfl⟩, rfl, rfl, by decide, rfl, ⟨.request, rfl⟩, by decide +kernel⟩

/-- Core 0 at a turn of its stalled task, with a recorded failure. -/
def sFail (skip : Bool) (f : Core → Core := id) : State :=
  { stalled .none (fun k => f (k.setTask false { tF 0x40 with wait := .none, stalled := true, fail := some ⟨3, 9⟩, skip := skip })) with turn := .core 0 true }

/-- Answers: a recorded failure is taken as the exact trap; while an instruction passed before it is still queued, the task waits. -/
theorem witness_Answers_fail_taken : (let s := sFail false; let t : Task := { tF 0x40 with wait := .none, stalled := true, fail := some ⟨3, 9⟩ }
    let k := s.core 0; let u : Task := { t with fail := none, skip := false }
    s.turn = .core 0 true ∧ s.ended = false ∧ k.alive = true ∧ k.task? = some t ∧ k.sched.resel = false ∧ k.vu.fault = none ∧ k.drained k.inHi t = true ∧
    step s = .next (s.elapse (takeTrap ((s.noteRun k).withTask 0 k.inHi u) 0 k.inHi u 3 9 (trapPc t t.pc) false false) 0).pass) :=
  ⟨rfl, rfl, rfl, rfl, rfl, rfl, by decide +kernel, rfl⟩

/-- Answers: the same with an instruction in the queue, for a failure that waits for it and for one that does not. -/
theorem witness_Answers_fail_waits : (let v := fun (k : Core) => { k with vu := vUnit (.viota ⟨6, .always⟩) }
    let s := sFail false v; let t : Task := { tF 0x40 with wait := .none, stalled := true, fail := some ⟨3, 9⟩ }
    (s.core 0).drained (s.core 0).inHi t = false ∧ s.mustAbort 0 = false ∧ (s.core 0).overBudget t = false ∧
    step s = .next (s.elapse (s.noteRun (s.core 0)) 0).pass ∧ ((sFail true v).core 0).task? = some { t with skip := true }) :=
  ⟨by decide +kernel, by decide +kernel, by decide +kernel, rfl, rfl⟩

/-- OwnerPort: an arrival waits and has been passed once; its turn at the port clears that. -/
theorem witness_OwnerPort_turn : (let s := own (fun k => { k with lcl := { k.lcl with passed := true } }) 0 (.ack 0)
    let h := { s with held := [pk (.core 0) (.core 5) .request (.rld (rq 0) (ad 0 0x40) 4 none)] }
    h.portWaits 5 = true ∧ h.portOwes 5 = true ∧ (h.portTurn 5).portOwes 5 = false ∧ s.portWaits 5 = false ∧ s.ownAccess 5 = s) := by decide +kernel

end Sys2Proof.Tests.Remote

/-! ## Full and empty words, and active messages -/

namespace Sys2Proof.Tests.Words
open Sys2Proof.Machine Sys2Proof.Tests

/-- An address of core 5. -/
def a5 (w off : Nat) : W := w64 (localAddr 5 w off)

/-- Core 5 with a packet for its port; word 8 of its scratchpad is full. -/
def own (f : Core → Core) (src : Nat) (b : Body) : State := { State.reset with cores := [(5, f { Core.reset with ctx := some 0, lcl := { Local.reset with spad := [⟨0x40, 0x9A⟩, ⟨0x41, 7⟩], full := [⟨1, 1⟩] } })], net := [pk (.core src) (.core 5) .request b] }

/-- X4 is the address. -/
def tE (x4 : W) : Task := { Task.enter false 0 0 [] with x := [(4, x4), (5, 16), (6, 0x1234)] }

/-- Word 8 of the scratchpad is full. -/
def sE (x4 : W) : State := withCore { core0 (tE x4) with lcl := { Local.reset with spad := [⟨0x40, 0x9A⟩, ⟨0x41, 7⟩], full := [⟨1, 1⟩] } }

/-- FullEmptyInstructions, LDF and LDFE of own words, full and empty. -/
theorem witness_FullEmptyInstructions_ldf : ([(0x900000000000003C : W), 0x9000000000000044, 0x900000000000002C].all fun x => let s := sE x; let t := tE x;
    let f : MemForm := ⟨1, true, .w, 4, 6, .always⟩
   let ea := t.reg f.a + w64 (f.disp.toNat * f.sz.bytes)
   let ask := fun (take : Bool) => s.portLdf 0 { r := s.requester 0 t, addr := ea.toNat, n := 4, take := take }
   answers (exec (.ldf f) s) ((ask false).stalledOn 0 ((ask false).core 0) t (.value 6 true 32 2 true)) ∧
     answers (exec (.ldfe f) s) ((ask true).stalledOn 0 ((ask true).core 0) t (.value 6 true 32 2 true))) = true := by decide +kernel

/-- FullEmptyInstructions, the literal forms. -/
theorem witness_FullEmptyInstructions_ldfLit : ([(0x9000000000000044 : W), 0x900000000000004C, 0x900000000000002C].all fun x => let s := sE x; let t := tE x;
    let f : MemLit := ⟨true, .w, 4, 6, .always, 0xFFFFFFFC⟩
   let ea := t.reg f.a + f.lit.signExtend 64
   let ask := fun (take : Bool) => s.portLdf 0 { r := s.requester 0 t, addr := ea.toNat, n := 4, take := take }
   answers (exec (.ldfLit f) s) ((ask false).stalledOn 0 ((ask false).core 0) t (.value 6 true 32 4 true)) ∧
     answers (exec (.ldfeLit f) s) ((ask true).stalledOn 0 ((ask true).core 0) t (.value 6 true 32 4 true))) = true := by decide +kernel

/-- FullEmptyInstructions, words of core 5. -/
theorem witness_FullEmptyInstructions_far : (let s := sF 0x3C; let t := tF 0x3C; let f : MemForm := ⟨1, true, .w, 4, 6, .always⟩; let ea := a5 0 0x40
   answers (exec (.ldf f) s) ((s.send (.core 0) (.core 5) .request (.fullOp (s.requester 0 t) ea.toNat 4 .ldf)).stalledOn 0 (s.core 0) t (.value 6 true 32 2 true)) ∧
   answers (exec (.ldfe f) s) ((s.send (.core 0) (.core 5) .request (.fullOp (s.requester 0 t) ea.toNat 4 .ldfe)).stalledOn 0 (s.core 0) t (.value 6 true 32 2 true)) ∧
   answers (exec (.stf ⟨1, .w, 4, 6, .always⟩) s) ((s.send (.core 0) (.core 5) .request (.fullOp (s.requester 0 t) ea.toNat 4 (.stf ((t.reg 6).toNat % 256 ^ 4)))).stalledOn 0 (s.core 0) t (.value 0 false 64 2 false))) := by decide +kernel

/-- FullEmptyInstructions, STF to own words. -/
theorem witness_FullEmptyInstructions_stf : ([(0x900000000000003C : W), 0x9000000000000044, 0x900000000000002C].all fun x => let s := sE x; let t := tE x
   let u := s.portStf 0 ((x.toNat + 4) % 2^18) (leBytes 4 0x1234)
   answers (exec (.stf ⟨1, .w, 4, 6, .always⟩) s) (u.retire 0 (u.core 0) t 2) ∧
     answers (exec (.stfLit ⟨.w, 4, 6, .always, 4⟩) s) (u.retire 0 (u.core 0) t 4)) := by decide +kernel

/-- FullEmptyInstructions, FECLR of 16 own bytes. -/
theorem witness_FullEmptyInstructions_feclr_own : ([(0x9000000000000040 : W)].all fun x => let s := sE x; let t := tE x
   let u := s.portFeclr 0 0x40 16
   answers (exec (.feclr ⟨5, 4, .always⟩) s) (u.retire 0 (u.core 0) t 2)) := by decide +kernel

/-- FullEmptyPort, reads of a full and of an empty word. -/
theorem witness_FullEmptyPort_read : ([(0x40, true), (0x40, false), (0x48, true)].all fun p => let s := own id 0 (.ack 0);
    let w : FullWaiter := { r := rq 3, addr := ad 0 p.1, n := 8, take := p.2 }
   if (s.core 5).lcl.isFull (p.1 / 8) then s.portLdf 5 w = (if w.take then s.onCore 5 fun k =>
     { k with lcl := k.lcl.setFull (p.1 / 8) false } else s).send (.core 5) (.core 3) .reply (.reply false [leNat (((s.core 5).lcl.load 0 p.1 8).getD [])])
   else s.portLdf 5 w = s.onCore 5 fun k => { k with lcl := { k.lcl with fullWait := k.lcl.fullWait ++ [w] } }) := by decide +kernel

/-- FullEmptyPort, STF with no wait to end. -/
theorem witness_FullEmptyPort_stf : (let s := own id 0 (.ack 0);
    s.portStf 5 0x48 [1,2] = s.onCore 5 fun k => { k with lcl := (k.lcl.writeSpad 0x48 [1,2]).setFull 9 true }) := by decide +kernel

/-- FullEmptyPort, the arrivals. -/
theorem witness_FullEmptyPort_arrival : ([FullOp.ldf, .ldfe, .stf 77].all fun op => let s := own id 0 (.fullOp (rq 0) (ad 0 0x40) 8 op)
   answers (exec (.fullEmptyArrival 0) s) (match op with
    | .ldf => (s.drop 0).portLdf 5 { r := rq 0, addr := ad 0 0x40, n := 8, take := false }
    | .ldfe => (s.drop 0).portLdf 5 { r := rq 0, addr := ad 0 0x40, n := 8, take := true }
    | .stf v => ((s.drop 0).portStf 5 0x40 (leBytes 8 v)).send (.core 5) (.core 0) .reply (.reply false [0]))) := by decide +kernel

/-- X4 names the target, X8 to X10 hold the words. -/
def tM (a : W) : Task := { Task.enter false 0 0 [] with x := [(4, a), (8, 5), (9, 0x0001000200030004), (10, 77)] }

/-- The machine of that task. -/
def sM (a : W) (f : Core → Core := id) : State := { State.reset with cores := [(0, f (core0 (tM a))), (5, { Core.reset with ctx := some 0 })] }

/-- MessageInstructions, SEND and SENDW of three words, and an address out of range. -/
theorem witness_MessageInstructions_send : (let a : W := 7 * 1024 + 5; let s := sM a; let t := tM a;
    let u := (s.post 0 0 t a [5, 0x0001000200030004, 77] 2).send (.core 0) (.core 5) .request (.msg (s.requester 0 t) 7 [5, 0x0001000200030004, 77] (some 0))
   t.regs 8 3 = [5, 0x0001000200030004, 77] ∧ answers (exec (.send ⟨3, 8, 4, .always⟩) s) (u.retire 0 (u.core 0) t 2) ∧
     traps (.send ⟨3, 8, 4, .always⟩) (sM 0x8000) 0 (tM 0x8000) 1 0x8000 ∧
   answers (exec (.sendw ⟨3, 8, 4, 6, .always⟩) s) ((s.send (.core 0) (.core 5) .request (.msg (s.requester 0 t) 7 [5, 0x0001000200030004,
     77] none)).stalledOn 0 (s.core 0) t (.value 6 false 64 2 false))) := by decide +kernel

/-- MessageInstructions, SEND of no word. -/
theorem witness_MessageInstructions_send_none : (let a : W := 7 * 1024 + 5; let s := sM a; let t := tM a;
    let u := (s.post 0 0 t a (t.regs 8 0) 2).send (.core 0) (.core 5) .request (.msg (s.requester 0 t) 7 (t.regs 8 0) (some 0))
   answers (exec (.send ⟨0, 8, 4, .always⟩) s) (u.retire 0 (u.core 0) t 2)) := by decide +kernel

/-- MessageInstructions, SENDC of 1 to 16 halfwords. -/
theorem witness_MessageInstructions_sendc : ((List.range 16).all fun n => let a : W := 5; let s := sM a; let t := tM a;
    let f : SendcForm := ⟨BitVec.ofNat 4 n, 8, 4, 6, .always⟩
  answers (exec (.sendc f) s) ((s.send (.core 0) (.core 5) .request (.code (s.requester 0 t)
        ((List.range (f.n.toNat + 1)).map fun i =>
          BitVec.ofNat 16 ((t.reg (BitVec.ofNat 5 (f.b.toNat + i / 4))).toNat / 2 ^ (16 * (i % 4)))))).stalledOn 0 (s.core 0) t (.value 6 false 64 2 false))) := by decide +kernel

/-- Three words in the inbox. -/
def inb : List InboxWord := [⟨1, 9, 3, true⟩, ⟨2, 9, 7, true⟩, ⟨3, 9, 7, false⟩]

/-- MessageInstructions, MRD of a channel with two words. -/
theorem witness_MessageInstructions_mrd : (let a : W := 7; let s := sM a fun k => { k with sched := { k.sched with inbox := inb } }; let t := tM a
   let u := s.onCore 0 fun k => { k with sched := { k.sched with inbox := [⟨1, 9, 3, true⟩, ⟨3, 9, 7, false⟩] } }.settle
   answers (exec (.mrd ⟨1, 4, 6, .always⟩) s) (u.retire 0 (u.core 0) ((t.setReg 6 2).setPred 1 1) 2)) := by decide +kernel

/-- MessageInstructions, MRD of a channel with none. -/
theorem witness_MessageInstructions_mrd_none : (let a : W := 8; let s := sM a fun k => { k with sched := { k.sched with inbox := inb } }; let t := tM a
   answers (exec (.mrd ⟨1, 4, 6, .always⟩) s) (s.retire 0 (s.core 0) ((t.setReg 6 0).setPred 1 0) 2)) := by decide +kernel

/-- A handler of channel `ch`. -/
def hnd (ch depth : Nat) : Handler := { Handler.reset with v := true, ch := ch, depth := depth, cons := 1 }

/-- A core with two handlers. -/
def hcore (k : Core) : Core := { k with sched := { k.sched with handlers := [(1, hnd 7 2), (2, hnd 3 1024)], inbox := [⟨9, 2, 7, true⟩] } }

/-- MessageArrivals, accepted, without a handler, and without room. -/
theorem witness_MessageArrivals_send : (([7, 3, 5].product [[1], [1, 2, 3]]).all fun p => let s := own hcore 0 (.msg (rq 0) p.1 p.2 (some 3));
    let st := (s.core 5).messageStatus (some 0) p.1 p.2.length
   answers (exec (.messageArrival 0) s) (if st = 0 then ((s.drop 0).onCore 5 fun x => { x with sched := { x.sched with
        inbox := x.sched.inbox ++ (List.range p.2.length).map fun i => ⟨(p.2[i]?).getD 0, 0, p.1, i == 0⟩ } }).send
        (.core 5) (.core 0) .reply (.ack 3) else (s.drop 0).send (.core 5) (.core 0) .reply (.refusal 3 (if st = 4 then 7 else if st = 2 then 6 else 5)))) = true := by decide +kernel

/-- MessageArrivals, each status. -/
theorem witness_MessageArrivals_status : ((own hcore 0 (.ack 0)).core 5).messageStatus (some 0) 7 1 = 0 ∧
    ((own hcore 0 (.ack 0)).core 5).messageStatus (some 0) 7 3 = 1 ∧ ((own hcore 0 (.ack 0)).core 5).messageStatus (some 0) 5 1 = 2 ∧
   ((own hcore 0 (.ack 0)).core 5).messageStatus (some 1) 7 1 = 4 := by decide +kernel

/-- MessageArrivals, another context. -/
theorem witness_MessageArrivals_context : (let s := own hcore 0 (.msg { rq 0 with ctx := some 1 } 7 [1] (some 3));
    answers (exec (.messageArrival 0) s) ((s.drop 0).send (.core 5) (.core 0) .reply (.refusal 3 7))) := by decide +kernel

/-- MessageArrivals, a refused SENDW. -/
theorem witness_MessageArrivals_sendw : (let s := own hcore 0 (.msg (rq 0) 5 [1] none);
    answers (exec (.messageArrival 0) s) ((s.drop 0).send (.core 5) (.core 0) .reply (.msgStatus false 2))) := by decide +kernel

/-- MessageArrivals, carried code. -/
theorem witness_MessageArrivals_code : (let s := own hcore 0 (.code (rq 0) [1, 2]); answers (exec (.messageArrival 0) s) (((s.drop 0).onCore 5 fun x =>
      { x with sched := { x.sched with codeq := x.sched.codeq ++ [⟨[1, 2], 0⟩] } }).send (.core 5) (.core 0) .reply (.msgStatus false 0))) := by decide +kernel

/-- MessageArrivals, the status at the sender. -/
theorem witness_MessageArrivals_reply : ([0, 2].all fun st => let w : Wait := .value 6 false 64 2 false;
    let s := withNet (stalled w) (pk (.core 5) (.core 0) .reply (.msgStatus false st)); let t := ts w
   answers (exec (.messageStatus 0) s) ((if st = 0 then s.drop 0 else (s.drop 0).event 0 0x02).withTask 0 false
      { t.setReg 6 (w64 st) with wait := .none, pc := t.pc + 2, stalled := false })) := by decide +kernel

/-- FullEmptyWords: what the hypotheses of its clauses say of one word of the own core and of one of core 5. -/
theorem witness_FullEmptyWords : Issues (sE 0x900000000000003C) 0 (tE 0x900000000000003C) ∧
    OwnAt (sE 0x900000000000003C) 0 (tE 0x900000000000003C) .atomic 0x9000000000000040 4 0 0x40 ∧ (0x9000000000000040 : W).toNat % 4 = 0 ∧
    (sE 0x900000000000003C).net = [] ∧ RemoteAt (sF 0x3C) 0 (tF 0x3C) (a5 0 0x40) 4 5 0 0x40 ∧ (5 : Nat) ≠ 0 ∧
    decodeAddr 0 false 0x9000000000000040 0 = .ok (.loc 0 0 0x40) ∧ OwnAt (sE 0x9000000000000040) 0 (tE 0x9000000000000040) .atomic 0x9000000000000040 16 0 0x40 ∧
    ((own id 0 (.ack 0)).core 5).lcl.isFull 8 = true ∧ ((own id 0 (.ack 0)).core 5).lcl.isFull 9 = false ∧
    ((own id 0 (.ack 0)).core 5).arrivalCheck (rq 0) .atomic (ad 0 0x40) 8 = none :=
  ⟨⟨rfl, rfl, rfl, rfl, rfl, rfl⟩, ⟨rfl, by decide +kernel, (by intro p h; cases h), by decide +kernel⟩, by decide, rfl, ⟨rfl, by intro p h; cases h⟩, by decide, rfl,
    ⟨rfl, by decide +kernel, (by intro p h; cases h), by decide +kernel⟩, by decide +kernel, by decide +kernel, by decide +kernel⟩

/-- Messages: addresses inside and outside the range, registers that fit, an inbox, an accepting target. -/
theorem witness_Messages : Issues (sM 7173) 0 (tM 7173) ∧ ((tM 7173).reg 4).toNat < 2 ^ 15 ∧ 2 ^ 15 ≤ ((tM 0x8000).reg 4).toNat ∧ (8 : Nat) + 3 ≤ 32 ∧
    ((sM 7173).core 0).freeEntry? = some 0 ∧ inb = [⟨1, 9, 3, true⟩] ++ ⟨2, 9, 7, true⟩ :: [⟨3, 9, 7, false⟩] ∧
    (let k := (own hcore 0 (.ack 0)).core 5; k.refuses (some 0) = false ∧ k.refuses (some 1) = true ∧ k.sched.codeq.length < Config.codeqSize ∧
      (k.handler 1).v = true ∧ (k.handler 1).ch = 7) :=
  ⟨⟨rfl, rfl, rfl, rfl, rfl, rfl⟩, by decide, by decide, by decide, by decide +kernel, rfl, by decide +kernel⟩

/-- Core 5 with a read of word 8 waiting. -/
def sWake (take : Bool) : State := own (fun k => { k with lcl := { k.lcl with full := [], fullWait := [⟨rq 0, ad 0 0x40, 4, take⟩] } }) 0 (.ack 0)

/-- FullEmptyPort: a store through window 15 that fills the word answers the task that waits for it; one that does not only writes the bits. -/
theorem witness_FullEmptyPort_bits : (let w : FullWaiter := ⟨rq 0, ad 0 0x40, 4, true⟩; let s := sWake true
    let l := fun (b : Byte) => { (s.core 5).lcl with full := (s.core 5).lcl.full.writeN 1 [b] }
    (s.core 5).lcl.fullWait = [w] ∧ (l 2).isFull (bitsOf w.addr 17 0 / 8) = false ∧ (l 1).isFull (bitsOf w.addr 17 0 / 8) = true ∧
    (l 1).load (bitsOf w.addr 49 46) (bitsOf w.addr 17 0) w.n = some [0x9A, 7, 0, 0] ∧
    s.portStore 5 15 1 [1] = (s.onCore 5 fun k => { k with lcl := { ((l 1).setFull 8 false) with fullWait := [] } }).send (.core 5) (.core 0) .reply
      (.reply false [0x79A])) := by decide +kernel

/-- FullEmptyPort: STF ends the waits before the first LDFE and that LDFE, and the others go on waiting. -/
theorem witness_FullEmptyPort_order : (let w := fun (n : Nat) (take : Bool) => (⟨rq n, ad 0 0x40, 4, take⟩ : FullWaiter)
    let s := own (fun k => { k with lcl := { k.lcl with full := [], fullWait := [w 0 false, w 1 true, w 2 false] } }) 0 (.ack 0)
    let l := ((s.core 5).lcl.writeSpad 0x40 [1, 2, 3, 4]).setFull 8 true
    (s.core 5).lcl.fullWait = [w 0 false] ++ w 1 true :: [w 2 false] ∧ ([w 0 false, w 1 true, w 2 false].all fun x => bitsOf x.addr 17 0 / 8 == 0x40 / 8) = true ∧
    (([w 0 false] ++ [w 1 true]).all fun x => (l.load (bitsOf x.addr 49 46) (bitsOf x.addr 17 0) x.n).isSome) = true ∧
    ((s.portStf 5 0x40 [1, 2, 3, 4]).net.map (·.dst)).drop 1 = [.core 0, .core 1] ∧ ((s.portStf 5 0x40 [1, 2, 3, 4]).core 5).lcl.fullWait = [w 2 false]) := by
  decide +kernel

end Sys2Proof.Tests.Words

/-! ## The vector/matrix stream: passing, recording, lanes and vector memory -/

namespace Sys2Proof.Tests.Vector
open Sys2Proof.Machine Sys2Proof.Tests

/-- The guard of bit i of P1. -/
def g1 : Guard := ⟨false, 1⟩

/-- Lanes are on under P1, whatever the stream stands at. -/
theorem anyLane_vAt : ((List.range 64).any fun i => decide (i < 40) && ((vTask.pred 1).getLsbD i != false)) = true := by decide +kernel

/-- So is bit 0 of P1. -/
theorem unitOn_vAt : ((vTask.pred 1).getLsbD 0 != false) = true := by decide +kernel

/-- Every statement about the stream (LaneArithmetic to KeyPages): core 0 stands at `i`, lanes are on, and V5 is the source. -/
theorem witness_AtVector (i : Instr) (caps : List (Nat × W)) : AtVector (vAt i caps) 0 (vEntry i caps) (vItem i caps) i ∧
    ((vAt i caps).core 0).anyLane g1 = true ∧ ((vAt i caps).core 0).unitOn g1 = true ∧
    sourceV (vAt i caps) 0 false 5 = .ok (((vAt i caps).core 0).vu.reg 5) ((vAt i caps).core 0) ∧ NoOwnPosted (vAt i caps) 0 :=
  ⟨⟨⟨⟨rfl, rfl, rfl, rfl, rfl, rfl, rfl, rfl⟩, rfl⟩, ⟨rfl, rfl⟩⟩, anyLane_vAt, unitOn_vAt, rfl, by intro p h; cases h⟩

/-- LaneArithmetic: a form of two operands and a unary one at the head of the queue. -/
theorem witness_LaneArithmetic : (let i : Instr := .vadd ⟨false, .f32, 5, 4, 6, g1⟩; let j : Instr := .vexp2 ⟨false, .f32, 5, 6, g1⟩
    AtVector (vAt i) 0 (vEntry i) (vItem i) i ∧ ((vAt i).core 0).anyLane g1 = true ∧ sourceV (vAt i) 0 false 5 = .ok (((vAt i).core 0).vu.reg 5) ((vAt i).core 0) ∧
    AtVector (vAt j) 0 (vEntry j) (vItem j) j ∧ ((vAt j).core 0).anyLane g1 = true ∧ sourceV (vAt j) 0 false 5 = .ok (((vAt j).core 0).vu.reg 5) ((vAt j).core 0)) :=
  ⟨(witness_AtVector _ []).1, (witness_AtVector _ []).2.1, (witness_AtVector _ []).2.2.2.1,
    (witness_AtVector _ []).1, (witness_AtVector _ []).2.1, (witness_AtVector _ []).2.2.2.1⟩

/-- LaneMovement: VCMP at the head of the queue. -/
theorem witness_LaneMovement : (let i : Instr := .vcmp ⟨false, .i32, 5, 4, .lt, 2, g1⟩
    AtVector (vAt i) 0 (vEntry i) (vItem i) i ∧ ((vAt i).core 0).anyLane g1 = true ∧ sourceV (vAt i) 0 false 5 = .ok (((vAt i).core 0).vu.reg 5) ((vAt i).core 0)) :=
  ⟨(witness_AtVector _ []).1, (witness_AtVector _ []).2.1, (witness_AtVector _ []).2.2.2.1⟩

/-- A core whose queue 2 holds two entries. -/
def withQ (k : Core) : Core := { k with vu := { k.vu with q := [(2, [0x40490FDB3F800000, 3])] } }

/-- The same with the port form of the source: every lane reads the low half of the entry popped (R194). -/
theorem witness_sourceV_port : (match sourceV (vAt (.vadd ⟨true, .f32, 2, 4, 6, g1⟩) [] withQ) 0 true 2 with
    | .ok b k => decide (lane 32 b 1 = 0x3F800000) && decide (k.vu.queue 2 = [3])
    | _ => false) = true := by decide +kernel

/-- A user LO task at an instruction that it may pass. -/
def tPass : Task := { task0 with p := [(1, 5)] }
/-- Its machine. -/
def sPass : State := { at0 tPass with turn := .core 0 true }
/-- Whether core 0 passes `i` with its registers captured. -/
noncomputable def passes (i : Instr) : Bool :=
  let k := sPass.core 0
  answers (exec i sPass) (sPass.setCore 0 (k.wentPast tPass 2 { k.vu with viq := [passedEntry k tPass i (capturedRegs i)] }))

/-- PassingAndSkipping: instructions that a task passes without a check. -/
theorem witness_PassingAndSkipping_pass : (laneGuard (.vadd ⟨false, .f32, 5, 4, 6, g1⟩)).isSome = true ∧ (unitGuard (.mma ⟨4, 1, g1⟩)).isSome = true ∧
    checkedWhenPassed (.vadd ⟨false, .f32, 5, 4, 6, g1⟩) = false ∧ sPass.turn = .core 0 true ∧ (sPass.core 0).hi = none ∧ (sPass.core 0).lo = some tPass ∧
    tPass.carried = false ∧ (sPass.core 0).vu.recording = none ∧ (sPass.core 0).vu.viq = [] ∧
    ((sPass.core 0).anyLane g1 && (sPass.core 0).unitOn g1 && passes (.vadd ⟨false, .f32, 5, 4, 6, g1⟩) && passes (.mma ⟨4, 1, g1⟩) && passes (.vext ⟨5, 4, 6, g1⟩) &&
      passes (.vbcast ⟨false, 4, 6, g1⟩)) = true := by
  decide +kernel

/-- PassingAndSkipping: the task goes past an instruction that is guarded off, whatever its operands. -/
theorem witness_PassingAndSkipping_off : (let n : Guard := ⟨true, 0⟩; let k := sPass.core 0
    k.anyLane n = false ∧ k.unitOn n = false ∧ tPass.late = [] ∧
    ([(Instr.vld ⟨0, 4, 6, n⟩, 2), (.vldLit ⟨4, 6, n, 64⟩, 4), (.vext ⟨5, 4, 6, n⟩, 2), (.mma ⟨4, 1, n⟩, 2), (.pgsum ⟨8, n⟩, 2)].all fun (p : Instr × Nat) =>
      ((laneGuard p.1).isSome || (unitGuard p.1).isSome) && answers (exec p.1 sPass) (sPass.setCore 0 (k.wentPast tPass p.2 k.vu))) = true) := by decide +kernel

/-- PassingAndSkipping: P1 was replaced after the instruction was passed; it sees the value 0 that P1 had then. -/
theorem witness_PassingAndSkipping_replaced : (let i : Instr := .vadd ⟨false, .f32, 5, 4, 6, g1⟩; let it : VItem := { vItem i with pvs := [(1, 1)] }
    let e : VEntry := { vEntry i with items := [it] }
    let s := vAt i [] fun k => { k with vu := { k.vu with viq := [e], pv := [0, 0] } }
    AtItem s 0 e it i ∧ ((List.range 64).any fun j => decide (j < (s.core 0).vu.vl) && ((s.core 0).itemPred it 1).getLsbD j != false) = false) :=
  ⟨⟨⟨rfl, rfl, rfl, rfl, rfl, rfl, rfl, rfl⟩, rfl⟩, by decide +kernel⟩

/-- PassingAndSkipping: no lane is active, and a matrix instruction's guard is off; what is at the head of the queue. -/
theorem witness_PassingAndSkipping_skip : (let i : Instr := .vadd ⟨false, .f32, 5, 4, 6, ⟨true, 0⟩⟩; let m : Instr := .mma ⟨4, 1, ⟨true, 0⟩⟩
    laneGuard i = some ⟨true, 0⟩ ∧ ((vAt i).core 0).anyLane ⟨true, 0⟩ = false ∧ answers (exec i (vAt i)) ((vAt i).streamDone 0 ((vAt i).core 0)) ∧
    unitGuard m = some ⟨true, 0⟩ ∧ ((vAt m).core 0).unitOn ⟨true, 0⟩ = false ∧ answers (exec m (vAt m)) ((vAt m).streamDone 0 ((vAt m).core 0)) ∧
    ((vAt i).core 0).vu.viq = vEntry i :: []) := by decide +kernel

/-- A recording of one instruction, and a core that records. -/
def recd : Recording := ⟨[vItem (.vadd ⟨false, .f32, 5, 4, 6, g1⟩)], 3, 7, 0x0, 7, 8⟩
/-- The machine of that core. -/
def sRec (r : Recording) : State := { withCore { core0 task0 with vu := { VecUnit.reset with recording := some r } } with turn := .core 0 true }

/-- Repetition: REPB, a recorded instruction, REPE of 7 iterations and of none, and a form without ports. -/
theorem witness_Repetition : Issues (at0 task0) 0 task0 ∧ task0.carried = false ∧ (task0.reg 4).toNat < 2 ^ 32 ∧ (sRec recd).turn = .core 0 true ∧
    ((sRec recd).core 0).hi = none ∧ ((sRec recd).core 0).lo = some task0 ∧ ((sRec recd).core 0).regs.tstat.getLsbD 15 = false ∧
    ((sRec recd).core 0).vu.recording = some recd ∧ ((sRec recd).core 0).vu.viq = [] ∧ recd.items.length < 16 ∧ recd.pmask.testBit recd.items.length = false ∧
    recd.items ≠ [] ∧ recd.pmask < 2 ^ recd.items.length ∧ (∀ it ∈ recd.items, it.marked = true → portFields it.instr &&& recd.fmask = 0) ∧
    ((sRec recd).core 0).vu.queued + recd.items.length ≤ Config.viqSize ∧ 0 < recd.count ∧ ({ recd with count := 0 } : Recording).count = 0 :=
  ⟨issues_at0 _, rfl, by decide, rfl, rfl, rfl, by decide +kernel, rfl, rfl, by decide, by decide, by decide +kernel, by decide, by decide +kernel,
    by decide +kernel, by decide, rfl⟩

/-- R214, R215: REPE with a count puts the recording into the queue; with 0 it drops it. -/
theorem test_repe : ([7, 0].all fun n => gives (exec .repe (sRec { recd with count := n })) fun u =>
    (u.core 0).vu.recording.isNone && ((u.core 0).vu.viq.length == if n = 0 then 0 else 1)) = true := by decide +kernel

/-- R215: iteration n adds n × S to a marked field, modulo 32. -/
theorem test_stagger_wraps : stagger (.vadd ⟨false, .f32, 5, 4, 30, g1⟩) 5 3 = .vadd ⟨false, .f32, 8, 4, 1, g1⟩ := by decide +kernel

/-- Core 0 at `i`, with V4 = `a`, V5 = `b` and V6 = `d` in lane 0, and SR.RMODE nearest-even. -/
def vOne (i : Instr) (a b d : Nat) (caps : List (Nat × W) := []) : State :=
  vAt i caps fun k => { k with vu := { k.vu with v := [(4, bv [a]), (5, bv [b]), (6, bv [d, 77])], vl := 1 }, bankLo := { rmode := 0, rng := 0, mst := 0 } }
/-- Whether `i` leaves `v` in lane 0 of V6 and the lanes from SR.VL on as they were. -/
noncomputable def lane0Is (i : Instr) (a b d v : Nat) (caps : List (Nat × W) := []) : Bool :=
  gives (exec i (vOne i a b d caps)) fun u => lane 32 ((u.core 0).vu.reg 6) 0 == v && lane 32 ((u.core 0).vu.reg 6) 1 == 77

/-- R198, R199, R200: 1.5 + 2.25, 1.5 × 2.25, −(1.5 × 2.25) + 1, an integer sum that wraps, a signed minimum, −7 ÷ 2 and a division by 0. -/
theorem test_lane_arithmetic :
    (lane0Is (.vadd ⟨false, .f32, 5, 4, 6, g1⟩) 0x3FC00000 0x40100000 0 0x40700000 && lane0Is (.vmul ⟨false, .f32, 5, 4, 6, g1⟩) 0x3FC00000 0x40100000 0 0x40580000 &&
     lane0Is (.vfnma ⟨false, .f32, 5, 4, 6, g1⟩) 0x3FC00000 0x40100000 0x3F800000 0xC0180000 && lane0Is (.vadd ⟨false, .i32, 5, 4, 6, g1⟩) 0xFFFFFFFF 2 0 1 &&
     lane0Is (.vmin ⟨false, .i32, 5, 4, 6, g1⟩) 0xFFFFFFFF 2 0 0xFFFFFFFF && lane0Is (.vdiv ⟨false, .i32, 5, 4, 6, g1⟩) 0xFFFFFFF9 2 0 0xFFFFFFFD &&
     lane0Is (.vdiv ⟨false, .i32, 5, 4, 6, g1⟩) 5 0 0 0xFFFFFFFF) = true := by decide +kernel

/-- R201, R203, R206: shifts of the width and more, absolute value and negation, VDOT4 of signed bytes, and VPERM out of range. -/
theorem test_lane_bits :
    (lane0Is (.vshl ⟨false, false, 5, 4, 6, g1⟩) 0x80000001 32 0 0 && lane0Is (.vsar ⟨false, false, 5, 4, 6, g1⟩) 0x80000000 40 0 0xFFFFFFFF &&
     lane0Is (.vabs ⟨false, .f32, 4, 6, g1⟩) 0xBF800000 0 0 0x3F800000 && lane0Is (.vneg ⟨false, .i32, 4, 6, g1⟩) 0x80000000 0 0 0x80000000 &&
     lane0Is (.vdot4I8 ⟨false, 5, 4, 6, g1⟩) 0x01FF0203 0x04050607 10 42 && lane0Is (.vperm ⟨false, 5, 4, 6, g1⟩) 9 64 0 0 &&
     lane0Is (.viota ⟨6, g1⟩) 9 9 9 0 && lane0Is (.vsqrt ⟨false, .f32, 4, 6, g1⟩) 0x40100000 0 0 0x3FC00000) = true := by decide +kernel

/-- R202: VLEN of 0, 65 and 40 sets SR.VL to 1, 64 and 40, and X[d] to 0, 64 and 40. -/
theorem test_vlen : ([(0, 1, 0), (65, 64, 64), (40, 40, 40)].all fun (p : W × Nat × W) => gives (exec (.vlen ⟨4, 6, g1⟩) (vAt (.vlen ⟨4, 6, g1⟩) [(4, p.1)])) fun u =>
    (u.core 0).vu.vl == p.2.1 && ((u.core 0).bankTask false).any fun t => t.reg 6 == p.2.2) = true := by decide +kernel

/-- MovementAndReductions: an integer type, 64 lanes that fit it, one of them active. -/
theorem witness_Reductions : (let l : List (Option Nat) := (List.range 64).map fun i => if i % 3 = 1 then none else some (i * 0x1234567)
    Ty.i32.isFloat = false ∧ l.length = 64 ∧ (l.all fun x => x.all fun y => decide (y < 2 ^ 32)) = true ∧ l[0]? = some (some 0) ∧ l[3]? = some (some 0x369D035)) := by
  decide +kernel

/-- R208, R209: the sum of the active lanes, and the running sums. -/
theorem test_reductions : (gives (exec (.vred ⟨false, .i32, .add, 4, 6, ⟨false, 0⟩⟩) (vAt (.vred ⟨false, .i32, .add, 4, 6, ⟨false, 0⟩⟩) [] fun k =>
      { k with vu := { k.vu with v := [(4, bv [1, 2, 3, 4])], vl := 3 } }) ) (fun u => lane 32 ((u.core 0).vu.reg 6) 0 == 6) &&
    gives (exec (.vscan ⟨false, .i32, .add, 4, 6, ⟨false, 0⟩⟩) (vAt (.vscan ⟨false, .i32, .add, 4, 6, ⟨false, 0⟩⟩) [] fun k =>
      { k with vu := { k.vu with v := [(4, bv [1, 2, 3, 4])], vl := 3 } })) fun u =>
        (List.range 4).map (lane 32 ((u.core 0).vu.reg 6)) == [1, 3, 6, 0]) = true := by decide +kernel

/-- R204, R205, R207: VCMP keeps the bits of inactive lanes; VEXT out of range reads 0; VCOMP packs the lanes of its predicate. -/
theorem test_movement : (gives (exec (.vcmp ⟨false, .i32, 5, 4, .lt, 2, g1⟩) (vAt (.vcmp ⟨false, .i32, 5, 4, .lt, 2, g1⟩) [] fun k =>
      { k with vu := { k.vu with v := [(4, bv [1, 9, 1, 9]), (5, bv [5, 5, 5, 5])], vl := 3 } }) ) (fun u => ((u.core 0).vpred 2).bits 3 0 == 0b1111) &&
    gives (exec (.vext ⟨9, 4, 6, g1⟩) (vAt (.vext ⟨9, 4, 6, g1⟩) [(9, 64)])) (fun u => ((u.core 0).bankTask false).any fun t => t.reg 6 == 0) &&
    gives (exec (.vcomp ⟨false, 2, 4, 6, ⟨false, 0⟩⟩) (vAt (.vcomp ⟨false, 2, 4, 6, ⟨false, 0⟩⟩) [] fun k =>
      { k with vu := { k.vu with v := [(4, bv [10, 11, 12, 13, 14])], vl := 5 } })) fun u => (List.range 6).map (lane 32 ((u.core 0).vu.reg 6)) == [10, 11, 12, 13, 0,
        0]) = true := by
  decide +kernel

/-- A scratchpad with bytes from 0x100, and window 1 with the descriptor `win`. -/
def memK (win : W) (k : Core) : Core := { k with lcl := { k.lcl with win := [(1, win)], spad := Memory.writeN [] 0x100 ((List.range 64).map fun i => BitVec.ofNat 8 (i * 37 + 11)) } }

/-- VectorMemory: an own access, sound lanes, and an address of no place. -/
theorem witness_VectorMemory : (let i : Instr := .vld ⟨0, 4, 6, g1⟩; let caps : List (Nat × W) := [(4, 0x9000400000000100)]; let s := vAt i caps (memK 0x8000300000000000)
    (match vecCheck s 0 whoVec false 40 0x9000400000000100 (some 1) false with | .own w o => decide ((w, o) = (1, 0x100)) | _ => false) = true ∧
    (match vecCheck s 0 whoVec false 40 0x9000400000000100 (some 1) true with | .own w o => decide ((w, o) = (1, 0x100)) | _ => false) = true ∧
    (match vecCheck s 0 whoVec false 40 0x9000400000000100 none false with | .own w o => decide ((w, o) = (1, 0x100)) | _ => false) = true ∧
    (s.core 0).lcl.scaled 1 = false ∧ (s.core 0).lcl.poison = [] ∧
    (match vecCheck s 0 whoVec false 40 0x1000000000000000 (some 1) false with | .trap code _ => decide (code = 8) | _ => false) = true) := by decide +kernel

/-- A TLB entry of VA page 1 and the lines behind it. -/
def tlbE : TlbEntry := { asid := 0, g := false, sz := 0, page := 1, ppn := 2, u := true, w := true }
/-- An L1 line of bytes. -/
def lineV (b : Nat) : L1Line := { vas := (List.range 64).map (fun i => (i, 0x80000 + 4 * i)), units := [], old := [], sv := 15, reg := 0, drt := 0, pend := 0, bytes := 0, hs := [], psn := 0, lv := 3, data := (List.range 256).map fun i => (i, BitVec.ofNat 8 (i + b + 1)), used := 0 }
/-- A core with both. -/
def gk (k : Core) : Core := { k with tlb := [tlbE], l1 := { lines := [(0x1000, lineV 0), (0x1001, lineV 3)], missing := [], wb := [], clock := 5 } }

/-- VectorMemory: a load of global words that the L1 holds; each active lane takes its word. -/
theorem witness_VectorMemory_global : (let i : Instr := .vld ⟨0, 4, 6, g1⟩; let caps : List (Nat × W) := [(4, 0x80004)]; let s := vAt i caps gk
    match vecCheck s 0 whoVec false 40 0x80004 (some 1) false with
    | .glob pas => (match (vxAt s 0 (vEntry i caps) (vItem i caps)).globalLoad g1 (fun i => (((0x80004 : W).toNat : Int) + ((i : Nat) : Int) * 1 * 4).toNat) pas with
       | .ok (_, got) => ((List.range 64).all fun j => !(s.core 0).laneOn g1 j || got.getD j [] != []) &&
          gives (exec i s) fun u => lane 32 ((u.core 0).vu.reg 6) 0 == 0x08070605
       | _ => false)
    | _ => false) = true := by decide +kernel

/-- R211: a load of E4M3 elements through window 1: 0x38 is 1.0, 0xB8 is −1.0. -/
theorem test_vld_e4m3 : (let i : Instr := .vld ⟨0, 4, 6, ⟨false, 0⟩⟩
    gives (exec i (vAt i [(4, 0x9000400000000100)] fun k =>
      { k with vu := { k.vu with vl := 2 }, lcl := { k.lcl with win := [(1, w64 (2 ^ 63 + 3 * 2 ^ 44))], spad := [⟨0x100, 0x38⟩, ⟨0x101, 0xB8⟩] } }))
      fun u => (List.range 3).map (lane 32 ((u.core 0).vu.reg 6)) == [0x3F800000, 0xBF800000, 0x3EA]) = true := by decide +kernel

/-- TableAddress: the own core's two forms; another core, reserved bits, another region; region 0xF by mode. -/
theorem witness_TableAddress : (([(0x9002C00000000040, .ok (11, 0x40)), (0x9003C00000030000, .ok (15, 0x30000)), (0x8000000000000000, .ok (0, 0)),
    (0x8002400000000040, .ok (9, 0x40)),
    (0x8004000000000040, .error 8), (0x9004000000000040, .error 8), (0x9000000000040040, .error 8), (0x8010000000000040, .error 8), (0x40, .error 8),
    (0xA000000000000040, .error 8)] : List (W × Except Nat (Nat × Nat))).all fun p => ownParts 0 false p.1.toNat == p.2) = true ∧
    ownParts 0 true (0xF000000000000040 : W).toNat = .error 8 ∧ ownParts 0 false (0xF000000000000040 : W).toNat = .error 2 ∧
    ownParts 1023 false (0x8FFC000000000040 : W).toNat = .ok (0, 0x40) ∧
    ((0xF000000000000040 : W).bits 63 60 = 15 ∧ (0x9004000000000040 : W).bits 45 18 = 0 ∧ (0x9004000000000040 : W).bits 59 50 = 1 ∧
      (0x9000000000040040 : W).bits 45 18 = 1 ∧ (0x8004000000000040 : W).bits 51 50 = 1) := by decide +kernel

/-- BindableWindows: the descriptors at the edges of the rule, bound and refused. -/
theorem witness_BindableWindows : (let v := fun (hi lo : Nat) => w64 (2 ^ 63 + hi + lo)
    ([(v (12 * 2 ^ 44) 0, 0), (v 0 0, 0xFFFFFFFF - 2 ^ 23), (v (3 * 2 ^ 44 + 2 ^ 42) (0x2FFFF * 2 ^ 18 + 0x2FFC0), 5), (v (5 * 2 ^ 44 + 2 ^ 42) 0, 0)] : List (W × W)).all
      (fun p => p.1.getLsbD 63 && windowOk p.1 p.2) &&
    ([(v (13 * 2 ^ 44) 0, 0), (v (2 ^ 48) 0, 0), (v (2 ^ 36) 0, 0), (v 0 0, 0x7F800000), (v 0 0, 2 ^ 32), (v (2 * 2 ^ 42) 0, 0), (v 0 1, 0), (v 0 (2 ^ 18), 0),
      (v (6 * 2 ^ 44 + 2 ^ 42) 0, 0), (v (3 * 2 ^ 44 + 2 ^ 42) (0x30000 * 2 ^ 18), 0), (v (3 * 2 ^ 44 + 2 ^ 42) 0x30000, 0), (v (3 * 2 ^ 44 + 2 ^ 42) 32,
        0)] : List (W × W)).all
      (fun p => p.1.getLsbD 63 && !windowOk p.1 p.2) &&
    windowOk 0 0 && !windowOk 1 0 && !windowOk 0 1) = true := by decide +kernel

/-- TableAndWindows: WINSET of window 12 with no scale; windows 0 and 13; a descriptor with reserved bits. -/
theorem witness_TableAndWindows : Issues (at0 task0) 0 task0 ∧ windowOk (w64 (2 ^ 63 + 3 * 2 ^ 44)) 0 = true ∧ windowOk 5 0 = false ∧
    ([(12, true), (0, false), (13, false)].all fun (p : Nat × Bool) =>
      let t : Task := { Task.enter false 0 0 [] with x := [(4, w64 p.1), (6, w64 (2 ^ 63 + 3 * 2 ^ 44)), (7, 0)] }
      if p.2 then gives (exec (.winset ⟨6, 4, .always⟩) (at0 t)) fun u => Tbl.getD (u.core 0).lcl.win p.1 0 == w64 (2 ^ 63 + 3 * 2 ^ 44)
      else traps (.winset ⟨6, 4, .always⟩) (at0 t) 0 t 1 (w64 p.1)) = true :=
  ⟨issues_at0 _, by decide +kernel, by decide +kernel, by decide +kernel⟩

/-- TableAndWindows: a store that the task posted to its own scratchpad is under way; WINSET waits for it. -/
theorem witness_TableAndWindows_posted : (let t : Task := { Task.enter false 0 0 [] with x := [(4, 12), (6, w64 (2 ^ 63 + 3 * 2 ^ 44)), (7, 0)] }
    let p := pk (.core 0) (.core 0) .request (.rst (rq 0) (localAddr 0 0 0x40) 4 7 none 3); let s := withNet (at0 t) p
    Issues s 0 t ∧ p ∈ s.net ++ s.held ∧ packetSpans 0 (s.core 0).inHi p ≠ [] ∧ (at0 t).net ++ (at0 t).held = [] ∧
    answers (exec (.winset ⟨6, 4, .always⟩) s) (s.issue 0 (s.core 0).inHi)) :=
  ⟨⟨rfl, rfl, rfl, rfl, rfl, rfl⟩, by decide +kernel, by decide +kernel, rfl, by decide +kernel⟩

/-- A task whose X4 names byte `off` of window `w` of its own scratchpad, and a machine with the table at 0x40. -/
def tTab (w off : Nat) : Task := { Task.enter false 0 0 [] with x := [(4, w64 (9 * 2 ^ 60 + w * 2 ^ 46 + off))] }
/-- The machine. -/
def sTab (w off : Nat) (po : List (Nat × Bool) := []) : State :=
  withCore { core0 (tTab w off) with lcl := { Local.reset with spad := Memory.writeN [] 0x40 (leBytes 4 0x3F801FFF), poison := po } }

/-- TableLoads, R185: TBLLD keeps the high 19 bits of each of the 256 words; the last place that it may read. -/
theorem witness_TableLoads : Issues (sTab 0 0x40) 0 (tTab 0 0x40) ∧ guardPasses .always (tTab 0 0x40) = true ∧ (tTab 0 0x40).carried = false ∧
    (ownParts 0 false ((tTab 0 0x40).reg 4).toNat == .ok (0, 0x40)) = true ∧ ((sTab 0 0x40).core 0).lcl.configured 0 = true ∧
    Settled (sTab 0 0x40) 0 ((tTab 0 0x40).reg 4) 1024 ∧ (sTab 0 0x40).portOwes 0 = false ∧ (((sTab 0 0x40).core 0).lcl.load 0 0x40 1024).isSome = true ∧
    gives (exec (.tblld ⟨4, .always⟩) (sTab 0 0x40)) (fun u => Tbl.getD (u.core 0).lcl.table 0 0 == 0x3F800000) = true ∧
    gives (exec (.tblld ⟨4, .always⟩) (sTab 0 0x2FC00)) (fun u => Tbl.getD (u.core 0).lcl.table 0 0 == 0) = true :=
  ⟨⟨rfl, rfl, rfl, rfl, rfl, rfl⟩, by decide, rfl, by decide +kernel, by decide +kernel, (by intro p h; cases h), by decide +kernel, by decide +kernel, by decide +kernel,
    by decide +kernel⟩

/-- TableLoads: an address of no place, a window that is not configured, a misaligned one, one that runs past the scratchpad, and a poisoned word. -/
theorem witness_TableLoads_traps : (traps (.tblld ⟨4, .always⟩) (sTab 0 0x40040) 0 (tTab 0 0x40040) 8 ((tTab 0 0x40040).reg 4) &&
    traps (.tblld ⟨4, .always⟩) (sTab 1 0x40) 0 (tTab 1 0x40) 6 ((tTab 1 0x40).reg 4) &&
      traps (.tblld ⟨4, .always⟩) (sTab 13 0x40) 0 (tTab 13 0x40) 6 ((tTab 13 0x40).reg 4) &&
    traps (.tblld ⟨4, .always⟩) (sTab 0 0x60) 0 (tTab 0 0x60) 3 ((tTab 0 0x60).reg 4) &&
      traps (.tblld ⟨4, .always⟩) (sTab 0 0x2FC40) 0 (tTab 0 0x2FC40) 6 ((tTab 0 0x2FC40).reg 4) &&
    ((sTab 0 0x40 [(0x11, true)]).core 0).lcl.firstPoison 0x40 1024 == some 0x88 &&
    traps (.tblld ⟨4, .always⟩) (sTab 0 0x40 [(0x11, true)]) 0 (tTab 0 0x40) 0x22 (byteVa ((tTab 0 0x40).reg 4) 0x48)) = true := by decide +kernel

end Sys2Proof.Tests.Vector

/-! ## Conversions, the matrix unit and key pages -/

namespace Sys2Proof.Tests.Matrix
open Sys2Proof.Machine Sys2Proof.Tests

/-- The guard of bit i of P1. -/
def g1 : Guard := ⟨false, 1⟩

/-- Core 0 at `i` with V4 = `a`, V5 = `b` and SR.RMODE nearest-even. -/
def vTwo (i : Instr) (a b : List Nat) : State :=
  vAt i [] fun k => { k with vu := { k.vu with v := [(4, bv a), (5, bv b)], vl := 2 }, bankLo := { rmode := 0, rng := 0, mst := 0 } }
/-- The first lanes of V6 after `i`. -/
def lanes6 (o : Out) : List Nat := match o with
  | .next u => (List.range 2).map (lane 32 ((u.core 0).vu.reg 6))
  | _ => []

/-- Conversions: a block format and a row format, a block with active lanes, an element of it inside V[d]. -/
theorem witness_Conversions : (let k := (vAt (.vqnt ⟨.e4m3, 1, 4, 6, g1⟩)).core 0
    Fmt.spec .q8r = none ∧ (Fmt.spec .e4m3).isSome = true ∧ (((List.range 64).filter fun i => k.laneOn g1 i && i / 32 == 1).map fun i => (i, k.lane 4 i)) ≠ [] ∧
    64 * 1 + 3 < 2048 / Fmt.width .e4m3 ∧ (64 * 1 ≤ 67 ∧ 67 < 64 * 1 + 64 ∧ k.laneOn g1 2 = true)) := by decide +kernel

/-- R179, R181: 1.5 and 2^15 from F32 to F16; halves 0x3C00 and 0xC000 decoded; 300 from I32 to I8 without and with NS. -/
theorem test_conversions : lanes6 (exec (.vcvt ⟨false, .f16, .f32, 4, 6, ⟨false, 0⟩⟩) (vTwo (.vcvt ⟨false, .f16, .f32, 4, 6, ⟨false, 0⟩⟩) [0x3FC00000,
    0x47000000] [])) = [0x3E00, 0x7800] ∧
    lanes6 (exec (.vdec ⟨0, .f16, 4, 6, ⟨false, 0⟩⟩) (vTwo (.vdec ⟨0, .f16, 4, 6, ⟨false, 0⟩⟩) [0xC0003C00] [])) = [0x3F800000, 0xC0000000] := by decide +kernel

/-- The scratchpad has an operand tile at 0x100 whose element (0, 0) is 1.0; window 1 holds F16 elements; tile 1 has scales. -/
def memK (k : Core) : Core := { k with lcl := { k.lcl with win := [(1, w64 (2 ^ 63 + 2 ^ 44))], spad := [⟨0x101, 0x3C⟩] }, vu := { k.vu with sa := [(1, 0x40000000)], sb := [(1, 0x3F000000)] } }
/-- An address of window 1. -/
def a1 (off : Nat) : W := 0x9000000000000000 + w64 (2 ^ 46 + off)
/-- A latch of the same format. -/
def lt : LatchTile := { bytes := 0x4000, fmt := .f16, scales := [], tscale := 7 }
/-- A core with the latch loaded. -/
def withCur (k : Core) : Core := let k := memK k; { k with vu := { k.vu with cur := some lt } }

/-- MatrixResults, MMA and CLLD: an operand of the latch's width in window 1. -/
theorem witness_MatrixResults_mma : (let k := (vAt (.mma ⟨4, 1, g1⟩) [(4, a1 0x100)] withCur).core 0
    k.unitOn g1 = true ∧ (match operandCheck 0 false k.lcl (a1 0x100) with | .ok p => decide (p = (1, 0x100)) | _ => false) = true ∧ k.vu.cur = some lt ∧
    ((k.lcl.fmtOf 1).map Fmt.width).getD 0 = lt.fmt.width ∧ lt.fmt.width = 16 ∧
    (match k.lcl.operand (a1 0x100) 1 0x100 with | .ok x => decide (x.bytes = 0x3C00) | _ => false) = true ∧
    ((vAt (.mmat ⟨2, 1, g1⟩) [] memK).core 0).vu.cur = none) := by decide +kernel

/-- R234: 1.0 × 2.0 + 0.5 × 4.0 + 1.5 is 5.5; 2^60 + 1 − 2^60 is 1, the exact sum rounded once. -/
theorem test_mmaCell : mmaCell 0x3FC00000 2 (fun j => if j = 0 then .ofInt 1 else sF32.decode 0x3F000000) (fun j => if j = 0 then .ofInt 2 else .ofInt 4) = 0x40B00000 ∧
    mmaCell 0xDD800000 2 (fun j => if j = 0 then .ofInt 1 else .ofInt (2 ^ 60)) (fun _ => .ofInt 1) = 0x3F800000 := by decide +kernel

/-- MatrixResults, TROW: both directions, and a value out of range. -/
theorem witness_MatrixResults_trow : (let e := vEntry (.trow ⟨5, 4, 1, g1⟩) [(4, 35)]; let it := vItem (.trow ⟨5, 4, 1, g1⟩) [(4, 35)]
    (e.x it 1 4).toNat < 64 ∧ (e.x it 1 4).getLsbD 5 = true ∧ (3 : W).getLsbD 5 = false ∧
    gives (exec (.trow ⟨5, 4, 1, g1⟩) (vAt (.trow ⟨5, 4, 1, g1⟩) [(4, 35)])) (fun u =>
      (u.core 0).vu.cell 1 3 2 == lane 32 ((vAt .nop).core 0 |>.vu.reg 5) 2) = true) := by
  decide +kernel

/-- The shape of a tile access: no pitch, and a pitch of 0x90. -/
def shp (pitch : Nat) : W := w64 pitch
/-- An address of core 5's window 1. -/
def af (off : Nat) : W := w64 (ad 1 off)

/-- Which place a tile access names. -/
def place (k : Core) (kd : TileKind) (a sh : W) : Option TileAt := (shapeOf kd sh (a.bits 63 60) 5 1).bind fun x =>
  match tileCheck 0 false k.lcl kd a sh x with
  | .ok p => some p
  | _ => none

/-- TileLoads and TileStores: the own place, whose rows can be read; the far one; the global one. -/
theorem witness_TileAccesses_places : (let k := (vAt (.tld ⟨5, 4, 1, g1⟩) [] memK).core 0
    ([TileKind.tld false, .tld true, .tst, .tstn].all fun kd => place k kd (a1 0x100) 0 == some (.own 1 0x100 .f16 64) &&
      place k kd 0x80000 (shp (2 ^ 24 + 0x90)) == some (.glob 0x80000 .f16 0x90)) &&
    ([TileKind.tld false, .tld true, .tst].all fun kd => place k kd (af 0x100) 0 == some (.far 5)) &&
    ([0, shp (2 ^ 24)].all fun w => (shapeOf .tst w 0 5 1).any fun sh => sh.kph == 0 && !sh.lsrc) &&
    (match k.lcl.readTile (a1 0x100) 1 0x100 .f16 64 with | .ok rows => (rows.getD 0 []).getD 0 0 == 0x3F800000 | _ => false)) = true := by decide +kernel

/-- TileLoads: TLD.T of the own scratchpad puts row 0 into column 0, with scales 1. -/
theorem test_tile_load : gives (exec (.tldT ⟨5, 4, 1, g1⟩) (vAt (.tldT ⟨5, 4, 1, g1⟩) [(4, a1 0x100), (5, 0)] fun k =>
      let k := memK k; { k with lcl := { k.lcl with spad := [⟨0x103, 0x3C⟩] } })) (fun u =>
    (u.core 0).vu.cell 1 1 0 == 0x3F800000 && (u.core 0).vu.cell 1 0 1 == 0 && decide ((u.core 0).vu.scales 1 = (f32One, f32One))) = true := by decide +kernel

/-- A TLB entry for the page of the global tiles, and a core that maps it. -/
def gMap (k : Core) : Core := { k with tlb := [⟨0, false, 0, 1, 2, true, true⟩] }
/-- A tile load of global memory, whose rows are 64 bytes apart; the task of another core 5's tile. -/
def capsG : List (Nat × W) := [(4, 0x80000), (5, shp (2 ^ 24))]
/-- X4 and X5 for the far tile. -/
def capsF : List (Nat × W) := [(4, af 0x100), (5, 0)]
/-- The runs of the global tile. -/
def runsG : List (Nat × Nat × Nat) := (List.range 32).map fun r => (0x80000 + 64 * r, 0x100000 + 64 * r, 64)

/-- TileLoads: the request to another core, the request to a home, and the answer of each. -/
theorem witness_TileLoads_requests : ([false, true].all fun tr => let i : Instr := if tr then .tldT ⟨5, 4, 1, g1⟩ else .tld ⟨5, 4, 1, g1⟩
    let far := vAt i capsF; let glob := vAt i capsG gMap; let r : Requester := ⟨0, false, some 0, false⟩
    answers (exec i far) ((far.send (.core 0) (.core 5) .request (.tileLoad r (ad 1 0x100) 0)).streamAsks 0 none) &&
    (match translateAll glob 0 false false (tileRows 0x80000 .f16 64) with
      | .ok (.ok rows) => decide (rows.flatten = runsG) && !(glob.core 0).ungrantedIn rows.flatten &&
          !(vxAt glob 0 (vEntry i capsG) (vItem i capsG)).mustWait (globalSpans 0x80000 .f16 64) &&
          answers (exec i glob) ((glob.send (.core 0) (.slice (homeOf 0x100000)) .request (.tile r (.read runsG))).streamAsks 0 none)
      | _ => false) &&
    ([(capsF, (List.range 32).map fun m => codesRow 32 (List.replicate 32 (0x3F800000 + m))),
      (capsG, (List.range 32).map fun _ => codesRow 16 (List.replicate 32 0x3C00))].all fun p =>
      let s := vAt i p.1 fun k => { k with vu := { k.vu with reply := some p.2 } }
      gives (exec i s) fun u => (u.core 0).vu.cell 1 0 0 == 0x3F800000 && (u.core 0).vu.viq.isEmpty)) = true := by decide +kernel

/-- TileStores: the packet to another core with its Waybill entry. -/
theorem witness_TileStores_far : (let i : Instr := .tst ⟨5, 4, 1, g1⟩; let r : Requester := ⟨0, false, some 0, false⟩
    let e : VEntry := { vEntry i capsF with items := [{ vItem i capsF with entry := some 3 }] }
    let far := vAt i capsF fun k => { k with vu := { k.vu with viq := [e] } }; let k := far.core 0
    answers (exec i far) ((far.send (.core 0) (.core 5) .bulk (.tileStore r (ad 1 0x100) 0 (.elems 4 k.bankLo.rng (k.vu.codes 1)) 3)).streamDone 0
      (k.tileRounded (far.farRounds 5 (ad 1 0x100))))) = true := by decide +kernel

/-- TileStores: the request of TST and TSTN to a home. -/
theorem witness_TileStores_home : ([(Instr.tst ⟨5, 4, 1, g1⟩, TileKind.tst), (.tstn ⟨5, 4, 1, g1⟩, .tstn)].all fun p =>
    let glob := vAt p.1 capsG fun k => gMap { k with bankLo := { k.bankLo with rmode := 0 } }
    (match translateAll glob 0 false true (tileRows 0x80000 .f16 64) with
      | .ok (.ok rows) => decide (rows.flatten = runsG) && !(glob.core 0).ungrantedIn runsG &&
        !(vxAt glob 0 (vEntry p.1 capsG) (vItem p.1 capsG)).mustWait (globalSpans 0x80000 .f16 64)
      | _ => false) &&
    gives (exec p.1 glob) fun u => (u.core 0).vu.wait && (u.net.map fun x => decide (x.dst = .slice (homeOf 0x100000))) == [true]) = true := by decide +kernel

/-- TileStores: the answer of the home ends the instruction. -/
theorem witness_TileStores_end : ([(Instr.tst ⟨5, 4, 1, g1⟩, TileKind.tst), (.tstn ⟨5, 4, 1, g1⟩, .tstn)].all fun p =>
    let s := vAt p.1 capsG fun k => { k with vu := { k.vu with reply := some [[], [1]] } }
    answers (exec p.1 s) (s.streamDone 0 ((s.core 0).tileRounded (tileRounds p.2 false .f16)))) = true := by decide +kernel

/-- TilePackets, the owner: a tile load and a tile store that its window allows. -/
theorem witness_TilePackets_owner : (let s := own memK 0 (.tileLoad (rq 0) (ad 1 0x100) 0); let k := s.core 5
    Delivers s 0 (.core 0) (.core 5) (.tileLoad (rq 0) (ad 1 0x100) 0) ∧ k.arrivalCheck (rq 0) .vector (ad 1 0x100) 1 = none ∧
    (match k.farTile (ad 1 0x100) 0 false none with
      | some (w, off, fm, step) => (match k.lcl.readTile (w64 (ad 1 0x100)) w off fm step with | .ok _ => true | _ => false) &&
        (List.range 32).all fun i => !k.fullRefused 5 (rq 0) (ad 1 0x100 + i * step) (4 * fm.width)
      | none => false) = true ∧ (k.farTile (ad 1 0x100) 0 true none).isSome = true) :=
  ⟨⟨.request, rfl⟩, by decide +kernel, by decide +kernel, by decide +kernel⟩

/-- The machine after reset, whose home slices hold `lines`. -/
def holding (lines : List Nat) (s : State) : State :=
  lines.foldl (fun s l => s.setSlice (homeOfLine l) { s.slice (homeOfLine l) with present := (s.slice (homeOfLine l)).present ++ [l] }) s
/-- A home slice with a packet from core 0. -/
def hsl (b : Body) : State := withNet (holding [0x1000, 0x1001] State.reset) (pk (.core 0) (.slice 3) .request b)

/-- TilePackets, the home: a read whose bytes are ready, and none bad. -/
theorem witness_TilePackets_read : (let runs := [(0x80000, 0x100000, 4), (0x80100, 0x100100, 4)]; let s := hsl (.tile (rq 0) (.read runs))
    (match (s.drop 0).readyHome [(0x100000, 4), (0x100100, 4)] false with | .ok => true | _ => false) && ((s.drop 0).badRun runs).isNone &&
    answers (exec (.tileAccessAtHome 0) s) (((s.drop 0).dropCopies 0 [(0x100000, 4), (0x100100, 4)]).send (.slice 3) (.core 0) .reply
      (.tileData (runs.map fun x => (s.drop 0).bytesNow x.2.1 x.2.2)))) = true := by decide +kernel

/-- TilePackets, the home: a read that meets poison. -/
theorem witness_TilePackets_bad : (let runs := [(0x80000, 0x100000, 4), (0x80100, 0x100100, 4)];
    let p := { hsl (.tile (rq 0) (.read runs)) with poison := [(0x4000, true)] }
    (match (p.drop 0).readyHome [(0x100000, 4), (0x100100, 4)] false with | .ok => true | _ => false) &&
    (match (p.drop 0).badRun runs with
      | some a => answers (exec (.tileAccessAtHome 0) p) (((p.drop 0).detectRuns runs).send (.slice 3) (.core 0) .reply (.tileFailed ⟨0x22, w64 a⟩))
      | none => false)) = true := by decide +kernel

/-- TilePackets, the home: a store. -/
theorem witness_TilePackets_write : (let w := hsl (.tile (rq 0) (.write [(0x80000, 0x100000, [1, 2])]))
    (match (w.drop 0).readyHome [(0x100000, 2)] true with | .ok => true | _ => false) &&
    answers (exec (.tileAccessAtHome 0) w) (((w.drop 0).homeTileWrite 0 [(0x80000, 0x100000, [1, 2])]).send (.slice 3) (.core 0) .reply .tileDone)) = true := by
  decide +kernel

/-- TilePackets: such a packet may be delivered. -/
theorem witness_TilePackets_delivers (b : Body) : Delivers (hsl b) 0 (.core 0) (.slice 3) b := ⟨.request, rfl⟩

/-- TilePackets: the owner answers a tile load, the home a store; the task's stream then goes on. -/
theorem test_tile_answer : (let s := withNet (vAt (.tld ⟨5, 4, 1, g1⟩)) (pk (.core 5) (.core 0) .reply (.tileData [[1]]))
    let d := withNet (vAt (.tst ⟨5, 4, 1, g1⟩) [] fun k => { k with vu := { k.vu with reply := some [[], [1]] } }) (pk (.slice 3) (.core 0) .reply .tileDone)
    answers (exec (.remoteReply 0) s) ((s.drop 0).onCore 0 fun x => { x with vu := { x.vu with wait := false, reply := some [[1]] } }) ∧
    answers (exec (.remoteReply 0) d) ((d.drop 0).onCore 0 fun x =>
      { x with vu := { x.vu with wait := false, reply := some [[], [1], [[]].flatten] } })) := by decide +kernel

/-- A core with a latch, an incoming latch, and the ring credit `cr`. -/
def ringK (cr : Bool) (k : Core) : Core := { k with vu := { k.vu with cur := some lt, inc := some (9, { lt with tscale := 8 }) }, regs := { k.regs with cr := cr, ringNext := 5 } }

/-- LatchRing: CLROT with and without the credit, CLWAIT with an incoming latch. -/
theorem witness_LatchRing : (let i : Instr := .clrot ⟨g1⟩; let s := vAt i [] (ringK true); let s' := vAt i [] (ringK false); let j : Instr := .clwait ⟨g1⟩;
    let u := vAt j [] (ringK true)
    (s.core 0).vu.cur = some lt ∧ (s.core 0).regs.cr = true ∧ (s'.core 0).regs.cr = false ∧ (u.core 0).vu.inc = some (9, { lt with tscale := 8 }) ∧
    answers (exec i s) ((s.send (.core 0) (.core 5) .bulk (.latch (some 0) lt)).streamDone 0 { s.core 0 with regs := { (s.core 0).regs with cr := false } }) ∧
    answers (exec i s') s' ∧
    answers (exec j u) ((u.send (.core 0) (.core 9) .request .credit).streamDone 0 { u.core 0 with vu := { (u.core 0).vu with cur := some { lt with tscale := 8 }, inc := none } })) := by
  decide +kernel

/-- LatchRing, the arrivals: taken, of another context, with a latch already there, and a credit. -/
theorem witness_LatchRing_arrivals : (let s := own id 2 (.latch (some 0) lt); let s1 := own id 2 (.latch (some 1) lt); let s2 := own (ringK true) 2 (.latch (some 0) lt)
    let s3 := own (ringK false) 2 .credit
    (s.core 5).ctx ≠ none ∧ (s.core 5).ctx = some 0 ∧ (s.core 5).vu.inc = none ∧ (s1.core 5).ctx ≠ some 1 ∧ (s2.core 5).vu.inc ≠ none ∧
    answers (exec (.latchArrival 0) s) ((s.drop 0).onCore 5 fun o => { o with vu := { o.vu with inc := some (2, lt) } }) ∧
    answers (exec (.latchArrival 0) s1) (((s1.drop 0).event 5 0x05).send (.core 5) (.core 2) .request .credit) ∧
    answers (exec (.ringCredit 0) s3) ((s3.drop 0).onCore 5 fun o => { o with regs := { o.regs with cr := true } })) := by decide +kernel

/-- A key-page descriptor (KIND 3), the operand block of X8 on, and a core that maps its table. -/
def keyPages : List Byte := leBytes 64 (3 + 3 * 2 ^ 16 + 32 * 256 ^ 4 + 100 * 256 ^ 8 + 0x90000 * 256 ^ 16 + 4096 * 256 ^ 24 + 0x98000 * 256 ^ 32)
/-- X8 to X15. -/
def capsP : List (Nat × W) := [(8, 0x1003), (9, 2), (10, 3), (11, 0x9000000000000040), (12, 0x8000000000000002), (13, 0), (14, 0xFFFFFFFFFFFFFFFF),
    (15, 0x9000000000000400)]
/-- The entry of the page of both tables. -/
def tlbE : TlbEntry := { asid := 0, g := false, sz := 0, page := 1, ppn := 2, u := true, w := true }
/-- The machine. -/
def sPG (i : Instr) (rep : Option (List (List Byte))) : State :=
  { vAt i capsP fun k => { k with vu := { k.vu with reply := rep }, regs := { k.regs with dtab := 0x80004 }, tlb := [tlbE] } with
    mem := Memory.writeN [] 0x100040 keyPages, dieTlb := [(0, [tlbE])] }

/-- KeyPages, PGPICK: the block is read, the counts are in range. -/
theorem witness_KeyPages_pgpick : (let i : Instr := .pgpick ⟨4, 8, g1⟩; let s := sPG i none; let vx := vxAt s 0 (vEntry i capsP) (vItem i capsP)
    match vx.pgBlock 8 with
    | .ok kp p0 n s1 => (p0, n) == (2, 3) && (vx.x 3 12).bits 62 7 == 0 && (vx.x 3 12).getLsbD 63 && (vx.x 3 12).bits 6 0 == 2 && (vx.x 3 13).bits 63 32 == 0 &&
        (match pgAddr 0 false (s.core 0).lcl (vx.x 3 15) 8 528 with | .ok off => off == 0x400 | _ => false) && s1.net.isEmpty &&
        gives (exec i s) fun u => leNat ((u.core 0).lcl.spad.readN 0x400 8) == 2
    | _ => false) = true := by decide +kernel

/-- The pages of `sPG` with the lines of summaries 2, 3 and 4 in their homes. -/
def sPH (i : Instr) (rep : Option (List (List Byte))) : State := holding [0x1181, 0x1182] (sPG i rep)
/-- What an instruction of key pages has read of its block. -/
def blockOf (i : Instr) (rep : Option (List (List Byte))) (f : KeyPage → Nat → Nat → State → Vx → Bool) : Bool :=
  let s := sPH i rep; let vx := vxAt s 0 (vEntry i capsP) (vItem i capsP)
  match vx.pgBlock 8 with
  | .ok kp p0 n s1 => f kp p0 n s1 { vx with s := s1 }
  | _ => false

/-- PageBounds: the query is read, then one summary; a page beyond the last, and the end. -/
theorem witness_PageBounds : (let i : Instr := .pgbound ⟨6, 8, g1⟩; let q := List.replicate 64 (0 : Byte)
    blockOf i none (fun kp p0 n s1 vx => (match pgAddr 0 false (s1.core 0).lcl (vx.x 3 11) 64 (2 * kp.d), vx.pgRanges false ((kp.pagesOf p0 n).map kp.summary) with
        | .ok off, .ok (.ok sums) => off == 0x40 && !(s1.core 0).ungrantedIn sums.flatten && ((s1.core 0).lcl.firstPoison 0x40 (2 * kp.d)).isNone && s1.net.isEmpty &&
          !s1.portOwes 0
        | _, _ => false) && answers (exec i (sPH i none)) ((s1.ownAccess 0).streamKeeps 0 [(s1.core 0).lcl.spad.readN 0x40 64])) &&
    blockOf i (some [q]) (fun kp p0 n s1 vx => (match vx.pgRanges false ((kp.pagesOf p0 n).map kp.summary) with
        | .ok (.ok sums) => let runs := sums.getD 0 []
            decide (0 < n) && decide (p0 + 0 < kp.npages) &&
              (match s1.readyHome (runs.map fun x => (x.2.1, x.2.2)) false with | .ok => true | _ => false) && (s1.badRun runs).isNone
        | _ => false) && gives (exec i (sPH i (some [q]))) fun u => (u.core 0).vu.reply == some [q, leBytes 4 0]) &&
    blockOf i (some [q, [], [], []]) (fun _ _ n _ _ => n ≤ 3) &&
    gives (exec i (sPH i (some [q, leBytes 4 5, leBytes 4 6, leBytes 4 7]))) (fun u => lane 32 ((u.core 0).vu.reg 6) 2 == 7 &&
      lane 32 ((u.core 0).vu.reg 6) 3 == 0xFF800000)) = true := by
  decide +kernel

/-- The same descriptor with E4M3 keys, and one page. -/
def keyBytes : List Byte := leBytes 64 (3 + 2 ^ 8 + 3 * 2 ^ 16 + 32 * 256 ^ 4 + 3 * 256 ^ 8 + 0x90000 * 256 ^ 16 + 2048 * 256 ^ 24 + 0x98000 * 256 ^ 32)
/-- Its machine. -/
def sPE (i : Instr) (rep : Option (List (List Byte))) : State := { sPH i rep with mem := Memory.writeN [] 0x100040 keyBytes }
/-- What PGSUM has read of its block there. -/
def blockE (rep : Option (List (List Byte))) (f : KeyPage → Nat → Nat → State → Vx → Bool) : Bool :=
  let s := sPE (.pgsum ⟨8, g1⟩) rep; let vx := vxAt s 0 (vEntry (.pgsum ⟨8, g1⟩) capsP) (vItem (.pgsum ⟨8, g1⟩) capsP)
  match vx.pgBlock 8 with
  | .ok kp p0 n s1 => f kp p0 n s1 { vx with s := s1 }
  | _ => false

/-- SummaryWrites: PGSUM reads the first line of the first page. -/
theorem witness_SummaryWrites_read : blockE none (fun kp p0 n s1 vx => decide (kp.pagesOf p0 n = [2]) &&
    (match vx.pgRanges false [(0x91000, 2048)], vx.pgRanges true [kp.summary 2] with
        | .ok (.ok rows), .ok (.ok sums) => decide (rows.flatten.length = 8) && decide (rows.flatten[0]? = some (0x91000, 0x111000, 256)) &&
            !(s1.core 0).ungrantedIn (rows.flatten ++ sums.flatten) && (match s1.ready [(0x111000, 256)] false with | .ok => true | _ => false) &&
            (s1.badRun [(0x91000, 0x111000, 256)]).isNone
        | _, _ => false) &&
      gives (exec (.pgsum ⟨8, g1⟩) (sPE (.pgsum ⟨8, g1⟩) none)) fun u => (u.core 0).vu.reply == some [List.replicate 256 0]) = true := by decide +kernel

/-- SummaryWrites: PGSUM, once its 8 lines are read, writes the summary: channel 0 of −1.0 and 2.0, and 0. -/
theorem witness_SummaryWrites_sum : (let page := ((0xB8 : Byte) :: List.replicate 31 0 ++ 0x40 :: List.replicate 223 0) :: List.replicate 7 (List.replicate 256 (0 : Byte))
    gives (exec (.pgsum ⟨8, g1⟩) (sPE (.pgsum ⟨8, g1⟩) (some page))) fun u => ((u.core 0).vu.reply.map (·.length)) == some 9 &&
      u.bytesNow 0x118100 4 == [0x80, 0xBF, 0, 0] && u.bytesNow 0x118140 4 == [0, 0x40, 0, 0]) = true := by decide +kernel

/-- SummaryWrites: PGCLR writes the first summary as empty. -/
theorem witness_SummaryWrites_clear : (let j : Instr := .pgclr ⟨8, g1⟩
    blockOf j (some []) (fun kp _ _ _ vx => match vx.summaryStep kp 2 false (fun _ => List.replicate 32 (0x7F80, 0xFF80)) with
          | (true, s') => answers (exec j (sPH j (some []))) (s'.streamKeeps 0 [[]])
          | _ => false)) = true := by decide +kernel

/-- SummaryWrites: PGSUM completes after its only summary, PGCLR after its third. -/
theorem witness_SummaryWrites_end : (blockE (some (List.replicate 9 [])) (fun _ _ _ s1 _ =>
    answers (exec (.pgsum ⟨8, g1⟩) (sPE (.pgsum ⟨8, g1⟩) (some (List.replicate 9 [])))) (s1.streamDone 0 (s1.core 0))) &&
    blockOf (.pgclr ⟨8, g1⟩) (some [[], [], []]) (fun _ _ _ s1 _ =>
      answers (exec (.pgclr ⟨8, g1⟩) (sPH (.pgclr ⟨8, g1⟩) (some [[], [], []]))) (s1.streamDone 0 (s1.core 0)))) = true := by
  decide +kernel

/-- SummaryChannels: a step on a summary; a NaN, a value below, and a channel that is NaN already. -/
theorem witness_SummaryChannels : (let i : Instr := .pgclr ⟨8, g1⟩
    blockOf i (some []) (fun kp _ _ s1 vx => !vx.mustWait [⟨true, (kp.summary 2).1, (kp.summary 2).1 + (kp.summary 2).2⟩] &&
      (match translateAll s1 0 false true [kp.summary 2] with
        | .ok (.ok rows) => (match s1.readyHome (rows.flatten.map fun x => (x.2.1, x.2.2)) true with | .ok => true | _ => false) && (s1.badRun rows.flatten).isNone
        | _ => false)) &&
    (sBF16.decode 0x7FC1).isNan && !(sBF16.decode 0xBF80).isNan && !(sBF16.decode 0x7F80).isNan && (sBF16.decode 0x7FC0).isNan &&
    widenBy (0x7F80, 0xFF80) 0xBF80 == (0xBF80, 0xBF80) && widenBy (0x3F80, 0x3F80) 0x4000 == (0x3F80, 0x4000) && widenBy (0, 1) 0x7FC1 == (0x7FC0, 0x7FC0)) = true := by
  decide +kernel

/-- SummaryChannels: a tile stored into page 0 widens its 32 channels, one page in one step, and the store then ends. -/
theorem witness_SummaryChannels_store : (let caps : List (Nat × W) := [(4, 0x90000), (5, w64 (2 ^ 25))]; let kp : KeyPage := ⟨.bf16, 32, 100, 0x90000, 4096, 0x98000⟩
    let rows := (List.range 32).map fun m => codesRow 16 (List.replicate 32 (0x3F80 + m))
    [(Instr.tst ⟨5, 4, 1, g1⟩, TileKind.tst), (.tstn ⟨5, 4, 1, g1⟩, .tstn)].all fun p =>
      let at_ := fun (got : List (List Byte)) => holding [0x1180] (vAt p.1 caps fun k => { k with tlb := [tlbE], vu := { k.vu with reply := some got } })
      let got := keyPages :: rows ++ [[]]
      (shapeOf p.2 (w64 (2 ^ 25)) 0 5 1).any (fun sh => sh.fmt == .bf16 && decide ((kp.hits 0x90000 (sh.step 16)).map (·.1) = List.replicate 1024 0)) &&
      keyPage? (leNat (got.headD [])) == some kp && got.length - 34 == 0 &&
      (if p.2 == .tst then gives (exec p.1 (at_ got)) (fun u => (u.core 0).vu.reply == some (got ++ [[]]) && u.bytesNow 0x118000 2 == leBytes 2 0 &&
        u.bytesNow 0x118040 2 == leBytes 2 0x3F9F)
        else gives (exec p.1 (at_ (got ++ [[]]))) fun u => (u.core 0).vu.viq.isEmpty)) = true := by decide +kernel

/-- KeyPages, the values: a NaN that a store meets. -/
theorem witness_KeyPages_nan : (sBF16.decode 0x7FC1).isNan = true := by decide +kernel

end Sys2Proof.Tests.Matrix

/-! ## Tasks and their selection -/

namespace Sys2Proof.Tests.Tasks
open Sys2Proof.Machine Sys2Proof.Tests

/-- A core with a queue entry, a stream binding and a posted store under way. -/
def bigCore (k : Core) : Core := { k with vu := { VecUnit.reset with q := [(1, [3])], s := [(1, { ch := 1, id := 2, base := 3, len := 4, pos := 0, reader := 0 })], v := [(3, 5)] }, waybill := [(0, { WbEntry.free with state := 1 })] }
/-- The same with a HI task above the LO task. -/
def hiK : Core := { bigCore (core0 task0) with hi := some { task0 with hi := true } }

/-- TaskInstructions: DONE of a LO and of a HI task, and what stays (R298). -/
theorem witness_TaskInstructions_done : Issues (withCore (bigCore (core0 task0))) 0 task0 ∧ Issues (withCore hiK) 0 { task0 with hi := true } ∧
    (let s := withCore (bigCore (core0 task0)); let u := withCore hiK
    answers (exec (.done ⟨.always⟩) s) (s.endTask 0 false) ∧ answers (exec .cDone s) (s.endTask 0 false) ∧ answers (exec (.done ⟨.always⟩) u) (u.endTask 0 true) ∧
    ((s.endTask 0 false).core 0).vu.q = [] ∧ ((s.endTask 0 false).core 0).vu.s = [] ∧ ((u.endTask 0 true).core 0).vu.q = [(1, [3])] ∧
    ((s.endTask 0 false).core 0).waybill = [(0, { WbEntry.free with state := 1 })]) :=
  ⟨⟨rfl, rfl, rfl, rfl, rfl, rfl⟩, ⟨rfl, rfl, rfl, rfl, rfl, rfl⟩, by decide +kernel⟩

/-- TaskInstructions: IDEM at pc 6 marks pc 8; IDEM.END forgets it (R299, R300). -/
theorem witness_TaskInstructions_idem : (let t := { task0 with pc := 6 }; let u := { t with idem := some ⟨3, []⟩ }
    Issues (at0 t) 0 t ∧ t.carried = false ∧
    answers (exec (.idem ⟨.always⟩) (at0 t)) ((at0 t).retire 0 ((at0 t).core 0) { t with idem := some { pc := 8, xs := [0, 0, 0, 0, 0, 0, 0, 0] } } 8) ∧
    answers (exec (.idemEnd ⟨.always⟩) (at0 u)) ((at0 u).retire 0 ((at0 u).core 0) { u with idem := none } 8)) :=
  ⟨issues_at0 _, rfl, by decide +kernel⟩

/-- The word of a handler entry. -/
def hW (v hi : Bool) (prio cons ch depth pc : Nat) : W := ({ v := v, hi := hi, prio := prio, cons := cons, prod := 0, mask := false, ch := ch, depth := depth, rmask := 0, pc := pc } : Handler).toW
/-- Supervisor code that sets entry `i` to `w`. -/
def hsetTask (i : Nat) (w : W) : Task := { task0 with sup := true, x := [(4, w64 i), (5, w)] }
/-- Entry 2 handles channel 7; the inbox holds a word of it and one of channel 8. -/
def hK (t : Task) : Core := { core0 t with sched := { Sched.reset with handlers := [(2, Handler.ofW (hW true true 3 2 7 9 100))], inbox := [⟨1, 2, 7, true⟩, ⟨3, 4, 8, true⟩] } }

/-- TaskInstructions: HSET of entry 2 to another channel drops the words of channel 7; a channel that entry 2 has, a CONS of 7 and a DEPTH below CONS
may not be held (R298). -/
theorem witness_TaskInstructions_hset : Issues (withCore (hK (hsetTask 2 (hW true false 1 1 6 4 5)))) 0 (hsetTask 2 (hW true false 1 1 6 4 5)) ∧
    (hK task0).handlerOk 2 (hW true false 1 1 6 4 5) = true ∧
    gives (exec (.hset ⟨5, 4, .always⟩) (withCore (hK (hsetTask 2 (hW true false 1 1 6 4 5))))) (fun u => (u.core 0).sched.inbox == [⟨3, 4, 8, true⟩]) = true ∧
    ([(3, hW true true 3 2 7 9 100), (31, hW true false 1 7 3 9 9), (31, hW true false 1 3 3 2 9)].all fun (p : Nat × W) => !(hK task0).handlerOk p.1 p.2 &&
      traps (.hset ⟨5, 4, .always⟩) (withCore (hK (hsetTask p.1 p.2))) 0 (hsetTask p.1 p.2) 1 p.2) = true :=
  ⟨⟨rfl, rfl, rfl, rfl, rfl, rfl⟩, by decide +kernel, by decide +kernel, by decide +kernel⟩

/-- TaskInstructions: HMASK sets the masks that X[b] selects and returns the old ones (R298). -/
theorem witness_TaskInstructions_hmask : (let t := { task0 with x := [(4, 1), (5, 5)] }; let k := core0 t
    (t.reg 4).toNat < 2 ^ 32 ∧ (t.reg 5).toNat < 2 ^ 32 ∧
    gives (exec (.hmask ⟨5, 4, 6, .always⟩) (withCore (k.setHandler 2 { Handler.reset with mask := true }))) fun u =>
      ((u.core 0).handler 0).mask && !((u.core 0).handler 2).mask && ((u.core 0).bankTask false).any fun t => t.reg 6 == 4) := by decide +kernel

/-- TaskInstructions: HSET of an entry above 31 (R298). -/
theorem witness_TaskInstructions_hset_above : (let t := hsetTask 32 0; (t.reg 4).toNat = 32 ∧ t.sup = true ∧
    traps (.hset ⟨5, 4, .always⟩) (at0 t) 0 t 1 (wordHere (at0 t) 0 t)) := by
  decide +kernel

/-- TaskInstructions: WAIT of no cycles, of 7, its end, an early end for a pending trap, and none in a trap handler (R329). -/
theorem witness_TaskInstructions_wait : (let z := { task0 with x := [] }; let w := fun n => ({ task0 with wait := .cycles n, stalled := true } : Task)
    let s := fun n (f : Regs → Regs) => withCore { core0 (w n) with regs := f Regs.reset }
    let p : Regs → Regs := fun r => { r with pend := [⟨0x20, 5⟩] }; let q : Regs → Regs := fun r => { p r with tstat := 0x8000 }
    Issues (at0 z) 0 z ∧ z.reg 4 = 0 ∧ task0.reg 4 = 7 ∧ (p Regs.reset).pend ≠ [] ∧ (q Regs.reset).inTrap = true ∧
    answers (exec (.wait ⟨4, .always⟩) (at0 z)) ((at0 z).retire 0 ((at0 z).core 0) z 2) ∧
    answers (exec (.wait ⟨4, .always⟩) (at0 task0)) ((at0 task0).stalledOn 0 ((at0 task0).core 0) task0 (.cycles 7)) ∧
    answers (exec (.waitExpiry 0) (s 0 id)) ((s 0 id).withTask 0 false { w 0 with wait := .none, pc := 2, stalled := false }) ∧
    answers (exec (.waitExpiry 0) (s 3 p)) ((s 3 p).withTask 0 false { w 3 with wait := .none, pc := 2, stalled := false }) ∧
    answers (exec (.waitExpiry 0) (s 3 id)) (s 3 id) ∧ answers (exec (.waitExpiry 0) (s 3 q)) (s 3 q)) :=
  ⟨issues_at0 _, by decide +kernel⟩

/-- A template, a range of it, and an idle core with a deque, a HI handler and words for it. -/
def tpl : Template := { pc := 50, arg0 := 8, arg1 := 9, widths := [0, 0, 0, 0, 0, 0] }
/-- The range. -/
def rng (a b : W) : WRange := ⟨a, b, tpl, 3, true⟩
/-- The core. -/
def selK : Core := { Core.reset with ctx := some 0, sched := { Sched.reset with handlers := [(0, Handler.ofW (hW true false 1 0 0 0 50)), (2, Handler.ofW (hW true true 3 2 7 9 100))], inbox := [⟨1, 2, 7, true⟩, ⟨5, 2, 7, false⟩, ⟨3, 4, 8, true⟩], deque := [rng 1 2, rng 4 9] } }

/-- Selection: entry 2 fires first, entry 0 once the inbox is empty; a HI task holds both up; a HI entry suspends a LO task. -/
theorem witness_Selection_fire : selK.hi = none ∧ selK.lo = none ∧ selK.open = true ∧ selK.abortRec = none ∧ selK.regs.pend = [] ∧ selK.calls = [] ∧
    selK.choose true = some 2 ∧ answers (exec (.taskSelect 0) (withCore selK)) ((withCore selK).setCore 0 (selK.selectFire 2)) ∧
    ({ selK with sched := { selK.sched with inbox := [] } }.choose true) = some 0 ∧
    (let k := { selK with lo := some task0 }; k.wantsHi = true ∧ k.choose false = some 2 ∧
      answers (exec (.hiSuspend 0) (withCore k)) ((withCore k).setCore 0 (k.selectFire 2))) ∧
    ({ selK with lo := some task0, sched := { selK.sched with inbox := [] } } : Core).wantsHi = false ∧
    (let k := { selK with hi := some task0 }; k.hi.isSome = true ∧ answers (exec (.taskSelect 0) (withCore k)) ((withCore k).setCore 0 k)) := by decide +kernel

/-- Selection, the choice among entries: all below 256, and one that starved; a list of entries that the core knows. -/
theorem witness_Selection_best : (let k := { selK with sched := { selK.sched with starve := [(0, 300)] } }
    selK.best [0, 2] = some 2 ∧ k.best [0, 2] = some 0 ∧ ([0, 2].all fun j => decide (j ∈ selK.sched.recency)) = true ∧
    ([0, 2].all fun j => decide (Tbl.getD selK.sched.starve j 0 < 256)) = true ∧ 256 ≤ Tbl.getD k.sched.starve 0 0) := by decide +kernel

/-- Selection, the newest range: with no pre-emption pending, and with one pending, when only a range pushed before it may fire. -/
theorem witness_Selection_range : selK.sched.deque = [rng 1 2] ++ [rng 4 9] ∧ selK.quiescing = false ∧ (selK.fire 0).lo = some (Task.ofRange (rng 4 9)) ∧
    (let k := { selK with quiescing := true, sched := { selK.sched with deque := [rng 1 2] ++ rng 4 9 :: [{ rng 7 8 with firm := false }] } }
    (rng 4 9).firm = true ∧ (k.fire 0).lo = some (Task.ofRange (rng 4 9)) ∧ (k.fire 0).sched.deque = [rng 1 2, { rng 7 8 with firm := false }]) := by decide +kernel

/-- Selection: a firm range keeps the core open while it quiesces. -/
theorem witness_Selection_firm : (let k := { selK with quiescing := true }
    k.ctx ≠ none ∧ k.stopped = false ∧ k.regs.inTrap = false ∧ (k.handler 0).v = true ∧ (k.handler 0).mask = false ∧ k.slotsOk (k.handler 0) = true ∧
    rng 1 2 ∈ k.sched.deque ∧ k.open = true ∧ k.settled = false) := by decide +kernel

/-- R190: the work of a fired task in its registers: a range, and two words of entry 4. -/
theorem test_fired_registers : (let t := Task.ofRange { rng 5 6 with src := 77 }; let h := Handler.ofW (hW true true 3 2 7 9 100)
    let u := Task.ofWords 4 h [⟨1, 22, 7, true⟩, ⟨5, 2, 7, false⟩]
    [t.reg 8, t.reg 9, t.reg 10, t.reg 11, t.reg 16, t.reg 17] = [5, 6, 8, 9, 77, 0] ∧ t.pc = 50 ∧
    [u.reg 9, u.reg 10, u.reg 11, u.reg 12, u.reg 16, u.reg 17] = [2, 1, 5, 0, 22, 4] ∧ u.pc = 100 ∧ ([⟨1, 22, 7, true⟩, ⟨5, 2, 7, false⟩] : List InboxWord).length ≤ 6 ∧
      (4 : Nat) < 32) := by
  decide +kernel

/-- Selection: a HI entry takes its words and leaves the others. -/
theorem witness_Selection_words : (selK.handler 2).hi = true ∧ (2 : Nat) ≤ (selK.sched.inbox.filter (·.ch == 7)).length ∧
    takeWords 7 2 selK.sched.inbox = ([⟨1, 2, 7, true⟩, ⟨5, 2, 7, false⟩], [⟨3, 4, 8, true⟩]) := by decide +kernel

/-! ## The deque, stealing and launching -/

/-- A template with a first width of 4, a task fired from it, and cores with a full and with a given deque. -/
def tpl4 : Template := { tpl with widths := [4, 0, 0, 0, 0, 0] }
/-- The task. -/
def tD (x : List (Nat × W)) : Task := { Task.enter false 0 0 [] with x := x, tpl := some tpl4 }
/-- Every entry of the deque is held. -/
def full (k : Core) : Core := { k with sched := { k.sched with held := 1000 } }
/-- The deque `l`. -/
def dq (l : List WRange) (k : Core) : Core := { k with sched := { k.sched with deque := l } }
/-- The machine. -/
def st (t : Task) (f : Core → Core := id) : State := withCore (f (core0 t))
/-- Whether the outcome is completion after `f`, with task `u`. -/
def compl (o : Out) (s : State) (f : State → State) (u : Task) : Bool := answers o ((f s).retire 0 ((f s).core 0) u 2)

/-- DequeInstructions, DQPUSH: an empty range, a full deque, and a push. -/
theorem witness_DequeInstructions_push : (let t1 := tD [(4, 9), (5, 3)]; let t2 := tD [(4, 3), (5, 9)]
    (t1.reg 5).toNat ≤ (t1.reg 4).toNat ∧ (t2.reg 4).toNat < (t2.reg 5).toNat ∧ ((st t2 full).core 0).sched.room = false ∧ ((st t2).core 0).sched.room = true ∧
      t2.tpl = some tpl4 ∧
    compl (exec (.dqpush ⟨0, 4, 6, .always⟩) (st t1)) (st t1) id (t1.setReg 6 2) ∧
      compl (exec (.dqpush ⟨0, 4, 6, .always⟩) (st t2 full)) (st t2 full) id (t2.setReg 6 1) ∧
    compl (exec (.dqpush ⟨0, 4, 6, .always⟩) (st t2)) (st t2) (fun s => s.onQueue 0 fun q =>
      { q with deque := [⟨3, 9, tpl4, 0, false⟩] }) (t2.setReg 6 0)) := by decide +kernel

/-- A launch header at offset 0x80 of the scratchpad. -/
def hk (k : Core) : Core := { k with lcl := { k.lcl with spad := Memory.writeN [] 0x80 (leBytes 64 (4 + 3 * 256 ^ 8 + 99 * 256 ^ 16 + 50 * 256 ^ 24 + 0x10 * 256 ^ 26 + 0x21 * 256 ^ 27 + 5 * 256 ^ 28 + 8 * 256 ^ 32 + 9 * 256 ^ 40 + 0x30 * 256 ^ 48)) } }

/-- A task whose X8 names byte `off` of window `w`. -/
def tH (w off : Nat) : Task := tD [(4, 3), (5, 9), (8, w64 (9 * 2 ^ 60 + w * 2 ^ 46 + off))]

/-- DequeInstructions, DQPUSH with a header; a core that quiesces. -/
theorem witness_DequeInstructions_header : (let t := tH 0 0x80; let s := st t hk
    (ownParts 0 false (t.reg 8).toNat == .ok (0, 0x80)) = true ∧ (s.core 0).lcl.configured 0 = true ∧ (t.reg 8).toNat % 64 = 0 ∧ 0x80 + 64 ≤ 0x30000 ∧
      (s.net ++ s.held) = [] ∧
    s.portOwes 0 = false ∧ ((s.core 0).lcl.templateBytes 0x80).any (fun h => decide (headerTemplate h = some tpl4)) ∧ pushesFirm (s.core 0) = false ∧
    compl (exec (.dqpush ⟨8, 4, 6, .always⟩) s) s (fun s => s.onQueue 0 fun q => { q with deque := [⟨3, 9, tpl4, 0, false⟩] }) (t.setReg 6 0)) := by decide +kernel

/-- PushTraps: a peer's address, reserved bits, an unconfigured and a reserved window, an offset past the scratchpad, a misaligned address, a bad header. -/
theorem witness_PushTraps : ([(0, 0x40080, 8), (0, 2 ^ 55, 8), (3, 0x80, 6), (13, 0x80, 6), (0, 0x30000, 6), (0, 0x2FFF0, 3),
    (0, 0x84, 3)].all fun (p : Nat × Nat × Nat) =>
      traps (.dqpush ⟨8, 4, 6, .always⟩) (st (tH p.1 p.2.1) hk) 0 (tH p.1 p.2.1) p.2.2 ((tH p.1 p.2.1).reg 8)) = true ∧
    (let s := st (tH 0 0xC0) fun k => { k with lcl := { k.lcl with spad := Memory.writeN [] 0xC0 (leBytes 8 (2 ^ 36)) } }
     ((s.core 0).lcl.templateBytes 0xC0).any (fun h => (headerTemplate h).isNone) = true ∧
       traps (.dqpush ⟨8, 4, 6, .always⟩) s 0 (tH 0 0xC0) 1 ((tH 0 0xC0).reg 8)) := by decide +kernel

/-- DequeInstructions, DQPOP: the task's template, another one, an empty deque. -/
theorem witness_DequeInstructions_pop : (let t := tD []; let r : WRange := ⟨3, 4, tpl4, 3, true⟩; let s := st t (dq [rng 1 2, r]); let u := st t (dq [r, rng 1 2])
    (s.core 0).sched.deque = [rng 1 2] ++ [r] ∧ t.tpl = some r.tpl ∧ t.tpl ≠ some (rng 1 2).tpl ∧ ((st t).core 0).sched.deque = [] ∧
    compl (exec (.dqpop ⟨6, .always⟩) s) s (fun s => s.onSched 0 fun k => dq [rng 1 2] k) ((t.setReg 6 3).setReg 7 4) ∧
    compl (exec (.dqpop ⟨6, .always⟩) u) u id ((t.setReg 6 0).setReg 7 0) ∧
      compl (exec (.dqpop ⟨6, .always⟩) (st t)) (st t) id ((t.setReg 6 0).setReg 7 0)) := by decide +kernel

/-- DequeInstructions, DQSPLIT: two WIDs or more, fewer, no room, no template. -/
theorem witness_DequeInstructions_split : (let t := tD [(4, 3), (5, 99)]; let t' := tD [(4, 3), (5, 4)]; let n : Task := { t with tpl := none }
    (t.reg 4).toNat + 2 ≤ (t.reg 5).toNat ∧ (t'.reg 5).toNat < (t'.reg 4).toNat + 2 ∧ splitPoint tpl4.widths 3 99 = 51 ∧
    compl (exec (.dqsplit ⟨4, 6, .always⟩) (st t)) (st t) (fun s => s.onQueue 0 fun q => { q with deque := [⟨51, 99, tpl4, 0, false⟩] }) (t.setReg 6 51) ∧
    compl (exec (.dqsplit ⟨4, 6, .always⟩) (st t')) (st t') id (t'.setReg 6 4) ∧ compl (exec (.dqsplit ⟨4, 6, .always⟩) (st t full)) (st t full) id (t.setReg 6 99) ∧
    traps (.dqsplit ⟨4, 6, .always⟩) (st n) 0 n 1 (wordHere (st n) 0 n)) := by decide +kernel

/-- R286: the rows of its table, under widths 52, 6 and 6. -/
theorem test_splitPoint : ([(64, 200), (126, 130), (60, 66), (65, 70)].map fun (p : Nat × Nat) => splitPoint [52, 6, 6] p.1 p.2) = [128, 128, 64, 67] := by decide +kernel

/-- DequeInstructions, DQSTEAL: of core 5, of itself, and with no room. -/
theorem witness_DequeInstructions_steal : (let t := tD [(4, 5)]; let t0 := tD [(4, 0)]; let s := st t
    (t.reg 4).toNat < 1024 ∧ (t.reg 4).toNat ≠ 0 ∧ (t0.reg 4).toNat = 0 ∧
    answers (exec (.dqsteal ⟨4, 6, .always⟩) s) (let u := (((s.onQueue 0 fun q => { q with held := 1 }).send (.core 0) (.core 5) .request (.steal (s.requester 0 t) true)).event (unitCore 0) 0x03); u.stalledOn 0 (u.core 0) t (.value 6 false 64 2 false)) ∧
    compl (exec (.dqsteal ⟨4, 6, .always⟩) (st t0)) (st t0) id (t0.setReg 6 1) ∧
      compl (exec (.dqsteal ⟨4, 6, .always⟩) (st t full)) (st t full) id (t.setReg 6 2)) := by decide +kernel

/-- Core 5 with the deque `l` and a steal request of core 0. -/
def victim (l : List WRange) (ctx : Option Nat := some 0) : State := own (dq l) 0 (.steal { rq 0 with ctx := ctx } true)
/-- The answer of core 5. -/
def ans (s : State) (n : Nat) (g : Option WRange) : State := s.send (.core 5) (.core 0) .reply (.stealAns false true n g)
/-- The victim with the deque `d`. -/
def keeps (s : State) (d : List WRange) : State := (s.drop 0).onSched 5 fun k => dq d k

/-- Stealing, the victim: another context, an empty deque, either half of a range, and whole ranges of one WID. -/
theorem witness_Stealing_victim : ((victim [] (some 3)).core 5).refuses (some 3) = true ∧ ((victim []).core 5).refuses (some 0) = false ∧
    answers (exec (.stealRequest 0) (victim [] (some 3))) (ans ((victim [] (some 3)).drop 0) 4 none) ∧
      answers (exec (.stealRequest 0) (victim [])) (ans ((victim []).drop 0) 1 none) ∧
    (let e : WRange := ⟨60, 66, { tpl with widths := [52, 6, 6, 0, 0, 0] }, 3, true⟩; let m := splitPoint e.tpl.widths 60 66; 66 - m < m - 60 ∧
      answers (exec (.stealRequest 0) (victim [e, rng 7 8])) (ans (keeps (victim [e, rng 7 8]) [{ e with lo := w64 m }, rng 7 8]) 0 (some { e with hi := w64 m }))) ∧
    (let e : WRange := ⟨3, 5, tpl4, 3, true⟩; let m := splitPoint e.tpl.widths 3 5; m - 3 ≤ 5 - m ∧
      answers (exec (.stealRequest 0) (victim [e, rng 7 8])) (ans (keeps (victim [e, rng 7 8]) [{ e with hi := w64 m }, rng 7 8]) 0 (some { e with lo := w64 m }))) ∧
    answers (exec (.stealRequest 0) (victim [rng 7 8])) (ans ((victim [rng 7 8]).drop 0) 1 none) ∧
    answers (exec (.stealRequest 0) (victim [rng 7 8, rng 1 2])) (ans (keeps (victim [rng 7 8, rng 1 2]) [rng 1 2]) 0 (some (rng 7 8))) := by decide +kernel

/-- Stealing, the answers to an idle core: of an abandoned round, of one whose core has a ready handler, and with a range. -/
theorem witness_Stealing_answers_idle : (let at_ := fun (ab rdy : Bool) (g : Option WRange) => withNet (sF 0 fun k => { k with lo := none, regs := { k.regs with cyc := 77 }, sched := { k.sched with held := 1, stealing := true, abandoned := ab, roundLeft := [4], handlers := if rdy then [(0, { Handler.reset with v := true, pc := 5 })] else [], deque := if rdy then [rng 1 2] else [] } }) (pk (.core 5) (.core 0) .reply (.stealAns false false 1 g))
    let q := fun (d : List WRange) (q : Sched) => { q with held := 0, stealing := false, abandoned := false, roundLeft := [], backoff := 0, deque := d }
    ((at_ true false none).core 0).sched.abandoned = true ∧ ((at_ false true none).core 0).ready ≠ [] ∧
    answers (exec (.stealAnswer 0) (at_ true false none)) (((at_ true false none).drop 0).onQueue 0 (q [])) ∧
    answers (exec (.stealAnswer 0) (at_ false true none)) (((at_ false true none).drop 0).onQueue 0 (q [rng 1 2])) ∧
    answers (exec (.stealAnswer 0) (at_ false false (some (rng 5 6)))) (((((at_ false false (some (rng 5 6))).drop 0).onQueue 0
      fun x => { x with held := 0, deque := [{ rng 5 6 with src := 5, firm := pushesFirm ((at_ false false (some (rng 5 6))).core 0) }] }).event (unitCore 0) 0x04).onQueue 0
        fun x => { x with stealing := false, abandoned := false, roundLeft := [], backoff := 0 })) := by decide +kernel

/-- Stealing, the answers: to DQSTEAL, with a range and without; to an idle core, at the end of its round and before. -/
theorem witness_Stealing_answers : ([none, some (rng 5 6)].all fun g => let w : Wait := .value 6 false 64 2 false
      let s := withNet (stalled w fun k => { k with sched := { k.sched with held := 1 } }) (pk (.core 5) (.core 0) .reply (.stealAns false true 0 g))
      let freed := (s.drop 0).onQueue 0 fun q => { q with held := 0 }
      answers (exec (.stealAnswer 0) s) ((match g with
        | none => freed
        | some r => (freed.onQueue 0 fun q => { q with deque := [{ r with src := 5, firm := false }] }).event (unitCore 0) 0x04).resumed 0 false (ts w) 6 0)) = true ∧
    ([[], [3]].all fun rl => let s := withNet (sF 0 fun k => { k with lo := none, regs := { k.regs with cyc := 77 }, sched := { k.sched with held := 1, stealing := true, roundLeft := rl } }) (pk (.core 5) (.core 0) .reply (.stealAns false false 1 none))
      answers (exec (.stealAnswer 0) s) ((s.drop 0).onQueue 0 fun q =>
        { q with held := 0, stealing := false, backoff := if rl = [] then 77 + 2048 else q.backoff })) = true := by decide +kernel

/-- An idle core that steals in scope `sc`. -/
def idleK (sc : Nat) (rl : List Nat) : Core := { Core.reset with ctx := some 0, regs := { Regs.reset with stealScope := sc }, sched := { Sched.reset with handlers := [(0, { Handler.reset with v := true, pc := 5 })], roundLeft := rl } }

/-- Stealing, a round: its first draw in each scope, and one that goes on. -/
theorem witness_Stealing_round : ([(1, [], 0, [1, 2]), (2, [], 0, (List.range 11).drop 1), (3, [4, 5], 4, [5])].all fun (p : Nat × List Nat × Nat × List Nat) =>
    let k := idleK p.1 p.2.1; let s := withCore k; let v := k.victim 0 p.2.2.1
    k.open && k.ready.isEmpty && k.sched.room && !k.sched.stealing && k.sched.backoff == 0 &&
    answers (exec (.stealRound 0) s) (((s.setCore 0 { v.2 with sched := { k.sched with roundLeft := p.2.2.2, stealing := true, held := 1 } }).send (.core 0) (.core v.1) .request
      (.steal { core := 0, hi := false, ctx := some 0, sup := false } false)).event (unitCore 0) 0x03)) = true := by decide +kernel

/-- R287, R288: a victim lies in the scope and is never the core itself. -/
theorem test_victim : ([2, 3].all fun sc => [0, 1023].all fun c => (List.range 11).all fun draw =>
    let k := { idleK sc [] with regs := { Regs.reset with stealScope := sc, stealCnt := 12345 } }
    let v := (k.victim c draw).1
    decide (v < 1024 ∧ v ≠ c ∧ (draw < 3 → clusterOf v = clusterOf c) ∧ (3 ≤ draw → clusterOf v ≠ clusterOf c) ∧
      (sc = 2 → dieOf v = dieOf c))) = true := by decide +kernel

/-- Stealing, the wait after a round: over, and not yet. -/
theorem witness_Stealing_backoff : (let s := withCore { Core.reset with regs := { Regs.reset with cyc := 100 }, sched := { Sched.reset with backoff := 100 } }
    let u := withCore { Core.reset with regs := { Regs.reset with cyc := 99 }, sched := { Sched.reset with backoff := 100 } }
    answers (exec (.stealBackoffExpiry 0) s) (s.onQueue 0 fun q => { q with backoff := 0 }) ∧ answers (exec (.stealBackoffExpiry 0) u) u) := by decide +kernel

/-- The registers of a launch. -/
def tL (x : List (Nat × W)) : Task := { Task.enter false 0 0 [] with x := x }

/-- Launching, LAUNCH: of core 5; a core number and a pc out of range. -/
theorem witness_Launching_launch : (let t := tL [(4, 5), (5, 77), (6, 8), (7, 9)]; let t1 := tL [(4, 1024), (5, 77)]; let t2 := tL [(4, 5), (5, 0x8000)]; let s := st t
    (t.reg 4).toNat < 1024 ∧ (t.reg 5).toNat < 2 ^ 15 ∧ 1024 ≤ (t1.reg 4).toNat ∧ 2 ^ 15 ≤ (t2.reg 5).toNat ∧
    answers (exec (.launch ⟨4, 6, .always⟩) s) ((s.send (.core 0) (.core 5) .request (.launch (s.requester 0 t) ⟨0, 1,
      { pc := 77, arg0 := 8, arg1 := 9, widths := [0, 0, 0, 0, 0, 0] }, 0, false⟩ 0 none)).stalledOn 0 (s.core 0) t (.value 6 false 64 2 false)) ∧
    traps (.launch ⟨4, 6, .always⟩) (st t1) 0 t1 1 (wordHere (st t1) 0 t1) ∧ traps (.launch ⟨4, 6, .always⟩) (st t2) 0 t2 1 (wordHere (st t2) 0 t2)) := by decide +kernel

/-- A header in global memory that the L1 holds. -/
def kL (x lo hi : Nat) (k : Core) : Core := { k with tlb := [{ asid := 0, g := false, sz := 0, page := 1, ppn := 2, u := true, w := true }], l1 := { lines := [(0x1000, { vas := [], units := [], old := [], sv := 15, reg := 0, drt := 0, pend := 0, bytes := 0, hs := [], psn := 0, lv := 3, data := (leBytes 64 (4 + lo * 256 ^ 8 + hi * 256 ^ 16 + 50 * 256 ^ 24 + x * 256 ^ 26 + 0x21 * 256 ^ 27 + 5 * 256 ^ 28 + 8 * 256 ^ 32 + 9 * 256 ^ 40 + 0x30 * 256 ^ 48)).mapIdx fun i b => (64 + i, b), used := 0 })], missing := [], wb := [], clock := 5 } }

/-- Launching, LAUNCH.H: a header with parts, one without, and one that breaks its rules. -/
theorem witness_Launching_header : ([(0x10, 3, 99, some true), (0x10, 3, 3, some false), (0x01, 3, 99, none)].all fun (p : Nat × Nat × Nat × Option Bool) =>
    let t := tL [(4, 0x80040)]; let s := st t (kL p.1 p.2.1 p.2.2.1)
    match s.loadGlobal 0 ((List.range 64).map fun i => 0x100040 + i) with
    | .ok bytes s' => let h := leNat bytes; let live := w64 (dfield h 48 6)
      (match p.2.2.2 with
        | none => !headerOk h && traps (.launchH ⟨4, 6, .always⟩) s 0 t 1 0x80040
        | some true => headerOk h && (match headerParts h 0 with
          | q :: ps => answers (exec (.launchH ⟨4, 6,
            .always⟩) s) ((s'.send (.core 0) (.core q.1) .request (.launch (s.requester 0 t) q.2 live none)).stalledOn 0 (s'.core 0) t (.parts 6 (q :: ps) live 0 true 0))
          | [] => false)
        | some false => headerOk h && (headerParts h 0).isEmpty && answers (exec (.launchH ⟨4, 6, .always⟩) s) (s'.retire 0 (s'.core 0) (t.setReg 6 0) 2))
    | _ => false) = true := by decide +kernel

/-- Launching, the target: no template, accepted, full, and of another context. -/
theorem witness_Launching_arrival : (let h0 : Handler := { Handler.reset with v := true, pc := 5 }
    [((fun (k : Core) => k), 2), (fun k => { k with sched := { k.sched with handlers := [(0, h0)] } }, 0),
      (fun k => { k with sched := { k.sched with handlers := [(0, h0)], held := 1000 } }, 1),
     (fun k => { k with ctx := some 3 }, 4)].all fun (p : (Core → Core) × Nat) => let s := own p.1 0 (.launch (rq 0) (rng 3 4) 0xF0 none)
    launchStatus (s.core 5) (some 0) == p.2 &&
    answers (exec (.launchArrival 0) s) (if p.2 = 0 then ((s.drop 0).onCore 5 fun k =>
      { k.pushRange (rng 3 4) with regs := { k.regs with live := k.regs.live ||| 0xF0 } }).send (.core 5) (.core 0) .reply (.launchAns false none 0)
      else (s.drop 0).send (.core 5) (.core 0) .reply (.launchAns false none p.2))) = true := by decide +kernel

/-- Launching, the answers: to LAUNCH, to the last part of a header, to a part that met a full deque, to a window; and the retry. -/
theorem witness_Launching_answers : (let w : Wait := .value 6 false 64 2 false; let s := withNet (stalled w) (pk (.core 5) (.core 0) .reply (.launchAns false none 2))
      answers (exec (.launchAnswer 0) s) ((s.drop 0).resumed 0 false (ts w) 6 2)) ∧
    ([0, 1, 2].all fun n => let w : Wait := .parts 6 [(5, rng 3 4)] 9 3 true 0; let s := withNet (stalled w) (pk (.core 5) (.core 0) .reply (.launchAns false none n))
      answers (exec (.launchAnswer 0) s) (if n = 1 then (s.drop 0).withTask 0 false { ts w with wait := .parts 6 [(5, rng 3 4)] 9 3 false 256 } else (s.drop 0).resumed 0 false (ts w) 6 (w64 (if n = 0 then 3 else 4)))) ∧
    (let s := withNet State.reset (pk (.core 5) .hostAgent .reply (.launchAns false (some 7) 1)); answers (exec (.launchAnswer 0) s) ((s.drop 0).windowAnswer 7 1)) ∧
    (let w : Wait := .parts 6 [(5, rng 3 4), (6, rng 4 5)] 9 3 false 5; let s := stalled w fun k => { k with regs := { k.regs with cyc := 5 } }
      (s.core 0).overBudget (ts w) = false ∧ answers (exec (.launchPartRetry 0) s) ((s.send (.core 0) (.core 5) .request
        (.launch { core := 0, hi := false, ctx := some 0, sup := false } (rng 3 4) 9 none)).withTask 0 false { ts w with wait := .parts 6 [(5, rng 3 4), (6, rng 4 5)] 9 3 true 0 })) := by decide +kernel

/-- Launching, the window of core 9: a launch to perform, and a write of GO. -/
theorem witness_Launching_window : (let go : W := 0x00070055; let w : Window := { Window.reset with queue := [⟨1, 2, go, 0⟩, ⟨3, 4, go, 0⟩] };
    let s := { State.reset with windows := [(9, w)] }
    w.flying = false ∧ s.launchWaits ⟨1, 2, go, 0⟩ = false ∧ go.bits 63 32 = 0 ∧ go.getLsbD 15 = false ∧
    answers (exec (.launchWindowPerform 9) s) ({ s with windows := [(9, { w with queue := [⟨3, 4, go, 0⟩], flying := true })] }.send .hostAgent (.core 9) .request
      (.launch { core := 9, hi := false, ctx := some 7, sup := true } ⟨0, 1, { pc := 0x55, arg0 := 1, arg1 := 2, widths := [0, 0, 0, 0, 0, 0] }, 9, false⟩ 0 (some 9))) ∧
    answers (exec (.launchWindowGo 9 1 2 3) State.reset) (State.reset.windowWrite 9 1 2 3 0)) := by decide +kernel

/-- Launching: an answer with parts left asks the next core; a window's bad GO completes with 3; a write of GO beside eight launches gives 6. -/
theorem witness_Launching_parts : (let w : Wait := .parts 6 [(5, rng 3 4), (6, rng 4 5)] 9 3 true 0
    ([0, 2].all fun n => let s := withNet (stalled w) (pk (.core 5) (.core 0) .reply (.launchAns false none n))
      !(s.core 0).overBudget (ts w) && answers (exec (.launchAnswer 0) s) (((s.drop 0).send (.core 0) (.core 6) .request
        (.launch { core := 0, hi := false, ctx := some 0, sup := false } (rng 4 5) 9 none)).withTask 0 false { ts w with wait := .parts 6 [(6, rng 4 5)] 9 (if n = 0 then 3 else 4) true 0 })) = true ∧
    ([(0x8000 : W), 2 ^ 32].all fun go => let x : Window := { Window.reset with queue := [⟨1, 2, go, 0⟩] }; let s := { State.reset with windows := [(9, x)] }
      answers (exec (.launchWindowPerform 9) s) ({ s with windows := [(9, { x with queue := [] })] }.windowAnswer 9 3)) = true ∧
    (let x : Window := { Window.reset with queue := List.replicate 8 ⟨1, 2, 3, 0⟩ }; let s := { State.reset with windows := [(9, x)] }
      8 ≤ (s.window 9).queue.length ∧ State.reset.booting = false ∧ (State.reset.window 9).queue.length < 8 ∧
      s.windowWrite 9 1 2 3 0 = { s with windows := [(9, { x with arg0 := 1, arg1 := 2, result := 6 })] })) := by decide +kernel

end Sys2Proof.Tests.Tasks

/-! ## Barrier records, tile exchange and matrix commands -/

namespace Sys2Proof.Tests.Units
open Sys2Proof.Machine Sys2Proof.Tests

/-- A task that arrives with 64 bytes at the record at offset 0x100 of its scratchpad. -/
def tB (w : Wait := .none) : Task := { Task.enter false 0 0 [] with x := [(4, 0x9000000000000100), (5, 64)], wait := w }
/-- A record: EXPECTED, ARRIVED, PHASE, SCOPE, BYTES. -/
def rec0 (expected arrived phase scope bytes : Nat) : Nat := phase + expected * 2 ^ 12 + arrived * 2 ^ 32 + scope * 2 ^ 53 + bytes * 2 ^ 64

/-- BarrierSteps, BARV and BARW: the place; BARV asks, arrives once its release is done, and BARW parks. -/
theorem witness_BarrierSteps : Issues (at0 (tB)) 0 (tB) ∧ OwnAt (at0 (tB)) 0 (tB) .atomic 0x9000000000000100 16 0 0x100 ∧ (0x9000000000000100 : W).toNat % 16 = 0 ∧
    (tB).carried = false ∧ ((at0 (tB (.barv 6 3))).core 0).l1.ungranted = false ∧
    RecordAtAddress (at0 (tB)) 0 (tB) 0x9000000000000100 (.core 0) none ∧ (∀ d st, (tB).wait ≠ .barv d st) ∧
    (let t := tB; let s := at0 t; answers (exec (.barv ⟨5, 4, 6,
      .always⟩) s) ((s.send (.core 0) (.core 0) .request (.barRead (s.requester 0 t) (t.reg 4).toNat none)).stalledOn 0 (s.core 0) t (.barv 6 1)) ∧
    answers (exec (.barw ⟨5, 4, 6, .always⟩) s) ((s.send (.core 0) (.core 0) .request (.barPark (s.requester 0 t) (t.reg 4).toNat none 64)).stalledOn 0 (s.core 0) t (.barw 6))) ∧
    ([2, 3].all fun n => let t := tB (.barv 6 n); let s := at0 t
      answers (exec (.barv ⟨5, 4, 6, .always⟩) s) ((s.send (.core 0) (.core 0) .request (.barUpdate (s.requester 0 t) (t.reg 4).toNat none 64)).stalledOn 0 (s.core 0) t (.barv 6 6))) = true :=
  ⟨issues_at0 _, ⟨rfl, by decide +kernel, (by intro p h; cases h), by decide +kernel⟩, by decide, rfl, by decide +kernel,
    ⟨by decide, (by intro p h; cases h), .inl ⟨0, 0, 0x100, rfl, fun _ => by decide +kernel, rfl, rfl⟩⟩, (by intro d st h; cases h), by decide +kernel, by decide +kernel⟩

/-- BarrierSteps: a record of global memory, and one of core 5. -/
theorem witness_BarrierSteps_places : (let t : Task := { tB with x := [(4, 0x80100), (5, 64)] }
    let s := withCore { core0 t with tlb := [⟨0, false, 0, 1, 2, true, true⟩] }
    Issues s 0 t ∧ RecordAtAddress s 0 t 0x80100 (.slice (homeOf 0x100100)) (some 0x100100) ∧
    RecordAtAddress (at0 tB) 0 tB (w64 (ad 0 0x100)) (.core 5) none) :=
  ⟨⟨rfl, rfl, rfl, rfl, rfl, rfl⟩, ⟨by decide, (by intro p h; cases h), .inr ⟨0x80100, 0x100100, rfl, rfl, rfl, rfl⟩⟩,
    ⟨by decide, (by intro p h; cases h), .inl ⟨5, 0, 0x100, rfl, (fun h => by cases h), rfl, rfl⟩⟩⟩

/-- BarrierSteps: BARV in each of its waits for the release, with a store that waits for its grant. -/
theorem witness_BarrierSteps_release : ([3, 4, 5].all fun n => let t := tB (.barv 6 n)
    let k : Core := { core0 t with l1 := { lines := [(0x1000, { vas := [], units := [], old := [], sv := 15, reg := 0, drt := 0, pend := 1, bytes := 15, hs := [], psn := 0, lv := 3, data := [], used := 0 })], missing := [], wb := [], clock := 5 } }
    k.l1.ungranted && answers (exec (.barv ⟨5, 4, 6, .always⟩) (withCore k)) ((withCore k).issue 0 false) &&
    answers (exec (.barv ⟨5, 4, 6, .always⟩) (at0 t)) (((at0 t).send (.core 0) (.core 0) .request (.barUpdate ((at0 t).requester 0 t) (t.reg 4).toNat none 64)).stalledOn 0 ((at0 t).core 0) t (.barv 6 6))) = true := by
  decide +kernel

/-- Core 5 with the record `r` and a packet of core 0. -/
def sp (r : Nat) (b : Body) : State := own (fun k => { k with lcl := { k.lcl with spad := Memory.writeN [] 0x100 (leBytes 16 r) } }) 0 b

/-- BarrierRequests, the port: a read, an update of a bad record and of a good one, a phase that has moved on and one that has not. -/
theorem witness_BarrierRequests_port : (let v := rec0 2 0 5 1 0; let bad := v + 2 ^ 63; let a := ad 0 0x100
    let reply := fun (s : State) (vals : List Nat) => s.send (.core 5) (.core 0) .reply (.reply false vals)
    ((sp v (.barRead (rq 0) a none)).core 5).arrivalCheck (rq 0) .atomic a 16 = none ∧ recordBad (v % 2 ^ 64) = false ∧ recordBad bad = true ∧
    answers (exec (.barrierUpdate 0) (sp v (.barRead (rq 0) a none))) (reply ((sp v (.barRead (rq 0) a none)).drop 0) [v % 2 ^ 64]) ∧
    answers (exec (.barrierUpdate 0) (sp bad (.barUpdate (rq 0) a none 64))) (reply ((sp bad (.barUpdate (rq 0) a none 64)).drop 0) []) ∧
    gives (exec (.barrierUpdate 0) (sp v (.barUpdate (rq 0) a none 64))) (fun u => leNat ((u.core 5).lcl.spad.readN 0x100 16) == rec0 2 1 5 1 64) ∧
    answers (exec (.barrierPark 0) (sp v (.barPark (rq 0) a none 4))) (reply ((sp v (.barPark (rq 0) a none 4)).drop 0) [5, 1]) ∧
    answers (exec (.barrierPark 0) (sp v (.barPark (rq 0) a none 5))) (((sp v (.barPark (rq 0) a none 5)).drop 0).onCore 5 fun x =>
      { x with lcl := { x.lcl with barWait := [⟨rq 0, 0x100, 5⟩] } })) := by
  decide +kernel

/-- BarrierRequests: the last arrival wakes the parked task, and the port has had its turn. -/
theorem witness_BarrierRequests_wakes : (let v := rec0 2 1 5 1 (2 ^ 64 - 64); let a := ad 0 0x100
    let s := own (fun k => { k with lcl := { k.lcl with spad := Memory.writeN [] 0x100 (leBytes 16 v), barWait := [⟨rq 7, 0x100, 5⟩] } }) 0 (.barUpdate (rq 0) a none 64)
    recordBad (v % 2 ^ 64) = false ∧ (recordArrive (v % 2 ^ 64) (v / 2 ^ 64) 64).2.2 = true ∧ ((s.core 5).lcl.load 0 0x100 16).map leNat = some v ∧
    gives (exec (.barrierUpdate 0) s) fun u => u.net.map (·.dst) == [.core 7, .core 0] && (u.core 5).lcl.barWait.isEmpty) := by decide +kernel

/-- A home with the record `r` at 0x100100, whose line it holds, and a packet of core 0. -/
def hB (r : Nat) (b : Body) : State := { withNet State.reset (pk (.core 0) (.slice 0x11) .request b) with mem := Memory.writeN [] 0x100100 (leBytes 16 r), slices := [(homeOfLine 0x1001, { Slice.reset with present := [0x1001] })] }

/-- BarrierRequests, the home: a read, an update, a park on another phase and on this one. -/
theorem witness_BarrierRequests_home : (let v := rec0 2 0 5 1 0;
    let reply := fun (s : State) (vals : List Nat) => s.send (.slice 0x11) (.core 0) .reply (.reply false vals)
    let p := some 0x100100; let rd := hB v (.barRead (rq 0) 0x80100 p); let up := hB v (.barUpdate (rq 0) 0x80100 p 64);
      let pk := fun n => hB v (.barPark (rq 0) 0x80100 p n)
    (rd.drop 0).bad (0x100100 / 64) = false ∧ leNat ((rd.drop 0).bytesNow 0x100100 16) = v ∧
    ((match (rd.drop 0).ready [(0x100100, 16)] false, (up.drop 0).readyHome [(0x100100, 16)] true, ((pk 4).drop 0).ready [(0x100100, 16)] false with | .ok, .ok, .ok => true | _, _, _ => false) = true) ∧
    answers (exec (.barrierUpdate 0) rd) (reply (rd.drop 0) [v % 2 ^ 64]) ∧
    gives (exec (.barrierUpdate 0) up) (fun u => leNat (u.bytesNow 0x100100 16) == rec0 2 1 5 1 64 && u.net.map (·.dst) == [.core 0]) ∧
    answers (exec (.barrierPark 0) (pk 4)) (reply ((pk 4).drop 0) [5, 1]) ∧
    answers (exec (.barrierPark 0) (pk 5)) { (pk 5).drop 0 with homeBar := [⟨rq 0, 0x100100, 5⟩] }) := by decide +kernel

/-- BarrierAnswers: a reserved bit at either step, and the answer that wakes BARW, which acquires at its SCOPE. -/
theorem witness_BarrierAnswers_more : (let at_ := fun (w : Wait) (l : List Nat) => withNet (stalled w) (pk (.core 5) (.core 0) .reply (.reply false l))
    let bad := rec0 2 0 5 1 0 + 2 ^ 63; let a := at_ (.barv 6 1) [bad]; let b := at_ (.barv 6 6) []; let c := at_ (.barw 6) [5, 3]
    recordBad bad = true ∧
    answers (exec (.remoteReply 0) a) ((a.drop 0).withTask 0 false { ts (.barv 6 1) with wait := .none, fail := some ⟨1, wordHere a 0 (ts (.barv 6 1))⟩ }) ∧
    answers (exec (.remoteReply 0) b) ((b.drop 0).withTask 0 false { ts (.barv 6 6) with wait := .none, fail := some ⟨1, wordHere b 0 (ts (.barv 6 6))⟩ }) ∧
    answers (exec (.remoteReply 0) c) (((c.drop 0).acquire 0 (scopeOf 3)).resumed 0 false (ts (.barw 6)) 6 5)) := by decide +kernel

/-- R303: the last arrival advances PHASE and takes EXPECTED from ARRIVED; it does not while bytes are owed. -/
theorem test_recordArrive : recordArrive (rec0 2 1 4095 1 0) 64 (2 ^ 64 - 64) = (rec0 2 0 0 1 0, 0, true) ∧
    recordArrive (rec0 2 1 5 1 0) 64 0 = (rec0 2 2 5 1 0, 64, false) := by decide +kernel

/-- BarrierAnswers, the answers at the issuer. -/
theorem witness_BarrierAnswers : (let v := rec0 2 0 5 1 0
    let s := withNet (stalled (.barv 6 1)) (pk (.core 5) (.core 0) .reply (.reply false [v]));
      let u := withNet (stalled (.barv 6 6)) (pk (.core 5) (.core 0) .reply (.reply false [v]))
    recordBad v = false ∧ v < 2 ^ 64 ∧ answers (exec (.remoteReply 0) s) ((s.drop 0).withTask 0 false { ts (.barv 6 1) with wait := .barv 6 3 }) ∧
    answers (exec (.remoteReply 0) u) ((u.drop 0).resumed 0 false (ts (.barv 6 6)) 6 (w64 v))) := by decide +kernel

/-- A task with the offset 0x100 for TSWAP, on core 4 and on its mirror, core 64. -/
def tT : Task := { Task.enter false 0 0 [] with x := [(4, 0x9000000000000100)] }
/-- The machine. -/
def swS (f : Core → Core := id) (g : Core → Core := id) : State := { State.reset with cores := [(4, f (core0 tT)), (64, g (core0 tT))], turn := .core 4 false }

/-- TileExchange: a core on the diagonal, a core whose mirror has and has not issued. -/
theorem witness_TileExchange : Issues (swS) 4 tT ∧ mirrorOf 4 = 64 ∧ mirrorOf 0 = 0 ∧
    (match ownPlace 4 false (tT.reg 4) with | .ok (w, off) => decide ((w, off) = (0, 0x100)) | _ => false) = true ∧
    ((swS).core 4).lcl.configured 0 = true ∧ (tT.reg 4).toNat % 64 = 0 ∧ 0x100 + 2048 ≤ Config.spadSize ∧ (swS).net = [] ∧
    answers (exec (.tswap ⟨4, .always⟩) (at0 tT)) ((at0 tT).retire 0 ((at0 tT).core 0) tT 2) ∧
    (let s := swS; let u := (s.onCore 4 fun k => { k with tswSent := 1, tswOff := some 0x100, tswTile := false }).send (.core 4) (.core 64) .request (.tswap 1)
      answers (exec (.tswap ⟨4, .always⟩) s) (u.stalledOn 4 (u.core 4) tT (.tswap 1))) :=
  ⟨⟨rfl, rfl, rfl, rfl, rfl, rfl⟩, by decide, by decide, by decide +kernel, by decide +kernel, by decide, by decide, rfl, by decide +kernel, by decide +kernel⟩

/-- TileExchange: the mirror has issued already. -/
theorem witness_TileExchange_second : (let s := swS fun k => { k with tswGot := 1 };
    let b := (s.onCore 4 fun k => { k with tswSent := 1, tswOff := some 0x100, tswTile := false }).send (.core 4) (.core 64) .request (.tswap 1)
    (s.core 4).tswSent + 1 ≤ (s.core 4).tswGot ∧ s.portOwes 4 = false ∧ ((swS).core 4).tswGot ≤ ((swS).core 4).tswSent ∧
    answers (exec (.tswap ⟨4, .always⟩) s) (let u := b.sendSwap 4 1; u.stalledOn 4 (u.core 4) tT (.tswap 1))) := by decide +kernel

/-- TileExchange, the arrivals: of the mirror's request, and of its tile, when the own tile has arrived there and when not. -/
theorem witness_TileExchange_arrivals : ([0, 1].all fun sent =>
    let s := withNet (swS fun k => { k with tswSent := sent, tswOff := some 0x100 }) (pk (.core 64) (.core 4) .request (.tswap 1))
      let s' := (s.drop 0).onCore 4 fun k => { k with tswGot := 1 }
      answers (exec (.tswapArrival 0) s) (if 1 ≤ sent then s'.sendSwap 4 1 else s')) = true ∧
    ([true, false].all fun o => let tw := { tT with wait := .tswap 1, stalled := true }
      let s := withNet (swS (fun k => { k with lo := some tw, tswSent := 1, tswGot := 1, tswOff := some 0x100 }) (fun k => { k with lo := some tw, tswSent := 1, tswGot := 1, tswOff := some 0x200, tswTile := o })) (pk (.core 64) (.core 4) .bulk (.tswapTile 1 [1, 2, 3] [1]))
      let s' := (s.drop 0).setCore 4 { s.core 4 with lcl := (s.core 4).lcl.writeSwap 0x100 [1, 2, 3] [1], tswTile := true }
      (s.core 4).tswOff == some 0x100 && decide (1 ≤ (s.core 4).tswGot) &&
        answers (exec (.tswapTileArrival 0) s) (if o then (s'.endSwap 4).endSwap 64 else s')) = true := by decide +kernel

/-- Matrix-command operands: X8 to X11, the completion word's address in X11. -/
def tMx (done : W) (sup : Bool := false) : Task := { Task.enter false 0 0 [] with x := [(4, 5), (8, 0x55), (9, 0x1A1), (10, 3), (11, done)], sup := sup }

/-- MatrixCommands, CAPSET and MXCMD: no completion word, one in the own scratchpad, and a core out of range. -/
theorem witness_MatrixCommands_issue : Issues (at0 (tMx 0 true)) 0 (tMx 0 true) ∧ (tMx 0).reg 11 = 0 ∧ (tMx 0x9000000000000108).reg 11 ≠ 0 ∧
    (match decodeAddr 0 false 0x9000000000000108 8 with | .ok (.loc c w off) => decide ((c, w, off) = (0, 0, 0x108)) | _ => false) = true ∧
    Local.reset.windowCheck .atomic false 0 0x108 8 = none ∧ (0x9000000000000108 : W).toNat % 8 = 0 ∧
    (let t := tMx 0 true; let u := (at0 t).onCore 0 fun k => { k with regs := { k.regs with cap := 5 } };
      answers (exec (.capset ⟨4, .always⟩) (at0 t)) (u.retire 0 (u.core 0) t 2)) ∧
    ([(0, 0), (0x9000000000000108, localAddr 0 0 0x108)].all fun (p : W × Nat) => let t := tMx p.1; let s := at0 t
      answers (exec (.mxcmd ⟨8, 4, 6, .always⟩) s) ((s.send (.core 0) (.core 5) .request (.mxcmd (s.requester 0 t) 0x55 0x1A1 3 (w64 p.2))).stalledOn 0 (s.core 0) t (.value 6 false 64 2 false))) = true ∧
    (let t : Task := { tMx 0 with x := [(4, 1024)] }; 1024 ≤ (t.reg 4).toNat ∧ traps (.mxcmd ⟨8, 4, 6, .always⟩) (at0 t) 0 t 1 (wordHere (at0 t) 0 t)) :=
  ⟨issues_at0 _, by decide, by decide, by decide +kernel, by decide +kernel, by decide, by decide +kernel, by decide +kernel, by decide +kernel⟩

/-- MatrixCommands, the target: each status; MMA of tile 0 is the word 0x1A1, and with a nonzero field a it is no command. -/
theorem witness_MatrixCommands_arrival : ([(0x55, some 0, 0x1A1, 0), (0x54, some 0, 0x1A1, 2), (0x55, some 1, 0x1A1, 4),
    (0x55, some 0, 0x201A1, 3)].all fun (p : W × Option Nat × W × Nat) =>
    let s := own (fun k => { k with regs := { k.regs with cap := 0x55 }, lcl := { k.lcl with win := [(1, w64 (2 ^ 63 + 2 ^ 44))] }, vu := { k.vu with cur := some { bytes := 0x4000, fmt := .f16, scales := [], tscale := 7 } } }) 0 (.mxcmd { rq 0 with ctx := p.2.1 } p.1 p.2.2.1 0x9000400000000100 7)
    commandStatus (s.core 5) 5 p.2.1 p.1 p.2.2.1 0x9000400000000100 == p.2.2.2 &&
    answers (exec (.mxcmdArrival 0) s) (if p.2.2.2 = 0 then ((s.drop 0).onCore 5 fun k =>
      { k with mxq := [⟨0x1A1, 0x9000400000000100, 7, 0⟩] }).send (.core 5) (.core 0) .reply (.mxStatus false 0)
      else (s.drop 0).send (.core 5) (.core 0) .reply (.mxStatus false p.2.2.2))) = true := by decide +kernel

/-- MatrixCommands, the status at the issuer, and a command that executes with and without a completion word. -/
theorem witness_MatrixCommands_execute : (let w : Wait := .value 6 false 64 2 false; let s := withNet (stalled w) (pk (.core 5) (.core 0) .reply (.mxStatus false 2))
      answers (exec (.mxcmdStatus 0) s) ((s.drop 0).resumed 0 false (ts w) 6 2)) ∧
    ([(0 : W), 0x77].all fun done => let s := withCore { Core.reset with ctx := some 0, mxq := [⟨0x200021A1, 0, done, 3⟩, ⟨0x1A1, 0, done, 3⟩], vu := { VecUnit.reset with t := [(0, 5)] } }
      match (s.core 0).command? with
      | some (m, rest) => (match matCmd? (w64 m.word.toNat) with
        | some (.tzero td) => let k := s.core 0;
          let s' := s.setCore 0 { k with mxq := rest, vu := { (k.vu.setTile td.toNat 0).setScales td.toNat f32One f32One with mxWait := false } }
          answers (exec (.mxcmdExecute 0) s) (if m.done = 0 then s' else s'.send (.core 0) (.core 3) .request (.mxDone { core := 0, hi := false, ctx := some 0, sup := true } 0x77))
        | _ => false)
      | none => false) = true := by decide +kernel

/-- MatrixCommands: CLWAIT with a latch that came, CLLD of an operand, MMA of a poisoned one, and CLWAIT with none. -/
theorem witness_MatrixCommands_execute_latch : (let lt : LatchTile := { bytes := 0x4000, fmt := .f16, scales := [], tscale := 7 }
    let st := fun (word : BitVec 32) (po : List (Nat × Bool)) (inc : Option (Nat × LatchTile)) => withCore { Core.reset with ctx := some 0, mxq := [⟨word, 0x9000400000000100, 0, 3⟩], lcl := { Local.reset with win := [(1, w64 (2 ^ 63 + 2 ^ 44))], poison := po }, vu := { VecUnit.reset with inc := inc, cur := some lt } }
    let mm := st 0x1A1 [(0x20, true)] none; let cl := st 0x1A9 [] none; let cw := st 0x200001A9 [] (some (9, lt)); let no := st 0x200001A9 [] none
    let run := fun (s : State) => s.setCore 0 { s.core 0 with mxq := [], vu := { (s.core 0).vu with mxWait := false } }
    let vx := fun (s : State) => (⟨run s, 0, (run s).core 0, none, fun _ _ => 0, true, 0, 0, none, [], []⟩ : Vx)
    ([(mm, MatCmd.mma 0), (cl, .clld), (cw, .clwait), (no, .clwait)].all fun p => (p.1.core 0).command?.any fun m => decide (matCmd? (w64 m.1.word.toNat) = some p.2) &&
      m.2.isEmpty) = true ∧
    (match (MatCmd.mma 0).body 0x9000400000000100 (vx mm) with | .trap code v => code == 0x22 && answers (exec (.mxcmdExecute 0) mm) ((run mm).pending 0 0x22 v) | _ => false) = true ∧
    (match operandCheck 0 true (cl.core 0).lcl 0x9000400000000100 with
     | .ok p => p == (1, 0x100) && !(run cl).portOwes 0 && (match (cl.core 0).lcl.operand 0x9000400000000100 1 0x100 with
      | .ok x => answers (exec (.mxcmdExecute 0) cl) (((run cl).ownAccess 0).setCore 0 { ((run cl).ownAccess 0).core 0 with vu := { ((run cl).core 0).vu with cur := some x } })
      | _ => false)
     | _ => false) = true ∧
    (cw.core 0).vu.inc = some (9, lt) ∧ answers (exec (.mxcmdExecute 0) cw) (((run cw).setCore 0 { (run cw).core 0 with vu := { ((run cw).core 0).vu with cur := some lt, inc := none } }).send (.core 0) (.core 9) .request .credit) ∧
    (match MatCmd.clwait.body 0 (vx no) with | .wait _ => answers (exec (.mxcmdExecute 0) no) no | _ => false) = true) := by decide +kernel

end Sys2Proof.Tests.Units

/-! ## Copies, reductions and multicast -/

namespace Sys2Proof.Tests.Copies
open Sys2Proof.Machine Sys2Proof.Tests

/-- A control word: length, index offset, count, and the bits above. -/
def ctlW (len idx count hi : Nat) : W := w64 (len + idx * 2 ^ 18 + count * 2 ^ 36 + hi)

/-- LOC is core 0's scratchpad offset 0x100 (window 0); X8 LOC, X9 FAR, X10 CTL, X11 AUX. -/
def tCopy (far ctl aux : W) : Task := { Task.enter false 0 0 [] with x := [(8, w64 (localAddr 0 0 0x100)), (9, far), (10, ctl), (11, aux)] }

/-- Core 0 with that task. -/
def sCopy (far ctl aux : W) : State := at0 (tCopy far ctl aux)

/-- The operands of every copy here. -/
def cf : CopyForm := ⟨3, 8, 6, .always⟩

/-- The step that the clause gives. -/
noncomputable def copyOk (e : (CopyForm → Instr) × CopyOp) (s : State) (t : Task) (here : Nat) (place : Spot) (rec : Option (Nat × Option Nat)) : Bool :=
  let c := 0
  let x := copyXfer e.2 cf s c t here place rec
  let s1 := ((e.2.atPort s c).issueXfer c x cf.d (s.core c).regs.mcs).settleXfer s.xfers.length
  let s2 := if x.pieces = [] ∧ rec = none then s1.completeXfer s.xfers.length else s1
  answers (exec (e.1 cf) s) (s2.retire c (s2.core c) (t.setReg cf.d (w64 x.id)) (t.pc + 2))

/-- Copies, what a linear copy needs to be issued. -/
theorem witness_LinearCopies_ready : CopyReady .get cf (sCopy 0x1080 (ctlW 0x200 0 0 0) 0) 0 (tCopy 0x1080 (ctlW 0x200 0 0 0) 0) (localAddr 0 0 0x100) (.global 0x1080) none :=
  ⟨rfl, by decide +kernel, by decide +kernel, (by intro h; simp [CopyOp.indexed] at h), by rfl, by rfl, by decide +kernel, fun _ => by rfl, by simp, by decide +kernel,
    by decide +kernel,
    by simp [CopyOp.indexed]⟩

/-- Copies, GET and PUT of 512 bytes. -/
theorem witness_LinearCopies_plain : ([(.get, .get), (.put, .put)] : List ((CopyForm → Instr) × CopyOp)).all (fun e =>
    copyOk e (sCopy 0x1080 (ctlW 0x200 0 0 0) 0) (tCopy 0x1080 (ctlW 0x200 0 0 0) 0) (localAddr 0 0 0x100) (.global 0x1080) none) = true := by decide +kernel

/-- Copies, GET and PUT of no byte. -/
theorem witness_LinearCopies_empty : ([(.get, .get), (.put, .put)] : List ((CopyForm → Instr) × CopyOp)).all (fun e =>
    copyOk e (sCopy 0x1080 (ctlW 0 0 0 0) 0) (tCopy 0x1080 (ctlW 0 0 0 0) 0) (localAddr 0 0 0x100) (.global 0x1080) none) = true := by decide +kernel

/-- Copies, GET and PUT with a record to decrement. -/
theorem witness_LinearCopies_record : ([(.get, .get), (.put, .put)] : List ((CopyForm → Instr) × CopyOp)).all (fun e => [0x200, 0].all fun n =>
    copyOk e (sCopy 0x1080 (ctlW n 0 0 0) (w64 (localAddr 5 0 0x40))) (tCopy 0x1080 (ctlW n 0 0 0) (w64 (localAddr 5 0 0x40))) (localAddr 0 0 0x100) (.global 0x1080) (some (localAddr 5 0 0x40, none))) = true := by decide +kernel

/-- Core 0 with an index list at offset 0x800. -/
def idxS (far ctl aux : W) : State := withCore { core0 (tCopy far ctl aux) with lcl := { Local.reset with spad := Memory.writeN [] 0x800 (leBytes 4 0x40 ++ leBytes 4 0xFFFFFF00 ++ leBytes 4 0x100000) } }

/-- Copies, GETX, PUTX and PUTXA of three elements. -/
theorem witness_LinearCopies_indexed : ([(.getx, .getx), (.putx, .putx), (.putxa, .putxa)] : List ((CopyForm → Instr) × CopyOp)).all (fun e =>
   [(0x1080 : W), w64 (localAddr 5 0 0x200)].all fun far =>
   let ctl := ctlW 0x40 0x800 3 0
   let place : Spot := if far = 0x1080 then .global 0x1080 else .scratch (localAddr 5 0 0x200)
   copyOk e (idxS far ctl 0) (tCopy far ctl 0) (localAddr 0 0 0x100) place none) = true := by decide +kernel

/-- Copies, what PUTXA needs to be issued. -/
theorem witness_LinearCopies_ready_indexed : (let ctl := ctlW 0x40 0x800 3 0;
    CopyReady .putxa cf (idxS 0x1080 ctl 0) 0 (tCopy 0x1080 ctl 0) (localAddr 0 0 0x100) (.global 0x1080) none) :=
  ⟨rfl, by decide +kernel, by decide +kernel, (by intro _; exact ⟨by decide +kernel, by decide +kernel, fun p hp => absurd hp (by simp [idxS, withCore, State.reset])⟩),
    by rfl, by rfl,
    by decide +kernel, fun _ => by rfl, (by intro _; rfl), by decide +kernel, by decide +kernel, fun _ => by decide +kernel⟩

/-- The step that the clause on PUTR gives. -/
noncomputable def putrOk (s : State) (t : Task) (here : Nat) (place : Spot) (rec : Option (Nat × Option Nat)) : Bool :=
  let c := 0; let f := cf
    let w := ctlOf (t.ctl f)
    let x := { copyXfer .putr f s c t here place rec with pieces := [], group := some (w.count, 0, w.rop, w.rty), deadline := some (s.group w.count).slack, chunks := if w.len = 0 then 1 else 0 }
    let s1 := ((s.issueXfer c x f.d (s.core c).regs.mcs).joinRound s.xfers.length w.count c).settleXfer s.xfers.length
    let s2 := if w.len = 0 ∧ rec = none then s1.completeXfer s.xfers.length else s1
    answers (exec (.putr f) s) (s2.retire c (s2.core c) (t.setReg f.d (w64 x.id)) (t.pc + 2))

/-- Copies, PUTR to a group: none, of this core, down, another. -/
theorem witness_LinearCopies_reduction : ([none, some ⟨true, false, 5, [0, 3], [], []⟩, some ⟨true, true, 5, [0, 3], [], []⟩,
    some ⟨true, false, 5, [3, 0], [(1, 4)], []⟩] : List (Option Group)).all (fun g => [0x80, 0].all fun len =>
   let ctl := ctlW len 0 7 (2 ^ 51 * 3 + 2 ^ 49)
   let s := sCopy 0x2000 ctl 0
   let s := match g with | none => s | some g => { s with groups := [(7, g)] }
   putrOk s (tCopy 0x2000 ctl 0) (localAddr 0 0 0x100) (.global 0x2000) none) = true := by decide +kernel

/-- Core 0 with two multicast slots, their counters `mcs`. -/
def mcS (ctl : W) (aux : W) (mcs : Tbl Nat) : State := withCore { core0 (tCopy (w64 (localAddr 0 0 0x300)) ctl aux) with regs := { Regs.reset with mcr := [(0, 0xC005 + 0xA009 * 2 ^ 32)], mcs := mcs } }

/-- Copies, MCAST to two cores, with credit. -/
theorem witness_LinearCopies_multicast : ([[(0, 3), (2, 1)], [(0, 1), (2, 4)]] : List (Tbl Nat)).all (fun q => [0x80, 0].all fun len =>
   let ctl := ctlW len 0 0 0; let aux : W := 5
   let s := mcS ctl aux q
   let t := tCopy (w64 (localAddr 0 0 0x300)) ctl aux
   let here := localAddr 0 0 0x100; let a := localAddr 0 0 0x300; let f := cf; let c := 0
    let n := (ctlOf (t.ctl f)).len
    let slots := maskList 16 (t.aux f).toNat
    let x := { copyXfer .mcast f s c t here (.scratch a) none with
      pieces := slots.flatMap fun j => piecesOf false here (.scratch (localAddr (bitsOf ((s.core c).regs.mcrAt j) 9 0) (localParts a).2.1 (localParts a).2.2)) n,
      nominal := n * slots.length }
    let s1 := s.issueXfer c x f.d (slots.foldl (fun q j => Tbl.put 0 q j (Tbl.getD q j 0 - 1)) (s.core c).regs.mcs)
    let s2 := if n = 0 then s1.completeXfer s.xfers.length else s1
    answers (exec (.mcast f) s) (s2.retire c (s2.core c) (t.setReg f.d (w64 x.id)) (t.pc + 2))) = true := by decide +kernel

/-- Copies, what MCAST needs to be issued. -/
theorem witness_LinearCopies_ready_multicast : (let ctl := ctlW 0x80 0 0 0;
    CopyReady .mcast cf (mcS ctl 5 [(0, 3), (2, 1)]) 0 (tCopy (w64 (localAddr 0 0 0x300)) ctl 5) (localAddr 0 0 0x100) (.scratch (localAddr 0 0 0x300)) none) :=
  ⟨rfl, by decide +kernel, by decide +kernel, (by intro h; simp [CopyOp.indexed] at h), by rfl, by rfl, by decide +kernel, by simp, by simp, by decide +kernel,
    by decide +kernel,
    by simp [CopyOp.indexed]⟩

/-- A tensor of 8 by 4 elements of 4 bytes at 0x90000, rows 64 bytes apart, and a box of it at (−1, 0), 4 by 2. -/
def tensorD : Nat := 2 + 3 * 2 ^ 16 + 2 * 256 ^ 4 + 2 * 256 ^ 5 + 0x90000 * 256 ^ 8 + 8 * 256 ^ 16 + 4 * 256 ^ 20 + 256 ^ 24 + 256 ^ 28 + 64 * 256 ^ 32 + 0xAABBCCDD * 256 ^ 56
/-- The box record. -/
def boxR : List Byte := leBytes 48 (0x1003 + 0xFFFFFFFF * 256 ^ 8 + 4 * 256 ^ 24 + 2 * 256 ^ 28 + 256 ^ 32 + 256 ^ 36)
/-- The operands: FAR names the record; an index list of one entry for the indexed forms. -/
def tTen (ctl : W) : Task := tCopy (w64 (localAddr 0 0 0x400)) ctl 0
/-- The machine. -/
def sTen (ctl : W) (box : List Byte := boxR) : State :=
  { withCore { core0 (tTen ctl) with lcl := { Local.reset with spad := Memory.writeN (Memory.writeN [] 0x400 box) 0x800 (leBytes 4 2) }, regs := { Regs.reset with dtab := 0x80004 } } with
    mem := Memory.writeN [] 0x100040 (leBytes 64 tensorD), dieTlb := [(0, [⟨0, false, 0, 1, 2, true, true⟩])] }
/-- The control words of GET and PUT, and of the indexed forms with one entry. -/
def ctlT : W := w64 (2 ^ 56)
/-- With one entry at 0x800. -/
def ctlI : W := ctlW 0 0x800 1 (2 ^ 56)
/-- A box of one row. -/
def boxI : List Byte := leBytes 48 (0x1003 + 0xFFFFFFFF * 256 ^ 8 + 4 * 256 ^ 24 + 256 ^ 28 + 256 ^ 32 + 256 ^ 36)

/-- A plan, said by a test. -/
theorem planned {r : PlanRes} {p : Plan} {s : State} (h : (match r with | .ok q u => decide (q = p) && decide (u = s) | _ => false) = true) : r = .ok p s := by
  cases r <;> simp_all

/-- The plan of the box, and of its row 2. -/
def planT : Plan := { segs := [(.fill [0xDD, 0xCC, 0xBB, 0xAA], 4), (.global 0x90000, 12), (.fill [0xDD, 0xCC, 0xBB, 0xAA], 4), (.global 0x90040, 12)], len := 32, oob := 2, far := .global 0x90000, deadline := none, ro := false }
/-- The latter. -/
def planI : Plan := { segs := [(.fill [0xDD, 0xCC, 0xBB, 0xAA], 4), (.global 0x90080, 12)], len := 16, oob := 1, far := .global 0x90000, deadline := none, ro := false }

/-- TensorCopies: what GET and PUT need to be issued. -/
theorem witness_TensorCopies_ready (o : CopyOp) (h : o = .get ∨ o = .put) :
    TensorReady o cf (sTen ctlT) 0 (tTen ctlT) (localAddr 0 0 0x100) none planT ((sTen ctlT).issue 0 false) := by
  rcases h with rfl | rfl <;>
  exact ⟨rfl, by decide +kernel, by decide +kernel, (by intro h; simp [CopyOp.indexed] at h), by decide +kernel, planned (by decide +kernel), rfl, by decide +kernel,
    rfl, by simp,
    by decide +kernel, by decide +kernel⟩

/-- TensorCopies: what GETX needs to be issued. -/
theorem witness_TensorCopies_ready_indexed : TensorReady .getx cf (sTen ctlI boxI) 0 (tTen ctlI) (localAddr 0 0 0x100) none planI ((sTen ctlI boxI).issue 0 false) :=
  ⟨rfl, by decide +kernel, by decide +kernel, fun _ => ⟨by decide +kernel, by decide +kernel, fun p hp => absurd hp (by simp [sTen, withCore, State.reset])⟩,
    by decide +kernel,
    planned (by decide +kernel), rfl, by decide +kernel, rfl, by simp, by decide +kernel, by decide +kernel⟩

/-- The step that the clause on tensor copies gives. -/
noncomputable def tensorOk (e : (CopyForm → Instr) × CopyOp) (s : State) (t : Task) : Bool :=
  match ((s.issue 0 false).frame 0 t).planTensor e.2 (ctlOf (t.ctl cf)) (t.far cf) (e.2.list (s.core 0).lcl (ctlOf (t.ctl cf))) with
  | .ok p s1 =>
    let x := tensorXfer e.2 cf s1 0 t (localAddr 0 0 0x100) none p
    let s2 := ((s1.ownAccess 0).issueXfer 0 x cf.d (s1.core 0).regs.mcs).settleXfer s1.xfers.length
    let s3 := if x.pieces = [] then s2.completeXfer s1.xfers.length else s2
    answers (exec (e.1 cf) s) (s3.retire 0 (s3.core 0) (t.setReg cf.d (w64 x.id)) (t.pc + 2))
  | _ => false

/-- TensorCopies: the plan of the box, whose column −1 is out of bounds, and the copies that it gives. -/
theorem witness_TensorCopies : (([(.get, .get), (.put, .put)] : List ((CopyForm → Instr) × CopyOp)).all (fun e => tensorOk e (sTen ctlT) (tTen ctlT)) &&
    ([(.getx, .getx), (.putx, .putx)] : List ((CopyForm → Instr) × CopyOp)).all (fun e => tensorOk e (sTen ctlI boxI) (tTen ctlI)) &&
    (match ((sTen ctlT).frame 0 (tTen ctlT)).boxRecord .get (w64 (localAddr 0 0 0x400)) with
      | .ok (some b) => decide (b = { handle := 0x1003, c := [-1, 0, 0, 0], n := [4, 2, 1, 1] }) &&
        (match (sTen ctlT).descriptor 0 ((sTen ctlT).core 0).asidOf ((sTen ctlT).core 0).rootOf 0x80004 b.handle 2 with | .ok d _ => (tensor? d).any fun T => T.ext == [8, 4, 1, 1] && T.stride == [4, 64, 0, 0] && T.esize == 2 && T.base == 0x90000 && T.fillBytes == [0xDD, 0xCC, 0xBB, 0xAA] | _ => false)
      | _ => false) &&
    (match ((sTen ctlT).frame 0 (tTen ctlT)).planTensor .get (ctlOf ctlT) (w64 (localAddr 0 0 0x400)) [] with
      | .ok p _ => p.segs == [(.fill [0xDD, 0xCC, 0xBB, 0xAA], 4), (.global 0x90000, 12), (.fill [0xDD, 0xCC, 0xBB, 0xAA], 4), (.global 0x90040, 12)] && p.len == 32 &&
        p.oob == 2 && !p.ro
      | _ => false)) = true := by decide +kernel

/-- TensorCopies: a box of more bytes than a scratchpad. -/
theorem witness_TensorCopies_large : (let b := leBytes 48 (0x1003 + 0x10000 * 256 ^ 24 + 256 ^ 28 + 256 ^ 32 + 256 ^ 36)
    match ((sTen ctlT b).frame 0 (tTen ctlT)).planTensor .get (ctlOf ctlT) (w64 (localAddr 0 0 0x400)) [] with
    | .trap code v => (code, v) == (1, w64 (localAddr 0 0 0x400)) | _ => false) = true := by decide +kernel

/-- Copies, a control word with a reserved bit. -/
theorem witness_Copies_control : ([Instr.get, .put, .getx, .putx, .putxa, .putr, .mcast].all fun i => let t := tCopy 0x1000 (ctlW 0x80 0 0 (2 ^ 48)) 0;
    traps (i cf) (at0 t) 0 t 1 (t.ctl cf)) = true := by decide +kernel

/-- R232: the test_pieces of a copy cover it and cross no 256-byte line. -/
theorem test_pieces : ([true, false].all fun reads => [(0, 1), (255, 2), (0x1080, 0x200), (0x1100, 0x300), (0x10FF, 1), (0x1001, 0x100),
    (7, 0)].all fun (p : Nat × Nat) => let l := piecesOf reads 0x300 (.global p.1) p.2
    decide ((l.map (·.len)).sum = p.2) && l.all fun q => (List.range p.2).any fun o => decide (0 < q.len ∧ o + q.len ≤ p.2 ∧
      (p.1 + o) / 256 = (p.1 + o + q.len - 1) / 256 ∧
      (if reads then q.src = .global (p.1 + o) ∧ q.dst = .scratch (0x300 + o) else q.src = .scratch (0x300 + o) ∧ q.dst = .global (p.1 + o)))) = true := by decide +kernel


end Sys2Proof.Tests.Copies

/-! ## The progress of transfers -/

namespace Sys2Proof.Tests.Progress
open Sys2Proof.Machine Sys2Proof.Tests

/-- A piece. -/
def piece (src dst : Spot) (len phase : Nat) (data : List Byte := []) (landed : Nat := 0) : Piece :=
  { src := src, dst := dst, len := len, phase := phase, landed := landed, data := data, holes := [] }

/-- A transfer of core 0 on channel 3. -/
def xfer (op : Nat) (ps : List Piece) (f : Xfer → Xfer := id) : Xfer := f
  { op := op, core := 0, ctx := some 0, sup := false, asid := 0, ptroot := 0, ch := 3, id := 5, pieces := ps, add := none, full := false,
    deadline := none, aux := none, bend := false, decSent := false, decDone := false, nominal := 64, oob := 2, err := none, stop := false, fin := false,
    base := 0x100, len := 64, loc := localAddr 0 0 0x100, far := .global 0x80000, group := none, chunks := 0, lost := false }

/-- Core 0, whose transfer 5 is under way. -/
def xCore : Core := { core0 task0 with regs := { Regs.reset with cnext := [(3, 6)], cdone := [(3, 5)] }, lcl := { Local.reset with spad := Memory.writeN [] 0x100 [1, 2, 3, 4] }, tlb := [⟨0, false, 0, 1, 2, true, true⟩] }

/-- Core 0 with the transfer `x`, and core 5. -/
def xState (x : Xfer) (core : Core := xCore) : State :=
  { State.reset with cores := [(0, core), (5, { Core.reset with ctx := some 0, lcl := xCore.lcl })], xfers := [x], dieTlb := [(0, [⟨0, false, 0, 1, 2, true, true⟩])], mem := Memory.writeN [] 0x100010 [7, 8, 9] }

/-- A place of core 0. -/
def here : Spot := .scratch (localAddr 0 0 0x100)

/-- A place of core 5. -/
def there : Spot := .scratch (localAddr 5 0 0x100)

/-- Four bytes. -/
def b4 : List Byte := [1, 2, 3, 4]

/-- TransferProgress, a transfer that has ended. -/
theorem witness_PieceSteps_finished : (let s := xState (xfer 0 [piece (.global 0x80010) here 4 0] fun x => { x with fin := true });
    answers (exec (.transferPiece 0 0 []) s) s) = true := by decide +kernel

/-- TransferProgress, a transfer with an error. -/
theorem witness_PieceSteps_broken : (let s := xState (xfer 0 [piece (.global 0x80010) here 4 0] fun x => { x with err := some 3, stop := true });
    answers (exec (.transferPiece 0 0 []) s) s) = true := by decide +kernel

/-- TransferProgress, a piece of given bytes. -/
theorem witness_PieceSteps_fill : (let p := piece (.fill b4) here 4 0; let s := xState (xfer 0 [p]);
    answers (exec (.transferPiece 0 0 []) s) (s.setPiece 0 0 { p with data := b4, phase := 2 })) = true := by decide +kernel

/-- TransferProgress, a piece that reads the own scratchpad. -/
theorem witness_PieceSteps_own : (let p := piece here (.global 0x80010) 4 0; let t := xfer 1 [p]; let s := xState t; t.isLocal true = true ∧
    (s.core 0).lcl.load 0 0x100 4 = some b4 ∧ localParts (localAddr 0 0 0x100) = (0, 0, 0x100) ∧
    answers (exec (.transferPiece 0 0 []) s) (s.setPiece 0 0 { p with data := b4, phase := 2 })) = true := by decide +kernel

/-- TransferProgress, a piece that reads core 5. -/
theorem witness_PieceSteps_far : (let p := piece there here 4 0; let t := xfer 0 [p]; let s := xState t; t.isLocal true = false ∧
    answers (exec (.transferPiece 0 0 []) s) ((s.setPiece 0 0 { p with phase := 1 }).send (.core 0) (.core 5) .request
          (.piece 0 0 t.req (localAddr 5 0 0x100) none false none))) = true := by decide +kernel

/-- The machine whose home of `line` holds it. -/
def held (line : Nat) (s : State) : State := s.setSlice (homeOfLine line) { Slice.reset with present := [line] }

/-- PieceSteps, a piece that reads global memory: of a line that its home holds, and of one that it asks its controller for. -/
theorem witness_PieceSteps_global : (let p := piece (.global 0x80010) here 4 0; let t := xfer 0 [p]; let s := held 0x1000 (xState t); let u := xState t
   (match s.pieceAt t false 0x80010 with
   | .ok pa s1 => decide (pa = 0x100010 ∧ s1.ready [(pa, 4)] false = .ok ∧ s1.firstBad pa 4 = none ∧ s1.present (lineOf pa) = true) &&
     gives (exec (.transferPiece 0 0 []) s) (fun u =>
       decide (u = { s1 with monitors := u.monitors, fresh := u.fresh }.setPiece 0 0 { p with data := s1.bytesNow pa p.len, phase := 2, holes := [] }))
   | _ => false) &&
   (match u.pieceAt t false 0x80010 with
   | .ok pa s1 => decide (pa < 2 ^ 40 ∧ s1.present (lineOf pa) = false ∧ p.fetchesCode = false) &&
     answers (exec (.transferPiece 0 0 []) u) ((s1.setPiece 0 0 { p with phase := 1 }).askPiece 0 0 t pa (granulesOf pa p.len) [])
   | _ => false)) = true := by decide +kernel

/-- PieceSteps: no page, read and written. -/
theorem witness_PieceSteps_fail : (let p := piece (.global 0x180010) here 4 0; let q := piece here (.global 0x180010) 4 2 b4; let s := xState (xfer 0 [p]);
    let u := xState (xfer 1 [q])
   (match s.pieceAt (xfer 0 [p]) false 0x180010, u.pieceAt (xfer 1 [q]) true 0x180010 with
     | .fail e, .fail e' => answers (exec (.transferPiece 0 0 []) s) (s.failXfer 0 e) && answers (exec (.transferPiece 0 0 []) u) (u.failXfer 0 e')
     | _, _ => false)) = true := by decide +kernel

/-- PieceSteps, writes: to a line that its home holds, to one that it asks for, to core 5, and an element of PUTXA out of its place. -/
theorem witness_PieceSteps_write : (let p := piece here (.global 0x80010) 4 2 b4; let t := xfer 1 [p]; let s := held 0x1000 (xState t); let u := xState t
   !t.addBlocked 0 p && !t.addMisaligned p &&
   (match s.pieceAt t true 0x80010, u.pieceAt t true 0x80010 with
   | .ok pa s1, .ok _ u1 => pa == 0x100010 &&
     (match s1.ready [(pa, 4)] true with | .ok => true | _ => false) && !(s1.pullBytes pa 4).bad (pa / 64) && (s1.pullBytes pa 4).present (lineOf pa) &&
      !(u1.pullBytes pa 4).present (lineOf pa) &&
      gives (exec (.transferPiece 0 0 []) s) (fun x => (x.mem.readN pa 5) == b4 ++ [0]) &&
      gives (exec (.transferPiece 0 0 []) u) (fun x =>
        (x.ctl (controllerOf pa)).map (fun r => (r.granule, r.write)) == [(pa / 64, [(pa, 1), (pa + 1, 2), (pa + 2, 3), (pa + 3, 4)])])
   | _, _ => false) &&
   (let q := piece here there 4 2 b4; let x := xfer 1 [q]; let v := xState x; !x.isLocal false &&
     answers (exec (.transferPiece 0 0 []) v) ((v.setPiece 0 0 { q with phase := 3 }).send (.core 0) (.core 5) .bulk
          (.piece 0 0 x.req (localAddr 5 0 0x100) (some b4) false none))) &&
   (let q := piece here (.global 0x80012) 4 2 b4; let x := xfer 4 [q] fun x => { x with add := some 4 }; let v := xState x; !x.addBlocked 0 q && x.addMisaligned q &&
     answers (exec (.transferPiece 0 0 []) v) (v.failXfer 0 7))) = true := by
  decide +kernel

/-- TransferProgress, a transfer whose bytes land nowhere. -/
theorem witness_PieceSteps_drop : (let p := piece here (.fill b4) 4 2 b4; let t := xfer 3 [p]; let s := xState t; t.addBlocked 0 p = false ∧ t.addMisaligned p = false ∧
    answers (exec (.transferPiece 0 0 []) s) (s.setPiece 0 0 { p with phase := 4 })) = true := by decide +kernel

/-- TransferProgress, a piece that lands. -/
theorem witness_PieceSteps_land : (let p := piece (.global 0x80010) here 4 2 b4; let t := xfer 0 [p]; let s := xState t; t.isLocal false &&
    (match s.landBytes t 0 0 0 0x100 (p.data.take 4) with
  | (true, s1) => answers (exec (.transferPiece 0 0 []) s) (s1.setPiece 0 0 { p with landed := 4, phase := 4 })
  | _ => false)) = true := by decide +kernel

/-- TransferProgress, the end, with and without an error, and a counter that saturates. -/
theorem witness_TransferEnds_completion : ([none, some 3, some 11, some 8] : List (Option Nat)).all (fun er =>
    [xCore, { xCore with regs := { xCore.regs with oobcnt := 0xFFFFFFFFFFFFFFFF } }].all fun core =>
    let t := xfer 0 [piece (.global 0x80010) here 4 4 b4] fun x => { x with err := er }; let s := xState t core; t.ready &&
   gives (exec (.transferCompletion 0) s) fun s' => decide (
      s'.xfers = [{ t with fin := true, lost := false }] ∧ 
      (t.err = none → (s'.core t.core).regs.pend = (s.core t.core).regs.pend) ∧
      (∀ e ∈ er, (s'.core t.core).regs.pend = (s.core t.core).regs.pend ++ [⟨0x21, w64 (t.ch * 2 ^ 60 + e * 2 ^ 56 + t.id)⟩]) ∧
      (s'.core t.core).regs.oobcnt = w64 (Nat.min ((s.core t.core).regs.oobcnt.toNat + t.oob) (2 ^ 64 - 1)) ∧ s'.cores.length = 2 ∧ s'.mem = s.mem ∧
        Tbl.getD (s'.core 0).regs.cdone 3 0 = 6)) = true := by decide +kernel

/-- TransferProgress, no end before the last piece. -/
theorem witness_TransferEnds_early : (let t := xfer 0 [piece (.global 0x80010) here 4 2 b4]; let s := xState t; t.ready = false ∧
    answers (exec (.transferCompletion 0) s) s) = true := by decide +kernel

/-- TransferEnds: the list is full, and the trap is lost; DONE waits for an older transfer. -/
theorem witness_TransferEnds_lost : (let t := xfer 0 [piece (.global 0x80010) here 4 4 b4] fun x => { x with err := some 3, stop := true };
    let core := { xCore with regs := { xCore.regs with pend := List.replicate 32 ⟨0x20, 5⟩ } }
   let s := xState t core; 32 ≤ (s.core 0).regs.pend.length ∧ gives (exec (.transferCompletion 0) s) (fun u => (u.core 0).regs.lost &&
     (u.core 0).regs.pend == List.replicate 32 ⟨0x20, 5⟩ && decide (u.xfers = [{ t with fin := true, lost := true }]) &&
     Tbl.getD (u.core 0).regs.cdone 3 0 == 5 && !u.idDone 0 3 5)) := by decide +kernel

/-- TransferEnds: bytes that land, and what fills the first and the last word of a piece of 12 bytes at offset 0x104. -/
theorem witness_TransferEnds_words : (let p := piece (.global 0x80010) (.scratch (localAddr 0 0 0x104)) 12 2 (List.replicate 12 7);
    let t := xfer 0 [p] fun x => { x with full := true }; let s := xState t
   let r := s.landBytes t 0 0 0 0x104 [1, 2, 3, 4]
   (s.core 0).lcl.fullWait = [] ∧ (s.core 0).lcl.mergeFails 0x104 4 = false ∧ r.1 = true ∧ (r.2.core 0).lcl.spad.read 0x104 = 1 ∧ (r.2.core 0).lcl.isFull 0x20 = true ∧
   t.restWritten 0 0x20 0 0x108 = true ∧ (r.2.core 0).lcl.isFull 0x21 = false ∧ t.restWritten 0 0x21 0 0x10F = false ∧ t.restWritten 0 0x21 0 0x110 = true ∧
     t.restWritten 0 0x22 0 0x104 = true ∧
   localParts (localAddr 0 0 0x104) = (0, 0, 0x104)) := by decide +kernel

/-- A read piece at the port of core 5. -/
def pRead (r : Requester) : State := { xState (xfer 0 [piece there here 4 1]) with net := [pk (.core 0) (.core 5) .request (.piece 0 0 r (localAddr 5 0 0x100) none false none)] }

/-- TransferProgress, a read at the owner. -/
theorem witness_OwnerPieces_port : (let p := piece there here 4 1; let s := pRead (rq 0); (s.core 5).arrivalCheck (rq 0) .porter (localAddr 5 0 0x100) 4 = none ∧
    (s.core 5).lcl.load 0 0x100 4 = some b4 ∧ bitsOf (localAddr 5 0 0x100) 49 46 = 0 ∧
   answers (exec (.ownerPortPiece 0) s) ((s.drop 0).setPiece 0 0 { p with data := b4, phase := 2 })) = true := by decide +kernel

/-- TransferProgress, a read that the owner refuses. -/
theorem witness_OwnerPieces_port_refused : (let p := piece there here 4 1; let r := { rq 0 with ctx := some 1 }; let s := pRead r;
    (s.core 5).arrivalCheck r .porter (localAddr 5 0 0x100) 4 = some 0x0D ∧
   answers (exec (.ownerPortPiece 0) s) (((s.drop 0).setPiece 0 0 { p with phase := 0 }).failXfer 0 12)) = true := by decide +kernel

/-- OwnerPieces: writes at the owner, stored, added, refused by poison; a read that meets poison. -/
theorem witness_OwnerPieces_write : (let p := piece here there 4 3; let st := fun (w : Option (List Byte)) (add : Option Nat) (po : List (Nat × Bool)) =>
       (let s := xState (xfer 4 [p] fun x => { x with add := add });
         { (s.onCore 5 fun k => { k with lcl := { k.lcl with poison := po } }) with net := [pk (.core 0) (.core 5) .bulk (.piece 0 0 (rq 0) (localAddr 5 0 0x100) w false add)] })
   let a := st (some [9, 9, 9, 9]) none []; let b := st (some [1, 0, 0, 0]) (some 4) []; let c := st (some [9, 9, 9, 9]) none [(0x20, true)];
     let d := st none none [(0x20, true)]
   let land := fun (s : State) (bytes : List Byte) => match s.xfers[0]? with | some t => (s.drop 0).landBytes t 0 5 0 0x100 bytes | none => (false, s)
   (a.core 5).arrivalCheck (rq 0) .porter (localAddr 5 0 0x100) 4 = none ∧ (a.core 5).fullRefused 5 (rq 0) (localAddr 5 0 0x100) 4 = false ∧
   (land a [9, 9, 9, 9]).1 = true ∧ answers (exec (.ownerPortPiece 0) a) ((land a [9, 9, 9, 9]).2.setPiece 0 0 { p with phase := 4, landed := 4 }) ∧
   (land b (combBytes 0 4 b4 [1, 0, 0, 0])).1 = true ∧
     answers (exec (.ownerPortPiece 0) b) ((land b (combBytes 0 4 b4 [1, 0, 0, 0])).2.setPiece 0 0 { p with phase := 4, landed := 4 }) ∧
   (land c [9, 9, 9, 9]).1 = false ∧ answers (exec (.ownerPortPiece 0) c) (((land c [9, 9, 9, 9]).2.setPiece 0 0 { p with phase := 0 }).failXfer 0 4) ∧
   (d.core 5).lcl.load 0 0x100 4 = none ∧ answers (exec (.ownerPortPiece 0) d) (((d.drop 0).setPiece 0 0 { p with phase := 0 }).failXfer 0 4)) := by decide +kernel

/-- The bytes of a barrier record. -/
def recB (exp arr ph bytes : Nat) : List Byte := leBytes 16 (ph + exp * 2 ^ 12 + arr * 2 ^ 32 + 2 ^ 53 + bytes * 2 ^ 64)

/-- A decrement at the port of core 5. -/
def decS (r : List Byte) : State := { State.reset with
   cores := [(0, core0 task0), (5, { Core.reset with ctx := some 0, lcl := { Local.reset with spad := Memory.writeN [] 0x100 r } })],
   xfers := [xfer 0 [piece (.global 0x80010) here 4 4 b4] fun x => { x with aux := some (localAddr 5 0 0x100, none), decSent := true }],
   net := [pk (.core 0) (.core 5) .request (.barDec 0 (localAddr 5 0 0x100) none 64)] }

/-- TransferProgress, the decrement of a record, of each kind. -/
theorem witness_OwnerPieces_decrement : ([recB 0 0 5 0, recB 1 1 5 64, recB 1 0 5 64, recB 1 2 5 64, recB 2 1 5 65, recB 1 1 4095 63].map fun r => let s := decS r;
    let x := 0; let k := 0; let c := 5; let addr := localAddr 5 0 0x100; let n := 64; let v := leNat r
   match s.xfers with
   | [t] => decide ((s.core c).arrivalCheck t.req .atomic addr 16 = none ∧ (s.core c).lcl.load 0 (bitsOf addr 17 0) 16 = some r) &&
    (if recordBad (v % 2 ^ 64) then answers (exec (.barrierDecrement k) s) (((s.drop k).setXfer x { t with decDone := true }).faultXfer x 11)
     else let a := recordDec (v % 2 ^ 64) (v / 2 ^ 64) n
      let stored := (s.drop k).portStore c 0 (bitsOf addr 17 0) (leBytes 16 (a.1 + 2 ^ 64 * a.2.1))
      answers (exec (.barrierDecrement k) s) ((if a.2.2 then stored.wakeRecord (.port c (bitsOf addr 49 46) (bitsOf addr 17 0)) a.1 else stored).setXfer x
        { t with decDone := true }))
   | _ => false) = [true, true, true, true, true, true] := by decide +kernel

/-- TransferProgress, SLOTRET. -/
theorem witness_TransferProgress_slotret : (let t : Task := { Task.enter false 0 0 [] with x := [(8, 9)] }; let s := at0 t;
    answers (exec (.slotret ⟨3, 8, .always⟩) s) ((s.send (.core 0) (.core 9) .request (.slotRet 0 4)).retire 0 (s.core 0) t 2)) = true := by decide +kernel

/-- TransferProgress, returned slots, of three sources. -/
theorem witness_TransferProgress_slot_arrival : (let s0 : State := withCore { core0 task0 with regs := { Regs.reset with mcr := [(0, 0xC005 + 0xA009 * 2 ^ 32)], mcs := [(0, 3), (2, 1)] } }; [5, 9, 7].all fun src => [1, 16].all fun n => let s := withNet s0 (pk (.core src) (.core 0) .request (.slotRet src n))
  gives (exec (.slotReturn 0) s) fun u => decide (u = (s.drop 0).onCore 0 fun k => { k with regs := { k.regs with mcs := (u.core 0).regs.mcs } }) &&
    (List.range 16).all fun j => let e := (s.core 0).regs.mcrAt j
        Tbl.getD (u.core 0).regs.mcs j 0 = if bitOf e 15 ∧ bitsOf e 9 0 = src then Nat.min (Tbl.getD (s.core 0).regs.mcs j 0 + n) (bitsOf e 14 11)
          else Tbl.getD (s.core 0).regs.mcs j 0) = true := by decide +kernel

/-- TransferProgress, SBIND of a transfer under way. -/
theorem witness_TransferProgress_sbind : (let t : Task := { Task.enter false 0 0 [] with x := [(8, 0x7FFF000000000005)] }; let f : SbindForm := ⟨3, 8, 2, .always⟩;
    let x := xfer 0 [piece (.global 0x80010) here 4 0]; let s := xState x { xCore with lo := some t }; let c := 0;
   let id := (t.reg f.a).bits 47 0
   let age := (Tbl.getD (s.core c).regs.cnext f.ch.toNat 0 + 2 ^ 48 - id) % 2 ^ 48
   let b : Binding := { ch := f.ch.toNat, id := (t.reg f.a).bits 47 0, base := x.base, len := x.len, pos := 0, reader := 0 }
   let u := s.onCore c fun k => { k with vu := { k.vu with s := Tbl.insert k.vu.s f.n.toNat b } }
   1 ≤ age ∧ age ≤ 32 ∧ s.xfers.reverse.find? (fun x => x.core == c && x.ch == f.ch.toNat && x.id == id) = some x ∧
   answers (exec (.sbind f) s) (u.retire 0 (u.core 0) t 2)) = true := by decide +kernel

/-- TransferProgress, CWAIT for ids at every boundary. -/
theorem witness_TransferProgress_cwait : ([(0 : Nat), 3, 5, 6, 2^47 + 3, 2^48-1, 2^63 + 4].all fun i => [(5, 5), (5, 8), (0, 3), (2^48-2, 2)].all fun (p : Nat × Nat) =>
    let f : ChForm := ⟨3, 8, .always⟩; let t : Task := { Task.enter false 0 0 [] with x := [(8, w64 i)] };
    let s := withCore { core0 t with regs := { Regs.reset with cdone := [(3, p.1)], cnext := [(3, p.2)] } }; let c := 0;
    let next := Tbl.getD (s.core c).regs.cnext f.ch.toNat 0
    let done := Tbl.getD (s.core c).regs.cdone f.ch.toNat 0
    let id := let i := (t.reg f.a).bits 47 0
      let newest := (next + 2 ^ 48 - 1) % 2 ^ 48
      if i = newest ∨ idBefore i newest = true then i else newest
    if done = next ∨ idBefore id done then answers (exec (.cwait f) s) (s.retire 0 (s.core 0) t 2) else answers (exec (.cwait f) s) (s.stalledOn 0 (s.core 0) t t.wait)) = true := by decide +kernel


end Sys2Proof.Tests.Progress

/-! ## Memory controllers and reduction rounds -/

namespace Sys2Proof.Tests.Rounds
open Sys2Proof.Machine Sys2Proof.Tests

/-- A request. -/
def cr (g : Nat) (dl : Option Nat) (arr : Nat) (w : List (Nat × Byte) := []) (o : Option Origin := none) : CtlReq := { granule := g, write := w, origin := o.getD (.fetch (g / 4)), deadline := dl, arrived := arr, promoted := false, mask := 0 }

/-- A write of a whole granule. -/
def whole (g : Nat) : List (Nat × Byte) := (List.range 64).map fun i => (g * 64 + i, BitVec.ofNat 8 (i + 1))

/-- Controller 9 with the queue `q`. -/
def cS (q : List CtlReq) (f : State → State := id) : State := f { State.reset with ctls := [(9, q)], tick := 9000 }

/-- Queues: writes in part and whole, and one granule twice; no deadline, and nothing but deadlines. -/
def qs : List (List CtlReq) := [[cr 5 none 3 [(321, 7), (322, 8)], cr 6 none 2 (whole 6), cr 5 none 1], [cr 6 (some 9) 2, cr 6 (some 8) 1 (whole 6), cr 5 (some 8) 0]]

/-- Controllers: the choice in both queues, and the request served. -/
theorem witness_Controllers_select : (qs.all fun q => [0, 1, 2].all fun i => let s := cS q; match ctlChoice (s.ctl 9) i with
   | none => false
   | some j => match (s.ctl 9)[j]? with
     | none => false
     | some r => gives (exec (.controllerSelect 9 i) s) fun s' => decide (s'.ctl 9 = (s.ctl 9).eraseIdx j ∧ s'.mem = r.write.foldl (fun m e => m.write e.1 e.2) s.mem ∧
       s'.cores = s.cores)) = true := by decide +kernel

/-- Controllers: a partial write of a poisoned granule is abandoned and reported, and its transfer fails; a whole one clears the poison. -/
theorem witness_Controllers_bad : (let t : Xfer := { op := 1, core := 0, ctx := some 0, sup := false, asid := 0, ptroot := 0, ch := 3, id := 5, pieces := [⟨.scratch 0, .global 0x140, 2, 3, 0, [7, 8], []⟩], add := none, full := false, deadline := none, aux := none, bend := false, decSent := false, decDone := false, nominal := 2, oob := 0, err := none, stop := false, fin := false, base := 0x100, len := 2, loc := 0, far := .global 0x140, group := none, chunks := 0, lost := false }
   let s := fun (w : List (Nat × Byte)) => cS [cr 5 none 3 w (some (.xfer 0 0))] fun s => { s with poison := [(5, true)], xfers := [t] }
   let a := s [(321, 7), (322, 8)]; let b := s (whole 5)
   ctlChoice (a.ctl 9) 0 = some 0 ∧ a.bad 5 = true ∧ (whole 5).length = 64 ∧
   gives (exec (.controllerSelect 9 0) a) (fun u => decide (u.mem = a.mem ∧ u.poison = [(5, true)]) && u.checks.head? == some (dieOfStack (stackOf 320), .granule 5) &&
     (u.xfers.map (·.err)) == [some 4]) ∧
   gives (exec (.controllerSelect 9 0) b) (fun u => u.poison.isEmpty && u.mem.read 321 == 2)) := by decide +kernel

/-- Controllers: the last read of a piece gives it the bytes. -/
theorem witness_Controllers_read : (let p : Piece := ⟨.global 0x80144, .scratch 0, 4, 1, 0, [], []⟩
   let t : Xfer := { op := 0, core := 0, ctx := some 0, sup := false, asid := 0, ptroot := 0, ch := 3, id := 5, pieces := [p], add := none, full := false, deadline := none, aux := none, bend := false, decSent := false, decDone := false, nominal := 4, oob := 0, err := none, stop := false, fin := false, base := 0x100, len := 4, loc := 0, far := .global 0x80144, group := none, chunks := 0, lost := false }
   let s := cS [cr 5 none 3 [] (some (.xfer 0 0))] fun s => { s with xfers := [t], mem := Memory.writeN [] 0x144 [1, 2, 3, 4] }
   ctlChoice (s.ctl 9) 0 = some 0 ∧ 5 / 4 * 256 + 0x80144 % 256 = 0x144 ∧ s.firstBad 0x144 4 = none ∧
   gives (exec (.controllerSelect 9 0) s) (fun u => u.xfers.map (·.pieces) == [[{ p with data := [1, 2, 3, 4], phase := 2, holes := [] }]])) := by decide +kernel

/-- ControllersAndRounds, a request that is old enough and one that is not. -/
theorem witness_Controllers_promotion : ([cr 5 none 808 [], cr 5 none 809 []].map fun r => let s := cS [r]; decide (r.arrived + 8192 ≤ s.tick) &&
    answers (exec (.requestPromotion 9 0) s) ({ s with ctls := Tbl.insert s.ctls 9 ((s.ctl 9).set 0
      { r with deadline := some r.arrived, promoted := true }) }.event (unitPorter (9 / 4)) 0x31)) = [true, false] := by decide +kernel

/-- ControllersAndRounds, the scrubber at a granule with a latent error and at others. -/
theorem witness_Controllers_scrub : ([0, 77, 2^34 - 1, 2^35].all fun g => let s := { State.reset with latent := [(g, true)] };
    gives (exec (.patrolScrub g) s) (fun s' => decide (Tbl.getD s'.poison g false = true ∧ Tbl.getD s'.latent g false = false ∧
      s'.checks = s.checks ++ [(if g * 64 < 2 ^ 40 then dieOfStack (stackOf (g * 64)) else 0, .granule g)] ∧ s'.mem = s.mem ∧ s'.cores = s.cores)) &&
        answers (exec (.patrolScrub g) State.reset) State.reset) = true := by decide +kernel

/-- A PUTR of group 7. -/
def px (core loc : Nat) (f : Xfer → Xfer := id) : Xfer := f { op := 5, core := core, ctx := some 0, sup := false, asid := 0, ptroot := 0, ch := 3, id := 5, pieces := [], add := none, full := false, deadline := none, aux := none, bend := false, decSent := false, decDone := false, nominal := 8, oob := 0, err := none, stop := false, fin := false, base := 0x100, len := 8, loc := loc, far := .global 0x80000, group := some (7, 0, 0, 4), chunks := 0, lost := false }

/-- A group with one round under way. -/
def grp (m : List Nat) (down : Bool := false) : Group := { valid := true, down := down, slack := 0, members := m, counts := [], rounds := [{ number := 1, joined := [(0, 0), (1, 1)], far := [], final := [] }] }

/-- Cores 0 and 3 in a round of group 7. -/
def rS (g : Group) (t u : Xfer) : State := { State.reset with groups := [(7, g)], xfers := [t, u], cores := [(0, { Core.reset with ctx := some 0, lcl := { Local.reset with spad := Memory.writeN [] 0x100 (leBytes 8 0x00000005FFFFFFFF) } }),
   (3, { Core.reset with ctx := some 0, lcl := { Local.reset with spad := Memory.writeN [] 0x200 (leBytes 8 0x0000000A00000002) } })] }

/-- ControllersAndRounds, a round of two members, with and without a record. -/
theorem witness_Rounds_chunk : ([none, some (localAddr 5 0 0x40, none)] : List (Option (Nat × Option Nat))).all (fun aux =>
    let t := px 0 (localAddr 0 0 0x100) fun x => { x with aux := aux, bend := true }; let u := px 3 (localAddr 3 0 0x200); let s := rS (grp [0, 3]) t u;
    match s.chunkOf t 0 t.len, s.chunkOf u 0 t.len with
    | some a, some b =>
    let bytes := combBytes 0 4 a b
    let takes := fun (s : State) (x : Nat) (t : Xfer) =>
      let new := (piecesOf false 0 (t.far.skip 0) t.len).map fun p =>
        let d := (bytes.drop (match p.src with | .scratch o => o | _ => 0)).take p.len
        { p with src := .fill d, data := d, phase := 2 }
      (s.setXfer x { t with pieces := t.pieces ++ new, chunks := t.chunks + 1 }).settleXfer x
    decide (bytes = leBytes 8 0x0000000F00000001) &&
    answers (exec (.roundChunkFinal 7 0 []) s) (takes (takes (s.setGroup 7 { s.group 7 with rounds := [] }) 0 t) 1 u)
    | _, _ => false) = true := by decide +kernel

/-- ControllersAndRounds, a member that cannot be reached. -/
theorem witness_ControllersAndRounds_unreachable : (let t := px 0 (localAddr 0 0 0x100); let u := px 3 (localAddr 3 0 0x200) fun x => { x with err := some 4 };
    let s := rS (grp [0, 3, 0x4005]) t u;
   gives (exec (.memberUnreachable 7) s) fun s' => decide ((s'.group 7).down = true ∧ (s'.group 7).rounds = [] ∧
     s'.xfers = [{ t with err := some 10, stop := true }, { u with stop := true }])) = true := by decide +kernel

/-- Rounds: members that disagree; poison in a source; a chunk of a remote member's bytes too. -/
theorem witness_Rounds_ends : (let t := px 0 (localAddr 0 0 0x100); let u := px 3 (localAddr 3 0 0x200); let g := grp [0, 3];
    let r : Round := { number := 1, joined := [(0, 0), (1, 1)], far := [], final := [] }
   let a := rS g t { u with len := 4 }; let b := (rS g t u).onCore 3 fun k => { k with lcl := { k.lcl with poison := [(0x40, true)] } }
   (a.group 7).rounds = [r] ∧ (a.roundReady (a.group 7) r).map (·.map (·.2.2.shape)) = some [(8, 0, 4), (4, 0, 4)] ∧
     answers (exec (.roundChunkFinal 7 0 []) a) (a.failRound 7 r 9) ∧
   b.chunkOf u 0 8 = none ∧ answers (exec (.roundChunkFinal 7 0 []) b) (b.failRound 7 r 4)) := by decide +kernel

/-- Rounds: a local and a remote member. -/
theorem witness_Rounds_remote : (let t := px 0 (localAddr 0 0 0x100); let r : Round := { number := 1, joined := [(0, 0)], far := [(1, 8, 0, 4)], final := [] }
   let g : Group := { grp [0, 0x4005] with rounds := [r] }; let s := rS g t (px 3 0); let far := leBytes 8 0x0000000100000001
   (s.group 7).remotes = [1] ∧ (s.roundReady (s.group 7) r).map (·.map (·.1)) = some [0] ∧
   (match s.chunkOf t 0 8 with
     | some x => answers (exec (.roundChunkFinal 7 0 [(1, far)]) s) ((s.setGroup 7 { s.group 7 with rounds := [] }).chunkTo 0 0 8 (combBytes 0 4 x far))
     | none => false) = true) := by decide +kernel

/-- A transfer from a peer die. -/
def peerX : Xfer := px 0 (localAddr 0 0 0x100) fun x =>
    { x with op := 0, group := none, pieces := [{ src := .peer 4 0x80000, dst := .scratch (localAddr 0 0 0x100), len := 8, phase := 0, landed := 0, data := [], holes := [] }] }

/-- A context with a peer. -/
def peerS : State := { State.reset with xfers := [peerX, px 3 0], contexts := [(0, { state := .running, ptroot := 0, dtab := 0, areas := [], peers := [(4, (Config.fabricId + 1, 2))], preempt := none, moving := false })] }

/-- R258: the order of the reduction over members. -/
theorem test_treeReduce : (let f := combBytes 0 4; let a := leBytes 4 1; let b := leBytes 4 2; let c := leBytes 4 4; let d := leBytes 4 8
    treeReduce f ([some a, some b] ++ List.replicate 62 none) = f a b ∧
    treeReduce f ([some a, none, some c] ++ List.replicate 61 none) = f a c ∧
    treeReduce f ([some a, some b, some c, some d] ++ List.replicate 60 none) = f (f a b) (f c d)) := by decide +kernel

/-- ControllersAndRounds, a port that is down already. -/
theorem witness_ControllersAndRounds_down : answers (exec (.peerPortFailure 2 []) { State.reset with downPorts := [(2, true)] }) { State.reset with downPorts := [(2, true)] } = true := by decide +kernel

/-- ControllersAndRounds, a transfer whose die the port cut off. -/
theorem witness_ControllersAndRounds_cut : peerX.needsPeer (peerS.cutOff [] peerX) = true := by
  simp [peerS, State.cutOff, State.peerOf, peerX, px, Xfer.needsPeer, Tbl.find?]


end Sys2Proof.Tests.Rounds

/-! ## Map instructions and their replies -/

namespace Sys2Proof.Tests.Maps
open Sys2Proof.Machine Sys2Proof.Tests

/-- Page 0, mapped to page 2. -/
def mTlb : TlbEntry := ⟨0, false, 0, 1, 2, true, true⟩

/-- A map of 8-byte keys and identity hashing, of 8-byte values (or rows of 64 bytes), at level 1. -/
def mDesc (rows : Bool) (l s : Nat) (fl : Nat := 0) : Nat := 1 + fl * 2 ^ 8 + 3 * 2 ^ 16 + 5 * 2 ^ 32 + (if rows then 4 else 2) * 2 ^ 40 + l * 2 ^ 56 +
  0x90000 * 2 ^ 128 + s * 2 ^ 192 + 5 * 2 ^ 224 + 100 * 2 ^ 240 + 0xA0000 * 2 ^ 256 + 4 * 2 ^ 320 +
  (if rows then 0xC0000 * 2 ^ 384 + 8 * 2 ^ 448 + 64 * 2 ^ 480 + 2 ^ 496 else 0)

/-- The handle of slot 1. -/
def hM : Nat := 0x1003

/-- A task whose X4 is the handle. -/
def tMap (xs : List (Nat × W)) : Task := { Task.enter false 0 0 [] with x := (4, w64 hM) :: xs }

/-- A core that holds the descriptor. -/
def mCore (d : Nat) (t : Task) : Core := { core0 t with regs := { Regs.reset with dtab := 0x80004 }, dcache := [(hM, 0x100040, d)], tlb := [mTlb] }

/-- That core in a machine. -/
def mState (d : Nat) (t : Task) (f : Core →
    Core := id) : State := { withCore (f (mCore d t)) with dieTlb := [(0, [mTlb])], mem := Memory.writeN [] 0x100040 (leBytes 64 d) }

/-- The step that the clause gives. -/
noncomputable def asks (i : Instr) (d : Nat) (t : Task) (dst : Reg) (k : Option PReg) (q : MapDesc → MapQuestion) (f : Core → Core := id) : Bool :=
  let s := mState d t f
  let c := 0
  let a : Reg := 4
  let slot := 0x100040
  match map? d with
  | none => false
  | some m =>
    let x := q m
    let hash := m.hash x.key
    let b := bucketOf hash m.l m.s
    match s.engineTranslate c (s.core c).asidOf (s.core c).rootOf false true (m.bucketVa b) with
    | .ok pa s1 =>
    let direct := match x.kind with
      | .rowGet _ => dieOfCluster (homeOf pa) == dieOf c
      | _ => true
    let r : MapReq := { req := s.requester c t, kind := x.kind, vec := false, map := mapRefOf s c t a slot, key := x.key, hash := hash, bucket := b, hops := 0, lanes := [(0, x.operand)], first := !direct }
    decide ((t.reg a).bits 63 32 = 0 ∧ (t.reg a).bits 31 12 < 2 ^ (s.core c).regs.dtab.bits 4 0 ∧
      (s.core c).dcache.find? (·.1 == (t.reg a).toNat) = some ((t.reg a).toNat, slot, d)) &&
    answers (exec i s) ((s1.send (.core c) (.slice (if direct then homeOf pa else replicaSlice (homeOf pa) (dieOf c))) .request (.mapReq r)).stalledOn c
      (s1.core c) t (.map dst k x.words x.spad (t.reg a).toNat (s.core c).regs.cyc.toNat (s1.latencyMask (unitCore c))))
    | _ => false

/-- The operands of every map instruction here. -/
def mf : MapForm := ⟨5, 8, 4, 6, .always⟩

/-- A key and a value. -/
def tM : Task := tMap [(8, 6), (6, 0x55), (7, 0x66)]

/-- A place in the own scratchpad. -/
def row : W := 0x9000000000000400

/-- A key and a place. -/
def tR : Task := tMap [(8, 3), (6, row), (7, 1)]

/-- MapInstructions, the scalar forms on a map of values. -/
theorem witness_MapInstructions_scalar : (let d := mDesc false 1 0; let k := some 5
   [asks (.mprobe mf) d tM 6 k (fun m => ⟨.probe, tM.number 8 m.key, 0, xWords m.vbytes, none⟩),
    asks (.minsert mf) d tM 6 k (fun m => ⟨.insert, tM.number 8 m.key, if m.rows then 0 else tM.number 6 m.vbytes, 0, none⟩),
    asks (.mremove mf) d tM 6 k (fun m => ⟨.remove, tM.number 8 m.key, 0, xWords m.vbytes, none⟩),
    asks (.mcas mf) d tM 6 k (fun m => ⟨.cas, tM.number 8 m.key, tM.number 6 m.vbytes + 256 ^ m.vbytes * tM.number (BitVec.ofNat 5 (6 + xWords m.vbytes)) m.vbytes,
      xWords m.vbytes, none⟩),
    asks (.mupsert ⟨.add, 8, 4, 6, .always⟩) d tM 6 none (fun m => ⟨.upsert .add, tM.number 8 m.key, tM.number 6 m.vbytes, 0, none⟩)]) = [true, true, true, true,
      true] := by decide +kernel

/-- A key and a flag. -/
def tMk (b : W) : Task := tMap [(8, 3), (6, b)]

/-- MapInstructions, the scalar forms on a map of rows. -/
theorem witness_MapInstructions_rows : (let d := mDesc true 1 0; let k := some 5;
    let f := fun (c : Core) => { c with lcl := { c.lcl with spad := Memory.writeN [] 0x400 [1, 2, 3] } }
   [asks (.mprobe mf) d tR 6 k (fun m => ⟨.probe, tR.number 8 m.key, 0, xWords m.vbytes, none⟩),
    asks (.minsert mf) d tR 6 k (fun m => ⟨.insert, tR.number 8 m.key, 0, 0, none⟩),
    asks (.mrowget mf) d tR 6 k (fun m => ⟨.rowGet 0x400, tR.number 8 m.key, 0, 0, some 0x400⟩),
    asks (.mrowput mf) d tR 6 k (fun m => ⟨.rowPut (Memory.readN (f (mCore d tR)).lcl.spad 0x400 64), tR.number 8 m.key, 0, 0, some 0x400⟩) f,
    asks (.mrepl mf) d (tMk 1) 6 k (fun m => ⟨.repl true, (tMk 1).number 8 m.key, 0, 0, none⟩),
    asks (.mrepl mf) d (tMk 0) 6 k (fun m => ⟨.repl false, (tMk 0).number 8 m.key, 0, 0, none⟩)]) = [true, true, true, true, true, true] := by decide +kernel

/-- MapInstructions, the place of a row. -/
theorem witness_MapInstructions_place : (let s := mState (mDesc true 1 0) tR;
    (match (s.frame 0 tR).rowPlace (tR.reg 6) 64 true with | .ok off => off == 0x400 | _ => false) && decide ((s.core 0).lcl.firstPoison 0x400 64 = none)) = true := by decide +kernel

/-- MapInstructions, a handle with a bit above 31. -/
theorem witness_MapInstructions_handle : (let t := tMap [(4, 2 ^ 32 + 5)] ;
    traps (.mprobe mf) (mState (mDesc true 1 0) { t with x := [(4, 2 ^ 32 + 5)] }) 0 { t with x := [(4, 2 ^ 32 + 5)] } 0x07 (2 ^ 32 + 5)) = true := by decide +kernel

/-- The step that the clause on lanes gives. -/
noncomputable def asksL (i : Instr) (d : Nat) (kind : MapKind) (k : Option PReg) (combine : Bool) : Bool :=
  let f := fun (c : Core) => { c with vu := { c.vu with vl := 5, v := [(8, bv [2, 4, 2, 7, 4]), (9, bv [0, 0, 0, 0, 0]), (6, bv [1, 2, 3, 4, 5]), (7, bv [1, 2, 3, 4, 5])] } }
  let t := tM
  let s := mState d t f
  let c := 0
  let a : Reg := 4
  let slot := 0x100040
  match map? d with
  | none => false
  | some m =>
    let req : MapReq := { req := s.requester c t, kind := kind, vec := true, map := mapRefOf s c t a slot, key := 0, hash := 0, bucket := 0, hops := 0, lanes := [], first := false }
    let asks := laneAsks (s.core c) m 8 6 combine
    let r := asks.foldl ((s.frame c t).mapLaneSend m req) (s, [], 0)
    decide (r.2.2 ≠ 0 ∧ asks.length = (if combine then 3 else 5) ∧ vGroupOk m.key 8 ∧ vGroupOk m.vbytes 6) &&
    asks.all (fun q => match s.engineTranslate c (s.core c).asidOf (s.core c).rootOf false true (m.bucketVa (bucketOf (m.hash q.1) m.l m.s)) with | .wait _ => false | _ => true) &&
    answers (exec i s) (r.1.stalledOn c (r.1.core c) t (.mapV 6 k m.vbytes (s.core c).vu.vl r.2.2 r.2.1 0 (t.reg a).toNat
      (s.core c).regs.cyc.toNat (s.latencyMask (unitCore c))))

/-- MapInstructions, the vector forms. -/
theorem witness_MapInstructions_lanes : [asksL (.mprobev mf) (mDesc false 1 0) .probe (some 5) false,
    asksL (.mupsertv ⟨.add, 8, 4, 6, .always⟩) (mDesc false 1 0) (.upsert .add) none true] = [true, true] := by decide +kernel

/-- What MSCAN reads. -/
def tS (b d : W) (dst : W := row) : Task := tMap [(8, b), (9, dst), (6, d)]

/-- MapInstructions, MSCAN and MSTAT of every bucket number. -/
theorem witness_MapInstructions_scan : ([(mDesc false 1 0, (16 : Nat)), (mDesc true 1 0, 12)].all fun (p : Nat × Nat) => [(0 : W), 1, 4, 0x700000001].all fun b =>
    let t := tS b 3; let s := mState p.1 t; let c := 0; let off := 0x400; let slot := 0x100040; let n : Nat := 3
    (match (s.frame c t).rowPlace (t.reg (mf.b + 1)) ((t.reg mf.d).toNat * p.2) false with | .ok o => o == off | _ => false) &&
    let ask := fun (home : Nat) (s : State) (kind : MapKind) (bucket : Nat) (spad : Option Nat) (first : Bool) =>
      let r : MapReq := { req := s.requester c t, kind := kind, vec := false, map := mapRefOf s c t mf.a slot, key := 0, hash := 0, bucket := bucket, hops := 0, lanes := [(0, 0)], first := first }
      (s.send (.core c) (.slice home) .request (.mapReq r)).stalledOn c (s.core c) t
        (.map mf.d (some mf.k) 1 spad (t.reg mf.a).toNat (s.core c).regs.cyc.toNat (s.latencyMask (unitCore c)))
    answers (exec (.mscan mf) s) (ask (homeOf slot) s (.scan ((t.reg mf.b).bits 31 0) ((t.reg mf.b).bits 63 32) off n) ((t.reg mf.b).bits 31 0) (some off) true) &&
    (if t.reg mf.b = 0 then answers (exec (.mstat mf) s) (ask (homeOf slot) s (.stat 0) 0 none false) else true) &&
    (if 3 ≤ (t.reg mf.b).toNat then answers (exec (.mstat mf) s) (s.retire c ((s.core c).setMst (s.core c).inHi 1) ((t.setReg mf.d 0).setPred mf.k 0) (t.pc + 2)) else true)) = true := by decide +kernel

/-- A task that waits. -/
def tW (w : Wait) : Task := { tM with wait := w, stalled := true }

/-- MapInstructions, a reply, of every code. -/
theorem witness_MapInstructions_reply : ([0, 1, 2, 3].all fun code => [none, some 0x400].all fun spad => [0, 1, 2].all fun words =>
    let t := tW (.map 6 (some 5) words spad hM 0 0); let a : LaneAns := ⟨0, code, [0x11, 0x22, 0x33], none⟩; let hops := 300
   let s := withNet (mState (mDesc false 1 0) t) (pk (.slice 3) (.core 0) .reply (.mapReply false false hops [a] none))
   gives (exec (.mapReply 0) s) fun s' => decide ((s'.core 0).lo = some { (t.setWords 6 (a.vals.take words)).setCode (some 5) a.code with wait := .none, pc := t.pc + 2, stalled := false } ∧
     ((s'.core 0).bank false).mst = w64 (Nat.min hops 255 * 256 + a.code) ∧ s'.cores.length = 1 ∧ s'.mem = s.mem ∧ (spad = none → (s'.core 0).lcl = (s.core 0).lcl) ∧
       (∀ off ∈ spad, (s'.core 0).lcl = (s.core 0).lcl.writeSpad off ((a.vals.drop words).map (BitVec.ofNat 8))))) = true := by decide +kernel

/-- MapInstructions, a reply that fails. -/
theorem witness_MapInstructions_reply_failed : (let t := tW (.map 6 (some 5) 1 none hM 0 0); let a : LaneAns := ⟨0, 1, [], some ⟨0x22, 5⟩⟩;
    let s := withNet (mState (mDesc false 1 0) t) (pk (.slice 3) (.core 0) .reply (.mapReply false false 1 [a] none))
   gives (exec (.mapReply 0) s) fun s' => decide ((s'.core 0).lo = some { t with wait := .none, fail := some ⟨0x22, 5⟩ } ∧ s'.mem = s.mem ∧
     (s'.core 0).lcl = (s.core 0).lcl)) = true := by decide +kernel

/-- MapInstructions, replies to a vector form. -/
theorem witness_MapInstructions_reply_lanes : ([2, 1].all fun owed => let t := tW (.mapV 6 (some 5) 8 5 owed [⟨0, 1, [0], none⟩] 3 hM 0 0);
    let ans : List LaneAns := [⟨2, 0, [7], none⟩, ⟨4, 1, [0], some ⟨3, 9⟩⟩]; let hops := 9; let c := 0; let hi := false; let got : List LaneAns := [⟨0, 1, [0], none⟩]
   let s := withNet (mState (mDesc false 1 0) t) (pk (.slice 3) (.core 0) .reply (.mapReply false true hops ans none))
   let s1 := (s.drop 0).onCore c fun x => x.afterReply hi hM hops none
   if 1 < owed then answers (exec (.mapReply 0) s) (s1.withTask c hi { t with wait := .mapV 6 (some 5) 8 5 (owed - 1) (got ++ ans.map LaneAns.whole) (Nat.max 3 hops) hM 0 0 })
   else answers (exec (.mapReply 0) s) ((s1.mapMonitor c 0 0).mapVDone c 6 (some 5) 8 5 (Nat.max 3 hops) (got ++ ans.map LaneAns.whole))
    && (List.range 64).all fun i => decide (((((s1.mapMonitor c 0 0).mapVDone c 6 (some 5) 8 5 9 (got ++ ans.map LaneAns.whole)).core c).regs.mlane.getLsbD i = true) ↔ i = 0 ∨ i = 4)) = true := by decide +kernel

/-- MapInstructions, lanes of one bucket. -/
theorem witness_MapInstructions_groups : (let l := [(0, 5, 1), (1, 6, 2), (2, 5, 3)]; laneGroups true l = [(5, [(0, 1), (2, 3)]), (6, [(1, 2)])] ∧
    laneGroups false l = [(5, [(0, 1)]), (6, [(1, 2)]), (5, [(2, 3)])]) = true := by decide +kernel


/-- A map with an overflow arena at 0xB0000. -/
def mOver : Nat := mDesc true 1 0 + 0xB0000 * 2 ^ 320 - 4 * 2 ^ 320

/-- MapInstructions, MSTAT of the overflow arena and of the rows, and of what the map has not. -/
theorem witness_MapInstructions_stat : ([((1 : W), true), (2, true)].all fun p => let t := tMap [(8, p.1)]; let s := mState mOver t; let slot := 0x100040
    (map? mOver).any fun m => decide (m.ocap ≠ 0) && m.rows &&
      (match s.engineTranslate 0 (s.core 0).asidOf (s.core 0).rootOf false true (if p.1 = 1 then m.obase else m.rbase) with
        | .ok pa s1 => let r : MapReq := { req := s.requester 0 t, kind := .stat p.1.toNat, vec := false, map := mapRefOf s 0 t 4 slot, key := 0, hash := 0, bucket := 0, hops := 0, lanes := [(0, 0)], first := false }
          answers (exec (.mstat mf) s) ((s1.send (.core 0) (.slice (homeOf pa)) .request (.mapReq r)).stalledOn 0 (s1.core 0) t (.map 6 (some 5) 1 none hM (s1.core 0).regs.cyc.toNat (s.latencyMask (unitCore 0))))
        | _ => false)) = true := by decide +kernel

end Sys2Proof.Tests.Maps

/-! ## Maps at their homes -/

namespace Sys2Proof.Tests.Homes
open Sys2Proof.Machine Sys2Proof.Tests

/-- Page 0, mapped to page 2. -/
def mTlb : TlbEntry := ⟨0, false, 0, 1, 2, true, true⟩

/-- A map of 8-byte keys and identity hashing at level `l` with `s` buckets split. -/
def mDesc (rows : Bool) (l s : Nat) (fl : Nat := 0) : Nat := 1 + fl * 2 ^ 8 + 3 * 2 ^ 16 + 5 * 2 ^ 32 + (if rows then 4 else 2) * 2 ^ 40 + l * 2 ^ 56 +
  0x90000 * 2 ^ 128 + s * 2 ^ 192 + 5 * 2 ^ 224 + 100 * 2 ^ 240 + 0xA0000 * 2 ^ 256 + 4 * 2 ^ 320 +
  (if rows then 0xC0000 * 2 ^ 384 + 8 * 2 ^ 448 + 64 * 2 ^ 480 + 2 ^ 496 else 0)

/-- The handle of slot 1. -/
def hM : Nat := 0x1003

/-- That map. -/
def mR : MapRef := { handle := hM, slot := 0x100040, core := 0, asid := 0, root := 0 }

/-- A request. -/
def mq (kind : MapKind) (key bucket : Nat) (x : Nat := 9) (first : Bool := false) : MapReq := { req := rq 0, kind := kind, vec := false, map := mR, key := key, hash := key, bucket := bucket, hops := 0, lanes := [(0, x)], first := first }

/-- Bucket b at 0x90000 + 256 b: physical 0x110000 + 256 b. -/
def mMem (d : Nat) (extra : List (Nat × List Byte)) : Memory := extra.foldl (fun m e => m.writeN e.1 e.2) (Memory.writeN [] 0x100040 (leBytes 64 d))

/-- The homes hold these lines. -/
def keeps (lines : List Nat) (s : State) : State :=
  lines.foldl (fun s l => s.setSlice (homeOfLine l) { s.slice (homeOfLine l) with present := (s.slice (homeOfLine l)).present ++ [l] }) s

/-- A machine with that map, whose lines are at their homes. -/
def hS (d : Nat) (extra : List (Nat × List Byte) := []) (f : State → State := id) : State := f <| keeps [0x1000, 0x1100, 0x1101, 0x1102, 0x1109, 0x1200, 0x1201, 0x1202,
    0x1203, 0x1400, 0x1401] { State.reset with cores := [(0, { Core.reset with ctx := some 0, tlb := [mTlb] })], dieTlb := [(0, [mTlb])], mem := mMem d extra }

/-- A request at home. -/
def req (d : Nat) (m : MapReq) (extra : List (Nat × List Byte) := []) (f : State →
    State := id) : State := withNet (hS d extra f) (pk (.core 0) (.slice 3) .request (.mapReq m))

/-- Which clause applies and whether its step is taken. -/
noncomputable def whatHappens (s : State) (m : MapReq) : Nat × Bool :=
  let h := 3
  let s1 := s.drop 0
  match s1.mapRun m.map (atBucket s h m) with
  | .ok (.park pa, a) => (1, answers (exec (.mapRequestArrival 0) s) { a.s with parked := a.s.parked ++ [⟨pk (.core 0) (.slice 3) .request (.mapReq m), some pa⟩] })
  | .ok (.forward b pa, a) => (2, answers (exec (.mapRequestArrival 0) s) (a.s.send (.slice h) (.slice (homeOf pa)) .request (.mapReq { m with bucket := b, hops := m.hops + 1 })))
  | .ok (.reply ans false, a) => (3, answers (exec (.mapRequestArrival 0) s) (((a.commit m.req.core).afterMap h m a.hot).mapAnswer h m ans none))
  | .ok (.reply ans true, a) => (4, answers (exec (.mapRequestArrival 0) s) ((((a.commit m.req.core).afterMap h m a.hot).mapAnswer h m ans none).send (.slice h) (.slice (homeOf m.map.slot)) .request (.growth m.map)))
  | .error (.fail t) => (5, answers (exec (.mapRequestArrival 0) s) (s1.mapAnswer h m (m.failed t) none))
  | .error (.wait _) => (6, false)

/-- Bucket 0. -/
def k0 : Nat := 0x110000

/-- MapHomes, requests of every outcome: answered, passed on, parked, growing, failed. -/
theorem witness_MapHomes_request : ([whatHappens (req (mDesc false 1 0) (mq .probe 4 0)) (mq .probe 4 0),
   whatHappens (req (mDesc false 1 0) (mq .insert 4 0)) (mq .insert 4 0),
   whatHappens (req (mDesc false 1 0) (mq (.upsert .add) 4 0)) (mq (.upsert .add) 4 0),
   whatHappens (req (mDesc false 1 0) (mq .cas 4 0)) (mq .cas 4 0),
   whatHappens (req (mDesc false 1 0) (mq .probe 5 1)) (mq .probe 5 1),
   whatHappens (req (mDesc false 1 0) (mq .probe 4 0) [(k0 + 9, [1])]) (mq .probe 4 0),
   whatHappens (req (mDesc false 1 0) (mq .insert 4 0) [(k0 + 10, [100])]) (mq .insert 4 0),
   whatHappens (req (mDesc false 1 0) (mq .probe 4 0) [] fun s => { s with poison := [((k0 + 64) / 64, true)] }) (mq .probe 4 0),
   whatHappens (req (mDesc true 1 0) (mq (.repl true) 4 0) [(k0, [1]), (k0+16, [4]), (k0 + 16 + 18, [4])]) (mq (.repl true) 4 0),
   whatHappens (req (mDesc true 1 0) (mq (.rowGet 0x40) 4 0)) (mq (.rowGet 0x40) 4 0)]) = [(3, true), (3, true), (3, true), (3, true), (2, true), (1, true), (4, true),
     (5, true), (3, true), (3, true)] := by decide +kernel

/-- MapHomes, MSTAT of bucket 0. -/
theorem witness_MapHomes_stat : (let d := mDesc false 3 5 2; let m := mq (.stat 0) 0 0; let s := req d m; match (s.drop 0).mapAt m.map with
   | .ok d => answers (exec (.mapRequestArrival 0) s) ((s.drop 0).mapAnswer 3 m [⟨0, 0,
     [d.s + d.l * 2 ^ 32 + (b2n d.split + 2 * b2n d.nogrow + 4 * b2n d.gstop) * 2 ^ 40], none⟩] (some (d.l, d.s)))
   | _ => false) = true := by decide +kernel

/-- MapHomes, a parked request. -/
theorem witness_MapHomes_queued : (let m := mq .probe 4 0; let h := 3;
    let s := hS (mDesc false 1 0) [] fun s => { s with parked := [⟨pk (.core 0) (.slice 3) .request (.mapReq m), some k0⟩] };
    match ({ s with parked := [] } : State).mapRun m.map (mapAtBucket h m fun _ => false) with
   | .ok (.reply ans false, a) => answers (exec (.mapQueuedExecute 0) s) (((a.commit m.req.core).afterMap h m a.hot).mapAnswer h m ans none)
   | _ => false) = true := by decide +kernel

/-- A replica. -/
def rp (c : Bool) : Replica := ⟨7, 4, 2, c, [1, 2]⟩

/-- Slice 3 with a packet. -/
def rS (src : Endpoint) (b : Body) (f : Slice → Slice := id) : State := withNet { State.reset with slices := [(3, f Slice.reset)] } (pk src (.slice 3) .request b)

/-- MapHomes, a replica arrives. -/
theorem witness_MapHomes_fill : (let s := rS (.slice 9) (.repFill 8 4 2 [5]) fun x => { x with replicas := [rp true] };
    answers (exec (.replicaFill 0) s) (((s.drop 0).setSlice 3 { s.slice 3 with replicas := (s.slice 3).replicas ++ [⟨8, 4, 2, false, [5]⟩] }).send (.slice 3) (.slice 9) .reply (.filled 8 4 2 true))) = true := by decide +kernel

/-- A mark. -/
def mk (ver : Nat) : HotMark := { map := 8, key := 4, row := [], ver := ver, dies := [], filling := [1, 2], busy := false, acks := 2 }

/-- MapHomes, the fill is confirmed. -/
theorem witness_MapHomes_filled : (let s := rS (.slice 9) (.filled 8 4 2 true) fun x => { x with marks := [mk 2] }; s.mark? 3 8 4 = some (mk 2) ∧
    answers (exec (.filledReply 0) s) (((((s.drop 0).onMark 3 8 4 fun m => { m with filling := m.filling.filter (· != dieOfCluster 9) }).onMark 3 8 4
      fun m => { m with dies := m.dies.filter (· != dieOfCluster 9) ++ [dieOfCluster 9] })).send (.slice 3) (.slice 9) .request (.repConfirm 8 4 2 true))) = true := by decide +kernel

/-- MapHomes, the fill of a mark that is gone. -/
theorem witness_MapHomes_filled_late : (let s := rS (.slice 9) (.filled 8 4 2 true); s.mark? 3 8 4 = none ∧
    answers (exec (.filledReply 0) s) ((s.drop 0).send (.slice 3) (.slice 9) .request (.repConfirm 8 4 2 false))) = true := by decide +kernel

/-- MapHomes, a replica is invalidated. -/
theorem witness_MapHomes_invalidate : (let s := rS (.slice 9) (.repInval 7 4) fun x => { x with replicas := [rp true, ⟨8, 4, 2, false, [5]⟩] };
    answers (exec (.replicaInvalidate 0) s) (((s.drop 0).setSlice 3 { s.slice 3 with replicas := [⟨8, 4, 2, false, [5]⟩] }).send (.slice 3) (.slice 9) .reply (.invalAck 7 4))) = true := by decide +kernel

/-- MapHomes, the invalidation is confirmed. -/
theorem witness_MapHomes_ack : (let s := rS (.slice 9) (.invalAck 8 4) fun x => { x with marks := [mk 2] };
    answers (exec (.invalidateAck 0) s) (((s.drop 0).onMark 3 8 4 fun m =>
    if m.busy then { m with acks := m.acks - 1 } else { m with acks := m.acks - 1, dies := m.dies.filter (· != dieOfCluster 9), filling := m.filling.filter (· != dieOfCluster 9) }).fillReplicas 3 8 4)) = true := by decide +kernel

/-- MapHomes, a replica answers. -/
theorem witness_MapHomes_replica : (let m := { mq (.rowGet 0x40) 4 0 with first := true };
    let s := rS (.core 0) (.mapReq m) fun x => { x with replicas := [{ rp true with map := mR.id }] };
    answers (exec (.replicaRead 0) s) ((s.drop 0).mapAnswer 3 m [⟨0, 0, [1, 2], none⟩] none)) = true := by decide +kernel

/-- A growth packet at slice 4. -/
def gq (d : Nat) (b : Body) (extra : List (Nat × List Byte) := []) (f : State → State := id) : State := withNet (hS d extra f) (pk (.slice 3) (.slice 4) .request b)

/-- MapGrowth, a map that does not grow. -/
theorem witness_MapGrowth_none : ([mDesc false 1 0 1, mDesc false 1 0 2, mDesc false 1 0 4, mDesc false 5 0].all fun d => let s := gq d (.growth mR);
    answers (exec (.growthRequest 0) s) (s.drop 0)) = true := by decide +kernel

/-- MapGrowth, a map that begins to grow. -/
theorem witness_MapGrowth_begin : ([(1, 0), (1, 1), (4, 9)].all fun (p : Nat × Nat) => let s := gq (mDesc false p.1 p.2) (.growth mR); match (s.drop 0).mapAt mR with
   | .ok d => match (s.drop 0).mapRun mR (arenaPa (d.bucketVa d.s)) with
     | .ok (pa, a) => decide ((s.drop 0).ready [(mR.slot, 64)] true = .ok) &&
       (let s2 := a.s.engineWrite (mR.slot + 1) [BitVec.ofNat 8 ((a.s.byteNow (mR.slot + 1)).toNat ||| 1)]
      let x : Growth := ⟨mR, leNat ((s.drop 0).bytesNow mR.slot 64), d.l, d.s, pa, 0, []⟩
      answers (exec (.growthRequest 0) s) ({ s2 with growths := s2.growths ++ [x] }.send (.slice 4) (.slice (homeOf pa)) .request (.splitCmd s2.growths.length)))
     | _ => false
   | _ => false) = true := by decide +kernel

/-- A growth step. -/
def gr (stage : Nat) (res : List Nat := []) : Growth := ⟨mR, mDesc false 1 0 1, 1, 0, k0, stage, res⟩

/-- A machine with a growth step. -/
def gS (stage : Nat) (b : Body) (extra : List (Nat × List Byte) := []) (res : List Nat := []) : State := gq (mDesc false 1 0 1) b extra fun s =>
    { s with growths := [gr stage res] }

/-- MapGrowth, the command arrives. -/
theorem witness_MapGrowth_command : (let s := gS 0 (.splitCmd 0); answers (exec (.splitCommand 0) s) ((s.drop 0).setGrowth 0 { gr 0 with stage := 1 })) = true :=
    by decide +kernel

/-- MapGrowth, the chain is locked. -/
theorem witness_MapGrowth_lock : (let s := gS 1 (.splitCmd 0); s.bucketBusy k0 = false ∧ (match s.growRun (gr 1) (readChain 0) with
   | .ok (chain, a) => decide (chain.length = 1) && (match (writeBkt ((bktAt chain 0).put 9 [BitVec.ofNat 8 ((bktAt chain 0).bfl ||| 3)])).run a with
      | .ok ((), a1) => answers (exec (.splitLock 0) s) ((a1.commit 0).setGrowth 0 { gr 1 with stage := 3 })
      | _ => false)
   | _ => false) = true) = true := by decide +kernel

/-- MapGrowth, a poisoned chain. -/
theorem witness_MapGrowth_lock_failed : (let s := { gS 1 (.splitCmd 0) with poison := [((k0 + 64) / 64, true)] }; s.bucketBusy k0 = false ∧
    (match s.growRun (gr 1) (readChain 0) with
   | .error (.fail _) => answers (exec (.splitLock 0) s) (s.growthFault 0 (gr 1)) &&
     decide (∃ x ∈ (s.growthFault 0 (gr 1)).checks.getLast?, x = (dieOfCluster (homeOf k0), MCheck.mapGrowth hM)) &&
     decide ((s.growthFault 0 (gr 1)).checks.dropLast.take s.checks.length = s.checks)
   | _ => false) = true) = true := by decide +kernel

/-- MapGrowth, buckets in the arena, and none left. -/
theorem witness_MapGrowth_allocate : ([1, 2, 3, 9].map fun n => let s := gS 2 (.arenaAlloc 0 n) [(0x120004, [1])];
    match (s.drop 0).growRun (gr 2) (do let a ← get; reserveBuckets a.d n) with
   | .ok (some l, a) => (1, answers (exec (.arenaAllocate 0) s) ((a.commit 0).setGrowth 0 { gr 2 with stage := 3, reserved := l }))
   | .ok (none, a) => (2, answers (exec (.arenaAllocate 0) s) ((a.s.setBfl k0 fun b => maskClear b 3).splitReport 0 (gr 2) false false))
   | _ => (3, false)) = [(1, true), (1, true), (1, true), (2, true)] := by decide +kernel

/-- MapGrowth, buckets given back. -/
theorem witness_MapGrowth_free : (let s := gS 2 (.arenaFree 0 [1, 2]) [(0x120004, [1])];
    match (s.drop 0).growRun (gr 2) (do let a ← get; for n in [1, 2] do arenaFree a.d.obase 256 n) with
   | .ok ((), a) => answers (exec (.arenaFree 0) s) (a.commit 0)
   | _ => false) = true := by decide +kernel

/-- MapGrowth, the entries move. -/
theorem witness_MapGrowth_create : ([[], [(k0, [3]), (k0 + 8, [1]), (k0+10, [2]), (k0 + 16, [4, 6]), (k0 + 16 + 14, [4]), (k0 + 16 + 14 + 16, [6])]].all fun ex =>
    let s := gS 3 (.splitCmd 0) ((k0 + 9, [3]) :: ex); match s.growRun (gr 3) (splitMove (gr 3)) with
   | .ok ((back, pa), a) => answers (exec (.splitCreate 0) s) (((a.commit 0).giveBack 0 (gr 3) pa back).splitReport 0 (gr 3) true false) &&
     decide (s.movingMarks (gr 3) a.d = [])
   | _ => false) = true := by decide +kernel

/-- MapGrowth, the report, at each level's end. -/
theorem witness_MapGrowth_report : ([(1, 0), (1, 1), (3, 7)].all fun (p : Nat × Nat) => [(false, false), (false, true), (true, false)].all fun (q : Bool × Bool) =>
    let s := gq (mDesc false p.1 p.2 1) (.splitReport 0 q.1 q.2) [] fun s => { s with growths := [gr 4] }; let x := gr 4; let k := 0; let g := 0;
    match (s.drop k).mapAt mR with
   | .ok d => let old := ((s.drop k).byteNow (x.map.slot + 1)).toNat
     let ended := fun (f : Bool) => ((s.drop k).setGrowth g { x with stage := 5 }).engineWrite (x.map.slot + 1) [BitVec.ofNat 8 (maskClear old 1 ||| (if f then 4 else 0))]
     decide ((s.drop k).ready [(x.map.slot, 64)] true = .ok) &&
       if q.1 then answers (exec (.splitReport k) s) (((ended false).engineWrite (x.map.slot + 7) [BitVec.ofNat 8 (if d.s + 1 = 2 ^ d.l then d.l + 1 else d.l)]).engineWrite
        (x.map.slot + 24) (leBytes 4 (if d.s + 1 = 2 ^ d.l then 0 else d.s + 1))) else answers (exec (.splitReport k) s) (ended q.2)
   | _ => false) = true := by decide +kernel

/-- R284: an entry moves exactly where the next level's bucket is the new one. -/
theorem test_moves : (let m := (map? (mDesc false 2 1));
    match m with | some d => [(1, 5), (1, 1), (1, 9), (1, 13), (0, 4), (0, 8), (3, 7), (3, 11)].all fun (p : Nat × Nat) => decide (moves d 2 p.1 p.2 = true ↔ bucketOf (d.hash p.2) 2 (p.1 + 1) = p.1 + 2 ^ 2) | none => false) = true := by decide +kernel


/-- A mark of the map's key 4 in slice `h`. -/
def marked (h : Nat) (busy : Bool) (acks : Nat) (key : Nat := 4) (s : State) : State :=
  s.setSlice h { s.slice h with marks := [{ map := mR.id, key := key, row := [], ver := 1, dies := [1], filling := [], busy := busy, acks := acks }] }

/-- MapHomes, an update of a hot key: its replicas are withdrawn first, and it runs once they are acknowledged. -/
theorem witness_MapHomes_withdraw : (let d := mDesc true 1 0; let m := mq .remove 4 0; let h := 3; let s := req d m [] (marked 3 false 0); let s1 := s.drop 0
   (match s1.mapRun m.map (atBucket s h m), s1.mark? h m.map.id m.key with
    | .ok (.reply _ _, a), some mark => m.kind.withdraws && !mark.busy &&
      (match s1.engineTranslate m.map.core m.map.asid m.map.root false true (a.d.bucketVa m.bucket) with
      | .ok pa s2 => let s3 := s2.withdraw h m.map.id m.key
        answers (exec (.mapRequestArrival 0) s) { s3 with parked := s3.parked ++ [⟨pk (.core 0) (.slice 3) .request (.mapReq m), some pa⟩] } && !decide (s3 = s2)
      | _ => false)
    | _, _ => false) &&
   (let u := hS d [] fun s => { marked 3 true 0 4 s with parked := [⟨pk (.core 0) (.slice 3) .request (.mapReq m), some k0⟩] }
    (u.mark? h m.map.id m.key).any (fun k => k.busy && k.acks == 0) && (match ({ u with parked := [] } : State).mapRun m.map (mapAtBucket h m fun _ => false) with
     | .ok (.reply ans false, a) => answers (exec (.mapQueuedExecute 0) u) (((a.commit m.req.core).afterMap h m a.hot).mapAnswer h m ans none)
     | _ => false))) = true := by decide +kernel

/-- MapHomes, MSTAT of the overflow arena's header. -/
theorem witness_MapHomes_stat_arena : (let d := mDesc false 3 5 2; let m := mq (.stat 1) 0 0; let s := req d m [(0x120000, [5, 6, 7])]
   match (s.drop 0).mapRun m.map (do let a ← get; arenaRead (if 1 = 1 then a.d.obase else a.d.rbase) 8) with
   | .ok (bytes, a) => answers (exec (.mapRequestArrival 0) s) (a.s.mapAnswer 3 m [⟨0, 0, [leNat bytes], none⟩] none) && leNat bytes == 0x070605
   | _ => false) = true := by decide +kernel

/-- MapHomes, an entry is found where the key is, and nowhere else. -/
theorem witness_MapHomes_find : (match map? (mDesc false 1 0) with
   | some d => let k : Bkt := ((⟨0, 0, emptyBucket⟩ : Bkt).fill d 3 4 4 9)
     decide (findEntry d 4 4 [⟨0, 0, emptyBucket⟩, k] = some (1, 3)) && decide (findEntry d 4 6 [⟨0, 0, emptyBucket⟩, k] = none) && k.has 3 && decide (k.key d 3 = 4)
   | none => false) = true := by decide +kernel

/-- MapHomes, a mark that is being withdrawn is not filled. -/
theorem witness_MapHomes_busy : (let s := marked 3 true 2 4 State.reset; (s.mark? 3 mR.id 4).any (·.busy) ∧ s.fillReplicas 3 mR.id 4 = s) := by decide +kernel

/-- The page without write permission. -/
def shut (s : State) : State := { s with cores := [(0, { Core.reset with ctx := some 0, tlb := [{ mTlb with w := false }] })], dieTlb := [(0, [{ mTlb with w := false }])] }

/-- MapGrowth: no access to bucket S, to the arena, or back to it. -/
theorem witness_MapGrowth_shut : (let s := gq (mDesc false 1 0) (.growth mR) [] shut; let u := shut (gS 2 (.arenaAlloc 0 2)); let v := shut (gS 2 (.arenaFree 0 [1, 2]))
   (match (s.drop 0).mapAt mR with
    | .ok d => decide ((s.drop 0).ready [(mR.slot, 64)] true = .ok) && (match (s.drop 0).mapRun mR (arenaPa (d.bucketVa d.s)) with
      | .error (.fail _) => answers (exec (.growthRequest 0) s) (((s.drop 0).engineWrite (mR.slot + 1) [BitVec.ofNat 8 (((s.drop 0).byteNow (mR.slot + 1)).toNat ||| 4)]).growthCheck (homeOf mR.slot) mR)
      | _ => false)
    | _ => false) &&
   (match (u.drop 0).growRun (gr 2) (do let a ← get; reserveBuckets a.d 2) with
    | .error (.fail _) => answers (exec (.arenaAllocate 0) u) ((u.drop 0).growthFault 0 (gr 2))
    | _ => false) &&
   (match (v.drop 0).growRun (gr 2) (do let a ← get; for n in [1, 2] do arenaFree a.d.obase 256 n) with
    | .error (.fail _) => answers (exec (.arenaFree 0) v) ((v.drop 0).growthCheck 4 mR)
    | _ => false)) = true := by decide +kernel

/-- MapGrowth: a chain of three buckets asks for two. -/
theorem witness_MapGrowth_lock_chain : (let s := gS 1 (.splitCmd 0) [(k0 + 9, [4]), (k0 + 12, [2]), (0x120200 + 9, [4]), (0x120200 + 12, [1])]; s.bucketBusy k0 = false ∧
    (match s.growRun (gr 1) (readChain 0) with
   | .ok (chain, a) => decide (chain.length = 3) && (match (writeBkt ((bktAt chain 0).put 9 [BitVec.ofNat 8 ((bktAt chain 0).bfl ||| 3)])).run a with
      | .ok ((), a1) => (match (arenaPa a1.d.obase).run a1 with
        | .ok (pa, a2) => answers (exec (.splitLock 0) s) (((a2.commit 0).setGrowth 0 { gr 1 with stage := 2 }).send (.slice (homeOf k0)) (.slice (homeOf pa)) .request (.arenaAlloc 0 2))
        | _ => false)
      | _ => false)
   | _ => false) = true) := by decide +kernel

/-- MapGrowth: hot keys that move are withdrawn first; the move waits for them. -/
theorem witness_MapGrowth_create_hot : (let s := fun b n => marked (homeOf k0) b n 6 (gS 3 (.splitCmd 0) [(k0 + 9, [3])]); let x := gr 3
   [(false, 0), (true, 2)].all fun (p : Bool × Nat) => let s := s p.1 p.2; match s.growRun x (splitMove x) with
   | .ok (_, a) => !(s.movingMarks x a.d).isEmpty && (if p.1 then (s.movingMarks x a.d).all (·.busy) && (s.movingMarks x a.d).any (·.acks != 0) &&
     answers (exec (.splitCreate 0) s) s
      else (s.movingMarks x a.d).any (!·.busy) &&
        answers (exec (.splitCreate 0) s) ((s.movingMarks x a.d).foldl (fun s k => if k.busy then s else s.withdraw (homeOf x.pa) k.map k.key) s))
   | _ => false) = true := by decide +kernel

/-- MapGrowth: the move fails at a poisoned bucket, and the reservation goes back. -/
theorem witness_MapGrowth_create_failed : (let s := { gS 3 (.splitCmd 0) [] [1, 2] with poison := [((k0 + 64) / 64, true)] }; let x := gr 3 [1, 2]
   match s.growRun x (splitMove x), s.growRun x (do let a ← get; arenaPa a.d.obase) with
   | .error (.fail _), .ok (pa, a) => answers (exec (.splitCreate 0) s) ((a.s.giveBack 0 x pa [1, 2]).growthFault 0 x)
   | _, _ => false) = true := by decide +kernel

end Sys2Proof.Tests.Homes

/-! ## Registration, sectors and atomics at the home -/

namespace Sys2Proof.Tests.Lines
open Sys2Proof.Machine Sys2Proof.Tests

/-- A line. -/
def ln : Nat := 0x1000

/-- Its entry. -/
def hE (owner : Tbl Nat) (f : HomeLine → HomeLine := id) : HomeLine := f { HomeLine.new with owner := owner, ver := 255 }

/-- Some bytes of it. -/
def mem0 : Memory := Memory.writeN [] (ln * 256 + 8) [0x11, 0x22, 0x33, 0x44, 0x55]

/-- A packet at its home. -/
def home (e : Option HomeLine) (src : Endpoint) (b : Body) (pl : Plane := .request) (f : State → State := id) : State :=
  f { State.reset with net := [pk src (.slice 3) pl b], mem := mem0, homeLines := (match e with | some e => [(ln, e)] | none => []), slices := [(homeOfLine ln, { Slice.reset with present := [ln] })] }

/-- RegistrationAtHome and AtomicsAtHome: a line that can be served. -/
theorem witness_HomeFree : HomeFree (home (some (hE [(5, 7)])) (.core 0) (.regReq ln 4 0x80000 0)) ln :=
    ⟨by decide +kernel, by decide +kernel, by decide +kernel, by decide +kernel, rfl, by decide +kernel, by decide +kernel⟩

/-- RegistrationAtHome, no other owner. -/
theorem witness_RegistrationAtHome_grant : ([[], [(5, 7)], [(63, 7)]].all fun o => [0, 4, 2^64-1 - 2^5 - 2^63].all fun mask => let e := hE o;
    let s := home (some e) (.core 0) (.regReq ln mask 0x80000 0); decide (∀ x ∈ e.owner, mask.testBit x.1 = false) &&
   answers (exec (.registrationRequest 0) s) ((s.drop 0).granted ln e 0 mask (.slice 3) (.core 0))) = true := by decide +kernel

/-- RegistrationAtHome, a line without an entry. -/
theorem witness_RegistrationAtHome_new : (let s := home none (.core 0) (.regReq ln 4 0x80000 0); (s.entriesOf (homeOfLine ln)).length < Config.registryLines ∧
    answers (exec (.registrationRequest 0) s) (((s.drop 0).setHome ln HomeLine.new).granted ln HomeLine.new 0 4 (.slice 3) (.core 0))) = true := by decide +kernel

/-- RegistrationAtHome, words of another owner. -/
theorem witness_RegistrationAtHome_recall : ([0, 9].all fun c => let e := hE [(2, 9), (5, 7)]; let s := home (some e) (.core c) (.regReq ln 6 0x80000 0);
    match s.packet? 0 with
  | some p => answers (exec (.registrationRequest 0) s) ((((s.drop 0).setHome ln { e with recalling := [2] }).send (.slice (homeOfLine ln)) (.core 9) .request (.recall ln (2 ^ 2))).park p)
  | none => false) = true := by decide +kernel

/-- RegistrationAtHome, a sector that the host may hold. -/
theorem witness_RegistrationAtHome_host : ([0, 15, 16, 63].all fun w =>
    let s := home none (.core 0) (.regReq ln (2 ^ w) 0x80000 0) .request fun s => { s with hostBias := [(ln * 256 / 2 ^ 19, true)] }; match s.packet? 0 with
  | some p => decide (s.hostLine ((ln * 4 + w / 16) * 64) = true ∧ s.hostState (ln * 4 + w / 16) = .i) &&
    answers (exec (.registrationRequest 0) s) ({ s.drop 0 with exchanges := [{ sector := ln * 4 + w / 16, own := true }] }.park p)
  | none => false) = true := by decide +kernel

/-- A copy of it. -/
def l1l (f : L1Line → L1Line := id) : L1Line := f { vas := [(2, 0x80008), (20, 0x80050)], units := [], old := [], sv := 1, reg := 2 ^ 20, drt := 2 ^ 20, pend := 4, bytes := 0x300, hs := [.i, .i, .i, .i], psn := 0, lv := 3, data := [(8, 0x77), (9, 0x78), (80, 5)], used := 0 }

/-- A packet at core 0. -/
def atL1 (x : Option L1Line) (src : Endpoint) (b : Body) (wb : List WBuf := []) (missing : List (Nat × Nat × Nat) := []) : State :=
  { State.reset with net := [pk src (.core 0) .reply b], cores := [(0, { Core.reset with ctx := some 0, l1 := { lines := (match x with | some x => [(ln, x)] | none => []), missing := missing, wb := wb, clock := 12 } })] }

/-- GrantAtL1: grants of one word and of two, with and without a bad granule, to a line with a store to one word or to two. -/
theorem witness_GrantAtL1_value : ([0x300, 0, 0xF00].all fun bytes => [([], []), ([12], [(3, (7, true))])].all fun (p : List Nat × Tbl (Nat × Bool)) =>
    [(4, 0, [(2, 0x44332211)]), (12, 0, [(2, 1), (3, 2)]), (12, 12, []), (4, 4, [])].all fun (q : Nat × Nat × List (Nat × Nat)) =>
    let x := l1l fun x => { x with bytes := bytes, units := p.1, old := p.2, pend := if p.1.isEmpty then 4 else 12 };
      let s := atL1 (some x) (.slice 3) (.regGrant ln q.1 9 q.2.2 q.2.1)
    let y := x.granted 9 (maskClear q.1 q.2.1) q.2.1 q.2.2
    answers (exec (.registrationGrant 0) s) (((s.drop 0).onL1 0 fun l => l.setLine ln { y with hs := (List.range 4).map fun j => s.hostState (ln * 4 + j) }).tellStores 0
      ((maskList 64 q.2.1).map fun w => Tbl.getD x.vas w 0)) &&
    y.pend == maskClear x.pend (maskClear q.1 q.2.1 ||| q.2.1) && y.reg == (x.reg ||| maskClear q.1 q.2.1) && y.lv == 9 && (!q.2.2.isEmpty || y.data == x.data) &&
    ([12, 5].all fun u => decide (u ∈ y.units ↔ u ∈ x.units ∧ u &&& y.pend ≠ 0))) = true := by decide +kernel

/-- GrantAtL1: the line is gone; and one core is told once of one store. -/
theorem witness_GrantAtL1_none : (let s := atL1 none (.slice 3) (.regGrant ln 4 9 [(2, 5)] 0); answers (exec (.registrationGrant 0) s) (s.drop 0) &&
    decide (s.tellStores 0 [5, 5] = s.pending 0 0x22 5 ∧ s.tellStores 0 [5] = s.pending 0 0x22 5 ∧ s.tellStores 0 [] = s)) = true := by decide +kernel

/-- GrantAtL1: what other agents meet in a word of a store that is performed, and of one that is not. -/
theorem witness_GrantAtL1_shown : (let x := l1l; let y := x.granted 9 4 0 [(2, 0x44332211)]; let z := { x with units := [12], pend := 12, old := [] };
    let u := z.granted 9 4 0 [(2, 0x44332211)]
    !(y.units.any fun u => u.testBit 2) && y.shown 2 == (y.word 2, true) && (u.units.any fun u => u.testBit 2) &&
      u.shown 2 == (0x44332211, false)) = true := by decide +kernel

/-- R192: the bytes of a word after a merge. -/
theorem test_merge : ([2, 20, 3].all fun w => [0x44332211, 0, 2^40+7].all fun v => (List.range 256).all fun o => let x := l1l;
    decide ((x.merge w v).byte o = if o / 4 = w then (if x.pend.testBit w &&
    x.bytes.testBit o then x.byte o else BitVec.ofNat 8 (v / 256 ^ (o % 4))) else x.byte o)) = true := by decide +kernel

/-- RecallAndAnswer, a recalled word of a line; its store is performed, or is not. -/
theorem witness_RecallAndAnswer_line : ([[], [(ln, 1, 3), (ln, 0, 4)]].all fun ms =>
    [l1l, l1l fun x => { x with drt := 0 }, l1l fun x => { x with units := [2 ^ 20 + 4], old := [(20, (6, true))] }].all fun x => let w := 20;
    let s := atL1 (some x) (.slice 3) (.recall ln (2 ^ w)) [] ms
    let y := { x with reg := maskClear x.reg (2 ^ w), drt := maskClear x.drt (2 ^ w), old := Tbl.erase x.old w }
    let left := fun (y : L1Line) => (s.drop 0).onL1 0 fun l => (l.setLine ln y).dropMiss fun a j => a == ln && j == w / 16
    x.reg.testBit w && (match Tbl.find? x.old w with
    | none => answers (exec (.recall 0) s) ((left y).send (.core 0) (.slice 3) .reply (.recallAns ln (if x.drt.testBit w then 2 ^ w else 0) [(w,
      Tbl.getD x.vas w 0)] [(w, x.word w)] []))
    | some (v, d) => let z := { y with pend := maskSet y.pend w }
      answers (exec (.recall 0) s) (((left z).send (.core 0) (.slice 3) .reply (.recallAns ln (if d then 2 ^ w else 0) [(w, Tbl.getD x.vas w 0)] [(w,
        v)] [])).send (.core 0) (.slice (homeOfLine ln)) .request
        (.regReq ln (2 ^ w) (Tbl.getD x.vas w 0) (z.whole (2 ^ w)))))) = true := by decide +kernel

/-- RecallAndAnswer, a recalled word of a buffer. -/
theorem witness_RecallAndAnswer_buffer : ([true, false].all fun d => let w := 20; let b : WBuf := ⟨4, ln, [(20, 0x80050)], 7, [(w, 99, d)]⟩;
    let s := atL1 none (.slice 3) (.recall ln (2 ^ w)) [b, ⟨5, ln + 1, [], 0, [(w, 4, true)]⟩]; decide ((s.core 0).l1.buffer? ln w = some b) &&
    answers (exec (.recall 0) s) (((s.drop 0).onL1 0 fun l =>
        { l with wb := l.wb.map fun y => if y.id = b.id then { y with words := y.words.filter (·.1 != w) } else y }).send (.core 0) (.slice 3) .reply
      (.recallAns ln (if d then 2 ^ w else 0) [(w, Tbl.getD b.vas w 0)] [(w, 99)] [(w, b.ver)]))) = true := by decide +kernel

/-- RecallAndAnswer, a word whose grant is under way. -/
theorem witness_RecallAndAnswer_awaits : (let x := l1l; let s := atL1 (some x) (.slice 3) (.recall ln 4); (s.core 0).l1.awaits ln 2 = true ∧
    answers (exec (.recall 0) s) (s.heldBack 0)) = true := by decide +kernel

/-- RecallAndAnswer, the answer: in time, late, and late after the writeback was asked for again. -/
theorem witness_RecallAndAnswer_answer : ([none, some 7].all fun (late : Option Nat) => [[], [(9, 2, 7), (8, 2, 7)]].all fun rs => let w := 2;
    let e := hE [(2, 9), (5, 7)] fun e => { e with recalling := [5, 2], resent := rs }; let v := 0xAABBCCDD;
    let s := home (some e) (.core 9) (.recallAns ln (2 ^ w) [(w, 0x80008)] [(w, v)] (match late with | none => [] | some lv => [(w, lv)])) .reply;
    let t := (s.drop 0).setHome ln { e with
      owner := Tbl.erase e.owner w, ver := (e.ver + 1) % 256, recalling := e.recalling.filter (· != w), resent := e.resent.filter fun x => !(x.1 == 9 && x.2.1 == w),
      late := match late with | none => e.late | some lv => if e.resent.contains (9, w, lv) then e.late else e.late ++ [(9, w, lv)] }
    decide (s.bad (4 * ln + w / 16) = false) &&
      answers (exec (.recallAnswer 0) s) ((if late.isSome then t.event (unitSlice (homeOfLine ln)) 0x13 else t).writeHome (ln * 256 + 4 * w) (leBytes 4 v))) = true := by decide +kernel

/-- RecallAndAnswer, the answer a request waits for. -/
theorem witness_RecallAndAnswer_grant : (let w := 2; let v := 0xAABBCCDD; let d := 5; let c := 9; let e := hE [(w, c)] fun e => { e with recalling := [w] };
    let s := home (some e) (.core c) (.recallAns ln (2 ^ w) [(w, 0x80008)] [(w, v)] []) .reply fun s => { s with parked := [{ pkt := { src := .core d, dst := .slice 3, plane := .request, body := .regReq ln (2 ^ w) 0x90000 0 }, bucket := none }] };
    let e' : HomeLine := { e with owner := [], ver := (e.ver + 1) % 256, recalling := [], resent := e.resent.filter fun x => !(x.1 == c && x.2.1 == w) }
    let t := { (((s.drop 0).setHome ln e').writeHome (ln * 256 + 4 * w) (leBytes 4 v)) with parked := [] }
    answers (exec (.recallAnswer 0) s) (t.granted ln e' d (2 ^ w) (.slice 3) (.core d))) = true := by decide +kernel

/-- RecallAndAnswer, the last answer of an entry to reclaim. -/
theorem witness_RecallAndAnswer_reclaim : (let w := 2; let e := hE [(w, 9)] fun e => { e with recalling := [w], reclaim := true };
    let s := home (some e) (.core 9) (.recallAns ln 0 [(w, 0x80008)] [(w, 5)] []) .reply; gives (exec (.recallAnswer 0) s) fun t => decide (t.home? ln = none ∧
    t.mem = s.mem)) = true := by decide +kernel

/-- Writebacks, of the owner; and a stale one of the owner and of another. -/
theorem witness_Writebacks : ([true, false].all fun d => [(9, 255), (9, 3), (8, 3), (8, 255)].all fun (p : Nat × Nat) => let w := 2; let c := 9; let v := 77;
    let ver := p.2
    let e := hE [(w, p.1), (5, 3)] fun e => { e with late := [(c, w, 255), (c, w, 3)], resent := [(9, 2, 1), (9, 5, 1)] };
      let s := home (some e) (.core c) (.wback 4 ln ver [(w, 0x80008)] [(w, v, d)])
    let late := e.late.erase (c, w, ver); let resent := e.resent.filter fun x => !(x.1 == c && w == x.2.1)
    answers (exec (.writeback 0) s) (if p.1 ≠ c then ((s.drop 0).setHome ln { e with late := late, resent := resent }).send (.slice 3) (.core c) .reply (.wbackAck 4)
      else if ver = e.ver then let t := (s.drop 0).setHome ln { e with owner := Tbl.erase e.owner w, late := late, resent := resent }
        (if d then t.writeHome (ln * 256 + 4 * w) (leBytes 4 v) else t).send (.slice 3) (.core c) .reply (.wbackAck 4)
      else (((s.drop 0).setHome ln { e with late := late, resent := resent ++ [(c, w, ver)] }).send (.slice 3) (.core c) .reply
        (.resend ln e.ver (2 ^ w))).send (.slice 3) (.core c) .reply (.wbackAck 4))) = true := by decide +kernel

/-- Writebacks, of a line without an entry. -/
theorem witness_Writebacks_none : (let s := home none (.core 9) (.wback 4 ln 3 [] [(2, 77, true), (3, 4, false)]);
    answers (exec (.writeback 0) s) ((s.drop 0).send (.slice 3) (.core 9) .reply (.wbackAck 4))) = true := by decide +kernel

/-- Writebacks, a resend of a held word. -/
theorem witness_Writebacks_resend : (let x := l1l; let w := 20; let s := atL1 (some x) (.slice 3) (.resend ln 3 (2 ^ w));
    let b : WBuf := { id := (s.core 0).l1.clock, line := ln, vas := [(w, Tbl.getD x.vas w 0)], ver := 3, words := [(w, x.word w, x.drt.testBit w)] }
    decide (Tbl.find? x.old w = none) && answers (exec (.resendRequest 0) s) (((s.drop 0).onL1 0 fun l =>
      { l.unregister ln w with wb := l.wb ++ [b], clock := l.clock + 1 }).send (.core 0) (.slice (homeOfLine ln)) .bulk b.body)) = true := by decide +kernel

/-- Writebacks, a resend of no word. -/
theorem witness_Writebacks_resend_none : (let s := atL1 none (.slice 3) (.resend ln 3 4); answers (exec (.resendRequest 0) s) (s.drop 0)) = true := by decide +kernel

/-- Writebacks, the acknowledgement. -/
theorem witness_Writebacks_ack : (let s := atL1 none (.slice 3) (.wbackAck 4) [⟨4, ln, [], 7, []⟩, ⟨5, ln, [], 0, []⟩];
    answers (exec (.writebackAck 0) s) ((s.drop 0).onL1 0 fun l => { l with wb := l.wb.filter (·.id != 4) })) = true := by decide +kernel

/-- A line that the slice does not hold. -/
def gone (b : Body) : State := { home none (.core 0) b with slices := [] }

/-- The home asks the controllers for the line. -/
def fetching (s : State) (line : Nat) : Bool := (List.range 4).all fun j => (s.ctl (controllerOf ((4 * line + j) * 64))).any fun r => r.granule == 4 * line + j &&
    r.write.isEmpty && r.origin == .fetch line && r.deadline == none

/-- RegistrationAtHome, AtomicsAtHome: a line that must be fetched first; and no packet. -/
theorem witness_RegistrationAtHome_absent : ([(Instr.registrationRequest 0, Body.regReq ln 4 0x80000 0),
    (.amoAtHome 0, .amo (rq 0) (ln * 256 + 8) 8 0x80008 (.amo .add 5))].all fun (q : Instr × Body) => let s := gone q.2; match s.packet? 0 with
  | some p => !s.present ln && answers (exec q.1 s) (((s.drop 0).allocate ln).park p) && (s.allocate ln).present ln && fetching (s.allocate ln) ln &&
    (s.allocate ln).ctlBusy ln
  | none => false) = true ∧ exec (.registrationRequest 0) State.reset = .next State.reset := ⟨by decide +kernel, rfl⟩

/-- A state of its slice. -/
def sl (f : Slice → Slice) (s : State) : State := { s with slices := [(homeOfLine ln, f Slice.reset)] }

/-- SecondTouch, misses before a swap. -/
theorem witness_SecondTouch_miss : ([fun (x : Slice) => x, fun x => { x with activeB := true }, fun x => { x with filterA := (filterBits ln).map fun i => (i, true) },
    fun x => { x with missCount := 65534 }].all fun f => let s := sl f State.reset; let x := s.slice (homeOfLine ln)
    let y := (s.countMiss ln).slice (homeOfLine ln)
    decide (s.countsMiss ln = true ∧ s.swapsFilter ln = false ∧ y.missCount = x.missCount + 1 ∧ y.activeB = x.activeB ∧
    (filterTest x.filterA ln = true ∨ filterTest x.filterB ln = true → y.present.contains ln = true ∧ y.filterA = x.filterA ∧ y.filterB = x.filterB) ∧
    (filterTest x.filterA ln = false → filterTest x.filterB ln = false → y.present = x.present ∧ filterTest (if x.activeB then y.filterB else y.filterA) ln = true)) &&
      fetching (s.countMiss ln) ln) = true := by decide +kernel

/-- SecondTouch, the miss that swaps. -/
theorem witness_SecondTouch_swap : ([true, false].all fun b =>
    let s := sl (fun x => { x with missCount := 65535, activeB := b, filterA := [(3, true)], filterB := [(4, true)] }) State.reset; let x := s.slice (homeOfLine ln)
    let y := (s.countMiss ln).slice (homeOfLine ln)
    decide (s.swapsFilter ln = true ∧ x.missCount = 65535 ∧ y.missCount = 0 ∧ y.activeB = !x.activeB ∧
      (if y.activeB then y.filterB else y.filterA) = [])) = true := by decide +kernel

/-- SecondTouch: a read of a line that is held; and of one of the host tier. -/
theorem witness_SecondTouch_other : (let s := home none (.core 0) (.missReq ln 1 6 [] false); s.countsMiss ln = false ∧ s.countMiss ln = s ∧
    s.countMiss (2 ^ 34) = s.allocate (2 ^ 34)) := by decide +kernel

/-- SectorRequests, words at home. -/
theorem witness_SectorRequests_miss : ([1, 5, 13].all fun sectors => let s := home (some (hE [(63, 7)])) (.core 0) (.missReq ln (sectors &&& 7) 6 [] false);
    let t := (s.drop 0).send (.slice 3) (.core 0) .reply (.fill ln (sectors &&& 7) 6 0 ((wordsOf (sectors &&& 7)).map fun w => (w, s.homeNum (ln * 256 + 4 * w) 4)));
    answers (exec (.loadMissRequest 0) s) t && answers (exec (.filterSwap 0) s) s) = true := by decide +kernel

/-- SectorRequests: the line is absent, and the miss swaps the filters or not; or is being fetched. -/
theorem witness_SectorRequests_absent : ([0, 65535].all fun n => [true, false].all fun b =>
    let s := (fun s => if b then { s with ctls := (s.fetchLine ln).ctls } else s) (sl (fun x => { x with missCount := n }) (home none (.core 0) (.missReq ln 5 6 [] false))); match s.packet? 0 with
   | some p => (s.countsMiss ln || (!s.present ln && s.ctlBusy ln)) && (let t := ((s.drop 0).countMiss ln).park p
     if s.swapsFilter ln then answers (exec (.filterSwap 0) s) t && answers (exec (.loadMissRequest 0) s) s else answers (exec (.loadMissRequest 0) s) t &&
       answers (exec (.filterSwap 0) s) s)
   | none => false) = true := by decide +kernel

/-- SectorRequests, a word of an owner. -/
theorem witness_SectorRequests_forward : (let w := 20; let d := 7; let s := home (some (hE [(w, d)])) (.core 0) (.missReq ln 3 6 [] false);
    answers (exec (.loadMissRequest 0) s) (((s.drop 0).send (.slice 3) (.core d) .request (.fwdReq ln (2 ^ w))).park
      { src := .core 0, dst := .slice 3, plane := .request, body := .missReq ln 3 6 [] true })) = true := by decide +kernel

/-- SectorRequests, the owner answers. -/
theorem witness_SectorRequests_owner : (let s := atL1 (some (l1l fun x => { x with reg := 2 ^ 20 + 2 ^ 3, pend := 0 })) (.slice 3) (.fwdReq ln (2 ^ 20 + 2 ^ 3));
    (∀ w ∈ maskList 64 (2 ^ 20 + 2 ^ 3), (s.core 0).l1.awaits ln w = false ∧ ((s.core 0).l1.value? ln w).isSome = true) ∧
    answers (exec (.forwardRequest 0) s) ((s.drop 0).send (.core 0) (.slice 3) .reply
        (.fwdAns ln ((maskList 64 (2 ^ 20 + 2 ^ 3)).map fun w => (w, ((s.core 0).l1.value? ln w).getD 0))))) = true := by decide +kernel

/-- SectorRequests, an owner that awaits a grant. -/
theorem witness_SectorRequests_owner_awaits : (let s := atL1 (some l1l) (.slice 3) (.fwdReq ln 4); (s.core 0).l1.awaits ln 2 = true ∧
    answers (exec (.forwardRequest 0) s) (s.heldBack 0)) = true := by decide +kernel

/-- SectorRequests, the answer at home. -/
theorem witness_SectorRequests_answer : ([3, 2].all fun sectors => let w := 20; let d := 7; let v := 0x12345678;
    let s := home (some (hE [(w, d)])) (.core d) (.fwdAns ln [(w, v)]) .reply fun s => { s with parked := [{ pkt := { src := .core 0, dst := .slice 3, plane := .request, body := .missReq ln sectors 6 [] true }, bucket := none }] };
   answers (exec (.forwardAnswer 0) s) ({ s.drop 0 with parked := [] }.send (.slice 3) (.core 0) .reply (.fill ln sectors 6 0 ((wordsOf sectors).map fun i =>
     (i, if i = w then v else s.homeNum (ln * 256 + 4 * i) 4))))) = true := by decide +kernel

/-- SectorRequests, the fill at the L1. -/
theorem witness_SectorRequests_fill : ([(0, 0), (1, 0), (1, 2), (3, 8)].all fun (p : Nat × Nat) => let j := p.1; let psn := p.2;
    let vals := (rangeFrom (16 * j) 16).map fun w => (w, w * 1000 + 1); let x := l1l;
    let s := atL1 (some x) (.slice 3) (.fill ln (2 ^ j) 6 psn vals) [] [(ln, j, 6), (ln, 2, 5)];
    let y := vals.foldl (fun y v => if v.1 / 16 = j ∧ y.reg.testBit v.1 = false then y.merge v.1 v.2 else y) x
    answers (exec (.sectorFill 0) s) ((s.drop 0).onL1 0 fun l =>
      { l with missing := l.missing.filter fun m => !(m.1 == ln &&
        m.2.2 == 6) }.setLine ln { y with sv := x.sv ||| 2 ^ j, psn := maskClear x.psn (2 ^ j) ||| (psn &&& 2 ^ j), hs := (List.range 4).map fun i => s.hostState (ln * 4 + i) })) = true := by decide +kernel

/-- SectorRequests, the fill of a line that is gone. -/
theorem witness_SectorRequests_fill_none : (let s := atL1 none (.slice 3) (.fill ln 1 6 0 []) [] [(ln, 0, 6), (ln, 2, 5)];
    answers (exec (.sectorFill 0) s) ((s.drop 0).onL1 0 fun l => { l with missing := l.missing.filter fun m => !(m.1 == ln && m.2.2 == 6) })) = true := by decide +kernel

/-- AtomicsAtHome, AMO and CAS of several places. -/
theorem witness_AtomicsAtHome_atomic : ([(8, 4), (8, 8), (12, 4), (248, 8), (252, 4), (0, 16)].all fun (p : Nat × Nat) =>
    [Rmw.amo .add 5, .cas 0x44332211 7, .cas 0 7].all fun op => let pa := ln * 256 + p.1; let n := p.2;
    let s := home (some (hE [(20, 7)])) (.core 0) (.amo (rq 0) pa n 0x80000 op);
    let s := { s with cores := [(0, { Core.reset with l1 := { lines := [(ln, l1l)], missing := [(ln, 0, 3)], wb := [], clock := 0 } })] }
    let old := s.homeNum pa n
    let t := match op.new n old with
      | none => s.drop 0
      | some v => (s.drop 0).writeHome pa (leBytes n v)
    answers (exec (.amoAtHome 0) s) ((t.onL1 0 fun l => l.clearSv (lineOf pa) ((sectorsOf (wordMask (lineOf pa) pa n)).foldl maskSet 0)).send
      (.slice 3) (.core 0) .reply (.reply false (oldWords n old)))) = true := by decide +kernel

/-- AtomicsAtHome, words of another owner. -/
theorem witness_AtomicsAtHome_recall : (let pa := ln * 256 + 80; let e := hE [(20, 7), (3, 4)];
    let s := home (some e) (.core 0) (.amo (rq 0) pa 8 0x80050 (.amo .add 5)); match s.packet? 0 with
   | some p => answers (exec (.amoAtHome 0) s) ((((s.drop 0).setHome (lineOf pa) { e with recalling := [20] }).send (.slice (homeOfLine (lineOf pa))) (.core 7) .request (.recall (lineOf pa) (2 ^ 20))).park p)
   | none => false) = true := by decide +kernel

/-- AtomicsAtHome, poison and a latent error. -/
theorem witness_AtomicsAtHome_poisoned : ([true, false].all fun q => let pa := ln * 256 + 80;
    let s := home none (.core 0) (.amo (rq 0) pa 8 0x80050 (.amo .add 5)) .request fun s => if q then { s with poison := [(pa / 64, true)] } else { s with latent := [(pa / 64, true)] }; match s.firstBad pa 8 with
   | some a => answers (exec (.amoAtHome 0) s) (((s.drop 0).detectAll pa 8).send (.slice 3) (.core 0) .reply (.failed false ⟨0x22, w64 (0x80050 + (a - pa))⟩))
   | none => false) = true := by decide +kernel


end Sys2Proof.Tests.Lines

/-! ## Translation and the host -/

namespace Sys2Proof.Tests.HostSide
open Sys2Proof.Machine Sys2Proof.Tests

/-- Tables at 0x100000 (level 1), 0x110000, 0x120000; leaf to page 7 (512 KiB). VA 0x40080012345. -/
def tables (e1 e2 e3 : Nat) : Memory := ((Memory.writeN [] (0x100000 + 8 * 0) (leBytes 8 e1)).writeN (0x110000 + 8 * 1) (leBytes 8 e2)).writeN (0x120000 + 8 * 2) (leBytes 8 e3)

/-- An address of page 2. -/
def va : Nat := 1 * 2 ^ 31 + 2 * 2 ^ 19 + 0x12345

/-- A walk for two cores. -/
def wk (f : Walk → Walk := id) : Walk := f { who := [(0, 0), (5, 2)], asid := 3, ptroot := 0x100000, va := va, result := none, dead := false }

/-- A machine with that walk. -/
def wS (m : Memory) (w : Walk) : State := { State.reset with mem := m, walks := [w] }

/-- A leaf of size `sz`. -/
def leaf3 (sz : Nat) : Nat := 3 + sz * 4 + 2 ^ 4 + 2 ^ 5 + 64 * 2 ^ 19

/-- Translation, leaves of 512 KiB and 32 MiB. -/
theorem witness_Translation_walk_small : ([(0, 19), (1, 25)].all fun (p : Nat × Nat) => let e3 := leaf3 p.1; let s := wS (tables 0x110001 0x120001 e3) wk;
    answers (exec (.pageWalk 0) s) { s with walks := [{ wk with result := some (some (leafTlb e3 p.2 3 va)) }] }) = true := by decide +kernel

/-- Translation, a leaf of 2 GiB. -/
theorem witness_Translation_walk_large : (let e2 := leaf3 2 + (4096 - 64) * 2 ^ 19; let s := wS (tables 0x110001 e2 0) wk;
    answers (exec (.pageWalk 0) s) { s with walks := [{ wk with result := some (some (leafTlb e2 31 3 va)) }] }) = true := by decide +kernel

/-- Translation, an entry that is not valid, at each level. -/
theorem witness_Translation_walk_none : ([tables 0 0 0, tables 0x110001 0 0, tables 0x110001 0x120001 0].all fun m => let s := wS m wk;
    answers (exec (.pageWalk 0) s) { s with walks := [{ wk with result := some none }] }) = true := by decide +kernel

/-- Translation, what the hypotheses on the entries say of these tables. -/
theorem witness_Translation_entries : (let s := wS (tables 0x110001 0x120001 (leaf3 1)) wk; EntryAt s (0x100000 + 8 * bitsOf va 55 43) 0x110001 ∧
    Names s 0x110001 0x110000 ∧ EntryAt s (0x110000 + 8 * bitsOf va 42 31) 0x120001 ∧ Names s 0x120001 0x120000 ∧
   EntryAt s (0x120000 + 8 * bitsOf va 30 19) (leaf3 1) ∧ LeafEntry s (leaf3 1) 25 ∧ s.populated 0x100000 0x10000 = true) := by
  refine ⟨⟨?_, ?_, ?_⟩, ⟨?_, ?_, ?_, ?_, ?_, ?_⟩, ⟨?_, ?_, ?_⟩, ⟨?_, ?_, ?_, ?_, ?_, ?_⟩, ⟨?_, ?_, ?_⟩, ⟨?_, ?_, ?_, ?_, ?_⟩, ?_⟩ <;> decide +kernel

/-- An entry. -/
def te : TlbEntry := ⟨3, false, 0, 7, 64, true, true⟩

/-- Translation, a fill for two cores. -/
theorem witness_Translation_fill : (let w := wk fun w => { w with result := some (some te) }; let s := wS [] w;
    answers (exec (.tlbFill 0) s) (w.who.foldl (fun s q => s.installTlb q.1 te) { s with walks := [] })) = true := by decide +kernel

/-- Translation, a walk that found nothing. -/
theorem witness_Translation_fill_failed : (let w := wk fun w => { w with result := some none }; let s := wS [] w;
    answers (exec (.tlbFill 0) s) (w.who.foldl (fun s q => s.onCore q.1 fun x =>
    { x with walkFail := x.walkFail ++ [(q.2, w.va / 2 ^ 19)] }) { s with walks := [] })) = true := by decide +kernel

/-- Translation, a walk that an invalidation overtook. -/
theorem witness_Translation_dead : (let w := wk fun w => { w with result := some none, dead := true }; let s := wS [] w;
    answers (exec (.tlbFill 0) s) { s with walks := [{ w with result := none, dead := false }] }) = true := by decide +kernel

/-- A supervisor task. -/
def tTlb (a b : W) : Task := { Task.enter false 0 0 [] with sup := true, x := [(4, a), (8, b)] }

/-- Its core, with four entries. -/
def cTlb (t : Task) : Core := { core0 t with tlb := [⟨3, false, 0, 7, 64, true, true⟩, ⟨4, true, 0, 7, 64, true, true⟩, ⟨3, false, 1, 0, 64, true, true⟩, ⟨5, false, 0, 9, 64, true, true⟩] }

/-- Translation, TLBINV by ASID and of all. -/
theorem witness_Translation_invalidate : ([Scope.core, .cluster, .package].all fun sc => [(0x20003 : W), 0x30000].all fun b => let t := tTlb 0 b;
    let s : State := { withCore (cTlb t) with dieTlb := [(0, (cTlb t).tlb)] }; let u := s.tlbinv 0 sc fun e => b.getLsbD 16 || e.asid == b.toNat % 2 ^ 16 || e.g;
    answers (exec (.tlbinv ⟨sc, 8, 4, .always⟩) s) (u.retire 0 (u.core 0) t 2) &&
    (u.core 0).tlb.all (fun e => !(b.getLsbD 16 || e.asid == b.toNat % 2 ^ 16 || e.g))) = true := by decide +kernel

/-- Translation, TLBINV of one page. -/
theorem witness_Translation_invalidate_page : ([Scope.core, .package].all fun sc => [(3 : W), 0x10000].all fun b => let va := 7 * 2 ^ 19 + 5; let t := tTlb (w64 va) b;
    let s : State := { withCore (cTlb t) with dieTlb := [(0, (cTlb t).tlb)] };
    let u := s.tlbinv 0 sc fun e => (b.getLsbD 16 || e.asid == b.toNat % 2 ^ 16 || e.g) && e.page == va / 2 ^ pageBits e.sz;
    answers (exec (.tlbinv ⟨sc, 8, 4, .always⟩) s) (u.retire 0 (u.core 0) t 2)) = true := by decide +kernel

/-- Translation, TLBINV with a reserved bit. -/
theorem witness_Translation_invalidate_reserved : (let t := tTlb 0 0x40000; traps (.tlbinv ⟨.core, 8, 4, .always⟩) (at0 t) 0 t 1 0x40000) = true := by decide +kernel

/-- A line of the host. -/
def ln : Nat := 0x1000

/-- A copy of it. -/
def l1x : L1 := { lines := [(ln, { vas := [], units := [], old := [], sv := 0xF, reg := 2 ^ 20, drt := 2 ^ 20, pend := 0, bytes := 0, hs := [.m, .m, .m, .m], psn := 0, lv := 3, data := [(80, 5)], used := 0 })], missing := [], wb := [], clock := 1 }

/-- A copy that owns nothing. -/
def l1y : L1 := { l1x with lines := l1x.lines.map fun e => (e.1, { e.2 with reg := 0, drt := 0 }) }

/-- A machine whose sector 1 of the line has state `st`. -/
def snS (st : HostState) (f : State → State := id) : State := f { State.reset with hostBias := [(ln * 256 / 2 ^ 19, true)], hostSectors := [(ln * 4 + 1, st), (ln * 4 + 2, .s)], homeLines := [(ln, { HomeLine.new with owner := [(20, 7), (3, 9)] })], cores := [(7, { Core.reset with l1 := l1x }), (8, { Core.reset with l1 := l1y })] }

/-- No word of sector `g` has an owner. -/
def back (s t : State) (g : Nat) : Bool := match t.home? (g / 4) with | some e => e.owner.all fun o => decide (o.1 < 64 → o.1 / 16 ≠ g % 4) | none => true

/-- Snoops, for ownership, of every state. -/
theorem witness_Snoops_own : ([HostState.m, .o, .s, .e].all fun st => let s := snS st; let pa := ln * 256 + 64;
    decide (s.snoopable (pa / 64) = true ∧ s.hostState (pa / 64) = st) && gives (exec (.hostSnoopOwnership pa) s) fun t => decide (t.hostState (pa / 64) = .i ∧
    t.hostState (ln * 4 + 2) = .s) && back s t (pa / 64) &&
    [7, 8].all fun c => match (t.core c).l1.line? ln with | some x => !x.sv.testBit 1 && x.sv.testBit 0 | none => false) = true := by decide +kernel

/-- Snoops, for sharing. -/
theorem witness_Snoops_share : ([HostState.m, .o].all fun st => let s := snS st; let pa := ln * 256 + 64;
    gives (exec (.hostSnoopSharing pa) s) fun t => decide (t.hostState (pa / 64) = .s ∧ t.hostState (ln * 4 + 2) = .s ∧ s.sectorOwners (pa / 64) = [7]) &&
    back s t (pa / 64) && match (t.core 7).l1.line? ln with | some x => !x.sv.testBit 1 && x.sv.testBit 0 | none => false) = true := by decide +kernel

/-- Snoops, of a sector the device does not hold. -/
theorem witness_Snoops_none : (let s := snS .i; answers (exec (.hostSnoopOwnership (ln * 256 + 64)) s) s && answers (exec (.hostSnoopSharing (ln * 256 + 64)) s) s &&
    answers (exec (.hostSnoopSharing (ln * 256 + 64)) (snS .e)) (snS .e) && answers (exec (.hostSnoopOwnership 64) s) s) = true := by decide +kernel

/-- Snoops, of a sector of the host tier. -/
theorem witness_Snoops_tier : (let pa := Config.hostTierPa + 64;
    let s : State := { State.reset with hostSectors := [(pa / 64, .m)], mem := Memory.writeN [] pa [1, 2, 3], hostBase := 2 ^ 45 };
    decide (s.snoopable (pa / 64) = true) &&
    gives (exec (.hostSnoopOwnership pa) s) fun t => decide (t.hostMem = [⟨2 ^ 45 + 64, 1⟩, ⟨2 ^ 45 + 65, 2⟩, ⟨2 ^ 45 + 66, 3⟩])) = true := by decide +kernel

/-- A granule. -/
def d64 : List Byte := (List.range 64).map fun i => BitVec.ofNat 8 (i + 3)

/-- An exchange of that sector. -/
def exS (own : Bool) (st : HostState) : State := { State.reset with exchanges := [{ sector := ln * 4 + 1, own := own }], hostBias := [(ln * 256 / 2 ^ 19, true)], hostSectors := Tbl.put .i [] (ln * 4 + 1) st }

/-- Exchanges, with data, clean and poisoned. -/
theorem witness_Exchanges_data : ([true, false].all fun own => [true, false].all fun excl => let x : Exchange := { sector := ln * 4 + 1, own := own };
    let s := exS own .i; let t := { s with exchanges := [] }.writeHome (x.sector * 64) d64; let st : HostState := if x.own || excl then .e else .s;
    answers (exec (.cxlExchangeComplete 0 excl false d64) s) (t.setHostState x.sector st) &&
    answers (exec (.cxlExchangeComplete 0 excl true d64) s) (({ t with poison := Tbl.put false t.poison x.sector true }.machineCheck 0 (.granule x.sector)).setHostState x.sector st)) = true := by decide +kernel

/-- Exchanges, without data. -/
theorem witness_Exchanges_upgrade : ([true, false].all fun excl => let s := exS true .s;
    answers (exec (.cxlExchangeComplete 0 excl false []) s) ({ s with exchanges := [] }.setHostState (ln * 4 + 1) .e) &&
    answers (exec (.cxlExchangeComplete 1 excl false []) s) s) = true := by decide +kernel

/-- A machine with the line in device bias, and with what the host has posted. -/
def hostS (posted : List (Nat × Nat × List Byte) := []) (bias : Tbl Bool := []) : State := { snS .i with hostBias := bias, hostPosted := posted, postedNext := 7 }

/-- HostAccesses, writes: to a line in device bias, and to one in host bias of which the device holds nothing. -/
theorem witness_HostAccesses_write : ([0x20, 0x3C].all fun o => [[], [(ln * 256 / 2 ^ 19, true)]].all fun bias => let pa := ln * 256 + 64 + o; let s := hostS [] bias;
    let data : List Byte := [1, 0, 3, 4]
    decide (pa % 64 + data.length ≤ 64 ∧ pa + data.length ≤ Config.hbmSize ∧ s.booting = false ∧ s.hostPosted = [] ∧ s.bad (pa / 64) = false) &&
    decide ((s.hostLine (pa / 64 * 64) = false ∧ s.ready [(pa / 64 * 64, 64)] true = .ok) ∨ (s.hostLine (pa / 64 * 64) = true ∧ s.hostOwn (pa / 64) = true)) &&
    answers (exec (.hostCxlMemAccess true pa 0 data) s) (s.hostStore pa data) &&
      (List.range 4).all fun i => (s.hostStore pa data).mem.read (pa + i) = data.getD i 0) = true := by decide +kernel

/-- HostAccesses, writes that are kept: behind another, and to a sector that the device holds; and one that is performed later. -/
theorem witness_HostAccesses_posted : (let pa := ln * 256 + 64; let s := hostS [(6, 0, [9])]; let u : State := { snS .m with postedNext := 3 };
    let v := hostS [(6, pa, [5, 6])]
    decide (u.hostLine (pa / 64 * 64) = true ∧ u.hostOwn (pa / 64) = false) &&
    answers (exec (.hostCxlMemAccess true pa 0 [1, 2]) s) { s with hostPosted := [(6, 0, [9]), (7, pa, [1, 2])], postedNext := 8 } &&
    answers (exec (.hostCxlMemAccess true pa 0 [1, 2]) u) { u with hostPosted := [(3, pa, [1, 2])], postedNext := 4 } &&
    decide (v.hostMay pa 2 true = .ok ∧ v.hostAgain = { v.hostStore pa [5, 6] with hostPosted := [] } ∧ v.hostAgain.mem.read pa = 5)) = true := by decide +kernel

/-- HostAccesses, reads: of a registered word and of poison; behind a write, and of a sector that the device holds. -/
theorem witness_HostAccesses_read : (let pa := ln * 256 + 80; let s := hostS; let h := hostS [] [(ln * 256 / 2 ^ 19, true)];
    let q : State := { s with poison := [(pa / 64, true)] }; let u := hostS [(6, 0, [9])]; let v := snS .m
    decide (s.hostLine (pa / 64 * 64) = false ∧ s.ready [(pa / 64 * 64, 64)] false = .ok ∧ s.byteNow pa = 5 ∧ h.hostOwn (pa / 64) = true ∧
      h.hostLine (pa / 64 * 64) = true ∧ q.bad (pa / 64) = true) &&
    answers (exec (.hostCxlMemAccess false pa 4 []) s) { s with hostGot := (rangeFrom pa 4).map s.byteNow } &&
    answers (exec (.hostCxlMemAccess false pa 4 []) h) { h with hostGot := (rangeFrom pa 4).map h.byteNow } &&
    answers (exec (.hostCxlMemAccess false pa 4 []) q) { q.detect (pa / 64) with hostGot := [] } &&
    answers (exec (.hostCxlMemAccess false pa 4 []) u) u && decide (v.hostLine (pa / 64 * 64) = true ∧ v.hostState (pa / 64) ≠ .i) &&
      answers (exec (.hostCxlMemAccess false pa 4 []) v) v) = true := by decide +kernel

/-- HostAccesses: a place that does not exist; and while a reset is under way. -/
theorem witness_HostAccesses_stopped : exec (.hostCxlMemAccess false (Config.hbmSize - 2) 4 []) State.reset = .fault (.unpopulated (Config.hbmSize - 2)) ∧
    exec (.hostCxlMemAccess true (Config.hbmSize - 1) 0 [1, 2]) State.reset = .fault (.unpopulated (Config.hbmSize - 1)) ∧
    exec (.hostCxlMemAccess true 64 0 [1, 2]) { State.reset with booting := true } = .next { State.reset with booting := true } := ⟨rfl, rfl, rfl⟩

/-- A command. -/
def hd : CmdHead := { slot := 3, irq := true, tag := 9, reserved := false }

/-- The line's page. -/
def page : Nat := ln * 256 / 2 ^ 19

/-- A flip of it. -/
def fl (dir : Bool) (arr : List Nat) : Flip := { page := page, toHost := dir, arrived := arr, head := hd }

/-- Flips, a marker. -/
theorem witness_Flips_marker : (let f := fl true [4]; let s := withNet { State.reset with flips := [f] } (pk (.mgmt 0) (.slice 3) .request (.flipMarker page 3));
    answers (exec (.flipMarker 0) s) { s.drop 0 with flips := [{ f with arrived := f.arrived ++ [3] }] } &&
    decide (pageOfLine (ln + 7) = page)) = true := by decide +kernel

/-- A machine in which every home has the marker of a flip of the page. -/
def flS (dir : Bool) (bias : Tbl Bool) : State := { snS .m with flips := [fl dir (List.range 256)], hostBias := bias }

/-- The page is cleaned. -/
def cleaned (s : State) : State := (s.clean fun line => pageOfLine line == page).renewPage page

/-- Flips, the flip to host bias. -/
theorem witness_Flips_complete : (let s := flS true []; let f := fl true (List.range 256); let t := cleaned s
    decide (s.flips.find? (·.page == page) = some f ∧ Config.numSlices ≤ f.arrived.length ∧ s.cleanable page = true ∧ s.parked = []) && (
    let r := { t with hostSectors := t.hostSectors.filter (fun e => pageOfLine (e.1 / 4) != page), hostBias := Tbl.put false t.hostBias page f.toHost, flips := t.flips.erase f }
    answers (exec (.biasFlipComplete page) s) (r.complete f.head 0 []) && Tbl.getD (r.complete f.head 0 []).hostBias page false &&
      match t.home? ln, (t.core 7).l1.line? ln with | some e, some x => e.owner.isEmpty && x.sv == 0 | none, some x => x.sv == 0 | _, _ => false)) = true := by decide +kernel

/-- Flips: to device bias, no sector of a page in device bias is the host's. -/
theorem witness_Flips_device : (flS false []).cleanable page = true ∧ (cleaned (flS false [])).hostsOf page = [] := by
  refine ⟨by decide +kernel, List.filter_eq_nil_iff.2 fun g hg => ?_⟩
  have h : g < page * 8192 + 8192 := by simp only [rangeFrom, List.mem_map, List.mem_range] at hg; omega
  have hb : (cleaned (flS false [])).hostBias = [] := by decide +kernel
  have hp : page = 2 := by decide +kernel
  rw [hp] at h
  have hn : decide (Config.hostTierPa ≤ g * 64) = false := decide_eq_false (by unfold Config.hostTierPa; omega)
  simp [State.sectorHeld, State.hostLine, hb, hn, Tbl.getD, Tbl.find?]

/-- Flips: to device bias, sectors of the page that the host has. -/
theorem witness_Flips_host : (flS false [(page, true)]).cleanable page = true ∧ (cleaned (flS false [(page, true)])).hostsOf page ≠ [] :=
  ⟨by decide +kernel, List.ne_nil_of_mem (a := page * 8192) (List.mem_filter.2 ⟨by simp [rangeFrom], by decide +kernel⟩)⟩

/-- Flips, no flip under way. -/
theorem witness_Flips_none : (answers (exec (.biasFlipComplete page) State.reset) State.reset &&
    (let s : State := { snS .m with flips := [fl true (List.range 256)], exchanges := [⟨page * 8192, true⟩] }; !s.cleanable page &&
    answers (exec (.biasFlipComplete page) s) s)) = true := by decide +kernel


end Sys2Proof.Tests.HostSide

/-! ## Firmware commands, preemption and links -/

namespace Sys2Proof.Tests.Commands
open Sys2Proof.Machine Sys2Proof.Tests

/-- A command in slot 3. -/
def hd (irq : Bool := true) (res : Bool := false) : CmdHead := { slot := 3, irq := irq, tag := 9, reserved := res }

/-- A slot. -/
def slotOf (run : Bool) (waits : Option (CmdHead × List Nat) := none) (ctx : Option Nat := none) (since : Nat := 0) : CmdSlot :=
  { running := run, code := 6, tag := 1, irq := false, out := [], param := [], waits := waits, ctx := ctx, since := since }

/-- Slot 3 is busy. -/
def busy : State := { State.reset with slots := [(3, slotOf true)] }

/-- Cores 0 and 1. -/
def r0 : Rect := ⟨0, 0, 0, 0, 3⟩

/-- One command of each kind. -/
noncomputable def starters (h : CmdHead) : List Instr := [.ctxcreate h 0 0 [], .codeload h 1 r0 0 ⟨0, []⟩, .descset h 1 0 ⟨0, []⟩, .preempt h 1 false [], .ctxdestroy h 1,
  .runtimeload h 1 r0 0 0 ⟨0, []⟩ 0 true true, .biasflip h 0 true, .groupset h 0 true 0 [], .peerbind h 1 0 0 0 true, .hosttier h 0 0, .patchload h 1 1 true true,
  .runtimecall h 1 0 0 0, .restore h 1 [], .monread h [] 0, .events h 0]

/-- CommandSlots, a busy slot, a reset under way, and a slot that is none. -/
theorem witness_CommandSlots_busy : ((starters (hd)).all fun i => (startOf i == some hd) && answers (exec i busy) busy &&
    answers (exec i { State.reset with booting := true }) { State.reset with booting := true }) = true ∧
    exec (.events { hd with slot := 16 } 0) State.reset = .next State.reset := ⟨by decide +kernel, rfl⟩

/-- CommandSlots, a command with a reserved bit. -/
theorem witness_CommandSlots_reserved : ((starters (hd true true)).all fun i => gives (exec i State.reset) fun t => ((Tbl.find? t.slots 3).any fun x => !x.running &&
    x.code == 1 && x.tag == 9 && x.waits.isNone) && t.msix == 8) = true := by decide +kernel

/-- CommandSlots, completion, with and without an interrupt. -/
theorem witness_CommandSlots_complete : ([true, false].all fun q => let s := busy; let h := hd q;
    decide (Tbl.find? (s.complete h 4 [7]).slots h.slot = some { slotOf false with code := 4, tag := h.tag, irq := h.irq, out := [7] } ∧
    (s.complete h 4 [7]).msix = (if h.irq then s.msix ||| 2 ^ h.slot else s.msix))) = true := by decide +kernel

/-- Slot 4 runs a command of context 5 since time 2; slot 3's since 5. -/
def behind (x : CmdSlot) (ctx : Nat) : State := { State.reset with slots := [(3, x), (4, slotOf true none (some ctx) 2)], tick := 7 }

/-- CommandSlots: behind another command, started and waiting; and free to go on. -/
theorem witness_CommandSlots_turn : (let g := fun (s : State) => CmdRes.did (s.complete hd 0 [])
    let s := behind (slotOf false) 5; let w := slotOf true (some (hd, [1])) (some 5) 5; let u := behind w 5; let v := behind w 6
    s.cmdBehind hd (some 5) s.tick && answers (s.command hd 2 [1] (some 5) g) (s.started hd 2 [1] (some 5)) &&
    u.cmdBehind hd (some 5) 5 && answers (u.command hd 2 [1] (some 5) g) u && !v.cmdBehind hd (some 5) 5 &&
      answers (v.command hd 2 [1] (some 5) g) (v.complete hd 0 [])) = true := by decide +kernel

/-- CommandSlots, a command that starts, and one that goes on. -/
theorem witness_CommandSlots_starts : Starts State.reset (hd) none ∧ Continues { State.reset with slots := [(3, slotOf true (some (hd, [1])))] } hd [1] none :=
  ⟨⟨by decide, rfl, by intro x h; simp [State.reset, Tbl.find?] at h, rfl, rfl⟩, ⟨by decide, rfl, ⟨_, rfl, rfl, rfl, rfl⟩⟩⟩

/-- Bar0: STATUS of a slot and of a window, the reserved part, and no write during a reset. -/
theorem witness_Bar0 : (let s : State := { State.reset with slots := [(3, slotOf true), (4, slotOf false)], windows := [(1023, { arg0 := 0x0102, arg1 := 0x0304, queue := [], flying := false, result := 5, pushed := 2 ^ 56 + 0x0607 })] }
    (List.range 8).map (fun j => s.barByte 0 (0x8300 + j)) == [0, 0, 0, 0, 0, 0, 0, 0x80] && s.barByte 0 0x8404 == 6 &&
      { s with booting := true }.barByte 0 0x8407 == 0x80 &&
    (List.range 32).map (fun j => s.barByte 0xAA (1023 * 32 + j)) == [2, 1, 0, 0, 0, 0, 0, 0, 4, 3, 0, 0, 0, 0, 0, 0, 0xAA, 0, 0, 0, 0, 0, 0, 0, 5, 7, 6, 0, 0, 0, 0,
      0] &&
    s.barByte 0 0x9000 == 0 && answers (barWriteStep 0x9000 [1] s) s && answers (barWriteStep 0 [1] { s with booting := true }) { s with booting := true } &&
    answers (barReadStep 0 4 { s with hostPosted := [(0, 0, [1])] }) { s with hostPosted := [(0, 0, [1])] }) = true := by decide +kernel

/-- Bar0: an OP that is none. -/
theorem witness_Bar0_unknown : answers (unknownCommandStep hd State.reset) ((State.reset.started hd 0 [] none).complete hd 1 []) = true := by decide +kernel

/-- A leaf. -/
def leaf (p : Nat) : Nat := 3 + 2 ^ 4 + 2 ^ 5 + p * 2 ^ 19

/-- Tables that map page 0. -/
def tables : Memory := ((Memory.writeN [] 0x100000 (leBytes 8 0x110001)).writeN 0x110000 (leBytes 8 0x120001)).writeN 0x120000 (leBytes 8 (leaf 7))

/-- A descriptor table of one slot. -/
def sC (slot0 : List Byte := []) : State := { State.reset with mem := tables.writeN (7 * 2 ^ 19) slot0 }

/-- Creating, a free number, whatever the free value. -/
theorem witness_Creating_fresh (k : Nat) : (sC).newCtx k = some (k % 2 ^ 16) := by
  simp [State.newCtx, State.context?, sC, State.reset, Tbl.find?, List.range_succ_eq_map, Config.maxContexts]

/-- Creating, a table of one slot, and one of two of which the other has no page. -/
theorem witness_Creating_table : (let s := sC; let w := s.slotWalks 5 0x100000 (dtabOf 0); let u := s.slotWalks 5 0x100000 (dtabOf (2 ^ 20))
    walksWait w = none ∧ mappedSlots w = [7 * 2 ^ 19] ∧ w.length = 1 ∧ s.ready ((mappedSlots w).map fun pa => (pa, 64)) true = .ok ∧
    walksWait u = none ∧ (mappedSlots u).length ≠ u.length) := by decide +kernel

/-- Creating, no context free, and a core that is bound. -/
theorem witness_Creating_none : ([true, false].all fun q =>
    let s : State := if q then { sC with contexts := (List.range 64).map fun n => (n, { state := .fresh, ptroot := 0, dtab := 0, areas := [], peers := [], preempt := none, moving := false }) } else { sC with cores := [(1, core0 task0)] }
    answers (exec (.ctxcreate hd 0x100000 0 [(1, 0x1000)]) s) ((s.started hd 1 [0x100000, 0, 1, 0x1000] none).complete hd 3 [])) = true := by decide +kernel

/-- A context. -/
def cx (st : CtxState) (f : Context → Context := id) : Context := f { state := st, ptroot := 0x100000, dtab := 0, areas := [(1, 2 ^ 45)], peers := [], preempt := none, moving := false }

/-- Context 5. -/
def withCtx (s : State) (x : Context) (n : Nat := 5) : State := { s with contexts := [(n, x)] }

/-- A descriptor. -/
def ds (gen kind : Nat) : List Byte := leBytes 64 (kind + gen * 2 ^ 16 + 7 * 2 ^ 200)

/-- Destroying, of every state, with and without a live slot. -/
theorem witness_Destroying_destroy : ([CtxState.fresh, .saved, .failed].all fun st => [(4095, 1), (3, 2), (3, 0)].all fun (p : Nat × Nat) => let x := cx st;
    let s := withCtx (sC (ds p.1 p.2)) x; let u := s.started hd 2 [5] (some 5); let l := liveSlots u 5 x
    decide (u.ctxBusy 5 = false ∧ u.ready (l.map fun pa => (pa, 64)) true = .ok ∧ l = (if p.2 = 0 then [] else [7 * 2 ^ 19]) ∧
      walksWait (u.slotWalks 5 x.ptroot (w64 x.dtab)) = none) && l.all (fun pa => !u.growing pa) &&
    answers (exec (.ctxdestroy hd 5) s) (((l.foldl (fun s pa => s.releaseSlot pa) u).forgetContext 5).complete hd 0 [])) = true := by decide +kernel

/-- Destroying: while a save of the context is under way, and a growth step on its map. -/
theorem witness_Destroying_waits : (let x := cx .saved; let s : State := { withCtx (sC (ds 3 1)) x with ctls := [(0, [⟨0, [], .save 5 false, none, 0, false, 0⟩])] };
    let u := s.started hd 2 [5] (some 5)
    let v : State := { withCtx (sC (ds 3 1)) x with growths := [⟨{ handle := 3, slot := 7 * 2 ^ 19, core := 1, asid := 5, root := 0 }, 0, 1, 0, 0, 1, []⟩] };
      let w := v.started hd 2 [5] (some 5)
    u.ctxBusy 5 && answers (exec (.ctxdestroy hd 5) s) u && !w.ctxBusy 5 && (liveSlots w 5 x).any w.growing &&
      answers (exec (.ctxdestroy hd 5) v) w) = true := by decide +kernel

/-- Destroying, of no context and of a running one. -/
theorem witness_Destroying_state : ([none, some (cx .running), some (cx .saved fun x => { x with preempt := some (hd, true) })].all fun x =>
    let s : State := match x with | some x => withCtx sC x | none => sC;
    answers (exec (.ctxdestroy hd 5) s) ((s.started hd 2 [5] (some 5)).complete hd 2 [])) = true := by decide +kernel

/-- Destroying, what is left. -/
theorem witness_Destroying_forgotten : (let s : State := { withCtx sC (cx .saved) with cores := [(1, { Core.reset with ctx := some 5 })] };
    decide ((s.forgetContext 5).context? 5 = none) && ((s.forgetContext 5).core 1).ctx == none) = true := by decide +kernel

/-- Cores of context 5. -/
def bound (c : List Nat) (t : Option Task := none) : Tbl Core := c.map fun c => (c, { Core.reset with ctx := some 5, lo := t })

/-- Three halfwords. -/
def img : List HW := [0x1234, 0x5678, 0x9ABC]

/-- Their bytes. -/
def imgBytes : List Byte := img.flatMap fun w => leBytes 2 w.toNat

/-- LoadingCode, of three halfwords at the end of the memory: from the host's memory, and from HBM. -/
theorem witness_LoadingCode_load : ([2 ^ 45, 0x500].all fun src =>
    let s : State := { withCtx { State.reset with mem := Memory.writeN [] 0x500 [9, 8, 7, 6, 5, 4] } (cx .fresh) with cores := bound [0, 1] }
   let u := s.started hd 3 (loadParams 5 r0 0x7FFD src img) (some 5); let v := s.started hd 4 (loadParams 5 r0 0x7FFD src img ++ [0x40, 99, 1, 1]) (some 5)
   loadOk r0 0x7FFD 3 && (rectCores r0 == [0, 1]) && decide (u.hostReady src 6 false = .ok ∧ u.hostSound src 6 = true ∧ v.hostReady src 6 false = .ok ∧
     v.hostSound src 6 = true) &&
   (u.param src imgBytes == if src = 0x500 then [9, 8, 7, 6, 5, 4] else imgBytes) &&
   answers (exec (.codeload hd 5 r0 0x7FFD ⟨src, img⟩) s) (((rectCores r0).foldl (fun s c => s.onCore c fun k =>
     k.writeImem (2 * 0x7FFD) (u.param src imgBytes)) u).complete hd 0 []) &&
   answers (exec (.runtimeload hd 5 r0 0x7FFD 0x40 ⟨src, img⟩ 99 true true) s) { ((rectCores r0).foldl (fun s c => s.onCore c fun k =>
          let y := k.writeImem (2 * 0x7FFD) (v.param src imgBytes)
          { y with regs := { y.regs with tvec := w64 0x40 } }) v).complete hd 0 [] with fw := { v.fw with runtimeDigest := 99 } }) = true := by decide +kernel

/-- LoadingCode, of no context, of a running one, of poison, and refused by the check. -/
theorem witness_LoadingCode_state : (let p := fun (src : Nat) => loadParams 5 r0 0 src img;
    let s : State := { withCtx sC (cx .running) with cores := bound [0, 1] (some task0) }
   let q : State := { withCtx sC (cx .running) with cores := bound [0, 1], poison := [(20, true)] }; let u := q.started hd 3 (p 0x500) (some 5)
   answers (exec (.codeload hd 5 r0 0 ⟨(2 ^ 45), img⟩) sC) ((sC.started hd 3 (p (2 ^ 45)) (some 5)).complete hd 2 []) &&
   answers (exec (.codeload hd 5 r0 0 ⟨(2 ^ 45), img⟩) s) ((s.started hd 3 (p (2 ^ 45)) (some 5)).complete hd 2 []) &&
   decide (u.hostReady 0x500 6 false = .ok ∧ u.hostSound 0x500 6 = false) &&
     answers (exec (.codeload hd 5 r0 0 ⟨0x500, img⟩) q) ((u.detectAll 0x500 (hbmPart 0x500 6)).complete hd 4 []) &&
   answers (exec (.runtimeload hd 5 r0 0 0x40 ⟨(2 ^ 45), img⟩ 9 true false) s) ((s.started hd 4 (p (2 ^ 45) ++ [0x40, 9, 1,
     0]) (some 5)).complete hd 5 [])) = true := by decide +kernel

/-- A command's parameters. -/
def dsParams (slot src : Nat) (desc : List Byte) : List Nat := 5 :: slot :: src :: desc.map BitVec.toNat

/-- A map with an overflow arena at `ob` and rows of 64 bytes at `rb`. -/
def mapDs (ob rb : Nat) : List Byte := leBytes 64 (1 + 4 * 2 ^ 40 + ob * 2 ^ 256 + 4 * 2 ^ 320 + rb * 2 ^ 384 + 64 * 2 ^ 480)

/-- DescriptorSlots, DESCSET of every kind and generation, and of maps whose arenas are mapped and are not. -/
theorem witness_DescriptorSlots_set : ([(0, 0), (4095, 0), (7, 2)].all fun (p : Nat × Nat) =>
    [ds 77 0, ds 77 2, ds 77 3, ds 77 4, mapDs 0x40000 0x50000, mapDs 0x40000 (2 ^ 20)].all fun desc => let x := cx .running; let src := 2 ^ 45;
    let s := withCtx (sC (ds p.1 p.2)) x; let pa := 7 * 2 ^ 19
    let u := s.started hd 5 (dsParams 0 src desc) (some 5); let d := leNat (u.param src desc); let kind := dfield d 0 1
    let heads := (arenaHeaders d).map fun e => (u.ctxParts 5 x.ptroot e.1 e.2.length, e.2); let found := headParts heads
    let old := leNat (u.bytesNow pa 64)
    let gen := if bitsOf old 27 16 = 0 then 1 else bitsOf old 27 16
    decide (u.hostReady src 64 false = .ok ∧ u.hostSound src 64 = true ∧ u.ready ((pa, 64) :: found.flatMap Prod.fst) true = .ok) && heads.all (fun e => match e.1 with
      | .wait _ => false
      | _ => true) &&
    (answers (exec (.descset hd 5 0 ⟨src, desc⟩) s) (if kind = 0 ∨ 4 ≤ kind then u.complete hd 1 [] else if dfield old 0 1 ≠ 0 then u.complete hd 3 []
      else if heads.any (fun e => e.1 == .fail) then u.complete hd 4 [] else
      (((found.foldl (fun s e => s.writeParts e.1 e.2) u).engineWrite pa (leBytes 64 (d / 2 ^ 28 * 2 ^ 28 + gen * 2 ^ 16 + d % 2 ^ 16))).forgetSlot pa).complete hd 0 [0 * 4096 + gen]))) = true := by decide +kernel

/-- DescriptorSlots, the headers of a map's arenas. -/
theorem witness_DescriptorSlots_headers : (let d := leNat (mapDs 0x40000 0x50000);
    (arenaHeaders d).map (fun e => (e.1, e.2.length, leNat e.2)) = [(0x40000, 256, 2 ^ 32), (0x50000, 64, 2 ^ 32)] ∧
    arenaHeaders (leNat (ds 77 2)) = []) := by decide +kernel

/-- DescriptorSlots, the slot. -/
theorem witness_DescriptorSlots_slot : (let x := cx .running; SlotAt (withCtx (sC (ds 4 2)) x) 5 x 0 (7 * 2 ^ 19) []) :=
    ⟨rfl, by decide, by decide +kernel, by decide +kernel, by decide +kernel, by decide +kernel⟩

/-- DescriptorSlots, a slot outside the table. -/
theorem witness_DescriptorSlots_outside : (let x := cx .running; let s := withCtx (sC (ds 4 2)) x; 2 ^ (w64 x.dtab).bits 4 0 ≤ 1 ∧
    answers (exec (.descset hd 5 1 ⟨(2 ^ 45), (ds 0 2)⟩) s) ((s.started hd 5 (dsParams 1 (2 ^ 45) (ds 0 2)) (some 5)).complete hd 1 []) ∧
   answers (exec (.descrelease hd 5 1) s) ((s.started hd 6 [5, 1] (some 5)).complete hd 1 [])) = true := by decide +kernel

/-- DescriptorSlots, DESCRELEASE. -/
theorem witness_DescriptorSlots_release : (let x := cx .running; let s := withCtx (sC (ds 4 2)) x; let pa := 7 * 2 ^ 19; let u := s.started hd 6 [5, 0] (some 5);
    answers (exec (.descrelease hd 5 0) s) { (u.releaseSlot pa).begin hd none with releases := [(5, pa, hd)] } &&
   ([true, false].all fun q => let v : State := { s with releases := [(5, pa, hd)], growths := if q then [⟨{ handle := 3, slot := pa, core := 1, asid := 5, root := 0 }, 0, 1, 0, 0, 1, []⟩] else [] }; (v.slotBusy 5 pa == q) &&
     answers (exec (.descrelease hd 5 0) v) (if q then v else { v with releases := [] }.complete hd 0 []))) = true := by decide +kernel

/-- TableCommands, BIASFLIP. -/
theorem witness_TableCommands_biasflip : (let s := State.reset; let u := s.started hd 9 [0x1FFFFF, 1] none;
    answers (exec (.biasflip hd 0x1FFFFF true) s) ((List.range 256).foldl (fun s i =>
    s.send (.mgmt 0) (.slice i) .request (.flipMarker 0x1FFFFF i)) { u.begin hd none with flips := s.flips ++ [{ page := 0x1FFFFF, toHost := true, arrived := [], head := hd }] })) = true := by decide +kernel

/-- TableCommands, GROUPSET, idle and with a round under way. -/
theorem witness_TableCommands_groupset : (let s := State.reset;
    answers (exec (.groupset hd 4095 true 4095 [3,
    0x4005]) s) (((s.started hd 10 [4095, 1, 4095, 3,
    0x4005] none).setGroup 4095 { valid := true, down := false, slack := 4095, members := [3, 0x4005], counts := [], rounds := [] }).complete hd 0 []) &&
   (let u := s.setGroup 7 { valid := true, down := false, slack := 0, members := [3, 4], counts := [], rounds := [⟨1, [], [], []⟩] };
     answers (exec (.groupset hd 7 false 0 []) u) (u.started hd 10 [7, 0, 0] none))) = true := by decide +kernel

/-- TableCommands, PEERBIND. -/
theorem witness_TableCommands_peerbind : (let x := cx .running; let s := withCtx sC x; let u := fun b => s.started hd 11 [5, 15, 77, 8, b2n b] (some 5);
    answers (exec (.peerbind hd 5 15 77 8 true) s) (((u true).setContext 5 { x with peers := Tbl.insert x.peers 15 (77, 8) }).complete hd 0 []) &&
   answers (exec (.peerbind hd 5 15 77 8 false) s) (((u false).setContext 5 { x with peers := Tbl.erase x.peers 15 }).complete hd 0 [])) = true := by decide +kernel

/-- TableCommands, HOSTTIER. -/
theorem witness_TableCommands_hosttier : (let s := State.reset;
    answers (exec (.hosttier hd (2 ^ 45) (2 ^ 44)) s) ({ s.started hd 13 [2 ^ 45, 2 ^ 44] none with hostBase := 2 ^ 45, hostSize := 2 ^ 44 }.complete hd 0 []) &&
   (let u := withCtx sC (cx .fresh); answers (exec (.hosttier hd 0 0) u) ((u.started hd 13 [0, 0] none).complete hd 2 []))) = true := by decide +kernel

/-- TableCommands, PATCHLOAD. -/
theorem witness_TableCommands_patchload : (let s := State.reset;
    answers (exec (.patchload hd 1 88 true true) s) ({ s.started hd 14 [1, 88, 1, 1] none with fw := { s.fw with patchVersion := 1, patchDigest := 88 } }.complete hd 0 []) &&
   answers (exec (.patchload hd 0 88 true true) s) ((s.started hd 14 [0, 88, 1, 1] none).complete hd 5 []) &&
     answers (exec (.patchload hd 4 88 true false) s) ((s.started hd 14 [4, 88, 1, 0] none).complete hd 5 [])) = true := by decide +kernel

/-- TableCommands, MONREAD. -/
theorem witness_TableCommands_monread : (let s := State.reset; let dst := 2 ^ 45;
    answers (exec (.monread hd [1663] dst) s) (((List.range 8).foldl (fun t m => t.hostWrite (dst + 0x100 * m) (s.monitor 1663 m).bytes) (s.started hd 12 [dst,
    1663] none)).complete hd 0 [])) = true := by decide +kernel

/-- TableCommands, EVENTS without an event. -/
theorem witness_TableCommands_events : answers (exec (.events hd (2 ^ 45)) State.reset) ((State.reset.started hd 15 [2 ^ 45] none).complete hd 0 [0]) = true :=
    by decide +kernel

/-- TableCommands, RUNTIMECALL. -/
theorem witness_TableCommands_runtimecall : (let x := cx .running; let s : State := { withCtx sC x with cores := bound [1] };
    let u := fun c => s.started hd 16 [5, c, 7, 8] (some 5)
   answers (exec (.runtimecall hd 5 1 7 8) s) (State.onCore { (u 1).begin hd none with runtimeCalls := s.runtimeCalls ++ [(hd, 1)] } 1 fun k =>
     { k with calls := k.calls ++ [(3, 7, 8)] }) && answers (exec (.runtimecall hd 5 2 7 8) s) ((u 2).complete hd 2 [])) = true := by decide +kernel

/-- Preempting, PREEMPT in every state. -/
theorem witness_Preempting_preempt : ([CtxState.fresh, .running, .saved, .failed].all fun st => let x := cx st;
    let s : State := { withCtx sC x with cores := bound [1, 4] }; let areas := [(4, 2 ^ 46), (1, 2 ^ 47)];
    let y : Context := { x with preempt := some (hd, true), areas := areas ++ x.areas.filter fun e => !(areas.any fun a => a.1 == e.1) }
   let u := s.started hd 7 (5 :: 1 :: areaParams areas) (some 5)
   areasOk areas && answers (exec (.preempt hd 5 true areas) s) (if st = .fresh ∨
     st = .running then (s.coresOf 5).foldl (fun s c => s.onCore c fun k =>
     { k with quiescing := true, quiet := false }) ((u.setContext 5 y).begin hd (some 5)) else u.complete hd 2 [])) = true := by decide +kernel

/-- A core that quiesces. -/
def qc (f : Core → Core := id) : State := { State.reset with cores := [(1, f { Core.reset with ctx := some 5, quiescing := true })] }

/-- Preempting, a core that is quiet, and those that are not. -/
theorem witness_Preempting_quiesce : (let s := qc; decide ((s.core 1).quiesces = true ∧ s.openXfers 1 = []) &&
    answers (exec (.quiesce 1) s) (s.onCore 1 fun k => { k with quiet := true }) &&
    ([fun (k : Core) => { k with lo := some task0 }, fun k => { k with waybill := [(0, { WbEntry.free with state := 1 })] }, fun k =>
    { k with sched := { k.sched with stealing := true } }, fun k => { k with sched := { k.sched with held := 1 } }].all fun f =>
    answers (exec (.quiesce 1) (qc f)) (qc f))) = true := by decide +kernel

/-- A transfer of core 1 in group 7. -/
def rx : Xfer := { op := 5, core := 1, ctx := some 5, sup := false, asid := 0, ptroot := 0, ch := 0, id := 0, pieces := [], add := none, full := false, deadline := none, aux := none, bend := false, decSent := false, decDone := false, nominal := 0, oob := 0, err := none, stop := false, fin := false, base := 0, len := 64, loc := 0, far := .global 0x80000, group := some (7, 0, 1, 0), chunks := 0, lost := false }

/-- It waits in a round for core 4. -/
def roundS : State := { qc with groups := [(7, { valid := true, down := false, slack := 0, members := [1, 4], counts := [], rounds := [⟨1, [(0, 0)], [], []⟩] })], xfers := [rx] }

/-- Preempting: a round that waits for a member that will not join is abandoned. -/
theorem witness_Preempting_round : (let s := roundS; decide ((s.core 1).ctx = some 5 ∧ (s.core 1).stopped = false ∧ (s.core 1).settled = true ∧ s.openXfers 1 = [0] ∧
    s.coresOf 5 = [1] ∧ s.inOpenRound 0 = true) &&
   answers (exec (.quiesce 1) s) ((s.openRounds.filter fun r => r.2.joined.any fun j => ((s.coresOf 5).flatMap s.openXfers).contains j.2).foldl (fun s r =>
     s.failRound r.1 r.2 9) s) && decide (s.openRounds.length = 1)) = true := by decide +kernel

/-- A core that must abort its region. -/
def ab (f : Core → Core := id) : State := { withCtx sC (cx .running fun x => { x with preempt := some (hd, true) }) with cores := [(1, f { Core.reset with ctx := some 5, quiescing := true, lo := some { task0 with idem := some ⟨12, [4, 5]⟩, stalled := true } })] }

/-- Preempting, an abort of a region, and none. -/
theorem witness_Preempting_abort : (let s := ab; match (s.core 1).lo with
   | some t => decide (s.mustAbort 1 = true ∧ t.wait = .none ∧ t.skip = false ∧ t.late = [] ∧ t.bytewise = none ∧ (s.core 1).vu.fault = none ∧ (s.core 1).vu.viq = []) &&
     answers (exec (.idemAbort 1) s) ((((s.onCore 1 fun k => k.onTask false fun t => { t with wait := .none, fail := none, stalled := false }).onCore 1 fun k =>
       { k.dropStream with abortRec := some t })).endTask 1 false) &&
     !qc.mustAbort 1 && answers (exec (.idemAbort 1) qc) qc
   | none => false) = true := by decide +kernel

/-- A context whose cores are quiet, and one whose save is under way. -/
def saveS (moving : Bool) (quiet : Bool := true) (f : State →
    State := id) : State := f { State.reset with cores := [(1, { Core.reset with ctx := some 5, quiescing := true, quiet := quiet })], contexts := [(5, cx .running fun x => { x with preempt := some (hd, true), moving := moving })] }

/-- Traffic of the save of context 5. -/
def traffic (s : State) : State := { s with ctls := [(0, [⟨0, [], .save 5 false, some 256, 0, false, 0⟩])] }

/-- Preempting: the copy phase may begin; it waits for a core; it waits for its traffic; and it ends. -/
theorem witness_Preempting_copy : (let s := saveS false; let x := cx .running fun x => { x with preempt := some (hd, true) }
   decide (s.context? 5 = some x ∧ s.coresOf 5 = [1] ∧ (s.core 1).quiet = true ∧ (s.core 1).stopped = false ∧ (x.areas.find? fun e => e.1 == 1).isSome = true ∧
     s.areaReady (x.area 1) (s.core 1).liveGranules true = true ∧ s.runtimeCalls = []) &&
   answers (exec (.saveCopy 5) (saveS false false)) (saveS false false) && (let u := saveS true true traffic; u.saving 5 && answers (exec (.saveCopy 5) u) u) &&
   (let u := saveS true; !u.saving 5 && answers (exec (.saveCopy 5) u) ((u.setContext 5 { x with state := .saved, preempt := none, moving := false }).complete hd 0 []))) = true := by decide +kernel

/-- SaveTraffic: granules of HBM, saved and loaded, and bytes of the host's memory. -/
theorem witness_SaveTraffic : (let b : List Byte := (List.range 128).map (BitVec.ofNat 8 ·); let s := State.reset; let t := s.saveBytes 5 0x1000 b (· == 1);
    let u := s.loadBytes 5 0x1000 128
   ((List.range 2).all fun i => ((t.ctl (controllerOf (0x1000 + 64 * i))).any fun r => r.granule == 64 + i &&
     r.write == (List.range 64).map (fun j => (0x1000 + 64 * i + j, b.getD (64 * i + j) 0)) && r.deadline == some (s.tick + 256) && r.origin == .save 5 (i == 1)) &&
     (u.ctl (controllerOf (0x1000 + 64 * i))).any fun r => r.granule == 64 + i && r.write.isEmpty && r.deadline == some (s.tick + 256)) &&
   (s.saveBytes 5 (2 ^ 45) b fun _ => false).hostMem.read (2 ^ 45 + 7) == 7) = true := by decide +kernel

/-- A saved context 5, core 1's image of format `f` in the host's memory. -/
def imageS (fmt : Nat) (moving : Bool) (g : State →
    State := id) : State := g { State.reset with contexts := [(5, cx .saved fun x => { x with moving := moving })], hostMem := Memory.writeN [] (2 ^ 45) (leBytes 4 fmt) }

/-- RESTORE's parameters. -/
def restoreParams : List Nat := [5, 1, 2 ^ 45]

/-- Restoring: the images are asked for; a core in use. -/
theorem witness_Restoring_ask : (let s := imageS 1 false; let u := s.started hd 8 restoreParams (some 5); let x := cx .saved;
    let v : State := { s with cores := [(1, core0 task0)] }
   areasOk [(1, 2 ^ 45)] && (s.core 1).ctx == none && u.areaReady (2 ^ 45) (u.imageLive (2 ^ 45)) false &&
   answers (exec (.restore hd 5 [(1, 2 ^ 45)]) s) (((u.imageLive (2 ^ 45)).foldl (fun s g =>
     s.loadBytes 5 (2 ^ 45 + 0x5000 + 0x1000 * g) 0x1000) (u.loadBytes 5 (2 ^ 45) 0x5000)).setContext 5 { x with moving := true }) &&
   answers (exec (.restore hd 5 [(1, 2 ^ 45)]) v) ((v.started hd 8 restoreParams (some 5)).complete hd 3 [])) = true := by decide +kernel

/-- The command has started. -/
def going (fmt : Nat) (g : State → State := id) : State := { imageS fmt true g with slots := [(3, slotOf true (some (hd, restoreParams)) (some 5))] }

/-- Restoring: it goes on, waits for its traffic, or finds an image or none. -/
theorem witness_Restoring_copy : Continues (going 1) hd restoreParams (some 5) ∧ (let u := going 1 traffic; let s := going 1; let v := going 2; let x := cx .saved
   u.areaReady (2 ^ 45) (u.imageLive (2 ^ 45)) false && u.saving 5 && answers (exec (.restore hd 5 [(1, 2 ^ 45)]) u) u &&
   decide (s.saving 5 = false ∧ (s.core 1).ctx = none ∧ leNat (s.hostRead (2 ^ 45) 4) = 1 ∧ s.hostSound (2 ^ 45) 0x5000 = true ∧ leNat (v.hostRead (2 ^ 45) 4) ≠ 1) &&
   answers (exec (.restore hd 5 [(1, 2 ^ 45)]) v) ((v.setContext 5 { x with moving := false }).complete hd 4 [])) = true :=
  ⟨⟨by decide, rfl, ⟨_, rfl, rfl, rfl, rfl⟩⟩, by decide +kernel⟩

/-- Links: fewer replays than 16, and 16, of a link of the mesh and of a Hololel link. -/
theorem witness_Links : ([5, 0x10003].all fun l => let s : State := { State.reset with replays := [(l, 16)] };
    let u : State := { State.reset with replays := [(l, 15)] }; let t : State := { s with replays := Tbl.put 0 s.replays l 0 }
   [true, false].all (fun ok => answers (exec (.linkRetrain l ok) u) u) && answers (exec (.linkRetrain l true) s) t &&
     answers (exec (.linkRetrain l false) s) (if l < 0x10000 then t.machineCheck (dieOfCluster (l % 256)) (.link l) else t)) = true := by decide +kernel

end Sys2Proof.Tests.Commands

/-! ## Arriving traps and module services -/

namespace Sys2Proof.Tests.Services
open Sys2Proof.Machine Sys2Proof.Tests

/-- A context. -/
def cx (st : CtxState) (f : Context → Context := id) : Context := f { state := st, ptroot := 0x100000, dtab := 0, areas := [(1, 2 ^ 45)], peers := [], preempt := none, moving := false }

/-- A core with two pending traps and a task. -/
def dl (f : Core → Core := id) : State := { State.reset with cores := [(1, f { Core.reset with ctx := some 5, lo := some { task0 with pc := 9 }, regs := { Regs.reset with pend := [⟨0x21, 7⟩, ⟨0x22, 8⟩] } })] }

/-- Delivery, the oldest of two. -/
theorem witness_Delivery_pending : (let s := dl; let t : Task := { task0 with pc := 9 };
    answers (exec (.pendingTrapDelivery 1) s) (takeTrap (s.onCore 1 fun k =>
    { k with regs := { k.regs with pend := [⟨0x22, 8⟩] } }) 1 false t 0x21 7 (trapPc t t.pc) false false)) = true := by decide +kernel

/-- Delivery, no trap, a handler, a core that quiesces. -/
theorem witness_Delivery_none : ([fun (k : Core) => { k with regs := { k.regs with pend := [] } }, fun k => { k with regs := { k.regs with tstat := 0x8000 } }, fun k =>
    { k with quiescing := true, lo := none }].all fun f => let s := dl f; answers (exec (.pendingTrapDelivery 1) s) s &&
    answers (exec (.tasklessTrapDelivery 1) s) s) = true := by decide +kernel

/-- Delivery, such a core. -/
theorem witness_Delivery_quiesces : ((dl fun k => { k with quiescing := true, lo := none }).core 1).quiesces = true := by decide +kernel

/-- Delivery, a core without a task. -/
theorem witness_Delivery_taskless : (let s := dl fun k => { k with lo := none }; let k := s.core 1; let t := Task.enter false 0 0 []; decide (k.idle = true) &&
    answers (exec (.tasklessTrapDelivery 1) s) (takeTrap (s.setCore 1 ({ k with regs := { k.regs with pend := [⟨0x22, 8⟩] } }.enterLo t)) 1 false t 0x21 7 0 true false)) = true := by decide +kernel

/-- Delivery, a service call. -/
theorem witness_Delivery_service : (let s := dl fun k => { k with lo := none, calls := [(3, 7, 8)], regs := Regs.reset }; let k := s.core 1;
    gives (exec (.serviceCall 1) s) fun u => match (u.core 1).lo with
    | some tt => let t : Task := { tt with pc := 0, sup := false };
      ((List.range 32).all fun i => decide (tt.reg (BitVec.ofNat 5 i) = if i = 10 then 7 else if i = 11 then 8 else 0)) && (u.core 1).regs.tstat.getLsbD 15 &&
      decide ((u.core 1).regs.trapc = 0) && tt.service
    | none => false) = true := by decide +kernel

/-- Delivery, one that waits. -/
theorem witness_Delivery_service_waits : ([fun (k : Core) => k, fun k => { k with lo := none }].all fun f => let s := dl fun k => f { k with calls := [(3, 7, 8)] };
    answers (exec (.serviceCall 1) s) s) = true := by decide +kernel

/-- Pending, with room and without. -/
theorem witness_Pending_room : ([2, 32].all fun n => let s := dl fun k => { k with regs := { k.regs with pend := List.replicate n ⟨1, 2⟩ } }; let r := (s.core 1).regs;
    decide (((s.pending 1 0x22 9).core 1).regs = (if r.pend.length < 32 then { r with pend := r.pend ++ [⟨0x22, 9⟩] } else { r with lost := true }))) = true := by decide +kernel

/-- A core with a budget. -/
def wd (w : Wait) (n : Nat := 100) : State := dl fun k =>
    { k with regs := { Regs.reset with budget := 100 }, lo := some { task0 with pc := 9, count := n, wait := w, stalled := true } }

/-- Expiries, of a task that runs and of one that waits. -/
theorem witness_Expiries_watchdog : ([Wait.none, .cycles 7].all fun w => let s := wd w; let u : Task := { task0 with pc := 9, count := 100 };
    answers (exec (.watchdogExpiry 1) s) (takeTrap (s.withTask 1 false u) 1 false u 0x0B 100 (trapPc u u.pc) false false)) = true := by decide +kernel

/-- Expiries, of a task in its budget. -/
theorem witness_Expiries_watchdog_none : (let s := wd .none 99; decide ((s.core 1).overBudget { task0 with count := 99 } = false) &&
    answers (exec (.watchdogExpiry 1) s) s) = true := by decide +kernel

/-- Expiries, a wait that ends, by time and by a trap, and one that does not. -/
theorem witness_Expiries_wait : ([(0, []), (5, [⟨1, 2⟩]), (5, [])].all fun (p : Nat × List Trap) =>
    let s := dl fun k => { k with regs := { Regs.reset with pend := p.2 }, lo := some { task0 with pc := 9, wait := .cycles p.1, stalled := true } };
    answers (exec (.waitExpiry 1) s) (if p.1 = 0 ∨ p.2 ≠ [] then s.withTask 1 false { task0 with pc := 11 } else s)) = true := by decide +kernel

/-- A pending machine check. -/
def ck (m : MCheck) : State := { State.reset with checks := [(2, m)], contexts := [(5, cx .running)], cores := [(1, { Core.reset with ctx := some 5 }), (3, { Core.reset with ctx := some 5 })] }

/-- Checks, of every kind. -/
theorem witness_Checks_check : ([MCheck.doubleTrap 1 3 9 8, .parity 1, .granule 7, .link 3, .power].all fun m => let s := ck m;
    let t : State := { s with checks := [], log := [LogEntry.check 2 m] };
    answers (exec (.machineCheck 0) s) (match m with | .doubleTrap .. | .parity _ => t.failContext 2 5 | .power => { ([5] : List Nat).foldl (fun (u : State) x => u.failContext 2 x) t with ended := true } | _ => t)) = true := by decide +kernel

/-- Checks, the context that fails. -/
theorem witness_Checks_failed : (let s := ck .power;
    s.failContext 2 5 = (s.coresOf 5).foldl (fun (u : State) c =>
    u.send (.mgmt 2) (.core c) .request (.ctxStop 5)) { s.setContext 5 { cx .running with state := .failed } with log := s.log ++ [LogEntry.ctxFailed 5] }) := by decide +kernel

/-- Checks, the message to a core. -/
theorem witness_Checks_stop : ([5, 6].all fun n => let s := withNet (ck .power) (pk (.mgmt 2) (.core 1) .request (.ctxStop n));
    answers (exec (.contextStop 0) s) (if n = 5 then (s.drop 0).onCore 1 fun k => { k with stopped := true } else s.drop 0)) = true := by decide +kernel

/-- Checks, a parity error. -/
theorem witness_Checks_parity : (let s := ck .power;
    answers (exec (.parityError 3) s) ((s.machineCheck (dieOf 3) (.parity 3)).onCore 3 fun k => { k with stopped := true })) = true := by decide +kernel

/-- PowerManager, power over the limit and under it. -/
theorem witness_PowerManager_over : (let s := State.reset;
    [2801, 2659, 2660, 2800].all fun total => [[1, 2, 3, 4], [9, 9, 1, 1]].all fun dies => gives (exec (.powerTick total dies) s) fun u =>
    if 2800 < total then decide (u = { s with hot := 0 }.setClock (topDie fun d =>
    dies.getD d 0) (s.clock (topDie fun d => dies.getD d 0) - 125)) else decide (u = { s with hot := 0 })) = true := by decide +kernel

/-- PowerManager, power far under it. -/
theorem witness_PowerManager_under : (let s : State := { State.reset with clocks := [(2, 1000), (3, 1125)] };
    answers (exec (.powerTick 2000 []) s) ({ s with hot := 0 }.setClock 2 1125)) = true := by decide +kernel

/-- PowerManager, the limit at the lowest clock. -/
theorem witness_PowerManager_limit : (let s : State := { State.reset with clocks := [(0, 1000), (1, 1000), (2, 1000), (3, 1000)], hot := 99 };
    decide (s.allSlow = true) && answers (exec (.powerTick 2801 []) s) { s with hot := 100 } &&
    (let u : State := { s with hot := 100 }; answers (exec .powerLimitTimeout u) { u with checks := [(0, .power), (1, .power), (2, .power), (3, .power)] }) &&
    answers (exec .powerLimitTimeout s) s &&
    answers (exec (.junctionOvertemp 3) s) { s with checks := [(0, .overTemp 3), (1, .overTemp 3), (2, .overTemp 3), (3, .overTemp 3)] }) = true := by decide +kernel

/-- Links, replays and deadlock. -/
theorem witness_Links_replay : (let s : State := { State.reset with replays := [(700, 4)] };
    gives (exec (.flitReplay 700 false) s) (fun t => Tbl.getD t.replays 700 0 == 1) && gives (exec (.flitReplay 700 true) s) (fun t => Tbl.getD t.replays 700 0 == 5) &&
    answers (exec (.bulkDeadlockProbe 259) s) (s.event (unitRouter 3) 0x20) &&
    answers (exec (.deadlockRecovery [3, 260]) s) ((s.event (unitRouter 3) 0x21).event (unitRouter 4) 0x21)) = true := by decide +kernel

/-- What a reset finds. -/
def dirty : State := { ck .power with hostMem := [⟨2 ^ 45, 7⟩], mem := [⟨5, 6⟩], poison := [(3, true)], hostBias := [(9, true)], slices := [(4, { Slice.reset with filterA := [(3, true)], activeB := true, missCount := 5, present := [7] })], fw := { Firmware.reset with patchVersion := 4, patchDigest := 77, lmsUsed := 8 } }

/-- Resets, a cold reset. -/
theorem witness_Resets_cold : ([true, false].all fun ok => gives (exec (.coldReset ok) dirty) fun t => decide (t.core 1 = Core.reset ∧ t.contexts = [] ∧ t.mem = [] ∧
    t.poison = [] ∧ t.hostBias = [] ∧ t.booting = true ∧ t.slices = [] ∧ t.net = [] ∧ t.hostMem = dirty.hostMem ∧ t.fw.patchVersion = 4 ∧ t.fw.lmsUsed = 8 ∧
    t.fw.patchDigest = if ok then 77 else 0)) = true := by decide +kernel

/-- Resets, a warm reset. -/
theorem witness_Resets_warm : ([true, false].all fun ok => gives (exec (.warmReset ok) dirty) fun t => decide (t.core 1 = Core.reset ∧ t.contexts = [] ∧
    t.mem = dirty.mem ∧ t.poison = dirty.poison ∧ t.hostBias = dirty.hostBias ∧ t.booting = true ∧ (t.slice 4).filterA = [(3, true)] ∧ (t.slice 4).activeB = true ∧
    (t.slice 4).missCount = 5 ∧ (t.slice 4).present = [] ∧ dirty.homeLines = [] ∧ dirty.ctls = [] ∧ dirty.hostSectors = []) &&
    answers (servedStep t) { t with booting := false }) = true := by decide +kernel

/-- Resets, a monitor cleared. -/
theorem witness_Resets_monitor : (let s : State := { State.reset with monitors := [(13, { Monitor.reset with ctl := 5, count := 7, sum := 9, max := 3, hist := [(1, 2)] }), (14, { Monitor.reset with count := 1 })] }; gives (exec (.monitorCountClear 1 5) s) fun t => decide ((t.monitor 1 5).ctl = (s.monitor 1 5).ctl ∧ (t.monitor 1 5).count = 0 ∧ (t.monitor 1 5).sum = 0 ∧ (t.monitor 1 5).max = 0 ∧ (t.monitor 1 5).hist = [] ∧ (t.monitor 1 6) = s.monitor 1 6)) = true := by decide +kernel

/-- Attestation, the requests and their answers. -/
theorem witness_Attestation_answers : (let s := State.reset;
    let answers := fun (i : Instr) (r : SpdmResp) => ∃ t msg, exec i s = .next t ∧ t.fw.response = some r ∧ t.fw = { s.fw with transcript := Config.absorb s.fw.transcript msg, response := some r };
    answers .getVersion (.version [0x12, 0x13]) ∧ answers .getCapabilities (.capabilities false false) ∧
    (∀ a b, answers (.negotiateAlgorithms a b) (.algorithms (a && b))) ∧ answers .getDigests (.digests [Config.certDigest]) ∧
    (∀ off n, answers (.getCertificate off n) (.certificate ((Config.certChain.drop off).take n))) ∧
    (∀ i, answers (.getMeasurements i false) (.measurements (s.fw.measurements i) none))) :=
  ⟨⟨_, _, rfl, rfl, rfl⟩, ⟨_, _, rfl, rfl, rfl⟩, fun _ _ => ⟨_, _, rfl, rfl, rfl⟩, ⟨_, _, rfl, rfl, rfl⟩, fun _ _ => ⟨_, _, rfl, rfl, rfl⟩, fun _ =>
    ⟨_, _, rfl, rfl, rfl⟩⟩

/-- Attestation, the signed ones. -/
theorem witness_Attestation_signed (n i : Nat) : ∃ t u, exec (.challenge n) State.reset = .next t ∧ exec (.getMeasurements i true) State.reset = .next u ∧
    t.fw.lmsUsed = 1 ∧ u.fw.lmsUsed = 1 ∧ t.fw.response = some (.challengeAuth (Config.signature false t.fw.transcript) (Config.signature true t.fw.transcript)) ∧
      u.fw.response = some (.measurements (State.reset.fw.measurements i)
        (some (Config.signature false u.fw.transcript, Config.signature true u.fw.transcript))) := ⟨_, _, rfl, rfl, rfl, rfl, rfl, rfl⟩

end Sys2Proof.Tests.Services

/-! ## The whole machine -/

namespace Sys2Proof.Tests.Whole
open Sys2Proof.Machine Sys2Proof.Tests

/-- Core 0 about to fetch a NOP. -/
def atNop : State := State.reset.withFetchWord 16 0x003E

/-- StepRunsDecoded, scalar stream: everything `Fetches` asks, right after a word is placed. -/
theorem witness_StepRunsDecoded_fetch : atNop.turn = .core 0 false ∧ ∃ t, Fetches atNop 0 t .nop := by
  refine ⟨rfl, _, ⟨rfl, ?_, rfl, ?_, .inr ?_, ?_, .inr (.inr ?_), ?_, ?_, ?_, ?_, ?_, ?_⟩⟩ <;> decide +kernel

/-- StepRunsDecoded, the other turns: a core with a passed instruction, another agent's row, a running context. -/
theorem witness_StepRunsDecoded_turns :
    (let i : Instr := .vadd ⟨false, .f32, 4, 5, 6, .always⟩
     let e : VEntry := vEntry i
     let s : State := vAt i
     s.turn = .vector 0 ∧ s.ended = false ∧ (s.core 0).alive = true ∧ (s.core 0).vu.viq.head? = some e ∧ (e.item?).isSome = true) ∧
    Sys2Proof.Machine.Instr.isEvent (.patrolScrub 7) = true ∧
    (∀ ctx x, State.reset.context? ctx = some x → x.state ≠ .fresh) := by
  refine ⟨by decide +kernel, rfl, fun ctx x h => ?_⟩
  simp [State.context?, State.reset, Tbl.find?] at h

/-- StepKeepsMemory: a state whose memory is canonical, and a step of it. -/
theorem witness_StepKeepsMemory : MemInv State.reset ∧ ∃ t, step { State.reset with turn := .event (.patrolScrub 7) } = .next t :=
  ⟨⟨rfl, rfl⟩, _, rfl⟩

/-- DecodeEncode: a well-formed instruction and its halfwords. -/
theorem witness_DecodeEncode : (Instr.shli ⟨2, 8, 4, .always⟩).wellFormed = true ∧ encode (.shli ⟨2, 8, 4, .always⟩) = some [0x8035, 0x0120] := by
  decide +kernel

/-- A placed word is what step fetches, and the table's numbering of its bits is the decoder's (the halfwords 0x8035, 0x0120 of a printed program). -/
theorem test_decodeTableWord : decodeTableWord 32 0x01208035 = some (.shli ⟨2, 8, 4, .always⟩) ∧
    decodeTableWord 16 0x003E = some .nop ∧ decodeTableWord 64 0x06400000E027 = some (.addiLit ⟨0, 7, .always, 0x640⟩) := by
  decide +kernel

end Sys2Proof.Tests.Whole

end
end

/-! PROOFS. The encoding (R15–R21, R26–R30): each form reads back from its ruler's fields, each row from its encoding, and each
encoding from its halfwords. -/

namespace Sys2Proof

/-! ## The ruler's fields read back (R17, R27) -/

/-- A coded sub-field reads back from its code (R27). -/
theorem codes_read : (∀ c, Size.ofBits (Size.toBits c) = some c) ∧ (∀ c, CmpCond.ofBits (CmpCond.toBits c) = some c) ∧
    (∀ c, CmpiCond.ofBits (CmpiCond.toBits c) = some c) ∧ (∀ c, VcmpCond.ofBits (VcmpCond.toBits c) = some c) ∧
    (∀ c, FcmpCond.ofBits (FcmpCond.toBits c) = some c) ∧ (∀ c, BrCond.ofBits (BrCond.toBits c) = some c) ∧
    (∀ c, BpCond.ofBits (BpCond.toBits c) = some c) ∧ (∀ c, CvtTy.ofBits (CvtTy.toBits c) = some c) ∧
    (∀ c, AmoOp.ofBits (AmoOp.toBits c) = some c) ∧ (∀ c, ExtWidth.ofBits (ExtWidth.toBits c) = some c) ∧
    (∀ c, MapOp.ofBits (MapOp.toBits c) = some c) ∧ (∀ c, Ty.ofBits (Ty.toBits c) = some c) ∧
    (∀ c, Fmt.ofBits (Fmt.toBits c) = some c) ∧ (∀ c, Scope.ofBits (Scope.toBits c) = some c) ∧
    (∀ c, RedOp.ofBits (RedOp.toBits c) = some c) ∧ (∀ c, ScanOp.ofBits (ScanOp.toBits c) = some c) := by
  refine ⟨?_, ?_, ?_, ?_, ?_, ?_, ?_, ?_, ?_, ?_, ?_, ?_, ?_, ?_, ?_, ?_⟩ <;> (intro c; cases c <;> rfl)

/-- A field of several bits reads back, wherever it lies among its neighbours, and so does one that lies in two places. -/
theorem fields_read : (∀ {n m : Nat} (x : BitVec n) (y : BitVec m), (x ++ y).extractLsb' m n = x) ∧
    (∀ {n m : Nat} (x : BitVec n) (y : BitVec m), (x ++ y).extractLsb' 0 m = y) ∧
    (∀ {n m k : Nat} (x : BitVec n) (y : BitVec m) (z : BitVec k), (x ++ y ++ z).extractLsb' k m = y) ∧
    (∀ (x : BitVec 1) (y : BitVec 1) (z : BitVec 3), (x ++ y ++ z).extractLsb' 4 1 = x) ∧
    (∀ (x : BitVec 2) (y : BitVec 1) (z : BitVec 1), (x ++ y ++ z).extractLsb' 2 2 = x) ∧
    (∀ {n m : Nat} (x : BitVec (n + m)), x.extractLsb' m n ++ x.extractLsb' 0 m = x) := by
  refine ⟨fun _ _ => BitVec.extractLsb'_append_eq_left, fun _ _ => BitVec.extractLsb'_append_eq_right, ?_, by decide, by decide, ?_⟩
  · intro n m k x y z
    ext i hi
    simp [BitVec.getLsbD_append, hi]
  · intro n m x
    rw [BitVec.extractLsb'_append_extractLsb'_eq_extractLsb' (by omega), BitVec.extractLsb'_eq_self]

/-- A field of one bit reads back. -/
theorem bits_read : (∀ {m : Nat} (b : Bool) (y : BitVec m), (BitVec.ofBool b ++ y).getLsbD m = b) ∧
    (∀ {n : Nat} (x : BitVec n) (b : Bool), (x ++ BitVec.ofBool b).getLsbD 0 = b) ∧
    (∀ {n m : Nat} (x : BitVec n) (b : Bool) (y : BitVec m), (x ++ BitVec.ofBool b ++ y).getLsbD m = b) ∧
    (∀ {m : Nat} (y : BitVec m), (0#1 ++ y).getLsbD m = false) ∧
    (∀ (b : Bool) (x : BitVec 1) (y : BitVec 2), (BitVec.ofBool b ++ x ++ y).getLsbD 3 = b) ∧
    (∀ (b : Bool) (x : BitVec 2) (y : BitVec 1), (BitVec.ofBool b ++ x ++ y).getLsbD 3 = b) := by
  refine ⟨?_, ?_, ?_, ?_, by decide, by decide⟩ <;> intros <;> simp [BitVec.getLsbD_append, -BitVec.getLsbD_eq_getElem]

/-- The guard field reads back (R22). -/
theorem Guard.ofBits_toBits (g : Guard) : Guard.ofBits g.toBits = g := by
  simp only [Guard.ofBits, Guard.toBits, fields_read, bits_read]

/-- Two fields side by side make up a value when each is its part. -/
theorem append_eq_iff {n m : Nat} (x : BitVec n) (y : BitVec m) (k : BitVec (n + m)) :
    x ++ y = k ↔ x = k.extractLsb' m n ∧ y = k.extractLsb' 0 m := by
  refine ⟨fun h => ?_, fun ⟨hx, hy⟩ => ?_⟩
  · subst h
    simp only [fields_read, and_self]
  · rw [hx, hy]
    simp only [fields_read]

/-! Each form reads back from the fields that it was put into, the coded fields by their codes. -/

@[simp] theorem QForm.get_put (major : BitVec 7) (m : BitVec 2) (x : QForm) : QForm.get (QForm.put major m x) = some x := by
  simp only [QForm.get, QForm.put, Guard.ofBits_toBits, bits_read]
@[simp] theorem QLit.get_put (major : BitVec 7) (m : BitVec 2) (x : QLit) : QLit.get x.lit (QLit.put major m x) = some x := by
  simp only [QLit.get, QLit.put, Guard.ofBits_toBits, bits_read]
@[simp] theorem Q1.get_put (major : BitVec 7) (m : BitVec 2) (x : Q1) : Q1.get (Q1.put major m x) = some x := by
  simp only [Q1.get, Q1.put, Guard.ofBits_toBits, bits_read]
@[simp] theorem ExtForm.get_put (major : BitVec 7) (m : BitVec 2) (x : ExtForm) :
    ExtForm.get (ExtForm.put major m x) = some x := by
  simp only [ExtForm.get, ExtForm.put, Guard.ofBits_toBits, fields_read, bits_read, codes_read, Option.bind_some]
@[simp] theorem SelForm.get_put (major : BitVec 7) (x : SelForm) : SelForm.get (SelForm.put major x) = some x := by
  simp only [SelForm.get, SelForm.put, Guard.ofBits_toBits, fields_read]
@[simp] theorem SelLit.get_put (major : BitVec 7) (x : SelLit) : SelLit.get x.lit (SelLit.put major x) = some x := by
  simp only [SelLit.get, SelLit.put, Guard.ofBits_toBits, fields_read]
@[simp] theorem R3.get_put (major : BitVec 7) (m : BitVec 4) (x : R3) : R3.get (R3.put major m x) = some x := by
  simp only [R3.get, R3.put, Guard.ofBits_toBits]
@[simp] theorem R2.get_put (major : BitVec 7) (m : BitVec 4) (mb : BitVec 5) (x : R2) :
    R2.get (R2.put major m mb x) = some x := by
  simp only [R2.get, R2.put, Guard.ofBits_toBits]
@[simp] theorem Rba.get_put (major : BitVec 7) (m : BitVec 4) (x : Rba) : Rba.get (Rba.put major m x) = some x := by
  simp only [Rba.get, Rba.put, Guard.ofBits_toBits]
@[simp] theorem Ra.get_put (major : BitVec 7) (m : BitVec 4) (x : Ra) : Ra.get (Ra.put major m x) = some x := by
  simp only [Ra.get, Ra.put, Guard.ofBits_toBits]
@[simp] theorem Rd.get_put (major : BitVec 7) (m : BitVec 4) (mb : BitVec 5) (x : Rd) :
    Rd.get (Rd.put major m mb x) = some x := by
  simp only [Rd.get, Rd.put, Guard.ofBits_toBits]
@[simp] theorem G0.get_put (major : BitVec 7) (m : BitVec 4) (ma : BitVec 5) (x : G0) :
    G0.get (G0.put major m ma x) = some x := by
  simp only [G0.get, G0.put, Guard.ofBits_toBits]
@[simp] theorem R2Lit.get_put (major : BitVec 7) (m : BitVec 4) (mb : BitVec 5) (x : R2Lit) :
    R2Lit.get x.lit (R2Lit.put major m mb x) = some x := by
  simp only [R2Lit.get, R2Lit.put, Guard.ofBits_toBits]
@[simp] theorem CmpForm.get_put (major : BitVec 7) (x : CmpForm) : CmpForm.get (CmpForm.put major x) = some x := by
  simp only [CmpForm.get, CmpForm.put, Guard.ofBits_toBits, fields_read, bits_read, codes_read, Option.bind_some]
@[simp] theorem CmpLit.get_put (major : BitVec 7) (x : CmpLit) : CmpLit.get x.lit (CmpLit.put major x) = some x := by
  simp only [CmpLit.get, CmpLit.put, Guard.ofBits_toBits, fields_read, codes_read, Option.bind_some]
@[simp] theorem IForm.get_put (major : BitVec 7) (x : IForm) : IForm.get (IForm.put major x) = some x := by
  simp only [IForm.get, IForm.put, Guard.ofBits_toBits, fields_read]
@[simp] theorem ShiftI.get_put (major : BitVec 7) (m : BitVec 2) (x : ShiftI) : ShiftI.get (ShiftI.put major m x) = some x := by
  simp only [ShiftI.get, ShiftI.put, Guard.ofBits_toBits, fields_read]
@[simp] theorem CmpiForm.get_put (major : BitVec 7) (x : CmpiForm) : CmpiForm.get (CmpiForm.put major x) = some x := by
  simp only [CmpiForm.get, CmpiForm.put, Guard.ofBits_toBits, fields_read, codes_read, Option.bind_some]
@[simp] theorem CmpiLit.get_put (major : BitVec 7) (x : CmpiLit) : CmpiLit.get x.lit (CmpiLit.put major x) = some x := by
  simp only [CmpiLit.get, CmpiLit.put, Guard.ofBits_toBits, fields_read, codes_read, Option.bind_some]
@[simp] theorem MovForm.get_put (major : BitVec 7) (ma : BitVec 5) (x : MovForm) :
    MovForm.get (MovForm.put major ma x) = some x := by
  simp only [MovForm.get, MovForm.put, Guard.ofBits_toBits, fields_read]
@[simp] theorem MovLit.get_put (major : BitVec 7) (ma : BitVec 5) (x : MovLit) :
    MovLit.get x.lit (MovLit.put major ma x) = some x := by
  simp only [MovLit.get, MovLit.put, Guard.ofBits_toBits]
@[simp] theorem FcmpForm.get_put (major : BitVec 7) (x : FcmpForm) : FcmpForm.get (FcmpForm.put major x) = some x := by
  simp only [FcmpForm.get, FcmpForm.put, Guard.ofBits_toBits, fields_read, bits_read, codes_read, Option.bind_some]
@[simp] theorem FcvtForm.get_put (major : BitVec 7) (x : FcvtForm) : FcvtForm.get (FcvtForm.put major x) = some x := by
  simp only [FcvtForm.get, FcvtForm.put, Guard.ofBits_toBits, fields_read, codes_read, Option.bind_some]
@[simp] theorem BrForm.get_put (major : BitVec 7) (x : BrForm) : BrForm.get (BrForm.put major x) = some x := by
  simp only [BrForm.get, BrForm.put, Guard.ofBits_toBits, fields_read, codes_read, Option.bind_some]
@[simp] theorem BrLit.get_put (major : BitVec 7) (x : BrLit) : BrLit.get x.lit (BrLit.put major x) = some x := by
  simp only [BrLit.get, BrLit.put, Guard.ofBits_toBits, codes_read, Option.bind_some]
@[simp] theorem BpForm.get_put (major : BitVec 7) (x : BpForm) : BpForm.get (BpForm.put major x) = some x := by
  simp only [BpForm.get, BpForm.put, Guard.ofBits_toBits, fields_read, codes_read, Option.bind_some]
@[simp] theorem BpLit.get_put (major : BitVec 7) (x : BpLit) : BpLit.get x.lit (BpLit.put major x) = some x := by
  simp only [BpLit.get, BpLit.put, Guard.ofBits_toBits, fields_read, codes_read, Option.bind_some]
@[simp] theorem JForm.get_put (major : BitVec 7) (md : BitVec 5) (x : JForm) : JForm.get (JForm.put major md x) = some x := by
  simp only [JForm.get, JForm.put, Guard.ofBits_toBits, fields_read]
@[simp] theorem JLit.get_put (major : BitVec 7) (md : BitVec 5) (x : JLit) : JLit.get x.lit (JLit.put major md x) = some x := by
  simp only [JLit.get, JLit.put, Guard.ofBits_toBits]
@[simp] theorem JlForm.get_put (major : BitVec 7) (md : BitVec 5) (x : JlForm) :
    JlForm.get (JlForm.put major md x) = some x := by
  simp only [JlForm.get, JlForm.put, Guard.ofBits_toBits, fields_read]
@[simp] theorem JlLit.get_put (major : BitVec 7) (md : BitVec 5) (x : JlLit) :
    JlLit.get x.lit (JlLit.put major md x) = some x := by
  simp only [JlLit.get, JlLit.put, Guard.ofBits_toBits]
@[simp] theorem PlogForm.get_put (major : BitVec 7) (x : PlogForm) : PlogForm.get (PlogForm.put major x) = some x := by
  simp only [PlogForm.get, PlogForm.put, Guard.ofBits_toBits, fields_read]
@[simp] theorem PsetForm.get_put (major : BitVec 7) (m : BitVec 4) (x : PsetForm) :
    PsetForm.get (PsetForm.put major m x) = some x := by
  simp only [PsetForm.get, PsetForm.put, Guard.ofBits_toBits, fields_read]
@[simp] theorem PgetForm.get_put (major : BitVec 7) (m : BitVec 4) (x : PgetForm) :
    PgetForm.get (PgetForm.put major m x) = some x := by
  simp only [PgetForm.get, PgetForm.put, Guard.ofBits_toBits, fields_read]
@[simp] theorem MemForm.get_put (major : BitVec 7) (x : MemForm) : MemForm.get (MemForm.put major x) = some x := by
  simp only [MemForm.get, MemForm.put, Guard.ofBits_toBits, fields_read, bits_read, codes_read, Option.bind_some]
@[simp] theorem MemLit.get_put (major : BitVec 7) (x : MemLit) : MemLit.get x.lit (MemLit.put major x) = some x := by
  simp only [MemLit.get, MemLit.put, Guard.ofBits_toBits, fields_read, bits_read, codes_read, Option.bind_some]
@[simp] theorem StForm.get_put (major : BitVec 7) (x : StForm) : StForm.get (StForm.put major x) = some x := by
  simp only [StForm.get, StForm.put, Guard.ofBits_toBits, fields_read, codes_read, Option.bind_some]
@[simp] theorem StLit.get_put (major : BitVec 7) (x : StLit) : StLit.get x.lit (StLit.put major x) = some x := by
  simp only [StLit.get, StLit.put, Guard.ofBits_toBits, fields_read, codes_read, Option.bind_some]
@[simp] theorem DispForm.get_put (major : BitVec 7) (mb : BitVec 4) (x : DispForm) :
    DispForm.get (DispForm.put major mb x) = some x := by
  simp only [DispForm.get, DispForm.put, Guard.ofBits_toBits, fields_read]
@[simp] theorem LdxForm.get_put (major : BitVec 7) (x : LdxForm) : LdxForm.get (LdxForm.put major x) = some x := by
  simp only [LdxForm.get, LdxForm.put, Guard.ofBits_toBits, fields_read, bits_read, codes_read, Option.bind_some]
@[simp] theorem StxForm.get_put (major : BitVec 7) (x : StxForm) : StxForm.get (StxForm.put major x) = some x := by
  simp only [StxForm.get, StxForm.put, Guard.ofBits_toBits, fields_read, codes_read, Option.bind_some]
@[simp] theorem AmoForm.get_put (major : BitVec 7) (x : AmoForm) : AmoForm.get (AmoForm.put major x) = some x := by
  simp only [AmoForm.get, AmoForm.put, Guard.ofBits_toBits, codes_read, Option.bind_some]
@[simp] theorem SendForm.get_put (major : BitVec 7) (m : BitVec 1) (x : SendForm) :
    SendForm.get (SendForm.put major m x) = some x := by
  simp only [SendForm.get, SendForm.put, Guard.ofBits_toBits, fields_read]
@[simp] theorem SendwForm.get_put (major : BitVec 7) (m : BitVec 1) (x : SendwForm) :
    SendwForm.get (SendwForm.put major m x) = some x := by
  simp only [SendwForm.get, SendwForm.put, Guard.ofBits_toBits, fields_read]
@[simp] theorem SendcForm.get_put (major : BitVec 7) (x : SendcForm) : SendcForm.get (SendcForm.put major x) = some x := by
  simp only [SendcForm.get, SendcForm.put, Guard.ofBits_toBits]
@[simp] theorem MrdForm.get_put (major : BitVec 7) (m : BitVec 4) (x : MrdForm) :
    MrdForm.get (MrdForm.put major m x) = some x := by
  simp only [MrdForm.get, MrdForm.put, Guard.ofBits_toBits, fields_read]
@[simp] theorem CopyForm.get_put (major : BitVec 7) (mt : BitVec 4) (mb1 : BitVec 1) (x : CopyForm) :
    CopyForm.get (CopyForm.put major mt mb1 x) = some x := by
  simp only [CopyForm.get, CopyForm.put, Guard.ofBits_toBits, fields_read]
@[simp] theorem SlotretForm.get_put (major : BitVec 7) (mt : BitVec 4) (mb1 : BitVec 1) (x : SlotretForm) :
    SlotretForm.get (SlotretForm.put major mt mb1 x) = some x := by
  simp only [SlotretForm.get, SlotretForm.put, Guard.ofBits_toBits, fields_read]
@[simp] theorem SbindForm.get_put (major : BitVec 7) (mt : BitVec 4) (mb1 : BitVec 1) (x : SbindForm) :
    SbindForm.get (SbindForm.put major mt mb1 x) = some x := by
  simp only [SbindForm.get, SbindForm.put, Guard.ofBits_toBits, fields_read]
@[simp] theorem ChForm.get_put (major : BitVec 7) (mt : BitVec 4) (mb1 : BitVec 1) (x : ChForm) :
    ChForm.get (ChForm.put major mt mb1 x) = some x := by
  simp only [ChForm.get, ChForm.put, Guard.ofBits_toBits, fields_read]
@[simp] theorem MapForm.get_put (major : BitVec 7) (x : MapForm) : MapForm.get (MapForm.put major x) = some x := by
  simp only [MapForm.get, MapForm.put, Guard.ofBits_toBits, fields_read]
@[simp] theorem MapOpForm.get_put (major : BitVec 7) (x : MapOpForm) : MapOpForm.get (MapOpForm.put major x) = some x := by
  simp only [MapOpForm.get, MapOpForm.put, Guard.ofBits_toBits, codes_read, Option.bind_some]
@[simp] theorem VForm.get_put (major : BitVec 7) (x : VForm) : VForm.get (VForm.put major x) = some x := by
  simp only [VForm.get, VForm.put, Guard.ofBits_toBits, fields_read, bits_read, codes_read, Option.bind_some]
@[simp] theorem VBin.get_put (major : BitVec 7) (m : BitVec 3) (x : VBin) : VBin.get (VBin.put major m x) = some x := by
  simp only [VBin.get, VBin.put, Guard.ofBits_toBits, bits_read]
@[simp] theorem VShForm.get_put (major : BitVec 7) (m : BitVec 2) (x : VShForm) :
    VShForm.get (VShForm.put major m x) = some x := by
  simp only [VShForm.get, VShForm.put, Guard.ofBits_toBits, bits_read]
@[simp] theorem VcmpForm.get_put (major : BitVec 7) (x : VcmpForm) : VcmpForm.get (VcmpForm.put major x) = some x := by
  simp only [VcmpForm.get, VcmpForm.put, Guard.ofBits_toBits, fields_read, bits_read, codes_read, Option.bind_some]
@[simp] theorem VselForm.get_put (major : BitVec 7) (x : VselForm) : VselForm.get (VselForm.put major x) = some x := by
  simp only [VselForm.get, VselForm.put, Guard.ofBits_toBits, fields_read, bits_read]
@[simp] theorem VUn.get_put (major : BitVec 7) (mb : BitVec 5) (x : VUn) : VUn.get (VUn.put major mb x) = some x := by
  simp only [VUn.get, VUn.put, Guard.ofBits_toBits, fields_read, bits_read, codes_read, Option.bind_some]
@[simp] theorem VUn0.get_put (major : BitVec 7) (mb : BitVec 5) (x : VUn0) : VUn0.get (VUn0.put major mb x) = some x := by
  simp only [VUn0.get, VUn0.put, Guard.ofBits_toBits, bits_read]
@[simp] theorem VcompForm.get_put (major : BitVec 7) (mb : BitVec 5) (x : VcompForm) :
    VcompForm.get (VcompForm.put major mb x) = some x := by
  simp only [VcompForm.get, VcompForm.put, Guard.ofBits_toBits, fields_read, bits_read]
@[simp] theorem VmovqForm.get_put (major : BitVec 7) (mb : BitVec 5) (md : BitVec 3) (x : VmovqForm) :
    VmovqForm.get (VmovqForm.put major mb md x) = some x := by
  simp only [VmovqForm.get, VmovqForm.put, Guard.ofBits_toBits, fields_read]
@[simp] theorem VredForm.get_put (major : BitVec 7) (mb : BitVec 2) (x : VredForm) :
    VredForm.get (VredForm.put major mb x) = some x := by
  simp only [VredForm.get, VredForm.put, Guard.ofBits_toBits, fields_read, bits_read, codes_read, Option.bind_some]
@[simp] theorem VscanForm.get_put (major : BitVec 7) (mb : BitVec 2) (x : VscanForm) :
    VscanForm.get (VscanForm.put major mb x) = some x := by
  simp only [VscanForm.get, VscanForm.put, Guard.ofBits_toBits, fields_read, bits_read, codes_read, Option.bind_some]
@[simp] theorem CvtForm.get_put (major : BitVec 7) (x : CvtForm) : CvtForm.get (CvtForm.put major x) = some x := by
  simp only [CvtForm.get, CvtForm.put, Guard.ofBits_toBits, fields_read, bits_read, codes_read, Option.bind_some]
@[simp] theorem UnpackForm.get_put (major : BitVec 7) (x : UnpackForm) : UnpackForm.get (UnpackForm.put major x) = some x := by
  simp only [UnpackForm.get, UnpackForm.put, Guard.ofBits_toBits, fields_read, codes_read, Option.bind_some]
@[simp] theorem PackForm.get_put (major : BitVec 7) (x : PackForm) : PackForm.get (PackForm.put major x) = some x := by
  simp only [PackForm.get, PackForm.put, Guard.ofBits_toBits, fields_read, bits_read, codes_read, Option.bind_some]
@[simp] theorem QuantForm.get_put (major : BitVec 7) (x : QuantForm) : QuantForm.get (QuantForm.put major x) = some x := by
  simp only [QuantForm.get, QuantForm.put, Guard.ofBits_toBits, fields_read, codes_read, Option.bind_some]
@[simp] theorem MmaForm.get_put (major : BitVec 7) (m : BitVec 4) (x : MmaForm) :
    MmaForm.get (MmaForm.put major m x) = some x := by
  simp only [MmaForm.get, MmaForm.put, Guard.ofBits_toBits, fields_read]
@[simp] theorem MmatForm.get_put (major : BitVec 7) (m : BitVec 4) (x : MmatForm) :
    MmatForm.get (MmatForm.put major m x) = some x := by
  simp only [MmatForm.get, MmatForm.put, Guard.ofBits_toBits, fields_read]
@[simp] theorem TForm.get_put (major : BitVec 7) (m : BitVec 4) (x : TForm) : TForm.get (TForm.put major m x) = some x := by
  simp only [TForm.get, TForm.put, Guard.ofBits_toBits, fields_read]
@[simp] theorem TileForm.get_put (major : BitVec 7) (m : BitVec 4) (x : TileForm) :
    TileForm.get (TileForm.put major m x) = some x := by
  simp only [TileForm.get, TileForm.put, Guard.ofBits_toBits, fields_read]
@[simp] theorem FenceForm.get_put (major : BitVec 7) (m : BitVec 2) (x : FenceForm) :
    FenceForm.get (FenceForm.put major m x) = some x := by
  simp only [FenceForm.get, FenceForm.put, Guard.ofBits_toBits, fields_read, codes_read, Option.bind_some]
@[simp] theorem TrapForm.get_put (major : BitVec 7) (x : TrapForm) : TrapForm.get (TrapForm.put major x) = some x := by
  simp only [TrapForm.get, TrapForm.put, Guard.ofBits_toBits, fields_read]
@[simp] theorem SrdForm.get_put (major : BitVec 7) (x : SrdForm) : SrdForm.get (SrdForm.put major x) = some x := by
  simp only [SrdForm.get, SrdForm.put, Guard.ofBits_toBits, fields_read]
@[simp] theorem SwrForm.get_put (major : BitVec 7) (x : SwrForm) : SwrForm.get (SwrForm.put major x) = some x := by
  simp only [SwrForm.get, SwrForm.put, Guard.ofBits_toBits, fields_read]
@[simp] theorem TlbForm.get_put (major : BitVec 7) (x : TlbForm) : TlbForm.get (TlbForm.put major x) = some x := by
  simp only [TlbForm.get, TlbForm.put, Guard.ofBits_toBits, fields_read, codes_read, Option.bind_some]

/-- REPB's literal reads back field by field (R29). -/
theorem RepbForm.lit_reads (x : RepbForm) : x.lit.extractLsb' 19 5 = x.stride ∧ x.lit.extractLsb' 16 3 = x.fmask ∧
    x.lit.extractLsb' 0 16 = x.pmask := by
  simp (disch := decide) only [RepbForm.lit, BitVec.extractLsb'_append_eq_of_le, Nat.reduceSub, fields_read,
    and_self]

@[simp] theorem RepbForm.get_put (x : RepbForm) : RepbForm.get x.lit x.put = some x := by
  simp only [RepbForm.put, RepbForm.get, RepbForm.lit_reads, Guard.ofBits_toBits]

/-! A selector that lies beside other fields reads back too (R26). -/

@[simp] theorem QForm.put_top_cut (major : BitVec 7) (m : BitVec 2) (x : QForm) :
    (QForm.put major m x).top.extractLsb' 0 2 = m := by
  simp only [QForm.put, fields_read]
@[simp] theorem QLit.put_top_cut (major : BitVec 7) (m : BitVec 2) (x : QLit) :
    (QLit.put major m x).top.extractLsb' 0 2 = m := by
  simp only [QLit.put, fields_read]
@[simp] theorem Q1.put_top_cut (major : BitVec 7) (m : BitVec 2) (x : Q1) : (Q1.put major m x).top.extractLsb' 0 2 = m := by
  simp only [Q1.put, fields_read]
@[simp] theorem ExtForm.put_top_cut (major : BitVec 7) (m : BitVec 2) (x : ExtForm) :
    (ExtForm.put major m x).top.extractLsb' 0 2 = m := by
  simp only [ExtForm.put, fields_read]
@[simp] theorem ShiftI.put_top_cut (major : BitVec 7) (m : BitVec 2) (x : ShiftI) :
    (ShiftI.put major m x).top.extractLsb' 2 2 = m := by
  simp only [ShiftI.put, fields_read]
@[simp] theorem DispForm.put_b_cut (major : BitVec 7) (mb : BitVec 4) (x : DispForm) :
    (DispForm.put major mb x).b.extractLsb' 0 4 = mb := by
  simp only [DispForm.put, fields_read]
@[simp] theorem SendForm.put_top_cut (major : BitVec 7) (m : BitVec 1) (x : SendForm) :
    (SendForm.put major m x).top.extractLsb' 3 1 = m := by
  simp only [SendForm.put, fields_read]
@[simp] theorem SendwForm.put_top_cut (major : BitVec 7) (m : BitVec 1) (x : SendwForm) :
    (SendwForm.put major m x).top.extractLsb' 3 1 = m := by
  simp only [SendwForm.put, fields_read]
@[simp] theorem CopyForm.put_b_cut (major : BitVec 7) (mt : BitVec 4) (mb1 : BitVec 1) (x : CopyForm) :
    (CopyForm.put major mt mb1 x).b.extractLsb' 4 1 = mb1 := by
  simp only [CopyForm.put, fields_read]
@[simp] theorem SlotretForm.put_b_cut (major : BitVec 7) (mt : BitVec 4) (mb1 : BitVec 1) (x : SlotretForm) :
    (SlotretForm.put major mt mb1 x).b.extractLsb' 4 1 = mb1 := by
  simp only [SlotretForm.put, fields_read]
@[simp] theorem SbindForm.put_b_cut (major : BitVec 7) (mt : BitVec 4) (mb1 : BitVec 1) (x : SbindForm) :
    (SbindForm.put major mt mb1 x).b.extractLsb' 4 1 = mb1 := by
  simp only [SbindForm.put, fields_read]
@[simp] theorem ChForm.put_b_cut (major : BitVec 7) (mt : BitVec 4) (mb1 : BitVec 1) (x : ChForm) :
    (ChForm.put major mt mb1 x).b.extractLsb' 4 1 = mb1 := by
  simp only [ChForm.put, fields_read]
@[simp] theorem VBin.put_top_cut (major : BitVec 7) (m : BitVec 3) (x : VBin) :
    (VBin.put major m x).top.extractLsb' 0 3 = m := by
  simp only [VBin.put, fields_read]
@[simp] theorem VShForm.put_top_cut (major : BitVec 7) (m : BitVec 2) (x : VShForm) :
    (VShForm.put major m x).top.extractLsb' 1 2 = m := by
  simp only [VShForm.put, fields_read]
@[simp] theorem VmovqForm.put_d_cut (major : BitVec 7) (mb : BitVec 5) (md : BitVec 3) (x : VmovqForm) :
    (VmovqForm.put major mb md x).d.extractLsb' 2 3 = md := by
  simp only [VmovqForm.put, fields_read]
@[simp] theorem VredForm.put_b_cut (major : BitVec 7) (mb : BitVec 2) (x : VredForm) :
    (VredForm.put major mb x).b.extractLsb' 3 2 = mb := by
  simp only [VredForm.put, fields_read]
@[simp] theorem VscanForm.put_b_cut (major : BitVec 7) (mb : BitVec 2) (x : VscanForm) :
    (VscanForm.put major mb x).b.extractLsb' 3 2 = mb := by
  simp only [VscanForm.put, fields_read]
@[simp] theorem FenceForm.put_top_cut (major : BitVec 7) (m : BitVec 2) (x : FenceForm) :
    (FenceForm.put major m x).top.extractLsb' 2 2 = m := by
  simp only [FenceForm.put, fields_read]
@[simp] theorem SelForm.put_top_bit (major : BitVec 7) (x : SelForm) : (SelForm.put major x).top[3] = false := by
  simp only [← BitVec.getLsbD_eq_getElem, SelForm.put, bits_read]
@[simp] theorem SelLit.put_top_bit (major : BitVec 7) (x : SelLit) : (SelLit.put major x).top[3] = false := by
  simp only [← BitVec.getLsbD_eq_getElem, SelLit.put, bits_read]
@[simp] theorem CopyForm.put_top (major : BitVec 7) (mt : BitVec 4) (mb1 : BitVec 1) (x : CopyForm) :
    (CopyForm.put major mt mb1 x).top = mt := rfl
@[simp] theorem SlotretForm.put_top (major : BitVec 7) (mt : BitVec 4) (mb1 : BitVec 1) (x : SlotretForm) :
    (SlotretForm.put major mt mb1 x).top = mt := rfl
@[simp] theorem SbindForm.put_top (major : BitVec 7) (mt : BitVec 4) (mb1 : BitVec 1) (x : SbindForm) :
    (SbindForm.put major mt mb1 x).top = mt := rfl
@[simp] theorem ChForm.put_top (major : BitVec 7) (mt : BitVec 4) (mb1 : BitVec 1) (x : ChForm) :
    (ChForm.put major mt mb1 x).top = mt := rfl
@[simp] theorem R3.put_top (major : BitVec 7) (m : BitVec 4) (x : R3) : (R3.put major m x).top = m := rfl
@[simp] theorem R2Lit.put_top (major : BitVec 7) (m : BitVec 4) (mb : BitVec 5) (x : R2Lit) :
    (R2Lit.put major m mb x).top = m := rfl
@[simp] theorem VcompForm.put_b (major : BitVec 7) (mb : BitVec 5) (x : VcompForm) : (VcompForm.put major mb x).b = mb := rfl
@[simp] theorem VmovqForm.put_b (major : BitVec 7) (mb : BitVec 5) (md : BitVec 3) (x : VmovqForm) :
    (VmovqForm.put major mb md x).b = mb := rfl
@[simp] theorem VBin.put_top_eq_iff (major : BitVec 7) (m : BitVec 3) (x : VBin) (k : BitVec 4) :
    (VBin.put major m x).top = k ↔ BitVec.ofBool x.p = k.extractLsb' 3 1 ∧ m = k.extractLsb' 0 3 :=
  append_eq_iff (BitVec.ofBool x.p) m k
@[simp] theorem VredForm.put_b_eq_iff (major : BitVec 7) (mb : BitVec 2) (x : VredForm) (k : BitVec 5) :
    (VredForm.put major mb x).b = k ↔ mb = k.extractLsb' 3 2 ∧ x.op.toBits = k.extractLsb' 0 3 :=
  append_eq_iff mb x.op.toBits k
@[simp] theorem VscanForm.put_b_eq_iff (major : BitVec 7) (mb : BitVec 2) (x : VscanForm) (k : BitVec 5) :
    (VscanForm.put major mb x).b = k ↔ mb = k.extractLsb' 3 2 ∧ x.op.toBits = k.extractLsb' 0 3 :=
  append_eq_iff mb x.op.toBits k

/-! ## Reading an encoding (R20, R21, R26) -/

/-- A reader that goes by a form reads the instruction of what the form holds. -/
theorem read_of_get {α : Type} {c : α → Instr} {g : Option α} {r : Option Instr} {x : α} (h : g = some x)
    (hr : r = g.map c) : r = some (c x) := by
  rw [hr, h]
  rfl

/-- The word of an instruction reads as that instruction: its major and its selector lead to its own form (R26). -/
theorem readWord_of_enc {i : Instr} {f : Fields} (h : enc i = some (.word f)) : readWord f = some i := by
  cases i
  all_goals simp only [enc, Option.some.injEq, reduceCtorEq, Enc.word.injEq] at h
  all_goals subst h
  case repe => rfl
  case cmp => exact read_of_get (CmpForm.get_put ..) rfl
  case addi | andi | ori | xori => exact read_of_get (IForm.get_put ..) rfl
  case cmpi => exact read_of_get (CmpiForm.get_put ..) rfl
  case movi | movhi => exact read_of_get (MovForm.get_put ..) rfl
  case faddF32 | fsubF32 | fmulF32 | fdivF32 | faddF64 | fsubF64 | fmulF64 | fdivF64 | fminF32 | fmaxF32 | fminF64 |
      fmaxF64 | ffmaF32 | ffmaF64 | casW | casD | cas2 | mxcmd | vext | vins | vlds | vsts | vldx | vstx | dqpush |
      hmask | barv | barw => exact read_of_get (R3.get_put ..) rfl
  case fsqrtF32 | fsqrtF64 | jlr | vlen | dqsplit | dqsteal | launch | launchH => exact read_of_get (R2.get_put ..) rfl
  case fcmp => exact read_of_get (FcmpForm.get_put ..) rfl
  case fcvt => exact read_of_get (FcvtForm.get_put ..) rfl
  case br => exact read_of_get (BrForm.get_put ..) rfl
  case bp => exact read_of_get (BpForm.get_put ..) rfl
  case j => exact read_of_get (JForm.get_put ..) rfl
  case jl => exact read_of_get (JlForm.get_put ..) rfl
  case jr | tswap | capset | tblld | clld | pgsum | pgclr | wait => exact read_of_get (Ra.get_put ..) rfl
  case plog => exact read_of_get (PlogForm.get_put ..) rfl
  case pset => exact read_of_get (PsetForm.get_put ..) rfl
  case pget | pcnt => exact read_of_get (PgetForm.get_put ..) rfl
  case ld | ldAcq | rld | rst | ldf | ldfe => exact read_of_get (MemForm.get_put ..) rfl
  case st | stRel | stf => exact read_of_get (StForm.get_put ..) rfl
  case ldx => exact read_of_get (LdxForm.get_put ..) rfl
  case stx => exact read_of_get (StxForm.get_put ..) rfl
  case ldp | stp => exact read_of_get (DispForm.get_put ..) rfl
  case amoW | amoD | ramoW | ramoD => exact read_of_get (AmoForm.get_put ..) rfl
  case cwb | cinv | feclr | winset | pgbound | pgpick | hset => exact read_of_get (Rba.get_put ..) rfl
  case sendc => exact read_of_get (SendcForm.get_put ..) rfl
  case mrd => exact read_of_get (MrdForm.get_put ..) rfl
  case mprobe | minsert | mremove | mcas | mprobev | mrowget | mrowput | mscan | mstat | mrepl =>
    exact read_of_get (MapForm.get_put ..) rfl
  case mupsert | mupsertv => exact read_of_get (MapOpForm.get_put ..) rfl
  case vadd | vsub | vmul | vfma | vfms | vfnma | vdiv | vmin | vmax => exact read_of_get (VForm.get_put ..) rfl
  case vcmp => exact read_of_get (VcmpForm.get_put ..) rfl
  case vsel => exact read_of_get (VselForm.get_put ..) rfl
  case vmov | vbcast => exact read_of_get (VUn0.get_put ..) rfl
  case vabs | vneg | vsqrt | vrcp | vrsq | vexp2 | vlog2 => exact read_of_get (VUn.get_put ..) rfl
  case viota | dqpop => exact read_of_get (Rd.get_put ..) rfl
  case vcvt => exact read_of_get (CvtForm.get_put ..) rfl
  case vdec | vdqnt => exact read_of_get (UnpackForm.get_put ..) rfl
  case venc => exact read_of_get (PackForm.get_put ..) rfl
  case vqnt => exact read_of_get (QuantForm.get_put ..) rfl
  case mma => exact read_of_get (MmaForm.get_put ..) rfl
  case mmat => exact read_of_get (MmatForm.get_put ..) rfl
  case tzero => exact read_of_get (TForm.get_put ..) rfl
  case tld | tldT | tst | tstn | trow => exact read_of_get (TileForm.get_put ..) rfl
  case clrot | clwait | done | idem | idemEnd | rfence | rtt => exact read_of_get (G0.get_put ..) rfl
  case trap => exact read_of_get (TrapForm.get_put ..) rfl
  case srd => exact read_of_get (SrdForm.get_put ..) rfl
  case swr => exact read_of_get (SwrForm.get_put ..) rfl
  case tlbinv => exact read_of_get (TlbForm.get_put ..) rfl
  all_goals
    change (if _ then _ else _) = _
    simp

/-- A word with a literal reads as its instruction (R20, R26). -/
theorem readLit_of_enc {i : Instr} {f : Fields} {lit : BitVec 32} (h : enc i = some (.wordLit f lit)) :
    readLit lit f = some i := by
  cases i
  all_goals simp only [enc, Option.some.injEq, reduceCtorEq, Enc.wordLit.injEq] at h
  all_goals obtain ⟨rfl, rfl⟩ := h
  case repb => exact read_of_get (RepbForm.get_put _) rfl
  case cmpLit => exact read_of_get (CmpLit.get_put ..) rfl
  case addiLit | andiLit | oriLit | xoriLit | ldpLit | stpLit | vldLit | vstLit => exact read_of_get (R2Lit.get_put ..) rfl
  case cmpiLit => exact read_of_get (CmpiLit.get_put ..) rfl
  case moviLit | movhiLit => exact read_of_get (MovLit.get_put ..) rfl
  case brLit => exact read_of_get (BrLit.get_put ..) rfl
  case bpLit => exact read_of_get (BpLit.get_put ..) rfl
  case jLit => exact read_of_get (JLit.get_put ..) rfl
  case jlLit => exact read_of_get (JlLit.get_put ..) rfl
  case ldLit | ldAcqLit | rldLit | rstLit | ldfLit | ldfeLit => exact read_of_get (MemLit.get_put ..) rfl
  case stLit | stRelLit | stfLit => exact read_of_get (StLit.get_put ..) rfl
  all_goals
    change (if _ then _ else _) = _
    simp

/-- The parts of a compact halfword read back (R17, R21). -/
theorem compact_reads (op f1 f2 : BitVec 5) : (compact op f1 f2).getLsbD 0 = false ∧ (compact op f1 f2).extractLsb' 1 5 = op ∧
    (compact op f1 f2).extractLsb' 6 5 = f1 ∧ (compact op f1 f2).extractLsb' 11 5 = f2 := by
  refine ⟨?_, ?_⟩
  · simp only [compact, BitVec.getLsbD_append]
    rfl
  · simp (disch := decide) only [compact, BitVec.extractLsb'_append_eq_of_le, Nat.reduceSub, fields_read,
      BitVec.extractLsb'_eq_self, and_self]

/-- A compact halfword reads as its instruction (R21). -/
theorem readCompact_of_enc {i : Instr} {h : HW} (he : enc i = some (.compact h)) : readCompact h = some i := by
  cases i
  all_goals simp only [enc, Option.some.injEq, reduceCtorEq, Enc.compact.injEq] at he
  all_goals
    subst he
    simp [readCompact, compact_reads]

/-! ## Decoding an encoding (R15, R24) -/

/-- The ruler laid over the word of its fields (R17). -/
theorem Fields.ofWord_word (f : Fields) : Fields.ofWord f.word = f := by
  simp (disch := decide) only [Fields.ofWord, Fields.word, bits_read, fields_read, BitVec.extractLsb'_append_eq_of_le,
    Nat.reduceSub]

/-- Bit 0 of a word tells it from a compact halfword (R15). -/
theorem Fields.word_bit0 (f : Fields) : (f.word.extractLsb' 0 16).getLsbD 0 = true := by
  simp only [Fields.word, BitVec.getLsbD_extractLsb', BitVec.getLsbD_append]
  rfl

/-- Only a compact row has a halfword with bit 0 clear (R15). -/
theorem enc_compact_bit0 {i : Instr} {h : HW} (he : enc i = some (.compact h)) : h.getLsbD 0 = false := by
  cases i
  all_goals simp only [enc, Option.some.injEq, reduceCtorEq, Enc.compact.injEq] at he
  all_goals
    subst he
    exact (compact_reads _ _ _).1

/-- A row without a literal has L = 0 (R20). -/
theorem enc_word_l {i : Instr} {f : Fields} (he : enc i = some (.word f)) : f.l = false := by
  cases i
  all_goals simp only [enc, Option.some.injEq, reduceCtorEq, Enc.word.injEq] at he
  all_goals
    subst he
    rfl

/-- A row with a literal has L = 1 (R20). -/
theorem enc_wordLit_l {i : Instr} {f : Fields} {lit : BitVec 32} (he : enc i = some (.wordLit f lit)) : f.l = true := by
  cases i
  all_goals simp only [enc, Option.some.injEq, reduceCtorEq, Enc.wordLit.injEq] at he
  all_goals
    obtain ⟨rfl, rfl⟩ := he
    rfl

/-- An encoding that reads as a well-formed instruction of its own is accepted. -/
theorem accept_ok {e : Enc} {i : Instr} (hw : i.wellFormed = true) (he : enc i = some e) : accept e (some i) = .ok i := by
  simp [accept, he, hw]

/-- The two halfwords of a 32-bit value side by side are the value. -/
theorem halves_join (w : BitVec 32) : w.extractLsb' 16 16 ++ w.extractLsb' 0 16 = w := by
  simp only [fields_read]

/-- Settles O56: the first halfword tells the length, the halfwords make up the ruler's word and the literal again, and the major and
the selector lead to the form that was encoded. -/
theorem decodeEncode : Obligations.DecodeEncode := by
  intro i hs rest hw h
  obtain ⟨e, he, rfl⟩ := Option.map_eq_some_iff.mp h
  cases e with
  | compact h =>
    simp only [Enc.halves, List.cons_append, List.nil_append, decode, enc_compact_bit0 he, if_true, readCompact_of_enc he]
    exact accept_ok hw he
  | word f =>
    simp only [Enc.halves, List.cons_append, List.nil_append, decode, Fields.word_bit0, halves_join, Fields.ofWord_word,
      enc_word_l he, Bool.true_eq_false, if_false, if_true, readWord_of_enc he]
    exact accept_ok hw he
  | wordLit f lit =>
    simp only [Enc.halves, List.cons_append, List.nil_append, decode, Fields.word_bit0, halves_join, Fields.ofWord_word,
      enc_wordLit_l he, Bool.true_eq_false, if_false, readLit_of_enc he]
    exact accept_ok hw he

end Sys2Proof

/-! PROOFS. The turns (R16, R24, R191, R335). -/

namespace Sys2Proof.Machine

/-- A core that is not told to quiesce aborts nothing (R316). -/
theorem State.mustAbort_eq_false {s : State} {c : Nat} (h : (s.core c).quiescing = false) : s.mustAbort c = false := by
  simp [State.mustAbort, Core.quiesces, h]

/-- Noting that a context runs leaves the cores. -/
@[simp] theorem State.noteRun_core (s : State) (k : Core) (c : Nat) : (s.noteRun k).core c = s.core c := by
  unfold State.noteRun
  repeat' split
  all_goals rfl

/-- A task that nothing comes before runs its next instruction (R16, R24). -/
theorem Fetches.taskStep {s : State} {c : Nat} {t : Task} {i : Instr} (h : Fetches s c t i) :
    (s.noteRun (s.core c)).taskStep c (s.core c) t = exec i (s.noteRun (s.core c)) := by
  have hresel : (!(s.core c).inHi && (s.core c).sched.resel) = false := by
    rcases h.select with hs | hs <;> simp [hs]
  have hdue : (s.core c).dueVector t = none := by
    unfold Core.dueVector
    rcases h.sound with hs | hs | hs <;> simp [hs]
  have hcode : (t.carried && decide (t.code.length ≤ t.pc)) = false := by
    cases hc : t.carried
    · rfl
    · simpa using h.inCode hc
  have hrun : (s.noteRun (s.core c)).runNext (s.core c) t = exec i (s.noteRun (s.core c)) := by
    simp only [State.runNext, hcode, h.decoded, Bool.false_eq_true, if_false]
  have habort : (s.noteRun (s.core c)).mustAbort c = false := State.mustAbort_eq_false (by simpa using h.quiet)
  simp only [State.taskStep, State.boundaryStep, hresel, hdue, h.answered, habort, h.noHi, h.budget, h.noPending, h.ready, hrun,
    List.isEmpty_nil, Bool.not_true, Bool.false_and, Bool.false_eq_true, if_false, if_true, ite_self]

/-- A core's step runs the instruction, and its cycles go by. -/
theorem Fetches.coreStep {s : State} {c : Nat} {t : Task} {i : Instr} (h : Fetches s c t i) :
    coreStep c s = match exec i (s.noteRun (s.core c)) with
      | .next u => .next (s.elapse u c)
      | r => r := by
  simp only [Machine.coreStep, h.service, h.alive, h.task, h.taskStep, Bool.not_true, Bool.or_false, Bool.false_eq_true, if_false]
  cases exec i (s.noteRun (s.core c)) <;> rfl

/-- The core of a context that has run before is noted nowhere (R335). -/
theorem State.noteRun_same {s : State} {k : Core} (h : ∀ ctx x, k.ctx = some ctx → s.context? ctx = some x → x.state ≠ .fresh) :
    s.noteRun k = s := by
  unfold State.noteRun
  split
  · rfl
  · next ctx hctx =>
    split
    · rfl
    · next x hx => simp [h ctx x hctx hx]

/-- Samples change the monitors and the free values alone (R363). -/
theorem State.freeLevel_frame (s : State) (u code n : Nat) :
    (s.freeLevel u code n).mem = s.mem ∧ (s.freeLevel u code n).cores = s.cores := by
  induction n generalizing s with
  | zero => exact ⟨rfl, rfl⟩
  | succ n ih =>
    simp only [State.freeLevel]
    split
    · exact ih _
    · exact ⟨rfl, rfl⟩

/-- Levels of a core are sampled without touching memory or cores (R363). -/
theorem State.sampleLevels_frame (s : State) (c n : Nat) :
    (s.sampleLevels c n).mem = s.mem ∧ (s.sampleLevels c n).cores = s.cores := by
  unfold State.sampleLevels
  split
  · exact State.freeLevel_frame _ _ _ _
  · exact ⟨rfl, rfl⟩

/-- A change of a task leaves the core's registers. -/
@[simp] theorem Core.onTask_regs (k : Core) (hi : Bool) (f : Task → Task) : (k.onTask hi f).regs = k.regs := by
  unfold Core.onTask
  split
  · exact Core.setTask_regs ..
  · rfl

/-- SR.CYC counts the cycles that go by (R324). -/
theorem Core.passCycles_cyc (k : Core) (n : Nat) (held : Option Bool) : (k.passCycles n held).regs.cyc = k.regs.cyc + w64 n := by
  simp only [Core.passCycles, apply_ite Core.regs, Core.onTask_regs, ite_self]

/-- Cycles of a core touch no memory and no other core. -/
theorem State.elapse_frame (s t : State) (c : Nat) : (s.elapse t c).mem = t.mem ∧
    ((s.elapse t c).core c).regs.cyc = (t.core c).regs.cyc + w64 (Config.cycles s.tick + 1) ∧
    ∀ d, d ≠ c → (s.elapse t c).core d = t.core d := by
  obtain ⟨hm, hc⟩ := State.sampleLevels_frame t c (Config.cycles s.tick + 1)
  have hcore (d : Nat) : (t.sampleLevels c (Config.cycles s.tick + 1)).core d = t.core d := by simp only [State.core, hc]
  refine ⟨hm, ?_, fun d hd => ?_⟩
  · simp only [State.elapse, State.core_onCore_self, Core.passCycles_cyc, hcore]
  · simp only [State.elapse, State.core_onCore_ne _ _ hd, hcore]

/-- A step of a core's vector/matrix stream runs the oldest instruction passed to it (R191). -/
theorem vectorStep_head {s : State} {c : Nat} {e : VEntry} {it : VItem} (hs : s.ended = false) (hk : (s.core c).alive = true)
    (hq : (s.core c).vu.viq.head? = some e) (hi : e.item? = some it) : vectorStep c s = exec (e.current it) s := by
  obtain ⟨r, hr⟩ := List.head?_eq_some_iff.mp hq
  simp only [vectorStep, hs, hk, hr, hi, Bool.not_true, Bool.or_false, Bool.false_eq_true, if_false]

/-- Settles O57: by the case of the turn, each with the step of its agent. -/
theorem stepRunsDecoded : Obligations.StepRunsDecoded := by
  refine ⟨fun s c lag t i hturn h => ?_, fun s k => State.noteRun_same, fun s c e it hturn hs hk hq hi => ?_,
    fun s i hturn hev hs => ?_, State.elapse_frame⟩
  · simp only [step, State.act, hturn, h.coreStep]
    cases exec i (s.noteRun (s.core c)) <;> rfl
  · simp only [step, State.act, hturn, vectorStep_head hs hk hq hi]
    cases exec (e.current it) s <;> rfl
  · have hcan : (Instr.isEvent i && !(s.ended && Instr.atCore i)) = true := by
      rcases hs with hs | hs <;> simp [hev, hs]
    simp only [step, State.act, hturn, eventStep, hcan, if_true]
    cases exec i s <;> rfl

end Sys2Proof.Machine

/-! PROOFS. The words of the worked programs (R15, R17, R20, R21, R26, R27, R30). -/

namespace Sys2Proof.Machine

/-- A well-formed instruction's own halfwords read as it (R15). -/
theorem reads_of_encode {hs : List Nat} {i : Instr} (hw : i.wellFormed = true) (he : encode i = some (hs.map (BitVec.ofNat 16))) :
    Reads hs i := by
  simpa [Reads] using decodeEncode i _ [] hw he

/-- Settles O55: each printed word is the encoding of its instruction; the last three patterns are refused where decoding looks. -/
theorem decodeWords : Obligations.DecodeWords :=
  ⟨reads_of_encode rfl rfl, reads_of_encode rfl rfl, reads_of_encode rfl rfl, reads_of_encode rfl rfl, reads_of_encode rfl rfl,
    reads_of_encode rfl rfl, reads_of_encode rfl rfl, reads_of_encode rfl rfl, reads_of_encode rfl rfl, reads_of_encode rfl rfl,
    reads_of_encode rfl rfl, reads_of_encode rfl rfl, reads_of_encode rfl rfl, rfl, rfl, rfl⟩

end Sys2Proof.Machine

/-! PROOFS. Instructions that only write a result (R21, R264, R268–R270, R272, R277). -/

namespace Sys2Proof.Machine

/-! ## The frame of an instruction that writes one register or predicate -/

/-- A predicate write and the stall mark are independent. -/
theorem Task.setPred_withStalled (t : Task) (d : PReg) (v : W) (b : Bool) :
    ({ t with stalled := b } : Task).setPred d v = { t.setPred d v with stalled := b } := by
  unfold Task.setPred; split <;> rfl

/-- The core that an issued instruction finds is the core with its task marked. -/
theorem Issues.cx_k {s : State} {c : Nat} {t : Task} (hs : Issues s c t) :
    (s.cx c t).k = (s.core c).setTask (s.core c).inHi { t with stalled := true } := State.core_issue hs.task

/-- A body that writes one predicate and is done: the step writes it and goes past the instruction. -/
theorem Ret.finish_setP {s : State} {c : Nat} {t : Task} (hs : Issues s c t) (d : PReg) (v : W) (n : Need) :
    (Ret.done ((s.cx c t).s.setCore c ((s.cx c t).k.setP (s.core c).inHi d v))).finish (s.cx c t) n =
      .next (s.retire c (s.core c) (t.setPred d v) (t.pc + n.len)) := by
  rw [hs.cx_k, Core.setP, Core.onTask_setTask, Ret.finish_done _ _ n (Core.bankTask_setTask ..) (Issues.inHi_setTask hs _)
    (by simp [hs.queue]), Issues.retire_setTask hs, Task.setPred_withStalled, State.retire_stalled]

/-- An instruction whose own part writes X[d] alone. -/
theorem writesX_of_scalar {i : Instr} {n : Need} {len : Nat} {g : Guard} {d : Reg} {fn : Cx → W} {v : Core → Task → W}
    (x : State → Out) (he : exec i = x := by rfl)
    (hx : ∀ s, x s = scalar n (fun cx => .done (cx.s.setCore cx.c (cx.k.setX cx.hi d (fn cx)))) s := by exact fun _ => rfl)
    (hn : n.carried = true ∧ n.sup = false ∧ n.noHi = false ∧ n.len = len ∧ n.g = g := by exact ⟨rfl, rfl, rfl, rfl, rfl⟩)
    (hv : ∀ s c t, Issues s c t → fn (s.cx c t) = v (s.core c) t := by intros; rfl) : WritesX i len g d v := by
  obtain ⟨hc, hsup, hhi, rfl, rfl⟩ := hn
  intro s c t hs hg _
  rw [he, hx, scalar_runs hs n _ (by simp [hc]) (by simp [hsup]) (by simp [hhi]) hg, hv s c t hs]
  exact Ret.finish_setX hs d _ n

/-- An instruction whose own part writes P[d] alone. -/
theorem writesP_of_scalar {i : Instr} {n : Need} {len : Nat} {g : Guard} {d : PReg} {fn : Cx → W} {v : Core → Task → W}
    (x : State → Out) (he : exec i = x := by rfl)
    (hx : ∀ s, x s = scalar n (fun cx => .done (cx.s.setCore cx.c (cx.k.setP cx.hi d (fn cx)))) s := by exact fun _ => rfl)
    (hn : n.carried = true ∧ n.sup = false ∧ n.noHi = false ∧ n.len = len ∧ n.g = g := by exact ⟨rfl, rfl, rfl, rfl, rfl⟩)
    (hv : ∀ s c t, Issues s c t → fn (s.cx c t) = v (s.core c) t := by intros; rfl) : WritesP i len g d v := by
  obtain ⟨hc, hsup, hhi, rfl, rfl⟩ := hn
  intro s c t hs hg
  rw [he, hx, scalar_runs hs n _ (by simp [hc]) (by simp [hsup]) (by simp [hhi]) hg, hv s c t hs]
  exact Ret.finish_setP hs d _ n

/-- An instruction of one source whose result goes to X[d] or to queue d. -/
theorem writesTo_of_q1Op {i : Instr} {pd : Bool} {a d : Reg} {g : Guard} {fn : W → W} {v : Core → Task → W}
    (x : State → Out) (he : exec i = x := by rfl) (hx : ∀ s, x s = q1Op pd a d g fn s := by exact fun _ => rfl)
    (hv : ∀ k t, fn (Task.reg t a) = v k t := by intros; rfl) : WritesTo i 2 g pd d v := by
  intro s c t hs hg hp
  rw [he, hx, q1Op_next pd a d g fn hs hg hp, hv]

/-- An instruction of `len` halfwords on X[a], to X[d]. -/
theorem writesX_of_iOp {i : Instr} {len : Nat} {g : Guard} {a d : Reg} {fn : W → W} {v : Core → Task → W}
    (x : State → Out) (he : exec i = x := by rfl) (hx : ∀ s, x s = iOp len g a d fn s := by exact fun _ => rfl)
    (hv : ∀ k t, fn (Task.reg t a) = v k t := by intros; rfl) : WritesX i len g d v := by
  intro s c t hs hg _
  rw [he, hx, iOp_next len g a d fn hs hg, hv (s.core c)]
  rfl

/-- A compact instruction on X[d] and X[b], to X[d]. -/
theorem writesX_of_cOp {i : Instr} {f : C2} {fn : W → W → W} {v : Core → Task → W}
    (x : State → Out) (he : exec i = x := by rfl) (hx : ∀ s, x s = cOp f fn s := by exact fun _ => rfl)
    (hv : ∀ k t, fn (Task.reg t f.d) (t.reg f.b) = v k t := by intros; rfl) : WritesX i 1 .always f.d v := by
  intro s c t hs hg _
  rw [he, hx, cOp_next f fn hs hg, hv (s.core c)]
  rfl

/-! ## The values of extensions, shifts and MOVHI -/

/-- Sign extension of the low `n` bits, as a number and as a bit vector (R5). -/
theorem sextW_mod {n : Nat} (hn : 0 < n) (a : W) : sextW n (a.toNat % 2 ^ n) = (a.setWidth n).signExtend 64 := by
  have hp : 2 ^ n = 2 * 2 ^ (n - 1) := by rw [← Nat.pow_succ', Nat.succ_eq_add_one, Nat.sub_add_cancel hn]
  have hs : signed n (a.toNat % 2 ^ n) = (a.setWidth n).toInt := by
    simp only [signed, Nat.mod_mod, BitVec.toInt_eq_toNat_cond, BitVec.toNat_setWidth]
    split <;> split <;> omega
  rw [sextW, hs, BitVec.signExtend]

/-- EXT: zero or sign extension of a field (R27, R268). -/
theorem extW_mod {n : Nat} (hn : 0 < n) (uns : Bool) (a : W) :
    extW (!uns) n (a.toNat % 2 ^ n) = if uns then w64 (a.toNat % 2 ^ n) else (a.setWidth n).signExtend 64 := by
  cases uns
  · exact sextW_mod hn a
  · simp [extW]

/-- A small number as a register value. -/
theorem toNat_w64_of_lt {n : Nat} (h : n < 64) : (w64 n).toNat = n := by
  simp only [w64, BitVec.toNat_ofNat]
  omega

/-- A shift by a constant below 64 (R267, R268). -/
theorem shl_w64 (a : W) {n : Nat} (h : n < 64) : shl a (w64 n) = a <<< n := by simp only [shl, toNat_w64_of_lt h, if_pos h]
theorem shr_w64 (a : W) {n : Nat} (h : n < 64) : shr a (w64 n) = a >>> n := by simp only [shr, toNat_w64_of_lt h, if_pos h]
theorem sar_w64 (a : W) {n : Nat} (h : n < 64) : sar a (w64 n) = a.sshiftRight n := by
  simp only [sar, toNat_w64_of_lt h, Nat.min_eq_left (Nat.le_of_lt_succ h)]

/-- MOVHI keeps the low half and replaces the high one (R268). -/
theorem movhi_eq (d : W) (imm : BitVec 32) : movhi d imm = w64 (imm.toNat * 2 ^ 32 + d.toNat % 2 ^ 32) := by
  apply BitVec.eq_of_toNat_eq
  have h1 := imm.isLt
  have h2 := d.isLt
  simp only [movhi, w64, BitVec.toNat_append, BitVec.extractLsb'_toNat, BitVec.toNat_ofNat, Nat.shiftRight_zero]
  rw [← Nat.shiftLeft_add_eq_or_of_lt (Nat.mod_lt _ (by decide)), Nat.shiftLeft_eq]
  omega

/-- The widths of EXT are positive. -/
theorem ExtWidth.bits_pos (w : ExtWidth) : 0 < ExtWidth.bits w := by cases w <;> decide

/-- Settles O2: each instruction goes through the frame of its shape; shifts, extensions and MOVHI by their values. -/
theorem immediateResults : Obligations.ImmediateResults := by
  refine ⟨⟨fun f => ?_, fun f => ?_, fun f => ?_, fun f => ?_⟩, ⟨fun f => ?_, fun f => ?_, fun f => ?_, fun f => ?_⟩,
    ⟨fun f => ?_, fun f => ?_, fun f => ?_⟩, ⟨fun f => ?_, fun f => ?_⟩, fun f => ?_, fun f => ?_, ?_⟩
  · exact writesTo_of_q1Op (execClz f)
  · exact writesTo_of_q1Op (execCtz f)
  · exact writesTo_of_q1Op (execPopc f)
  · exact writesTo_of_q1Op (execExt f) (hv := fun _ t => extW_mod (ExtWidth.bits_pos f.width) f.uns (t.reg f.a))
  · exact writesX_of_scalar (execSel f)
  · exact writesX_of_scalar (execSelLit f)
  · exact writesX_of_scalar (execWfld f)
  · exact writesX_of_iOp (execWfldLit f)
  · exact ⟨writesX_of_iOp (execAddi f), writesX_of_iOp (execAndi f), writesX_of_iOp (execOri f), writesX_of_iOp (execXori f)⟩
  · exact ⟨writesX_of_iOp (execAddiLit f), writesX_of_iOp (execAndiLit f), writesX_of_iOp (execOriLit f),
      writesX_of_iOp (execXoriLit f)⟩
  · have h64 : f.n.toNat < 64 := f.n.isLt
    exact ⟨writesX_of_iOp (execShli f) (hv := fun _ _ => shl_w64 _ h64), writesX_of_iOp (execShri f) (hv := fun _ _ => shr_w64 _ h64),
      writesX_of_iOp (execSari f) (hv := fun _ _ => sar_w64 _ h64)⟩
  · exact ⟨writesX_of_iOp (execMovi f), writesX_of_iOp (execMovhi f) (hv := fun _ _ => movhi_eq _ _)⟩
  · exact ⟨writesX_of_iOp (execMoviLit f), writesX_of_iOp (execMovhiLit f) (hv := fun _ _ => movhi_eq _ _)⟩
  · exact ⟨writesX_of_cOp (execCAdd f), writesX_of_cOp (execCSub f), writesX_of_cOp (execCAnd f), writesX_of_cOp (execCOr f),
      writesX_of_cOp (execCXor f), writesX_of_cOp (execCMov f), writesX_of_cOp (execCMul f)⟩
  · have h64 : f.imm.toNat < 64 := Nat.lt_of_lt_of_le f.imm.isLt (by decide)
    exact ⟨writesX_of_iOp (execCAddi f), writesX_of_iOp (execCAddiX0 f) (hv := fun _ _ => BitVec.zero_add _),
      writesX_of_iOp (execCAndi f), writesX_of_iOp (execCShli f) (hv := fun _ _ => shl_w64 _ h64),
      writesX_of_iOp (execCShri f) (hv := fun _ _ => shr_w64 _ h64), writesX_of_iOp (execCSari f) (hv := fun _ _ => sar_w64 _ h64)⟩
  · exact writesX_of_iOp execNop

end Sys2Proof.Machine

/-! PROOFS. Operands from ports, comparisons and predicates (R194, R270, R272, R277). -/

namespace Sys2Proof.Machine

/-! ## Ports of the scalar stream -/

/-- What is got, with its core changed by `f`. -/
def Got.onCore {α : Type} (f : Core → Core) : Got α → Got α
  | .ok v k => .ok v (f k)
  | .wait k => .wait (f k)
  | .trap code v => .trap code v

/-- A stream register is read the same whichever task marks the core, from the transfers and the core alone (R84). -/
theorem streamRead_setTask {s s' : State} (h : s'.xfers = s.xfers) (c : Nat) (k : Core) (hi : Bool) (u : Task) (j n reader : Nat) :
    streamRead s' c (k.setTask hi u) j n reader = (streamRead s c k j n reader).onCore (·.setTask hi u) := by
  have hr : ∀ ch id lo up, streamReady s' c ch id lo up = streamReady s c ch id lo up := fun ch id lo up => by
    unfold streamReady; rw [h]
  unfold streamRead
  simp only [Core.setTask_vu, Core.setTask_lcl, hr]
  cases hi <;> (repeat' split) <;> rfl

/-- A scalar port pops the same whichever task marks the core (R194). -/
theorem scalarPop_setTask {s s' : State} (h : s'.xfers = s.xfers) (c : Nat) (k : Core) (hi : Bool) (u : Task) (n : Nat) :
    scalarPop s' c (k.setTask hi u) n = (scalarPop s c k n).onCore (·.setTask hi u) := by
  unfold scalarPop
  simp only [Core.setTask_vu, streamRead_setTask h]
  split
  · cases k.vu.queue n <;> cases hi <;> rfl
  · cases streamRead s c k (n - 8) 8 1 <;> rfl

/-- A read of a stream register changes the core's stream bindings alone (R84). -/
theorem streamRead_ok {s : State} {c : Nat} {k k' : Core} {j n reader : Nat} {l : List Byte}
    (h : streamRead s c k j n reader = .ok l k') : ∃ b, k' = { k with vu := { k.vu with s := Tbl.insert k.vu.s j b } } := by
  unfold streamRead at h
  dsimp only at h
  split at h
  · cases h
  · split_ifs at h
    split at h
    · cases h
    · cases h
      exact ⟨_, rfl⟩

/-- A pop changes the core's queues or stream bindings alone: no instruction of its stream, and no task. -/
theorem scalarPop_ok {s : State} {c : Nat} {k k' : Core} {n : Nat} {v : W} (h : scalarPop s c k n = .ok v k') :
    ∃ u, k' = { k with vu := u } ∧ u.viq = k.vu.viq := by
  unfold scalarPop at h
  split at h
  · split at h
    · cases h
    · cases h
      exact ⟨_, rfl, rfl⟩
  · split at h
    · next hr =>
      cases h
      obtain ⟨b, rfl⟩ := streamRead_ok hr
      exact ⟨_, rfl, rfl⟩
    · cases h
    · cases h

/-- An issued instruction gets operand b as the core had it, with its task marked; the core's task and stream stay. -/
theorem Issues.operandB {s : State} {c : Nat} {t : Task} (hs : Issues s c t) {pb : Bool} {b : Reg} {v : W} {k : Core}
    (h : operandQ s c t pb b = .ok v k) :
    (s.cx c t).operandB pb b = .ok v (k.setTask (s.core c).inHi { t with stalled := true }) ∧
      k.task? = some t ∧ k.inHi = (s.core c).inHi ∧ k.vu.viq = [] := by
  cases pb with
  | false =>
    cases h
    exact ⟨by rw [← hs.cx_k]; rfl, hs.task, rfl, hs.queue⟩
  | true =>
    have hp : scalarPop s c (s.core c) b.toNat = .ok v k := h
    refine ⟨?_, ?_⟩
    · show scalarPop (s.cx c t).s c (s.cx c t).k b.toNat = _
      rw [hs.cx_k, scalarPop_setTask (s := s) (s' := (s.cx c t).s) rfl, hp]
      rfl
    · obtain ⟨u, rfl, hu⟩ := scalarPop_ok hp
      exact ⟨hs.task, rfl, hu.trans hs.queue⟩

/-! ## Comparisons -/

/-- A comparison, once it has its operand and core, writes its predicate. -/
theorem predOp_next {n : Need} {pd : PReg} {fn : Cx → Got Bool} {s : State} {c : Nat} {t : Task} {b : Bool} {k : Core}
    (hs : Issues s c t) (hg : guardPasses n.g t = true) (hn : n.carried = true ∧ n.sup = false)
    (hhi : n.noHi = true → (s.core c).inHi = false)
    (hf : fn (s.cx c t) = .ok b (k.setTask (s.core c).inHi { t with stalled := true }))
    (ht : k.task? = some t) (hk : k.inHi = (s.core c).inHi) (hq : k.vu.viq = []) :
    predOp n pd fn s = .next (s.retire c k (t.setPred pd (predOf b)) (t.pc + n.len)) := by
  obtain ⟨hc, hsup⟩ := hn
  unfold predOp
  refine (scalar_runs hs _ _ ?_ ?_ ?_ ?_).trans ?_
  · simp [hc]
  · simp [hsup]
  · exact hhi
  · exact hg
  simp only [hf, Core.setP, Core.onTask_setTask, State.cx_hi, State.cx_c]
  rw [Task.setPred_withStalled, ← hk,
    Ret.finish_done _ { t.setPred pd (predOf b) with stalled := true } _ (hk ▸ Core.bankTask_setTask ..)
      ((Core.inHi_setTask_self _ ht).trans hk) (by simp [hq]),
    State.retire_stalled]
  simp [State.retire, Core.inHi_setTask_self _ ht]

/-- A comparison whose condition is at hand writes P[d] alone. -/
theorem writesP_of_predOp {i : Instr} {n : Need} {len : Nat} {g : Guard} {d : PReg} {fn : Cx → Bool} {v : Core → Task → W}
    (x : State → Out) (he : exec i = x := by rfl)
    (hx : ∀ s, x s = predOp n d (fun cx => .ok (fn cx) cx.k) s := by exact fun _ => rfl)
    (hn : n.carried = true ∧ n.sup = false ∧ n.noHi = false ∧ n.len = len ∧ n.g = g := by exact ⟨rfl, rfl, rfl, rfl, rfl⟩)
    (hv : ∀ s c t, Issues s c t → everyBit (fn (s.cx c t)) = v (s.core c) t := by intros; rfl) : WritesP i len g d v := by
  obtain ⟨hc, hsup, hhi, rfl, rfl⟩ := hn
  intro s c t hs hg
  rw [he, hx, predOp_next hs hg ⟨hc, hsup⟩ (by simp [hhi]) (congrArg _ hs.cx_k) hs.task rfl hs.queue, ← hv s c t hs]
  rfl

/-- CMP's conditions, on registers as numbers (R27, R270). -/
theorem cmpHolds_eq (q : CmpCond) (a b : W) : cmpHolds q a b = conditionHolds q a b := by
  cases q <;> rw [Bool.eq_iff_iff] <;> simp [cmpHolds, conditionHolds, BitVec.slt, BitVec.ult]

/-- FCMP reads the bits of its format (R262, R277). -/
theorem decode_mod_f64 (a : W) : sF64.decode (a.toNat % 2 ^ sF64.width) = sF64.decode a.toNat := by
  rw [show sF64.width = 64 from rfl, Nat.mod_eq_of_lt a.isLt]

/-- PLOG looks its bits up one by one (R272). -/
theorem plog_bit (tt : BitVec 4) (a b : W) {i : Nat} (h : i < 64) :
    (plog tt a b).getLsbD i = tt.getLsbD (2 * b2n (a.getLsbD i) + b2n (b.getLsbD i)) := by
  have row (x : Bool) (v : W) : (if x then v else 0).getLsbD i = (x && v.getLsbD i) := by cases x <;> simp
  simp only [plog, BitVec.getLsbD_or, row, BitVec.getLsbD_and, BitVec.getLsbD_not, h, decide_true, Bool.true_and]
  cases a.getLsbD i <;> cases b.getLsbD i <;> simp [b2n, -BitVec.getLsbD_eq_getElem]

/-- PCNT counts the bits that are set below `n`. -/
theorem popcount_eq (n : Nat) (a : W) : popcount n a.toNat = (List.range n).countP fun i => a.getLsbD i :=
  (List.countP_eq_length_filter ..).symm

/-- Settles O4: CMP through its operand, the other comparisons and the predicate forms through the frame of one write. -/
theorem predicateResults : Obligations.PredicateResults := by
  refine ⟨⟨fun f s c t b k hs hg hhi hb => ?_, fun f => ?_, fun f => ?_, fun f => ?_, fun f => ?_, fun f => ?_⟩,
    ⟨fun f => ?_, fun f => ?_, fun f => ?_, fun f => ?_⟩, fun tt a b i h => plog_bit tt a b h⟩
  · obtain ⟨hop, ht, hk, hq⟩ := hs.operandB hb
    rw [← cmpHolds_eq]
    show execCmp f s = _
    unfold execCmp
    refine predOp_next hs hg ⟨rfl, rfl⟩ hhi ?_ ht hk hq
    simp only [hop, State.cx_x]
  · simp only [← cmpHolds_eq]
    exact writesP_of_predOp (execCmpLit f)
  · exact writesP_of_predOp (execCmpi f)
  · exact writesP_of_predOp (execCmpiLit f)
  · exact writesP_of_predOp (execCCmpEq f)
  · refine writesP_of_predOp (execFcmp f) (hv := fun s c t _ => ?_)
    cases f.dbl
    · rfl
    · simp only [if_true, State.cx_x, decode_mod_f64]
  · exact writesP_of_scalar (execPlog f)
  · exact writesP_of_scalar (execPset f)
  · exact writesX_of_scalar (execPget f)
  · refine writesX_of_scalar (execPcnt f) (hv := fun s c t hs => ?_)
    rw [← popcount_eq]
    simp only [Cx.predLanes, hs.cx_k, Core.setTask_vu]
    rfl

end Sys2Proof.Machine

/-! PROOFS. The frame of each instruction of the scalar stream (R22–R25, R162). -/

namespace Sys2Proof.Machine

/-- The operation `x` runs in the scalar frame: with its length and guard, and barred from user mode (`sup`), from HI tasks
(`noHi`) or from carried code (not `carried`). -/
def Framed (x : State → Out) (len : Nat) (g : Guard) (sup noHi carried : Bool) : Prop :=
  ∃ n body, (∀ s, x s = scalar n body s) ∧ n.len = len ∧ n.g = g ∧ n.sup = sup ∧ n.noHi = noHi ∧ n.carried = carried

/-! ## The shapes that instructions share -/

theorem framed_qOp (f : QForm) (fn : W → W → W) : Framed (qOp f fn) 2 f.g false (f.pb || f.pd) true :=
  ⟨_, _, fun _ => rfl, rfl, rfl, rfl, rfl, rfl⟩
theorem framed_q3Op (f : QForm) (fn : W → W → W → W) : Framed (q3Op f fn) 2 f.g false (f.pb || f.pd) true :=
  ⟨_, _, fun _ => rfl, rfl, rfl, rfl, rfl, rfl⟩
theorem framed_qLit (f : QLit) (fn : W → W → W) : Framed (qLit f fn) 4 f.g false f.pd true :=
  ⟨_, _, fun _ => rfl, rfl, rfl, rfl, rfl, rfl⟩
theorem framed_q3Lit (f : QLit) (fn : W → W → W → W) : Framed (q3Lit f fn) 4 f.g false f.pd true :=
  ⟨_, _, fun _ => rfl, rfl, rfl, rfl, rfl, rfl⟩
theorem framed_q1Op (pd : Bool) (a d : Reg) (g : Guard) (fn : W → W) : Framed (q1Op pd a d g fn) 2 g false pd true :=
  ⟨_, _, fun _ => rfl, rfl, rfl, rfl, rfl, rfl⟩
theorem framed_iOp (len : Nat) (g : Guard) (a d : Reg) (fn : W → W) : Framed (iOp len g a d fn) len g false false true :=
  ⟨_, _, fun _ => rfl, rfl, rfl, rfl, rfl, rfl⟩
theorem framed_predOp (n : Need) (pd : PReg) (fn : Cx → Got Bool) : Framed (predOp n pd fn) n.len n.g n.sup n.noHi n.carried :=
  ⟨_, _, fun _ => rfl, rfl, rfl, rfl, rfl, rfl⟩
theorem framed_fOp (spec : FSpec) (three : Bool) (f : R3) (fn : Rnd → Nat → Nat → Nat → Nat) :
    Framed (fOp spec three f fn) 2 f.g false false true :=
  ⟨_, _, fun _ => rfl, rfl, rfl, rfl, rfl, rfl⟩
theorem framed_fPick (spec : FSpec) (f : R3) (fn : Nat → Nat → Nat) : Framed (fPick spec f fn) 2 f.g false false true :=
  ⟨_, _, fun _ => rfl, rfl, rfl, rfl, rfl, rfl⟩
theorem framed_copy (o : CopyOp) (f : CopyForm) : Framed (copy o f) 2 f.g false false false :=
  ⟨_, _, fun _ => rfl, rfl, rfl, rfl, rfl, rfl⟩
theorem framed_mapInstr (f : MapForm) (k : Option PReg) (p : MapPlan) : Framed (mapInstr f k p) 2 f.g false false true :=
  ⟨_, _, fun _ => rfl, rfl, rfl, rfl, rfl, rfl⟩
theorem framed_mapVector (a b d : Reg) (g : Guard) (k : Option PReg) (kind : MapKind) (combine : Bool) :
    Framed (mapVector a b d g k kind combine) 2 g false true false :=
  ⟨_, _, fun _ => rfl, rfl, rfl, rfl, rfl, rfl⟩

/-! ## Every instruction -/

/-- Every guarded instruction of the scalar stream runs in the scalar frame, as the tables of R22–R25 and R162 say. -/
theorem framed_of_scalarForm {i : Instr} {len : Nat} {g : Guard} (h : scalarForm i = some (len, g)) :
    Framed (exec i) len g (supervisorOnly i) (barredInHi i) (!barredCarried i) := by
  cases i
  all_goals cases h
  all_goals simp only [Framed, exec]
  case add f | sub f | min f | max f | minu f | maxu f | andn f | bfx f | and f | or f | xor f | shl f | shr f | sar f | rol f |
      mul f | mulh f | mulhu f | xyaddr f | div f | divu f | rem f | remu f =>
    exact framed_qOp f _
  case bfi f =>
    exact framed_q3Op f _
  case addLit f | subLit f | minLit f | maxLit f | minuLit f | maxuLit f | andnLit f | bfxLit f | andLit f | orLit f | xorLit f |
      shlLit f | shrLit f | sarLit f | rolLit f | mulLit f | mulhLit f | mulhuLit f | xyaddrLit f | divLit f | divuLit f |
      remLit f | remuLit f =>
    exact framed_qLit f _
  case bfiLit f =>
    exact framed_q3Lit f _
  case clz f | ctz f | popc f | ext f =>
    exact framed_q1Op ..
  case wfldLit f | addiLit f | andiLit f | oriLit f | xoriLit f | addi f | andi f | ori f | xori f | shli f | shri f | sari f |
      movi f | movhi f | moviLit f | movhiLit f =>
    exact framed_iOp ..
  case cmp f | cmpLit f | cmpi f | cmpiLit f | fcmp f =>
    exact framed_predOp ..
  case faddF32 f | fsubF32 f | fmulF32 f | fdivF32 f | faddF64 f | fsubF64 f | fmulF64 f | fdivF64 f | ffmaF32 f | ffmaF64 f |
      fsqrtF32 f | fsqrtF64 f =>
    exact framed_fOp ..
  case fminF32 f | fmaxF32 f | fminF64 f | fmaxF64 f =>
    exact framed_fPick ..
  case get f | put f | getx f | putx f | putxa f | putr f | mcast f =>
    exact framed_copy ..
  case mprobe f | minsert f | mremove f | mcas f | mrowget f | mrowput f | mscan f | mstat f | mrepl f =>
    exact framed_mapInstr f _ _
  case mprobev f | mupsertv f =>
    exact framed_mapVector ..
  case mupsert f => exact framed_mapInstr { k := 0, b := f.b, a := f.a, d := f.d, g := f.g } _ _
  case srd f | swr f => exact ⟨_, _, fun _ => rfl, rfl, rfl, rfl, (Bool.decide_or ..).symm, rfl⟩
  all_goals exact ⟨_, _, fun _ => rfl, rfl, rfl, rfl, rfl, rfl⟩

end Sys2Proof.Machine

/-! PROOFS. The frame of each instruction of the vector/matrix stream (R20, R22, R191, R213). -/

namespace Sys2Proof.Machine

/-- The operation `x` runs as instruction `i` in the frame of the vector/matrix stream: with its length, its guard per lane
(`lanes`) or as a whole, and, unless it is `checked` when it is passed, the X registers that it captures. -/
def Streamed (x : State → Out) (i : Instr) (len : Nat) (lanes : Bool) (g : Guard) (regs : List Reg) (checked : Bool) : Prop :=
  ∃ n body, (∀ s, x s = vector n body s) ∧
    n.instr = i ∧ n.len = len ∧ n.lanes = lanes ∧ n.g = g ∧ (checked = false → n.xs = regs ∧ n.check = none)

/-! ## The shapes that instructions share -/

theorem streamed_vArith (i : Instr) (f : VForm) (round : Bool) (op : Rnd → Nat → Nat → Nat → Nat) :
    Streamed (vArith i f round op) i 2 true f.g [] false :=
  ⟨_, _, fun _ => rfl, rfl, rfl, rfl, rfl, fun _ => ⟨rfl, rfl⟩⟩
theorem streamed_vUnary (i : Instr) (f : VUn) (round : Bool) (op : Rnd → Nat → Nat) :
    Streamed (vUnary i f round op) i 2 true f.g [] false :=
  ⟨_, _, fun _ => rfl, rfl, rfl, rfl, rfl, fun _ => ⟨rfl, rfl⟩⟩
theorem streamed_vBits (i : Instr) (f : VBin) (op : Nat → Nat → Nat → Nat) : Streamed (vBits i f op) i 2 true f.g [] false :=
  ⟨_, _, fun _ => rfl, rfl, rfl, rfl, rfl, fun _ => ⟨rfl, rfl⟩⟩
theorem streamed_vShift (i : Instr) (f : VShForm) (op : Nat → Nat → Nat → Nat) :
    Streamed (vShift i f op) i 2 true f.g [] false :=
  ⟨_, _, fun _ => rfl, rfl, rfl, rfl, rfl, fun _ => ⟨rfl, rfl⟩⟩
theorem streamed_vecMem (i : Instr) (len : Nat) (g : Guard) (xs : List Reg) (write : Bool) (d : Reg) (b : (Nat → Reg → W) → W)
    (st : (Nat → Reg → W) → Int) : Streamed (vecMem i len g xs write d b st) i len true g [] true :=
  ⟨_, _, fun _ => rfl, rfl, rfl, rfl, rfl, nofun⟩
theorem streamed_vecIndexed (i : Instr) (f : R3) (write : Bool) : Streamed (vecIndexed i f write) i 2 true f.g [] true :=
  ⟨_, _, fun _ => rfl, rfl, rfl, rfl, rfl, nofun⟩

/-! ## Every instruction -/

/-- Every instruction that is judged lane by lane runs in the stream's frame. -/
theorem streamed_of_laneGuard {i : Instr} {g : Guard} (h : laneGuard i = some g) :
    Streamed (exec i) i (streamLength i) true g (capturedRegs i) (checkedWhenPassed i) := by
  cases i
  all_goals cases h
  all_goals simp only [Streamed, exec]
  case vadd f | vsub f | vmul f | vdiv f | vmin f | vmax f | vfma f | vfms f | vfnma f => exact streamed_vArith _ f _ _
  case vabs f | vneg f | vsqrt f | vrcp f | vrsq f | vexp2 f | vlog2 f => exact streamed_vUnary _ f _ _
  case vand f | vor f | vxor f | vdot4I8 f | vdot4N8 f => exact streamed_vBits _ f _
  case vshl f | vshr f | vsar f => exact streamed_vShift _ f _
  case vld f | vldLit f | vst f | vstLit f | vlds f | vsts f => exact streamed_vecMem ..
  case vldx f | vstx f => exact streamed_vecIndexed _ f _
  all_goals exact ⟨_, _, fun _ => rfl, rfl, rfl, rfl, rfl, fun _ => ⟨rfl, rfl⟩⟩

/-- Every matrix and key-page instruction runs in the stream's frame. -/
theorem streamed_of_unitGuard {i : Instr} {g : Guard} (h : unitGuard i = some g) :
    Streamed (exec i) i (streamLength i) false g (capturedRegs i) (checkedWhenPassed i) := by
  cases i
  all_goals cases h
  all_goals simp only [Streamed, exec]
  case tst f => exact ⟨_, _, fun _ => rfl, rfl, rfl, rfl, rfl, nofun⟩
  case pgbound f | pgpick f | pgsum f | pgclr f =>
    exact ⟨_, _, fun _ => rfl, rfl, rfl, rfl, rfl, fun _ => ⟨congrArg (· :: _) (BitVec.add_zero f.a), rfl⟩⟩
  all_goals exact ⟨_, _, fun _ => rfl, rfl, rfl, rfl, rfl, fun _ => ⟨rfl, rfl⟩⟩

end Sys2Proof.Machine

/-! PROOFS. Guarded-off instructions, and the traps of restricted code (R22–R25, R162, R306, R324). -/

namespace Sys2Proof.Machine

/-! ## The traps of the frames -/


/-- An issued instruction that its frame stops with a trap takes it exactly. -/
theorem Issues.trapOut {s : State} {c : Nat} {t : Task} (hs : Issues s c t) (code : Nat) (v : W) :
    (s.cx c t).trapOut (s.cx c t).s code v =
      .next (takeTrap (s.issue c (s.core c).inHi) c (s.core c).inHi t code v (trapPc t t.pc) false false) :=
  Ret.finish_trap hs code v (Need.plain 0 .always [])

/-- Issuing leaves the instruction's first word as it is. -/
theorem Issues.instrWord_cx {s : State} {c : Nat} {t : Task} (hs : Issues s c t) :
    (s.cx c t).k.instrWord t = (s.core c).instrWord t := by
  rw [hs.cx_k, Core.instrWord_setTask]

/-- What the scalar frame stops with a trap, before it looks at the guard (R24, R25, R162). -/
theorem scalar_stops {s : State} {c : Nat} {t : Task} (hs : Issues s c t) (n : Need) (body : Cx → Ret) {code : Nat}
    (h : t.carried = true ∧ n.carried = false ∧ code = cILLEGAL ∨
      (t.carried = true → n.carried = true) ∧ (n.sup = true ∧ t.sup = false ∧ code = cPRIV ∨
        (n.sup = true → t.sup = true) ∧ n.noHi = true ∧ (s.core c).inHi = true ∧ code = cHIVEC)) :
    scalar n body s =
      .next (takeTrap (s.issue c (s.core c).inHi) c (s.core c).inHi t code ((s.core c).instrWord t) (trapPc t t.pc) false false) := by
  have hr : ((s.issue c (s.core c).inHi).core c).vu.recording = none := by
    rw [State.core_issue hs.task, Core.setTask_vu, hs.recording]
  rw [← hs.trapOut, ← hs.instrWord_cx]
  unfold scalar scalarWith
  simp only [hs.turn, hs.task, hr, Option.isSome_none, Bool.and_false, Bool.false_and, Bool.false_eq_true, if_false]
  obtain ⟨h1, h2, rfl⟩ | ⟨h1, ⟨h2, h3, rfl⟩ | ⟨h2, h3, h4, rfl⟩⟩ := h
  · rw [if_pos (by simp [h1, h2])]; rfl
  · rw [if_neg (by cases ht : t.carried <;> simp_all), if_pos (by simp [h2, h3])]; rfl
  · rw [if_neg (by cases ht : t.carried <;> simp_all), if_neg (by cases ht : n.sup <;> simp_all), if_pos (by simp [h3, h4])]; rfl

/-- Issuing leaves the running bank as it is. -/
theorem Issues.inHi_issue {s : State} {c : Nat} {t : Task} (hs : Issues s c t) :
    ((s.issue c (s.core c).inHi).core c).inHi = (s.core c).inHi := by
  rw [State.core_issue hs.task, hs.inHi_setTask]

/-- The stream's frame stops carried code, and HI tasks (R25, R162). -/
theorem vector_stops {s : State} {c : Nat} {t : Task} {lag : Bool} (hs : Issues s c t) (hl : s.turn = .core c lag) (n : VNeed)
    (body : Vx → VRet) {code : Nat}
    (h : t.carried = true ∧ code = cILLEGAL ∨ t.carried = false ∧ (s.core c).inHi = true ∧ code = cHIVEC) :
    vector n body s =
      .next (takeTrap (s.issue c (s.core c).inHi) c (s.core c).inHi t code ((s.core c).instrWord t) (trapPc t t.pc) false false) := by
  rw [← hs.trapOut, ← hs.instrWord_cx]
  unfold vector
  simp only [hl, hs.turn, hs.task, hs.inHi_issue]
  obtain ⟨h1, rfl⟩ | ⟨h1, h2, rfl⟩ := h
  · rw [if_pos h1]; rfl
  · rw [if_neg (by simp [h1]), if_pos h2]; rfl

/-- REPE stops carried code, and HI tasks (R25, R162). -/
theorem execRepe_stops {s : State} {c : Nat} {t : Task} (hs : Issues s c t) {code : Nat}
    (h : t.carried = true ∧ code = cILLEGAL ∨ t.carried = false ∧ (s.core c).inHi = true ∧ code = cHIVEC) :
    execRepe s =
      .next (takeTrap (s.issue c (s.core c).inHi) c (s.core c).inHi t code ((s.core c).instrWord t) (trapPc t t.pc) false false) := by
  rw [← hs.trapOut, ← hs.instrWord_cx]
  unfold execRepe
  simp only [hs.turn, hs.task, hs.inHi_issue]
  obtain ⟨h1, rfl⟩ | ⟨h1, h2, rfl⟩ := h
  · rw [if_pos h1]; rfl
  · rw [if_neg (by simp [h1]), if_pos h2]; rfl

/-! ## The obligation -/

/-- Every instruction of the vector/matrix stream runs in the stream's frame. -/
theorem streamed_of_guard {i : Instr} (h : ((laneGuard i).isSome || (unitGuard i).isSome) = true) :
    ∃ n body, ∀ s, exec i s = vector n body s := by
  rw [Bool.or_eq_true, Option.isSome_iff_exists, Option.isSome_iff_exists] at h
  obtain ⟨g, hg⟩ | ⟨g, hg⟩ := h
  · obtain ⟨n, body, hx, _⟩ := streamed_of_laneGuard hg
    exact ⟨n, body, hx⟩
  · obtain ⟨n, body, hx, _⟩ := streamed_of_unitGuard hg
    exact ⟨n, body, hx⟩

/-- A guarded-off instruction goes past itself (R22, R23). -/
theorem guardedOff : GuardedOff := by
  intro i len g s c t hi hs hg hsup hhi hc
  obtain ⟨n, body, hx, rfl, rfl, h1, h2, h3⟩ := framed_of_scalarForm hi
  rw [hx, scalar_eq hs n body (fun h => by rw [h3]; cases hb : barredCarried i <;> simp_all) (by rwa [h1]) (by rwa [h2]),
    if_neg (by simp [hg])]
  exact Ret.finish_off { n with xd := [], pd := [] } hs

/-- Restricted code traps before the guard is looked at (R24, R25, R162, R306, R324). -/
theorem restrictedCodeTraps : RestrictedCodeTraps := by
  refine ⟨fun i len g s c t hi hs => ?_, fun s c t hs => ⟨fun h => ?_, fun h h' => ?_⟩,
    fun i s c t hi hs ⟨lag, hl⟩ => ?_⟩
  · obtain ⟨n, body, hx, -, -, h1, h2, h3⟩ := framed_of_scalarForm hi
    have hc (h : barredCarried i = true → t.carried = false) : t.carried = true → n.carried = true := fun ht => by
      rw [h3]; cases hb : barredCarried i <;> simp_all
    refine ⟨fun ht hb => ?_, fun hb hu ht => ?_, fun hb hu hv hh => ?_⟩
    · exact (hx s).trans (scalar_stops hs n body (.inl ⟨ht, by simp [h3, hb], rfl⟩))
    · exact (hx s).trans (scalar_stops hs n body (.inr ⟨hc hb, .inl ⟨h1.trans hu, ht, rfl⟩⟩))
    · exact (hx s).trans (scalar_stops hs n body (.inr ⟨hc hb, .inr ⟨by rwa [h1], h2.trans hv, hh, rfl⟩⟩))
  · exact execRepe_stops hs (.inl ⟨h, rfl⟩)
  · exact execRepe_stops hs (.inr ⟨h, h', rfl⟩)
  · obtain ⟨n, body, hx⟩ := streamed_of_guard hi
    exact ⟨fun h => (hx s).trans (vector_stops hs hl n body (.inl ⟨h, rfl⟩)),
      fun h h' => (hx s).trans (vector_stops hs hl n body (.inr ⟨h, h', rfl⟩))⟩

/-- Settles O7: every instruction runs in one of the two frames, which stop restricted code first and then look at the guard. -/
theorem guardsAndPrivilege : Obligations.GuardsAndPrivilege := ⟨guardedOff, restrictedCodeTraps⟩

end Sys2Proof.Machine

/-! PROOFS. Passing instructions to the vector/matrix stream, and skipping them there (R22, R23, R191, R192). -/

namespace Sys2Proof.Machine

/-! ## The stream's own turn -/

/-- A predicate of the stream is the item's (R192). -/
theorem vxAt_pred (s : State) (c : Nat) (e : VEntry) (it : VItem) (p : PReg) :
    (vxAt s c e it).pred p = (s.core c).itemPred it p := rfl

/-- What the stream does of an instruction whose own part ended so. -/
def VRet.settle (r : VRet) (s : State) (c : Nat) (it : VItem) : State :=
  match r with
  | .done s' => s'.streamDone c (s'.core c)
  | .wait s' => s'
  | .trap code v => (s.onCore c fun k => { k.freeItem it with vu := k.vu.faulted ⟨code, v⟩ }).forgetWalks c whoVec

/-- The stream at an instruction that it may work on: it skips one that is guarded off, and does the part of another (R23). -/
theorem vector_atItem {s : State} {c : Nat} {e : VEntry} {it : VItem} {i : Instr} (h : AtItem s c e it i) (n : VNeed)
    (body : Vx → VRet) :
    vector n body s = .next (if (vxAt s c e it).off n.lanes n.g then s.streamDone c (s.core c)
      else (body (vxAt s c e it)).settle s c it) := by
  obtain ⟨r, hq⟩ := List.head?_eq_some_iff.mp h.head
  unfold vector vecRun
  simp only [h.turn, h.running, h.free, h.command, hq, h.item, h.sound, Bool.false_or, Bool.false_and, Bool.false_eq_true, if_false]
  split
  · rfl
  · cases body (vxAt s c e it) <;> rfl

/-- Whether a lane of the item is active. -/
theorem vxAt_off_lanes (s : State) (c : Nat) (e : VEntry) (it : VItem) (g : Guard) :
    (vxAt s c e it).off true g =
      !(List.range 64).any fun j => decide (j < (s.core c).vu.vl) && ((s.core c).itemPred it g.p).getLsbD j != g.sense := rfl

/-- Where no later instruction has replaced a predicate, the stream sees the LO task's (R192). -/
theorem itemPred_of_shares {k : Core} {it : VItem} (h : it.pvs = []) (p : PReg) :
    k.itemPred it p = k.vpred p := by
  rw [Core.itemPred, h]
  rfl

/-- The stream's active lanes are the core's. -/
theorem vxAt_active {s : State} {c : Nat} {e : VEntry} {it : VItem} (h : it.pvs = []) (g : Guard) :
    (vxAt s c e it).active g = (s.core c).laneOn g := by
  funext j
  rw [Vx.active, Vx.passes, vxAt_pred, itemPred_of_shares h]
  rfl

theorem vxAt_off_of_anyLane {s : State} {c : Nat} {e : VEntry} {it : VItem} (h : it.pvs = []) (g : Guard) :
    (vxAt s c e it).off true g = !(s.core c).anyLane g := by
  simp only [Vx.off, if_true, Core.anyLane, vxAt_active h]

theorem vxAt_off_of_unitOn {s : State} {c : Nat} {e : VEntry} {it : VItem} (h : it.pvs = []) (g : Guard) :
    (vxAt s c e it).off false g = !(s.core c).unitOn g := by
  simp only [Vx.off, Bool.false_eq_true, if_false, Vx.passes, vxAt_pred, itemPred_of_shares h]
  rfl

/-! ## Passing (R191) -/

/-- A LO task `t` of core `c` may issue an instruction of the stream, nothing of which waits or is being recorded. -/
structure Passing (s : State) (c : Nat) (t : Task) (lag : Bool) : Prop where
  turn : s.turn = .core c lag
  hi : (s.core c).hi = none
  lo : (s.core c).lo = some t
  carried : t.carried = false
  late : t.late = []
  recording : (s.core c).vu.recording = none
  viq : (s.core c).vu.viq = []

namespace Passing

variable {s : State} {c : Nat} {t : Task} {lag : Bool} (h : Passing s c t lag)
include h

theorem inHi : (s.core c).inHi = false := by simp [Core.inHi, h.hi]

theorem task : (s.core c).task? = some t := by simp [Core.task?, h.hi, h.lo]

theorem cx_k : (s.cx c t).k = (s.core c).setTask false { t with stalled := true } := by
  rw [← h.inHi]; exact State.core_issue h.task

theorem cx_viq : (s.cx c t).k.vu.viq = [] := by rw [h.cx_k, Core.setTask_vu, h.viq]

/-- The frame of an instruction of the stream passes it. -/
theorem vector_eq (n : VNeed) (body : Vx → VRet) :
    vector n body s = .next ((s.cx c t).pass n fun s => vecRun s c n.lanes n.g body) := by
  have hr : (s.cx c t).k.vu.recording = none := by rw [h.cx_k, Core.setTask_vu, h.recording]
  have hh : (s.cx c t).k.inHi = false := by rw [State.cx, State.core_issue h.task, Core.inHi_setTask_self _ h.task, h.inHi]
  have ha : s.actor = c := by rw [State.actor, h.turn]
  simp only [State.cx, h.inHi] at hr hh
  unfold vector
  simp only [h.turn, ha, h.task, h.carried, State.cx, h.inHi, hr, hh, Bool.false_eq_true, if_false]

/-- Nothing waits for a queued instruction. -/
theorem busy (n : Need) : (s.cx c t).busy n = false := by
  rw [Cx.busy, h.cx_viq, List.any_nil, Bool.and_false]

/-- The operands can be captured. -/
theorem operandsWait (n : VNeed) : (s.cx c t).operandsWait n = false := by
  rw [Cx.operandsWait, h.busy, Cx.waitsLate, State.cx_t, h.late]
  rfl

/-- Passing an instruction moves the task past it, and changes the unit. -/
theorem passed_eq (len : Nat) (f : VecUnit → VecUnit) :
    (s.cx c t).passed len f = s.setCore c ((s.core c).wentPast t len (f (s.core c).vu)) := by
  have hs : (s.cx c t).s = s.setCore c ((s.core c).setTask false { t with stalled := true }) := by
    rw [← h.inHi]; exact State.issue_eq h.task
  rw [Cx.passed, hs, State.cx_c, State.onCore_setCore]
  rfl

/-- An instruction is known to be guarded off when no lane, or not its bit, passes (R23). -/
theorem knownOff_lanes {n : VNeed} (hl : n.lanes = true) : (s.cx c t).knownOff n = !(s.core c).anyLane n.g := by
  have hf (j : Nat) : (((s.cx c t).p n.g.p).getLsbD j != n.g.sense && (decide (j < (s.cx c t).k.vu.vl) || false)) =
      (s.core c).laneOn n.g j := by
    rw [h.cx_k, Core.setTask_vu, State.cx_p, Core.laneOn, h.lo, Bool.or_false, Bool.and_comm]
  simp only [Cx.knownOff, h.busy, hl, hf, if_true, Bool.not_false, Bool.true_and, Core.anyLane]

theorem knownOff_unit {n : VNeed} (hl : n.lanes = false) : (s.cx c t).knownOff n = !(s.core c).unitOn n.g := by
  simp only [Cx.knownOff, h.busy, hl, Bool.false_eq_true, if_false, Bool.not_false, Bool.true_and, Core.unitOn, h.lo, State.cx_p]

/-- One that is known to be guarded off is passed at once. -/
theorem pass_off {n : VNeed} (run : State → State) (ho : (s.cx c t).knownOff n = true) :
    (s.cx c t).pass n run = s.setCore c ((s.core c).wentPast t n.len (s.core c).vu) := by
  rw [Cx.pass, ho, if_pos rfl, h.passed_eq]
  rfl

/-- Another one waits in the queue with its operands captured, when the stream acts later. -/
theorem pass_on {n : VNeed} (run : State → State) (ho : (s.cx c t).knownOff n = false) (hn : n.check = none) (hl : lag = true) :
    (s.cx c t).pass n run = s.setCore c ((s.core c).wentPast t n.len
      { (s.core c).vu with viq := [passedEntry (s.core c) t n.instr n.xs] }) := by
  have hq : ¬ Config.viqSize ≤ (s.cx c t).k.vu.queued := by rw [VecUnit.queued, h.cx_viq]; decide
  have hg : (s.cx c t).lags = true := by
    have ht : (s.cx c t).s.turn = .core c lag := h.turn
    simp only [Cx.lags, ht, hl]
  simp only [Cx.pass, ho, h.operandsWait, hn, hq, hg, Bool.false_eq_true, if_false, Bool.true_or, if_true]
  refine (h.passed_eq n.len _).trans ?_
  rw [h.viq, List.nil_append, Cx.item, h.cx_k, Core.instrWord_setTask]
  rfl

end Passing

/-- No instruction is judged both lane by lane and as a whole. -/
theorem unitGuard_of_laneGuard {i : Instr} {g : Guard} (h : laneGuard i = some g) : unitGuard i = none := by
  cases i
  all_goals cases h
  all_goals rfl

/-- The instructions with a literal are checked when they are passed (R20, R213). -/
theorem streamLength_of_unchecked {i : Instr} (h : checkedWhenPassed i = false) : streamLength i = 2 := by
  unfold streamLength
  split
  · cases h
  · cases h
  · rfl

/-- Passing, for an instruction of either kind. -/
theorem Passing.exec_eq {s : State} {c : Nat} {t : Task} {lag : Bool} (h : Passing s c t lag) {i : Instr} {lanes : Bool} {g : Guard}
    (hi : Streamed (exec i) i (streamLength i) lanes g (capturedRegs i) (checkedWhenPassed i))
    (on : Bool) (hon : on = if lanes then (s.core c).anyLane g else (s.core c).unitOn g) :
    (on = false → exec i s = .next (s.setCore c ((s.core c).wentPast t (streamLength i) (s.core c).vu))) ∧
    (on = true → checkedWhenPassed i = false → s.turn = .core c true →
      exec i s = .next (s.setCore c ((s.core c).wentPast t 2
        { (s.core c).vu with viq := [passedEntry (s.core c) t i (capturedRegs i)] }))) := by
  obtain ⟨n, body, hx, h1, h2, h3, h4, h5⟩ := hi
  have ho : (s.cx c t).knownOff n = !on := by
    rw [hon, ← h3, ← h4]
    cases hl : n.lanes
    · exact h.knownOff_unit hl
    · exact h.knownOff_lanes hl
  refine ⟨fun hf => ?_, fun hf hc hl => ?_⟩
  · rw [hx, h.vector_eq, h.pass_off _ (by rw [ho, hf]; rfl), h2]
  · obtain ⟨hxs, hck⟩ := h5 hc
    have hlag : lag = true := by simpa [h.turn] using hl
    rw [hx, h.vector_eq, h.pass_on _ (by rw [ho, hf]; rfl) hck hlag, h1, h2, hxs, streamLength_of_unchecked hc]

/-- Settles O23: the frame of the stream passes an instruction, or skips it. -/
theorem passingAndSkipping : Obligations.PassingAndSkipping := by
  refine ⟨fun i s c t hi ⟨lag, h1⟩ h2 h3 h4 h5 h6 h7 => ?_, fun i g s c e it hg h hoff => ?_, fun i g s c e it hg h hoff => ?_,
    fun i g s c e it hg h hoff => ?_, fun u e r hq => ?_⟩
  · have hp : Passing s c t lag := ⟨h1, h2, h3, h4, h5, h6, h7⟩
    obtain hi | hi := hi
    · obtain ⟨g, hg⟩ := Option.isSome_iff_exists.mp hi
      exact hp.exec_eq (streamed_of_laneGuard hg) _ (by rw [hg, unitGuard_of_laneGuard hg]; simp)
    · obtain ⟨g, hg⟩ := Option.isSome_iff_exists.mp hi
      have hl : laneGuard i = none := by
        cases hl : laneGuard i with
        | none => rfl
        | some g' => rw [unitGuard_of_laneGuard hl] at hg; cases hg
      exact hp.exec_eq (streamed_of_unitGuard hg) _ (by rw [hg, hl]; simp)
  · obtain ⟨n, body, hx, -, -, h3, h4, -⟩ := streamed_of_laneGuard hg
    rw [hx, vector_atItem h, h3, h4, vxAt_off_lanes, hoff]
    rfl
  · obtain ⟨n, body, hx, -, -, h3, h4, -⟩ := streamed_of_laneGuard hg
    rw [hx, vector_atItem h.toAtItem, h3, h4, vxAt_off_of_anyLane h.shares.2, hoff]
    rfl
  · obtain ⟨n, body, hx, -, -, h3, h4, -⟩ := streamed_of_unitGuard hg
    rw [hx, vector_atItem h.toAtItem, h3, h4, vxAt_off_of_unitOn h.shares.2, hoff]
    rfl
  · simp only [VecUnit.advance, hq, Bool.and_eq_true, decide_eq_true_eq]
    split
    · rfl
    · split <;> rfl

end Sys2Proof.Machine

/-! PROOFS. Lane arithmetic of the vector unit (R22, R194, R195, R198–R203, R206). -/

namespace Sys2Proof.Machine

/-! ## Lanes of a V register -/

/-- Lanes fit below one another. -/
theorem ofLanes_lt (w : Nat) (l : List Nat) : ofLanes w l < 2 ^ (w * l.length) := by
  induction l with
  | nil => simp [ofLanes]
  | cons a r ih =>
    have ha : a % 2 ^ w < 2 ^ w := Nat.mod_lt _ (by positivity)
    rw [List.length_cons, Nat.mul_succ, Nat.add_comm, Nat.pow_add, ofLanes]
    calc a % 2 ^ w + 2 ^ w * ofLanes w r < 2 ^ w + 2 ^ w * ofLanes w r := by omega
      _ = 2 ^ w * (ofLanes w r + 1) := by ring
      _ ≤ 2 ^ w * 2 ^ (w * r.length) := Nat.mul_le_mul_left _ ih

/-- A lane of given lanes. -/
theorem lane_ofLanes (w : Nat) (l : List Nat) {i : Nat} (h : i < l.length) : lane w (ofLanes w l) i = l[i] % 2 ^ w := by
  induction l generalizing i with
  | nil => simp at h
  | cons a r ih =>
    cases i with
    | zero => simp [lane, ofLanes]
    | succ j =>
      have ha : a % 2 ^ w < 2 ^ w := Nat.mod_lt _ (by positivity)
      rw [List.getElem_cons_succ, ← ih (by simpa using h), lane, lane, ofLanes, Nat.mul_succ, Nat.add_comm (w * j), Nat.pow_add,
        ← Nat.div_div_eq_div_mul, Nat.add_mul_div_left _ _ (by positivity), Nat.div_eq_of_lt ha, Nat.zero_add]

/-- A number that fits a width, as a bit vector of that width. -/
theorem toNat_ofNat_of_lt {w n : Nat} (h : n < 2 ^ w) : (BitVec.ofNat w n).toNat = n := by
  rw [BitVec.toNat_ofNat, Nat.mod_eq_of_lt h]

/-- A V register reads back the 64 lanes that were written. -/
theorem lane_reg_setReg (u : VecUnit) (r : Nat) (l : List Nat) {i : Nat} (hl : l.length = 64) (h : i < l.length) :
    lane 32 ((u.setReg r (ofLanes 32 l)).reg r) i = l[i] % 2 ^ 32 := by
  have hlt := ofLanes_lt 32 l
  rw [hl] at hlt
  have hv : (u.setReg r (ofLanes 32 l)).reg r = ofLanes 32 l :=
    (congrArg BitVec.toNat (Tbl.getD_put_self 0 u.v r _)).trans (toNat_ofNat_of_lt (w := 32 * 64) hlt)
  rw [hv, lane_ofLanes 32 l h]

/-- The active lanes take their values, and the others stay (R22). -/
theorem Core.lane_lanesPut (k k0 : Core) (g : Guard) (d : Reg) (f : Nat → Nat) {i : Nat} (h : i < 64) :
    (k.lanesPut k0 g d f).lane d i = if k0.laneOn g i then f i % 2 ^ 32 else k.lane d i := by
  rw [Core.lane, Core.lanesPut, lane_reg_setReg _ _ _ (by simp) (by simpa using h), List.getElem_map, List.getElem_range]
  split
  · rfl
  · exact Nat.mod_mod _ _

/-! ## Integers in lanes -/

/-- A signed value has the residue of its bits. -/
theorem signed_emod (n x : Nat) : signed n x % (2 ^ n : Nat) = ((x % 2 ^ n : Nat) : Int) := by
  unfold signed
  split
  · rw [Int.sub_emod_right, ← Int.natCast_mod, Nat.mod_mod]
  · rw [← Int.natCast_mod, Nat.mod_mod]

/-- So has the value of an integer lane. -/
theorem tyInt_emod (t : Ty) (x : Nat) : tyInt t x % (2 ^ tyBits t : Nat) = ((x % 2 ^ tyBits t : Nat) : Int) := by
  unfold tyInt
  split
  · rw [signed_emod, Nat.mod_mod]
  · rw [← Int.natCast_mod, Nat.mod_mod]

/-- Integer lanes add modulo their width (R198). -/
theorem tyAdd_int {t : Ty} (h : tySpec t = none) (rd : Rnd) (a b : Nat) : tyAdd t rd a b = (a + b) % 2 ^ tyBits t := by
  rw [tyAdd, tyOp, h]
  show wrap _ (tyInt t a + tyInt t b) = _
  rw [wrap, Int.add_emod, tyInt_emod, tyInt_emod, ← Int.natCast_add, ← Int.natCast_mod, Int.toNat_natCast, ← Nat.add_mod]

/-- F32 lanes add as F32 values. -/
theorem tyAdd_f32 (rd : Rnd) {a b : Nat} (ha : a < 2 ^ 32) (hb : b < 2 ^ 32) : tyAdd .f32 rd a b = sF32.add rd a b := by
  show sF32.add rd (a % 2 ^ 32) (b % 2 ^ 32) = _
  rw [Nat.mod_eq_of_lt ha, Nat.mod_eq_of_lt hb]

/-- The negation of an integer lane (R201). -/
theorem wrap_neg_tyInt (t : Ty) {x : Nat} (h : x < 2 ^ tyBits t) :
    wrap (tyBits t) (-tyInt t x) = (2 ^ tyBits t - x) % 2 ^ tyBits t := by
  have hx : tyInt t x ≡ x [ZMOD (2 ^ tyBits t : Nat)] := (tyInt_emod t x).trans (Int.natCast_mod ..)
  have hm : (-tyInt t x) % (2 ^ tyBits t : Nat) = ((2 ^ tyBits t - x : Nat) : Int) % (2 ^ tyBits t : Nat) := by
    rw [Int.ofNat_sub h.le, sub_eq_add_neg, Int.add_emod_left]
    exact hx.neg
  rw [wrap, hm, ← Int.natCast_mod, Int.toNat_natCast]

/-! ## Executing on a source -/

/-- An instruction whose own part turns the core into `f` executes so. -/
theorem executes_of_body {i : Instr} {g : Guard} {pre : State → Nat → VEntry → VItem → Prop}
    {f : State → Nat → VEntry → VItem → Core}
    {n : VNeed} {body : Vx → VRet} (x : State → Out) (he : exec i = x := by rfl)
    (hx : ∀ s, x s = vector n body s := by exact fun _ => rfl) (hn : n.lanes = true ∧ n.g = g := by exact ⟨rfl, rfl⟩)
    (hb : ∀ s c e it, it.xdead = [] → it.pvs = [] → pre s c e it → body (vxAt s c e it) = .done (s.setCore c (f s c e it))) :
    Executes i (·.anyLane g) pre f := by
  obtain ⟨hl, rfl⟩ := hn
  intro s c e it h on hp
  have on : (s.core c).anyLane n.g = true := on
  rw [he, hx, vector_atItem h.toAtItem, hl, vxAt_off_of_anyLane h.shares.2, on, hb s c e it h.shares.1 h.shares.2 hp]
  simp only [Bool.not_true, Bool.false_eq_true, if_false, VRet.settle, State.streamDone, State.core_setCore_self,
    State.setCore_setCore]

/-- A source that is there. -/
theorem vxAt_source {s : State} {c : Nat} {e : VEntry} {it : VItem} {p : Bool} {r : Reg} {v : Nat} {k : Core}
    (h : sourceV s c p r = .ok v k) (f : Nat → Core → VRet) : (vxAt s c e it).source p r f = f v k := by
  cases p
  · cases h
    rfl
  · have h : vectorPop (vxAt s c e it).s (vxAt s c e it).c (vxAt s c e it).k r.toNat = .ok v k := h
    simp only [Vx.source, if_true, h]

/-- What an instruction writes to the active lanes (R22, R173). -/
theorem vxAt_put {s : State} {c : Nat} {e : VEntry} {it : VItem} (h : it.pvs = []) (k : Core) (g : Guard) (d : Reg) (round : Bool)
    (f : Nat → Nat) : (vxAt s c e it).put k g d round f = .done (s.setCore c ((k.lanesPut (s.core c) g d f).rounded round)) := by
  simp only [Vx.put, vxAt_active h, Core.rounded, Core.lanesPut]
  rfl

/-- An instruction that does not round leaves SR.RNG.STATE. -/
theorem Core.rounded_false (k : Core) : k.rounded false = k := rfl

/-- The same without rounding. -/
theorem vxAt_put_exact {s : State} {c : Nat} {e : VEntry} {it : VItem} (h : it.pvs = []) (k : Core) (g : Guard) (d : Reg)
    (f : Nat → Nat) : (vxAt s c e it).put k g d false f = .done (s.setCore c (k.lanesPut (s.core c) g d f)) := by
  rw [vxAt_put h, Core.rounded_false]

/-- Two operands of a type. -/
theorem executes_vArith {i : Instr} {f : VForm} {round : Bool} {op : Rnd → Nat → Nat → Nat → Nat} (x : State → Out)
    (b : Nat) (k : Core) (he : exec i = x := by rfl) (hx : ∀ s, x s = vArith i f round op s := by exact fun _ => rfl) :
    Executes i (·.anyLane f.g) (fun s c _ _ => sourceV s c f.p f.b = .ok b k)
      (fun s c _ _ => (k.lanesPut (s.core c) f.g f.d fun i =>
        op (k.bankLo.rnd i) (k.lane f.a i) (lane 32 b i) (k.lane f.d i)).rounded round) :=
  executes_of_body x he hx (hb := fun s c e it _ hp hs => by rw [vxAt_source hs, vxAt_put hp]; rfl)

/-- Two operands, on whole lanes. -/
theorem executes_vBits {i : Instr} {f : VBin} {op : Nat → Nat → Nat → Nat} (x : State → Out)
    (b : Nat) (k : Core) (he : exec i = x := by rfl) (hx : ∀ s, x s = vBits i f op s := by exact fun _ => rfl) :
    Executes i (·.anyLane f.g) (fun s c _ _ => sourceV s c f.p f.b = .ok b k)
      (fun s c _ _ => k.lanesPut (s.core c) f.g f.d fun i => op (k.lane f.a i) (lane 32 b i) (k.lane f.d i)) :=
  executes_of_body x he hx (hb := fun s c e it _ hp hs => by rw [vxAt_source hs, vxAt_put_exact hp]; rfl)

/-- A shift of lanes. -/
theorem executes_vShift {i : Instr} {f : VShForm} {op : Nat → Nat → Nat → Nat} (x : State → Out)
    (b : Nat) (k : Core) (he : exec i = x := by rfl) (hx : ∀ s, x s = vShift i f op s := by exact fun _ => rfl) :
    Executes i (·.anyLane f.g) (fun s c _ _ => sourceV s c f.p f.b = .ok b k)
      (fun s c _ _ => k.lanesPut (s.core c) f.g f.d fun i =>
        op (if f.half then 16 else 32) (k.lane f.a i % 2 ^ (if f.half then 16 else 32))
          (lane 32 b i % 2 ^ (if f.half then 16 else 32))) :=
  executes_of_body x he hx (hb := fun s c e it _ hp hs => by rw [vxAt_source hs, vxAt_put_exact hp]; rfl)

/-- One operand of a type. -/
theorem executes_vUnary {i : Instr} {f : VUn} {round : Bool} {op : Rnd → Nat → Nat} (x : State → Out)
    (v : Nat) (k : Core) (he : exec i = x := by rfl) (hx : ∀ s, x s = vUnary i f round op s := by exact fun _ => rfl) :
    Executes i (·.anyLane f.g) (fun s c _ _ => sourceV s c f.p f.a = .ok v k)
      (fun s c _ _ => (k.lanesPut (s.core c) f.g f.d fun i =>
        op (k.bankLo.rnd i) (lane 32 v i % 2 ^ tyBits f.ty)).rounded round) :=
  executes_of_body x he hx (hb := fun s c e it _ hp hs => by rw [vxAt_source hs, vxAt_put hp])

/-! ## Values -/

/-- VMOV's queue registers are Q4 to Q7 (R194). -/
theorem queueReg_toNat (q : BitVec 2) : (BitVec.ofNat 5 (4 + q.toNat)).toNat = 4 + q.toNat :=
  toNat_ofNat_of_lt (by omega)

/-- The low word of a register, as a number. -/
theorem bits_31_0 (x : W) : x.bits 31 0 = x.toNat % 2 ^ 32 := by
  rw [W.bits, bitsOf, Nat.pow_zero, Nat.div_one]

/-- The sums of VDOT4, product by product (R203). -/
theorem dot4_eq (val : Nat → Int) (a b d : Nat) :
    dot4 val a b d = wrap 32 ((d : Int) + val (lane 8 a 0) * val (lane 8 b 0) + val (lane 8 a 1) * val (lane 8 b 1)
      + val (lane 8 a 2) * val (lane 8 b 2) + val (lane 8 a 3) * val (lane 8 b 3)) := rfl

/-- VDOT4.N8 in natural numbers. -/
theorem dot4_nat (a b d : Nat) : dot4 (fun x => (x : Int)) a b d =
    (d + lane 8 a 0 * lane 8 b 0 + lane 8 a 1 * lane 8 b 1 + lane 8 a 2 * lane 8 b 2 + lane 8 a 3 * lane 8 b 3) % 2 ^ 32 := by
  rw [dot4_eq, wrap]
  exact_mod_cast Int.toNat_natCast _

/-! ## The obligation -/

/-- Operations of two operands, lane by lane. -/
theorem laneResults : LaneResults := by
  refine ⟨?_, ?_, fun f b k => ?_, fun f b k => ⟨?_, ?_, ?_⟩, fun rd t a b h => ?_, fun rd a b ha hb => tyAdd_f32 rd ha hb,
    fun a => rfl, fun k k0 g d f i h => Core.lane_lanesPut k k0 g d f h⟩
  · simp only [laneSums, laneFused, List.cons_append, List.nil_append, List.forall_mem_cons, List.not_mem_nil, false_imp_iff,
      implies_true, and_true]
    refine ⟨fun f b k => ?_, fun f b k => ?_, fun f b k => ?_, fun f b k => ?_, fun f b k => ?_, fun f b k => ?_, fun f b k => ?_,
      fun f b k => ?_, fun f b k => ?_⟩
    · exact (executes_vArith (i := .vadd f) (execVadd f) b k :)
    · exact (executes_vArith (i := .vsub f) (execVsub f) b k :)
    · exact (executes_vArith (i := .vmul f) (execVmul f) b k :)
    · exact (executes_vArith (i := .vdiv f) (execVdiv f) b k :)
    · exact (executes_vArith (i := .vmin f) (execVmin f) b k :)
    · exact (executes_vArith (i := .vmax f) (execVmax f) b k :)
    · exact (executes_vArith (i := .vfma f) (execVfma f) b k :)
    · exact (executes_vArith (i := .vfms f) (execVfms f) b k :)
    · exact (executes_vArith (i := .vfnma f) (execVfnma f) b k :)
  · simp only [laneBits, List.forall_mem_cons, List.not_mem_nil, false_imp_iff, implies_true, and_true]
    refine ⟨fun f b k => ?_, fun f b k => ?_, fun f b k => ?_, fun f b k => ?_, fun f b k => ?_⟩
    · exact (executes_vBits (i := .vand f) (execVand f) b k :)
    · exact (executes_vBits (i := .vor f) (execVor f) b k :)
    · exact (executes_vBits (i := .vxor f) (execVxor f) b k :)
    · exact (executes_vBits (i := .vdot4I8 f) (execVdot4I8 f) b k :)
    · simp only [← dot4_nat]
      exact (executes_vBits (i := .vdot4N8 f) (execVdot4N8 f) b k :)
  · exact executes_of_body (execVperm f) (hb := fun s c e it _ hp hs => by rw [vxAt_source hs, vxAt_put_exact hp]; rfl)
  · exact (executes_vShift (i := .vshl f) (execVshl f) b k :)
  · exact (executes_vShift (i := .vshr f) (execVshr f) b k :)
  · exact (executes_vShift (i := .vsar f) (execVsar f) b k :)
  · exact tyAdd_int (by obtain rfl | rfl | rfl | rfl := h <;> rfl) rd a b

/-- Instructions of one source or none. -/
theorem unaryLanes : UnaryLanes := by
  refine ⟨fun f v k => ?_, fun f v k => ⟨?_, ?_, ?_, ?_, ?_, ?_, ?_⟩, fun f v k => ⟨fun hp => ?_, fun hp => ?_⟩, fun f => ?_,
    fun f => ?_, fun f => ?_⟩
  · exact executes_of_body (execVmov f) (hb := fun s c e it _ hp hs => by rw [vxAt_source hs, vxAt_put_exact hp])
  · simpa only [Core.rounded_false] using (executes_vUnary (i := .vabs f) (execVabs f) v k :)
  · have hx (i : Nat) : lane 32 v i % 2 ^ tyBits f.ty < 2 ^ tyBits f.ty := Nat.mod_lt _ (by positivity)
    simpa only [Core.rounded_false, wrap_neg_tyInt f.ty (hx _)] using
      (executes_vUnary (i := .vneg f) (execVneg f) v k :)
  · exact (executes_vUnary (i := .vsqrt f) (execVsqrt f) v k :)
  · exact (executes_vUnary (i := .vrcp f) (execVrcp f) v k :)
  · exact (executes_vUnary (i := .vrsq f) (execVrsq f) v k :)
  · exact (executes_vUnary (i := .vexp2 f) (execVexp2 f) v k :)
  · exact (executes_vUnary (i := .vlog2 f) (execVlog2 f) v k :)
  · exact executes_of_body (execVbcast f) (hb := fun s c e it _ hs h => by rw [if_pos hp, vxAt_source h, vxAt_put_exact hs])
  · exact executes_of_body (execVbcast f) (hb := fun s c e it _ hs _ => by
      rw [if_neg (by simp [hp]), vxAt_put_exact hs, bits_31_0]
      rfl)
  · exact executes_of_body (execViota f) (hb := fun s c e it _ hs _ => vxAt_put_exact hs _ _ _ _)
  · exact executes_of_body (execVlen f) (hb := fun s c e it hx _ _ => by
      simp only [vxAt, Vx.setX, hx]
      rfl)
  · exact executes_of_body (execVmovQ f) (hb := fun s c e it _ hs hq => by
      refine (if_neg (Nat.not_le.mpr hq)).trans ?_
      rw [vxAt_active hs, Core.pushed, queueReg_toNat]
      rfl)

/-- Settles O25: each instruction runs its own part on its source, and writes the active lanes. -/
theorem laneArithmetic : Obligations.LaneArithmetic := ⟨laneResults, unaryLanes⟩

end Sys2Proof.Machine

/-! PROOFS. Arrivals at homes and L1s, and masks (R147, R149). -/

namespace Sys2Proof.Machine

/-- What no step of a fold changes is as before. -/
theorem foldl_frame {σ α β : Type} {f : σ → α → σ} (g : σ → β) (h : ∀ s a, g (f s a) = g s) (l : List α) (s : σ) :
    g (l.foldl f s) = g s := by
  induction l generalizing s with
  | nil => rfl
  | cons a l ih => exact (ih (f s a)).trans (h s a)

/-- A fold in which one element of the list alone does anything. -/
theorem foldl_single {σ α : Type} {f : σ → α → σ} {l : List α} {j : α} (hj : j ∈ l) (hl : l.Nodup) (h : ∀ s, ∀ k ∈ l, k ≠ j → f s k = s)
    (s : σ) : l.foldl f s = f s j := by
  induction l generalizing s with
  | nil => simp at hj
  | cons a l ih =>
    obtain ⟨ha, hl⟩ := List.nodup_cons.mp hl
    rw [List.foldl_cons]
    rcases List.mem_cons.mp hj with rfl | hj
    · rw [List.foldl_ext f (fun t _ => t) (f s j) fun t k hk => h t k (by simp [hk]) fun e => ha (e ▸ hk)]
      exact List.foldl_fixed l
    · rw [h s a (by simp) fun e => ha (e ▸ hj)]
      exact ih hj hl (fun s k hk => h s k (by simp [hk])) s

/-! ## A delivered packet -/

/-- An arrival that is no access of a core's port leaves the port's turn (R151, R358). -/
theorem State.portTook_of_not_atPort (s : State) {p : Packet} (h : p.body.atPort = false) : s.portTook p = s := by
  unfold State.portTook
  split
  · simp [h]
  · rfl

/-- A packet that the unit takes, and that is no access of a core's port. -/
theorem packetStep_takes {k : Nat} {s t : State} {p : Packet} {f : Packet → State → Option State} (hp : s.packet? k = some p)
    (hb : p.body.atPort = false) (hf : f p (s.drop k) = some t) : packetStep k f s = .next t := by
  rw [packetStep_some f hp hf, State.portTook_of_not_atPort _ hb]

/-- The same for a delivered packet, whatever its lane. -/
theorem packetStep_delivers {k : Nat} {s t : State} {src dst : Endpoint} {b : Body} {f : Packet → State → Option State}
    (h : Delivers s k src dst b) (hb : b.atPort = false) (hf : ∀ pl, f ⟨src, dst, pl, b⟩ (s.drop k) = some t) :
    packetStep k f s = .next t := by
  obtain ⟨pl, hp⟩ := h
  exact packetStep_takes hp hb (hf pl)

/-- The same for a unit that might have to wait. -/
theorem waitingStep_delivers {k : Nat} {s t : State} {src dst : Endpoint} {b : Body} {f : Packet → State → Take}
    (h : Delivers s k src dst b) (hb : b.atPort = false) (hf : ∀ pl, f ⟨src, dst, pl, b⟩ (s.drop k) = .did t) :
    waitingStep k f s = .next t := by
  obtain ⟨pl, hp⟩ := h
  rw [waitingStep_did f hp (hf pl), State.portTook_of_not_atPort _ hb]

/-- An arrival that must wait is held back. -/
theorem waitingStep_heldBack {k : Nat} {s : State} {src dst : Endpoint} {b : Body} {f : Packet → State → Take}
    (h : Delivers s k src dst b) (hf : ∀ pl, f ⟨src, dst, pl, b⟩ (s.drop k) = .wait (s.drop k)) :
    waitingStep k f s = .next (s.heldBack k) := by
  obtain ⟨pl, hp⟩ := h
  rw [waitingStep_wait f hp (hf pl), State.heldBack, hp]

/-! ## What taking a packet out leaves -/

/-- What depends on no packet is as before when one is taken out. -/
theorem State.drop_frame {α : Type} (f : State → α) (hf : ∀ s n h, f { s with net := n, held := h } = f s) (s : State) (k : Nat) :
    f (s.drop k) = f s := by
  unfold State.drop
  split
  · exact hf s _ s.held
  · exact hf s s.net _

@[simp] theorem State.drop_parked (s : State) (k : Nat) : (s.drop k).parked = s.parked := s.drop_frame (·.parked) (fun _ _ _ => rfl) k
@[simp] theorem State.drop_exchanges (s : State) (k : Nat) : (s.drop k).exchanges = s.exchanges :=
  s.drop_frame (·.exchanges) (fun _ _ _ => rfl) k
@[simp] theorem State.drop_home? (s : State) (k line : Nat) : (s.drop k).home? line = s.home? line :=
  s.drop_frame (·.home? line) (fun _ _ _ => rfl) k
@[simp] theorem State.drop_entriesOf (s : State) (k h : Nat) : (s.drop k).entriesOf h = s.entriesOf h :=
  s.drop_frame (·.entriesOf h) (fun _ _ _ => rfl) k
@[simp] theorem State.drop_present (s : State) (k line : Nat) : (s.drop k).present line = s.present line :=
  s.drop_frame (·.present line) (fun _ _ _ => rfl) k
@[simp] theorem State.drop_ctlBusy (s : State) (k line : Nat) : (s.drop k).ctlBusy line = s.ctlBusy line :=
  s.drop_frame (·.ctlBusy line) (fun _ _ _ => rfl) k
@[simp] theorem State.drop_flipping (s : State) (k line : Nat) : (s.drop k).flipping line = s.flipping line :=
  s.drop_frame (·.flipping line) (fun _ _ _ => rfl) k
@[simp] theorem State.drop_locked (s : State) (k line : Nat) : (s.drop k).locked line = s.locked line :=
  s.drop_frame (·.locked line) (fun _ _ _ => rfl) k
@[simp] theorem State.drop_hostLine (s : State) (k pa : Nat) : (s.drop k).hostLine pa = s.hostLine pa :=
  s.drop_frame (·.hostLine pa) (fun _ _ _ => rfl) k
@[simp] theorem State.drop_hostState (s : State) (k g : Nat) : (s.drop k).hostState g = s.hostState g :=
  s.drop_frame (·.hostState g) (fun _ _ _ => rfl) k
@[simp] theorem State.drop_bad (s : State) (k g : Nat) : (s.drop k).bad g = s.bad g := s.drop_frame (·.bad g) (fun _ _ _ => rfl) k
@[simp] theorem State.drop_homeNum (s : State) (k pa n : Nat) : (s.drop k).homeNum pa n = s.homeNum pa n :=
  s.drop_frame (·.homeNum pa n) (fun _ _ _ => rfl) k

/-! ## Masks -/

/-- The bits of a mask with the bits of a list set. -/
theorem testBit_foldl_maskSet (l : List Nat) (m i : Nat) : (l.foldl maskSet m).testBit i = true ↔ m.testBit i = true ∨ i ∈ l := by
  induction l generalizing m with
  | nil => simp
  | cons a l ih =>
    rw [List.foldl_cons, ih, maskSet]
    simp only [Nat.testBit_or, Nat.testBit_two_pow, Bool.or_eq_true, decide_eq_true_eq, List.mem_cons]
    tauto

/-- The bits of a union of masks. -/
theorem testBit_foldl_or (l : List Nat) (m i : Nat) :
    (l.foldl (· ||| ·) m).testBit i = true ↔ m.testBit i = true ∨ ∃ u ∈ l, u.testBit i = true := by
  induction l generalizing m with
  | nil => simp
  | cons a l ih => simp [List.foldl_cons, ih, or_assoc]

@[simp] theorem maskSet_zero (i : Nat) : maskSet 0 i = 2 ^ i := by simp [maskSet]

@[simp] theorem maskClear_zero (m : Nat) : maskClear m 0 = m := by simp [maskClear]

@[simp] theorem maskList_zero (n : Nat) : maskList n 0 = [] := by simp [maskList]

@[simp] theorem sectorsOf_zero : sectorsOf 0 = [] := rfl

theorem mem_maskList {n m i : Nat} : i ∈ maskList n m ↔ i < n ∧ m.testBit i = true := by simp [maskList]

/-- The one bit of a mask of one. -/
theorem maskList_two_pow {n w : Nat} (h : w < n) : maskList n (2 ^ w) = [w] := by
  unfold maskList
  rw [List.filter_congr (q := (· == w)) fun i _ => ?_]
  · simp [List.filter_beq, List.count_range, h]
  · rw [Nat.testBit_two_pow, Bool.beq_eq_decide_eq]
    exact decide_eq_decide.mpr eq_comm

/-- The one sector of one word. -/
theorem sectorsOf_two_pow {w : Nat} (h : w < 64) : sectorsOf (2 ^ w) = [w / 16] := by
  revert w; decide

theorem mem_sectorsOf {mask k : Nat} (h : k ∈ sectorsOf mask) : k < 4 := by
  simpa using List.mem_of_mem_filter h

end Sys2Proof.Machine

/-! PROOFS. Registration at the home (R36, R91, R93, R97). -/

namespace Sys2Proof.Machine

/-! ## A home whose line is free -/

/-- A packet that is taken out leaves the line free. -/
theorem HomeFree.drop {s : State} {line : Nat} (h : HomeFree s line) (k : Nat) : HomeFree (s.drop k) line := by
  obtain ⟨hd, hs, hf, hl, hp, hh, hi⟩ := h
  constructor <;> simpa

/-- Nothing is being recalled of a line that is not locked. -/
theorem State.recalling_of_unlocked {s : State} {line : Nat} {e : HomeLine} (h : s.locked line = false) (he : s.home? line = some e) :
    e.recalling = [] := by
  simp only [State.locked, he, Bool.or_eq_false_iff] at h
  simpa using h.1

/-- The device uses a sector of HBM in device bias as it likes (R97). -/
theorem State.sectorHeld_of_device {s : State} {g : Nat} (h : s.hostLine (g * 64) = false) (own : Bool) : s.sectorHeld g own = true := by
  simp [State.sectorHeld, h]

/-- An access to sectors in device bias asks the host for nothing. -/
theorem State.needSectors_of_device {s : State} {line : Nat} {ks : List Nat} (h : ∀ k ∈ ks, s.hostLine ((line * 4 + k) * 64) = false)
    (own : Bool) : s.needSectors line ks own = (true, s) := by
  have hn : (ks.map fun k => line * 4 + k).filter (fun g => !s.sectorHeld g own) = [] := by
    simpa using fun k hk => State.sectorHeld_of_device (h k hk) own
  simp [State.needSectors, hn]

/-- A write leaves the host state of a sector in device bias (R97). -/
theorem State.markWritten_of_device {s : State} {g : Nat} (h : s.hostLine (g * 64) = false) (c : Option Nat) : s.markWritten g c = s := by
  simp [State.markWritten, h]

/-- The same for several sectors. -/
theorem State.markWritten_foldl_of_device {s : State} {line : Nat} {ks : List Nat} (c : Option Nat)
    (h : ∀ k ∈ ks, s.hostLine ((line * 4 + k) * 64) = false) :
    ks.foldl (fun s k => s.markWritten (line * 4 + k) c) s = s := by
  induction ks with
  | nil => rfl
  | cons k ks ih =>
    rw [List.foldl_cons, State.markWritten_of_device (h k (by simp)), ih fun j hj => h j (by simp [hj])]

/-- A line that the slice holds is not allocated again. -/
theorem State.allocate_of_present {s : State} {line : Nat} (h : s.present line = true) : s.allocate line = s := by
  exact if_pos h

/-- With nothing in its way, a request is handled when it arrives. -/
theorem State.homeArrive_try {s : State} {p : Packet} {line : Nat} (hl : p.body.line? = some line) (hf : s.flipping line = false)
    (hk : s.locked line = false) (hb : s.ctlBusy line = false) (hp : s.parked = []) : s.homeArrive p = s.homeTry p := by
  simp [State.homeArrive, hl, State.mustWait, hf, hk, hb, hp]

/-- A home with nothing parked has nothing to look at again. -/
theorem State.retryHome_of_parked_nil {s : State} (h : s.parked = []) (hm : Nat) : s.retryHome hm = s := by
  unfold State.retryHome
  rw [h, List.foldl_nil, ← h]

/-! ## Registrations (R91) -/

/-- An entry that is not being reclaimed serves (R90). -/
theorem State.makeEntry_of_some {s : State} {line : Nat} {e : HomeLine} (h : s.home? line = some e) (hr : e.reclaim = false) :
    s.makeEntry line = (true, s) := by
  simp [State.makeEntry, h, hr]

/-- A registry with room takes a new entry (R90). -/
theorem State.makeEntry_of_none {s : State} {line : Nat} (h : s.home? line = none)
    (hr : (s.entriesOf (homeOfLine line)).length < Config.registryLines) :
    s.makeEntry line = (true, s.setHome line HomeLine.new) := by
  simp [State.makeEntry, h, hr]

@[simp] theorem State.home?_setHome (s : State) (line : Nat) (e : HomeLine) : (s.setHome line e).home? line = some e := by
  simp [State.setHome, State.home?]

@[simp] theorem State.setHome_setHome (s : State) (line : Nat) (e f : HomeLine) : (s.setHome line e).setHome line f = s.setHome line f := by
  simp [State.setHome]

@[simp] theorem State.setHome_hostLine (s : State) (line pa : Nat) (e : HomeLine) : (s.setHome line e).hostLine pa = s.hostLine pa := rfl
@[simp] theorem State.setHome_bad (s : State) (line g : Nat) (e : HomeLine) : (s.setHome line e).bad g = s.bad g := rfl
@[simp] theorem State.setHome_homeNum (s : State) (line pa n : Nat) (e : HomeLine) : (s.setHome line e).homeNum pa n = s.homeNum pa n := rfl
@[simp] theorem State.setHome_tick (s : State) (line : Nat) (e : HomeLine) : (s.setHome line e).tick = s.tick := rfl

/-- Words that nobody has registered stand in nobody's way. -/
theorem State.clearOwners_of_free {s : State} {line mask : Nat} {e : HomeLine} (he : s.home? line = some e) (hr : e.recalling = [])
    (hf : ∀ o ∈ e.owner, mask.testBit o.1 = false) : s.clearOwners line mask = (true, s) := by
  have hn : (e.owner.filter fun o => mask.testBit o.1) = [] := by simpa using fun a b h => hf (a, b) h
  simp [State.clearOwners, he, hr, hn]

/-- The line's sectors in device bias are sound: what a registration in it needs of its sectors. -/
structure DeviceSound (s : State) (line : Nat) : Prop where
  device : ∀ k, k < 4 → s.hostLine ((line * 4 + k) * 64) = false
  sound : ∀ k, k < 4 → s.bad (line * 4 + k) = false

/-- No word of a sound line fails its merge read (R42). -/
theorem DeviceSound.no_bad_words {s : State} {line : Nat} (h : DeviceSound s line) (mask full : Nat) :
    ((maskList 64 mask).filter fun w => s.bad (line * 4 + w / 16) && !full.testBit w) = [] := by
  refine List.filter_eq_nil_iff.mpr fun w hw => ?_
  have : w < 64 := (mem_maskList.mp hw).1
  simp [h.sound (w / 16) (by omega)]

/-- A registration that the registrants of its words keep waiting (R91, R93). -/
theorem State.homeReg_waits {s t : State} {p : Packet} {c line mask full : Nat} {e : HomeLine} (h : DeviceSound s line)
    (he : s.home? line = some e) (hr : e.reclaim = false) (hc : s.clearOwners line mask = (false, t)) :
    s.homeReg p c line mask full = (t, some p) := by
  simp [State.homeReg, State.needSectors_of_device fun k hk => h.device k (mem_sectorsOf hk), State.makeEntry_of_some he hr,
    h.no_bad_words, hc]

/-- A registration of words that nobody has registered (R91). -/
theorem State.homeReg_grants {s : State} {p : Packet} {c line mask full : Nat} {e : HomeLine} (h : DeviceSound s line)
    (he : s.home? line = some e) (hr : e.reclaim = false) (hc : s.clearOwners line mask = (true, s)) :
    s.homeReg p c line mask full = (s.granted line e c mask p.dst p.src, none) := by
  have hd : ∀ k ∈ sectorsOf mask, s.hostLine ((line * 4 + k) * 64) = false := fun k hk => h.device k (mem_sectorsOf hk)
  simp only [State.homeReg, State.needSectors_of_device hd, State.makeEntry_of_some he hr, h.no_bad_words, List.foldl_nil,
    maskClear_zero, hc, he, sectorsOf_zero, Bool.not_true, Bool.false_eq_true, if_false]
  rw [State.markWritten_foldl_of_device]
  · rfl
  · exact hd

/-- A registration in a line without an entry, in a registry with room, is one in a line with a new entry (R90). -/
theorem State.homeReg_of_none {s : State} {p : Packet} {c line mask full : Nat} (h : DeviceSound s line) (he : s.home? line = none)
    (hr : (s.entriesOf (homeOfLine line)).length < Config.registryLines) :
    s.homeReg p c line mask full = (s.setHome line HomeLine.new).homeReg p c line mask full := by
  have hd : ∀ k ∈ sectorsOf mask, s.hostLine ((line * 4 + k) * 64) = false := fun k hk => h.device k (mem_sectorsOf hk)
  have hd' : ∀ k ∈ sectorsOf mask, (s.setHome line HomeLine.new).hostLine ((line * 4 + k) * 64) = false := hd
  simp only [State.homeReg, State.needSectors_of_device hd, State.needSectors_of_device hd', State.makeEntry_of_none he hr,
    State.makeEntry_of_some (State.home?_setHome s line HomeLine.new) rfl, Bool.not_true, Bool.false_eq_true, if_false]

/-- The recall of one word of one core (R93). -/
theorem State.recallMask_one {s : State} {line mask w d : Nat} {e : HomeLine} (he : s.home? line = some e) (hr : e.recalling = [])
    (ho : (e.owner.filter fun o => mask.testBit o.1) = [(w, d)]) (hl : e.late.length < 255) :
    s.recallMask line mask = (s.setHome line { e with recalling := [w] }).send (.slice (homeOfLine line)) (.core d) .request
      (.recall line (2 ^ w)) := by
  have hw : mask.testBit w = true := by
    have : (w, d) ∈ e.owner.filter fun o => mask.testBit o.1 := by simp [ho]
    exact (List.mem_filter.mp this).2
  have hone : (e.owner.filter fun o => (2 ^ w).testBit o.1) = [(w, d)] := by
    have : (fun o : Nat × Nat => (2 ^ w).testBit o.1) = fun o => (2 ^ w).testBit o.1 && mask.testBit o.1 := by
      funext o
      rcases eq_or_ne w o.1 with rfl | h
      · simp [hw]
      · simp [h]
    rw [this, ← List.filter_filter, ho]
    simp
  have hroom : 255 - e.late.length - 0 = (254 - e.late.length) + 1 := by omega
  simp [State.recallMask, he, hr, ho, hroom, HomeLine.owners, hone, Tbl.insert, Tbl.getD, Tbl.find?]

/-- The recall of one registered word, in the home's way of clearing words (R93). -/
theorem State.clearOwners_recalls {s : State} {line mask w d : Nat} {e : HomeLine} (he : s.home? line = some e) (hr : e.recalling = [])
    (ho : (e.owner.filter fun o => mask.testBit o.1) = [(w, d)]) (hl : e.late.length < 255) :
    s.clearOwners line mask = (false, (s.setHome line { e with recalling := [w] }).send (.slice (homeOfLine line)) (.core d) .request
      (.recall line (2 ^ w))) := by
  simp [State.clearOwners, he, hr, ho, State.recallMask_one he hr ho hl]

/-! ## Lines that are fetched (R36, R39) -/

/-- A new request stands in its controller's queue. -/
theorem State.mem_ctl_ask (s : State) (r : CtlReq) : r ∈ (s.ask r).ctl (controllerOf (r.granule * 64)) := by
  simp [State.ask, State.ctl]

/-- The requests that were there stay. -/
theorem State.mem_ctl_ask_of_mem {s : State} {q : CtlReq} {n : Nat} (h : q ∈ s.ctl n) (r : CtlReq) : q ∈ (s.ask r).ctl n := by
  unfold State.ctl at h
  unfold State.ask State.ctl
  rcases eq_or_ne n (controllerOf (r.granule * 64)) with rfl | hn
  · simpa using Or.inl h
  · simpa [Tbl.getD_put_ne _ _ _ hn] using h

/-- The requests of a list all stand in their queues. -/
theorem State.mem_ctl_foldl_ask {s : State} {q : CtlReq} {n : Nat} (l : List CtlReq)
    (h : q ∈ s.ctl n ∨ q ∈ l ∧ n = controllerOf (q.granule * 64)) : q ∈ (l.foldl State.ask s).ctl n := by
  induction l generalizing s with
  | nil => simpa using h
  | cons r l ih =>
    refine ih ?_
    rcases h with h | ⟨h, hn⟩
    · exact Or.inl (State.mem_ctl_ask_of_mem h r)
    · rcases List.mem_cons.mp h with rfl | h
      · exact Or.inl (hn ▸ s.mem_ctl_ask q)
      · exact Or.inr ⟨h, hn⟩

/-- The request of a home for granule `k` of a line (R36, R39). -/
def fetchReq (line now k : Nat) : CtlReq :=
  { granule := 4 * line + k, write := [], origin := .fetch line, deadline := none, arrived := now, promoted := false, mask := 0 }

/-- The requests of a fetch are made at one time. -/
theorem State.foldl_fetchReq (line : Nat) (l : List Nat) (s : State) :
    l.foldl (fun s k => s.ask (fetchReq line s.tick k)) s = (l.map (fetchReq line s.tick)).foldl State.ask s := by
  induction l generalizing s with
  | nil => rfl
  | cons k l ih => exact ih _

/-- A home's fetch asks for each granule of its line. -/
theorem State.fetchLine_eq {s : State} {line : Nat} (h : line * 256 < Config.hbmSize) :
    s.fetchLine line = ((List.range 4).map (fetchReq line s.tick)).foldl State.ask s := by
  rw [State.fetchLine, if_neg (Nat.not_le.mpr h)]
  exact State.foldl_fetchReq line _ s

/-- A home's fetch of a line of HBM is under way then. -/
theorem State.fetchUnderWay_fetchLine {s : State} {line : Nat} (h : line * 256 < Config.hbmSize) : FetchUnderWay (s.fetchLine line) line := by
  intro j hj
  refine ⟨fetchReq line s.tick j, ?_, rfl, rfl, rfl, rfl⟩
  rw [State.fetchLine_eq h]
  exact State.mem_ctl_foldl_ask _ (Or.inr ⟨List.mem_map_of_mem (List.mem_range.mpr hj), rfl⟩)

/-- A line that is being fetched has its controller busy (R40). -/
theorem FetchUnderWay.ctlBusy {s : State} {line : Nat} (h : FetchUnderWay s line) (hl : line * 256 < Config.hbmSize) :
    s.ctlBusy line = true := by
  obtain ⟨r, hr, hg, -⟩ := h 0 (by omega)
  have hc : controllerOf ((4 * line + 0) * 64) = controllerOf (line * 256) := congrArg controllerOf (by omega)
  simp only [State.ctlBusy, hl, decide_true, Bool.true_and, List.any_eq_true]
  exact ⟨r, hc ▸ hr, by rw [hg]; simp⟩

/-- A request leaves the slices. -/
@[simp] theorem State.slices_fetchLine (s : State) (line : Nat) : (s.fetchLine line).slices = s.slices := by
  unfold State.fetchLine
  split
  · rfl
  · refine foldl_frame State.slices ?_ _ s
    exact fun _ _ => rfl

/-- A slice that has allocated a line: a full one has dropped its first. -/
def Slice.holding (x : Slice) (line : Nat) : Slice :=
  { x with present := (if x.present.length < Config.sliceLines then x.present else x.present.drop 1) ++ [line] }

/-- What allocating an absent line does. -/
theorem State.allocate_of_absent {s : State} {line : Nat} (h : s.present line = false) :
    s.allocate line = ((s.setSlice (homeOfLine line) ((s.slice (homeOfLine line)).holding line)).event
      (unitSlice (homeOfLine line)) 0x12).fetchLine line :=
  if_neg (by simpa [State.present] using h)

@[simp] theorem State.slice_setSlice (s : State) (h : Nat) (x : Slice) : (s.setSlice h x).slice h = x := by
  simp [State.setSlice, State.slice]
@[simp] theorem State.slice_event (s : State) (u code h : Nat) : (s.event u code).slice h = s.slice h := rfl
@[simp] theorem State.slice_fetchLine (s : State) (line h : Nat) : (s.fetchLine line).slice h = s.slice h := by
  simp [State.slice]

/-- The slice holds a line that it allocates. -/
theorem State.present_allocate {s : State} {line : Nat} (h : s.present line = false) : (s.allocate line).present line = true := by
  simp [State.allocate_of_absent h, State.present, Slice.holding]

/-- An absent line of HBM is fetched when it is allocated. -/
theorem State.fetchUnderWay_allocate {s : State} {line : Nat} (h : s.present line = false) (hl : line * 256 < Config.hbmSize) :
    FetchUnderWay (s.allocate line) line :=
  State.allocate_of_absent h ▸ State.fetchUnderWay_fetchLine hl

/-! ## Arrivals of registrations -/

/-- A request that its home goes on keeping waiting is parked. -/
theorem State.homeTry_parks {s t : State} {p q : Packet} (h : s.homeAttempt p = (t, some q)) : s.homeTry p = t.park q := by
  simp [State.homeTry, h]

/-- A request that its home handles. -/
theorem State.homeTry_done {s t : State} {p : Packet} (h : s.homeAttempt p = (t, none)) : s.homeTry p = t := by
  simp [State.homeTry, h]

/-- REGISTRATION_REQUEST: the home allocates the line, and the request arrives. -/
theorem exec_registrationRequest {s : State} {k line mask va full : Nat} {p : Packet} (hp : s.packet? k = some p)
    (hb : p.body = .regReq line mask va full) :
    exec (.registrationRequest k) s = .next (((s.drop k).allocate line).homeArrive p) :=
  packetStep_takes hp (by rw [hb]; rfl) (by rw [hb])

/-- A registration in a free line is handled at once. -/
theorem HomeFree.exec_registrationRequest {s : State} {k line mask va full : Nat} {p : Packet} (h : HomeFree s line)
    (hp : s.packet? k = some p) (hb : p.body = .regReq line mask va full) :
    exec (.registrationRequest k) s = .next ((s.drop k).homeTry p) := by
  have hd := h.drop k
  rw [Machine.exec_registrationRequest hp hb, State.allocate_of_present hd.here,
    State.homeArrive_try (line := line) (by rw [hb]; rfl) hd.service hd.unlocked hd.idle hd.quiet]

/-- A free line is in device bias and sound. -/
theorem HomeFree.deviceSound {s : State} {line : Nat} (h : HomeFree s line) : DeviceSound s line := ⟨h.device, h.sound⟩

/-- R36, R91, R93, R97: registrations at the home. -/
theorem registrationAtHome : RegistrationAtHome := by
  refine ⟨?granted, ?fresh, ?recalled, ?host, ?absent, ?allocates, ?none⟩
  case granted =>
    rintro s k c line mask va full dst e ⟨pl, hp⟩ hf - he hr ho
    have he' : (s.drop k).home? line = some e := by simpa using he
    rw [hf.exec_registrationRequest hp rfl]
    refine congrArg _ (State.homeTry_done (State.homeReg_grants (hf.drop k).deviceSound he' hr ?_))
    exact State.clearOwners_of_free he' (State.recalling_of_unlocked (hf.drop k).unlocked he') ho
  case fresh =>
    rintro s k c line mask va full dst ⟨pl, hp⟩ hf - he hr
    have he' : (s.drop k).home? line = none := by simpa using he
    rw [hf.exec_registrationRequest hp rfl]
    refine congrArg _ (State.homeTry_done ((State.homeReg_of_none (hf.drop k).deviceSound he' (by simpa using hr)).trans ?_))
    refine State.homeReg_grants ⟨(hf.drop k).device, (hf.drop k).sound⟩ (State.home?_setHome _ _ _) rfl ?_
    exact State.clearOwners_of_free (State.home?_setHome _ _ _) rfl (by simp [HomeLine.new])
  case recalled =>
    rintro s k c d line mask va full w dst e ⟨pl, hp⟩ hf - he hr ho hl
    have he' : (s.drop k).home? line = some e := by simpa using he
    refine ⟨_, hp, ?_⟩
    rw [hf.exec_registrationRequest hp rfl]
    refine congrArg _ (State.homeTry_parks (State.homeReg_waits (hf.drop k).deviceSound he' hr ?_))
    exact State.clearOwners_recalls he' (State.recalling_of_unlocked (hf.drop k).unlocked he') ho hl
  case host =>
    rintro s k c line w va full dst ⟨pl, hp⟩ hw hfl hlk hcb hpk hpr hhl hi hx
    refine ⟨_, hp, ?_⟩
    rw [exec_registrationRequest hp rfl, State.allocate_of_present (by simpa using hpr),
      State.homeArrive_try (line := line) rfl (by simpa using hfl) (by simpa using hlk) (by simpa using hcb) (by simpa using hpk)]
    refine congrArg _ (State.homeTry_parks ?_)
    simp [State.homeAttempt, State.homeReg, State.needSectors, sectorsOf_two_pow hw, State.sectorHeld, hhl, hi, State.exchange, hx]
  case absent =>
    rintro s k c line mask va full dst ⟨pl, hp⟩ hpr hl
    refine ⟨_, hp, ?_⟩
    have hb := (State.fetchUnderWay_allocate (s := s.drop k) (by simpa using hpr) hl).ctlBusy hl
    rw [exec_registrationRequest hp rfl]
    simp [State.homeArrive, Body.line?, State.mustWait, hb]
  case allocates =>
    intro s line h
    refine ⟨State.present_allocate h, fun hl => ?_⟩
    have hf := State.fetchUnderWay_allocate h hl
    exact ⟨hf, hf.ctlBusy hl⟩
  case none => exact fun s k h => packetStep_none _ h

end Sys2Proof.Machine

/-! PROOFS. Grants at the L1 (R42, R91, R260). -/

namespace Sys2Proof

/-- A table without some of its keys. -/
theorem Tbl.find?_filter {α : Type} (t : Tbl α) (p : Nat → Bool) (k : Nat) :
    Tbl.find? (t.filter fun e => p e.1) k = if p k then t.find? k else none := by
  induction t with
  | nil => simp [Tbl.find?]
  | cons e r ih =>
    rw [List.filter_cons]
    by_cases hk : e.1 = k
    · subst hk
      by_cases he : p e.1 = true
      · simp [Tbl.find?, he]
      · simp [ih, he]
    · by_cases he : p e.1 = true
      · simp [Tbl.find?, he, hk, ih]
      · simp [Tbl.find?, he, hk, ih]

namespace Machine

/-! ## A line's bytes -/

@[simp] theorem L1Line.byte_setByte_self (x : L1Line) (o : Nat) (b : Byte) : (x.setByte o b).byte o = b := by
  simp [L1Line.setByte, L1Line.byte]

theorem L1Line.byte_setByte_ne (x : L1Line) {o o' : Nat} (b : Byte) (h : o' ≠ o) : (x.setByte o b).byte o' = x.byte o' := by
  simp [L1Line.setByte, L1Line.byte, Tbl.getD_put_ne _ _ _ h]

/-- One byte of a merge: a byte that a pending store wrote stays (R91). -/
def L1Line.mergeByte (w v : Nat) (x : L1Line) (i : Nat) : L1Line :=
  if x.pend.testBit w && x.bytes.testBit (4 * w + i) then x else x.setByte (4 * w + i) (BitVec.ofNat 8 (v / 256 ^ i))

theorem L1Line.merge_eq (x : L1Line) (w v : Nat) : x.merge w v = (List.range 4).foldl (L1Line.mergeByte w v) x := rfl

@[simp] theorem L1Line.mergeByte_pend (w v : Nat) (x : L1Line) (i : Nat) : (x.mergeByte w v i).pend = x.pend := by
  unfold L1Line.mergeByte; split <;> rfl
@[simp] theorem L1Line.mergeByte_bytes (w v : Nat) (x : L1Line) (i : Nat) : (x.mergeByte w v i).bytes = x.bytes := by
  unfold L1Line.mergeByte; split <;> rfl

/-- A byte's merge leaves the other bytes. -/
theorem L1Line.byte_mergeByte_ne (w v : Nat) (x : L1Line) {i o : Nat} (h : o ≠ 4 * w + i) : (x.mergeByte w v i).byte o = x.byte o := by
  unfold L1Line.mergeByte
  split
  · rfl
  · exact x.byte_setByte_ne _ h

/-- The byte that is merged. -/
theorem L1Line.byte_mergeByte_self (w v : Nat) (x : L1Line) (i : Nat) :
    (x.mergeByte w v i).byte (4 * w + i) =
      if x.pend.testBit w && x.bytes.testBit (4 * w + i) then x.byte (4 * w + i) else BitVec.ofNat 8 (v / 256 ^ i) := by
  unfold L1Line.mergeByte
  split
  · rfl
  · exact x.byte_setByte_self _ _

/-- Merges of bytes leave every other byte. -/
theorem L1Line.byte_foldl_mergeByte_ne (w v : Nat) (l : List Nat) (x : L1Line) {o : Nat} (h : ∀ i ∈ l, o ≠ 4 * w + i) :
    (l.foldl (L1Line.mergeByte w v) x).byte o = x.byte o := by
  induction l generalizing x with
  | nil => rfl
  | cons i l ih =>
    rw [List.foldl_cons, ih _ fun j hj => h j (by simp [hj]), L1Line.byte_mergeByte_ne w v x (h i (by simp))]

/-- A merge of a word leaves the bytes of the others. -/
theorem L1Line.byte_merge_ne (x : L1Line) (w v : Nat) {o : Nat} (h : o / 4 ≠ w) : (x.merge w v).byte o = x.byte o :=
  L1Line.byte_foldl_mergeByte_ne w v _ x fun i hi => by
    have := List.mem_range.mp hi
    omega

/-- Merges of distinct bytes of a word leave one of them as its own merge does. -/
theorem L1Line.byte_foldl_mergeByte_self (w v : Nat) (l : List Nat) (x : L1Line) {i : Nat} (hi : i ∈ l) (hl : l.Nodup) :
    (l.foldl (L1Line.mergeByte w v) x).byte (4 * w + i) =
      if x.pend.testBit w && x.bytes.testBit (4 * w + i) then x.byte (4 * w + i) else BitVec.ofNat 8 (v / 256 ^ i) := by
  induction l generalizing x with
  | nil => simp at hi
  | cons j l ih =>
    obtain ⟨hj, hl⟩ := List.nodup_cons.mp hl
    rw [List.foldl_cons]
    rcases List.mem_cons.mp hi with rfl | hi
    · rw [L1Line.byte_foldl_mergeByte_ne w v l _ fun a ha => ?_, L1Line.byte_mergeByte_self]
      rintro h
      exact hj (by rwa [show i = a by omega])
    · have hne : i ≠ j := fun h => hj (h ▸ hi)
      rw [ih _ hi hl, L1Line.byte_mergeByte_ne w v x (by omega), L1Line.mergeByte_pend, L1Line.mergeByte_bytes]

/-- A merge of a word: the bytes of a pending store stay, the others are the value's (R91). -/
theorem L1Line.byte_merge_self (x : L1Line) {w o : Nat} (v : Nat) (h : o / 4 = w) :
    (x.merge w v).byte o = if x.pend.testBit w && x.bytes.testBit o then x.byte o else BitVec.ofNat 8 (v / 256 ^ (o % 4)) := by
  have ho : o = 4 * w + o % 4 := by omega
  rw [L1Line.merge_eq, ho, L1Line.byte_foldl_mergeByte_self w v _ x (List.mem_range.mpr (Nat.mod_lt o (by omega))) List.nodup_range]
  simp [Nat.add_mod]

/-! ## A grant -/

/-- The words of the stores to several words that are not performed yet. -/
def L1Line.waiting (x : L1Line) : Nat := x.units.foldl (· ||| ·) 0

theorem L1Line.testBit_waiting (x : L1Line) (w : Nat) : x.waiting.testBit w = true ↔ ∃ u ∈ x.units, u.testBit w = true := by
  simp [L1Line.waiting, testBit_foldl_or]

/-- The words that a line holds once a grant has come keep what was before for the stores that wait on (R260). -/
theorem L1Line.find?_granted_old (x : L1Line) (ver good bad w : Nat) (vals : List (Nat × Nat)) :
    Tbl.find? (x.granted ver good bad vals).old w =
      if ((x.granted ver good bad vals).waiting.testBit w && (x.granted ver good bad vals).reg.testBit w) = true then
        Tbl.find? (vals.foldl (fun t v => Tbl.insert t v.1 (v.2, false)) x.old) w else none :=
  Tbl.find?_filter _ (fun i =>
    (x.granted ver good bad vals).waiting.testBit i && (x.granted ver good bad vals).reg.testBit i) w

/-- The marked words of a grant (R91). -/
theorem L1Line.testBit_granted_drt (x : L1Line) (ver good bad : Nat) (vals : List (Nat × Nat)) {w : Nat} (h : w < 64) :
    (x.granted ver good bad vals).drt.testBit w = true ↔
      x.drt.testBit w = true ∨ (good.testBit w = true ∧ x.bytes / 2 ^ (4 * w) % 16 ≠ 0) := by
  refine (testBit_foldl_maskSet _ _ w).trans (or_congr_right ?_)
  simp [mem_maskList, h]

/-- What other agents meet in the one word of a grant: the granted value while its store waits for other words (R260). -/
theorem L1Line.shown_granted (x : L1Line) (ver w v : Nat) :
    let y := x.granted ver (2 ^ w) 0 [(w, v)]
    y.shown w = if y.waiting.testBit w then (v, false) else (y.word w, y.drt.testBit w) := by
  intro y
  have hr : y.reg.testBit w = true := by simp [y, L1Line.granted]
  rw [L1Line.shown, L1Line.find?_granted_old, hr]
  split <;> simp_all [y]

/-- R42, R91, R260: grants at the L1. -/
theorem grantAtL1 : GrantAtL1 := by
  refine ⟨?_, ?_, ?_, ?_, fun x w v o h => x.byte_merge_self v h, fun x w v o h => x.byte_merge_ne w v h, ?_⟩
  · intro s k c line mask ver bad vals src x h hx
    exact packetStep_delivers h rfl fun pl => by simp only [State.drop_core, State.drop_hostState, hx]
  · intro s k c line mask ver bad vals src h hx
    exact packetStep_delivers h rfl fun pl => by simp only [State.drop_core, hx]
  · intro x ver good bad vals
    refine ⟨rfl, rfl, rfl, ?_, fun w h => x.testBit_granted_drt ver good bad vals h, fun u => ?_⟩
    · rintro rfl
      rfl
    · simp [L1Line.granted]
  · intro x ver w v hw
    refine ⟨fun o => rfl, fun h => ?_, fun h => ?_⟩
    · rw [x.shown_granted, if_pos]
      exact (L1Line.testBit_waiting _ w).mpr h
    · rw [x.shown_granted, if_neg]
      rw [L1Line.testBit_waiting]
      rintro ⟨u, hu, ht⟩
      simp [h u hu] at ht
  · intro s c va
    refine ⟨rfl, ?_, rfl⟩
    simp [State.tellStores, List.eraseDups_cons, cPOISON]

end Machine
end Sys2Proof

/-! PROOFS. Recalls, their answers, and writebacks (R93–R95). -/

namespace Sys2Proof.Machine

/-! ## A recall at the registrant (R93) -/

/-- A registered word's grant is not on its way. -/
theorem L1.awaits_of_registered {l : L1} {line w : Nat} {x : L1Line} (hx : l.line? line = some x) (hr : x.reg.testBit w = true) :
    l.awaits line w = false := by
  simp [L1.awaits, hx, hr]

/-- Nor is a word's of a line that the L1 does not hold. -/
theorem L1.awaits_of_absent {l : L1} {line : Nat} (hx : l.line? line = none) (w : Nat) : l.awaits line w = false := by
  simp [L1.awaits, hx]

/-- A registrant answers a word from its line. -/
theorem L1.value?_of_registered {l : L1} {line w : Nat} {x : L1Line} (hx : l.line? line = some x) (hr : x.reg.testBit w = true) :
    l.value? line w = some (x.shown w).1 := by
  simp [L1.value?, hx, hr]

/-- A registrant that has sent its line back answers from the buffer. -/
theorem L1.value?_of_buffer {l : L1} {line w v : Nat} {d : Bool} {b : WBuf} (hx : l.line? line = none) (hb : l.buffer? line w = some b)
    (hw : b.words = [(w, v, d)]) : l.value? line w = some v := by
  simp [L1.value?, hx, hb, hw]

/-- Giving up a registered word whose store is performed. -/
theorem L1.unregister_of_performed {l : L1} {line w : Nat} {x : L1Line} (hx : l.line? line = some x) (hr : x.reg.testBit w = true)
    (ho : Tbl.find? x.old w = none) :
    l.unregister line w = (l.setLine line { x with reg := maskClear x.reg (2 ^ w), drt := maskClear x.drt (2 ^ w), old := Tbl.erase x.old w }).dropMiss
      fun a k => a == line && k == w / 16 := by
  simp [L1.unregister, hx, hr, ho]

/-- Giving up a registered word of a store that is not performed yet: it is pending again (R260). -/
theorem L1.unregister_of_waiting {l : L1} {line w : Nat} {x : L1Line} {o : Nat × Bool} (hx : l.line? line = some x)
    (hr : x.reg.testBit w = true) (ho : Tbl.find? x.old w = some o) :
    l.unregister line w = (l.setLine line { x with
        reg := maskClear x.reg (2 ^ w), drt := maskClear x.drt (2 ^ w), old := Tbl.erase x.old w, pend := maskSet x.pend w }).dropMiss
      fun a k => a == line && k == w / 16 := by
  simp [L1.unregister, hx, hr, ho]

/-- A recall takes a registered word from its line. -/
theorem L1.recallWords_of_registered {l : L1} {line w : Nat} {x : L1Line} (hx : l.line? line = some x) (hr : x.reg.testBit w = true) :
    l.recallWords line [w] = ([(w, ⟨(x.shown w).2, Tbl.getD x.vas w 0, none, (Tbl.find? x.old w).isSome, l.unregister line w⟩)],
      l.unregister line w) := by
  simp [L1.recallWords, L1.recallWord, hx, hr]

/-- A recall takes a word that was sent back from its buffer. -/
theorem L1.recallWords_of_buffer {l : L1} {line w v : Nat} {d : Bool} {b : WBuf} (hx : l.line? line = none)
    (hb : l.buffer? line w = some b) (hw : b.words = [(w, v, d)]) :
    let l' := { l with wb := l.wb.map fun y => if y.id = b.id then { y with words := y.words.filter (·.1 != w) } else y }
    l.recallWords line [w] = ([(w, ⟨d, Tbl.getD b.vas w 0, some b.ver, false, l'⟩)], l') := by
  simp [L1.recallWords, L1.recallWord, L1.recallWord.fromBuffer, hx, hb, hw]

/-- Nothing is asked for again where no store waits on. -/
theorem State.askAgain_of_performed (s : State) (c line w : Nat) {t : Taken} (h : t.again = false) : s.askAgain c line [(w, t)] = s := by
  simp [State.askAgain, h]

/-- A word of a store that waits on is asked for again (R91, R260). -/
theorem State.askAgain_of_waiting {s : State} {c line w : Nat} {t : Taken} {x : L1Line} (h : t.again = true)
    (hx : (s.core c).l1.line? line = some x) :
    s.askAgain c line [(w, t)] =
      s.send (.core c) (.slice (homeOfLine line)) .request (.regReq line (2 ^ w) t.va (x.whole (2 ^ w))) := by
  simp [State.askAgain, h, hx]

/-- The line that an L1 has set. -/
@[simp] theorem L1.line?_setLine (l : L1) (line : Nat) (x : L1Line) : (l.setLine line x).line? line = some x := by
  simp [L1.setLine, L1.line?]

@[simp] theorem L1.line?_dropMiss (l : L1) (p : Nat → Nat → Bool) (line : Nat) : (l.dropMiss p).line? line = l.line? line := rfl

@[simp] theorem State.core_onL1 (s : State) (c : Nat) (f : L1 → L1) : (s.onL1 c f).core c = { s.core c with l1 := f (s.core c).l1 } := by
  simp [State.onL1]

/-- RECALL of one word from the line that holds it, or from a buffer: what it takes is sent to the home. -/
theorem exec_recall {s : State} {k c line w v : Nat} {src : Endpoint} {t : Taken} {l : L1}
    (h : Delivers s k src (.core c) (.recall line (2 ^ w))) (hw : w < 64) (ha : (s.core c).l1.awaits line w = false)
    (hv : (s.core c).l1.value? line w = some v) (ht : (s.core c).l1.recallWords line [w] = ([(w, t)], l)) :
    exec (.recall k) s = .next ((((s.drop k).onL1 c fun _ => l).send (.core c) src .reply
      (.recallAns line (if t.dirty then 2 ^ w else 0) [(w, t.va)] [(w, v)]
        (match t.late with | none => [] | some lv => [(w, lv)]))).askAgain c line [(w, t)]) := by
  refine waitingStep_delivers h rfl fun pl => ?_
  simp only [State.drop_core, maskList_two_pow hw, List.any_cons, List.any_nil, ha, Bool.or_self, Bool.false_eq_true, if_false, ht,
    List.map_cons, List.map_nil, hv, Option.getD_some, List.filterMap_cons, List.filterMap_nil]
  cases hd : t.dirty <;> cases t.late <;> simp [hd]

/-! ## A recall's answer at the home (R93) -/

/-- A recall that completes at the home: the word is the home's, V is counted, and a late recall too, unless its writeback was met. -/
theorem State.recalled_of_some {s : State} {c line w : Nat} {late : Option Nat} {e : HomeLine} (he : s.home? line = some e) :
    let t := s.setHome line { e with
      owner := Tbl.erase e.owner w, ver := (e.ver + 1) % 256, recalling := e.recalling.filter (· != w),
      resent := e.resent.filter fun x => !(x.1 == c && x.2.1 == w),
      late := match late with | none => e.late | some lv => if e.resent.contains (c, w, lv) then e.late else e.late ++ [(c, w, lv)] }
    s.recalled c line w late = if late.isSome then t.event (unitSlice (homeOfLine line)) 0x13 else t := by
  cases late with
  | none => simp [State.recalled, he]
  | some lv =>
    by_cases hc : (c, w, lv) ∈ e.resent
    · simp [State.recalled, he, hc]
    · simp [State.recalled, he, hc]

/-- The last recall of a line completes. -/
theorem State.recalled_last {s : State} {c line w : Nat} {e : HomeLine} (he : s.home? line = some e) (ho : e.owner = [(w, c)])
    (hr : e.recalling = [w]) :
    s.recalled c line w none = s.setHome line { e with
      owner := [], ver := (e.ver + 1) % 256, recalling := [], resent := e.resent.filter fun x => !(x.1 == c && x.2.1 == w) } := by
  rw [State.recalled_of_some he, if_neg (by simp)]
  simp [ho, hr, Tbl.erase]

/-- Nothing dirty leaves memory as it is. -/
@[simp] theorem State.drain_nil (s : State) (c line : Nat) : s.drain c line [] = s := rfl

/-- A dirty word of a sound sector is written at the home (R93). -/
theorem State.drain_one {s : State} {c line w v va : Nat} (hw : w < 64) (hb : s.bad (4 * line + w / 16) = false) :
    s.drain c line [(w, v, va)] = s.writeHome (line * 256 + 4 * w) (leBytes 4 v) := by
  refine (foldl_single (j := w / 16) (List.mem_range.mpr (by omega)) List.nodup_range (fun t k _ hk => ?_) s).trans ?_
  · simp [State.drainSector, Ne.symm hk]
  · simp [State.drainSector, hb]

/-- A registry entry that is not being reclaimed stays (R90). -/
theorem State.freeEntry_of_kept {s : State} {line : Nat} {e : HomeLine} (he : s.home? line = some e) (hr : e.reclaim = false) :
    s.freeEntry line = s := by
  simp [State.freeEntry, he, hr]

@[simp] theorem State.home?_writeHome (s : State) (pa line : Nat) (bytes : List Byte) : (s.writeHome pa bytes).home? line = s.home? line := rfl
@[simp] theorem State.home?_event (s : State) (u code line : Nat) : (s.event u code).home? line = s.home? line := rfl
@[simp] theorem State.bad_event (s : State) (u code g : Nat) : (s.event u code).bad g = s.bad g := rfl

/-- RECALL_ANSWER of one word. -/
theorem exec_recallAnswer {s : State} {k c line dirty w v va : Nat} {dst : Endpoint} (late : Option Nat)
    (h : Delivers s k (.core c) dst (.recallAns line dirty [(w, va)] [(w, v)] (match late with | none => [] | some lv => [(w, lv)]))) :
    exec (.recallAnswer k) s = .next (((((s.drop k).recalled c line w late).drain c line
      (if dirty.testBit w then [(w, v, va)] else [])).freeEntry line).retryHome (homeOfLine line)) := by
  refine packetStep_delivers h rfl fun pl => ?_
  cases hd : dirty.testBit w <;> cases late <;> simp [Tbl.find?, Tbl.getD, hd]

/-- A line of which nothing is recalled, at a home where nothing waits, is not locked. -/
theorem State.locked_of_idle {s : State} {line : Nat} {e : HomeLine} (he : s.home? line = some e) (hr : e.recalling = [])
    (hp : s.parked = []) : s.locked line = false := by
  simp [State.locked, he, hr, hp]

/-- The registration that waits at a home alone is handled when nothing is in its way any more. -/
theorem State.retryHome_registration {s t : State} {line mask va full : Nat} {src dst : Endpoint} {pl : Plane}
    (hp : s.parked = [{ pkt := ⟨src, dst, pl, .regReq line mask va full⟩, bucket := none }])
    (hf : s.flipping line = false) (hb : s.ctlBusy line = false) (hl : ({ s with parked := [] } : State).locked line = false)
    (ht : ({ s with parked := [] } : State).homeAttempt ⟨src, dst, pl, .regReq line mask va full⟩ = (t, none)) :
    s.retryHome (homeOfLine line) = t := by
  have hf' : ({ s with parked := [] } : State).flipping line = false := hf
  have hb' : ({ s with parked := [] } : State).ctlBusy line = false := hb
  simp [State.retryHome, hp, retryOne, Body.line?, State.mustWait, hf', hb', hl, ht]

/-- A write of one word leaves every poisoned granule, and poisons none. -/
theorem State.bad_writeHome_of_sound {s : State} {pa g : Nat} {bytes : List Byte} (h : s.bad g = false) :
    (s.writeHome pa bytes).bad g = false := by
  have hput : ∀ (l : List Nat) (t : Tbl Bool), Tbl.getD t g false = false →
      Tbl.getD (l.foldl (fun t g => Tbl.put false t g false) t) g false = false := by
    intro l
    induction l with
    | nil => exact fun t ht => ht
    | cons a l ih =>
      refine fun t ht => ih _ ?_
      rcases eq_or_ne g a with rfl | hne
      · simp
      · rwa [Tbl.getD_put_ne _ _ _ hne]
  simp only [State.bad, Bool.or_eq_false_iff] at h ⊢
  exact ⟨hput _ _ h.1, hput _ _ h.2⟩

/-- A registry entry whose reclaim is complete is freed (R90). -/
theorem State.freeEntry_of_done {s : State} {line : Nat} {e : HomeLine} (he : s.home? line = some e) (hr : e.reclaim = true)
    (ho : e.owner = []) (hc : e.recalling = []) (hl : e.late = []) :
    s.freeEntry line = { s with homeLines := Tbl.erase s.homeLines line } := by
  simp [State.freeEntry, he, hr, ho, hc, hl]

@[simp] theorem State.parked_setHome (s : State) (line : Nat) (e : HomeLine) : (s.setHome line e).parked = s.parked := rfl
@[simp] theorem State.parked_event (s : State) (u code : Nat) : (s.event u code).parked = s.parked := rfl
@[simp] theorem State.parked_writeHome (s : State) (pa : Nat) (bytes : List Byte) : (s.writeHome pa bytes).parked = s.parked := rfl

@[simp] theorem State.parked_send (s : State) (src dst : Endpoint) (pl : Plane) (b : Body) : (s.send src dst pl b).parked = s.parked := rfl

/-- R93, R260: the registrant's answer, and the home's way with it. -/
theorem recallAndAnswer : RecallAndAnswer := by
  refine ⟨?line, ?buffer, ?awaits, ?answer, ?granted, ?reclaimed⟩
  case line =>
    intro s k c line w src x h hw hx hr y left
    have he := exec_recall h hw (L1.awaits_of_registered hx hr) (L1.value?_of_registered hx hr) (L1.recallWords_of_registered hx hr)
    refine ⟨fun ho => ?_, fun v d ho => ?_⟩
    · rw [he, L1.unregister_of_performed hx hr ho, State.askAgain_of_performed _ _ _ _ (by simp [ho])]
      simp [L1Line.shown, ho, left, State.onL1, State.onCore, y]
    · rw [he, L1.unregister_of_waiting hx hr ho, State.askAgain_of_waiting (by simp [ho]) (by simp; rfl)]
      simp [L1Line.shown, ho, left, State.onL1, State.onCore, y]
  case buffer =>
    intro s k c line w v d src b h hw hx hb hv
    rw [exec_recall h hw (L1.awaits_of_absent hx w) (L1.value?_of_buffer hx hb hv) (L1.recallWords_of_buffer hx hb hv),
      State.askAgain_of_performed _ _ _ _ rfl]
    simp [State.onL1, State.onCore]
  case awaits =>
    intro s k c line w src h hw ha
    refine waitingStep_heldBack h fun pl => ?_
    simp [maskList_two_pow hw, ha]
  case answer =>
    intro s k c line w v va late dst e h hw hp he hr hb t
    have he' : (s.drop k).home? line = some e := by simpa using he
    rw [exec_recallAnswer late h, State.recalled_of_some he', Nat.testBit_two_pow_self, if_pos rfl]
    generalize hu : (if late.isSome then t.event (unitSlice (homeOfLine line)) 0x13 else t) = u
    have hut : u = t ∨ u = t.event (unitSlice (homeOfLine line)) 0x13 := by
      rw [← hu]
      split
      · exact Or.inr rfl
      · exact Or.inl rfl
    have hbu : u.bad (4 * line + w / 16) = false := by rcases hut with rfl | rfl <;> simpa [t] using hb
    have hpu : u.parked = [] := by rcases hut with rfl | rfl <;> simpa [t] using hp
    have heu : (u.writeHome (line * 256 + 4 * w) (leBytes 4 v)).home? line = t.home? line := by rcases hut with rfl | rfl <;> rfl
    rw [State.drain_one hw hbu, State.freeEntry_of_kept (heu.trans (State.home?_setHome _ _ _)) hr, State.retryHome_of_parked_nil (by simpa using hpu)]
  case granted =>
    intro s k c d line w v va va' full dst dst' pl e h hw he hr ho hrc hd hb hf hcb hp e' t
    have he' : (s.drop k).home? line = some e := by simpa using he
    have hbw : ((s.drop k).setHome line e').bad (4 * line + w / 16) = false := by simpa using hb (w / 16) (by omega)
    have hbt : ∀ j, j < 4 → t.bad (line * 4 + j) = false := fun j hj =>
      State.bad_writeHome_of_sound (by simpa [Nat.mul_comm line] using hb j hj)
    rw [exec_recallAnswer none h, State.recalled_last he' ho hrc, Nat.testBit_two_pow_self, if_pos rfl, State.drain_one hw hbw,
      State.freeEntry_of_kept (e := e') (by simp) hr]
    have hdt : ∀ j, j < 4 → t.hostLine ((line * 4 + j) * 64) = false := fun j hj => (State.drop_hostLine s k _).trans (hd j hj)
    have hat : t.homeAttempt ⟨.core d, dst', pl, .regReq line (2 ^ w) va' full⟩ = (t.granted line e' d (2 ^ w) dst' (.core d), none) :=
      State.homeReg_grants ⟨hdt, hbt⟩ (State.home?_setHome _ _ _) hr (State.clearOwners_of_free (State.home?_setHome _ _ _) rfl (by simp [e']))
    refine congrArg _ (State.retryHome_registration (by simpa using hp) ((State.drop_flipping s k line).trans hf)
      ((State.drop_ctlBusy s k line).trans hcb) ?_ hat)
    exact State.locked_of_idle (e := e') (State.home?_setHome _ _ _) rfl rfl
  case reclaimed =>
    intro s k c line w v va dst e h hw hp he hr ho hrc hl
    have he' : (s.drop k).home? line = some e := by simpa using he
    rw [exec_recallAnswer none h, State.recalled_last he' ho hrc, Nat.zero_testBit, if_neg (by simp), State.drain_nil,
      State.freeEntry_of_done (State.home?_setHome _ _ _) (by exact hr) rfl rfl (by exact hl),
      State.retryHome_of_parked_nil (by simpa using hp)]
    exact ⟨_, rfl, by simp [State.home?], by simp [State.setHome]⟩

/-! ## Writebacks (R94, R95) -/

/-- Giving up a word leaves the buffers and the count of accesses. -/
@[simp] theorem L1.unregister_wb (l : L1) (line w : Nat) : (l.unregister line w).wb = l.wb := by
  unfold L1.unregister
  split <;> [split; skip] <;> rfl
@[simp] theorem L1.unregister_clock (l : L1) (line w : Nat) : (l.unregister line w).clock = l.clock := by
  unfold L1.unregister
  split <;> [split; skip] <;> rfl

/-- WRITEBACK in a line that is free for it: the home looks at it at once. -/
theorem exec_writeback {s t : State} {k c line id ver : Nat} {vas : Tbl Nat} {words : List (Nat × Nat × Bool)} {dst : Endpoint}
    (h : Delivers s k (.core c) dst (.wback id line ver vas words)) (hf : s.flipping line = false) (hl : s.locked line = false)
    (hb : s.ctlBusy line = false) (hp : s.parked = [])
    (ht : ∀ pl, (s.drop k).homeWb ⟨.core c, dst, pl, .wback id line ver vas words⟩ c id line ver vas words = (t, none)) (htp : t.parked = []) :
    exec (.writeback k) s = .next t := by
  refine packetStep_delivers h rfl fun pl => ?_
  have hat : (s.drop k).homeAttempt ⟨.core c, dst, pl, .wback id line ver vas words⟩ = (t, none) := ht pl
  simp only
  rw [State.homeArrive_try (line := line) rfl (by simpa using hf) (by simpa using hl) (by simpa using hb) (by simpa using hp),
    State.homeTry_done hat, State.retryHome_of_parked_nil htp]

/-- A writeback without an entry is acknowledged. -/
theorem State.homeWb_of_none {s : State} {p : Packet} {c id line ver : Nat} {vas : Tbl Nat} {words : List (Nat × Nat × Bool)}
    (he : s.home? line = none) : s.homeWb p c id line ver vas words = (s.send p.dst p.src .reply (.wbackAck id), none) := by
  simp [State.homeWb, he]

@[simp] theorem State.home?_send (s : State) (src dst : Endpoint) (pl : Plane) (b : Body) (line : Nat) :
    (s.send src dst pl b).home? line = s.home? line := rfl

/-- R94, R95: writebacks, and what is sent again. -/
theorem writebacks : Writebacks := by
  refine ⟨?word, ?none, ?resend, ?given, ?ack⟩
  case word =>
    intro s k c line id ver w v vas d dst e h hw hf hl hb hp he hr late resent
    have he' : (s.drop k).home? line = some e := by simpa using he
    refine ⟨fun hv ho hbad => ?_, fun ho => ?_, fun ho hv => ?_⟩
    · refine exec_writeback h hf hl hb hp (fun pl => ?_) ?_
      · cases d
        · simp [State.homeWb, he', hv, ho, State.freeEntry, hr, late, resent]
        · simp [State.homeWb, he', hv, ho, State.drain_one hw, hbad, State.freeEntry, hr, late, resent]
      · cases d <;> simpa using hp
    · refine exec_writeback h hf hl hb hp (fun pl => ?_) (by simpa using hp)
      by_cases hv : ver = e.ver
      · simp [State.homeWb, he', hv, ho, State.freeEntry, hr, late, resent]
      · simp [State.homeWb, he', hv, ho, State.freeEntry, hr, late, resent]
    · refine exec_writeback h hf hl hb hp (fun pl => ?_) (by simpa using hp)
      simp [State.homeWb, he', hv, ho, State.freeEntry, hr, late, resent]
  case none =>
    intro s k c line id ver vas words dst h hf hl hb hp he
    exact exec_writeback h hf hl hb hp (fun pl => State.homeWb_of_none (by simpa using he)) (by simpa using hp)
  case resend =>
    intro s k c line ver w src x h hw hx hr ho b
    refine packetStep_delivers h rfl fun pl => ?_
    simp [maskList_two_pow hw, L1.value?_of_registered hx hr, L1.recallWords_of_registered hx hr, State.askAgain_of_performed, ho,
      State.sendWb, L1Line.shown, State.onL1, State.onCore, b]
  case given =>
    intro s k c line ver w src h hw hv
    refine packetStep_delivers h rfl fun pl => ?_
    simp [maskList_two_pow hw, hv]
  case ack =>
    intro s k c id src h
    exact packetStep_delivers h rfl fun pl => rfl

/-- Settles O46: the home's answers by what stands in a request's way, the L1's by where it holds the word. -/
theorem registration : Obligations.Registration := ⟨registrationAtHome, grantAtL1, recallAndAnswer, writebacks⟩

end Sys2Proof.Machine

/-! PROOFS. Second-touch filters (R35, R36). -/

namespace Sys2Proof.Machine

@[simp] theorem State.drop_countsMiss (s : State) (k line : Nat) : (s.drop k).countsMiss line = s.countsMiss line :=
  s.drop_frame (·.countsMiss line) (fun _ _ _ => rfl) k
@[simp] theorem State.drop_swapsFilter (s : State) (k line : Nat) : (s.drop k).swapsFilter line = s.swapsFilter line :=
  s.drop_frame (·.swapsFilter line) (fun _ _ _ => rfl) k

/-- A counted miss is a read of an absent line of HBM (R36). -/
theorem State.countsMiss_iff {s : State} {line : Nat} : s.countsMiss line = true ↔
    line * 256 < Config.hbmSize ∧ s.present line = false ∧
      ((s.ctl (controllerOf (line * 256))).any fun r => r.origin == .fetch line) = false := by
  simp only [State.countsMiss, Bool.and_eq_true, decide_eq_true_eq, Bool.not_eq_true']
  exact and_assoc

/-- A filter with a line's bits set (R35). -/
def filterMark (f : Tbl Bool) (line : Nat) : Tbl Bool := (filterBits line).foldl (fun t i => Tbl.put false t i true) f

/-- Setting bits of a filter sets them, and clears none. -/
theorem getD_foldl_put_true (l : List Nat) (f : Tbl Bool) {i : Nat} (h : i ∈ l ∨ Tbl.getD f i false = true) :
    Tbl.getD (l.foldl (fun t i => Tbl.put false t i true) f) i false = true := by
  induction l generalizing f with
  | nil => simpa using h
  | cons a l ih =>
    refine ih _ ?_
    rcases eq_or_ne i a with rfl | hne
    · exact Or.inr (Tbl.getD_put_self false f i true)
    · rw [Tbl.getD_put_ne false f true hne]
      exact h.imp_left fun hm => (List.mem_cons.mp hm).resolve_left hne

/-- A filter remembers the line that was marked in it. -/
theorem filterTest_filterMark (f : Tbl Bool) (line : Nat) : filterTest (filterMark f line) line = true :=
  List.all_eq_true.mpr fun _ hi => getD_foldl_put_true _ f (Or.inl hi)

/-- The slice after a counted miss, before the count (R35, R36): the line is allocated when the filters remember it, or is remembered. -/
def Slice.touched (x : Slice) (line : Nat) : Slice :=
  if filterTest x.filterA line || filterTest x.filterB line then
    x.holding line
  else if x.activeB then { x with filterB := filterMark x.filterB line } else { x with filterA := filterMark x.filterA line }

/-- The filters are swapped: the newly active one starts empty (R35). -/
def Slice.swapped (x : Slice) : Slice :=
  if x.activeB then { x with filterA := [], activeB := false, missCount := 0 } else { x with filterB := [], activeB := true, missCount := 0 }

/-- The count of misses goes on, or the filters are swapped (R35). -/
def Slice.counted (x : Slice) : Slice :=
  if x.missCount + 1 = Config.filterPeriod then x.swapped else { x with missCount := x.missCount + 1 }

/-- The state of a counted miss before the count. -/
def State.touch (s : State) (line : Nat) : State :=
  let h := homeOfLine line
  let t := s.event (unitSlice h) 0x10
  if filterTest (s.slice h).filterA line || filterTest (s.slice h).filterB line then (t.event (unitSlice h) 0x11).allocate line
  else (t.setSlice h ((s.slice h).touched line)).fetchLine line

/-- Touching a line fetches it, and touches it in its slice. -/
theorem State.touch_spec {s : State} {line : Nat} (h : s.countsMiss line = true) :
    FetchUnderWay (s.touch line) line ∧ (s.touch line).slice (homeOfLine line) = (s.slice (homeOfLine line)).touched line := by
  obtain ⟨hl, hp, -⟩ := State.countsMiss_iff.mp h
  by_cases hit : (filterTest (s.slice (homeOfLine line)).filterA line || filterTest (s.slice (homeOfLine line)).filterB line) = true
  · have hp' : ((s.event (unitSlice (homeOfLine line)) 0x10).event (unitSlice (homeOfLine line)) 0x11).present line = false := hp
    rw [State.touch, if_pos hit, Slice.touched, if_pos hit]
    exact ⟨State.fetchUnderWay_allocate hp' hl, by simp [State.allocate_of_absent hp']⟩
  · rw [State.touch, if_neg hit]
    exact ⟨State.fetchUnderWay_fetchLine hl, by simp⟩

/-- The count of a slice, in the state. -/
theorem State.setSlice_counted (t : State) (h : Nat) : t.setSlice h (t.slice h).counted =
    if (t.slice h).missCount + 1 = Config.filterPeriod then t.setSlice h (t.slice h).swapped
    else t.setSlice h { t.slice h with missCount := (t.slice h).missCount + 1 } :=
  apply_ite (t.setSlice h) _ _ _

/-- A counted miss touches the line, and is counted in its slice. -/
theorem State.countMiss_of_counts {s : State} {line : Nat} (h : s.countsMiss line = true) :
    s.countMiss line = (s.touch line).setSlice (homeOfLine line) ((s.touch line).slice (homeOfLine line)).counted := by
  obtain ⟨hl, hp, -⟩ := State.countsMiss_iff.mp h
  rw [State.countMiss, if_neg (Nat.not_le.mpr hl), if_neg (by simp [h])]
  by_cases hit : (filterTest (s.slice (homeOfLine line)).filterA line || filterTest (s.slice (homeOfLine line)).filterB line) = true
  · rw [State.touch, if_pos hit, State.setSlice_counted]
    simp only [hit, if_true]
    rfl
  · rw [State.touch, if_neg hit, State.setSlice_counted, Slice.touched, if_neg hit]
    simp only [hit, Bool.false_eq_true, if_false]
    rfl

/-- A counted miss fetches the line. -/
theorem State.fetchUnderWay_countMiss {s : State} {line : Nat} (h : s.countsMiss line = true) : FetchUnderWay (s.countMiss line) line :=
  State.countMiss_of_counts h ▸ (State.touch_spec h).1

/-- What a counted miss leaves of the slice. -/
theorem State.slice_countMiss {s : State} {line : Nat} (h : s.countsMiss line = true) :
    (s.countMiss line).slice (homeOfLine line) = ((s.slice (homeOfLine line)).touched line).counted := by
  rw [State.countMiss_of_counts h, State.slice_setSlice, (State.touch_spec h).2]

/-- A read that is no counted miss of HBM counts nothing. -/
theorem State.countMiss_of_not {s : State} {line : Nat} (h : s.countsMiss line = false) (hl : line * 256 < Config.hbmSize) :
    s.countMiss line = s := by
  rw [State.countMiss, if_neg (Nat.not_le.mpr hl), if_pos (by simp [h])]

@[simp] theorem Slice.touched_missCount (x : Slice) (line : Nat) : (x.touched line).missCount = x.missCount := by
  unfold Slice.touched
  split <;> [skip; split] <;> rfl
@[simp] theorem Slice.touched_activeB (x : Slice) (line : Nat) : (x.touched line).activeB = x.activeB := by
  unfold Slice.touched
  split <;> [skip; split] <;> rfl

/-- R35, R36: the filters and the count of misses. -/
theorem secondTouch : SecondTouch := by
  refine ⟨?counts, ?swaps, fun s line h hl => State.countMiss_of_not h hl, fun s line h => if_pos h⟩
  case counts =>
    intro s line hc hs x y
    have hn : ¬ (x.touched line).missCount + 1 = Config.filterPeriod := by simpa [State.swapsFilter, hc] using hs
    have hy : y = { x.touched line with missCount := x.missCount + 1 } := by
      rw [show y = _ from State.slice_countMiss hc, Slice.counted, if_neg hn, Slice.touched_missCount]
    refine ⟨by rw [hy], by simp [hy], fun hit => ?_, fun ha hb => ?_, State.fetchUnderWay_countMiss hc⟩
    · simp [hy, Slice.touched, hit, Slice.holding]
    · cases hab : x.activeB <;> simp [hy, Slice.touched, ha, hb, hab, filterTest_filterMark]
  case swaps =>
    intro s line hs x y
    obtain ⟨hc, hm⟩ : s.countsMiss line = true ∧ x.missCount + 1 = Config.filterPeriod := by
      simpa [State.swapsFilter] using hs
    have hy : y = _ := State.slice_countMiss hc
    refine ⟨Nat.succ_injective hm, ?_⟩
    rw [hy, Slice.counted, Slice.touched_missCount, if_pos hm, Slice.swapped, Slice.touched_activeB]
    cases hab : x.activeB <;> simp

end Sys2Proof.Machine

/-! PROOFS. Sector requests, forwards and fills (R35, R92). -/

namespace Sys2Proof.Machine

/-- A read of a sound granule meets no error. -/
theorem State.detect_of_sound {s : State} {g : Nat} (h : s.bad g = false) : s.detect g = s := by
  have hl : Tbl.getD s.latent g false = false := (Bool.or_eq_false_iff.mp h).2
  simp [State.detect, hl]

/-- A load leaves the host state of a sector in device bias. -/
theorem State.markRead_of_device {s : State} {g : Nat} (h : s.hostLine (g * 64) = false) (c : Nat) : s.markRead g c = s := by
  simp [State.markRead, h]

/-- A fold whose steps change nothing. -/
theorem foldl_id {σ α : Type} {f : σ → α → σ} {l : List α} {s : σ} (h : ∀ a ∈ l, f s a = s) : l.foldl f s = s := by
  induction l with
  | nil => rfl
  | cons a l ih => rw [List.foldl_cons, h a (by simp), ih fun b hb => h b (by simp [hb])]

/-- The words of the sectors of a mask are words of a line in those sectors. -/
theorem mem_wordsOf {sectors w : Nat} : w ∈ wordsOf sectors ↔ w < 64 ∧ sectors.testBit (w / 16) = true := by
  simp only [wordsOf, List.mem_flatMap, mem_maskList, rangeFrom, List.mem_map, List.mem_range]
  constructor
  · rintro ⟨k, ⟨hk, hs⟩, i, hi, rfl⟩
    have : (16 * k + i) / 16 = k := by omega
    exact ⟨by omega, by rwa [this]⟩
  · rintro ⟨hw, hs⟩
    exact ⟨w / 16, ⟨by omega, hs⟩, w % 16, by omega, by omega⟩

/-- The registered words of a sector request. -/
def State.ownedOf (s : State) (line sectors : Nat) : List Nat :=
  match s.home? line with
  | none => []
  | some e => (wordsOf sectors).filter fun w => (Tbl.find? e.owner w).isSome

/-- A listed key. -/
theorem Tbl.mem_of_find? {α : Type} {t : Tbl α} {k : Nat} {v : α} (h : t.find? k = some v) : (k, v) ∈ t := by
  induction t with
  | nil => simp [Tbl.find?] at h
  | cons e r ih =>
    unfold Tbl.find? at h
    split at h
    · next he =>
      obtain rfl : e.2 = v := by simpa using h
      simp [← he]
    · exact List.mem_cons_of_mem _ (ih h)

/-- A sector request of sound sectors in device bias is answered when the values of their registered words have come (R92). -/
theorem State.homeMiss_fills {s : State} {p : Packet} {c line sectors id : Nat} {got : List (Nat × Nat)} {asked : Bool}
    (h : DeviceSound s line) (ho : asked = true ∨ s.ownedOf line sectors = [])
    (hg : ∀ w ∈ s.ownedOf line sectors, (got.any (·.1 == w)) = true) :
    s.homeMiss p c line sectors id got asked = (s.send p.dst p.src .reply (.fill line sectors id 0
      ((wordsOf sectors).map fun w => (w, (Tbl.find? got w).getD (s.homeNum (line * 256 + 4 * w) 4)))), none) := by
  have hd : ∀ k ∈ maskList 4 sectors, s.hostLine ((line * 4 + k) * 64) = false := fun k hk => h.device k (mem_maskList.mp hk).1
  have hs : ∀ k ∈ maskList 4 sectors, s.bad (line * 4 + k) = false := fun k hk => h.sound k (mem_maskList.mp hk).1
  have hdet : (maskList 4 sectors).foldl (fun s k => s.detect (line * 4 + k)) s = s :=
    foldl_id fun k hk => State.detect_of_sound (hs k hk)
  have hmark : (maskList 4 sectors).foldl (fun s k => s.markRead (line * 4 + k) c) s = s :=
    foldl_id fun k hk => State.markRead_of_device (hd k hk) c
  have hpsn : ∀ f : Nat → Bool, (maskList 4 sectors).filter (fun k => s.bad (line * 4 + k) && f k) = [] := fun f =>
    List.filter_eq_nil_iff.mpr fun k hk => by simp [hs k hk]
  unfold State.homeMiss
  rw [State.needSectors_of_device hd]
  simp only [hdet, hmark, hpsn, Bool.not_true, Bool.false_eq_true, if_false]
  change (if !asked && !(s.ownedOf line sectors).isEmpty then _ else if !((s.ownedOf line sectors).all _) then _ else _) = _
  rw [if_neg, if_neg]
  · rfl
  · simpa using hg
  · rcases ho with rfl | ho <;> simp [*]

/-- The registered words of a line with one registered word. -/
theorem State.mem_ownedOf_one {s : State} {line sectors w d i : Nat} {e : HomeLine} (he : s.home? line = some e) (ho : e.owner = [(w, d)]) :
    i ∈ s.ownedOf line sectors ↔ i = w ∧ i ∈ wordsOf sectors := by
  by_cases hi : w = i <;> simp [State.ownedOf, he, ho, Tbl.find?, hi, eq_comm, and_comm]

/-- The answer of the one registrant of a line's words has come (R92). -/
theorem State.homeMiss_fills_one {s : State} {p : Packet} {c d line sectors id w v : Nat} {e : HomeLine} {num : Nat → Nat}
    (h : DeviceSound s line) (he : s.home? line = some e) (ho : e.owner = [(w, d)])
    (hn : ∀ i, s.homeNum (line * 256 + 4 * i) 4 = num i) :
    s.homeMiss p c line sectors id [(w, v)] true = (s.send p.dst p.src .reply (.fill line sectors id 0
      ((wordsOf sectors).map fun i => (i, if i = w then v else num i))), none) := by
  have hval : ∀ i, (Tbl.find? [(w, v)] i).getD (s.homeNum (line * 256 + 4 * i) 4) = if i = w then v else num i := fun i => by
    by_cases hi : w = i <;> simp [Tbl.find?, hi, hn, eq_comm]
  refine (State.homeMiss_fills h (Or.inl rfl) fun i hi => ?_).trans ?_
  · simp [((State.mem_ownedOf_one he ho).mp hi).1]
  · simp only [hval]

/-- A sector request meets one registered word: it is forwarded to the registrant, and waits (R92). -/
theorem State.homeMiss_forwards {s : State} {p : Packet} {c d line sectors id w : Nat} {e : HomeLine} (h : DeviceSound s line)
    (he : s.home? line = some e) (ho : e.owner = [(w, d)]) (hw : w ∈ wordsOf sectors) :
    s.homeMiss p c line sectors id [] false = (s.send p.dst (.core d) .request (.fwdReq line (2 ^ w)),
      some { p with body := .missReq line sectors id [] true }) := by
  have hd : ∀ k ∈ maskList 4 sectors, s.hostLine ((line * 4 + k) * 64) = false := fun k hk => h.device k (mem_maskList.mp hk).1
  have hmem : w ∈ s.ownedOf line sectors := (State.mem_ownedOf_one he ho).mpr ⟨rfl, hw⟩
  have howners : e.owners ((s.ownedOf line sectors).foldl maskSet 0) = [(d, 2 ^ w)] := by
    have : ((s.ownedOf line sectors).foldl maskSet 0).testBit w = true := (testBit_foldl_maskSet _ _ _).mpr (Or.inr hmem)
    simp [HomeLine.owners, ho, this, Tbl.insert, Tbl.getD, Tbl.find?]
  unfold State.homeMiss
  rw [State.needSectors_of_device hd]
  simp only [he, Bool.not_true, Bool.false_eq_true, if_false, Bool.not_false, Bool.true_and]
  have hown : s.ownedOf line sectors = (wordsOf sectors).filter fun w => (Tbl.find? e.owner w).isSome := by
    rw [State.ownedOf, he]
  change (if !((wordsOf sectors).filter fun w => (Tbl.find? e.owner w).isSome).isEmpty then
    ((e.owners (((wordsOf sectors).filter fun w => (Tbl.find? e.owner w).isSome).foldl maskSet 0)).foldl _ s, _) else _) = _
  rw [← hown, howners, if_pos]
  · rfl
  · simpa using List.ne_nil_of_mem hmem

/-- A line that the slice holds counts no miss. -/
theorem State.countMiss_of_present {s : State} {line : Nat} (h : s.present line = true) : s.countMiss line = s := by
  by_cases hl : line * 256 < Config.hbmSize
  · exact State.countMiss_of_not (by simp [State.countsMiss, h]) hl
  · rw [State.countMiss, if_pos (Nat.not_lt.mp hl), State.allocate_of_present h]

/-- Nor does it swap the filters. -/
theorem State.swapsFilter_of_present {s : State} {line : Nat} (h : s.present line = true) : s.swapsFilter line = false := by
  simp [State.swapsFilter, State.countsMiss, h]

/-- The row of a sector request: LOAD_MISS_REQUEST, or FILTER_SWAP for the one whose miss swaps the filters (R35). -/
theorem exec_missRequest {s : State} {k line sectors id : Nat} {got : List (Nat × Nat)} {asked : Bool} {p : Packet}
    (hp : s.packet? k = some p) (hb : p.body = .missReq line sectors id got asked) :
    let t := ((s.drop k).countMiss line).homeArrive p
    (s.swapsFilter line = false → exec (.loadMissRequest k) s = .next t ∧ exec (.filterSwap k) s = .next s) ∧
    (s.swapsFilter line = true → exec (.filterSwap k) s = .next t ∧ exec (.loadMissRequest k) s = .next s) := by
  intro t
  have hp' : p.body.atPort = false := by rw [hb]; rfl
  refine ⟨fun h => ⟨packetStep_takes hp hp' ?_, packetStep_no _ hp ?_⟩, fun h => ⟨packetStep_takes hp hp' ?_, packetStep_no _ hp ?_⟩⟩
  all_goals simp [hb, h, t]

/-- A sector request in a free line is handled at once. -/
theorem HomeFree.exec_loadMissRequest {s : State} {k line sectors id : Nat} {got : List (Nat × Nat)} {asked : Bool} {p : Packet}
    (h : HomeFree s line) (hp : s.packet? k = some p) (hb : p.body = .missReq line sectors id got asked) :
    exec (.loadMissRequest k) s = .next ((s.drop k).homeTry p) ∧ exec (.filterSwap k) s = .next s := by
  have hd := h.drop k
  have := (exec_missRequest hp hb).1 (State.swapsFilter_of_present h.here)
  rwa [State.countMiss_of_present hd.here, State.homeArrive_try (line := line) (by rw [hb]; rfl) hd.service hd.unlocked hd.idle hd.quiet] at this

/-- The sector request that waits at a home alone for its forwards is handled when they are answered. -/
theorem State.retryHome_missRequest {s t : State} {line sectors id : Nat} {got : List (Nat × Nat)} {src dst : Endpoint} {pl : Plane}
    (hp : s.parked = [{ pkt := ⟨src, dst, pl, .missReq line sectors id got true⟩, bucket := none }]) (hf : s.flipping line = false)
    (ht : ({ s with parked := [] } : State).homeAttempt ⟨src, dst, pl, .missReq line sectors id got true⟩ = (t, none)) :
    s.retryHome (homeOfLine line) = t := by
  have hf' : ({ s with parked := [] } : State).flipping line = false := hf
  simp [State.retryHome, hp, retryOne, Body.line?, hf', ht]

@[simp] theorem L1Line.merge_sv (x : L1Line) (w v : Nat) : (x.merge w v).sv = x.sv :=
  foldl_frame (f := L1Line.mergeByte w v) L1Line.sv (fun x i => by unfold L1Line.mergeByte; split <;> rfl) _ x
@[simp] theorem L1Line.merge_psn (x : L1Line) (w v : Nat) : (x.merge w v).psn = x.psn :=
  foldl_frame (f := L1Line.mergeByte w v) L1Line.psn (fun x i => by unfold L1Line.mergeByte; split <;> rfl) _ x

/-- An L1 that waits for the sectors of a request no more. -/
def L1.answered (l : L1) (line id : Nat) : L1 := { l with missing := l.missing.filter fun m => !(m.1 == line && m.2.2 == id) }

@[simp] theorem L1.line?_answered (l : L1) (line id a : Nat) : (l.answered line id).line? a = l.line? a := rfl

/-- Settles O47: the filters first; then the home's answer by what the line's registrants hold, and the L1's part. -/
theorem sectorRequests : Obligations.SectorRequests := by
  refine ⟨secondTouch, ?home, ?fetched, ?forwarded, ?registrant, ?answered, ?fill, ?dropped⟩
  case home =>
    rintro s k c line sectors id dst ⟨pl, hp⟩ hf ho
    have hown : (s.drop k).ownedOf line sectors = [] := by
      refine List.eq_nil_iff_forall_not_mem.mpr fun w hw => ?_
      cases he : s.home? line with
      | none => simp [State.ownedOf, he] at hw
      | some e =>
        obtain ⟨hw, hs⟩ : w ∈ wordsOf sectors ∧ (Tbl.find? e.owner w).isSome = true := by simpa [State.ownedOf, he] using hw
        obtain ⟨d, hd⟩ := Option.isSome_iff_exists.mp hs
        have := ho e he _ (Tbl.mem_of_find? hd)
        simp [(mem_wordsOf.mp hw).2] at this
    obtain ⟨he, hs⟩ := hf.exec_loadMissRequest hp rfl
    refine ⟨he.trans (congrArg _ (State.homeTry_done ?_)), hs⟩
    refine (State.homeMiss_fills (hf.drop k).deviceSound (Or.inr hown) (by simp [hown])).trans ?_
    simp [Tbl.find?]
  case fetched =>
    rintro s k c line sectors id dst got asked ⟨pl, hp⟩ hc
    refine ⟨_, hp, ?_⟩
    have hbusy : ((s.drop k).countMiss line).ctlBusy line = true := by
      cases hm : s.countsMiss line with
      | true =>
        have hm' : (s.drop k).countsMiss line = true := by simpa using hm
        exact (State.fetchUnderWay_countMiss hm').ctlBusy (State.countsMiss_iff.mp hm').1
      | false =>
        obtain ⟨-, hb⟩ := hc.resolve_left (by simp [hm])
        have hl : line * 256 < Config.hbmSize := of_decide_eq_true (Bool.and_eq_true_iff.mp hb).1
        rw [State.countMiss_of_not (by simpa using hm) hl]
        simpa using hb
    have hpark : ((s.drop k).countMiss line).homeArrive ⟨.core c, dst, pl, .missReq line sectors id got asked⟩ =
        ((s.drop k).countMiss line).park ⟨.core c, dst, pl, .missReq line sectors id got asked⟩ := by
      simp [State.homeArrive, Body.line?, State.mustWait, hbusy]
    exact hpark ▸ exec_missRequest hp rfl
  case forwarded =>
    intro s k c d line sectors id w dst pl e hp hf he ho hw hs
    rw [(hf.exec_loadMissRequest hp rfl).1]
    refine congrArg _ (State.homeTry_parks ?_)
    exact State.homeMiss_forwards (hf.drop k).deviceSound (by simpa using he) ho (mem_wordsOf.mpr ⟨hw, hs⟩)
  case registrant =>
    intro s k c line mask src h
    refine ⟨fun hw => ?_, fun w hw ha => ?_⟩
    · refine waitingStep_delivers h rfl fun pl => ?_
      have hna : ((maskList 64 mask).any fun w => ((s.drop k).core c).l1.awaits line w) = false := by
        simpa using fun w hm => (hw w hm).1
      simp only [hna, Bool.false_eq_true, if_false]
      refine congrArg (fun l => Take.did ((s.drop k).send (.core c) src .reply (.fwdAns line l))) (List.map_congr_left fun w hm => ?_)
      obtain ⟨v, hv⟩ := Option.isSome_iff_exists.mp (hw w hm).2
      simp [hv]
    · refine waitingStep_heldBack h fun pl => ?_
      simp only [State.drop_core]
      exact if_pos (List.any_eq_true.mpr ⟨w, hw, ha⟩)
  case answered =>
    intro s k c d line sectors id w v dst dst' pl e h hw he ho hd hb hf hp
    refine packetStep_delivers h rfl fun pl' => congrArg some ?_
    refine State.retryHome_missRequest (src := .core c) (dst := dst') (pl := pl) (sectors := sectors) (id := id) (got := [(w, v)])
      (by simp [hp]) ((State.drop_flipping s k line).trans hf) ?_
    have hs : DeviceSound ({ s.drop k with parked := [] } : State) line :=
      ⟨fun j hj => (State.drop_hostLine s k _).trans (hd j hj), fun j hj => (State.drop_bad s k _).trans (hb j hj)⟩
    have he' : ({ s.drop k with parked := [] } : State).home? line = some e := (State.drop_home? s k line).trans he
    exact State.homeMiss_fills_one hs he' ho fun i => State.drop_homeNum s k _ _
  case fill =>
    intro s k c line j id psn vals src x h hj hx hm y
    refine packetStep_delivers h rfl fun pl => ?_
    have hx' : ((s.drop k).core c).l1.line? line = some x := (congrArg (·.l1.line? line) (State.drop_core s k c)).trans hx
    have hwant : (maskList 4 (2 ^ j)).filter (fun i => ((s.drop k).core c).l1.missing.contains (line, i, id)) = [j] := by
      simp [maskList_two_pow hj, hm]
    simp only [hwant]
    change (match (((s.drop k).core c).l1.answered line id).line? line with | none => _ | some x => _) = _
    rw [L1.line?_answered, hx']
    simp only [State.drop_hostState]
    have hy : vals.foldl (fun x v => if [j].contains (v.1 / 16) && !x.reg.testBit v.1 then x.merge v.1 v.2 else x) x = y :=
      List.foldl_ext _ _ x fun z v _ => by simp
    have hsv : y.sv = x.sv := by
      refine foldl_frame L1Line.sv (fun z v => ?_) vals x
      split <;> simp
    have hpsn : y.psn = x.psn := by
      refine foldl_frame L1Line.psn (fun z v => ?_) vals x
      split <;> simp
    simp only [hy, List.foldl_cons, List.foldl_nil, maskSet_zero, hsv, hpsn]
    rfl
  case dropped =>
    intro s k c line sectors id psn vals src h hx
    refine packetStep_delivers h rfl fun pl => ?_
    have hx' : ((s.drop k).core c).l1.line? line = none := (congrArg (·.l1.line? line) (State.drop_core s k c)).trans hx
    change (match (((s.drop k).core c).l1.answered line id).line? line with | none => _ | some x => _) = _
    rw [L1.line?_answered, hx']
    rfl

end Sys2Proof.Machine

/-! PROOFS. Recalls by engines (R71, R93). -/

namespace Sys2Proof.Machine

/-- A property that every step of a fold keeps holds after it. -/
theorem foldl_keeps {σ α : Type} {f : σ → α → σ} {P : σ → Prop} {l : List α} (h : ∀ s, ∀ a ∈ l, P s → P (f s a)) {s : σ} (hs : P s) :
    P (l.foldl f s) :=
  List.foldlRecOn l f hs fun _ hb a ha => h _ a ha hb

/-- A property that one step of a fold brings about, and every step keeps, holds after it. -/
theorem foldl_reaches {σ α : Type} {f : σ → α → σ} {P : σ → Prop} {l : List α} {a : α} (ha : a ∈ l) (hf : ∀ s, P (f s a))
    (h : ∀ s, ∀ b ∈ l, P s → P (f s b)) (s : σ) : P (l.foldl f s) := by
  induction l generalizing s with
  | nil => simp at ha
  | cons b l ih =>
    rw [List.foldl_cons]
    rcases List.mem_cons.mp ha with rfl | ha
    · exact foldl_keeps (fun s b hb => h s b (by simp [hb])) (hf s)
    · exact ih ha (fun s b hb => h s b (by simp [hb])) _

/-! ## What recalls may change -/

/-- `t` is what steps of recalls may make of `s`: the L1s and pending traps, the homes' values and registries, poison, packets, counts
and machine checks change alone; no sound granule is lost, and no word gets a registrant. -/
structure Recalls (s t : State) : Prop where
  frame : t = { s with cores := t.cores, mem := t.mem, poison := t.poison, latent := t.latent, homeLines := t.homeLines, net := t.net,
                       monitors := t.monitors, checks := t.checks }
  sound : ∀ g, s.bad g = false → t.bad g = false
  owner : ∀ line e, t.home? line = some e → ∃ e', s.home? line = some e' ∧ ∀ o ∈ e.owner, o ∈ e'.owner

theorem Recalls.refl (s : State) : Recalls s s := ⟨rfl, fun _ h => h, fun _ e h => ⟨e, h, fun _ h => h⟩⟩

theorem Recalls.trans {s t u : State} (h : Recalls s t) (k : Recalls t u) : Recalls s u where
  frame := k.frame.trans (by rw [h.frame])
  sound g hg := k.sound g (h.sound g hg)
  owner line e he := by
    obtain ⟨e', he', ho⟩ := k.owner line e he
    obtain ⟨e'', he'', ho'⟩ := h.owner line e' he'
    exact ⟨e'', he'', fun o hm => ho' o (ho o hm)⟩

/-- A fold of recalls. -/
theorem Recalls.foldl {α : Type} {f : State → α → State} {l : List α} (h : ∀ s, ∀ a ∈ l, Recalls s (f s a)) (s : State) :
    Recalls s (l.foldl f s) :=
  foldl_keeps (P := Recalls s) (fun t a ha ht => ht.trans (h t a ha)) (Recalls.refl s)

theorem Recalls.setCore (s : State) (c : Nat) (k : Core) : Recalls s (s.setCore c k) :=
  ⟨rfl, fun _ h => h, fun _ e h => ⟨e, h, fun _ h => h⟩⟩

theorem Recalls.send (s : State) (src dst : Endpoint) (pl : Plane) (b : Body) : Recalls s (s.send src dst pl b) :=
  ⟨rfl, fun _ h => h, fun _ e h => ⟨e, h, fun _ h => h⟩⟩

theorem Recalls.event (s : State) (u code : Nat) : Recalls s (s.event u code) :=
  ⟨rfl, fun _ h => h, fun _ e h => ⟨e, h, fun _ h => h⟩⟩

theorem Recalls.writeHome (s : State) (pa : Nat) (bytes : List Byte) : Recalls s (s.writeHome pa bytes) :=
  ⟨rfl, fun _ h => State.bad_writeHome_of_sound h, fun _ e h => ⟨e, h, fun _ h => h⟩⟩

theorem Recalls.tellStores (s : State) (c : Nat) (vas : List Nat) : Recalls s (s.tellStores c vas) :=
  Recalls.foldl (fun t _ _ => Recalls.setCore t c _) s

/-- A granule that is bad already may be lost. -/
theorem Recalls.failGranule {s : State} {g : Nat} (h : s.bad g = true) : Recalls s (s.failGranule g) := by
  refine ⟨rfl, fun g' hg' => ?_, fun _ e h => ⟨e, h, fun _ h => h⟩⟩
  have hne : g' ≠ g := by
    rintro rfl
    simp [h] at hg'
  simpa [State.bad, State.failGranule, State.machineCheck, Tbl.getD_put_ne _ _ _ hne] using hg'

/-- A registry entry that loses registrants. -/
theorem Recalls.setHome {s : State} {line : Nat} {e e' : HomeLine} (he : s.home? line = some e) (ho : ∀ o ∈ e'.owner, o ∈ e.owner) :
    Recalls s (s.setHome line e') := by
  refine ⟨rfl, fun _ h => h, fun a x hx => ?_⟩
  rcases eq_or_ne a line with rfl | hne
  · obtain rfl : e' = x := by simpa using hx
    exact ⟨e, he, ho⟩
  · exact ⟨x, by simpa [State.home?, State.setHome, Tbl.find?_insert_ne _ _ hne] using hx, fun _ h => h⟩

end Sys2Proof.Machine

namespace Sys2Proof

/-- An erased table lists nothing new, and nothing at the key. -/
theorem Tbl.mem_erase {α : Type} {t : Tbl α} {k : Nat} {e : Nat × α} : e ∈ t.erase k ↔ e ∈ t ∧ e.1 ≠ k := by
  induction t with
  | nil => simp [Tbl.erase]
  | cons a r ih =>
    unfold Tbl.erase
    split
    · next h =>
      rw [ih, List.mem_cons]
      constructor
      · exact fun h' => ⟨Or.inr h'.1, h'.2⟩
      · rintro ⟨rfl | hm, hk⟩
        · exact absurd h hk
        · exact ⟨hm, hk⟩
    · next h =>
      rw [List.mem_cons, List.mem_cons, ih]
      constructor
      · rintro (rfl | h')
        · exact ⟨Or.inl rfl, h⟩
        · exact ⟨Or.inr h'.1, h'.2⟩
      · rintro ⟨rfl | hm, hk⟩
        · exact Or.inl rfl
        · exact Or.inr ⟨hm, hk⟩

namespace Machine

/-- Nobody has registered word `w` of a line. -/
def State.Unowned (s : State) (line w : Nat) : Prop := ∀ e, s.home? line = some e → ∀ o ∈ e.owner, o.1 ≠ w

theorem Recalls.unowned {s t : State} {line w : Nat} (h : Recalls s t) (hs : s.Unowned line w) : t.Unowned line w := by
  intro e he o ho
  obtain ⟨e', he', hsub⟩ := h.owner line e he
  exact hs e' he' o (hsub o ho)

/-- The recall of a word at the home is one. -/
theorem Recalls.recalled (s : State) (c line w : Nat) (late : Option Nat) : Recalls s (s.recalled c line w late) := by
  cases he : s.home? line with
  | none => simpa [State.recalled, he] using Recalls.refl s
  | some e =>
    rw [State.recalled_of_some he]
    have h := Recalls.setHome (e' := { e with
      owner := Tbl.erase e.owner w, ver := (e.ver + 1) % 256, recalling := e.recalling.filter (· != w),
      resent := e.resent.filter fun x => !(x.1 == c && x.2.1 == w),
      late := match late with | none => e.late | some lv => if e.resent.contains (c, w, lv) then e.late else e.late ++ [(c, w, lv)] }) he
      fun o ho => (Tbl.mem_erase.mp ho).1
    split
    · exact h.trans (Recalls.event _ _ _)
    · exact h

/-- A recalled word is nobody's. -/
theorem State.unowned_recalled (s : State) (c line w : Nat) (late : Option Nat) : (s.recalled c line w late).Unowned line w := by
  intro e' he' o ho
  cases he : s.home? line with
  | none => simp [State.recalled, he] at he'
  | some e =>
    rw [State.recalled_of_some he] at he'
    have : e'.owner = Tbl.erase e.owner w := by
      cases late <;> simp at he' <;> rw [← he']
    exact (Tbl.mem_erase.mp (this ▸ ho)).2

/-- Dirty words that arrive at the home. -/
theorem Recalls.drainSector (s : State) (c line k : Nat) (ws : List (Nat × Nat × Nat)) : Recalls s (s.drainSector c line k ws) := by
  unfold State.drainSector
  split
  · exact Recalls.refl s
  · split
    · exact Recalls.writeHome s _ _
    · split
      · next h => exact (Recalls.failGranule h).trans (Recalls.tellStores _ _ _)
      · exact Recalls.foldl (fun t w _ => Recalls.writeHome t _ _) s

theorem Recalls.drain (s : State) (c line : Nat) (ws : List (Nat × Nat × Nat)) : Recalls s (s.drain c line ws) :=
  Recalls.foldl (fun t k _ => Recalls.drainSector t c line k _) s

theorem Recalls.askAgain (s : State) (c line : Nat) (ts : List (Nat × Taken)) : Recalls s (s.askAgain c line ts) := by
  unfold State.askAgain
  split
  · exact Recalls.refl s
  · exact Recalls.send s _ _ _ _

/-- What recalls take is one answer for each word. -/
theorem L1.recallWords_fst (l : L1) (line : Nat) (ws : List Nat) : (l.recallWords line ws).1.map (·.1) = ws := by
  induction ws generalizing l with
  | nil => rfl
  | cons w ws ih => simp [L1.recallWords, ih]

/-- An engine's recall of words of one core is one, and leaves the words to nobody. -/
theorem State.pullFrom_spec (s : State) (line c : Nat) (ws : List Nat) :
    Recalls s (s.pullFrom line c ws) ∧ ∀ w ∈ ws, (s.pullFrom line c ws).Unowned line w := by
  have hrest : ∀ t ws' ts, Recalls t ((t.drain c line ws').askAgain c line ts) := fun t ws' ts =>
    (Recalls.drain t c line ws').trans (Recalls.askAgain _ c line ts)
  have hfold : ∀ (ts : List (Nat × Taken)) t, Recalls t (ts.foldl (fun s t => s.recalled c line t.1 t.2.late) t) := fun ts =>
    Recalls.foldl fun t a _ => Recalls.recalled t c line a.1 a.2.late
  refine ⟨((Recalls.setCore s c _).trans (hfold _ _)).trans (hrest _ _ _), fun w hw => (hrest _ _ _).unowned ?_⟩
  rw [← L1.recallWords_fst (s.core c).l1 line ws] at hw
  obtain ⟨a, ha, rfl⟩ := List.mem_map.mp hw
  exact foldl_reaches (P := fun t => t.Unowned line a.1) ha (fun t => State.unowned_recalled t c line a.1 a.2.late)
    (fun t b _ ht => (Recalls.recalled t c line b.1 b.2.late).unowned ht) _

/-- Every registrant of a word of a mask is listed with that word. -/
theorem HomeLine.mem_owners {e : HomeLine} {mask : Nat} {o : Nat × Nat} (ho : o ∈ e.owner) (hm : mask.testBit o.1 = true) :
    ∃ m, (o.2, m) ∈ e.owners mask ∧ m.testBit o.1 = true := by
  suffices h : ∃ m, Tbl.find? (e.owners mask) o.2 = some m ∧ m.testBit o.1 = true by
    obtain ⟨m, hf, hb⟩ := h
    exact ⟨m, Tbl.mem_of_find? hf, hb⟩
  refine foldl_reaches (P := fun t : Tbl Nat => ∃ m, Tbl.find? t o.2 = some m ∧ m.testBit o.1 = true)
    (List.mem_filter.mpr ⟨ho, hm⟩) (fun t => ⟨_, Tbl.find?_insert_self _ _ _, ?_⟩) (fun t b _ ht => ?_) _
  · simp [maskSet]
  · obtain ⟨m, hf, hb⟩ := ht
    rcases eq_or_ne o.2 b.2 with h | h
    · rw [h] at hf ⊢
      exact ⟨_, Tbl.find?_insert_self _ _ _, by simp [maskSet, Tbl.getD, hf, hb]⟩
    · exact ⟨m, by rwa [Tbl.find?_insert_ne _ _ h], hb⟩

/-- An engine's recall of the registrations of a mask is one. -/
theorem Recalls.pull (s : State) (line mask : Nat) : Recalls s (s.pull line mask) := by
  unfold State.pull
  split
  · exact Recalls.refl s
  · exact Recalls.foldl (fun t o _ => (t.pullFrom_spec line o.1 _).1) s

/-- It leaves the words of the mask to nobody. -/
theorem State.unowned_pull (s : State) (line : Nat) {mask w : Nat} (hw : w < 64) (hm : mask.testBit w = true) :
    (s.pull line mask).Unowned line w := by
  intro e he o ho hwo
  obtain ⟨e', he', hsub⟩ := (Recalls.pull s line mask).owner line e he
  obtain ⟨m, hmem, hb⟩ := HomeLine.mem_owners (hsub o ho) (by rwa [hwo])
  have hfold : s.pull line mask = (e'.owners mask).foldl (fun s o => s.pullFrom line o.1 (maskList 64 o.2)) s := by
    simp [State.pull, he']
  have hun : (s.pull line mask).Unowned line w := by
    rw [hfold]
    refine foldl_reaches (P := fun t : State => t.Unowned line w) hmem (fun t => ?_) (fun t b _ ht => (t.pullFrom_spec line b.1 _).1.unowned ht) s
    exact (t.pullFrom_spec line o.2 _).2 w (mem_maskList.mpr ⟨hw, hwo ▸ hb⟩)
  exact hun e he o ho hwo

theorem Recalls.pullBytes (s : State) (pa n : Nat) : Recalls s (s.pullBytes pa n) :=
  Recalls.foldl (fun t line _ => Recalls.pull t line _) s

end Machine
end Sys2Proof

/-! PROOFS. Snoops, exchanges and host accesses (R43, R44, R97, R99, R333). -/

namespace Sys2Proof

/-- A table whose entries are changed in place. -/
theorem Tbl.find?_map {α β : Type} (t : Tbl α) (f : Nat → α → β) (k : Nat) :
    Tbl.find? (t.map fun e => (e.1, f e.1 e.2)) k = (t.find? k).map (f k) := by
  induction t with
  | nil => rfl
  | cons e r ih =>
    by_cases hk : e.1 = k
    · subst hk
      simp [Tbl.find?]
    · simp [Tbl.find?, hk, ih]

namespace Machine

/-! ## Bytes of one line -/

/-- Bytes within one line. -/
theorem linesOf_one {pa n : Nat} (hn : 0 < n) (h : pa % 256 + n ≤ 256) : linesOf pa n = [pa / 256] := by
  have : (pa + n - 1) / 256 + 1 - pa / 256 = 1 := by omega
  rw [linesOf, if_neg (by omega), this]
  rfl

/-- Bytes within one granule. -/
theorem granulesOf_one {pa n : Nat} (hn : 0 < n) (h : pa % 64 + n ≤ 64) : granulesOf pa n = [pa / 64] := by
  have : (pa + n - 1) / 64 + 1 - pa / 64 = 1 := by omega
  rw [granulesOf, if_neg (by omega), this]
  rfl

/-- The words that bytes touch. -/
theorem testBit_wordMask {line pa n w : Nat} : (wordMask line pa n).testBit w = true ↔
    w < 64 ∧ pa < line * 256 + 4 * w + 4 ∧ line * 256 + 4 * w < pa + n := by
  simp [wordMask, testBit_foldl_maskSet]

/-- The words of a sector, recalled, are nobody's. -/
theorem State.unowned_pullSector (s : State) (g : Nat) {w : Nat} (hw : w < 64) (hs : w / 16 = g % 4) :
    (s.pullBytes (g * 64) 64).Unowned (g / 4) w := by
  have hl : g * 64 / 256 = g / 4 := by omega
  rw [State.pullBytes, linesOf_one (by omega) (by omega), hl]
  exact State.unowned_pull s _ hw (testBit_wordMask.mpr ⟨hw, by omega, by omega⟩)

/-! ## L1s that lose sectors -/

/-- A cleared bit is not set. -/
theorem testBit_maskClear_two_pow (m i : Nat) : (maskClear m (2 ^ i)).testBit i = false := by
  rw [maskClear, Nat.and_two_pow]
  cases hb : m.testBit i with
  | false => simp [hb]
  | true =>
    have hle : 2 ^ i * 1 ≤ m := by simpa using Nat.ge_two_pow_of_testBit hb
    have hdiv : (m - 2 ^ i) / 2 ^ i = m / 2 ^ i - 1 := by simpa using Nat.sub_mul_div m (2 ^ i) 1
    rw [Nat.testBit_eq_decide_div_mod_eq, decide_eq_true_eq] at hb
    simp only [Bool.toNat_true, Nat.one_mul, Nat.testBit_eq_decide_div_mod_eq, hdiv, decide_eq_false_iff_not]
    omega

/-- A core after a change of every core in place: a line that it holds is one of the changed core, which the L1 after reset has none of. -/
theorem State.line?_of_mapCores {s : State} {f : Nat → Core → Core} {c line : Nat} {x : L1Line}
    (h : (({ s with cores := s.cores.map fun e => (e.1, f e.1 e.2) } : State).core c).l1.line? line = some x) :
    (f c (s.core c)).l1.line? line = some x := by
  unfold State.core Tbl.getD at h ⊢
  rw [Tbl.find?_map] at h
  cases hf : Tbl.find? s.cores c with
  | none =>
    rw [hf] at h
    exact absurd h (by simp [Core.reset, L1.reset, L1.line?, Tbl.find?])
  | some k => simpa [hf] using h

/-- A line that shows another host state has its sectors as before. -/
theorem L1.sv_of_reflect {l : L1} {line k a : Nat} {st : HostState} {x : L1Line} (h : (l.reflect line k st).line? a = some x) :
    ∃ y, l.line? a = some y ∧ x.sv = y.sv := by
  unfold L1.reflect at h
  split at h
  · exact ⟨x, h, rfl⟩
  · next y hy =>
    rcases eq_or_ne a line with rfl | hne
    · refine ⟨y, hy, ?_⟩
      have : { y with hs := y.hs.set k st } = x := by simpa [L1.line?] using h
      rw [← this]
    · exact ⟨x, by simpa [L1.line?, Tbl.find?_insert_ne _ _ hne] using h, rfl⟩

/-- A line of which sectors are cleared. -/
theorem L1.sv_of_clearSv {l : L1} {line m : Nat} {x : L1Line} (h : (l.clearSv line m).line? line = some x) :
    ∃ y : L1Line, x.sv = maskClear y.sv m := by
  unfold L1.clearSv at h
  simp only at h
  split at h
  · next y hy =>
    have := (L1.line?_setLine _ _ _).symm.trans h
    exact ⟨y, by rw [← Option.some.inj this]⟩
  · next hn => exact absurd (hn.symm.trans h) (by simp)

/-- A sector that some L1s have lost is valid in none of those. -/
theorem State.sv_of_dropSector {s : State} {g c : Nat} {only : Nat → Bool} {st : HostState} {x : L1Line} (hc : only c = true)
    (h : (((s.dropSector g only).setHostState g st).core c).l1.line? (g / 4) = some x) : x.sv.testBit (g % 4) = false := by
  obtain ⟨y, hy, hxy⟩ := L1.sv_of_reflect (State.line?_of_mapCores (f := fun _ k => { k with l1 := k.l1.reflect (g / 4) (g % 4) st }) h)
  have hmap : s.dropSector g only =
      { s with cores := s.cores.map fun e => (e.1, if only e.1 then { e.2 with l1 := e.2.l1.clearSv (g / 4) (2 ^ (g % 4)) } else e.2) } := by
    unfold State.dropSector
    congr 2
    funext e
    split <;> rfl
  rw [hmap] at hy
  have hz := State.line?_of_mapCores (f := fun i k => if only i then { k with l1 := k.l1.clearSv (g / 4) (2 ^ (g % 4)) } else k) hy
  rw [if_pos hc] at hz
  obtain ⟨z, hyz⟩ := L1.sv_of_clearSv hz
  rw [hxy, hyz]
  exact testBit_maskClear_two_pow _ _

/-! ## A snoop (R97) -/

/-- The sector goes back to the host, and the L1s that `only` selects lose it. -/
def State.snooped (s : State) (g : Nat) (only : Nat → Bool) (st : HostState) : State :=
  (((s.pullBytes (g * 64) 64).sectorBack g).dropSector g only).setHostState g st

@[simp] theorem State.hostState_snooped (s : State) (g : Nat) (only : Nat → Bool) (st : HostState) :
    (s.snooped g only st).hostState g = st := by
  simp [State.snooped, State.setHostState, State.hostState]

/-- Other sectors keep their host state. -/
theorem State.hostState_snooped_ne (s : State) {g a : Nat} (only : Nat → Bool) (st : HostState) (h : a ≠ g) :
    (s.snooped g only st).hostState a = s.hostState a := by
  have hback : ((s.pullBytes (g * 64) 64).sectorBack g).hostSectors = s.hostSectors := by
    have hp : (s.pullBytes (g * 64) 64).hostSectors = s.hostSectors := by rw [(Recalls.pullBytes s (g * 64) 64).frame]
    unfold State.sectorBack
    split <;> exact hp
  simp [State.snooped, State.setHostState, State.hostState, State.dropSector, Tbl.getD_put_ne _ _ _ h, hback]

theorem State.home?_sectorBack (s : State) (g line : Nat) : (s.sectorBack g).home? line = s.home? line := by
  unfold State.sectorBack
  split <;> rfl

/-- No word of a snooped sector is registered, and a host-tier sector is back whole. -/
theorem State.givenBack_snooped (s : State) (g : Nat) (only : Nat → Bool) (st : HostState) : GivenBack s (s.snooped g only st) g := by
  refine ⟨fun e o he ho hw hs => ?_, fun hg i hi => ?_⟩
  · have he' : (s.pullBytes (g * 64) 64).home? (g / 4) = some e := (State.home?_sectorBack _ g _).symm.trans he
    exact State.unowned_pullSector s g hw hs e he' o ho rfl
  · have hmem : (s.snooped g only st).hostMem =
        (s.pullBytes (g * 64) 64).hostMem.writeN ((s.pullBytes (g * 64) 64).hostPa (g * 64)) ((s.pullBytes (g * 64) 64).bytesNow (g * 64) 64) := by
      change ((s.pullBytes (g * 64) 64).sectorBack g).hostMem = _
      rw [State.sectorBack, if_pos hg]
    have hpa : (s.pullBytes (g * 64) 64).hostPa (g * 64) = s.hostPa (g * 64) := by
      unfold State.hostPa
      rw [(Recalls.pullBytes s (g * 64) 64).frame]
    rw [hmem, hpa, Memory.read_writeN_in _ _ _ (by simpa [State.bytesNow, rangeFrom] using hi)]
    simp [State.bytesNow, rangeFrom, hi]

/-- A snoop of a sector that the device has nothing of, or that cannot be served now, or that asks for nothing, changes nothing. -/
theorem execHostSnoopOwnership_none {s : State} {pa : Nat} (h : s.snoopable (pa / 64) = false ∨ s.hostState (pa / 64) = .i) :
    execHostSnoopOwnership pa s = .next s := by
  unfold execHostSnoopOwnership
  exact if_pos (by simpa using h)

theorem execHostSnoopOwnership_some {s : State} {pa : Nat} (hs : s.snoopable (pa / 64) = true) (hi : s.hostState (pa / 64) ≠ .i) :
    execHostSnoopOwnership pa s = .next (s.snooped (pa / 64) (fun _ => true) .i) := by
  unfold execHostSnoopOwnership
  exact if_neg (by simp [hs, hi])

theorem execHostSnoopSharing_none {s : State} {pa : Nat}
    (h : s.snoopable (pa / 64) = false ∨ (s.hostState (pa / 64) ≠ .m ∧ s.hostState (pa / 64) ≠ .o)) :
    execHostSnoopSharing pa s = .next s := by
  unfold execHostSnoopSharing
  exact if_pos (by simpa using h)

theorem execHostSnoopSharing_some {s : State} {pa : Nat} (hs : s.snoopable (pa / 64) = true)
    (hm : s.hostState (pa / 64) = .m ∨ s.hostState (pa / 64) = .o) :
    execHostSnoopSharing pa s = .next (s.snooped (pa / 64) (fun c => (s.sectorOwners (pa / 64)).contains c) .s) := by
  unfold execHostSnoopSharing
  refine if_neg ?_
  rcases hm with hm | hm <;> simp [hs, hm]

/-- R97: the host's snoops. -/
theorem snoops : Snoops := by
  have hl : ∀ pa, pa / 256 = pa / 64 / 4 := fun pa => by omega
  refine ⟨fun s pa hs hi => ?_, fun s pa hs hm => ?_, fun s pa => ⟨execHostSnoopOwnership_none, execHostSnoopSharing_none⟩⟩
  · exact ⟨_, execHostSnoopOwnership_some hs hi, State.hostState_snooped _ _ _ _, State.givenBack_snooped _ _ _ _,
      fun c x hx => State.sv_of_dropSector rfl (hl pa ▸ hx), fun g hg => State.hostState_snooped_ne _ _ _ hg⟩
  · exact ⟨_, execHostSnoopSharing_some hs hm, State.hostState_snooped _ _ _ _, State.givenBack_snooped _ _ _ _,
      fun c x hc hx => State.sv_of_dropSector (only := fun c => (s.sectorOwners (pa / 64)).contains c) (by simpa using hc) (hl pa ▸ hx), fun g hg => State.hostState_snooped_ne _ _ _ hg⟩

end Machine
end Sys2Proof

/-! PROOFS. Exchanges, the host's accesses, and bias flips (R44, R97, R99–R101, R333). -/

namespace Sys2Proof.Machine

theorem Recalls.parked {s t : State} (h : Recalls s t) : t.parked = s.parked := by rw [h.frame]

/-! ## Exchanges that end (R97, R44) -/

/-- An exchange that ends, with no request waiting at a home. -/
theorem execCxlExchangeComplete_of_idle {s t : State} {k : Nat} {x : Exchange} {excl poisoned : Bool} {data : List Byte}
    (hp : t.parked = []) (h : execCxlExchangeComplete k excl poisoned data s = .next (t.retryHome (homeOfLine (x.sector / 4)))) :
    exec (.cxlExchangeComplete k excl poisoned data) s = .next t :=
  h.trans (congrArg Host.Outcome.next (State.retryHome_of_parked_nil hp _))

/-- R97, R44: an exchange that ends. -/
theorem exchanges : Exchanges := by
  refine ⟨fun s k x excl data hk hp hi hd => ⟨?_, ?_⟩, fun s k x excl poisoned data hk hp ho hs => ?_, fun s k excl poisoned data hk => ?_⟩
  · refine execCxlExchangeComplete_of_idle (x := x) hp ?_
    simp [execCxlExchangeComplete, hk, hi, hd]
  · refine execCxlExchangeComplete_of_idle (x := x) hp ?_
    simp [execCxlExchangeComplete, hk, hi, hd]
  · refine execCxlExchangeComplete_of_idle (x := x) hp ?_
    simp [execCxlExchangeComplete, hk, ho, hs]
  · change execCxlExchangeComplete _ _ _ _ s = _
    simp [execCxlExchangeComplete, hk]

/-! ## The host's accesses (R99, R330, R333) -/

/-- What the host may access in one granule: at the home of a page in device bias, and where the device holds nothing of a sector in
host bias. -/
theorem State.hostMay_device {s : State} {pa n : Nat} (hn : 0 < n) (h : pa % 64 + n ≤ 64) (hl : s.hostLine (pa / 64 * 64) = false) (w : Bool) :
    s.hostMay pa n w = s.ready [(pa / 64 * 64, 64)] w := by
  simp [State.hostMay, granulesOf_one hn h, hl]

theorem State.hostMay_own {s : State} {pa n : Nat} (hn : 0 < n) (h : pa % 64 + n ≤ 64) (hl : s.hostLine (pa / 64 * 64) = true)
    (ho : s.hostOwn (pa / 64) = true) (w : Bool) : s.hostMay pa n w = .ok := by
  simp [State.hostMay, granulesOf_one hn h, hl, ho, State.ready]

theorem State.hostMay_waits {s : State} {pa n : Nat} (hn : 0 < n) (h : pa % 64 + n ≤ 64) (hl : s.hostLine (pa / 64 * 64) = true)
    (ho : s.hostOwn (pa / 64) = false) (w : Bool) : s.hostMay pa n w = .wait s := by
  simp [State.hostMay, granulesOf_one hn h, hl, ho]

/-- The two cases in which the host is served. -/
theorem State.hostMay_ok {s : State} {pa n : Nat} {w : Bool} (hn : 0 < n) (h : pa % 64 + n ≤ 64)
    (hs : (s.hostLine (pa / 64 * 64) = false ∧ s.ready [(pa / 64 * 64, 64)] w = .ok) ∨
      (s.hostLine (pa / 64 * 64) = true ∧ s.hostOwn (pa / 64) = true)) : s.hostMay pa n w = .ok := by
  rcases hs with ⟨hl, hr⟩ | ⟨hl, ho⟩
  · rw [State.hostMay_device hn h hl, hr]
  · exact State.hostMay_own hn h hl ho w

/-- The write of a sound granule at its home replaces the bytes. -/
theorem State.read_hostStore {s : State} {pa : Nat} {data : List Byte} (hd : 0 < data.length) (h : pa % 64 + data.length ≤ 64)
    (hb : s.bad (pa / 64) = false) {i : Nat} (hi : i < data.length) : (s.hostStore pa data).mem.read (pa + i) = data.getD i 0 := by
  have hbad : (s.pullBytes pa data.length).mergeBad pa data.length = [] := by
    simp [State.mergeBad, granulesOf_one hd h, (Recalls.pullBytes s pa data.length).sound _ hb]
  rw [State.hostStore, State.mergeHome, hbad]
  exact Memory.read_writeN_in _ _ _ hi

/-- Within one granule, the first bad byte is the first byte when the granule is bad, and none when it is sound. -/
theorem State.firstBad_isSome {s : State} {pa n : Nat} (hn : 0 < n) (h : pa % 64 + n ≤ 64) :
    (s.firstBad pa n).isSome = s.bad (pa / 64) := by
  have hin : ∀ i < n, (pa + i) / 64 = pa / 64 := fun i hi => by omega
  rw [Bool.eq_iff_iff, State.firstBad, List.find?_isSome]
  simp only [rangeFrom, List.mem_map, List.mem_range]
  constructor
  · rintro ⟨_, ⟨i, hi, rfl⟩, hb⟩
    rwa [hin i hi] at hb
  · exact fun hb => ⟨pa, ⟨0, hn, rfl⟩, hb⟩

/-- A granule that was met is as bad as before. -/
theorem State.bad_detect (s : State) (g : Nat) : (s.detect g).bad g = s.bad g := by
  unfold State.detect
  split
  · next h => simp [State.bad, State.failGranule, State.machineCheck, h]
  · rfl

/-- R99, R330, R333: the host's accesses of HBM. -/
theorem hostAccesses : HostAccesses := by
  have hdet : ∀ (s : State) {pa n : Nat}, 0 < n → pa % 64 + n ≤ 64 → s.detectAll pa n = s.detect (pa / 64) := fun s pa n hn h => by
    rw [State.detectAll, granulesOf_one hn h]; rfl
  refine ⟨fun s pa data hd h hpop hboot => ?_, fun s n pa data rest hq hmay => ?_, fun s pa n hn h hpop hboot hq hs => ?_,
    fun s pa n hn h hpop hw => ?_, fun s pa n data hboot => ⟨fun hn hpop => ?_, fun hd hpop => ?_⟩, fun s write pa n data hboot => ?_⟩
  · have hn : 0 < data.length := List.length_pos_iff.mpr hd
    have hexec : exec (.hostCxlMemAccess true pa 0 data) s = .next (s.hostPost pa data) := by
      change execHostCxlMemAccess _ _ _ _ s = _
      simp [execHostCxlMemAccess, hboot, hd, Nat.not_lt.mpr hpop]
    rw [hexec]
    refine ⟨fun hq hb hs => ⟨?_, fun i hi => State.read_hostStore hn h hb hi⟩, fun hw => congrArg Host.Outcome.next ?_⟩
    · simp [State.hostPost, hq, State.hostMay_ok hn h hs]
    · unfold State.hostPost
      split
      · rfl
      · next hq =>
        obtain ⟨hl, ho⟩ := hw.resolve_left fun hne => hq (by simpa using hne)
        rw [State.hostMay_waits hn h hl ho]
  · simp [State.hostAgain, hq, hmay]
  · have hexec : exec (.hostCxlMemAccess false pa n []) s = .next { s.detect (pa / 64) with
        hostGot := if s.bad (pa / 64) then [] else (s.detect (pa / 64)).bytesNow pa n } := by
      change execHostCxlMemAccess _ _ _ _ s = _
      simp [execHostCxlMemAccess, hboot, hn.ne', Nat.not_lt.mpr hpop, hq, State.hostMay_ok hn h hs, hdet s hn h,
        State.firstBad_isSome hn h, State.bad_detect]
    rw [hexec]
    refine ⟨fun hb => ?_, fun hb => ?_⟩
    · rw [State.detect_of_sound hb, hb]
      rfl
    · rw [hb]
      rfl
  · change execHostCxlMemAccess _ _ _ _ s = _
    unfold execHostCxlMemAccess
    simp only [Bool.false_eq_true, if_false, if_neg (Nat.not_lt.mpr hpop)]
    split
    · rfl
    · split
      · rfl
      · next hq =>
        obtain ⟨hl, hi⟩ := hw.resolve_left fun hne => hq (by simpa using hne)
        rw [State.hostMay_waits hn h hl (by simp [State.hostOwn, hi])]
  · change execHostCxlMemAccess _ _ _ _ s = _
    simp [execHostCxlMemAccess, hboot, hn.ne', hpop]
  · change execHostCxlMemAccess _ _ _ _ s = _
    simp [execHostCxlMemAccess, hboot, hd, hpop]
  · change execHostCxlMemAccess _ _ _ _ s = _
    simp [execHostCxlMemAccess, hboot]

/-! ## Bias flips (R100, R101) -/

@[simp] theorem State.drop_flips (s : State) (k : Nat) : (s.drop k).flips = s.flips := s.drop_frame (·.flips) (fun _ _ _ => rfl) k

/-- A line of an L1 as `L1.swept` leaves it. -/
def L1Line.swept (x : L1Line) : L1Line := { x with sv := 0, hs := [.i, .i, .i, .i] }

/-- A swept L1 has no valid sector in a line that was swept. -/
theorem L1.sv_of_swept {l : L1} {p : Nat → Bool} {line : Nat} {x : L1Line} (hp : p line = true) (h : (l.swept p).line? line = some x) :
    x.sv = 0 := by
  have hmap : (l.swept p).lines = l.lines.map fun e => (e.1, if p e.1 then e.2.swept else e.2) := by
    unfold L1.swept L1.dropMiss
    refine List.map_congr_left fun e _ => ?_
    dsimp only
    split <;> rfl
  unfold L1.line? at h
  rw [hmap, Tbl.find?_map (f := fun k (y : L1Line) => if p k then y.swept else y)] at h
  obtain ⟨y, -, hy⟩ := Option.map_eq_some_iff.mp h
  rw [← hy, if_pos hp]
  rfl

/-- The recalls of the lines that a cleaning selects. -/
def State.pullLines (s : State) (p : Nat → Bool) : State :=
  (s.homeLines.filter fun e => p e.1).foldl (fun s e => s.pull e.1 (2 ^ 64 - 1)) s

theorem Recalls.pullLines (s : State) (p : Nat → Bool) : Recalls s (s.pullLines p) :=
  Recalls.foldl (fun t e _ => Recalls.pull t e.1 _) s

/-- They leave no word of those lines to anybody. -/
theorem State.unowned_pullLines (s : State) {p : Nat → Bool} {line w : Nat} (hp : p line = true) (hw : w < 64) :
    (s.pullLines p).Unowned line w := by
  intro e he o ho
  obtain ⟨e', he', -⟩ := (Recalls.pullLines s p).owner line e he
  have hmem : (line, e') ∈ s.homeLines.filter fun e => p e.1 := List.mem_filter.mpr ⟨Tbl.mem_of_find? he', hp⟩
  exact foldl_reaches (P := fun t : State => t.Unowned line w) hmem
    (fun t => t.unowned_pull line hw (by rw [Nat.testBit_two_pow_sub_one]; simpa using hw))
    (fun t b _ ht => (Recalls.pull t b.1 _).unowned ht) s e he o ho

/-- What a cleaning leaves of a line. -/
theorem clean_line (s : State) {p : Nat → Bool} {line : Nat} (hp : p line = true) :
    (∀ e, (s.clean p).home? line = some e → ∀ o ∈ e.owner, o.1 < 64 → Tbl.find? e.owner o.1 = none) ∧
    (∀ c x, ((s.clean p).core c).l1.line? line = some x → x.sv = 0) :=
  ⟨fun e he o ho hw => absurd rfl (s.unowned_pullLines hp hw e he o ho),
    fun _ _ hx => L1.sv_of_swept hp (State.line?_of_mapCores (f := fun _ k => { k with l1 := k.l1.swept p }) hx)⟩

/-- A cleaning and the renewal of what waits leave nothing waiting where nothing waited. -/
theorem parked_clean {s : State} (h : s.parked = []) (p : Nat → Bool) (page : Nat) : ((s.clean p).renewPage page).parked = [] := by
  have : (s.clean p).parked = [] := (Recalls.pullLines s p).parked.trans h
  simp [State.renewPage, this]

/-- An exchange is under way for a sector that was asked for. -/
theorem mem_exchange (s : State) (g : Nat) (own : Bool) : ∃ x ∈ (s.exchange g own).exchanges, x.sector = g := by
  unfold State.exchange
  split
  · next h => simpa using h
  · exact ⟨⟨g, own⟩, by simp, rfl⟩

theorem mem_exchange_of_mem {s : State} {x : Exchange} (h : x ∈ s.exchanges) (g : Nat) (own : Bool) : x ∈ (s.exchange g own).exchanges := by
  unfold State.exchange
  split
  · exact h
  · exact List.mem_append_left _ h

/-- R100: a marker arrives at a home. -/
theorem flipMarker_arrives {s : State} {k page h : Nat} {src dst : Endpoint} {f : Flip} (hd : Delivers s k src dst (.flipMarker page h))
    (hs : s.flips = [f]) (hp : f.page = page) (ha : f.arrived.contains h = false) :
    exec (.flipMarker k) s = .next { s.drop k with flips := [{ f with arrived := f.arrived ++ [h] }] } := by
  refine packetStep_delivers hd rfl fun pl => ?_
  have hi : (s.drop k).flips.findIdx (fun f => f.page == page && !f.arrived.contains h) = 0 := by
    simp only [State.drop_flips, hs, hp, ha, List.findIdx_cons, BEq.rfl, Bool.not_false, Bool.and_self, cond_true]
  simp only [hi]
  simp [hs]

/-- R100, R101: bias flips. -/
theorem flips : Flips := by
  refine ⟨fun s k page h src dst f hd hs hp ha => ⟨flipMarker_arrives hd hs hp ha, fun line hl hh => ?_⟩,
    fun s page f hf hn hc hp => ⟨fun ht => ?_, fun ht hne => ?_⟩, fun s p line hp => clean_line s hp, fun s page h => ?_⟩
  · subst hp hh
    simpa [State.flipping, pageOfLine] using hl.symm
  · have hpk := parked_clean hp (fun line => pageOfLine line == page) page
    refine ⟨?_, by simp [State.complete]⟩
    change execBiasFlipComplete page s = _
    unfold execBiasFlipComplete
    rw [hf]
    have htheirs : (if f.toHost then [] else ((s.clean fun line => pageOfLine line == page).renewPage page).hostsOf page) = [] := by
      rcases ht with ht | ht
      · rw [if_pos ht]
      · rw [ht, ite_self]
    simp only [hc, Nat.not_lt.mpr hn, htheirs, hpk]
    rfl
  · refine ⟨_, ?_, rfl, fun g hg => foldl_reaches (P := fun u : State => ∃ x ∈ u.exchanges, x.sector = g) hg
      (fun u => mem_exchange u g true) (fun u b _ ⟨x, hx, hxg⟩ => ⟨x, mem_exchange_of_mem hx b true, hxg⟩) _⟩
    change execBiasFlipComplete page s = _
    unfold execBiasFlipComplete
    rw [hf]
    simp [hc, Nat.not_lt.mpr hn, ht, hne]
  · change execBiasFlipComplete page s = _
    unfold execBiasFlipComplete
    rcases h with h | h
    · rw [h]
    · split
      · rfl
      · simp [h]

/-- Settles O50: snoops, exchanges, the host's accesses and bias flips, each from what recalls may change (`Recalls`) and what they
leave to nobody. -/
theorem hostCoherence : Obligations.HostCoherence := ⟨snoops, exchanges, hostAccesses, flips⟩

end Sys2Proof.Machine

/-! PROOFS. Attestation, the power manager, links, resets and monitors (R150, R343, R366–R369). -/

namespace Sys2Proof

/-- What an entry of a table that is changed in place reads as, when the change keeps the value of what is not listed. -/
theorem Tbl.getD_map {α : Type} (t : Tbl α) (f : α → α) (k : Nat) {d : α} (hd : f d = d) :
    Tbl.getD (t.map fun e => (e.1, f e.2)) k d = f (t.getD k d) := by
  unfold Tbl.getD
  rw [Tbl.find?_map (f := fun _ => f)]
  cases t.find? k <;> simp [hd]

/-- A selected key reads as before. -/
theorem Tbl.getD_filter {α : Type} (t : Tbl α) {p : Nat → Bool} {k : Nat} (d : α) (h : p k = true) :
    Tbl.getD (t.filter fun e => p e.1) k d = t.getD k d := by
  rw [Tbl.getD, Tbl.find?_filter, if_pos h]
  rfl

namespace Machine

/-! ## Attestation (R343) -/

/-- R343: the responses. -/
theorem attestation : Attestation := by
  refine ⟨fun s => ⟨⟨_, _, rfl, rfl, rfl⟩, ⟨_, _, rfl, rfl, rfl⟩, fun a b => ⟨_, _, rfl, rfl, rfl⟩, ⟨_, _, rfl, rfl, rfl⟩,
    fun off n => ⟨_, _, rfl, rfl, rfl⟩, fun i => ⟨_, _, rfl, rfl, rfl⟩⟩, fun s n i => ?_, fun f => ⟨rfl, rfl, rfl, rfl⟩⟩
  have hspent : ∀ msg f, 2 ^ 30 ≤ s.fw.lmsUsed → s.respondSigned msg f = s.respond msg .unspecified := fun msg f h => if_pos h
  have hleft : ∀ msg f, s.fw.lmsUsed < 2 ^ 30 → s.respondSigned msg f =
      { s with fw := { s.fw with lmsUsed := s.fw.lmsUsed + 1 } }.respond msg
        (f (Config.signature false (Config.absorb s.fw.transcript msg)) (Config.signature true (Config.absorb s.fw.transcript msg))) :=
    fun msg f h => if_neg (Nat.not_le.mpr h)
  refine ⟨s.respondSigned (6 + 8 * n) .challengeAuth,
    s.respondSigned (7 + 8 * i + 2 ^ 64 * b2n true) fun a b => .measurements (s.fw.measurements i) (some (a, b)), rfl, rfl,
    fun h => ?_, fun h => ?_⟩
  · rw [hspent _ _ h, hspent _ _ h]
    exact ⟨rfl, rfl, rfl⟩
  · rw [hleft _ _ h, hleft _ _ h]
    exact ⟨rfl, rfl, rfl, rfl⟩

/-! ## The power manager (R366, R367) -/

/-- The die of the greater value of two, as `topDie` compares them. -/
def higherDie (f : Nat → Nat) (a d : Nat) : Nat := if f a < f d then d else a

theorem higherDie_spec (f : Nat → Nat) (a d : Nat) :
    (higherDie f a d = a ∨ higherDie f a d = d) ∧ f a ≤ f (higherDie f a d) ∧ f d ≤ f (higherDie f a d) := by
  unfold higherDie
  split
  · exact ⟨Or.inr rfl, by omega, le_refl _⟩
  · exact ⟨Or.inl rfl, le_refl _, by omega⟩

/-- The greatest of a list of dies is one of them and exceeds each. -/
theorem foldl_higherDie_spec (f : Nat → Nat) (l : List Nat) (a : Nat) :
    (l.foldl (higherDie f) a = a ∨ l.foldl (higherDie f) a ∈ l) ∧ f a ≤ f (l.foldl (higherDie f) a) ∧
      ∀ e ∈ l, f e ≤ f (l.foldl (higherDie f) a) := by
  induction l generalizing a with
  | nil => simp
  | cons d l ih =>
    obtain ⟨hin, hge, hall⟩ := ih (higherDie f a d)
    obtain ⟨hone, ha, hd⟩ := higherDie_spec f a d
    rw [List.foldl_cons]
    refine ⟨?_, ha.trans hge, fun e he => ?_⟩
    · rcases hin with hin | hin
      · rcases hone with hone | hone
        · exact Or.inl (hin.trans hone)
        · exact Or.inr (by rw [hin, hone]; exact List.mem_cons_self)
      · exact Or.inr (by simp [hin])
    · rcases List.mem_cons.mp he with rfl | he
      · exact hd.trans hge
      · exact hall e he

/-- The die of the greatest value. -/
theorem topDie_spec (f : Nat → Nat) : topDie f < 4 ∧ ∀ e, e < 4 → f e ≤ f (topDie f) := by
  have hmem : ∀ e, e ∈ allDies ↔ e < 4 := fun e => by
    simp only [allDies, List.mem_cons, List.not_mem_nil, or_false]
    omega
  obtain ⟨hin, -, hall⟩ := foldl_higherDie_spec f allDies 0
  refine ⟨?_, fun e he => hall e ((hmem e).mpr he)⟩
  rcases hin with hin | hin
  · exact lt_of_eq_of_lt hin (by decide)
  · exact (hmem _).mp hin

/-- Every management core hears of it, in the order of the dies. -/
theorem State.checkAll_eq (s : State) (m : MCheck) :
    s.checkAll m = { s with checks := s.checks ++ [(0, m), (1, m), (2, m), (3, m)] } := by
  simp [State.checkAll, allDies, State.machineCheck]

/-- R366, R367: the power manager. -/
theorem powerManager : PowerManager := by
  refine ⟨fun s total dies h hs => ?_, fun s total dies h hs => ?_, fun s total dies h => ?_, fun s total dies h1 h2 => ?_,
    fun s d mhz => ⟨Tbl.getD_put_self _ _ _ _, rfl⟩, topDie_spec, fun s => ⟨fun h => ?_, fun h => ?_⟩, fun s d hd => ?_⟩
  · change execPowerTick total dies s = _
    unfold execPowerTick
    rw [if_pos h, hs]
    rfl
  · change execPowerTick total dies s = _
    rw [execPowerTick, if_pos h, if_pos hs]
  · obtain ⟨hd, htop⟩ := topDie_spec fun d => 2250 - s.clock d
    refine ⟨_, hd, fun e he => ?_, ?_⟩
    · have := htop e he
      omega
    · change execPowerTick total dies s = _
      unfold execPowerTick
      rw [if_neg (by omega)]
      dsimp only
      rw [if_pos h]
      rfl
  · change execPowerTick total dies s = _
    unfold execPowerTick
    rw [if_neg (by omega)]
    exact if_neg (by omega)
  · rw [← State.checkAll_eq]
    exact congrArg Host.Outcome.next (if_neg (Nat.not_lt.mpr h))
  · exact congrArg Host.Outcome.next (if_pos h)
  · rw [← State.checkAll_eq]
    exact congrArg Host.Outcome.next (if_neg (Nat.not_le.mpr hd))

/-! ## Links (R150, R369) -/

/-- R150, R369: probes, recovery steps, replays and retraining. -/
theorem links : Links := by
  refine ⟨fun s r => rfl, fun s ring => rfl,
    fun s u code => ⟨⟨fun _ => rfl, fun _ => rfl, fun _ _ => rfl, fun _ _ => rfl, fun _ _ => rfl⟩, rfl, fun _ => rfl⟩,
    fun s link => ⟨_, _, rfl, rfl, Tbl.getD_put_self 0 s.replays link 1, Tbl.getD_put_self 0 s.replays link (Tbl.getD s.replays link 0 + 1)⟩, fun s link ok h => if_pos h,
    fun s link h => ⟨if_neg (Nat.not_lt.mpr h), ?_⟩⟩
  refine (if_neg (Nat.not_lt.mpr h)).trans (congrArg Host.Outcome.next ?_)
  by_cases hl : link < 0x10000
  · rw [if_pos hl, if_neg (by rw [Bool.false_or, decide_eq_true_eq]; exact Nat.not_le.mpr hl)]
  · rw [if_neg hl, if_pos (by rw [Bool.false_or, decide_eq_true_eq]; exact Nat.not_lt.mp hl)]

/-! ## Resets (R35, R99, R362, R368) -/

/-- Over a device whose homes hold no line, a cleaning changes the L1s alone. -/
theorem clean_of_homeless {s : State} (h : s.homeLines = []) (p : Nat → Bool) :
    s.clean p = { s with cores := s.cores.map fun e => (e.1, { e.2 with l1 := e.2.l1.swept p }) } := by
  simp [State.clean, h]

/-- R35, R99, R362, R368: resets and the monitors' CLR. -/
theorem resets : Resets := by
  refine ⟨fun s ok => ⟨_, rfl, fun c => rfl, rfl, rfl, rfl, rfl, rfl, rfl, rfl, rfl, rfl, rfl, rfl, rfl, rfl, rfl⟩,
    fun s ok => ⟨_, rfl, fun c => rfl, rfl, rfl, fun h => ?_, rfl, rfl, rfl, fun hh hc hs => ?_⟩, fun s => rfl,
    fun s u m => ⟨_, rfl, ?_⟩⟩
  · have hw : Tbl.getD (s.slices.map fun e => (e.1, e.2.warm)) h Slice.reset = (s.slice h).warm := Tbl.getD_map _ _ _ rfl
    unfold State.slice at hw ⊢
    rw [hw]
    exact ⟨rfl, rfl, rfl, rfl, rfl, rfl⟩
  · simp only [clean_of_homeless hh, State.drainCtls, hs, hc, List.filter_nil, List.foldl_nil]
    exact ⟨trivial, fun a ha => Tbl.getD_filter _ (p := fun a => decide (a < Config.hbmSize)) 0 (by simpa using ha),
      fun g hg => Tbl.getD_filter _ (p := fun g => decide (g * 64 < Config.hbmSize)) false (by simpa using hg)⟩
  · have hm : (s.clearMonitor u m).monitor u m = (s.monitor u m).cleared := Tbl.getD_put_self _ _ _ _
    rw [hm]
    exact ⟨rfl, rfl, rfl, rfl, rfl, fun n hn => Tbl.getD_put_ne _ _ _ hn⟩

/-- Settles O54: attestation, the power manager, links and resets, each from the equation of its step. -/
theorem moduleServices : Obligations.ModuleServices := ⟨attestation, powerManager, links, resets⟩

end Machine
end Sys2Proof

/-! PROOFS. Command slots (R334, R368). -/

namespace Sys2Proof

/-- What no entry at a key satisfies is untouched by an insertion there. -/
theorem Tbl.any_insert {α : Type} (t : Tbl α) {k : Nat} (v : α) {p : Nat × α → Bool} (h : ∀ x, p (k, x) = false) :
    (t.insert k v).any p = t.any p := by
  induction t with
  | nil => simp [Tbl.insert, h]
  | cons e r ih =>
    unfold Tbl.insert
    split
    · simp [h]
    · split
      · next hk =>
        have he : p e = false := by
          have := h e.2
          rwa [hk] at this
        simp [h, he]
      · simp [ih]

namespace Machine

/-- The state that a try of a command comes to. -/
def CmdRes.state (r : CmdRes) : State :=
  match r with
  | .wait t => t
  | .did t => t

@[simp] theorem CmdRes.state_wait (t : State) : (CmdRes.wait t).state = t := rfl
@[simp] theorem CmdRes.state_did (t : State) : (CmdRes.did t).state = t := rfl

/-! ## A started command -/

/-- The slot of a command that has started. -/
theorem State.cmdSlot_started (s : State) (h : CmdHead) (op : Nat) (ps : List Nat) (ctx : Option Nat) :
    ∃ param, (s.started h op ps ctx).cmdSlot h.slot = { s.cmdSlot h.slot with
      running := true, tag := h.tag, irq := h.irq, out := [], param := param, waits := some (h, ps), ctx := ctx, since := s.tick } :=
  ⟨_, Tbl.getD_insert_self _ _ _ _⟩

/-- Its start puts no other command before any of its slot. -/
theorem State.cmdBehind_started (s : State) (h : CmdHead) (op : Nat) (ps : List Nat) (ctx : Option Nat) (since : Nat) :
    (s.started h op ps ctx).cmdBehind h ctx since = s.cmdBehind h ctx since :=
  congrArg (ctx.isSome && ·) (Tbl.any_insert s.slots _ fun x => by simp)

/-- No start runs in a slot that runs nothing. -/
theorem State.running_of_free {s : State} {h : CmdHead} (hf : ∀ x, Tbl.find? s.slots h.slot = some x → x.running = false) :
    (s.cmdSlot h.slot).running = false := by
  unfold State.cmdSlot Tbl.getD
  cases hx : Tbl.find? s.slots h.slot with
  | none => rfl
  | some x => exact hf x hx

theorem State.cmdSlot_of_find {s : State} {n : Nat} {x : CmdSlot} (hx : Tbl.find? s.slots n = some x) : s.cmdSlot n = x := by
  simp [State.cmdSlot, Tbl.getD, hx]

/-! ## A command's row -/

section
variable {s : State} {h : CmdHead} {op : Nat} {ps : List Nat} {ctx : Option Nat} {f : State → CmdRes}

/-- A starting write that is not served, or finds another command in its slot, changes nothing. -/
theorem State.command_unserved (hu : 15 < h.slot ∨ s.booting = true) : s.command h op ps ctx f = .next s := by
  unfold State.command
  exact if_pos (by simpa using hu)

theorem State.command_of_running (hr : (s.cmdSlot h.slot).running = true) :
    s.command h op ps ctx f = .next (if 15 < h.slot ∨ s.booting = true then s
      else if (s.cmdSlot h.slot).waits = some (h, ps) then s.attempt h ctx f else s) := by
  unfold State.command
  by_cases hu : 15 < h.slot ∨ s.booting = true
  · rw [if_pos hu]
    exact if_pos (by simpa using hu)
  · rw [if_neg hu]
    refine (if_neg (by simpa using hu)).trans ((if_pos hr).trans ?_)
    simp

theorem State.command_busy (hr : (s.cmdSlot h.slot).running = true) (hw : (s.cmdSlot h.slot).waits ≠ some (h, ps)) :
    s.command h op ps ctx f = .next s := by
  rw [State.command_of_running hr, if_neg hw, ite_self]

/-- A starting write of a free slot. -/
theorem State.command_of_free (h15 : h.slot ≤ 15) (hb : s.booting = false)
    (hf : ∀ x, Tbl.find? s.slots h.slot = some x → x.running = false) :
    s.command h op ps ctx f = .next (if h.reserved then (s.started h op ps ctx).complete h 1 []
      else (s.started h op ps ctx).attempt h ctx f) := by
  unfold State.command
  refine (if_neg (by simp [hb, h15])).trans ((if_neg (by simp [State.running_of_free hf])).trans ?_)
  split <;> rfl

/-- The first try of a command that has started. -/
theorem State.attempt_started :
    (s.started h op ps ctx).attempt h ctx f =
      if s.cmdBehind h ctx s.tick then s.started h op ps ctx else (f (s.started h op ps ctx)).state := by
  obtain ⟨param, hp⟩ := s.cmdSlot_started h op ps ctx
  unfold State.attempt
  rw [hp, State.cmdBehind_started]
  rfl

/-- A command takes effect at its starting write, or at least tries to. -/
theorem Starts.command (hs : Starts s h ctx) : s.command h op ps ctx f = .next (f (s.started h op ps ctx)).state := by
  obtain ⟨h15, hb, hf, hres, hfirst⟩ := hs
  rw [State.command_of_free h15 hb hf, hres, State.attempt_started, hfirst]
  rfl

/-- The same for a command that waits in its slot. -/
theorem Continues.command (hc : Continues s h ps ctx) : s.command h op ps ctx f = .next (f s).state := by
  obtain ⟨h15, hb, x, hx, hr, hw, hfirst⟩ := hc
  have hslot := State.cmdSlot_of_find hx
  rw [State.command_of_running (by rw [hslot, hr]), if_neg (by simp [h15, hb]), hslot, if_pos hw, State.attempt, hslot, hfirst]
  rfl

/-- A command that waits behind another of its context. -/
theorem State.command_behind {x : CmdSlot} (hx : Tbl.find? s.slots h.slot = some x) (hr : x.running = true)
    (hb : s.cmdBehind h ctx x.since = true) : s.command h op ps ctx f = .next s := by
  have hslot := State.cmdSlot_of_find hx
  rw [State.command_of_running (by rw [hslot, hr]), hslot, State.attempt, hslot, hb]
  simp

end

/-! ## What a start leaves -/

section
variable (s : State) (h : CmdHead) (op : Nat) (ps : List Nat) (ctx : Option Nat)

@[simp] theorem State.core_started (c : Nat) : (s.started h op ps ctx).core c = s.core c := rfl
@[simp] theorem State.context?_started (n : Nat) : (s.started h op ps ctx).context? n = s.context? n := rfl
@[simp] theorem State.coresOf_started (n : Nat) : (s.started h op ps ctx).coresOf n = s.coresOf n := rfl
@[simp] theorem State.contexts_started : (s.started h op ps ctx).contexts = s.contexts := rfl
@[simp] theorem State.group_started (g : Nat) : (s.started h op ps ctx).group g = s.group g := rfl
@[simp] theorem State.fw_started : (s.started h op ps ctx).fw = s.fw := rfl
@[simp] theorem State.monitor_started (u m : Nat) : (s.started h op ps ctx).monitor u m = s.monitor u m := rfl

end

/-! ## The slots as the obligations state them -/

/-- The commands with a starting write alone are rows of `State.command`. -/
theorem exec_of_startOf {i : Instr} {h : CmdHead} (hi : startOf i = some h) (s : State) :
    ∃ op ps ctx f, exec i s = s.command h op ps ctx f := by
  unfold startOf at hi
  split at hi <;> cases hi <;> exact ⟨_, _, _, _, rfl⟩

/-- R334, R368: the slots of commands. -/
theorem commandSlots : CommandSlots := by
  refine ⟨fun i h s hi => ?_, fun s h op ps ctx g => ⟨fun h15 hb hf hres hbe => ?_, fun hs => ?_, fun hc => ?_, fun x _ hx hr _ hbe => ?_⟩,
    fun s h ctx since => ?_, fun s h code out => ⟨Tbl.find?_insert_self _ _ _, rfl⟩⟩
  · obtain ⟨op, ps, ctx, f, hex⟩ := exec_of_startOf hi s
    rw [hex]
    refine ⟨State.command_unserved, fun x hx hr hw => ?_, fun h15 hb hf hres => ⟨op, ps, ctx, ?_⟩⟩
    · have hslot := State.cmdSlot_of_find hx
      exact State.command_busy (by rw [hslot, hr]) (by rw [hslot]; exact hw ps)
    · rw [State.command_of_free h15 hb hf, if_pos hres]
  · rw [State.command_of_free h15 hb hf, hres, State.attempt_started, hbe]
    rfl
  · exact hs.command
  · exact hc.command
  · exact State.command_behind hx hr hbe
  · simp [State.cmdBehind, Option.isSome_iff_ne_none, and_assoc]

end Machine
end Sys2Proof

/-! PROOFS. Pre-emption, save traffic and restore (R39, R315–R318). -/

namespace Sys2Proof

/-! ## Bytes -/

@[simp] theorem length_leBytes (n v : Nat) : (leBytes n v).length = n := by
  induction n generalizing v with
  | zero => rfl
  | succ n ih => simp [leBytes, ih]

/-- A number's low bytes as a number. -/
theorem leNat_leBytes (n v : Nat) : leNat (leBytes n v) = v % 256 ^ n := by
  induction n generalizing v with
  | zero => simp [leBytes, leNat, Nat.mod_one]
  | succ n ih =>
    rw [leBytes, leNat, ih, Nat.pow_succ, Nat.mul_comm (256 ^ n), Nat.mod_mul, BitVec.toNat_ofNat]

namespace Machine

/-! ## The image of a core (R317) -/

/-- The bytes of a piece, and those of the pieces after it, in bytes of which an image's pieces follow after the first `n`. -/
theorem bytes_of_piece {b : List Byte} {n p o : Nat} {l : List Byte} {r : List (Nat × List Byte)} (h : b.drop n = assemble p ((o, l) :: r)) :
    b.drop (n + (o - p)) = l ++ assemble (o + l.length) r := by
  rw [← List.drop_drop, h]
  simp [assemble, List.append_assoc]

theorem bytes_after_piece {b : List Byte} {n p o m : Nat} {l : List Byte} {r : List (Nat × List Byte)}
    (h : b.drop n = assemble p ((o, l) :: r)) (hm : l.length = m) : b.drop (n + (o - p) + m) = assemble (o + m) r := by
  rw [← List.drop_drop, bytes_of_piece h, ← hm, List.drop_left]

/-- A number read back from the bytes it was written to. -/
theorem leNat_take_leBytes (n v : Nat) (r : List Byte) : leNat ((leBytes n v ++ r).take n) = v % 256 ^ n := by
  rw [List.take_left' (length_leBytes n v), leNat_leBytes]

theorem leNat_take_word (w : W) (r : List Byte) : leNat ((leBytes 8 w.toNat ++ r).take 8) = w.toNat := by
  rw [leNat_take_leBytes]
  exact Nat.mod_eq_of_lt w.isLt

/-- The flags and counts of an image, bytes 6 to 13. -/
def Core.imageCounts (k : Core) : List Byte :=
  leBytes 2 (b2n k.abortRec.isSome + 2 * b2n k.regs.lost) ++ (leBytes 1 k.sched.deque.length ++ (leBytes 1 k.regs.pend.length ++
    (leBytes 1 k.mxq.length ++ (leBytes 1 k.sched.codeq.length ++ leBytes 2 k.sched.inbox.length))))

/-- The first pieces of an image. -/
theorem Core.imagePieces_eq (k : Core) (c : Nat) : ∃ rest, k.imagePieces c =
    (0x0000, leBytes 4 1 ++ (leBytes 2 c ++ k.imageCounts)) :: (0x0010, leBytes 8 k.regs.live.toNat) ::
    (0x0040, wordBytes ((List.range 32).map fun i => (k.handler i).toW.toNat)) :: rest := by
  refine ⟨(k.imagePieces c).drop 3, ?_⟩
  unfold Core.imagePieces Core.imageCounts
  simp only [List.append_assoc]
  rfl

/-- FORMAT, the core's number, SR.LIVE and handler 0 of an image. -/
theorem image_fields (k : Core) (c : Nat) :
    leNat ((assemble 0 (k.imagePieces c)).take 4) = 1 ∧ leNat (((assemble 0 (k.imagePieces c)).drop 4).take 2) = c % 2 ^ 16 ∧
    leNat (((assemble 0 (k.imagePieces c)).drop 0x10).take 8) = k.regs.live.toNat ∧
    leNat (((assemble 0 (k.imagePieces c)).drop 0x40).take 8) = (k.handler 0).toW.toNat := by
  obtain ⟨rest, hpieces⟩ := k.imagePieces_eq c
  have hlen : (leBytes 4 1 ++ (leBytes 2 c ++ k.imageCounts)).length = 14 := by simp [Core.imageCounts]
  have h0 : assemble 0 (k.imagePieces c) = leBytes 4 1 ++ (leBytes 2 c ++ (k.imageCounts ++ assemble (0 + 14) (
      (0x0010, leBytes 8 k.regs.live.toNat) :: (0x0040, wordBytes ((List.range 32).map fun i => (k.handler i).toW.toNat)) :: rest))) := by
    rw [hpieces, assemble, hlen]
    simp only [Nat.sub_self, List.replicate_zero, List.nil_append, List.append_assoc]
  have h14 := bytes_after_piece (n := 0) (p := 0) (congrArg (assemble 0) hpieces) hlen
  have h24 := bytes_after_piece h14 (length_leBytes _ _)
  have h10 := bytes_of_piece h14
  have h40 := bytes_of_piece h24
  simp only [Nat.reduceAdd, Nat.reduceSub, Nat.sub_self] at h10 h40
  refine ⟨?_, ?_, ?_, ?_⟩
  · rw [h0, leNat_take_leBytes]
    rfl
  · rw [h0, List.drop_left' (length_leBytes 4 1), leNat_take_leBytes]
    rfl
  · rw [h10, leNat_take_word]
  · rw [h40, show List.range 32 = 0 :: rangeFrom 1 31 from rfl, List.map_cons, wordBytes, List.flatMap_cons, List.append_assoc, leNat_take_word]

end Machine
end Sys2Proof

/-! PROOFS. Save traffic, pre-emption and restore (R39, R315–R318). -/

namespace Sys2Proof.Machine

/-! ## Save traffic (R39, R317) -/

/-- One of a fold of save traffic's requests is at its controller. -/
theorem mem_ctl_foldl_askSave (s : State) {ctx a n i : Nat} (write : Nat → List (Nat × Byte)) (bad : Nat → Bool) (ha : a % 64 = 0) (hi : i < n) :
    ∃ r ∈ ((List.range n).foldl (fun s i => s.askSave ctx (a / 64 + i) (write i) (bad i)) s).ctl (controllerOf (a + 64 * i)),
      r.granule = a / 64 + i ∧ r.write = write i ∧ r.deadline = some (s.tick + 256) ∧ r.origin = .save ctx (bad i) := by
  have htick : ((List.range n).foldl (fun s i => s.askSave ctx (a / 64 + i) (write i) (bad i)) s).tick = s.tick :=
    foldl_frame (f := fun s i => State.askSave s ctx (a / 64 + i) (write i) (bad i)) State.tick (fun _ _ => rfl) _ s
  rw [← htick, show a + 64 * i = (a / 64 + i) * 64 by omega]
  refine foldl_reaches (P := fun t : State => ∃ r ∈ t.ctl (controllerOf ((a / 64 + i) * 64)), r.granule = a / 64 + i ∧ r.write = write i ∧
    r.deadline = some (t.tick + 256) ∧ r.origin = .save ctx (bad i)) (List.mem_range.mpr hi) (fun t => ?_) (fun t j _ ⟨r, hr, hrest⟩ => ?_) s
  · exact ⟨_, State.mem_ctl_ask t _, rfl, rfl, rfl, rfl⟩
  · exact ⟨r, State.mem_ctl_ask_of_mem hr _, hrest⟩

@[simp] theorem State.tick_markWritten (s : State) (g : Nat) (c : Option Nat) : (s.markWritten g c).tick = s.tick := by
  unfold State.markWritten
  split
  · rfl
  · split <;> rfl

@[simp] theorem State.runtimeCalls_markWritten (s : State) (g : Nat) (c : Option Nat) : (s.markWritten g c).runtimeCalls = s.runtimeCalls := by
  unfold State.markWritten
  split
  · rfl
  · split <;> rfl

/-- All of the bytes lie in HBM, or none does. -/
theorem hbmPart_of_hbm {a n : Nat} (h : a + n ≤ Config.hbmSize) : hbmPart a n = n := Nat.min_eq_left (by omega)

theorem hbmPart_of_host {a : Nat} (n : Nat) (h : Config.hbmSize ≤ a) : hbmPart a n = 0 := by
  rw [hbmPart, Nat.sub_eq_zero_of_le h]
  exact Nat.min_zero n

/-- R39, R317: the traffic of saves and restores. -/
theorem saveTraffic : SaveTraffic := by
  refine ⟨fun s ctx a i bytes bad ha _ hb hi => ?_, fun s ctx a i bytes bad hb hi => ?_, fun s ctx a n i ha hb hi => ?_⟩
  · unfold State.saveBytes
    simp only [hbmPart_of_hbm hb]
    obtain ⟨r, hr, hg, hw, hd, ho⟩ := mem_ctl_foldl_askSave
      ((granulesOf a bytes.length).foldl (fun s g => s.markWritten g none)
        { s.pullBytes a bytes.length with hostMem := s.hostMem.writeN (a + bytes.length) (bytes.drop bytes.length) }) (ctx := ctx)
      (fun i => (List.range 64).map fun j => (a + 64 * i + j, bytes.getD (64 * i + j) 0)) bad ha hi
    refine ⟨r, hr, hg, hw, ?_, ho⟩
    rw [hd, foldl_frame State.tick (fun s g => State.tick_markWritten s g none), (Recalls.pullBytes s a bytes.length).frame]
  · have hn := hbmPart_of_host bytes.length hb
    unfold State.saveBytes
    simp only [hn]
    exact Memory.read_writeN_in _ _ _ hi
  · unfold State.loadBytes
    rw [hbmPart_of_hbm hb]
    obtain ⟨r, hr, hg, hw, hd, -⟩ := mem_ctl_foldl_askSave s (ctx := ctx) (fun _ => []) (fun _ => false) ha hi
    exact ⟨r, hr, hg, hw, hd⟩

end Sys2Proof.Machine

/-! PROOFS. Pre-emption (R315–R317). -/

namespace Sys2Proof.Machine

/-! ## Cores that quiesce (R315, R316, R341) -/

/-- A core that has nothing left. -/
theorem Core.settled_iff (k : Core) : k.settled = true ↔ k.quiesces = true ∧ k.lo = none ∧ k.hi = none ∧ k.unack = 0 ∧
    k.l1.ungranted = false ∧ k.sched.stealing = false ∧ k.sched.held = 0 := by
  simp [Core.settled, and_assoc]

theorem exec_quiesce_unsettled {c : Nat} {s : State} (h : (s.core c).settled = false) : exec (.quiesce c) s = .next s := by
  change execQuiesce c s = _
  unfold execQuiesce
  cases hc : (s.core c).ctx with
  | none => simp [hc]
  | some ctx => simp [hc, h]

theorem exec_quiesce_settled {c ctx : Nat} {s : State} (hc : (s.core c).ctx = some ctx) (hs : (s.core c).stopped = false)
    (h : (s.core c).settled = true) : exec (.quiesce c) s = .next (
      if s.openXfers c = [] then s.onCore c fun k => { k with quiet := true }
      else if ∀ d ∈ s.coresOf ctx, (s.core d).settled = true ∧ ∀ y ∈ s.openXfers d, s.inOpenRound y = true then
        (s.openRounds.filter fun r => r.2.joined.any fun j => ((s.coresOf ctx).flatMap s.openXfers).contains j.2).foldl
          (fun s r => s.failRound r.1 r.2 9) s
      else s) := by
  change execQuiesce c s = _
  unfold execQuiesce
  simp only [hc, hs, h, Bool.not_true, Bool.or_false, Bool.false_eq_true, if_false, List.isEmpty_iff, List.all_eq_true, Bool.and_eq_true]
  split
  · rfl
  · split <;> rfl

theorem Recalls.runtimeCalls {s t : State} (h : Recalls s t) : t.runtimeCalls = s.runtimeCalls := by rw [h.frame]

/-! ## What the copy of a core leaves (R315) -/

@[simp] theorem State.runtimeCalls_saveBytes (s : State) (ctx a : Nat) (bytes : List Byte) (bad : Nat → Bool) :
    (s.saveBytes ctx a bytes bad).runtimeCalls = s.runtimeCalls := by
  unfold State.saveBytes
  rw [foldl_frame (f := fun s i => State.askSave s ctx _ _ _) State.runtimeCalls (fun _ _ => rfl),
    foldl_frame State.runtimeCalls (fun s g => State.runtimeCalls_markWritten s g none)]
  exact (Recalls.pullBytes s a (hbmPart a bytes.length)).runtimeCalls

@[simp] theorem State.runtimeCalls_saveCore (s : State) (ctx c area : Nat) : (s.saveCore ctx c area).runtimeCalls = s.runtimeCalls := by
  unfold State.saveCore
  exact (foldl_frame (f := fun s g => State.saveGranule s ctx c area g) State.runtimeCalls (fun s g => State.runtimeCalls_saveBytes s ctx _ _ _)
    _ _).trans (State.runtimeCalls_saveBytes s ctx area _ _)

/-- The copy phase of a context whose cores hold no service call. -/
theorem State.copyPhase_of_no_calls {s : State} (h : s.runtimeCalls = []) (ctx : Nat) (x : Context) (cores : List Nat) (area : Nat → Nat) :
    s.copyPhase ctx x cores area = State.setContext { cores.foldl (fun (s : State) c => s.onCore c Core.unbound)
      (cores.foldl (fun (s : State) c => s.saveCore ctx c (area c)) s) with runtimeCalls := [] } ctx { x with moving := true } := by
  have hcalls : (cores.foldl (fun (s : State) c => s.onCore c Core.unbound)
      (cores.foldl (fun (s : State) c => s.saveCore ctx c (area c)) s)).runtimeCalls = [] := by
    rw [foldl_frame (f := fun (s : State) c => s.onCore c Core.unbound) State.runtimeCalls (fun _ _ => rfl),
      foldl_frame State.runtimeCalls (fun s c => State.runtimeCalls_saveCore s ctx c (area c)), h]
  unfold State.copyPhase
  simp only [hcalls, List.filter_nil, List.foldl_nil]

/-- The copy phase begins once every core is quiescent and every area can be written. -/
theorem exec_saveCopy_begins {ctx : Nat} {h : CmdHead} {urgent : Bool} {x : Context} {s : State} (hx : s.context? ctx = some x)
    (hp : x.preempt = some (h, urgent)) (hm : x.moving = false)
    (hall : ∀ c ∈ s.coresOf ctx, (s.core c).quiet = true ∧ (s.core c).stopped = false ∧ (x.areas.find? fun e => e.1 == c).isSome = true ∧
      s.areaReady (x.area c) (s.core c).liveGranules true = true) :
    exec (.saveCopy ctx) s = .next (s.copyPhase ctx x (s.coresOf ctx) x.area) := by
  have hquiet : ((s.coresOf ctx).all fun c => (s.core c).quiet && !(s.core c).stopped &&
      ((x.areas.find? fun e => e.1 == c).map (·.2)).isSome) = true := by
    refine List.all_eq_true.mpr fun c hc => ?_
    obtain ⟨hq, hs, ha, -⟩ := hall c hc
    rw [hq, hs, Option.isSome_map, ha]
    rfl
  have hready : ((s.coresOf ctx).all fun c => s.areaReady (x.area c) (s.core c).liveGranules true) = true :=
    List.all_eq_true.mpr fun c hc => (hall c hc).2.2.2
  change execSaveCopy ctx s = _
  unfold execSaveCopy
  unfold Context.area at hready
  simp only [hx, hp, hm, hquiet, hready]
  rfl

/-- R315–R317: pre-emption. -/
theorem preempting : Preempting := by
  refine ⟨fun h ctx urgent areas x s hs hx hok hp hm => ⟨fun hst => ?_, fun hst => ?_⟩,
    fun c ctx s hc hst hq hlo hhi hu hg hsl hh hx => ?_, fun c s h => ?_, fun c ctx s hc hst hset hx hall => ?_,
    fun c t s hlo hm hw hsk hl hb hf hv => ?_, fun c s hm => ?_,
    fun ctx h urgent x s hx hp => ⟨fun hm hall hcalls => ?_, fun hm hq => ?_, fun hm hsv => ?_, fun hm hsv => ?_⟩,
    fun k c => ?_⟩
  · refine hs.command.trans (congrArg Host.Outcome.next ?_)
    simp only [State.context?_started, hx, hok, hp, hm]
    rcases hst with hst | hst <;> rw [hst] <;> rfl
  · refine hs.command.trans (congrArg Host.Outcome.next ?_)
    simp only [State.context?_started, hx, hok, hp, hm]
    rcases hst with hst | hst <;> rw [hst] <;> rfl
  · rw [exec_quiesce_settled hc hst ((Core.settled_iff _).mpr ⟨hq, hlo, hhi, hu, hg, hsl, hh⟩), if_pos hx]
  · refine exec_quiesce_unsettled (Bool.eq_false_iff.mpr fun hset => ?_)
    obtain ⟨-, hlo, hhi, hu, hg, hsl, hh⟩ := (Core.settled_iff _).mp hset
    simp [hlo, hhi, hu, hg, hsl, hh] at h
  · rw [exec_quiesce_settled hc hst hset, if_neg hx, if_pos hall]
  · change execIdemAbort c s = _
    unfold execIdemAbort
    have hr : s.resolveWait c false t =
        (true, s.onCore c fun k => k.onTask false fun t => { t with wait := .none, fail := none, stalled := false }) := by
      simp [State.resolveWait, hw, hsk, hb]
    simp [hlo, hm, hr, hf, hl, hv]
  · change execIdemAbort c s = _
    unfold execIdemAbort
    cases hlo : (s.core c).lo with
    | none => simp [hlo]
    | some t => simp [hlo, hm]
  · exact (exec_saveCopy_begins hx hp hm hall).trans (congrArg Host.Outcome.next (State.copyPhase_of_no_calls hcalls ctx x _ _))
  · change execSaveCopy ctx s = _
    unfold execSaveCopy
    have hquiet : ((s.coresOf ctx).all fun c => (s.core c).quiet && !(s.core c).stopped &&
        ((x.areas.find? fun e => e.1 == c).map (·.2)).isSome) = false := by
      obtain ⟨c, hc, hq⟩ := hq
      exact List.all_eq_false.mpr ⟨c, hc, by simp [hq]⟩
    simp only [hx, hp, hm, hquiet]
    rfl
  · change execSaveCopy ctx s = _
    simp [execSaveCopy, hx, hp, hm, hsv]
  · change execSaveCopy ctx s = _
    simp [execSaveCopy, hx, hp, hm, hsv]
  · obtain ⟨h1, h2, h3, h4⟩ := image_fields k c
    exact ⟨h1, h2, h3, h4, rfl, rfl, rfl, rfl⟩

end Sys2Proof.Machine

/-! PROOFS. Restore (R318). -/

namespace Sys2Proof

/-- An insertion lists nothing new but what is inserted. -/
theorem Tbl.mem_of_mem_insert {α : Type} {t : Tbl α} {k : Nat} {v : α} {e : Nat × α} (h : e ∈ t.insert k v) : e = (k, v) ∨ e ∈ t := by
  induction t with
  | nil => simpa [Tbl.insert] using h
  | cons a r ih =>
    unfold Tbl.insert at h
    split at h
    · simpa using h
    · split at h
      · rcases List.mem_cons.mp h with h | h
        · exact Or.inl h
        · exact Or.inr (List.mem_cons_of_mem _ h)
      · rcases List.mem_cons.mp h with h | h
        · exact Or.inr (h ▸ List.mem_cons_self)
        · exact (ih h).imp_right (List.mem_cons_of_mem _)

theorem Tbl.mem_of_mem_put {α : Type} [DecidableEq α] {d : α} {t : Tbl α} {k : Nat} {v : α} {e : Nat × α} (h : e ∈ t.put d k v) :
    e = (k, v) ∨ e ∈ t := by
  unfold Tbl.put at h
  split at h
  · exact Or.inr (Tbl.mem_erase.mp h).1
  · exact Tbl.mem_of_mem_insert h

namespace Machine

/-- No Waybill entry of an image is in flight: one that is not refused is free. -/
theorem WbEntry.state_ofBits (v : Nat) : (WbEntry.ofBits v).state ≠ 1 := by
  unfold WbEntry.ofBits
  split
  · exact (by decide : 2 ≠ 1)
  · decide

/-- A core whose Waybill is restored from an image owes no acknowledgement. -/
theorem Core.unack_of_restored {k : Core} (bits : Nat → Nat) (l : List Nat)
    (h : k.waybill = l.foldl (fun t n => Tbl.put WbEntry.free t n (WbEntry.ofBits (bits n))) []) : k.unack = 0 := by
  have hall : ∀ e ∈ k.waybill, e.2.state ≠ 1 := by
    rw [h]
    refine foldl_keeps (P := fun t : Tbl WbEntry => ∀ e ∈ t, e.2.state ≠ 1) (fun t n _ ht e he => ?_) (by simp)
    rcases Tbl.mem_of_mem_put he with rfl | he
    · exact WbEntry.state_ofBits _
    · exact ht e he
  simpa [Core.unack] using hall

/-- A core that acquires in SYSTEM keeps all but its L1 and its descriptor cache. -/
theorem field_acquire_setCore {α : Type} (f : Core → α) (hf : ∀ k l1, f { k with l1 := l1, dcache := [] } = f k) (s : State) (c : Nat)
    (k : Core) : f (((s.setCore c k).acquire c .system).core c) = f k := by
  rw [State.acquire, State.core_onCore_self, State.core_setCore_self]
  exact hf k _

/-- Its descriptor cache is empty. -/
theorem dcache_acquire (s : State) (c : Nat) : ((s.acquire c .system).core c).dcache = [] := by
  rw [State.acquire, State.core_onCore_self]
  rfl

/-- R318: what a core is restored to. -/
theorem core_restoreCore (s : State) (ctx c area : Nat) :
    let b := s.hostRead area 0x5000
    let word := fun (o : Nat) => leNat ((b.drop o).take 8)
    let k := (s.restoreCore ctx c area).core c
    k.ctx = some ctx ∧ k.lo = none ∧ k.hi = none ∧ k.regs.live = w64 (word 0x10) ∧ k.regs.asid = w64 (word 0x1D0) ∧
    k.regs.ptroot = w64 (word 0x1D8) ∧ k.bankLo.rng = w64 (word 0x188) ∧ k.regs.cap = w64 (word 0x1E0) ∧ k.regs.cyc = (s.core c).regs.cyc ∧
    k.regs.tstat = Regs.reset.tstat ∧ k.dcache = [] ∧ k.vu = Core.reset.vu ∧ k.unack = 0 := by
  have hfield : ∀ {α : Type} (f : Core → α), (∀ k l1, f { k with l1 := l1, dcache := [] } = f k) →
      f ((s.restoreCore ctx c area).core c) = f _ := fun f hf => field_acquire_setCore f hf s c _
  exact ⟨hfield (·.ctx) fun _ _ => rfl, hfield (·.lo) fun _ _ => rfl, hfield (·.hi) fun _ _ => rfl, hfield (·.regs.live) fun _ _ => rfl,
    hfield (·.regs.asid) fun _ _ => rfl, hfield (·.regs.ptroot) fun _ _ => rfl, hfield (·.bankLo.rng) fun _ _ => rfl,
    hfield (·.regs.cap) fun _ _ => rfl, hfield (·.regs.cyc) fun _ _ => rfl, hfield (·.regs.tstat) fun _ _ => rfl, dcache_acquire _ _,
    hfield (·.vu) fun _ _ => rfl, (hfield Core.unack fun _ _ => rfl).trans (Core.unack_of_restored _ _ rfl)⟩

theorem areaParams_one (c area : Nat) : areaParams [(c, area)] = [c, area] := rfl

/-- R318: restore. -/
theorem restoring : Restoring := by
  refine ⟨fun h ctx c area x s hs hx hst hm hok => ⟨fun hc hr => ?_, fun hc => ?_⟩,
    fun h ctx c area x s hs hx hst hm hok hr => ⟨fun hsv => ?_, fun hsv hc => ⟨fun hf hsound => ?_, fun hbad => ?_⟩⟩, core_restoreCore⟩
  · refine hs.command.trans (congrArg Host.Outcome.next ?_)
    simp [hx, hok, hst, hm, hc, hr, areaParams_one]
  · refine hs.command.trans (congrArg Host.Outcome.next ?_)
    have : (s.core c).ctx.isSome = true := Option.isSome_iff_ne_none.mpr hc
    simp [hx, hok, hst, hm, this, areaParams_one]
  · refine hs.command.trans (congrArg Host.Outcome.next ?_)
    simp [hx, hok, hst, hm, hr, hsv]
  · refine hs.command.trans (congrArg Host.Outcome.next ?_)
    simp [hx, hok, hst, hm, hr, hsv, hc, hf, hsound]
  · refine hs.command.trans (congrArg Host.Outcome.next ?_)
    simp [hx, hok, hst, hm, hr, hsv, hc, hbad]

/-- Settles O52: pre-emption and restore from the rules of a command's row and of a quiescing core, the image from its pieces, save traffic from
the requests of its fold. -/
theorem preemptionAndRestore : Obligations.PreemptionAndRestore := ⟨preempting, saveTraffic, restoring⟩

end Machine
end Sys2Proof

/-! PROOFS. BAR0, and the creation and destruction of contexts (R58, R322, R331–R335, R354, R356). -/

namespace Sys2Proof.Machine

/-! ## BAR0 (R331, R332, R334) -/

/-- R331, R332, R334, R368: what BAR0 reads as, and what is written to it. -/
theorem bar0 : Bar0 := by
  refine ⟨fun s go n j hn hj => ?_, fun s n => ?_, fun s h op ps ctx => ?_, fun s go n j hn hj => ?_, fun s go a ha => ?_,
    fun s off bytes hoff => ?_, fun s off n hoff => ⟨fun hp => ?_, fun hp => ?_⟩, fun s h hs => hs.command⟩
  · have hblock : (0x8000 + 256 * n + 4 + j - 0x8000) / 256 = n := by omega
    have hoff : (0x8000 + 256 * n + 4 + j) % 256 = 4 + j := by omega
    unfold State.barByte
    simp only [if_neg (show ¬0x8000 + 256 * n + 4 + j < 0x8000 by omega), if_pos (show 0x8000 + 256 * n + 4 + j < 0x9000 by omega), hblock, hoff]
    rw [if_pos (by omega), Nat.add_sub_cancel_left]
  · simp [State.slotStatus]
  · obtain ⟨param, hp⟩ := s.cmdSlot_started h op ps ctx
    simp [State.slotStatus, hp]
  · have hbyte : ∀ q, q < 4 → (32 * n + 8 * q + j) / 32 = n ∧ (32 * n + 8 * q + j) % 32 / 8 = q ∧ (32 * n + 8 * q + j) % 8 = j ∧
        32 * n + 8 * q + j < 0x8000 := fun q hq => by omega
    obtain ⟨h0, h0q, h0j, h0r⟩ := hbyte 0 (by decide)
    obtain ⟨h1, h1q, h1j, h1r⟩ := hbyte 1 (by decide)
    obtain ⟨h3, h3q, h3j, h3r⟩ := hbyte 3 (by decide)
    simp only [Nat.mul_zero, Nat.add_zero, Nat.reduceMul] at h0 h0q h0j h0r h1 h1q h1j h1r h3 h3q h3j h3r
    refine ⟨?_, ?_, ?_⟩
    · simp only [State.barByte, if_pos h0r, h0, h0q, h0j]
    · simp only [State.barByte, if_pos h1r, h1, h1q, h1j]
    · simp only [State.barByte, if_pos h3r, h3, h3q, h3j, Window.status, Nat.mul_comm 256]
  · unfold State.barByte
    exact (if_neg (by omega)).trans (if_neg (by omega))
  · unfold barWriteStep
    rcases hoff with hoff | hoff
    · have hmax : Nat.max off 0x8000 = off := Nat.max_eq_left (by omega)
      simp [hmax, Nat.sub_eq_zero_of_le hoff, Nat.sub_eq_zero_of_le (show 0x8000 ≤ off by omega)]
    · simp [hoff]
  · have hmin : Nat.min n (0x10000 - off) = n := Nat.min_eq_left (by omega)
    simp only [barReadStep, hp, hmin]
    rfl
  · unfold barReadStep
    exact if_pos (by simpa using hp)

/-! ## Contexts (R322, R335, R354) -/

@[simp] theorem State.mem_markWritten (s : State) (g : Nat) (c : Option Nat) : (s.markWritten g c).mem = s.mem := by
  unfold State.markWritten
  split
  · rfl
  · split <;> rfl

/-- An engine's write replaces the bytes. -/
theorem State.read_engineWrite (s : State) (pa : Nat) {bytes : List Byte} {i : Nat} (hi : i < bytes.length) :
    (s.engineWrite pa bytes).mem.read (pa + i) = bytes.getD i 0 := by
  unfold State.engineWrite
  rw [foldl_frame State.mem (fun s g => State.mem_markWritten s g none)]
  exact Memory.read_writeN_in _ _ _ hi

/-- The parameters that CTXCREATE accepts. -/
theorem createArgs {areas : List (Nat × Nat)} {pt : Nat} (hok : areasOk areas = true) (hal : pt % 2 ^ 16 = 0) (hlt : pt < 2 ^ 52) :
    (!areasOk areas || pt % 2 ^ 16 != 0 || decide (2 ^ 52 ≤ pt)) = false := by
  rw [hok, hal, decide_eq_false (Nat.not_le.mpr hlt)]
  rfl

/-- R322, R335, R354: the creation of a context. -/
theorem creating : Creating := by
  refine ⟨fun h pt dt n areas s hs hok hal hlt hlen hfree => ?_, fun s pa i hi => ?_, fun s k n hn => ?_,
    fun k n pt d => ⟨rfl, rfl, rfl, rfl, rfl, rfl⟩, fun h pt dt areas s hs hok hal hlt hor => ?_⟩
  · intro u d walks hnew hwait
    have hnone : areas.any (fun e => (s.core e.1).ctx.isSome) = false := by
      simpa using hfree
    have hargs := createArgs hok hal hlt
    have hroom : ¬(Config.maxContexts ≤ s.contexts.length ∨ areas.any (fun e => (s.core e.1).ctx.isSome) = true) := by
      rw [hnone]
      simpa [Config.maxContexts] using hlen
    constructor
    · intro hmapped hready
      refine hs.command.trans (congrArg Host.Outcome.next ?_)
      simp only [u, d, walks] at hnew hwait hmapped hready ⊢
      simp only [State.contexts_started, State.core_started, hargs, if_neg hroom, Bool.false_eq_true, if_false, hnew, hwait, hmapped, ne_eq,
        not_true_eq_false, hready, CmdRes.state_did]
    · intro hmapped
      refine hs.command.trans (congrArg Host.Outcome.next ?_)
      simp only [u, d, walks] at hnew hwait hmapped ⊢
      simp only [State.contexts_started, State.core_started, hargs, if_neg hroom, Bool.false_eq_true, if_false, hnew, hwait, if_pos hmapped,
        CmdRes.state_did]
  · refine (s.read_engineWrite pa (bytes := List.replicate 64 0) (by rwa [List.length_replicate])).trans ?_
    exact List.getD_replicate 0 hi
  · have := List.find?_some hn
    simpa using this
  · refine hs.command.trans (congrArg Host.Outcome.next ?_)
    have hfull : Config.maxContexts ≤ s.contexts.length ∨ areas.any (fun e => (s.core e.1).ctx.isSome) = true := by
      simpa [Config.maxContexts, Option.isSome_iff_ne_none] using hor
    simp only [State.contexts_started, State.core_started, createArgs hok hal hlt, Bool.false_eq_true, if_false, if_pos hfull, CmdRes.state_did]

end Sys2Proof.Machine

/-! PROOFS. The destruction of contexts, and loads of code (R52, R58, R335, R342, R356). -/

namespace Sys2Proof.Machine

/-! ## Contexts that end (R335, R356) -/

/-- A core of a context is listed as one. -/
theorem State.mem_coresOf {s : State} {c ctx : Nat} (h : (s.core c).ctx = some ctx) : c ∈ s.coresOf ctx := by
  unfold State.core Tbl.getD at h
  cases hf : Tbl.find? s.cores c with
  | none => simp [hf, Core.reset] at h
  | some k =>
    rw [hf] at h
    exact List.mem_map.mpr ⟨(c, k), List.mem_filter.mpr ⟨Tbl.mem_of_find? hf, by simpa using h⟩, rfl⟩

/-- Once the cores of a context are unbound, none is left in it. -/
theorem State.ctx_unbound (s : State) (ctx c : Nat) :
    (((s.coresOf ctx).foldl (fun s c => s.onCore c Core.unbound) s).core c).ctx ≠ some ctx := by
  have hkeep : ∀ (t : State), ∀ d ∈ s.coresOf ctx, (t.core c).ctx ≠ some ctx → ((t.onCore d Core.unbound).core c).ctx ≠ some ctx :=
    fun t d _ ht => by
      rcases eq_or_ne c d with rfl | hne
      · rw [State.core_onCore_self]
        exact nofun
      · rwa [State.core_onCore_ne _ _ hne]
  by_cases hc : (s.core c).ctx = some ctx
  · refine foldl_reaches (P := fun t : State => (t.core c).ctx ≠ some ctx) (State.mem_coresOf hc) (fun t => ?_) hkeep s
    rw [State.core_onCore_self]
    exact nofun
  · exact foldl_keeps (P := fun t : State => (t.core c).ctx ≠ some ctx) hkeep hc

/-- A core without the translations and parked requests of a context. -/
def Core.forgotten (k : Core) (ctx : Nat) : Core :=
  { k with
    tlb := k.tlb.filter fun t => t.asid != ctx,
    lcl := { k.lcl with fullWait := k.lcl.fullWait.filter (fun w => !(w.r.ctx == some ctx)),
                        barWait := k.lcl.barWait.filter fun w => !(w.r.ctx == some ctx) } }

/-- R335: what is left of a context. -/
theorem context?_forgetContext (s : State) (ctx : Nat) :
    (s.forgetContext ctx).context? ctx = none ∧ ∀ c, ((s.forgetContext ctx).core c).ctx ≠ some ctx := by
  refine ⟨Tbl.find?_erase_self _ _, fun c => ?_⟩
  have hcore : (s.forgetContext ctx).core c = (((s.coresOf ctx).foldl (fun s c => s.onCore c Core.unbound) s).core c).forgotten ctx :=
    Tbl.getD_map _ (fun k => Core.forgotten k ctx) c rfl
  rw [hcore]
  exact s.ctx_unbound ctx c

/-- R58, R335, R356: the destruction of a context. -/
theorem destroying : Destroying := by
  refine ⟨fun h ctx x s hs hx hst hp => ⟨fun hb => ?_, fun hb hw => ⟨fun hg => ?_, fun hg hr => ?_⟩⟩, context?_forgetContext,
    fun w => ?_, fun h ctx s hs hor => ?_⟩
  · refine hs.command.trans (congrArg Host.Outcome.next ?_)
    simp [hx, hst, hp, hb]
  · refine hs.command.trans (congrArg Host.Outcome.next ?_)
    have hany : (liveSlots (s.started h 2 [ctx] (some ctx)) ctx x).any (s.started h 2 [ctx] (some ctx)).growing = true := by
      simpa using hg
    unfold liveSlots at hany
    simp [hx, hst, hp, hb, hw, hany]
  · refine hs.command.trans (congrArg Host.Outcome.next ?_)
    have hany : (liveSlots (s.started h 2 [ctx] (some ctx)) ctx x).any (s.started h 2 [ctx] (some ctx)).growing = false := by
      simpa using hg
    unfold liveSlots at hany hr ⊢
    simp [hx, hst, hp, hb, hw, hany, hr]
  · intro g
    have hg : g < 4096 := Nat.mod_lt _ (by decide)
    unfold releasedWord bitsOf
    simp only [g, bitsOf] at hg ⊢
    split <;> constructor <;> omega
  · refine hs.command.trans (congrArg Host.Outcome.next ?_)
    rcases hor with hx | ⟨x, hx, hst | hp⟩
    · simp [hx]
    · simp [hx, hst]
    · simp [hx, Option.isSome_iff_ne_none.mpr hp]

end Sys2Proof.Machine

/-! PROOFS. Loads of code (R52, R335, R342). -/

namespace Sys2Proof.Machine

/-- A command's parameter that can be read. -/
theorem State.paramBytes_sound {s : State} {h : CmdHead} {src : Nat} {given : List Byte} {f : List Byte → State → CmdRes}
    (hp : ParamSound s src given.length) : s.paramBytes h src given f = f (s.param src given) s := by
  obtain ⟨hr, hs⟩ := hp
  unfold State.paramBytes
  rw [hr, hs]
  rfl

/-- One with poison among its bytes. -/
theorem State.paramBytes_poisoned {s : State} {h : CmdHead} {src : Nat} {given : List Byte} {f : List Byte → State → CmdRes}
    (hr : s.hostReady src given.length false = .ok) (hs : s.hostSound src given.length = false) :
    s.paramBytes h src given f = .did ((s.detectAll src (hbmPart src given.length)).complete h 4 []) := by
  unfold State.paramBytes
  rw [hr, hs]
  rfl

section
variable {s : State} {h : CmdHead} {ctx dst src : Nat} {r : Rect} {image : List HW} {f : State → State} {g : Core → Core}

/-- A load of code on cores that run its context and no task. -/
theorem State.loadCode_reads (hok : loadOk r dst image.length = true) (hx : s.context? ctx ≠ none)
    (hall : ∀ c ∈ rectCores r, (s.core c).ctx = some ctx ∧ (s.core c).lo = none ∧ (s.core c).hi = none) :
    s.loadCode h ctx r dst src image f g = s.paramBytes h src (halfBytes image) fun bytes s =>
      .did (f (((rectCores r).foldl (fun s c => s.onCore c fun k => g (k.writeImem (2 * dst) bytes)) s).complete h 0 [])) := by
  have hcores : ((rectCores r).all fun c => (s.core c).ctx == some ctx && (s.core c).lo.isNone && (s.core c).hi.isNone) = true := by
    simpa [and_assoc] using hall
  unfold State.loadCode
  rw [hok, hcores, Option.isNone_eq_false_iff.mpr (Option.isSome_iff_ne_none.mpr hx)]
  rfl

/-- The image is written to every core. -/
theorem State.loadCode_sound (hok : loadOk r dst image.length = true) (hx : s.context? ctx ≠ none)
    (hall : ∀ c ∈ rectCores r, (s.core c).ctx = some ctx ∧ (s.core c).lo = none ∧ (s.core c).hi = none)
    (hp : ParamSound s src (halfBytes image).length) :
    (s.loadCode h ctx r dst src image f g).state =
      f (((rectCores r).foldl (fun t c => t.onCore c fun k => g (k.writeImem (2 * dst) (s.param src (halfBytes image)))) s).complete h 0 []) := by
  rw [State.loadCode_reads hok hx hall, State.paramBytes_sound hp]
  rfl

/-- An image that cannot be read. -/
theorem State.loadCode_poisoned (hok : loadOk r dst image.length = true) (hx : s.context? ctx ≠ none)
    (hall : ∀ c ∈ rectCores r, (s.core c).ctx = some ctx ∧ (s.core c).lo = none ∧ (s.core c).hi = none)
    (hr : s.hostReady src (halfBytes image).length false = .ok) (hs : s.hostSound src (halfBytes image).length = false) :
    (s.loadCode h ctx r dst src image f g).state = (s.detectAll src (hbmPart src (halfBytes image).length)).complete h 4 [] := by
  rw [State.loadCode_reads hok hx hall, State.paramBytes_poisoned hr hs]
  rfl

end

/-- R52, R335, R342: loads of code. -/
theorem loadingCode : LoadingCode := by
  refine ⟨fun h ctx dst src r image s hs hok hx hall => ⟨fun hp => ?_, fun hr hp => ?_, fun tvec digest ht hp => ?_⟩,
    fun h ctx dst src r image s hs hok hor => ?_, fun h ctx dst tvec src digest r image a b s hs ht hab => ?_,
    fun k off bytes => ⟨fun i hi => Memory.read_writeN_in _ _ _ hi, fun a ha => Memory.read_writeN_out _ _ _ ha⟩⟩
  · exact hs.command.trans (congrArg Host.Outcome.next (State.loadCode_sound (f := id) (g := id) hok hx hall hp))
  · exact hs.command.trans (congrArg Host.Outcome.next (State.loadCode_poisoned (f := id) (g := id) hok hx hall hr hp))
  · refine hs.command.trans (congrArg Host.Outcome.next ?_)
    refine (congrArg CmdRes.state ((if_neg (Nat.not_le.mpr ht)).trans (if_neg Bool.false_ne_true))).trans ((State.loadCode_sound
      (s := s.started h 4 (loadParams ctx r dst src image ++ [tvec, digest, 1, 1]) (some ctx)) hok hx hall hp).trans ?_)
    have hfw : ∀ (g : Core → Core) (v : State), ((rectCores r).foldl (fun s c => s.onCore c g) v).fw = v.fw := fun g v =>
      foldl_frame (f := fun (s : State) c => s.onCore c g) State.fw (fun _ _ => rfl) _ v
    dsimp only [State.complete]
    rw [hfw]
    rfl
  · refine hs.command.trans (congrArg Host.Outcome.next ?_)
    have hbad : ((s.context? ctx).isNone || !((rectCores r).all fun c =>
        (s.core c).ctx == some ctx && (s.core c).lo.isNone && (s.core c).hi.isNone)) = true := by
      rcases hor with hx | ⟨c, hc, hne⟩
      · simp [hx]
      · have : ((rectCores r).all fun c => (s.core c).ctx == some ctx && (s.core c).lo.isNone && (s.core c).hi.isNone) = false := by
          refine List.all_eq_false.mpr ⟨c, hc, ?_⟩
          rcases hne with hne | hne <;> simp [hne]
        rw [this]
        exact Bool.or_true _
    simp [State.loadCode, hok, hbad]
  · refine hs.command.trans (congrArg Host.Outcome.next ?_)
    simp [Nat.not_le.mpr ht, hab]

end Sys2Proof.Machine

/-! PROOFS. Descriptor slots (R58, R117, R118, R335, R354). -/

namespace Sys2Proof.Machine

/-! ## Arena headers (R117, R118) -/

/-- The header of an empty arena, cut to `n` bytes: only byte 4 is not zero. -/
def arenaHeader (n : Nat) : List Byte := (leBytes 4 0 ++ leBytes 4 1 ++ List.replicate n 0).take n

theorem length_arenaHeader (n : Nat) : (arenaHeader n).length = n := by
  rw [arenaHeader, List.length_take, List.length_append, List.length_replicate]
  exact Nat.min_eq_left (Nat.le_add_left _ _)

theorem arenaHeader_get {n j : Nat} (hj : j < n) : (arenaHeader n)[j]? = some (if j = 4 then 1 else 0) := by
  rw [arenaHeader, List.getElem?_take_of_lt hj]
  rcases Nat.lt_or_ge j 8 with h8 | h8
  · rw [List.getElem?_append_left (by simpa using h8)]
    revert h8
    clear hj
    revert j
    decide
  · rw [List.getElem?_append_right (by simpa using h8), List.getElem?_replicate, if_pos (by simp; omega), if_neg (by omega)]

theorem arenaHeader_256 : leNat ((arenaHeader 256).take 4) = 0 ∧ leNat (((arenaHeader 256).drop 4).take 4) = 1 ∧
    ∀ b ∈ (arenaHeader 256).drop 8, b = 0 :=
  ⟨by decide, by decide, by decide⟩

/-- R117, R118: the headers that a map descriptor asks for. -/
theorem arenaHeaders_spec (d : Nat) :
    (dfield d 0 1 ≠ 1 → arenaHeaders d = []) ∧
    (dfield d 0 1 = 1 → dfield d 40 4 ≠ 0 → ∃ e ∈ arenaHeaders d, e.1 = dfield d 32 8 ∧ e.2.length = 256 ∧ leNat (e.2.take 4) = 0 ∧
      leNat ((e.2.drop 4).take 4) = 1 ∧ ∀ b ∈ e.2.drop 8, b = 0) ∧
    (dfield d 0 1 = 1 → dfield d 5 1 = 4 → ∃ e ∈ arenaHeaders d, e.1 = dfield d 48 8 ∧ e.2.length = dfield d 60 2 ∧
      ∀ j, j < e.2.length → e.2[j]? = some (if j = 4 then 1 else 0)) := by
  refine ⟨fun hk => ?_, fun hk ho => ⟨(dfield d 32 8, arenaHeader 256), ?_, rfl, length_arenaHeader _, arenaHeader_256⟩,
    fun hk hv => ⟨(dfield d 48 8, arenaHeader (dfield d 60 2)), ?_, rfl, length_arenaHeader _, fun j hj => ?_⟩⟩
  · exact if_pos hk
  · unfold arenaHeaders
    simp only [hk, ho, ne_eq, not_true_eq_false, if_false, not_false_eq_true, if_true]
    exact List.mem_append_left _ List.mem_cons_self
  · unfold arenaHeaders
    simp only [hk, hv, ne_eq, not_true_eq_false, if_false, if_true]
    exact List.mem_append_right _ List.mem_cons_self
  · exact arenaHeader_get (by rwa [length_arenaHeader] at hj)

/-! ## Headers that pages map -/

/-- No header waits for a walk. -/
theorem headsWait_of_walked {s : State} {l : List (CtxParts × List Byte)} (h : ∀ e ∈ l, ∀ t, e.1 ≠ .wait t) (runs : List (Nat × Nat)) :
    headsWait s l runs = s.ready runs true := by
  unfold headsWait
  rw [List.findSome?_eq_none_iff.mpr fun e he => ?_]
  split
  · next t ht => exact absurd ht (h e he t)
  · rfl

/-- A page maps every header, or one has none. -/
theorem length_headParts_eq {l : List (CtxParts × List Byte)} (hw : ∀ e ∈ l, ∀ t, e.1 ≠ .wait t) :
    (headParts l).length = l.length ↔ ∀ e ∈ l, e.1 ≠ .fail := by
  rw [headParts, List.filterMap_length_eq_length]
  refine forall₂_congr fun e he => ?_
  split
  · next parts hp => simp [hp]
  · next hno =>
    cases hp : e.1 with
    | ok parts => exact absurd hp (hno parts)
    | fail => simp
    | wait t => exact absurd hp (hw e he t)

/-! ## Slots (R58, R335) -/

/-- What DESCSET makes of a slot whose page is mapped and can be written. -/
theorem SlotAt.setDescriptor {s : State} {h : CmdHead} {ctx slot pa d : Nat} {x : Context} {heads : List (CtxParts × List Byte)}
    (hheads : heads = (arenaHeaders d).map fun e => (s.ctxParts ctx x.ptroot e.1 e.2.length, e.2))
    (hat : SlotAt s ctx x slot pa ((headParts heads).flatMap Prod.fst)) (hw : ∀ e ∈ heads, ∀ t, e.1 ≠ .wait t)
    (hk1 : 1 ≤ dfield d 0 1) (hk3 : dfield d 0 1 ≤ 3) :
    (s.setDescriptor h ctx x slot d).state =
      let old := leNat (s.bytesNow pa 64)
      let gen := if bitsOf old 27 16 = 0 then 1 else bitsOf old 27 16
      if dfield old 0 1 ≠ 0 then s.complete h 3 []
      else if ∃ e ∈ heads, e.1 = .fail then s.complete h 4 []
      else ((((headParts heads).foldl (fun s e => s.writeParts e.1 e.2) s).engineWrite pa
        (leBytes 64 (d / 2 ^ 28 * 2 ^ 28 + gen * 2 ^ 16 + d % 2 ^ 16))).forgetSlot pa).complete h 0 [slot * 4096 + gen] := by
  obtain ⟨-, -, hin, hpage, hready, hsound⟩ := hat
  have hkind : ¬(2 ^ (w64 x.dtab).bits 4 0 ≤ slot ∨ dfield d 0 1 = 0 ∨ 4 ≤ dfield d 0 1) := by omega
  have hfail : (headParts heads).length ≠ heads.length ↔ ∃ e ∈ heads, e.1 = .fail := by
    rw [ne_eq, length_headParts_eq hw]
    simp
  unfold State.setDescriptor
  simp only [if_neg hkind, hpage, List.headD_cons, ← hheads, headsWait_of_walked hw, hready, hsound, hfail, Bool.false_eq_true, if_false]
  split
  · rfl
  · split <;> rfl

/-- A descriptor of no kind, or of a slot past the table, is BADCMD. -/
theorem State.setDescriptor_bad {s : State} {h : CmdHead} {ctx slot d : Nat} {x : Context}
    (hbad : 2 ^ (w64 x.dtab).bits 4 0 ≤ slot ∨ dfield d 0 1 = 0 ∨ 4 ≤ dfield d 0 1) :
    s.setDescriptor h ctx x slot d = .did (s.complete h 1 []) := if_pos hbad

/-- The row of DESCSET for a live context. -/
theorem exec_descset {h : CmdHead} {ctx slot src : Nat} {x : Context} {desc : List Byte} {s u : State} (hs : Starts s h (some ctx))
    (hu : u = s.started h 5 (ctx :: slot :: src :: desc.map BitVec.toNat) (some ctx)) (hx : u.context? ctx = some x) (hst : x.state ≠ .failed)
    (hlen : desc.length = 64) (hp : ParamSound u src 64) :
    exec (.descset h ctx slot ⟨src, desc⟩) s = .next (u.setDescriptor h ctx x slot (leNat (u.param src desc))).state := by
  refine hs.command.trans (congrArg Host.Outcome.next ?_)
  have hfail : (x.state == CtxState.failed) = false := by simpa using hst
  dsimp only
  rw [← hu, hx]
  simp only [hfail, Bool.false_eq_true, if_false, hlen, ne_eq, not_true_eq_false]
  rw [State.paramBytes_sound (by rwa [hlen])]

/-- R58, R117, R118, R335, R354: DESCSET and DESCRELEASE. -/
theorem descriptorSlots : DescriptorSlots := by
  refine ⟨fun h ctx slot src pa x desc s hs hlen => ?_, arenaHeaders_spec,
    fun h ctx slot src x desc s hs hx hst hslot hlen => ⟨fun hp => ?_, fun hr => ?_⟩,
    fun h ctx slot pa x s hs hr hat => ?_, fun h ctx slot e s he => ⟨fun hb => ?_, fun hb => ?_⟩⟩
  · intro u d heads found old gen hp hat hw
    rw [exec_descset hs rfl hat.named hat.alive hlen hp]
    refine ⟨fun hk1 hk3 hold hfail => ?_, fun hk1 hk3 hold hfail => ?_, fun hk1 hk3 hold => ?_, fun hk => ?_⟩
    · rw [hat.setDescriptor rfl hw hk1 hk3]
      exact congrArg Host.Outcome.next ((if_neg (not_not.mpr hold)).trans (if_neg fun ⟨e, he, hef⟩ => hfail e he hef))
    · rw [hat.setDescriptor rfl hw hk1 hk3]
      exact congrArg Host.Outcome.next ((if_neg (not_not.mpr hold)).trans (if_pos hfail))
    · rw [hat.setDescriptor rfl hw hk1 hk3]
      exact congrArg Host.Outcome.next (if_pos hold)
    · rw [State.setDescriptor_bad (Or.inr hk)]
      rfl
  · rw [exec_descset hs rfl hx hst hlen hp, State.setDescriptor_bad (Or.inl hslot)]
    rfl
  · change execDescrelease h ctx slot s = _
    unfold execDescrelease
    rw [hr]
    refine hs.command.trans (congrArg Host.Outcome.next ?_)
    simp [hx, hst, hslot]
  · change execDescrelease h ctx slot s = _
    unfold execDescrelease
    rw [hr]
    refine hs.command.trans (congrArg Host.Outcome.next ?_)
    obtain ⟨hx, hst, hin, hpage, hready, hsound⟩ := hat
    have hfail : (x.state == CtxState.failed) = false := by simpa using hst
    simp only [hx, hfail, if_neg (Nat.not_le.mpr hin), hpage, List.headD_cons, hready, hsound]
    rfl
  · change execDescrelease h ctx slot s = _
    unfold execDescrelease
    rw [he]
    exact if_pos hb
  · change execDescrelease h ctx slot s = _
    unfold execDescrelease
    rw [he]
    exact if_neg (by simp [hb])

end Sys2Proof.Machine

/-! PROOFS. The commands that write one table, and the commands of Ebpex together (R45, R100, R311, R335, R336, R338, R341, R342, R365). -/

namespace Sys2Proof.Machine

/-- Bytes of host memory can be read and written at once. -/
theorem State.hostReady_of_host (s : State) {a : Nat} (n : Nat) (w : Bool) (h : Config.hbmSize ≤ a) : s.hostReady a n w = .ok := by
  unfold State.hostReady
  exact if_pos (hbmPart_of_host n h)

/-- The parameters that GROUPSET accepts. -/
theorem groupArgs {g slack : Nat} {v : Bool} {mem : List Nat} (hg : g < 4096) (hs : slack < 4096)
    (hv : v = true → 2 ≤ mem.length ∧ mem.length ≤ 64) (hm : ∀ m ∈ mem, m < 2 ^ 15) :
    ¬(4096 ≤ g ∨ 4096 ≤ slack ∨ (v = true ∧ (mem.length < 2 ∨ 64 < mem.length)) ∨ mem.any (fun m => decide (2 ^ 15 ≤ m)) = true) := by
  rintro (h | h | ⟨h, hl⟩ | h)
  · omega
  · omega
  · have := hv h
    omega
  · obtain ⟨m, hmem, hle⟩ := List.any_eq_true.mp h
    exact absurd (hm m hmem) (Nat.not_lt.mpr (of_decide_eq_true hle))

/-- R45, R100, R311, R335, R336, R338, R341, R342, R365: those commands. -/
theorem tableCommands : TableCommands := by
  refine ⟨fun h page b s hs hp => ?_, fun h g slack v mem s hs hg hsl hv hm => ⟨fun hr => ?_, fun hr => ?_⟩,
    fun h ctx dev fabric peer x s hs hx hd => ⟨?_, ?_⟩, fun h base size s hs hsz hle => ⟨fun hc => ?_, fun hc => ?_⟩,
    fun h ver digest a b s hs => ⟨fun ha hb hv => ?_, fun hor => ?_⟩, fun h n dst s hs hn hd => ?_, fun h dst s hs hd => ?_,
    fun h ctx c a0 a1 x s hs hx hst => ⟨fun hc => ?_, fun hc => ?_⟩⟩
  · refine hs.command.trans (congrArg Host.Outcome.next ?_)
    simp only [if_neg (Nat.not_le.mpr hp), CmdRes.state_did, Config.numSlices]
    rfl
  · refine hs.command.trans (congrArg Host.Outcome.next (congrArg CmdRes.state ((if_neg (groupArgs hg hsl hv hm)).trans (if_neg ?_))))
    simp [hr]
  · refine hs.command.trans (congrArg Host.Outcome.next (congrArg CmdRes.state ((if_neg (groupArgs hg hsl hv hm)).trans (if_pos ?_))))
    simpa using hr
  · refine hs.command.trans (congrArg Host.Outcome.next ?_)
    simp [hx, Nat.not_le.mpr hd]
  · refine hs.command.trans (congrArg Host.Outcome.next ?_)
    simp [hx, Nat.not_le.mpr hd]
  · refine hs.command.trans (congrArg Host.Outcome.next (congrArg CmdRes.state ((if_neg ?_).trans (if_neg ?_))))
    · rw [hsz, not_or]
      exact ⟨not_not.mpr rfl, Nat.not_lt.mpr hle⟩
    · simp [hc]
  · refine hs.command.trans (congrArg Host.Outcome.next (congrArg CmdRes.state ((if_neg ?_).trans (if_pos ?_))))
    · rw [hsz, not_or]
      exact ⟨not_not.mpr rfl, Nat.not_lt.mpr hle⟩
    · simpa using hc
  · refine hs.command.trans (congrArg Host.Outcome.next ?_)
    simp [ha, hb, Nat.not_le.mpr hv]
  · refine hs.command.trans (congrArg Host.Outcome.next ?_)
    rcases hor with ha | hb | hv
    · simp [ha]
    · simp [hb]
    · simp [hv]
  · refine hs.command.trans (congrArg Host.Outcome.next ?_)
    have hany : ([n].any fun u => decide (1664 ≤ u)) = false := by simpa using hn
    simp only [hany, State.hostReady_of_host _ _ _ hd, Bool.false_eq_true, if_false, State.monitor_started, CmdRes.state_did]
    rfl
  · refine hs.command.trans (congrArg Host.Outcome.next ?_)
    simp only [State.hostReady_of_host _ _ _ hd]
    rfl
  · refine hs.command.trans (congrArg Host.Outcome.next ?_)
    have hok : (x.state == CtxState.failed || (s.core c).ctx != some ctx) = false := by simp [hst, hc]
    simp only [State.context?_started, State.core_started, hx, hok]
    rfl
  · refine hs.command.trans (congrArg Host.Outcome.next ?_)
    simp [hx, hst, hc]

/-- Settles O51: the commands of Ebpex from the rules of a command's row, BAR0 from its bytes. -/
theorem firmwareCommands : Obligations.FirmwareCommands :=
  ⟨commandSlots, creating, destroying, loadingCode, descriptorSlots, tableCommands, bar0⟩

end Sys2Proof.Machine

/-! PROOFS. HBM controllers (R38–R43). -/

namespace Sys2Proof.Machine

/-! ## Transfers that are changed (R75, R77) -/

/-- A transfer that is replaced. -/
theorem XferAt.lt {s : State} {x : Nat} {t : Xfer} (h : XferAt s x t) : x < s.xfers.length := (List.getElem?_eq_some_iff.mp h).1

theorem XferAt.setXfer {s : State} {x : Nat} {t : Xfer} (h : XferAt s x t) (v : Xfer) : XferAt (s.setXfer x v) x v := by
  simp [XferAt, State.setXfer, h.lt]

theorem XferAt.setXfer_ne {s : State} {x y : Nat} {t : Xfer} (h : XferAt s y t) (v : Xfer) (hne : y ≠ x) : XferAt (s.setXfer x v) y t := by
  unfold XferAt State.setXfer
  rw [List.getElem?_set_ne hne.symm]
  exact h

/-- What a transfer needs to send its barrier decrement is sent, or nothing is done. -/
theorem State.settleXfer_cases (s : State) (x : Nat) : s.settleXfer x = s ∨
    ∃ t dst b, XferAt s x t ∧ s.settleXfer x = (s.setXfer x { t with decSent := true }).send (.core t.core) dst .request b := by
  unfold State.settleXfer
  split
  · exact Or.inl rfl
  · next t ht =>
    split
    · exact Or.inl rfl
    · exact (ite_eq_or_eq _ _ _).imp_right fun h => ⟨t, _, _, ht, h⟩

/-! ## What the service of a request may change (R42, R43) -/

/-- `t` is what the service of a controller's request may make of `s` beside its write: poison and machine checks come about, transfers
go on with the errors they have met, packets, monitors and free values change. -/
structure Served (s t : State) : Prop where
  frame : t = { s with poison := t.poison, latent := t.latent, checks := t.checks, net := t.net, xfers := t.xfers,
                       monitors := t.monitors, fresh := t.fresh }
  poison : ∀ g, Tbl.getD s.poison g false = true → Tbl.getD t.poison g false = true
  checks : ∃ l, t.checks = s.checks ++ l
  xfer : ∀ x u, XferAt s x u → ∃ v, XferAt t x v ∧ (u.err.isSome = true → v.err = u.err)

theorem Served.refl (s : State) : Served s s := ⟨rfl, fun _ h => h, ⟨[], (List.append_nil _).symm⟩, fun _ u h => ⟨u, h, fun _ => rfl⟩⟩

theorem Served.trans {s t u : State} (h : Served s t) (k : Served t u) : Served s u where
  frame := k.frame.trans (by rw [h.frame])
  poison g hg := k.poison g (h.poison g hg)
  checks := by
    obtain ⟨l, hl⟩ := h.checks
    obtain ⟨m, hm⟩ := k.checks
    exact ⟨l ++ m, by rw [hm, hl, List.append_assoc]⟩
  xfer x v hv := by
    obtain ⟨w, hw, he⟩ := h.xfer x v hv
    obtain ⟨z, hz, he'⟩ := k.xfer x w hw
    exact ⟨z, hz, fun hs => by rw [he' (by rw [he hs]; exact hs), he hs]⟩

theorem Served.event (s : State) (u code : Nat) : Served s (s.event u code) :=
  ⟨rfl, fun _ h => h, ⟨[], (List.append_nil _).symm⟩, fun _ v h => ⟨v, h, fun _ => rfl⟩⟩

theorem Served.pieceLatency (s : State) (u mask : Nat) : Served s (s.pieceLatency u mask) :=
  ⟨rfl, fun _ h => h, ⟨[], (List.append_nil _).symm⟩, fun _ v h => ⟨v, h, fun _ => rfl⟩⟩

theorem Served.send (s : State) (src dst : Endpoint) (pl : Plane) (b : Body) : Served s (s.send src dst pl b) :=
  ⟨rfl, fun _ h => h, ⟨[], (List.append_nil _).symm⟩, fun _ v h => ⟨v, h, fun _ => rfl⟩⟩

/-- A transfer that keeps the error it has met. -/
theorem Served.setXfer {s : State} {x : Nat} {u v : Xfer} (hx : XferAt s x u) (he : u.err.isSome = true → v.err = u.err) :
    Served s (s.setXfer x v) := by
  refine ⟨rfl, fun _ h => h, ⟨[], (List.append_nil _).symm⟩, fun y w hw => ?_⟩
  rcases eq_or_ne y x with rfl | hne
  · obtain rfl : u = w := Option.some.inj (hx.symm.trans hw)
    exact ⟨v, hx.setXfer v, he⟩
  · exact ⟨w, hw.setXfer_ne v hne, fun _ => rfl⟩

theorem Served.failGranule (s : State) (g : Nat) : Served s (s.failGranule g) := by
  refine ⟨rfl, fun g' hg => ?_, ⟨_, rfl⟩, fun _ v h => ⟨v, h, fun _ => rfl⟩⟩
  rcases eq_or_ne g' g with rfl | hne
  · exact Tbl.getD_put_self false s.poison g' true
  · exact (Tbl.getD_put_ne false s.poison true hne).trans hg

theorem Served.detect (s : State) (g : Nat) : Served s (s.detect g) := by
  unfold State.detect
  split
  · exact Served.failGranule s g
  · exact Served.refl s

theorem Served.detectAll (s : State) (pa n : Nat) : Served s (s.detectAll pa n) :=
  foldl_keeps (P := Served s) (fun t g _ ht => ht.trans (Served.detect t g)) (Served.refl s)

theorem Served.faultXfer (s : State) (x cause : Nat) : Served s (s.faultXfer x cause) := by
  unfold State.faultXfer
  split
  · exact Served.refl s
  · next t ht => exact Served.setXfer ht fun he => if_pos he

theorem Served.settleXfer (s : State) (x : Nat) : Served s (s.settleXfer x) := by
  obtain h | ⟨t, dst, b, ht, h⟩ := s.settleXfer_cases x
  · rw [h]
    exact Served.refl s
  · rw [h]
    exact (Served.setXfer (v := { t with decSent := true }) ht fun _ => rfl).trans (Served.send _ _ _ _ _)

theorem Served.setPiece (s : State) (x i : Nat) (p : Piece) : Served s (s.setPiece x i p) := by
  unfold State.setPiece
  split
  · exact Served.refl s
  · next t ht => exact (Served.setXfer (v := { t with pieces := t.pieces.set i p }) ht fun _ => rfl).trans (Served.settleXfer _ x)

theorem Served.finishRead (s : State) (x i : Nat) (p : Piece) (pa : Nat) : Served s (s.finishRead x i p pa) := by
  unfold State.finishRead
  refine (Served.detectAll s pa p.len).trans (Served.trans ?_ (Served.setPiece _ x i _))
  split
  · exact Served.refl _
  · exact Served.faultXfer _ x 4

theorem Served.pieceServed (s : State) (x i line : Nat) : Served s (s.pieceServed x i line) := by
  unfold State.pieceServed
  split
  · exact Served.refl s
  · split
    · split
      · exact Served.finishRead s x i _ _
      · exact Served.finishRead s x i _ _
      · exact Served.refl s
    · exact Served.setPiece s x i _

end Sys2Proof.Machine

/-! PROOFS. The controllers' obligation (R38–R43). -/

namespace Sys2Proof.Machine

/-! ## A request that is served (R38, R42, R43) -/

/-- A request leaves its queue; one past its deadline is counted. -/
def State.unqueued (s : State) (ctl j : Nat) (r : CtlReq) : State :=
  let t := { s with ctls := Tbl.put [] s.ctls ctl ((s.ctl ctl).eraseIdx j) }
  if r.deadline.any (· < t.tick) then t.event (unitPorter (ctl / 4)) 0x30 else t

/-- A read meets its granule, a write reaches memory or is abandoned. -/
def State.accessed (s : State) (r : CtlReq) : Bool × State :=
  if r.write.isEmpty then (false, s.detect r.granule) else s.writeGranule r.granule r.write

/-- The origin of a request hears of it. -/
def State.originServed (s : State) (ctl : Nat) (r : CtlReq) (lost : Bool) : State :=
  match r.origin with
  | .fetch _ => s
  | .save _ bad => if bad then { s with poison := Tbl.put false s.poison r.granule true } else s
  | .xfer x i =>
    let s := if lost then s.faultXfer x 4 else s
    if (s.ctl ctl).any fun y => y.origin == r.origin then s
    else (s.pieceLatency (unitPorter (ctl / 4)) r.mask).pieceServed x i (r.granule / 4)

/-- The state in which a request has been served, and its line's home not looked again. -/
def State.answered (s : State) (ctl j : Nat) (r : CtlReq) : State :=
  ((s.unqueued ctl j r).accessed r).2.originServed ctl r ((s.unqueued ctl j r).accessed r).1

theorem State.serveCtl_eq (s : State) (ctl j : Nat) (r : CtlReq) :
    s.serveCtl ctl j r = if (s.answered ctl j r).ctlBusy (r.granule / 4) then s.answered ctl j r
      else (s.answered ctl j r).retryHome (homeOfLine (r.granule / 4)) := rfl

/-- Only the controllers' queues and the monitors are others. -/
theorem State.unqueued_frame (s : State) (ctl j : Nat) (r : CtlReq) : s.unqueued ctl j r =
    { s with ctls := Tbl.put [] s.ctls ctl ((s.ctl ctl).eraseIdx j), monitors := (s.unqueued ctl j r).monitors } := by
  unfold State.unqueued
  dsimp only
  split <;> rfl

theorem State.accessed_frame (s : State) (r : CtlReq) : (s.accessed r).2 =
    { s with mem := (s.accessed r).2.mem, poison := (s.accessed r).2.poison, latent := (s.accessed r).2.latent,
             checks := (s.accessed r).2.checks } := by
  unfold State.accessed State.writeGranule
  split
  · unfold State.detect
    split <;> rfl
  · split
    · rfl
    · dsimp only
      split <;> rfl

/-- A write that is no partial one of a bad granule reaches memory. -/
theorem State.mem_accessed {s : State} {r : CtlReq} (h : r.write = [] ∨ 64 ≤ r.write.length ∨ s.bad r.granule = false) :
    (s.accessed r).2.mem = r.write.foldl (fun m e => m.write e.1 e.2) s.mem := by
  unfold State.accessed State.writeGranule
  split
  · next he =>
    rw [List.isEmpty_iff.mp he]
    unfold State.detect
    split <;> rfl
  · next he =>
    rw [if_neg]
    · dsimp only
      split <;> rfl
    · rintro ⟨hlt, hbad⟩
      rcases h with h | h | h
      · exact he (by simp [h])
      · omega
      · simp [h] at hbad

/-- A partial write of a bad granule is abandoned. -/
theorem State.accessed_lost {s : State} {r : CtlReq} (h0 : 0 < r.write.length) (h : r.write.length < 64) (hb : s.bad r.granule = true) :
    s.accessed r = (true, s.failGranule r.granule) := by
  have he : r.write.isEmpty = false := by simpa [List.length_pos_iff] using h0
  simp [State.accessed, State.writeGranule, he, h, hb]

/-- A transfer hears of its request after it has met the loss of a write. -/
theorem Served.originServed_xfer (s : State) (ctl : Nat) {r : CtlReq} {x i : Nat} (h : r.origin = .xfer x i) (lost : Bool) :
    Served (if lost then s.faultXfer x 4 else s) (s.originServed ctl r lost) := by
  unfold State.originServed
  rw [h]
  dsimp only
  generalize (if lost = true then s.faultXfer x 4 else s) = u
  split
  · exact Served.refl _
  · exact (Served.pieceLatency _ _ _).trans (Served.pieceServed _ x i _)

/-- What the origin does is of a service. -/
theorem Served.originServed (s : State) (ctl : Nat) (r : CtlReq) (lost : Bool) : Served s (s.originServed ctl r lost) := by
  cases ho : r.origin with
  | fetch line =>
    unfold State.originServed
    rw [ho]
    exact Served.refl s
  | save ctx bad =>
    unfold State.originServed
    rw [ho]
    dsimp only
    split
    · refine ⟨rfl, fun g hg => ?_, ⟨[], (List.append_nil _).symm⟩, fun _ v h => ⟨v, h, fun _ => rfl⟩⟩
      rcases eq_or_ne g r.granule with rfl | hne
      · exact Tbl.getD_put_self false s.poison r.granule true
      · exact (Tbl.getD_put_ne false s.poison true hne).trans hg
    · exact Served.refl s
  | xfer x i =>
    refine Served.trans ?_ (Served.originServed_xfer s ctl ho lost)
    split
    · exact Served.faultXfer s x 4
    · exact Served.refl s

/-! ## Bytes that a service reads -/

theorem Served.bytesNow {s t : State} (h : Served s t) (pa n : Nat) : t.bytesNow pa n = s.bytesNow pa n := by
  rw [h.frame]
  rfl

/-- A granule of bytes holds one of them. -/
theorem exists_of_mem_granulesOf {pa n g : Nat} (h : g ∈ granulesOf pa n) : ∃ a ∈ rangeFrom pa n, a / 64 = g := by
  unfold granulesOf at h
  split at h
  · simp at h
  · next hn =>
    simp only [rangeFrom, List.mem_map, List.mem_range] at h ⊢
    obtain ⟨i, hi, rfl⟩ := h
    refine ⟨Nat.max pa ((pa / 64 + i) * 64), ⟨Nat.max pa ((pa / 64 + i) * 64) - pa, ?_, ?_⟩, ?_⟩ <;>
      rcases Nat.le_total pa ((pa / 64 + i) * 64) with hle | hle <;>
      simp only [Nat.max_eq_left hle, Nat.max_eq_right hle] <;> omega

/-- The granules of bytes of which none is bad. -/
theorem State.sound_of_firstBad {s : State} {pa n g : Nat} (h : s.firstBad pa n = none) (hg : g ∈ granulesOf pa n) : s.bad g = false := by
  obtain ⟨a, ha, rfl⟩ := exists_of_mem_granulesOf hg
  simpa using List.find?_eq_none.mp h a ha

/-- A Porter's read of sound bytes. -/
theorem State.finishRead_of_sound {s : State} {pa : Nat} {p : Piece} (h : s.firstBad pa p.len = none) (x i : Nat) :
    s.finishRead x i p pa = s.setPiece x i { p with data := s.bytesNow pa p.len, phase := 2, holes := [] } := by
  have hdet : s.detectAll pa p.len = s := foldl_id fun g hg => State.detect_of_sound (State.sound_of_firstBad h hg)
  have hbad : (granulesOf pa p.len).filter s.bad = [] :=
    List.filter_eq_nil_iff.mpr fun g hg => by simp [State.sound_of_firstBad h hg]
  unfold State.finishRead
  simp only [hdet, hbad]
  rfl

/-- A piece that is replaced. -/
theorem PieceOf.setPiece {s : State} {x i : Nat} {t : Xfer} {p : Piece} (h : PieceOf s x i t p) (q : Piece) :
    ∃ t', PieceOf (s.setPiece x i q) x i t' q := by
  obtain ⟨ht, hp⟩ := h
  have hi : i < t.pieces.length := (List.getElem?_eq_some_iff.mp hp).1
  have hset : XferAt (s.setXfer x { t with pieces := t.pieces.set i q }) x { t with pieces := t.pieces.set i q } := XferAt.setXfer ht _
  have hq : (t.pieces.set i q)[i]? = some q := by simp [hi]
  have hs : s.setPiece x i q = (s.setXfer x { t with pieces := t.pieces.set i q }).settleXfer x := by
    unfold State.setPiece
    rw [ht]
  rw [hs]
  obtain h | ⟨u, dst, b, hu, h⟩ := (s.setXfer x { t with pieces := t.pieces.set i q }).settleXfer_cases x
  · rw [h]
    exact ⟨_, hset, hq⟩
  · rw [h]
    obtain rfl : _ = u := Option.some.inj (hset.symm.trans hu)
    exact ⟨_, XferAt.setXfer hset _, hq⟩

end Sys2Proof.Machine

/-! PROOFS. The controllers' obligation (R38–R43). -/

namespace Sys2Proof.Machine

/-! ## The choice of a request (R38, R40) -/

/-- The least of a list of deadlines. -/
theorem foldl_min_le (l : List Nat) (d : Nat) : l.foldl Nat.min d ≤ d ∧ ∀ e ∈ l, l.foldl Nat.min d ≤ e := by
  induction l generalizing d with
  | nil => simp
  | cons a l ih =>
    obtain ⟨hd, hl⟩ := ih (Nat.min d a)
    rw [List.foldl_cons]
    refine ⟨hd.trans (Nat.min_le_left d a), fun e he => ?_⟩
    rcases List.mem_cons.mp he with rfl | he
    · exact hd.trans (Nat.min_le_right d e)
    · exact hl e he

/-- The request that the rules pick when request `i` is asked for: one of the earliest deadline, or `i` itself, a normal one of a bank
that no deadline request waits for. -/
def Picked (q : List CtlReq) (i : Nat) (x : CtlReq) : Prop :=
  x ∈ q ∧ ((∃ d, x.deadline = some d ∧ ∀ y ∈ q, ∀ e, y.deadline = some e → d ≤ e) ∨
    (q[i]? = some x ∧ x.deadline = none ∧ ∀ y ∈ q, y.deadline ≠ none → Config.bankOf y.granule ≠ Config.bankOf x.granule))

/-- The choice is the first request to the granule of the one picked. -/
theorem ctlChoice_spec {q : List CtlReq} {i j : Nat} (h : ctlChoice q i = some j) :
    ∃ x, Picked q i x ∧ q.findIdx? (fun y => y.granule == x.granule) = some j := by
  unfold ctlChoice at h
  obtain ⟨x, hx, hj⟩ := Option.bind_eq_some_iff.mp h
  refine ⟨x, ?_, hj⟩
  obtain ⟨y, hy, hpick⟩ := Option.bind_eq_some_iff.mp hx
  have hyq : y ∈ q := List.mem_of_getElem? hy
  have hmem : ∀ z ∈ q, ∀ e, z.deadline = some e → e ∈ q.filterMap (·.deadline) := fun z hz e he => List.mem_filterMap.mpr ⟨z, hz, he⟩
  split at hpick
  · next hnone =>
    obtain rfl := Option.some.inj hpick
    have hno : ∀ z ∈ q, z.deadline = none := fun z hz => Option.eq_none_iff_forall_not_mem.mpr fun e he => by
      simpa [hnone] using hmem z hz e he
    exact ⟨hyq, Or.inr ⟨hy, hno y hyq, fun z hz hne => absurd (hno z hz) hne⟩⟩
  · next d r hd =>
    dsimp only at hpick
    split at hpick
    · obtain ⟨hmin, hall⟩ := foldl_min_le r d
      refine ⟨List.mem_of_find?_eq_some hpick, Or.inl ⟨r.foldl Nat.min d, by simpa using List.find?_some hpick, fun z hz e he => ?_⟩⟩
      rcases List.mem_cons.mp (hd ▸ hmem z hz e he) with rfl | hr
      · exact hmin
      · exact hall e hr
    · next hheld =>
      obtain rfl := Option.some.inj hpick
      simp only [Bool.or_eq_true, not_or, Bool.not_eq_true, List.any_eq_false, Bool.and_eq_true, not_and, beq_iff_eq,
        Option.isSome_iff_ne_none, not_not] at hheld
      exact ⟨hyq, Or.inr ⟨hy, hheld.1, hheld.2⟩⟩

/-- The chosen request is the oldest to its granule, and the one picked is to the same granule. -/
theorem ctlChoice_first {q : List CtlReq} {i j : Nat} {r : CtlReq} (h : ctlChoice q i = some j) (hr : q[j]? = some r) :
    (∀ (j' : Nat) (r' : CtlReq), j' < j → q[j']? = some r' → r'.granule ≠ r.granule) ∧ ∃ x, Picked q i x ∧ x.granule = r.granule := by
  obtain ⟨x, hx, hj⟩ := ctlChoice_spec h
  obtain ⟨hlt, hat, hbefore⟩ := List.findIdx?_eq_some_iff_getElem.mp hj
  obtain rfl : q[j] = r := (List.getElem?_eq_some_iff.mp hr).2
  have hg : x.granule = q[j].granule := (beq_iff_eq.mp hat).symm
  refine ⟨fun j' r' hj' hr' => ?_, x, hx, hg⟩
  obtain ⟨hlt', rfl⟩ := List.getElem?_eq_some_iff.mp hr'
  rw [← hg]
  simpa using hbefore j' hj'

/-! ## A request that is served -/

section
variable (s : State) (ctl j : Nat) (r : CtlReq)

/-- The origin's answer is of a service. -/
theorem Served.answered : Served ((s.unqueued ctl j r).accessed r).2 (s.answered ctl j r) := Served.originServed _ _ _ _

theorem State.ctl_answered : (s.answered ctl j r).ctl ctl = (s.ctl ctl).eraseIdx j := by
  unfold State.ctl
  rw [(Served.answered s ctl j r).frame, State.accessed_frame, State.unqueued_frame]
  exact Tbl.getD_put_self [] s.ctls ctl _

theorem State.hostMem_answered : (s.answered ctl j r).hostMem = s.hostMem := by
  rw [(Served.answered s ctl j r).frame, State.accessed_frame, State.unqueued_frame]

theorem State.core_answered (c : Nat) : (s.answered ctl j r).core c = s.core c := by
  rw [(Served.answered s ctl j r).frame, State.accessed_frame, State.unqueued_frame]
  rfl

theorem State.bad_unqueued (g : Nat) : (s.unqueued ctl j r).bad g = s.bad g := by
  rw [State.unqueued_frame]
  rfl

theorem State.mem_unqueued : (s.unqueued ctl j r).mem = s.mem := by rw [State.unqueued_frame]
theorem State.checks_unqueued : (s.unqueued ctl j r).checks = s.checks := by rw [State.unqueued_frame]
theorem State.xfers_unqueued : (s.unqueued ctl j r).xfers = s.xfers := by rw [State.unqueued_frame]

theorem State.mem_answered : (s.answered ctl j r).mem = ((s.unqueued ctl j r).accessed r).2.mem := by
  rw [(Served.answered s ctl j r).frame]

end

/-- R42, R43: a partial write of a bad granule is abandoned and reported, and its transfer meets POISON. -/
theorem State.answered_lost {s : State} {ctl j : Nat} {r : CtlReq} (h0 : 0 < r.write.length) (h : r.write.length < 64)
    (hb : s.bad r.granule = true) :
    (s.answered ctl j r).mem = s.mem ∧ Tbl.getD (s.answered ctl j r).poison r.granule false = true ∧
    (∃ l, (s.answered ctl j r).checks = s.checks ++ (granuleDie r.granule, .granule r.granule) :: l) ∧
    ∀ x i t, r.origin = .xfer x i → XferAt s x t →
      ∃ t', XferAt (s.answered ctl j r) x t' ∧ t'.err = if t.err.isSome then t.err else some 4 := by
  have hacc := State.accessed_lost (s := s.unqueued ctl j r) h0 h ((s.bad_unqueued ctl j r _).trans hb)
  have hserved := Served.answered s ctl j r
  refine ⟨?_, hserved.poison _ ?_, ?_, fun x i t ho ht => ?_⟩
  · rw [State.mem_answered, hacc]
    exact s.mem_unqueued ctl j r
  · rw [hacc]
    exact Tbl.getD_put_self false (s.unqueued ctl j r).poison r.granule true
  · obtain ⟨l, hl⟩ := hserved.checks
    refine ⟨l, ?_⟩
    rw [hl, hacc]
    change ((s.unqueued ctl j r).checks ++ _) ++ l = _
    rw [s.checks_unqueued ctl j r, List.append_assoc]
    rfl
  · have hat : XferAt (s.unqueued ctl j r |>.failGranule r.granule) x t := (congrArg (·[x]?) (s.xfers_unqueued ctl j r)).trans ht
    have hfault : (s.unqueued ctl j r |>.failGranule r.granule).faultXfer x 4 =
        (s.unqueued ctl j r |>.failGranule r.granule).setXfer x { t with err := if t.err.isSome then t.err else some 4 } := by
      unfold State.faultXfer
      rw [hat]
    have hrest := Served.originServed_xfer (s.unqueued ctl j r |>.failGranule r.granule) ctl ho true
    rw [if_pos rfl, hfault] at hrest
    obtain ⟨v, hv, he⟩ := hrest.xfer x _ (hat.setXfer _)
    refine ⟨v, by rwa [State.answered, hacc], he ?_⟩
    dsimp only
    split
    · assumption
    · rfl

/-- R71: the last read of a line piece brings its bytes. -/
theorem State.pieceOf_answered {s : State} {ctl j x i va : Nat} {r : CtlReq} {t : Xfer} {p : Piece} (ho : r.origin = .xfer x i)
    (hw : r.write = []) (hp : PieceOf s x i t p) (hph : p.phase = 1) (hsrc : p.src = .global va)
    (hlast : ∀ y ∈ (s.ctl ctl).eraseIdx j, y.origin ≠ r.origin) (hf : s.firstBad (r.granule / 4 * 256 + va % 256) p.len = none)
    (hb : s.bad r.granule = false) :
    ∃ t', PieceOf (s.answered ctl j r) x i t'
      { p with data := s.bytesNow (r.granule / 4 * 256 + va % 256) p.len, phase := 2, holes := [] } := by
  have hacc : (s.unqueued ctl j r).accessed r = (false, s.unqueued ctl j r) := by
    rw [State.accessed, if_pos (by simp [hw]), State.detect_of_sound ((s.bad_unqueued ctl j r _).trans hb)]
  have hany : ((s.unqueued ctl j r).ctl ctl).any (fun y => y.origin == .xfer x i) = false := by
    rw [State.ctl, State.unqueued_frame, ← ho]
    dsimp only
    rw [Tbl.getD_put_self, List.any_eq_false]
    simpa using hlast
  obtain ⟨u, hu, hat, hbytes, hfirst⟩ : ∃ u, s.answered ctl j r = u.pieceServed x i (r.granule / 4) ∧ PieceOf u x i t p ∧
      (∀ pa n, u.bytesNow pa n = s.bytesNow pa n) ∧ ∀ pa n, u.firstBad pa n = s.firstBad pa n := by
    refine ⟨(s.unqueued ctl j r).pieceLatency (unitPorter (ctl / 4)) r.mask, ?_, ?_, fun pa n => ?_, fun pa n => ?_⟩
    · rw [State.answered, hacc, State.originServed, ho]
      simp only [Bool.false_eq_true, if_false, hany]
    · exact (congrArg (fun l => l[x]? = some t ∧ t.pieces[i]? = some p) (s.xfers_unqueued ctl j r)).mpr hp
    · rw [(Served.pieceLatency _ _ _).bytesNow, State.unqueued_frame]
      rfl
    · change (s.unqueued ctl j r).firstBad pa n = _
      rw [State.unqueued_frame]
      rfl
  have hserved : u.pieceServed x i (r.granule / 4) = u.finishRead x i p (r.granule / 4 * 256 + va % 256) := by
    unfold State.pieceServed
    rw [show (u.xfers[x]?).bind (fun t => t.pieces[i]?) = some p by rw [hat.1]; exact hat.2]
    simp [hph, hsrc]
  rw [hu, hserved, State.finishRead_of_sound ((hfirst _ _).trans hf), hbytes]
  exact hat.setPiece _

/-- R38–R43: HBM controllers. -/
theorem controllers : Controllers := by
  refine ⟨fun s ctl i j r hc hr => ?_, fun q i j r hc hr => ?_, fun s ctl i r hr hd hp ha => ?_, fun s g => ⟨fun hl => ?_, fun hl => ?_⟩⟩
  · refine ⟨s.answered ctl j r, ?_, s.ctl_answered ctl j r, s.hostMem_answered ctl j r, s.core_answered ctl j r, fun hw => ?_,
      State.answered_lost, fun x i t p va ho hw hp hph hsrc hlast => State.pieceOf_answered ho hw hp hph hsrc hlast⟩
    · change execControllerSelect ctl i s = _
      unfold execControllerSelect
      simp only [hc, hr]
      rfl
    · rw [State.mem_answered, State.mem_accessed (by rwa [State.bad_unqueued]), State.mem_unqueued]
  · obtain ⟨hfirst, x, ⟨hx, hwhy⟩, hg⟩ := ctlChoice_first hc hr
    exact ⟨hfirst, x, hx, hg, hwhy⟩
  · change execRequestPromotion ctl i s = _
    unfold execRequestPromotion
    rw [hr]
    refine if_neg ?_
    rw [hd, hp, Bool.or_eq_true, decide_eq_true_eq, not_or]
    exact ⟨Bool.false_ne_true, Nat.not_lt.mpr ha⟩
  · exact congrArg Host.Outcome.next (if_neg (by rw [hl]; exact Bool.false_ne_true))
  · refine ⟨s.failGranule g, congrArg Host.Outcome.next (if_pos hl), Tbl.getD_put_self false s.poison g true,
      Tbl.getD_put_self false s.latent g false, rfl, fun _ => rfl, fun _ => rfl, fun _ _ => rfl, fun _ _ => rfl, fun _ _ => rfl⟩

end Sys2Proof.Machine

/-! PROOFS. Reduction rounds (R81, R208, R339, R341). -/

namespace Sys2Proof.Machine

/-! ## Transfers that fail (R77) -/

theorem Xfer.failed_failed (t : Xfer) (e f : Nat) : (t.failed e).failed f = t.failed e := by
  unfold Xfer.failed
  cases t.err <;> rfl

theorem State.failXfer_of_some {s : State} {x : Nat} {t : Xfer} (h : XferAt s x t) (cause : Nat) :
    s.failXfer x cause = s.setXfer x (t.failed cause) := by
  unfold State.failXfer
  rw [h]
  rfl

theorem State.failXfer_of_none {s : State} {x : Nat} (h : s.xfers[x]? = none) (cause : Nat) : s.failXfer x cause = s := by
  unfold State.failXfer
  rw [h]

/-- Only the transfers change. -/
theorem State.failXfer_frame (s : State) (x cause : Nat) : s.failXfer x cause = { s with xfers := (s.failXfer x cause).xfers } := by
  unfold State.failXfer
  split <;> rfl

/-- A list of transfers fails. -/
def State.failXfers (s : State) (l : List Nat) (cause : Nat) : State := l.foldl (fun s x => s.failXfer x cause) s

theorem State.failXfers_frame (s : State) (l : List Nat) (cause : Nat) :
    s.failXfers l cause = { s with xfers := (s.failXfers l cause).xfers } :=
  foldl_keeps (P := fun t : State => t = { s with xfers := t.xfers })
    (fun t x _ ht => (t.failXfer_frame x cause).trans (by rw [ht])) rfl

/-- A transfer of the list has failed, and any other is as before. -/
theorem XferAt.failXfers {s : State} {x : Nat} {t : Xfer} (h : XferAt s x t) (l : List Nat) (cause : Nat) :
    XferAt (s.failXfers l cause) x (if x ∈ l then t.failed cause else t) := by
  unfold State.failXfers
  induction l generalizing s t with
  | nil => simpa using h
  | cons y l ih =>
    rw [List.foldl_cons]
    rcases eq_or_ne x y with rfl | hne
    · rw [State.failXfer_of_some h]
      have := ih (h.setXfer (t.failed cause))
      simpa [Xfer.failed_failed] using this
    · have hy : XferAt (s.failXfer y cause) x t := by
        cases hn : s.xfers[y]? with
        | none => rwa [State.failXfer_of_none hn]
        | some u =>
          rw [State.failXfer_of_some hn]
          exact h.setXfer_ne _ hne
      simpa [hne] using ih hy

/-! ## Rounds that fail (R341) -/

@[simp] theorem State.group_setGroup (s : State) (g : Nat) (e : Group) : (s.setGroup g e).group g = e := Tbl.getD_insert_self _ _ _ _

/-- The entry of a group whose round has failed. -/
def Group.withoutRound (e : Group) (r : Round) : Group :=
  { e with counts := (List.range e.members.length).foldl (fun t i => Tbl.put 0 t i (Nat.max (Tbl.getD t i 0) r.number)) e.counts,
           rounds := e.rounds.filter (·.number != r.number) }

theorem State.failRound_eq (s : State) (g cause : Nat) (r : Round) :
    s.failRound g r cause = (s.setGroup g ((s.group g).withoutRound r)).failXfers (r.joined.map (·.2)) cause := by
  rw [State.failXfers, List.foldl_map]
  rfl

/-- Only the transfers and the groups change. -/
theorem State.failRound_frame (s : State) (g cause : Nat) (r : Round) :
    s.failRound g r cause = { s with xfers := (s.failRound g r cause).xfers, groups := (s.failRound g r cause).groups } := by
  rw [State.failRound_eq, State.failXfers_frame]
  rfl

theorem State.group_failRound (s : State) (g cause : Nat) (r : Round) : (s.failRound g r cause).group g = (s.group g).withoutRound r := by
  rw [State.failRound_eq, State.failXfers_frame]
  exact s.group_setGroup g _

/-- What changes transfers and groups alone keeps every byte. -/
theorem SameBytes.of_xfers_groups {s t : State} {xs : List Xfer} {gs : Tbl Group} (h : t = { s with xfers := xs, groups := gs }) :
    SameBytes s t := by
  rw [h]
  exact ⟨fun _ => rfl, fun _ => rfl, fun _ _ => rfl, fun _ _ => rfl, fun _ _ => rfl⟩

theorem XferAt.failRound {s : State} {x : Nat} {t : Xfer} (h : XferAt s x t) (g cause : Nat) (r : Round) :
    XferAt (s.failRound g r cause) x (if x ∈ r.joined.map (·.2) then t.failed cause else t) := by
  rw [State.failRound_eq]
  exact XferAt.failXfers (s := s.setGroup g ((s.group g).withoutRound r)) h (r.joined.map (·.2)) cause

/-! ## Members that have joined (R339) -/

/-- A member of a round that has joined, with its transfer. -/
def State.joinedAt (s : State) (r : Round) (i : Nat) : Option (Nat × Nat × Xfer) :=
  (Tbl.find? r.joined i).bind fun x => (s.xfers[x]?).map fun t => (i, x, t)

theorem State.joinedAt_eq_some {s : State} {r : Round} {i : Nat} {m : Nat × Nat × Xfer} :
    s.joinedAt r i = some m ↔ m.1 = i ∧ Tbl.find? r.joined m.1 = some m.2.1 ∧ XferAt s m.2.1 m.2.2 := by
  obtain ⟨a, x, t⟩ := m
  simp only [State.joinedAt, Option.bind_eq_some_iff, Option.map_eq_some_iff, XferAt]
  constructor
  · rintro ⟨y, hy, u, hu, he⟩
    cases he
    exact ⟨rfl, hy, hu⟩
  · rintro ⟨rfl, hx, ht⟩
    exact ⟨x, hx, t, ht, rfl⟩

/-- A list of optional values that all are there. -/
theorem filterMap_of_all_some {β : Type} (l : List (Option β)) (ms : List β) :
    (if l.all Option.isSome then some (l.filterMap id) else none) = some ms ↔ l = ms.map some := by
  induction l generalizing ms with
  | nil => cases ms <;> simp
  | cons a l ih =>
    cases a with
    | none => cases ms <;> simp
    | some b =>
      cases ms with
      | nil => simp
      | cons c ms =>
        have := ih ms
        by_cases hall : l.all Option.isSome = true
        · simp_all
        · simp_all

/-- A round is ready with exactly its members. -/
theorem State.roundReady_iff (s : State) (e : Group) (r : Round) (ms : List (Nat × Nat × Xfer)) :
    s.roundReady e r = some ms ↔
      ms.map (·.1) = e.locals ∧ ∀ m ∈ ms, Tbl.find? r.joined m.1 = some m.2.1 ∧ XferAt s m.2.1 m.2.2 := by
  have h : s.roundReady e r = some ms ↔ e.locals.map (s.joinedAt r) = ms.map some := filterMap_of_all_some _ _
  rw [h]
  clear h
  generalize e.locals = l
  induction l generalizing ms with
  | nil => cases ms <;> simp
  | cons i l ih =>
    cases ms with
    | nil => simp
    | cons m ms =>
      have hms := ih ms
      rw [List.map_cons, List.map_cons, List.cons.injEq, State.joinedAt_eq_some]
      simp only [List.map_cons, List.cons.injEq, List.forall_mem_cons]
      tauto

/-! ## Reductions (R80, R208) -/

/-- One of the pieces of equal length that a list is made of. -/
theorem take_drop_flatMap {α β : Type} {n : Nat} {g : α → List β} {l : List α} (hg : ∀ a ∈ l, (g a).length = n) {i : Nat}
    (hi : i < l.length) : ((l.flatMap g).drop (n * i)).take n = g l[i] := by
  induction l generalizing i with
  | nil => simp at hi
  | cons a l ih =>
    obtain ⟨ha, hl⟩ := List.forall_mem_cons.mp hg
    rw [List.flatMap_cons]
    cases i with
    | zero => exact List.take_left' ha
    | succ i =>
      rw [Nat.mul_succ, Nat.add_comm, ← List.drop_drop, List.drop_left' ha]
      exact ih hl (Nat.lt_of_succ_lt_succ hi)

/-- The elements of a combination. -/
theorem combBytes_element (rop rty i : Nat) (a b : List Byte) (h : i < a.length / rtyBytes rty) :
    ((combBytes rop rty a b).drop (rtyBytes rty * i)).take (rtyBytes rty) =
      leBytes (rtyBytes rty) (rtyComb rop rty (leNat ((a.drop (rtyBytes rty * i)).take (rtyBytes rty)))
        (leNat ((b.drop (rtyBytes rty * i)).take (rtyBytes rty)))) := by
  unfold combBytes
  dsimp only
  rw [take_drop_flatMap (fun _ _ => length_leBytes _ _) (by simpa using h), List.getElem_range]

/-- The pairwise tree of two, three and four members. -/
theorem treeReduce_small (f : List Byte → List Byte → List Byte) (a b c d : List Byte) :
    treeReduce f ([some a, some b] ++ List.replicate 62 none) = f a b ∧
    treeReduce f ([some a, none, some c] ++ List.replicate 61 none) = f a c ∧
    treeReduce f ([some a, some b, some c, some d] ++ List.replicate 60 none) = f (f a b) (f c d) := by
  exact ⟨rfl, rfl, rfl⟩

end Sys2Proof.Machine

/-! PROOFS. Reduction rounds as the obligation states them (R81, R208, R339, R341). -/

namespace Sys2Proof.Machine

/-! ## Shapes and leaves of a round -/

/-- LEN, ROP and RTY of the members of a round, the local ones first. -/
def Round.shapes (r : Round) (ms : List (Nat × Nat × Xfer)) : List (Nat × Nat × Nat) := ms.map (fun m => m.2.2.shape) ++ r.far.map (·.2)

/-- The rounds of a group after chunk `q` of its oldest one, which has `chunks`. -/
def Round.roundsAfter (r : Round) (rest : List Round) (chunks q : Nat) : List Round :=
  if chunks ≤ r.final.length + 1 then rest else { r with final := r.final ++ [q] } :: rest

/-- The bytes of a member in a chunk: a local one's as its scratchpad has them, a remote one's as they are given. -/
def State.leafOf (s : State) (ms : List (Nat × Nat × Xfer)) (remote : List (Nat × List Byte)) (lo n i : Nat) : Option (List Byte) :=
  match ms.find? fun m => m.1 == i with
  | some m => s.chunkOf m.2.2 lo n
  | none => Tbl.find? remote i

theorem State.leafOf_eq {s : State} {ms : List (Nat × Nat × Xfer)} {remote : List (Nat × List Byte)} {lo n : Nat}
    {leaf : Nat → Option (List Byte)} (hm : ∀ m ∈ ms, leaf m.1 = s.chunkOf m.2.2 lo n)
    (hr : ∀ i, i ∉ ms.map (·.1) → leaf i = Tbl.find? remote i) (i : Nat) : s.leafOf ms remote lo n i = leaf i := by
  unfold State.leafOf
  split
  · next m hf =>
    obtain rfl : m.1 = i := by simpa using List.find?_some hf
    exact (hm m (List.mem_of_find?_eq_some hf)).symm
  · next hf =>
    refine (hr i fun hi => ?_).symm
    obtain ⟨m, hmem, rfl⟩ := List.mem_map.mp hi
    exact absurd (List.find?_eq_none.mp hf m hmem) (by simp)

section
variable {s : State} {g q len rop rty : Nat} {r : Round} {rest : List Round} {ms : List (Nat × Nat × Xfer)} {remote : List (Nat × List Byte)}
  {tail : List (Nat × Nat × Nat)}

/-- A chunk of a round that every member has joined. -/
theorem execRoundChunkFinal_joined (hr : (s.group g).rounds = r :: rest) (hms : s.roundReady (s.group g) r = some ms)
    (hall : ∀ i ∈ (s.group g).remotes, ∃ f ∈ r.far, f.1 = i) (hsh : r.shapes ms = (len, rop, rty) :: tail) :
    execRoundChunkFinal g q remote s =
      let chunks := Nat.max 1 ((len + 65535) / 65536)
      let lo := q * 65536
      let n := Nat.min 65536 (len - lo)
      if !(tail.all (· == (len, rop, rty))) then .next (s.failRound g r 9)
      else if chunks ≤ q ∨ r.final.contains q = true ∨
        (!((s.group g).remotes.all fun i => ((Tbl.find? remote i).map List.length) == some n)) = true then .next s
      else
        match ms.find? fun m => (s.chunkOf m.2.2 lo n).isNone with
        | some _ => .next (s.failRound g r 4)
        | none => .next (ms.foldl (fun t m => t.chunkTo m.2.1 lo n (treeReduce (combBytes rop rty) ((List.range 64).map (s.leafOf ms remote lo n))))
            (s.setGroup g { s.group g with rounds := r.roundsAfter rest chunks q })) := by
  have hremotes : ((s.group g).remotes.all fun i => r.far.any (·.1 == i)) = true := by
    simpa using hall
  unfold Round.shapes at hsh
  unfold execRoundChunkFinal
  simp only [hr, hms, hsh, hremotes, Bool.not_true, Bool.false_eq_true, if_false, List.length_append, List.length_singleton,
    decide_eq_true_eq]
  rfl

/-- The shapes of a round's members, of which there is one. -/
theorem Round.shapes_eq_cons (r : Round) (hne : ms ≠ []) : ∃ shape tail, r.shapes ms = shape :: tail := by
  cases ms with
  | nil => exact absurd rfl hne
  | cons m ms => exact ⟨_, _, rfl⟩

/-- R341: members that disagree end the round with GROUP. -/
theorem exec_roundChunkFinal_disagree (hr : (s.group g).rounds = r :: rest) (hms : s.roundReady (s.group g) r = some ms) (hne : ms ≠ [])
    (hall : ∀ i ∈ (s.group g).remotes, ∃ f ∈ r.far, f.1 = i) (hd : ∃ a ∈ r.shapes ms, ∃ b ∈ r.shapes ms, a ≠ b) :
    exec (.roundChunkFinal g q remote) s = .next (s.failRound g r 9) := by
  obtain ⟨⟨len, rop, rty⟩, tail, hsh⟩ := r.shapes_eq_cons hne
  refine (execRoundChunkFinal_joined hr hms hall hsh).trans (if_pos ?_)
  rw [Bool.not_eq_true', List.all_eq_false]
  by_contra hsame
  simp only [not_exists, not_and, beq_iff_eq, not_not] at hsame
  have heq : ∀ c ∈ r.shapes ms, c = (len, rop, rty) := fun c hc => by
    rcases List.mem_cons.mp (hsh ▸ hc) with rfl | hc
    · rfl
    · exact hsame c hc
  obtain ⟨a, ha, b, hb, hab⟩ := hd
  exact hab ((heq a ha).trans (heq b hb).symm)

/-- A chunk of a round whose members agree, and that is still to be made final. -/
theorem exec_roundChunkFinal_agree (hr : (s.group g).rounds = r :: rest) (hms : s.roundReady (s.group g) r = some ms) (hne : ms ≠ [])
    (hall : ∀ i ∈ (s.group g).remotes, ∃ f ∈ r.far, f.1 = i) (hsame : ∀ c ∈ r.shapes ms, c = (len, rop, rty))
    (hq : q < Nat.max 1 ((len + 65535) / 65536)) (hf : q ∉ r.final)
    (hgiven : ∀ i ∈ (s.group g).remotes, ∃ b, Tbl.find? remote i = some b ∧ b.length = Nat.min 65536 (len - q * 65536)) :
    exec (.roundChunkFinal g q remote) s =
      match ms.find? fun m => (s.chunkOf m.2.2 (q * 65536) (Nat.min 65536 (len - q * 65536))).isNone with
      | some _ => .next (s.failRound g r 4)
      | none => .next (ms.foldl (fun t m => t.chunkTo m.2.1 (q * 65536) (Nat.min 65536 (len - q * 65536)) (treeReduce (combBytes rop rty)
            ((List.range 64).map (s.leafOf ms remote (q * 65536) (Nat.min 65536 (len - q * 65536))))))
          (s.setGroup g { s.group g with rounds := r.roundsAfter rest (Nat.max 1 ((len + 65535) / 65536)) q })) := by
  obtain ⟨shape, tail, hsh⟩ := r.shapes_eq_cons hne
  obtain rfl : shape = (len, rop, rty) := hsame _ (hsh ▸ List.mem_cons_self)
  have htail : tail.all (· == (len, rop, rty)) = true :=
    List.all_eq_true.mpr fun c hc => by simp [hsame c (hsh ▸ List.mem_cons_of_mem _ hc)]
  have hbytes : ((s.group g).remotes.all fun i => ((Tbl.find? remote i).map List.length) == some (Nat.min 65536 (len - q * 65536))) = true :=
    List.all_eq_true.mpr fun i hi => by
      obtain ⟨b, hb, hn⟩ := hgiven i hi
      simp [hb, hn]
  refine (execRoundChunkFinal_joined hr hms hall hsh).trans ?_
  dsimp only
  rw [htail, hbytes, if_neg (by decide), if_neg (by simp [Nat.not_le.mpr hq, hf])]

end

/-- The pieces that carry a chunk to a member's FAR. -/
theorem State.chunkTo_of_some {s : State} {x : Nat} {t : Xfer} (h : XferAt s x t) (lo n : Nat) (bytes : List Byte) :
    s.chunkTo x lo n bytes = (s.setXfer x { t with
      pieces := t.pieces ++ (piecesOf false 0 (t.far.skip lo) n).map fun p =>
        let d := (bytes.drop (p.near false)).take p.len
        { p with src := .fill d, data := d, phase := 2 },
      chunks := t.chunks + 1 }).settleXfer x := by
  unfold State.chunkTo
  rw [h]
  rfl

/-- R81, R208, R339, R341: reduction rounds. -/
theorem rounds : Rounds := by
  refine ⟨State.roundReady_iff, fun s g q len rop rty r rest ms remote => ?_, fun s x lo n t bytes h => State.chunkTo_of_some h lo n bytes,
    fun s g cause r => ⟨?_, SameBytes.of_xfers_groups (s.failRound_frame g cause r), fun x t h => ⟨fun hj => ?_, fun hj => ?_⟩⟩,
    treeReduce_small, fun rop rty i a b h => combBytes_element rop rty i a b h⟩
  · intro e hr hms hne hall
    refine ⟨exec_roundChunkFinal_disagree hr hms hne hall, fun hm hfar => ?_⟩
    intro chunks lo n hq hf hgiven
    have hsame : ∀ c ∈ r.shapes ms, c = (len, rop, rty) := fun c hc => by
      rcases List.mem_append.mp hc with hc | hc
      · obtain ⟨m, hmem, rfl⟩ := List.mem_map.mp hc
        exact hm m hmem
      · obtain ⟨f, hmem, rfl⟩ := List.mem_map.mp hc
        exact hfar f hmem
    rw [exec_roundChunkFinal_agree hr hms hne hall hsame hq hf hgiven]
    refine ⟨fun ⟨m, hmem, hnone⟩ => ?_, fun leaf hleaf hrem => ?_⟩
    · obtain ⟨m', hm'⟩ := Option.isSome_iff_exists.mp (List.find?_isSome (p := fun m => (s.chunkOf m.2.2 lo n).isNone).mpr ⟨m, hmem, by simp [hnone]⟩)
      rw [hm']
    · have hnone : ms.find? (fun m => (s.chunkOf m.2.2 lo n).isNone) = none := List.find?_eq_none.mpr fun m hmem => by
        obtain ⟨hsome, heq⟩ := hleaf m hmem
        rw [← heq]
        simpa [Option.isSome_iff_ne_none] using hsome
      rw [hnone]
      have hl : s.leafOf ms remote lo n = leaf := funext (State.leafOf_eq (fun m hmem => (hleaf m hmem).2) hrem)
      rw [hl]
      rfl
  · rw [s.group_failRound g cause r]
    rfl
  · have := h.failRound g cause r
    rwa [if_pos (by simpa using hj)] at this
  · have := h.failRound g cause r
    rwa [if_neg fun hx => by
      obtain ⟨j, hmem, he⟩ := List.mem_map.mp hx
      exact hj j hmem he] at this

end Sys2Proof.Machine

/-! PROOFS. Ports that fail, and members that no path reaches (R309, R336, R340, R341). -/

namespace Sys2Proof.Machine

/-! ## One trap for each core (R309) -/

/-- The first pair of each first component. -/
def firstOfEach (l : List (Nat × Nat)) : List (Nat × Nat) := l.foldl (fun l e => if l.any fun q => q.1 == e.1 then l else l ++ [e]) []

/-- It is of the list, with each first component of it once. -/
theorem firstOfEach_spec (l : List (Nat × Nat)) :
    (∀ e ∈ firstOfEach l, e ∈ l) ∧ ((firstOfEach l).map (·.1)).Nodup ∧ ∀ e ∈ l, ∃ f ∈ firstOfEach l, f.1 = e.1 := by
  suffices h : ∀ (l acc : List (Nat × Nat)), (acc.map (·.1)).Nodup →
      let r := l.foldl (fun l e => if l.any fun q => q.1 == e.1 then l else l ++ [e]) acc
      (∀ e ∈ r, e ∈ acc ∨ e ∈ l) ∧ (r.map (·.1)).Nodup ∧ ∀ e, e ∈ acc ∨ e ∈ l → ∃ f ∈ r, f.1 = e.1 by
    obtain ⟨hmem, hnd, hall⟩ := h l [] (by simp)
    exact ⟨fun e he => (hmem e he).resolve_left (by simp), hnd, fun e he => hall e (Or.inr he)⟩
  intro l
  induction l with
  | nil => exact fun acc hnd => ⟨fun e he => Or.inl he, hnd, fun e he => ⟨e, he.resolve_right (by simp), rfl⟩⟩
  | cons a l ih =>
    intro acc hnd
    rw [List.foldl_cons]
    by_cases ha : acc.any (fun q => q.1 == a.1) = true
    · rw [if_pos ha]
      obtain ⟨hmem, hnd', hall⟩ := ih acc hnd
      refine ⟨fun e he => (hmem e he).imp_right (List.mem_cons_of_mem _), hnd', fun e he => ?_⟩
      rcases he with he | he
      · exact hall e (Or.inl he)
      · rcases List.mem_cons.mp he with rfl | he
        · obtain ⟨q, hq, hqa⟩ := List.any_eq_true.mp ha
          obtain ⟨f, hf, hfq⟩ := hall q (Or.inl hq)
          exact ⟨f, hf, hfq.trans (beq_iff_eq.mp hqa)⟩
        · exact hall e (Or.inr he)
    · rw [if_neg ha]
      have hnew : a.1 ∉ acc.map (·.1) := fun hin => ha (by
        obtain ⟨q, hq, hqa⟩ := List.mem_map.mp hin
        exact List.any_eq_true.mpr ⟨q, hq, beq_iff_eq.mpr hqa⟩)
      obtain ⟨hmem, hnd', hall⟩ := ih (acc ++ [a]) (by
        rw [List.map_append, List.nodup_append]
        exact ⟨hnd, by simp, by simpa using fun b c hbc hb => hnew (List.mem_map.mpr ⟨(b, c), hbc, hb⟩)⟩)
      refine ⟨fun e he => ?_, hnd', fun e he => hall e ?_⟩
      · rcases hmem e he with he | he
        · rcases List.mem_append.mp he with he | he
          · exact Or.inl he
          · exact Or.inr (List.mem_cons.mpr (Or.inl (List.mem_singleton.mp he)))
        · exact Or.inr (List.mem_cons_of_mem _ he)
      · rcases he with he | he
        · exact Or.inl (List.mem_append_left _ he)
        · rcases List.mem_cons.mp he with rfl | he
          · exact Or.inl (List.mem_append_right _ (List.mem_singleton.mpr rfl))
          · exact Or.inr he

/-- Each of the listed cores hears once of a port. -/
def State.tellPort (s : State) (port : Nat) (l : List (Nat × Nat)) : State :=
  l.foldl (fun s e => s.pending e.1 cLINKDOWN (w64 (port % 16 * 256 + e.2))) s

theorem State.core_pending_ne (s : State) {c d : Nat} (code : Nat) (v : W) (h : d ≠ c) : (s.pending c code v).core d = s.core d :=
  State.core_onCore_ne s _ h

theorem State.regs_pending (s : State) (c code : Nat) (v : W) : ((s.pending c code v).core c).regs = (s.core c).regs.addPending ⟨code, v⟩ := by
  rw [State.pending, State.core_onCore_self]

theorem State.lcl_pending (s : State) (c code d : Nat) (v : W) : ((s.pending c code v).core d).lcl = (s.core d).lcl := by
  rcases eq_or_ne d c with rfl | hne
  · rw [State.pending, State.core_onCore_self]
  · rw [s.core_pending_ne code v hne]

/-- A core that is not listed is as before. -/
theorem State.core_tellPort_ne (s : State) (port : Nat) {l : List (Nat × Nat)} {c : Nat} (h : ∀ e ∈ l, e.1 ≠ c) :
    (s.tellPort port l).core c = s.core c :=
  foldl_keeps (P := fun t : State => t.core c = s.core c) (fun t e he ht => (t.core_pending_ne _ _ (h e he).symm).trans ht) rfl

/-- A core that is listed once has one trap more. -/
theorem State.regs_tellPort (s : State) (port : Nat) {l : List (Nat × Nat)} (hl : (l.map (·.1)).Nodup) {e : Nat × Nat} (he : e ∈ l) :
    ((s.tellPort port l).core e.1).regs = (s.core e.1).regs.addPending ⟨cLINKDOWN, w64 (port % 16 * 256 + e.2)⟩ := by
  induction l generalizing s with
  | nil => simp at he
  | cons a l ih =>
    obtain ⟨ha, hl⟩ := List.nodup_cons.mp hl
    change (((s.pending a.1 cLINKDOWN _).tellPort port l).core e.1).regs = _
    rcases List.mem_cons.mp he with rfl | he
    · rw [State.core_tellPort_ne _ port fun f hf hfe => ha (List.mem_map.mpr ⟨f, hf, hfe⟩), State.regs_pending]
    · rw [ih _ hl he, State.core_pending_ne _ _ _ fun hea => ha (List.mem_map.mpr ⟨e, he, hea⟩)]

/-- What a pending trap leaves is left. -/
theorem State.tellPort_frame {α : Type} (g : State → α) (h : ∀ s c code v, g (s.pending c code v) = g s) (s : State) (port : Nat)
    (l : List (Nat × Nat)) : g (s.tellPort port l) = g s := by
  unfold State.tellPort
  exact foldl_frame g (fun s e => h s e.1 _ _) l s

theorem SameBytes.tellPort (s : State) (port : Nat) (l : List (Nat × Nat)) : SameBytes s (s.tellPort port l) := by
  have hlcl : ∀ c, ((s.tellPort port l).core c).lcl = (s.core c).lcl := fun c =>
    State.tellPort_frame (fun s => (s.core c).lcl) (fun s d code v => s.lcl_pending d code c v) s port l
  have hmem : (s.tellPort port l).mem = s.mem := State.tellPort_frame State.mem (fun _ _ _ _ => rfl) s port l
  have hhost : (s.tellPort port l).hostMem = s.hostMem := State.tellPort_frame State.hostMem (fun _ _ _ _ => rfl) s port l
  exact ⟨fun a => by rw [hmem], fun a => by rw [hhost], fun c a => by rw [hlcl], fun c a => by rw [hlcl], fun c a => by rw [hlcl]⟩

/-! ## Transfers that a port cuts off (R336, R340) -/

/-- The transfers that need a peer that no path reaches any more. -/
def State.portHits (s : State) (reach : List Nat) : List Nat :=
  (s.xfers.zipIdx.filter fun e => e.1.needsPeer (s.cutOff reach e.1)).map (·.2)

theorem State.mem_portHits {s : State} {reach : List Nat} {x : Nat} {t : Xfer} (h : XferAt s x t) :
    x ∈ s.portHits reach ↔ t.needsPeer (s.cutOff reach t) = true := by
  simp only [State.portHits, List.mem_map, List.mem_filter, Prod.exists, List.mk_mem_zipIdx_iff_getElem?]
  constructor
  · rintro ⟨u, y, ⟨hu, hn⟩, rfl⟩
    obtain rfl : t = u := Option.some.inj (h.symm.trans hu)
    exact hn
  · exact fun hn => ⟨t, x, ⟨h, hn⟩, rfl⟩

/-- The core of a transfer that used a port, with a device of it. -/
def State.portUse (s : State) (reach : List Nat) (e : Xfer × Nat) : Option (Nat × Nat) :=
  match (s.portDevices e.1).filter (s.cutOff reach e.1) ++ s.portDevices e.1 with
  | [] => none
  | d :: _ => if (s.portHits reach).contains e.2 || Config.freeBit (s.fresh + e.2) then some (e.1.core, d) else none

theorem State.portUse_some {s : State} {reach : List Nat} {e : Xfer × Nat} {u : Nat × Nat} (h : s.portUse reach e = some u) :
    u.1 = e.1.core ∧ u.2 ∈ s.portDevices e.1 := by
  unfold State.portUse at h
  split at h
  · exact absurd h (by simp)
  · next d l hd =>
    split at h
    · obtain rfl := Option.some.inj h
      have hmem : d ∈ (s.portDevices e.1).filter (s.cutOff reach e.1) ++ s.portDevices e.1 := hd ▸ List.mem_cons_self
      exact ⟨rfl, (List.mem_append.mp hmem).elim (fun h => (List.mem_filter.mp h).1) id⟩
    · exact absurd h (by simp)

/-- What a failing port leaves. -/
theorem exec_peerPortFailure {s : State} {port : Nat} (reach : List Nat) (h : Tbl.getD s.downPorts port false = false) :
    exec (.peerPortFailure port reach) s = .next ((State.failXfers { s with
      downPorts := Tbl.put false s.downPorts port true, log := s.log ++ [LogEntry.port port false], fresh := s.fresh + s.xfers.length }
      (s.portHits reach) 10).tellPort port (firstOfEach (s.xfers.zipIdx.filterMap (s.portUse reach)))) := by
  change execPeerPortFailure port reach s = _
  unfold execPeerPortFailure
  rw [if_neg (by rw [h]; exact Bool.false_ne_true)]
  rfl

end Sys2Proof.Machine

/-! PROOFS. The controllers', rounds' and ports' obligation (R38–R42, R81, R309, R336, R339–R341). -/

namespace Sys2Proof.Machine

/-! ## Devices that a transfer needs (R336) -/

/-- The peer device of a piece. -/
def Piece.peer? (p : Piece) : Option Nat :=
  match p.src, p.dst with
  | .peer d _, _ => some d
  | _, .peer d _ => some d
  | _, _ => none

/-- A transfer needs a peer for a piece that is still to be moved. -/
theorem Xfer.needsPeer_iff (t : Xfer) (lost : Nat → Bool) : t.needsPeer lost = true ↔
    t.fin = false ∧ ∃ p ∈ t.pieces, p.phase ≠ 4 ∧ ∃ d, p.peer? = some d ∧ lost d = true := by
  simp only [Xfer.needsPeer, Bool.and_eq_true, Bool.not_eq_true', List.any_eq_true, bne_iff_ne]
  refine and_congr_right fun _ => exists_congr fun p => and_congr_right fun _ => and_congr_right fun _ => ?_
  unfold Piece.peer?
  split <;> simp_all

theorem Xfer.mem_peers {t : Xfer} {p : Piece} {d : Nat} (hp : p ∈ t.pieces) (hd : p.peer? = some d) : d ∈ t.peers := by
  refine List.mem_eraseDups.mpr (List.mem_flatMap.mpr ⟨p, hp, ?_⟩)
  unfold Piece.peer? at hd
  split at hd <;> simp_all

/-- A transfer that is cut off from a peer used a port for it. -/
theorem State.portDevices_ne_nil {s : State} {reach : List Nat} {t : Xfer} (h : t.needsPeer (s.cutOff reach t) = true) :
    s.portDevices t ≠ [] := by
  obtain ⟨hf, p, hp, hph, d, hd, hcut⟩ := (t.needsPeer_iff _).mp h
  have hfar : ((s.peerOf t d).any fun e => e.1 != Config.fabricId) = true := by
    unfold State.cutOff at hcut
    cases he : s.peerOf t d with
    | none => simp [he] at hcut
    | some e =>
      rw [he] at hcut
      exact (Bool.and_eq_true_iff.mp hcut).1
  have hneeds : t.needsPeer (· == d) = true := (t.needsPeer_iff _).mpr ⟨hf, p, hp, hph, d, hd, beq_self_eq_true d⟩
  refine List.ne_nil_of_mem (a := d) ?_
  unfold State.portDevices
  rw [if_neg (by simp [hf])]
  exact List.mem_append_left _ (List.mem_filter.mpr ⟨Xfer.mem_peers hp hd, by dsimp only; rw [hfar, hneeds]; rfl⟩)

/-- Such a transfer is one that used the port. -/
theorem State.portUse_of_hit {s : State} {reach : List Nat} {x : Nat} {t : Xfer} (hx : XferAt s x t)
    (h : t.needsPeer (s.cutOff reach t) = true) : ∃ d, s.portUse reach (t, x) = some (t.core, d) := by
  have hhit : (s.portHits reach).contains x = true := List.contains_iff_mem.mpr ((State.mem_portHits hx).mpr h)
  obtain ⟨d, l, hd⟩ := List.exists_cons_of_ne_nil (List.append_ne_nil_of_right_ne_nil
    ((s.portDevices t).filter (s.cutOff reach t)) (State.portDevices_ne_nil h))
  refine ⟨d, ?_⟩
  unfold State.portUse
  simp only [hd, hhit, Bool.true_or, if_true]

/-! ## Ports that fail -/

theorem SameBytes.trans {s t u : State} (h : SameBytes s t) (k : SameBytes t u) : SameBytes s u := by
  obtain ⟨h1, h2, h3, h4, h5⟩ := h
  obtain ⟨k1, k2, k3, k4, k5⟩ := k
  exact ⟨fun a => (k1 a).trans (h1 a), fun a => (k2 a).trans (h2 a), fun c a => (k3 c a).trans (h3 c a), fun c a => (k4 c a).trans (h4 c a),
    fun c a => (k5 c a).trans (h5 c a)⟩

/-- A port down, its log entry, and a number for the news of each transfer. -/
def State.portMarked (s : State) (port : Nat) : State :=
  { s with
    downPorts := Tbl.put false s.downPorts port true, log := s.log ++ [LogEntry.port port false], fresh := s.fresh + s.xfers.length }

/-- The transfers that it cuts off ended as well. -/
def State.portDown (s : State) (port : Nat) (reach : List Nat) : State := (s.portMarked port).failXfers (s.portHits reach) 10

theorem State.portDown_frame (s : State) (port : Nat) (reach : List Nat) :
    s.portDown port reach = { s.portMarked port with xfers := (s.portDown port reach).xfers } := State.failXfers_frame _ _ _

theorem State.core_portDown (s : State) (port : Nat) (reach : List Nat) (c : Nat) : (s.portDown port reach).core c = s.core c := by
  rw [State.portDown_frame]
  rfl

/-- The cores that hear of a port, each with a device. -/
def State.portTold (s : State) (reach : List Nat) : List (Nat × Nat) := firstOfEach (s.xfers.zipIdx.filterMap (s.portUse reach))

/-- Each of them has a transfer that used it. -/
theorem State.exists_of_mem_portTold {s : State} {reach : List Nat} {e : Nat × Nat} (h : e ∈ s.portTold reach) :
    ∃ y u, XferAt s y u ∧ u.core = e.1 ∧ e.2 ∈ s.portDevices u := by
  obtain ⟨⟨u, y⟩, hmem, huse⟩ := List.mem_filterMap.mp ((firstOfEach_spec _).1 e h)
  obtain ⟨hc, hd⟩ := State.portUse_some huse
  exact ⟨y, u, List.mk_mem_zipIdx_iff_getElem?.mp hmem, hc.symm, hd⟩

/-- R309, R336, R340: a port that fails. -/
theorem peerPortFailure (s : State) (port : Nat) (reach : List Nat) (h : Tbl.getD s.downPorts port false = false) :
    ∃ s', exec (.peerPortFailure port reach) s = .next s' ∧ Tbl.getD s'.downPorts port false = true ∧
      s'.log = s.log ++ [.port port false] ∧ SameBytes s s' ∧
      (∀ x t, XferAt s x t → XferAt s' x (if t.needsPeer (s.cutOff reach t) then t.failed 10 else t)) ∧
      (∀ c, (∀ x t, XferAt s x t → t.core = c → s.portDevices t = []) → (s'.core c).regs.pend = (s.core c).regs.pend) ∧
      (∀ x t, XferAt s x t → t.needsPeer (s.cutOff reach t) = true → (s.core t.core).regs.pend.length < 32 →
        ∃ y u d, XferAt s y u ∧ u.core = t.core ∧ d ∈ s.portDevices u ∧
          (s'.core t.core).regs.pend = (s.core t.core).regs.pend ++ [⟨0x24, w64 (port % 16 * 256 + d)⟩]) := by
  refine ⟨(s.portDown port reach).tellPort port (s.portTold reach), exec_peerPortFailure reach h, ?_, ?_, ?_, fun x t hx => ?_,
    fun c hc => ?_, fun x t hx hn hlen => ?_⟩
  · rw [State.tellPort_frame State.downPorts (fun _ _ _ _ => rfl), State.portDown_frame]
    exact Tbl.getD_put_self false s.downPorts port true
  · rw [State.tellPort_frame State.log (fun _ _ _ _ => rfl), State.portDown_frame]
    rfl
  · refine SameBytes.trans ?_ (SameBytes.tellPort _ port _)
    rw [State.portDown_frame]
    exact ⟨fun _ => rfl, fun _ => rfl, fun _ _ => rfl, fun _ _ => rfl, fun _ _ => rfl⟩
  · unfold XferAt
    rw [State.tellPort_frame State.xfers (fun _ _ _ _ => rfl)]
    have := XferAt.failXfers (s := s.portMarked port) hx (s.portHits reach) 10
    rwa [if_congr (State.mem_portHits hx) rfl rfl] at this
  · rw [State.core_tellPort_ne _ port fun e he hec => ?_, State.core_portDown]
    obtain ⟨y, u, hu, huc, hd⟩ := State.exists_of_mem_portTold he
    rw [hc y u hu (huc.trans hec)] at hd
    simp at hd
  · obtain ⟨d, hd⟩ := State.portUse_of_hit hx hn
    obtain ⟨-, hnd, hall⟩ := firstOfEach_spec (s.xfers.zipIdx.filterMap (s.portUse reach))
    obtain ⟨e, he, hec⟩ := hall (t.core, d) (List.mem_filterMap.mpr ⟨(t, x), List.mk_mem_zipIdx_iff_getElem?.mpr hx, hd⟩)
    obtain ⟨y, u, hu, huc, hud⟩ := State.exists_of_mem_portTold he
    refine ⟨y, u, e.2, hu, huc.trans hec, hud, ?_⟩
    have hregs := State.regs_tellPort (s.portDown port reach) port hnd he
    rw [State.core_portDown] at hregs
    rw [← show e.1 = t.core from hec] at hlen ⊢
    exact (congrArg Regs.pend hregs).trans (congrArg Regs.pend (if_pos hlen))

/-! ## Members that no path reaches (R340, R341) -/

/-- Every round of a list has failed. -/
def State.failRounds (s : State) (g : Nat) (l : List Round) (cause : Nat) : State := l.foldl (fun s r => s.failRound g r cause) s

theorem State.failRounds_frame (s : State) (g : Nat) (l : List Round) (cause : Nat) : s.failRounds g l cause =
    { s with xfers := (s.failRounds g l cause).xfers, groups := (s.failRounds g l cause).groups } :=
  foldl_keeps (P := fun t : State => t = { s with xfers := t.xfers, groups := t.groups })
    (fun t r _ ht => (t.failRound_frame g cause r).trans (by rw [ht])) rfl

/-- The rounds that are left have none of their numbers. -/
theorem State.rounds_failRounds (s : State) (g : Nat) (l : List Round) (cause : Nat) {q : Round}
    (h : q ∈ ((s.failRounds g l cause).group g).rounds) : q ∈ (s.group g).rounds ∧ ∀ r ∈ l, q.number ≠ r.number := by
  induction l generalizing s with
  | nil => exact ⟨h, by simp⟩
  | cons r l ih =>
    obtain ⟨hq, hl⟩ := ih (s.failRound g r cause) h
    rw [State.group_failRound] at hq
    obtain ⟨hq, hr⟩ := List.mem_filter.mp hq
    exact ⟨hq, List.forall_mem_cons.mpr ⟨by simpa using hr, hl⟩⟩

theorem XferAt.failRounds {s : State} {x : Nat} {t : Xfer} (h : XferAt s x t) (g : Nat) (l : List Round) (cause : Nat) :
    ((∃ r ∈ l, ∃ j ∈ r.joined, j.2 = x) → XferAt (s.failRounds g l cause) x (t.failed cause)) ∧
    ((∀ r ∈ l, ∀ j ∈ r.joined, j.2 ≠ x) → XferAt (s.failRounds g l cause) x t) := by
  induction l generalizing s t with
  | nil => exact ⟨by simp, fun _ => h⟩
  | cons r l ih =>
    have hr := h.failRound g cause r
    change (_ → XferAt ((s.failRound g r cause).failRounds g l cause) x _) ∧ (_ → XferAt ((s.failRound g r cause).failRounds g l cause) x _)
    by_cases hin : x ∈ r.joined.map (·.2)
    · rw [if_pos hin] at hr
      obtain ⟨hyes, hno⟩ := ih hr
      rw [Xfer.failed_failed] at hyes
      obtain ⟨j, hj, hjx⟩ := List.mem_map.mp hin
      refine ⟨fun _ => ?_, fun hall => absurd hjx (hall r List.mem_cons_self j hj)⟩
      by_cases hmore : ∃ r ∈ l, ∃ j ∈ r.joined, j.2 = x
      · exact hyes hmore
      · exact hno fun r hr j hj hjx => hmore ⟨r, hr, j, hj, hjx⟩
    · rw [if_neg hin] at hr
      obtain ⟨hyes, hno⟩ := ih hr
      refine ⟨fun ⟨q, hq, j, hj, hjx⟩ => ?_, fun hall => hno fun q hq => hall q (List.mem_cons_of_mem _ hq)⟩
      rcases List.mem_cons.mp hq with rfl | hq
      · exact absurd (List.mem_map.mpr ⟨j, hj, hjx⟩) hin
      · exact hyes ⟨q, hq, j, hj, hjx⟩

/-- R340, R341: a group with a member that no path reaches. -/
theorem memberUnreachable (s : State) (g : Nat) (hv : (s.group g).valid = true) (hm : ∃ m ∈ (s.group g).members, memberRemote m = true)
    (hr : (s.group g).rounds ≠ []) :
    ∃ s', exec (.memberUnreachable g) s = .next s' ∧ (s'.group g).down = true ∧ (s'.group g).rounds = [] ∧ SameBytes s s' ∧
      (∀ x t, XferAt s x t → ((∃ r ∈ (s.group g).rounds, ∃ j ∈ r.joined, j.2 = x) → XferAt s' x (t.failed 10)) ∧
        ((∀ r ∈ (s.group g).rounds, ∀ j ∈ r.joined, j.2 ≠ x) → XferAt s' x t)) := by
  refine ⟨(s.failRounds g (s.group g).rounds 10).setGroup g { (s.failRounds g (s.group g).rounds 10).group g with down := true }, ?_, ?_, ?_, ?_,
    fun x t hx => XferAt.failRounds hx g _ 10⟩
  · change execMemberUnreachable g s = _
    unfold execMemberUnreachable
    exact if_neg (by simpa [hv, hr] using hm)
  · rw [State.group_setGroup]
  · rw [State.group_setGroup]
    refine List.eq_nil_iff_forall_not_mem.mpr fun q hq => ?_
    obtain ⟨hmem, hne⟩ := s.rounds_failRounds g _ 10 hq
    exact hne q hmem rfl
  · refine SameBytes.trans (SameBytes.of_xfers_groups (s.failRounds_frame g (s.group g).rounds 10)) ?_
    exact ⟨fun _ => rfl, fun _ => rfl, fun _ _ => rfl, fun _ _ => rfl, fun _ _ => rfl⟩

/-- Settles O43: controllers by what the service of a request may change, rounds by the equations of a chunk and of a failed round, ports by
the transfers that they cut off. -/
theorem controllersAndRounds : Obligations.ControllersAndRounds := by
  refine ⟨controllers, rounds, fun s port reach => ⟨fun h => if_pos h, peerPortFailure s port reach⟩, fun s g => ⟨memberUnreachable s g, fun h => if_pos ?_⟩⟩
  simp [h]

end Sys2Proof.Machine

/-! PROOFS. Instructions that complete with an effect on their core or on packets (R22). -/

namespace Sys2Proof.Machine

/-! ## Effects that do not look at the running task -/

/-- An effect `f` on a state that neither looks at the running task of core `c` nor changes it: it may come before or after a change of that
task alone. -/
structure TaskBlind (f : State → State) (s : State) (c : Nat) : Prop where
  commutes : ∀ u, f (s.setCore c ((s.core c).setTask (s.core c).inHi u)) = (f s).setCore c (((f s).core c).setTask (s.core c).inHi u)
  inHi : ((f s).core c).inHi = (s.core c).inHi
  viq : ((f s).core c).vu.viq = (s.core c).vu.viq

/-- Doing nothing is one. -/
theorem TaskBlind.refl (s : State) (c : Nat) : TaskBlind id s c := ⟨fun _ => rfl, rfl, rfl⟩

/-- A change of the core's own part that is blind. -/
theorem TaskBlind.onCore {s : State} {c : Nat} {f : Core → Core}
    (h : ∀ u, f ((s.core c).setTask (s.core c).inHi u) = (f (s.core c)).setTask (s.core c).inHi u)
    (hi : (f (s.core c)).inHi = (s.core c).inHi) (hq : (f (s.core c)).vu.viq = (s.core c).vu.viq) :
    TaskBlind (·.onCore c f) s c := by
  refine ⟨fun u => ?_, by simpa using hi, by simpa using hq⟩
  simp only [h u, State.onCore, State.setCore_setCore, State.core_setCore_self]

/-- Sending a packet is one. -/
theorem TaskBlind.send (s : State) (c : Nat) (src dst : Endpoint) (pl : Plane) (b : Body) : TaskBlind (·.send src dst pl b) s c :=
  ⟨fun _ => rfl, rfl, rfl⟩

/-- Completing with a state `s'` whose running task is `u` and whose stream owes nothing goes past the instruction. -/
theorem Cx.complete_eq {s s' : State} {c : Nat} {t u : Task} (n : Need) (pc : Nat) (hb : (s'.core c).bankTask (s.core c).inHi = some u)
    (hq : (s'.core c).vu.viq = []) :
    (s.cx c t).complete n s' pc = s'.setCore c ((s'.core c).setTask (s.core c).inHi { u with pc := pc, stalled := false, bytewise := none }) := by
  have hr : { s'.core c with vu := (s'.core c).vu.replace n.xd n.pd t.pred } = s'.core c := by rw [VecUnit.replace_nil hq]
  simp only [Cx.complete, State.cx_c, State.cx_hi, State.cx_t, State.onCore, hr, ite_self, Core.onTask_of_some hb]

/-- An instruction that may issue and is done with a blind effect has gone past itself. -/
theorem TaskBlind.finish_done {s : State} {c : Nat} {t : Task} {f : State → State} (h : TaskBlind f s c) (hs : Issues s c t) (n : Need) :
    (Ret.done (f (s.cx c t).s)).finish (s.cx c t) n = .next ((f s).retire c ((f s).core c) t (t.pc + n.len)) := by
  rw [State.cx_s_eq hs.task, State.cx, State.issue_eq hs.task, State.setCore_setCore, h.commutes]
  refine congrArg _ ((Cx.complete_eq (u := { t with stalled := true }) n _ ?_ ?_).trans ?_)
  · simp
  · simp [h.viq, hs.queue]
  · simp [State.retire, h.inHi]

end Sys2Proof.Machine

/-! PROOFS. Page walks, TLB fills and TLBINV (R61–R63, R320, R321, R328). -/

namespace Sys2Proof

/-- A change of every entry in place, after an insertion. -/
theorem Tbl.map_insert {α β : Type} (t : Tbl α) (f : Nat → α → β) (k : Nat) (v : α) :
    (t.insert k v).map (fun e => (e.1, f e.1 e.2)) = Tbl.insert (t.map fun e => (e.1, f e.1 e.2)) k (f k v) := by
  induction t with
  | nil => rfl
  | cons e r ih =>
    simp only [Tbl.insert, List.map_cons]
    split
    · rfl
    · split
      · rfl
      · rw [List.map_cons, ih]

namespace Machine

/-! ## Entries of page tables (R62) -/

/-- The two low bits of a number. -/
theorem bitOf_zero (e : Nat) : bitOf e 0 = decide (e % 2 = 1) := Nat.testBit_zero e

theorem bitOf_one (e : Nat) : bitOf e 1 = decide (e / 2 % 2 = 1) := by
  rw [bitOf, Nat.testBit_succ, Nat.testBit_zero]

/-- An entry that can be read now is handed on. -/
theorem EntryAt.readEntry_eq {s : State} {pa e : Nat} (h : EntryAt s pa e) (f : Nat → WalkRes) : readEntry s pa f = f e := by
  obtain ⟨hready, hbad, rfl⟩ := h
  simp only [readEntry, hready, hbad, Bool.false_eq_true, if_false]

theorem Names.low {s : State} {e t : Nat} (h : Names s e t) : bitOf e 0 = true ∧ bitOf e 1 = false := by
  obtain ⟨h4, -⟩ := h
  rw [bitOf_zero, bitOf_one, decide_eq_true_eq, decide_eq_false_iff_not]
  omega

/-- The walker accepts an entry that names a table. -/
theorem Names.tableOf_eq {s : State} {e t : Nat} (h : Names s e t) : tableOf s e 0x8000 = some t := by
  obtain ⟨-, hhi, hlo, rfl, hal, hpop⟩ := h
  rw [tableOf, if_neg (by rw [hhi, hlo, hal]; simp), hpop]
  rfl

theorem LeafEntry.low {s : State} {e bits : Nat} (h : LeafEntry s e bits) : bitOf e 0 = true ∧ bitOf e 1 = true := by
  obtain ⟨h4, -⟩ := h
  rw [bitOf_zero, bitOf_one, decide_eq_true_eq, decide_eq_true_eq]
  omega

/-- The walker accepts a leaf of a size that its level allows. -/
theorem LeafEntry.leafOf_eq {s : State} {e bits level : Nat} (h : LeafEntry s e bits) (hb : pageBits (bitsOf e 3 2) = bits)
    (h2 : level = 2 → bitsOf e 3 2 = 2) (h3 : level = 3 → bitsOf e 3 2 < 2) (asid va : Nat) :
    leafOf s level e asid va = some (leafTlb e bits asid va) := by
  obtain ⟨-, hhi, hlo, hal, hpop⟩ := h
  subst hb
  have hge : 19 ≤ pageBits (bitsOf e 3 2) := by unfold pageBits; split <;> [skip; split] <;> decide
  have hppn : bitsOf e 51 19 % 2 ^ (pageBits (bitsOf e 3 2) - 19) = 0 := by
    refine Nat.mod_eq_zero_of_dvd ((Nat.mul_dvd_mul_iff_right (Nat.two_pow_pos 19)).mp ?_)
    rw [← Nat.pow_add, Nat.sub_add_cancel hge]
    exact Nat.dvd_of_mod_eq_zero hal
  rw [leafOf, if_neg (by simp [hhi, hlo]), if_neg (by tauto), if_neg (by omega), if_neg (by simp [hppn]), hpop]
  rfl

/-! ## Walks (R61, R63) -/

section
variable {s : State} {asid root va e1 t2 e2 t3 e3 bits : Nat} (hp : s.populated root 0x10000 = true)
  (h1 : EntryAt s (root + 8 * bitsOf va 55 43) e1)
include hp h1

theorem walk_reject1 (he : e1 % 2 = 0) : walk s asid root va = .reject := by
  have hb : bitOf e1 0 = false := by simp [bitOf_zero, he]
  simp [walk, hp, h1.readEntry_eq, hb]

theorem walk_reject2 (n1 : Names s e1 t2) (h2 : EntryAt s (t2 + 8 * bitsOf va 42 31) e2) (he : e2 % 2 = 0) :
    walk s asid root va = .reject := by
  have hb : bitOf e2 0 = false := by simp [bitOf_zero, he]
  simp [walk, hp, h1.readEntry_eq, n1.low, n1.tableOf_eq, h2.readEntry_eq, hb]

theorem walk_leaf2 (n1 : Names s e1 t2) (h2 : EntryAt s (t2 + 8 * bitsOf va 42 31) e2) (hl : LeafEntry s e2 31) (hz : bitsOf e2 3 2 = 2) :
    walk s asid root va = .leaf (leafTlb e2 31 asid va) := by
  have hleaf := hl.leafOf_eq (level := 2) (by rw [hz]; rfl) (fun _ => hz) nofun asid va
  simp [walk, hp, h1.readEntry_eq, n1.low, n1.tableOf_eq, h2.readEntry_eq, hl.low, hleaf]

theorem walk_reject3 (n1 : Names s e1 t2) (h2 : EntryAt s (t2 + 8 * bitsOf va 42 31) e2) (n2 : Names s e2 t3)
    (h3 : EntryAt s (t3 + 8 * bitsOf va 30 19) e3) (he : e3 % 2 = 0) : walk s asid root va = .reject := by
  have hb : bitOf e3 0 = false := by simp [bitOf_zero, he]
  simp [walk, hp, h1.readEntry_eq, n1.low, n1.tableOf_eq, h2.readEntry_eq, n2.low, n2.tableOf_eq, h3.readEntry_eq, hb]

theorem walk_leaf3 (n1 : Names s e1 t2) (h2 : EntryAt s (t2 + 8 * bitsOf va 42 31) e2) (n2 : Names s e2 t3)
    (h3 : EntryAt s (t3 + 8 * bitsOf va 30 19) e3) (hl : LeafEntry s e3 bits)
    (hz : (bitsOf e3 3 2 = 0 ∧ bits = 19) ∨ (bitsOf e3 3 2 = 1 ∧ bits = 25)) :
    walk s asid root va = .leaf (leafTlb e3 bits asid va) := by
  have hleaf := hl.leafOf_eq (level := 3) (by obtain ⟨hz, rfl⟩ | ⟨hz, rfl⟩ := hz <;> rw [hz] <;> rfl) nofun (fun _ => by omega) asid va
  simp [walk, hp, h1.readEntry_eq, n1.low, n1.tableOf_eq, h2.readEntry_eq, n2.low, n2.tableOf_eq, h3.readEntry_eq, hl.low, hleaf]

end

/-- What a walk's step keeps of its result. -/
def WalkRes.found (r : WalkRes) : Option (Option TlbEntry) :=
  match r with
  | .leaf e => some (some e)
  | .reject => some none
  | .wait _ => none

/-- A walk that ends has its result (R320, R321). -/
theorem exec_pageWalk {s : State} {k : Nat} {w : Walk} {r : Option TlbEntry} (hw : s.walks[k]? = some w) (hr : w.result = none)
    (h : (walk s w.asid w.ptroot w.va).found = some r) :
    exec (.pageWalk k) s = .next { s with walks := s.walks.set k { w with result := some r } } := by
  change execPageWalk k s = _
  simp only [execPageWalk, hw, hr, Option.isSome_none, Bool.false_eq_true, if_false]
  cases hres : walk s w.asid w.ptroot w.va with
  | wait => simp [hres, WalkRes.found] at h
  | _ =>
    obtain rfl := Option.some.inj ((congrArg WalkRes.found hres).symm.trans h)
    rfl

/-! ## TLBs (R320, R328) -/

/-- The newest entry of a TLB is in it. -/
theorem mem_addTlb (n : Nat) (l : List TlbEntry) (e : TlbEntry) : e ∈ addTlb n l e := List.mem_append_right _ List.mem_cons_self

/-- An installed entry is in the TLB of its core and of its die. -/
theorem mem_installTlb (s : State) (c : Nat) (e : TlbEntry) :
    e ∈ ((s.installTlb c e).core c).tlb ∧ e ∈ (s.installTlb c e).dtlb (dieOf c) := by
  refine ⟨?_, ?_⟩
  · rw [State.installTlb, State.core_onCore_self]
    exact mem_addTlb ..
  · have hd : (s.installTlb c e).dtlb (dieOf c) = addTlb Config.dieTlbSize (s.dtlb (dieOf c)) e := Tbl.getD_insert_self ..
    rw [hd]
    exact mem_addTlb ..

/-- The cores whose TLBs lie in a scope around core `c` (R328). -/
def scopeReaches (sc : Scope) (c i : Nat) : Bool :=
  match sc with
  | .core => i == c
  | .cluster => i / 4 == c / 4
  | .package | .system => true

/-- A core with the matching entries of its TLB dropped, where the scope reaches it. -/
def Core.tlbinv (sc : Scope) (c : Nat) (drop : TlbEntry → Bool) (i : Nat) (k : Core) : Core :=
  if scopeReaches sc c i then { k with tlb := k.tlb.filter fun x => !drop x } else k

theorem scopeReaches_self (sc : Scope) (c : Nat) : scopeReaches sc c c = true := by cases sc <;> simp [scopeReaches]

/-- What TLBINV makes of every core. -/
theorem State.cores_tlbinv (s : State) (c : Nat) (sc : Scope) (drop : TlbEntry → Bool) :
    (s.tlbinv c sc drop).cores = s.cores.map fun e => (e.1, e.2.tlbinv sc c drop e.1) := by
  refine List.map_congr_left fun e _ => ?_
  by_cases h : scopeReaches sc c e.1 = true
  · rw [Core.tlbinv, if_pos h]
    exact if_pos h
  · rw [Core.tlbinv, if_neg h]
    exact if_neg h

/-- A core that nothing lists has an empty TLB. -/
theorem Core.tlbinv_reset (sc : Scope) (c : Nat) (drop : TlbEntry → Bool) (i : Nat) : Core.reset.tlbinv sc c drop i = Core.reset := by
  unfold Core.tlbinv
  split <;> rfl

theorem State.core_tlbinv (s : State) (c : Nat) (sc : Scope) (drop : TlbEntry → Bool) (d : Nat) :
    (s.tlbinv c sc drop).core d = (s.core d).tlbinv sc c drop d := by
  rw [State.core, State.core, Tbl.getD, Tbl.getD, State.cores_tlbinv, Tbl.find?_map]
  cases s.cores.find? d with
  | none => exact (Core.tlbinv_reset ..).symm
  | some k => rfl

/-- TLBINV reaches the core that issues it, and nothing that it does there is about the running task. -/
theorem State.tlbinv_setCore (s : State) (c : Nat) (k : Core) (sc : Scope) (drop : TlbEntry → Bool) :
    (s.setCore c k).tlbinv c sc drop = (s.tlbinv c sc drop).setCore c (k.tlbinv sc c drop c) := by
  have h : ((s.setCore c k).tlbinv c sc drop).cores = ((s.tlbinv c sc drop).setCore c (k.tlbinv sc c drop c)).cores := by
    simp only [State.cores_tlbinv, State.setCore, Tbl.map_insert]
  calc (s.setCore c k).tlbinv c sc drop
    _ = { s.tlbinv c sc drop with cores := ((s.setCore c k).tlbinv c sc drop).cores } := rfl
    _ = _ := by rw [h]; rfl

theorem TaskBlind.tlbinv (s : State) (c : Nat) (sc : Scope) (drop : TlbEntry → Bool) : TaskBlind (·.tlbinv c sc drop) s c := by
  refine ⟨fun u => ?_, ?_, ?_⟩
  · rw [State.tlbinv_setCore, State.core_tlbinv, Core.tlbinv, Core.tlbinv, scopeReaches_self]
    cases (s.core c).inHi <;> rfl
  · rw [State.core_tlbinv, Core.tlbinv, scopeReaches_self]
    rfl
  · rw [State.core_tlbinv, Core.tlbinv, scopeReaches_self]
    rfl

/-- TLBINV leaves no matching entry in the TLBs of its scope. -/
theorem State.not_mem_tlb_tlbinv (s : State) (c : Nat) (sc : Scope) {drop : TlbEntry → Bool} {d : Nat} {e : TlbEntry} (he : drop e = true)
    (hcore : sc = .core → d = c) (hcluster : sc = .cluster → d / 4 = c / 4) : e ∉ ((s.tlbinv c sc drop).core d).tlb := by
  have hr : scopeReaches sc c d = true := by cases sc <;> simp_all [scopeReaches]
  rw [State.core_tlbinv, Core.tlbinv, if_pos hr, List.mem_filter]
  simp [he]

/-! ## TLBINV (R328) -/

/-- The bits of a register from `n` on. -/
theorem bits_eq_div {w : W} {n : Nat} (hn : n ≤ 63) : w.bits 63 n = w.toNat / 2 ^ n := by
  refine Nat.mod_eq_of_lt (Nat.div_lt_of_lt_mul ?_)
  rw [← Nat.pow_add, show n + (63 + 1 - n) = 64 by omega]
  exact w.isLt

/-- The low 16 bits of a register. -/
theorem bits_15_0 (w : W) : w.bits 15 0 = w.toNat % 2 ^ 16 := by
  rw [W.bits, bitsOf, Nat.pow_zero, Nat.div_one]

/-- TLBINV with operands that name the entries to drop. -/
theorem exec_tlbinv {f : TlbForm} {s : State} {c : Nat} {t : Task} (hs : Issues s c t) (hg : guardPasses f.g t = true) (hsup : t.sup = true)
    (hc : t.carried = false) (hb : (t.reg f.b).toNat / 2 ^ 18 = 0) (va : Nat)
    (hva : (t.reg f.b).getLsbD 17 = true ∧ va = 0 ∨
      (t.reg f.b).getLsbD 17 = false ∧ decodeAddr c true (t.reg f.a).toNat 1 = .ok (.global va)) :
    let s' := s.tlbinv c f.scope fun e => e.dropped va ((t.reg f.b).getLsbD 17) ((t.reg f.b).getLsbD 16) ((t.reg f.b).bits 15 0)
    exec (.tlbinv f) s = .next (s'.retire c (s'.core c) t (t.pc + 2)) := by
  change execTlbinv f s = _
  unfold execTlbinv
  refine (scalar_runs hs _ _ (by simp [hc]) (fun _ => hsup) (by simp [Need.fence, Need.plain]) ?_).trans ?_
  · exact hg
  have hb : ¬ ((s.cx c t).x f.b).bits 63 18 ≠ 0 := by rw [bits_eq_div (by decide), State.cx_x, hb]; simp
  rw [if_neg hb]
  obtain ⟨h17, rfl⟩ | ⟨h17, hd⟩ := hva
  · have h17' : ((s.cx c t).x f.b).getLsbD 17 = true := h17
    simp only [h17, h17', if_true]
    exact (TaskBlind.tlbinv s c f.scope _).finish_done hs _
  · have h17' : ((s.cx c t).x f.b).getLsbD 17 = false := h17
    have hd : decodeAddr (s.cx c t).c true ((s.cx c t).x f.a).toNat 1 = .ok (.global va) := hd
    simp only [h17, h17', hd, Bool.false_eq_true, if_false]
    exact (TaskBlind.tlbinv s c f.scope _).finish_done hs _

/-- TLBINV with a reserved bit set. -/
theorem exec_tlbinv_reserved {f : TlbForm} {s : State} {c : Nat} {t : Task} (hs : Issues s c t) (hg : guardPasses f.g t = true)
    (hsup : t.sup = true) (hc : t.carried = false) (hb : (t.reg f.b).toNat / 2 ^ 18 ≠ 0) :
    TrapsWith (.tlbinv f) s c t 0x01 (t.reg f.b) := by
  change execTlbinv f s = _
  unfold execTlbinv
  refine (scalar_runs hs _ _ (by simp [hc]) (fun _ => hsup) (by simp [Need.fence, Need.plain]) ?_).trans ?_
  · exact hg
  have hb : ((s.cx c t).x f.b).bits 63 18 ≠ 0 := by rwa [bits_eq_div (by decide)]
  rw [if_pos hb]
  exact Ret.finish_trap hs _ _ _

/-! ## The obligation -/

/-- Settles O49: a walk by the entry that it meets at each level, TLBINV by what it makes of every core. -/
theorem translation : Obligations.Translation := by
  refine ⟨fun s k w e1 t2 e2 t3 e3 bits hw hr hp h1 n1 h2 n2 h3 hl hz => ?_, fun s k w e1 t2 e2 hw hr hp h1 n1 h2 hl hz => ?_,
    fun s k w e1 hw hr hp h1 he => ?_, fun s k w e hw hr hd => ?_, mem_installTlb, fun s k w hw hr hd => ?_, fun s k w r hw hr hd => ?_,
    fun s k hw => ⟨?_, ?_⟩, fun f => ⟨fun s c t hs hg ⟨hsup, hc, hb, h17⟩ => ?_, fun va s c t hs hg ⟨hsup, hc, hb, h17, hd⟩ => ?_,
      fun s c t hs hg ⟨hsup, hc, hb⟩ => exec_tlbinv_reserved hs hg hsup hc hb⟩,
    fun s c sc drop d e he h1 h2 => s.not_mem_tlb_tlbinv c sc he h1 h2⟩
  · exact exec_pageWalk hw hr (by rw [walk_leaf3 hp h1 n1 h2 n2 h3 hl hz]; rfl)
  · exact exec_pageWalk hw hr (by rw [walk_leaf2 hp h1 n1 h2 hl hz]; rfl)
  · refine exec_pageWalk hw hr ?_
    obtain he | ⟨t2, e2, n1, h2, he⟩ | ⟨t2, e2, t3, e3, n1, h2, n2, h3, he⟩ := he
    · rw [walk_reject1 hp h1 he]; rfl
    · rw [walk_reject2 hp h1 n1 h2 he]; rfl
    · rw [walk_reject3 hp h1 n1 h2 n2 h3 he]; rfl
  · change execTlbFill k s = _
    simp only [execTlbFill, hw, hr, hd, Bool.false_eq_true, if_false]
  · change execTlbFill k s = _
    simp only [execTlbFill, hw, hr, hd, Bool.false_eq_true, if_false]
  · change execTlbFill k s = _
    simp only [execTlbFill, hw, hr, hd, if_true]
  · change execPageWalk k s = _
    simp only [execPageWalk, hw]
  · change execTlbFill k s = _
    simp only [execTlbFill, hw]
  · refine (exec_tlbinv hs hg hsup hc hb 0 (.inl ⟨h17, rfl⟩)).trans ?_
    simp only [TlbEntry.dropped, h17, Bool.true_or, Bool.and_true, bits_15_0]
  · refine (exec_tlbinv hs hg hsup hc hb va (.inr ⟨h17, hd⟩)).trans ?_
    simp only [TlbEntry.dropped, h17, Bool.false_or, bits_15_0]

end Machine
end Sys2Proof

/-! PROOFS. Full and empty words of another core, from carried code (R87, R162). -/

namespace Sys2Proof.Machine

/-- R162: an address that carried code forms in another core's scratchpad is refused. -/
theorem Cx.fullAddr_carried {cx : Cx} {ea : W} {n d w off : Nat} (hc : cx.t.carried = true)
    (hd : decodeAddr cx.c cx.t.sup ea.toNat n = .ok (.loc d w off)) (hne : d ≠ cx.c) : cx.fullAddr ea n = .error (cADDR, ea) := by
  simp [Cx.fullAddr, Cx.fullScratch, Cx.scratch, hd, hc, hne]

/-- R162: LDF of another core's word in carried code takes the exact trap ADDR, whatever the word holds. -/
theorem ldf_far_of_carried {f : MemForm} {s : State} {c d w off : Nat} {t : Task} (hs : Issues s c t) (hg : guardPasses f.g t = true)
    (hc : t.carried = true)
    (hd : decodeAddr c t.sup (t.reg f.a + w64 (f.disp.toNat * f.sz.bytes)).toNat f.sz.bytes = .ok (.loc d w off)) (hne : d ≠ c) :
    TrapsWith (.ldf f) s c t cADDR (t.reg f.a + w64 (f.disp.toNat * f.sz.bytes)) := by
  change execLdf f s = _
  unfold execLdf
  refine (scalar_runs hs _ _ (by simp [Need.plain]) (by simp [Need.plain]) (by simp [Need.plain]) ?_).trans ?_
  · exact hg
  have h : (s.cx c t).fullAddr ((s.cx c t).x f.a + scaled f.disp f.sz.bytes) f.sz.bytes = .error (cADDR, _) := Cx.fullAddr_carried hc hd hne
  simp only [Cx.ldf, h]
  exact Ret.finish_trap hs _ _ _

/-- The packets under way after a step that goes on. -/
def packetsAfter (o : Out) : Nat :=
  match o with
  | .next s => s.net.length
  | _ => 0

/-- Carried code in the HI bank, at its first instruction: X4 is the address of word 8 of core 5's scratchpad. -/
def carriedTask : Task := { Task.enter true 32 0 [] with carried := true, x := [(4, 0x8014000000000040)] }

/-- The machine after reset, but for core 0, which runs it. -/
def carriedState : State := { State.reset with cores := [(0, { Core.reset with ctx := some 0, hi := some carriedTask })] }

/-- LDF.D X6, [X4]. -/
def farLdf : MemForm := ⟨0, false, .d, 4, 6, .always⟩

/-- Refutes O21: FullEmptyInstructions lets every task ask another core's port, and carried code may not (R162). Core 0 runs carried code
with LDF of a word of core 5; the model takes the trap ADDR and sends nothing, where the statement has a request under way. -/
theorem not_fullEmptyWords : ¬ Obligations.FullEmptyWords := by
  rintro ⟨⟨h, -⟩, -⟩
  have hs : Issues carriedState 0 carriedTask := ⟨rfl, rfl, rfl, rfl, rfl, rfl⟩
  have hd : decodeAddr 0 false (carriedTask.reg 4 + w64 0).toNat 8 = .ok (.loc 5 0 0x40) := rfl
  obtain ⟨-, -, hfar⟩ := h farLdf 0 0x40
  obtain ⟨hask, -⟩ := hfar 5
  have asked := hask carriedState 0 carriedTask hs rfl ⟨⟨hd, fun p hp => absurd hp List.not_mem_nil⟩, by decide, rfl⟩
  have trapped := ldf_far_of_carried (f := farLdf) hs rfl rfl hd (by decide)
  have one : packetsAfter (exec (.ldf farLdf) carriedState) = 1 := congrArg packetsAfter asked
  have none : packetsAfter (exec (.ldf farLdf) carriedState) = 0 := by
    obtain ⟨-, -, hnet⟩ := takeTrap_frame (carriedState.issue 0 true) 0 true carriedTask cADDR (carriedTask.reg 4 + w64 0) (trapPc carriedTask 0)
      false false
    exact (congrArg packetsAfter trapped).trans (congrArg List.length hnet)
  exact absurd (one.symm.trans none) (by decide)

end Sys2Proof.Machine

/-! PROOFS. Arrivals at the port of the core that owns the memory (R53, R151–R158, R358). -/

namespace Sys2Proof.Machine

/-! ## The port's turn (R151, R358) -/

/-- An arrival that is an access of a core's port has had its turn there. -/
theorem State.portTook_of_atPort (s : State) {p : Packet} {c : Nat} (hd : p.dst = .core c) (hb : p.body.atPort = true) :
    s.portTook p = s.portTurn c := by
  simp only [State.portTook, hd, hb, Bool.true_and, State.portTurn]

/-- A delivered access of a core's port, which the port takes. -/
theorem packetStep_atPort {k c : Nat} {s t : State} {src : Endpoint} {b : Body} {f : Packet → State → Option State}
    (h : Delivers s k src (.core c) b) (hb : b.atPort = true) (hf : ∀ pl, f ⟨src, .core c, pl, b⟩ (s.drop k) = some t) :
    packetStep k f s = .next (t.portTurn c) := by
  obtain ⟨pl, hp⟩ := h
  rw [packetStep_some f hp (hf pl), State.portTook_of_atPort t rfl hb]

/-- The same for a unit that might have to wait. -/
theorem waitingStep_atPort {k c : Nat} {s t : State} {src : Endpoint} {b : Body} {f : Packet → State → Take}
    (h : Delivers s k src (.core c) b) (hb : b.atPort = true) (hf : ∀ pl, f ⟨src, .core c, pl, b⟩ (s.drop k) = .did t) :
    waitingStep k f s = .next (t.portTurn c) := by
  obtain ⟨pl, hp⟩ := h
  rw [waitingStep_did f hp (hf pl), State.portTook_of_atPort t rfl hb]

/-- Where no arrival waits, an own access leaves the port as it is. -/
theorem State.ownAccess_of_free {s : State} {c : Nat} (h : s.portWaits c = false) : s.ownAccess c = s := by
  simp [State.ownAccess, h]

theorem State.ownAccess_of_waits {s : State} {c : Nat} (h : s.portWaits c = true) :
    s.ownAccess c = s.onCore c fun k => { k with lcl := { k.lcl with passed := true } } := by
  simp [State.ownAccess, h]

/-- An own access that passes a waiting arrival is the last one that does. -/
theorem State.portOwes_ownAccess {s : State} {c : Nat} (h : s.portWaits c = true) : (s.ownAccess c).portOwes c = true := by
  have hw : (s.ownAccess c).portWaits c = true := by rw [State.ownAccess_of_waits h]; exact h
  rw [State.portOwes, hw, State.ownAccess_of_waits h, State.core_onCore_self]
  rfl

/-- After an arrival's turn the port owes no arrival one. -/
theorem State.portOwes_portTurn (s : State) (c : Nat) : (s.portTurn c).portOwes c = false := by
  unfold State.portTurn
  split
  · simp [State.portOwes]
  · next h => simp [State.portOwes, h]

/-! ## Loads, stores and atomics (R53, R152, R156, R158) -/

/-- What a load of a byte, or of one of its nibbles, answers (R157). -/
def nibbleOf (nib : Option Bool) (v : Nat) : Nat :=
  match nib with
  | none => v
  | some h => if h then v / 16 else v % 16

/-- The state in which the port of core `c` has stored what the atomic `op` makes of the old value. -/
def State.afterRmw (s : State) (c off n : Nat) (op : Rmw) (old : Nat) : State :=
  match op.new n old with
  | none => s
  | some v => s.portStore c 0 off (leBytes n v)

section
variable {s : State} {k c addr n : Nat} {src : Endpoint} {r : Requester}

theorem exec_remoteLoadArrival {nib : Option Bool} {bytes : List Byte} (h : Delivers s k src (.core c) (.rld r addr n nib))
    (hok : (s.core c).arrivalCheck r .load addr n = none) (hl : (s.core c).lcl.load (bitsOf addr 49 46) (bitsOf addr 17 0) n = some bytes) :
    exec (.remoteLoadArrival k) s = .next (((s.drop k).send (.core c) (.core r.core) .reply (.reply r.hi
      [nibbleOf nib (leNat bytes)])).portTurn c) := by
  refine packetStep_atPort h rfl fun pl => ?_
  simp only [State.drop_core, hok, localParts, hl]
  rfl

theorem exec_remoteLoadArrival_fails {nib : Option Bool} {code : Nat} (h : Delivers s k src (.core c) (.rld r addr n nib))
    (hbad : (s.core c).arrivalCheck r .load addr n = some code) :
    exec (.remoteLoadArrival k) s =
      .next (((s.drop k).send (.core c) (.core r.core) .reply (.failed r.hi ⟨code, w64 addr⟩)).portTurn c) := by
  refine packetStep_atPort h rfl fun pl => ?_
  simp only [State.drop_core, hbad]
  rfl

variable {v e : Nat}

theorem exec_remoteStoreArrival (h : Delivers s k src (.core c) (.rst r addr n v none e))
    (hok : (s.core c).arrivalCheck r .store addr n = none) (hf : (s.core c).fullRefused c r addr n = false)
    (hm : (s.core c).lcl.mergeFails (bitsOf addr 17 0) n = false) :
    exec (.remoteStoreArrival k) s = .next ((((s.drop k).portStore c (bitsOf addr 49 46) (bitsOf addr 17 0) (leBytes n v)).send (.core c)
      (.core r.core) .reply (.ack e)).portTurn c) := by
  refine packetStep_atPort h rfl fun pl => ?_
  simp only [State.drop_core, hok, hf, localParts, hm, Bool.false_eq_true, and_false, if_false]
  rfl

theorem exec_remoteStoreArrival_full (h : Delivers s k src (.core c) (.rst r addr n v none e))
    (hok : (s.core c).arrivalCheck r .store addr n = none) (hf : (s.core c).fullRefused c r addr n = true) :
    exec (.remoteStoreArrival k) s = .next (((s.drop k).send (.core c) (.core r.core) .reply (.refusal e 4)).portTurn c) := by
  refine packetStep_atPort h rfl fun pl => ?_
  simp only [State.drop_core, hok, hf, if_true]
  rfl

theorem exec_remoteStoreArrival_refused {code : Nat} (h : Delivers s k src (.core c) (.rst r addr n v none e))
    (hbad : (s.core c).arrivalCheck r .store addr n = some code) :
    exec (.remoteStoreArrival k) s =
      .next (((s.drop k).send (.core c) (.core r.core) .reply (.refusal e (postCause code))).portTurn c) := by
  refine packetStep_atPort h rfl fun pl => ?_
  simp only [State.drop_core, hbad]
  rfl

theorem exec_remoteAtomicArrival {op : Rmw} {bytes : List Byte} (h : Delivers s k src (.core c) (.ramo r addr n op))
    (hok : (s.core c).arrivalCheck r .atomic addr n = none) (hl : (s.core c).lcl.load 0 (bitsOf addr 17 0) n = some bytes) :
    exec (.remoteAtomicArrival k) s = .next ((((s.drop k).afterRmw c (bitsOf addr 17 0) n op (leNat bytes)).send (.core c) (.core r.core)
      .reply (.reply r.hi [leNat bytes])).portTurn c) := by
  refine packetStep_atPort h rfl fun pl => ?_
  simp only [State.drop_core, hok, State.portRmw, localParts, hl]
  rfl

theorem exec_feclrArrival (h : Delivers s k src (.core c) (.feclr r addr n)) (hok : (s.core c).arrivalCheck r .atomic addr n = none) :
    exec (.feclrArrival k) s =
      .next ((((s.drop k).portFeclr c (bitsOf addr 17 0) n).send (.core c) (.core r.core) .reply (.reply r.hi [0])).portTurn c) := by
  refine packetStep_atPort h rfl fun pl => ?_
  simp only [State.drop_core, hok]
  rfl

end

/-! ## The owner's checks (R53, R156) -/

theorem Core.refuses_iff (k : Core) (ctx : Option Nat) : k.refuses ctx = true ↔ k.ctx = none ∨ k.ctx ≠ ctx ∨ k.stopped = true := by
  simp [Core.refuses, or_assoc]

/-- An arrival of another context is refused before anything else is looked at. -/
theorem Core.arrivalCheck_of_refuses {k : Core} {r : Requester} (h : k.refuses r.ctx = true) (acc : Access) (addr n : Nat) :
    k.arrivalCheck r acc addr n = some cCONTEXT := if_pos h

theorem Core.arrivalCheck_of_accepts {k : Core} {r : Requester} (h : k.refuses r.ctx = false) (acc : Access) (addr n : Nat) :
    k.arrivalCheck r acc addr n = k.lcl.windowCheck acc r.sup (bitsOf addr 49 46) (bitsOf addr 17 0) n := if_neg (by simp [h])

theorem Core.fullRefused_iff (k : Core) (c addr n : Nat) (r : Requester) : k.fullRefused c r addr n = true ↔
    k.regs.rprot = true ∧ r.core ≠ c ∧ bitsOf addr 49 46 ≤ 12 ∧ k.lcl.anyFull (bitsOf addr 17 0) n = true := by
  change (k.regs.rprot && r.core != c && decide (bitsOf addr 49 46 ≤ 12) && k.lcl.anyFull (bitsOf addr 17 0) n) = true ↔ _
  simp only [Bool.and_eq_true, bne_iff_ne, decide_eq_true_eq, and_assoc]

/-- Settles O20: an arrival by the branch of its row that its checks select, the port's turn by what an own access and an arrival leave. -/
theorem ownerPort : Obligations.OwnerPort := by
  refine ⟨fun s k c addr n src r nib h => ⟨fun bytes => exec_remoteLoadArrival h, fun code => exec_remoteLoadArrival_fails h⟩,
    fun s k c addr n v e src r h => ⟨exec_remoteStoreArrival h, exec_remoteStoreArrival_full h, fun code => exec_remoteStoreArrival_refused h⟩,
    fun s k c addr n src r op bytes h => exec_remoteAtomicArrival h, fun s k c addr n src r h => exec_feclrArrival h,
    fun k r acc addr n => ⟨fun h => ?_, fun h1 h2 h3 => ?_⟩, fun k c addr n r => k.fullRefused_iff c addr n r,
    fun s c => ⟨?_, State.ownAccess_of_free, fun h => ⟨State.portOwes_ownAccess h, State.ownAccess_of_waits h⟩, s.portOwes_portTurn c⟩⟩
  · exact Core.arrivalCheck_of_refuses ((k.refuses_iff r.ctx).mpr h) acc addr n
  · refine Core.arrivalCheck_of_accepts (Bool.eq_false_iff.mpr fun h => ?_) acc addr n
    obtain h | h | h := (k.refuses_iff r.ctx).mp h
    · exact h1 h
    · exact h h2
    · simp [h3] at h
  · rw [State.portOwes, Bool.and_eq_true]

end Sys2Proof.Machine

/-! PROOFS. Tile loads and stores (R221–R226). -/

namespace Sys2Proof.Machine

/-! ## A matrix instruction at its step -/

/-- The stream at a matrix instruction that it may work on, and that its guard lets pass, does the instruction's own part. -/
theorem vector_unitOn {s : State} {c : Nat} {e : VEntry} {it : VItem} {i : Instr} (h : AtStep s c e it i) (hp : it.pvs = [])
    {n : VNeed} (hl : n.lanes = false) (on : (s.core c).unitOn n.g = true) (body : Vx → VRet) :
    vector n body s = .next ((body (vxAt s c e it)).settle s c it) := by
  obtain ⟨r, hq⟩ := List.head?_eq_some_iff.mp h.head
  have hoff : (vxAt s c e it).off n.lanes n.g = false := by rw [hl, vxAt_off_of_unitOn hp, on]; rfl
  unfold vector vecRun
  simp only [h.turn, h.running, h.free, h.command, hq, h.item, h.sound, hoff, Bool.false_or, Bool.false_and, Bool.false_eq_true, if_false]
  cases body (vxAt s c e it) <;> rfl

/-- The core after an own access: only the mark of its port may change (R358). -/
theorem State.core_ownAccess (s : State) (c : Nat) : (s.ownAccess c).core c =
    { s.core c with lcl := { (s.core c).lcl with passed := (s.core c).lcl.passed || s.portWaits c } } := by
  cases h : s.portWaits c
  · rw [State.ownAccess_of_free h, Bool.or_false]
  · rw [State.ownAccess_of_waits h, State.core_onCore_self, Bool.or_true]

/-- What an access of the stream at the core's own port runs on once it has its turn. -/
def Vx.atOwnPort (vx : Vx) : Vx := { vx with s := vx.s.ownAccess vx.c, k := (vx.s.ownAccess vx.c).core vx.c }

/-- An access of the scratchpad never meets one of global memory. -/
theorem Span.meets_of_local {x y : Span} (hx : x.glob = true) (hy : y.glob = false) : x.meets y = false := by
  simp [Span.meets, hx, hy]

/-- An access of the scratchpad waits only for the core's own posted stores (R193). -/
theorem mustWait_of_ownTurn {s : State} {c : Nat} (h : NoOwnPosted s c) (e : VEntry) (it : VItem) {spans : List Span}
    (hl : ∀ x ∈ spans, x.glob = false) : (vxAt s c e it).mustWait spans = false := by
  have hp (p) (hp : p ∈ s.net ++ s.held) : ((packetSpans c false p).any fun a => spans.any a.meets) = false := by rw [h p hp]; rfl
  have hlate (t : Task) : (t.late.any fun l => !l.pas.isEmpty && spans.any (Span.meets ⟨true, l.va, l.va + l.n⟩)) = false := by
    refine List.any_eq_false.mpr fun l _ => ?_
    have hm : spans.any (Span.meets ⟨true, l.va, l.va + l.n⟩) = false :=
      List.any_eq_false.mpr fun x hx => by rw [Span.meets_of_local (by rfl) (hl x hx)]; decide
    simp [hm]
  have hposted : ((s.net ++ s.held).any fun p => (packetSpans c false p).any fun a => spans.any a.meets) = false :=
    List.any_eq_false.mpr fun p h => by simp [hp p h]
  change ((s.core c).lo.any fun t => ((s.net ++ s.held).any fun p => (packetSpans c false p).any fun a => spans.any a.meets) || _) = false
  cases (s.core c).lo with
  | none => rfl
  | some t => rw [hposted, Option.any_some, Bool.false_or, hlate]

/-- An access of the stream at the core's own port, whose turn it is. -/
theorem ownPort_of_ownTurn {s : State} {c : Nat} (h : OwnTurn s c) (e : VEntry) (it : VItem) {spans : List Span}
    (hl : ∀ x ∈ spans, x.glob = false) (f : Vx → VRet) : (vxAt s c e it).ownPort spans f = f (vxAt s c e it).atOwnPort := by
  obtain ⟨hposted, howes⟩ := h
  have howes : (vxAt s c e it).s.portOwes (vxAt s c e it).c = false := howes
  rw [Vx.ownPort, mustWait_of_ownTurn hposted e it hl, howes]
  rfl

/-- The rows of a tile, and its scales, lie in the scratchpad. -/
theorem glob_of_mem_rowSpans {off step : Nat} {f : Fmt} {x : Span} (h : x ∈ rowSpans off f step) : x.glob = false := by
  obtain ⟨r, -, rfl⟩ := List.mem_map.mp h
  rfl

theorem glob_of_mem_tileSpans {l : Local} {w off step : Nat} {f : Fmt} {x : Span} (h : x ∈ l.tileSpans w off f step) : x.glob = false := by
  obtain h | h := List.mem_append.mp h
  · exact glob_of_mem_rowSpans h
  · split at h
    · obtain ⟨o, -, rfl⟩ := List.mem_map.mp h
      rfl
    · simp at h

/-! ## Tile registers -/

/-- A tile register reads back the elements that were written. -/
theorem VecUnit.cell_setTile (u : VecUnit) (t : Nat) (f : Nat → Nat → Nat) {m n : Nat} (hm : m < 32) (hn : n < 32) :
    (u.setTile t (tileOf f)).cell t m n = f m n % 2 ^ 32 := by
  have hlen : ((List.range 1024).map fun e => f (e / 32) (e % 32)).length = 1024 := by rw [List.length_map, List.length_range]
  have hlt : tileOf f < _ := ofLanes_lt 32 ((List.range 1024).map fun e => f (e / 32) (e % 32))
  rw [hlen, show 32 * 1024 = 32768 by decide] at hlt
  have ht : (u.setTile t (tileOf f)).tile t = tileOf f := by
    rw [VecUnit.tile, VecUnit.setTile, Tbl.getD_put_self, toNat_ofNat_of_lt hlt]
  have he : 32 * m + n < ((List.range 1024).map fun e => f (e / 32) (e % 32)).length := by omega
  have hrow : (32 * m + n) / 32 = m := by omega
  have hcol : (32 * m + n) % 32 = n := by omega
  rw [VecUnit.cell, ht, tileOf, lane_ofLanes 32 _ he, List.getElem_map, List.getElem_range, hrow, hcol]

/-- A scale pair is apart from the elements. -/
theorem VecUnit.cell_setScales (u : VecUnit) (t : Nat) (a b : BitVec 32) (t' m n : Nat) : (u.setScales t a b).cell t' m n = u.cell t' m n := rfl

/-- A loaded tile has its rows' elements, transposed under TLD.T, and scales of one (R223). -/
theorem VecUnit.cell_loadTile (u : VecUnit) (t : PReg) (tr : Bool) (rows : List (List Nat)) {m n : Nat} (hm : m < 32) (hn : n < 32) :
    (u.loadTile t tr rows).cell t.toNat m n = (if tr then (rows.getD n []).getD m 0 else (rows.getD m []).getD n 0) % 2 ^ 32 := by
  rw [VecUnit.loadTile, VecUnit.cell_setScales, u.cell_setTile t.toNat _ hm hn]

theorem VecUnit.scales_loadTile (u : VecUnit) (t : PReg) (tr : Bool) (rows : List (List Nat)) :
    (u.loadTile t tr rows).scales t.toNat = (f32One, f32One) := by
  rw [VecUnit.scales, VecUnit.loadTile, VecUnit.setScales, Tbl.getD_put_self, Tbl.getD_put_self]

/-! ## TLD and TLD.T (R223) -/

/-- The elements of an answer: the bytes of a tile of global memory, or another core's rows as F32. -/
def answeredRows (a : W) (sh : Shape) (k : Core) (got : List (List Byte)) : List (List Nat) :=
  if a.bits 63 60 = 0 then
    (chunks (4 * sh.fmt.width) 32 got.flatten).map fun r => (rowCodes sh.fmt.width r).map (elemF32 sh.fmt k.lcl.t8)
  else got.map (rowCodes 32)

section
variable {s : State} {c : Nat} {e : VEntry} {it : VItem} {f : TileForm} {tr : Bool} {sh : Shape}

/-- TLD and TLD.T do their own part. -/
theorem exec_tld (h : AtStep s c e it (if tr then .tldT f else .tld f)) (hp : it.pvs = []) (on : (s.core c).unitOn f.g = true) :
    exec (if tr then .tldT f else .tld f) s =
      .next ((tldBody tr f.t (e.x it 1 f.a) (e.x it 2 f.b) f.b (vxAt s c e it)).settle s c it) := by
  have hx : exec (if tr then .tldT f else .tld f) s = vector (.plain (if tr then .tldT f else .tld f) false f.g [f.a, f.b])
      (fun vx => tldBody tr f.t (vx.x 1 f.a) (vx.x 2 f.b) f.b vx) s := by cases tr <;> rfl
  exact hx.trans (vector_unitOn h hp (by rfl) (by exact on) _)

variable {a sw : W} {b : Reg} {td : PReg} (hsh : shapeOf (.tld tr) sw (a.bits 63 60) b td = some sh)
include hsh

theorem tldBody_own {w off step : Nat} {fm : Fmt} {rows : List (List Nat)} (hr : (s.core c).vu.reply = none) (ht : OwnTurn s c)
    (hc : tileCheck c it.sup (s.core c).lcl (.tld tr) a sw sh = .ok (.own w off fm step))
    (hrows : (s.core c).lcl.readTile a w off fm step = .ok rows) :
    tldBody tr td a sw b (vxAt s c e it) = .done ((s.ownAccess c).setCore c
      { (s.ownAccess c).core c with vu := ((s.ownAccess c).core c).vu.loadTile td tr rows }) := by
  have hrows' : ((s.ownAccess c).core c).lcl.readTile a w off fm step = .ok rows := by rw [State.core_ownAccess]; exact hrows
  have hr : (vxAt s c e it).k.vu.reply = none := hr
  have hc : tileCheck (vxAt s c e it).c (vxAt s c e it).sup (vxAt s c e it).k.lcl (.tld tr) a sw sh = .ok (.own w off fm step) := hc
  have hrows' : (vxAt s c e it).atOwnPort.k.lcl.readTile a w off fm step = .ok rows := hrows'
  simp only [tldBody, hsh, hr, hc, ownPort_of_ownTurn ht e it fun _ => glob_of_mem_tileSpans, hrows']
  rfl

theorem tldBody_far {d : Nat} (hr : (s.core c).vu.reply = none)
    (hc : tileCheck c it.sup (s.core c).lcl (.tld tr) a sw sh = .ok (.far d)) :
    tldBody tr td a sw b (vxAt s c e it) = .wait ((s.send (.core c) (.core d) .request
      (.tileLoad (s.tileRequester c it) a.toNat sh.pitch)).onCore c fun k => { k with vu := { k.vu with wait := true } }) := by
  have hr : (vxAt s c e it).k.vu.reply = none := hr
  have hc : tileCheck (vxAt s c e it).c (vxAt s c e it).sup (vxAt s c e it).k.lcl (.tld tr) a sw sh = .ok (.far d) := hc
  simp only [tldBody, hsh, hr, hc]
  rfl

theorem tldBody_glob {va step : Nat} {fm : Fmt} {rows : List (List (Nat × Nat × Nat))} (hr : (s.core c).vu.reply = none)
    (hc : tileCheck c it.sup (s.core c).lcl (.tld tr) a sw sh = .ok (.glob va fm step))
    (hrows : translateAll s c it.sup false (tileRows va fm step) = .ok (.ok rows)) (hf : TileFree s c e it rows.flatten va fm step) :
    tldBody tr td a sw b (vxAt s c e it) = (vxAt s c e it).askTile rows.flatten (.read rows.flatten) none := by
  obtain ⟨hgrant, hwait⟩ := hf
  have hr : (vxAt s c e it).k.vu.reply = none := hr
  have hc : tileCheck (vxAt s c e it).c (vxAt s c e it).sup (vxAt s c e it).k.lcl (.tld tr) a sw sh = .ok (.glob va fm step) := hc
  have hrows : translateAll (vxAt s c e it).s (vxAt s c e it).c (vxAt s c e it).sup false
    ((List.range 32).map fun r => (va + r * step, 4 * fm.width)) = .ok (.ok rows) := hrows
  have hgrant : (vxAt s c e it).k.ungrantedIn rows.flatten = false := hgrant
  simp only [tldBody, hsh, hr, hc, hrows, hgrant, hwait, Bool.or_self, Bool.false_eq_true, if_false]

theorem tldBody_reply {got : List (List Byte)} (hr : (s.core c).vu.reply = some got) :
    tldBody tr td a sw b (vxAt s c e it) =
      .done (s.setCore c { s.core c with vu := (s.core c).vu.loadTile td tr (answeredRows a sh (s.core c) got) }) := by
  have hr : (vxAt s c e it).k.vu.reply = some got := hr
  simp only [tldBody, hsh, hr, answeredRows]
  split <;> rfl

end

/-- A tile access asked of a home has the stream wait for the answer. -/
theorem settle_askTile (s : State) (c : Nat) (e : VEntry) (it : VItem) (runs : List (Nat × Nat × Nat)) (op : TileOp) (keep : Option (List (List Byte))) :
    ((vxAt s c e it).askTile runs op keep).settle s c it =
      (s.send (.core c) (.slice ((runs.head?.map fun r => homeOf r.2.1).getD 0)) .request (.tile (s.tileRequester c it) op)).streamAsks c keep := rfl

/-- The stream goes on from a core that its instruction has written. -/
theorem settle_setCore (s : State) (c : Nat) (k : Core) (s0 : State) (it : VItem) :
    (VRet.done (s.setCore c k)).settle s0 c it = s.streamDone c k := by
  simp only [VRet.settle, State.streamDone, State.core_setCore_self, State.setCore_setCore]

theorem tileLoads : TileLoads := by
  refine ⟨fun f sh w off step fm rows tr s c e it h on ht ⟨hsh, hc, hrows⟩ => ?_,
    fun u t tr rows m n hm hn => ⟨u.cell_loadTile t tr rows hm hn, u.scales_loadTile t tr rows⟩,
    fun f sh tr s c d e it h on hsh hc => ?_, fun f sh tr s c va step fm e it rows h on hsh hc hrows hf => ?_,
    fun f sh tr s c e it got h on hsh => ?_⟩
  · rw [exec_tld h.toAtStep h.shares.2 on, tldBody_own hsh h.fresh ht hc hrows, settle_setCore]
  · rw [exec_tld h.toAtStep h.shares.2 on, tldBody_far hsh h.fresh hc]
    have hfresh : ((s.send (.core c) (.core d) .request (.tileLoad (s.tileRequester c it) (e.x it 1 f.a).toNat sh.pitch)).core c).vu.reply = none :=
      h.fresh
    simp only [VRet.settle, State.streamAsks, State.onCore, ← hfresh]
  · rw [exec_tld h.toAtStep h.shares.2 on, tldBody_glob hsh h.fresh hc hrows hf, settle_askTile]
  · rw [exec_tld h.toAtStep h.shares.2 on, tldBody_reply hsh h.kept, settle_setCore]
    rfl

/-! ## TST and TSTN (R224, R225) -/

/-- The scale pair that a tile store multiplies by (R224). -/
def TileKind.storeScale (k : TileKind) (u : VecUnit) (t : PReg) : Option (FVal × FVal) :=
  match k with
  | .tstn => some (sF32.decode (u.scales t.toNat).1.toNat, sF32.decode (u.scales t.toNat).2.toNat)
  | _ => none

/-- The rows that a tile store of core `k` writes. -/
def Core.storedRows (k : Core) (kind : TileKind) (t : PReg) (fm : Fmt) : List (List Byte) :=
  storeRows fm k.lcl.t8 k.bankLo.rmode k.bankLo.rng (kind.storeScale k.vu t) (k.vu.codes t.toNat)

/-- An own access changes nothing of what a tile store writes. -/
theorem Core.storedRows_ownAccess (s : State) (c : Nat) (kind : TileKind) (t : PReg) (fm : Fmt) :
    ((s.ownAccess c).core c).storedRows kind t fm = (s.core c).storedRows kind t fm := by
  rw [State.core_ownAccess]
  rfl

/-- The instruction `i` is the tile store of kind `kind`. -/
def StoresAs (i : Instr) (kind : TileKind) (f : TileForm) : Prop := (i = .tst f ∧ kind = .tst) ∨ (i = .tstn f ∧ kind = .tstn)

/-- Two changes of a core, one after the other. -/
theorem State.onCore_onCore (s : State) (c : Nat) (f g : Core → Core) : (s.onCore c f).onCore c g = s.onCore c (g ∘ f) := by
  simp only [State.onCore, State.core_setCore_self, State.setCore_setCore, Function.comp]

section
variable {s : State} {c : Nat} {e : VEntry} {it : VItem} {i : Instr} {f : TileForm} {kind : TileKind} {sh : Shape}

/-- TST and TSTN do their own part. -/
theorem exec_tst (hi : StoresAs i kind f) (h : AtStep s c e it i) (hp : it.pvs = []) (on : (s.core c).unitOn f.g = true) :
    ∃ src, exec i s = .next ((tstBody kind f.t (e.x it 1 f.a) (e.x it 2 f.b) src f.b (vxAt s c e it)).settle s c it) := by
  obtain ⟨rfl, rfl⟩ | ⟨rfl, rfl⟩ := hi
  · exact ⟨_, vector_unitOn (n := { VNeed.plain (.tst f) false f.g [f.a, f.b, f.b + 1] with check := some (tstPass f) }) h hp rfl on
      fun vx => tstBody .tst f.t (vx.x 1 f.a) (vx.x 2 f.b) (vx.x 3 (f.b + 1)) f.b vx⟩
  · exact ⟨_, vector_unitOn (n := .plain (.tstn f) false f.g [f.a, f.b]) h hp rfl on
      fun vx => tstBody .tstn f.t (vx.x 1 f.a) (vx.x 2 f.b) 0 f.b vx⟩

variable {a sw src : W} {b : Reg} {td : PReg} (hsh : shapeOf kind sw (a.bits 63 60) b td = some sh)
include hsh

section
variable (hr : (s.core c).vu.reply = none) (hk : sh.kph = 0) (hl : sh.lsrc = false)
include hr hk hl

theorem tstBody_own {w off step : Nat} {fm : Fmt} (ht : OwnTurn s c)
    (hc : tileCheck c it.sup (s.core c).lcl kind a sw sh = .ok (.own w off fm step)) :
    tstBody kind td a sw src b (vxAt s c e it) = .done ((s.ownAccess c).onCore c fun k =>
      { k with lcl := k.lcl.writeTile off step ((s.core c).storedRows kind td fm) }.tileRounded (tileRounds kind false fm)) := by
  have hr : (vxAt s c e it).k.vu.reply = none := hr
  have hc : tileCheck (vxAt s c e it).c (vxAt s c e it).sup (vxAt s c e it).k.lcl kind a sw sh = .ok (.own w off fm step) := hc
  unfold tstBody
  rw [hsh]
  dsimp only
  rw [hr]
  dsimp only
  rw [hc]
  dsimp only
  simp only [ hk, hl, translateAll, ne_eq, not_true, false_and, if_true, Bool.false_eq_true, if_false,
    ownPort_of_ownTurn ht e it fun _ => glob_of_mem_rowSpans]
  exact congrArg VRet.done (State.onCore_onCore ..)

theorem tstBody_far {d n : Nat} (hn : it.entry = some n) (hc : tileCheck c it.sup (s.core c).lcl kind a sw sh = .ok (.far d)) :
    tstBody kind td a sw src b (vxAt s c e it) = .done ((s.send (.core c) (.core d) .bulk (.tileStore (s.tileRequester c it) a.toNat sh.pitch
      (.elems (s.core c).bankLo.rmode (s.core c).bankLo.rng ((s.core c).vu.codes td.toNat)) n)).onCore c
        (·.tileRounded (s.farRounds d a.toNat))) := by
  have hr : (vxAt s c e it).k.vu.reply = none := hr
  have hn : (vxAt s c e it).entry = some n := hn
  have hc : tileCheck (vxAt s c e it).c (vxAt s c e it).sup (vxAt s c e it).k.lcl kind a sw sh = .ok (.far d) := hc
  unfold tstBody
  rw [hsh]
  dsimp only
  rw [hr]
  dsimp only
  rw [hc]
  dsimp only
  simp only [ hk, hl, hn, translateAll, ne_eq, not_true, false_and, if_true, Bool.false_eq_true, if_false,
    Bool.not_false, Bool.true_and]
  rfl

theorem tstBody_glob {va step : Nat} {fm : Fmt} {runs : List (List (Nat × Nat × Nat))}
    (hc : tileCheck c it.sup (s.core c).lcl kind a sw sh = .ok (.glob va fm step))
    (hruns : translateAll s c it.sup true (tileRows va fm step) = .ok (.ok runs)) (hf : TileFree s c e it runs.flatten va fm step) :
    tstBody kind td a sw src b (vxAt s c e it) = (vxAt s c e it).askTile (runs.take 32).flatten
      (.write (withBytes (runs.take 32).flatten ((s.core c).storedRows kind td fm).flatten))
      (some ([] :: (s.core c).storedRows kind td fm)) := by
  obtain ⟨hgrant, hwait⟩ := hf
  have hr : (vxAt s c e it).k.vu.reply = none := hr
  have hc : tileCheck (vxAt s c e it).c (vxAt s c e it).sup (vxAt s c e it).k.lcl kind a sw sh = .ok (.glob va fm step) := hc
  have hruns : translateAll (vxAt s c e it).s (vxAt s c e it).c (vxAt s c e it).sup true
    ((List.range 32).map fun r => (va + r * step, 4 * fm.width)) = .ok (.ok runs) := hruns
  have hgrant : (vxAt s c e it).k.ungrantedIn runs.flatten = false := hgrant
  have hwait : ({ vxAt s c e it with s := (vxAt s c e it).s } : Vx).mustWait (globalSpans va fm step) = false := hwait
  unfold tstBody
  rw [hsh]
  dsimp only
  rw [hr]
  dsimp only
  rw [hc]
  dsimp only
  simp only [ hk, hl, List.append_nil, hruns, hgrant, hwait, ne_eq, not_true, false_and, if_true, Bool.false_eq_true,
    if_false, Bool.not_false, Bool.or_self]
  rfl

end

/-- The answer of a tile that goes to no key page ends the instruction. -/
theorem tstBody_reply {got : List (List Byte)} (hr : (s.core c).vu.reply = some got) (hg : a.bits 63 60 = 0) (hhead : got.head? = some []) :
    tstBody kind td a sw src b (vxAt s c e it) = .done (s.onCore c (·.tileRounded (tileRounds kind sh.lsrc sh.fmt))) := by
  obtain ⟨r, rfl⟩ := List.head?_eq_some_iff.mp hhead
  have hr : (vxAt s c e it).k.vu.reply = some ([] :: r) := hr
  have hkey : keyPage? (leNat []) = none := rfl
  unfold tstBody
  rw [hsh]
  dsimp only
  rw [hr]
  dsimp only
  simp only [hg, if_true, Vx.widenNext, List.headD_cons, hkey]
  rfl

end

theorem settle_onCore (s : State) (c : Nat) (f : Core → Core) (s0 : State) (it : VItem) :
    (VRet.done (s.onCore c f)).settle s0 c it = s.streamDone c (f (s.core c)) := settle_setCore ..

theorem tileStores : TileStores := by
  refine ⟨fun f sh w off step fm => ⟨fun s c e it h on ht ⟨hsh, hk, hl, hc⟩ => ?_, fun s c e it h on ht ⟨hsh, hk, hl, hc⟩ => ?_⟩,
    fun f sh s c d n e it h on hn hsh hk hl hc => ?_, fun i k f sh s c va step fm e it runs hi h on hsh hk hl hc hruns hf => ?_,
    fun i k f sh s c e it got hi h on hsh hg hhead => ?_⟩
  · obtain ⟨src, hx⟩ := exec_tst (.inl ⟨rfl, rfl⟩) h.toAtStep h.shares.2 on
    rw [hx, tstBody_own hsh h.fresh hk hl ht hc, settle_onCore, ← Core.storedRows_ownAccess]
    rfl
  · obtain ⟨src, hx⟩ := exec_tst (.inr ⟨rfl, rfl⟩) h.toAtStep h.shares.2 on
    rw [hx, tstBody_own hsh h.fresh hk hl ht hc, settle_onCore, ← Core.storedRows_ownAccess]
    rfl
  · obtain ⟨src, hx⟩ := exec_tst (.inl ⟨rfl, rfl⟩) h.toAtStep h.shares.2 on
    rw [hx, tstBody_far hsh h.fresh hk hl hn hc, settle_onCore]
    rfl
  · obtain ⟨src, hx⟩ := exec_tst hi h.toAtStep h.shares.2 on
    rw [hx, tstBody_glob hsh h.fresh hk hl hc hruns hf, settle_askTile]
    obtain ⟨-, rfl⟩ | ⟨-, rfl⟩ := hi <;> rfl
  · obtain ⟨src, hx⟩ := exec_tst hi h.toAtStep h.shares.2 on
    rw [hx, tstBody_reply hsh h.kept hg hhead, settle_onCore]

/-! ## Tiles at owners and at homes (R223–R226, R53) -/

section
variable {s : State} {k c : Nat} {src dst : Endpoint} {r : Requester}

theorem exec_remoteReply_tileData {bytes : List (List Byte)} (h : Delivers s k src (.core c) (.tileData bytes)) :
    exec (.remoteReply k) s = .next ((s.drop k).onCore c fun x => { x with vu := { x.vu with wait := false, reply := some bytes } }) :=
  packetStep_delivers h rfl fun _ => rfl

theorem exec_remoteReply_tileDone (h : Delivers s k src (.core c) .tileDone) :
    exec (.remoteReply k) s = .next ((s.drop k).onCore c fun x =>
      { x with vu := { x.vu with wait := false, reply := some (x.vu.reply.getD [] ++ [[]]) } }) :=
  packetStep_delivers h rfl fun _ => rfl

variable {addr pitch w off step : Nat} {fm : Fmt}

theorem exec_remoteTileLoadArrival {rows : List (List Nat)} (h : Delivers s k src (.core c) (.tileLoad r addr pitch))
    (hok : (s.core c).arrivalCheck r .vector addr 1 = none) (hf : (s.core c).farTile addr pitch false none = some (w, off, fm, step))
    (hrows : (s.core c).lcl.readTile (w64 addr) w off fm step = .ok rows) :
    exec (.remoteTileLoadArrival k) s = .next (((s.drop k).send (.core c) (.core r.core) .reply
      (.tileData (rows.map (codesRow 32)))).portTurn c) := by
  refine packetStep_atPort h rfl fun pl => ?_
  simp only [State.drop_core, hok, hf, hrows]
  rfl

theorem exec_remoteTileStoreArrival {mode e : Nat} {rng : W} {codes : List Nat}
    (h : Delivers s k src (.core c) (.tileStore r addr pitch (.elems mode rng codes) e))
    (hok : (s.core c).arrivalCheck r .vector addr 1 = none) (hf : (s.core c).farTile addr pitch true none = some (w, off, fm, step))
    (hfull : ∀ i, i < 32 → (s.core c).fullRefused c r (addr + i * step) (4 * fm.width) = false) :
    exec (.remoteTileStoreArrival k) s = .next ((((s.drop k).onCore c fun x =>
      { x with lcl := x.lcl.writeTile off step (storeRows fm x.lcl.t8 mode rng none codes) }).send (.core c) (.core r.core) .reply
        (.ack e)).portTurn c) := by
  have hany : ((List.range 32).any fun i => (s.core c).fullRefused c r (addr + i * step) (4 * fm.width)) = false :=
    List.any_eq_false.mpr fun i hi => by simp [hfull i (List.mem_range.mp hi)]
  refine packetStep_atPort h rfl fun pl => ?_
  simp only [State.drop_core, hok, hf, hany, Bool.false_eq_true, if_false, State.onCore]
  rfl

theorem exec_tileAccessAtHome_read {runs : List (Nat × Nat × Nat)} (h : Delivers s k src dst (.tile r (.read runs)))
    (hready : (s.drop k).readyHome (runs.map fun x => (x.2.1, x.2.2)) false = .ok) (hbad : (s.drop k).badRun runs = none) :
    exec (.tileAccessAtHome k) s = .next (((s.drop k).dropCopies r.core (runs.map fun x => (x.2.1, x.2.2))).send dst src .reply
      (.tileData (runs.map fun x => (s.drop k).bytesNow x.2.1 x.2.2))) := by
  refine waitingStep_delivers h rfl fun pl => ?_
  simp only [hready, hbad]

theorem exec_tileAccessAtHome_bad {a : Nat} {runs : List (Nat × Nat × Nat)} (h : Delivers s k src dst (.tile r (.read runs)))
    (hready : (s.drop k).readyHome (runs.map fun x => (x.2.1, x.2.2)) false = .ok) (hbad : (s.drop k).badRun runs = some a) :
    exec (.tileAccessAtHome k) s = .next (((s.drop k).detectRuns runs).send dst src .reply (.tileFailed ⟨0x22, w64 a⟩)) := by
  refine waitingStep_delivers h rfl fun pl => ?_
  simp only [hready, hbad]
  rfl

theorem exec_tileAccessAtHome_write {runs : List (Nat × Nat × List Byte)} (h : Delivers s k src dst (.tile r (.write runs)))
    (hready : (s.drop k).readyHome (runs.map fun x => (x.2.1, x.2.2.length)) true = .ok) :
    exec (.tileAccessAtHome k) s = .next (((s.drop k).homeTileWrite r.core runs).send dst src .reply .tileDone) := by
  refine waitingStep_delivers h rfl fun pl => ?_
  simp only [hready]

end

theorem tilePackets : TilePackets :=
  ⟨fun _ _ _ _ _ h => exec_remoteReply_tileData h, fun _ _ _ _ h => exec_remoteReply_tileDone h,
    fun _ _ _ _ _ _ _ _ _ _ _ _ h hok hf hrows => exec_remoteTileLoadArrival h hok hf hrows,
    fun _ _ _ _ _ _ _ _ _ _ _ _ _ _ _ h hok hf hfull => exec_remoteTileStoreArrival h hok hf hfull,
    fun _ _ _ _ _ _ h hready hbad => exec_tileAccessAtHome_read h hready hbad,
    fun _ _ _ _ _ _ _ h hready hbad => exec_tileAccessAtHome_bad h hready hbad,
    fun _ _ _ _ _ _ h hready => exec_tileAccessAtHome_write h hready⟩

/-- Settles O31: each tile instruction's own part by where its tile lies, each packet by the checks of the unit that takes it. -/
theorem tileAccesses : Obligations.TileAccesses := ⟨tileLoads, tileStores, tilePackets⟩

end Sys2Proof.Machine

/-! PROOFS. The pieces of transfers at their Porter (R70, R71, R76, R77). -/

namespace Sys2Proof.Machine

/-! ## Bytes by their addresses -/

/-- Among bytes written one after the other, of which those for `a` are all `b`, one for `a` decides what `a` reads. -/
theorem Memory.read_foldl_write_of_mem {l : List (Nat × Byte)} {a : Nat} {b : Byte} (hb : ∀ e ∈ l, e.1 = a → e.2 = b) (m : Memory)
    (h : m.read a = b ∨ ∃ e ∈ l, e.1 = a) : (l.foldl (fun m e => m.write e.1 e.2) m).read a = b := by
  induction l generalizing m with
  | nil => simpa using h
  | cons e r ih =>
    refine ih (fun d hd => hb d (List.mem_cons_of_mem _ hd)) _ ?_
    by_cases he : e.1 = a
    · subst he
      exact .inl (by rw [Memory.read_write_self, hb e List.mem_cons_self rfl])
    · rw [Memory.read_write_ne _ _ (Ne.symm he)]
      obtain h | ⟨d, hd, hda⟩ := h
      · exact .inl h
      · obtain rfl | hd := List.mem_cons.mp hd
        · exact absurd hda he
        · exact .inr ⟨d, hd, hda⟩

/-- Bytes for other addresses leave what `a` reads. -/
theorem Memory.read_foldl_write_of_not_mem {l : List (Nat × Byte)} {a : Nat} (h : ∀ e ∈ l, e.1 ≠ a) (m : Memory) :
    (l.foldl (fun m e => m.write e.1 e.2) m).read a = m.read a :=
  Memory.read_foldl_write_of_mem (fun e he hea => absurd hea (h e he)) m (.inl rfl)

theorem mem_rangeFrom {a n x : Nat} : x ∈ rangeFrom a n ↔ a ≤ x ∧ x < a + n := by
  simp only [rangeFrom, List.mem_map, List.mem_range]
  constructor
  · rintro ⟨i, hi, rfl⟩
    omega
  · rintro ⟨h1, h2⟩
    exact ⟨x - a, by omega, by omega⟩

/-- The bytes of a range with their addresses. -/
theorem mem_zip_rangeFrom {pa n a : Nat} {l : List Byte} {b : Byte} (hn : l.length = n) :
    (a, b) ∈ (rangeFrom pa n).zip l ↔ pa ≤ a ∧ a < pa + n ∧ l[a - pa]? = some b := by
  rw [List.mem_iff_getElem?]
  simp only [rangeFrom, List.getElem?_zip_eq_some, List.getElem?_map, Option.map_eq_some_iff]
  constructor
  · rintro ⟨i, ⟨j, hj, rfl⟩, hb⟩
    have hi : i < n := by rw [← hn]; exact (List.getElem?_eq_some_iff.mp hb).1
    rw [List.getElem?_range hi] at hj
    obtain rfl := Option.some.inj hj
    exact ⟨by omega, by omega, by rwa [Nat.add_sub_cancel_left]⟩
  · rintro ⟨h1, h2, hb⟩
    exact ⟨a - pa, ⟨a - pa, List.getElem?_range (by omega), by omega⟩, hb⟩

/-- The granule of one of the bytes is a granule of the bytes. -/
theorem div_mem_granulesOf {pa n a : Nat} (h1 : pa ≤ a) (h2 : a < pa + n) : a / 64 ∈ granulesOf pa n := by
  rw [granulesOf, if_neg (by omega), mem_rangeFrom]
  have hlo : pa / 64 ≤ a / 64 := Nat.div_le_div_right h1
  have hhi : a / 64 ≤ (pa + n - 1) / 64 := Nat.div_le_div_right (by omega)
  omega

/-! ## Steps of a piece -/

section
variable {s : State} {x i : Nat} {t : Xfer} {p : Piece} (h : PieceOf s x i t p)
include h

theorem exec_transferPiece_idle (hs : t.fin = true ∨ t.stop = true) (data : List Byte) : exec (.transferPiece x i data) s = .next s := by
  obtain ⟨ht, hp⟩ := h
  change execTransferPiece x i data s = _
  simp only [execTransferPiece, ht, hp, Xfer.broken, Bool.or_eq_true, hs, if_true]

variable (hf : t.fin = false) (hs : t.stop = false)
include hf hs

theorem exec_transferPiece_read (hph : p.phase = 0) (data : List Byte) :
    exec (.transferPiece x i data) s = .next (s.pieceRead x i t p data) := by
  obtain ⟨ht, hp⟩ := h
  change execTransferPiece x i data s = _
  simp only [execTransferPiece, ht, hp, Xfer.broken, hf, hs, Bool.or_self, Bool.false_eq_true, if_false, hph, if_true]

theorem exec_transferPiece_write (hph : p.phase = 2) (data : List Byte) :
    exec (.transferPiece x i data) s = .next (s.pieceWrite x i t p data) := by
  obtain ⟨ht, hp⟩ := h
  change execTransferPiece x i data s = _
  simp only [execTransferPiece, ht, hp, Xfer.broken, hf, hs, Bool.or_self, Bool.false_eq_true, if_false, hph, if_true]
  exact if_neg (by decide)

end

/-- A piece whose transfer has no barrier is replaced, and nothing more. -/
theorem PieceOf.setPiece_eq {s : State} {x i : Nat} {t : Xfer} {p : Piece} (h : PieceOf s x i t p) (ha : t.aux = none) (q : Piece) :
    s.setPiece x i q = s.setXfer x { t with pieces := t.pieces.set i q } := by
  obtain ⟨ht, -⟩ := h
  have hset : XferAt (s.setXfer x { t with pieces := t.pieces.set i q }) x { t with pieces := t.pieces.set i q } := XferAt.setXfer ht _
  have hset : (s.setXfer x { t with pieces := t.pieces.set i q }).xfers[x]? = some { t with pieces := t.pieces.set i q } := hset
  unfold State.setPiece State.settleXfer
  rw [ht]
  dsimp only
  rw [hset]
  dsimp only
  rw [ha]

/-! ## Requests to controllers (R38, R39) -/

/-- Asking a controller for a piece changes the queues and the counts alone. -/
theorem State.askPiece_frame (s : State) (x i : Nat) (t : Xfer) (pa : Nat) (gs : List Nat) (write : List (Nat × Byte)) :
    ∃ cs ms, s.askPiece x i t pa gs write = { s with ctls := cs, monitors := ms } :=
  foldl_keeps (P := fun u : State => ∃ cs ms, u = { s with ctls := cs, monitors := ms })
    (by rintro u g - ⟨cs, ms, rfl⟩; exact ⟨_, ms, rfl⟩) ⟨_, _, rfl⟩

theorem State.mem_askPiece (s : State) (x i : Nat) (t : Xfer) (pa : Nat) (gs : List Nat) (write : List (Nat × Byte)) :
    (s.askPiece x i t pa gs write).mem = s.mem := by
  obtain ⟨cs, ms, h⟩ := s.askPiece_frame x i t pa gs write
  rw [h]

theorem State.xfers_askPiece (s : State) (x i : Nat) (t : Xfer) (pa : Nat) (gs : List Nat) (write : List (Nat × Byte)) :
    (s.askPiece x i t pa gs write).xfers = s.xfers := by
  obtain ⟨cs, ms, h⟩ := s.askPiece_frame x i t pa gs write
  rw [h]

theorem State.tick_askPiece (s : State) (x i : Nat) (t : Xfer) (pa : Nat) (gs : List Nat) (write : List (Nat × Byte)) :
    (s.askPiece x i t pa gs write).tick = s.tick := by
  obtain ⟨cs, ms, h⟩ := s.askPiece_frame x i t pa gs write
  rw [h]

/-- The requests that it leaves at the controllers. -/
theorem State.mem_ctl_askPiece (s : State) (x i : Nat) (t : Xfer) (pa : Nat) {gs : List Nat} (write : List (Nat × Byte)) {g : Nat} (hg : g ∈ gs) :
    ∃ r ∈ (s.askPiece x i t pa gs write).ctl (controllerOf (g * 64)), r.granule = g ∧ r.write = write.filter (fun e => e.1 / 64 == g) ∧
      r.origin = .xfer x i ∧ r.deadline = t.deadline.map (s.tick + ·) := by
  rw [← s.tick_askPiece x i t pa gs write]
  unfold State.askPiece
  refine foldl_reaches (P := fun u : State => ∃ r ∈ u.ctl (controllerOf (g * 64)), r.granule = g ∧
    r.write = write.filter (fun e => e.1 / 64 == g) ∧ r.origin = .xfer x i ∧ r.deadline = t.deadline.map (u.tick + ·)) hg
    (fun u => ?_) (fun u j _ ⟨r, hr, hrest⟩ => ?_) _
  · exact ⟨_, State.mem_ctl_ask u _, rfl, rfl, rfl, rfl⟩
  · exact ⟨r, State.mem_ctl_ask_of_mem hr _, hrest⟩

/-- A request joins its controller's queue at the end. -/
theorem State.ctl_ask (s : State) (r : CtlReq) (n : Nat) :
    (s.ask r).ctl n = s.ctl n ++ if n = controllerOf (r.granule * 64) then [r] else [] := by
  unfold State.ask State.ctl
  split
  · next h => rw [h]; exact Tbl.getD_put_self ..
  · next h => rw [List.append_nil]; exact Tbl.getD_put_ne _ _ _ h

/-- Nothing else joins the queues. -/
theorem State.ctl_askPiece (s : State) (x i : Nat) (t : Xfer) (pa : Nat) (gs : List Nat) (write : List (Nat × Byte)) (n : Nat) :
    ∃ l, (s.askPiece x i t pa gs write).ctl n = s.ctl n ++ l ∧ ∀ r ∈ l, r.granule ∈ gs := by
  refine foldl_keeps (P := fun u : State => ∃ l, u.ctl n = s.ctl n ++ l ∧ ∀ r ∈ l, r.granule ∈ gs) (fun u g hg ⟨l, hl, hm⟩ => ?_)
    ⟨[], (List.append_nil _).symm, nofun⟩
  refine ⟨_, by rw [State.ctl_ask, hl, List.append_assoc], fun r hr => ?_⟩
  obtain hr | hr := List.mem_append.mp hr
  · exact hm r hr
  · split at hr
    · rw [List.mem_singleton.mp hr]
      exact hg
    · simp at hr

/-! ## Reads (R71) -/

/-- The event and the latency of a line that its home holds change the counts alone. -/
theorem State.pieceLatency_frame (s : State) (u code mask : Nat) :
    ∃ m n, (s.event u code).pieceLatency u mask = { s with monitors := m, fresh := n } := ⟨_, _, rfl⟩

theorem State.porterRead_held {s : State} {x i : Nat} {t : Xfer} {p : Piece} {pa : Nat} (hr : s.ready [(pa, p.len)] false = .ok)
    (hb : s.firstBad pa p.len = none) (hp : 2 ^ 40 ≤ pa ∨ s.present (lineOf pa) = true) :
    ∃ m n, s.porterRead x i t p pa =
      { s with monitors := m, fresh := n }.setPiece x i { p with data := s.bytesNow pa p.len, phase := 2, holes := [] } := by
  unfold State.porterRead
  rw [hr]
  dsimp only
  split
  · exact ⟨_, _, State.finishRead_of_sound hb x i⟩
  · next hlt =>
    rw [if_pos (hp.resolve_left hlt)]
    obtain ⟨m, n, hs⟩ := s.pieceLatency_frame (unitPorter (porterOf pa)) 0x33 (s.latencyMask (unitPorter (porterOf pa)))
    rw [hs]
    exact ⟨m, n, State.finishRead_of_sound (s := { s with monitors := m, fresh := n }) hb x i⟩

theorem State.porterRead_absent {s : State} {x i : Nat} {t : Xfer} {p : Piece} {pa : Nat} (hr : s.ready [(pa, p.len)] false = .ok)
    (hlt : pa < 2 ^ 40) (hp : s.present (lineOf pa) = false) (hc : p.fetchesCode = false) :
    s.porterRead x i t p pa = (s.setPiece x i { p with phase := 1 }).askPiece x i t pa (granulesOf pa p.len) [] := by
  unfold State.porterRead
  rw [hr]
  dsimp only
  rw [if_neg (show ¬Config.hbmSize ≤ pa from Nat.not_le.mpr hlt), hp, hc]
  rfl

/-! ## Writes (R71) -/

/-- Without holes, and of a plain write, every byte of a piece goes to its address. -/
theorem State.pieceBytes_plain (s : State) {t : Xfer} {p : Piece} (pa : Nat) (ha : t.add = none) (hh : p.holes = []) (hd : p.data.length = p.len) :
    s.pieceBytes t p pa = (rangeFrom pa p.len).zip p.data := by
  have htake : p.data.take p.len = p.data := by rw [← hd, List.take_length]
  simp only [State.pieceBytes, Piece.sound, ha, hh, List.foldl_nil, List.flatMap_cons, List.flatMap_nil, List.append_nil, Nat.add_zero,
    List.drop_zero, htake, Option.isNone_none, Bool.true_or, List.filter_true]

/-- Then every granule of the piece has a byte to write. -/
theorem filter_granulesOf {pa n : Nat} {l : List Byte} (hn : l.length = n) :
    ((granulesOf pa n).filter fun g => ((rangeFrom pa n).zip l).any fun e => e.1 / 64 == g) = granulesOf pa n := by
  refine List.filter_eq_self.mpr fun g hg => ?_
  obtain ⟨a, ha, rfl⟩ := exists_of_mem_granulesOf hg
  obtain ⟨h1, h2⟩ := mem_rangeFrom.mp ha
  have hlt : a - pa < l.length := by omega
  exact List.any_eq_true.mpr ⟨(a, l[a - pa]), (mem_zip_rangeFrom hn).mpr ⟨h1, h2, List.getElem?_eq_getElem hlt⟩, beq_self_eq_true _⟩

/-- Marking sectors written changes the host's sectors and the L1s alone. -/
theorem State.markWritten_frame (s : State) (g : Nat) (c : Option Nat) :
    s.markWritten g c = { s with hostSectors := (s.markWritten g c).hostSectors, cores := (s.markWritten g c).cores } := by
  unfold State.markWritten
  split
  · rfl
  · split <;> rfl

theorem State.foldl_markWritten_frame (s : State) (gs : List Nat) : ∃ hs cs,
    gs.foldl (fun s g => s.markWritten g none) s = { s with hostSectors := hs, cores := cs } :=
  foldl_keeps (P := fun u : State => ∃ hs cs, u = { s with hostSectors := hs, cores := cs })
    (by rintro u g - ⟨hs, cs, rfl⟩; exact ⟨_, _, State.markWritten_frame _ g none⟩) ⟨_, _, rfl⟩

/-- Writing a sound granule: its bytes go to memory, and no granule turns bad. -/
theorem State.writeGranule_of_sound {s : State} {g : Nat} (h : s.bad g = false) (w : List (Nat × Byte)) :
    (s.writeGranule g w).1 = false ∧ (s.writeGranule g w).2.mem = w.foldl (fun m e => m.write e.1 e.2) s.mem ∧
    (s.writeGranule g w).2.xfers = s.xfers ∧ ∀ j, s.bad j = false → (s.writeGranule g w).2.bad j = false := by
  unfold State.writeGranule
  rw [h, if_neg (by simp)]
  dsimp only
  split
  · exact ⟨rfl, rfl, rfl, fun _ hj => hj⟩
  · refine ⟨rfl, rfl, rfl, fun j hj => ?_⟩
    simp only [State.bad, Bool.or_eq_false_iff] at hj ⊢
    obtain rfl | hne := eq_or_ne j g
    · simp
    · rwa [Tbl.getD_put_ne _ _ _ hne, Tbl.getD_put_ne _ _ _ hne]

/-- One granule after the other, with what came of those before. -/
def State.writeNext (w : Nat → List (Nat × Byte)) (a : Bool × State) (g : Nat) : Bool × State :=
  (a.1 || (a.2.writeGranule g (w g)).1, (a.2.writeGranule g (w g)).2)

theorem State.foldl_writeNext {s : State} {gs : List Nat} (h : ∀ g ∈ gs, s.bad g = false) (w : Nat → List (Nat × Byte)) :
    (gs.foldl (State.writeNext w) (false, s)).1 = false ∧
    (gs.foldl (State.writeNext w) (false, s)).2.mem = (gs.flatMap w).foldl (fun m e => m.write e.1 e.2) s.mem ∧
    (gs.foldl (State.writeNext w) (false, s)).2.xfers = s.xfers := by
  induction gs generalizing s with
  | nil => exact ⟨rfl, rfl, rfl⟩
  | cons g r ih =>
    obtain ⟨hf, hm, hx, hb⟩ := State.writeGranule_of_sound (h g List.mem_cons_self) (w g)
    obtain ⟨ihf, ihm, ihx⟩ := ih (s := (s.writeGranule g (w g)).2) fun j hj => hb j (h j (List.mem_cons_of_mem _ hj))
    have hstep : State.writeNext w (false, s) g = (false, (s.writeGranule g (w g)).2) := by rw [State.writeNext, hf]; rfl
    rw [List.foldl_cons, hstep]
    exact ⟨ihf, by rw [ihm, hm, List.flatMap_cons, List.foldl_append], ihx.trans hx⟩

/-- What a Porter's write does once the bytes are recalled, of a plain piece without holes. -/
def State.porterPut (s : State) (x i : Nat) (t : Xfer) (p : Piece) (pa : Nat) : State :=
  let bytes := (rangeFrom pa p.len).zip p.data
  if pa < Config.hbmSize ∧ !s.present (lineOf pa) ∧ !(granulesOf pa p.len).isEmpty then
    (s.setPiece x i { p with phase := 3 }).askPiece x i t pa (granulesOf pa p.len) bytes
  else
    let u := unitPorter (porterOf pa)
    let s := if pa < Config.hbmSize then (s.event u 0x33).pieceLatency u (s.latencyMask u) else s
    let r := (granulesOf pa p.len).foldl (State.writeNext fun g => bytes.filter fun e => e.1 / 64 == g) (false, s)
    (if r.1 then r.2.faultXfer x 4 else r.2).setPiece x i { p with phase := 4 }

section
variable {s : State} {x i : Nat} {t : Xfer} {p : Piece} {pa : Nat}

theorem State.porterWrite_plain (hr : s.ready [(pa, p.len)] true = .ok) (ha : t.add = none) (hh : p.holes = []) (hd : p.data.length = p.len) :
    ∃ hs cs, s.porterWrite x i t p pa = { s.pullBytes pa p.len with hostSectors := hs, cores := cs }.porterPut x i t p pa := by
  obtain ⟨hs, cs, hm⟩ := (s.pullBytes pa p.len).foldl_markWritten_frame (granulesOf pa p.len)
  refine ⟨hs, cs, ?_⟩
  unfold State.porterWrite
  rw [hr]
  dsimp only
  simp only [ha, Option.isSome_none, Bool.false_and, Bool.false_eq_true, if_false]
  rw [State.pieceBytes_plain _ pa ha hh hd, filter_granulesOf hd, hm]
  rfl

/-- A held line, or one of the host tier, takes a piece's bytes at once. -/
theorem State.porterPut_held (hx : PieceOf s x i t p) (hd : p.data.length = p.len) (hb : ∀ g ∈ granulesOf pa p.len, s.bad g = false)
    (hp : 2 ^ 40 ≤ pa ∨ s.present (lineOf pa) = true) :
    (∃ t', PieceOf (s.porterPut x i t p pa) x i t' { p with phase := 4 }) ∧
    (∀ j, j < p.len → (s.porterPut x i t p pa).mem.read (pa + j) = p.data.getD j 0) ∧
    (∀ a, a < pa ∨ pa + p.len ≤ a → (s.porterPut x i t p pa).mem.read a = s.mem.read a) := by
  have hno : ¬(pa < Config.hbmSize ∧ !s.present (lineOf pa) ∧ !(granulesOf pa p.len).isEmpty) := fun ⟨hlt, hnp, _⟩ => by
    obtain h | h := hp
    · exact Nat.not_lt.mpr h hlt
    · simp [h] at hnp
  obtain ⟨m, n, hm⟩ := s.pieceLatency_frame (unitPorter (porterOf pa)) 0x33 (s.latencyMask (unitPorter (porterOf pa)))
  obtain ⟨m, n, hcount⟩ : ∃ m n, (if pa < Config.hbmSize then
      (s.event (unitPorter (porterOf pa)) 0x33).pieceLatency (unitPorter (porterOf pa)) (s.latencyMask (unitPorter (porterOf pa))) else s) =
        { s with monitors := m, fresh := n } := by
    split
    · exact ⟨m, n, hm⟩
    · exact ⟨_, _, rfl⟩
  obtain ⟨hfalse, hmem, hxfers⟩ := State.foldl_writeNext (s := { s with monitors := m, fresh := n }) hb
    fun g => ((rangeFrom pa p.len).zip p.data).filter fun e => e.1 / 64 == g
  have hput : s.porterPut x i t p pa = ((granulesOf pa p.len).foldl (State.writeNext fun g =>
      ((rangeFrom pa p.len).zip p.data).filter fun e => e.1 / 64 == g) (false, { s with monitors := m, fresh := n })).2.setPiece x i
        { p with phase := 4 } := by
    unfold State.porterPut
    dsimp only
    rw [if_neg hno, hcount, hfalse, if_neg (by decide)]
  have hread : (s.porterPut x i t p pa).mem = ((granulesOf pa p.len).flatMap fun g =>
      ((rangeFrom pa p.len).zip p.data).filter fun e => e.1 / 64 == g).foldl (fun m e => m.write e.1 e.2) s.mem := by
    rw [hput, (Served.setPiece ..).frame]
    exact hmem
  have hof {a : Nat} {b : Byte} : (a, b) ∈ ((granulesOf pa p.len).flatMap fun g => ((rangeFrom pa p.len).zip p.data).filter fun e => e.1 / 64 == g) ↔
      pa ≤ a ∧ a < pa + p.len ∧ p.data[a - pa]? = some b := by
    rw [← mem_zip_rangeFrom hd, List.mem_flatMap]
    simp only [List.mem_filter, beq_iff_eq]
    refine ⟨fun ⟨_, _, h, _⟩ => h, fun h => ?_⟩
    obtain ⟨h1, h2, -⟩ := (mem_zip_rangeFrom hd).mp h
    exact ⟨a / 64, div_mem_granulesOf h1 h2, h, rfl⟩
  refine ⟨?_, fun j hj => ?_, fun a ha => ?_⟩
  · rw [hput]
    refine PieceOf.setPiece (t := t) (p := p) ?_ _
    rwa [PieceOf, hxfers]
  · have hget : p.data[j]? = some (p.data.getD j 0) := by
      rw [List.getD_eq_getElem?_getD, List.getElem?_eq_getElem (by omega)]; rfl
    rw [hread]
    refine Memory.read_foldl_write_of_mem (fun e he hea => ?_) _ (.inr ⟨(pa + j, p.data.getD j 0), hof.mpr ⟨by omega, by omega, ?_⟩, rfl⟩)
    · obtain ⟨a, b⟩ := e
      obtain rfl : a = pa + j := hea
      obtain ⟨-, -, hb⟩ := hof.mp he
      rw [Nat.add_sub_cancel_left, hget] at hb
      exact (Option.some.inj hb).symm
    · rwa [Nat.add_sub_cancel_left]
  · rw [hread]
    refine Memory.read_foldl_write_of_not_mem (fun e he hea => ?_) _
    obtain ⟨h1, h2, -⟩ := hof.mp (show (e.1, e.2) ∈ _ from he)
    omega

/-- A line that is absent has the bytes sent to its controllers. -/
theorem State.porterPut_absent (hd : p.data.length = p.len) (hlen : 0 < p.len) (hlt : pa < 2 ^ 40) (hp : s.present (lineOf pa) = false) :
    (s.porterPut x i t p pa).mem = s.mem ∧
    ∀ g ∈ granulesOf pa p.len, ∃ r ∈ (s.porterPut x i t p pa).ctl (controllerOf (g * 64)), r.granule = g ∧ r.origin = .xfer x i ∧
      r.deadline = t.deadline.map (s.tick + ·) ∧
      ∀ a b, (a, b) ∈ r.write ↔ a / 64 = g ∧ pa ≤ a ∧ a < pa + p.len ∧ p.data[a - pa]? = some b := by
  have hne : granulesOf pa p.len ≠ [] := List.ne_nil_of_mem (div_mem_granulesOf (Nat.le_refl pa) (by omega))
  have hput : s.porterPut x i t p pa =
      (s.setPiece x i { p with phase := 3 }).askPiece x i t pa (granulesOf pa p.len) ((rangeFrom pa p.len).zip p.data) :=
    if_pos ⟨hlt, by simp [hp], by simp [hne]⟩
  have htick : (s.setPiece x i { p with phase := 3 }).tick = s.tick := by rw [(Served.setPiece ..).frame]
  refine ⟨by rw [hput, State.mem_askPiece, (Served.setPiece ..).frame], fun g hg => ?_⟩
  obtain ⟨r, hr, hgr, hw, ho, hdl⟩ := (s.setPiece x i { p with phase := 3 }).mem_ctl_askPiece x i t pa ((rangeFrom pa p.len).zip p.data) hg
  rw [hput]
  refine ⟨r, hr, hgr, ho, by rw [hdl, htick], fun a b => ?_⟩
  rw [hw, List.mem_filter, mem_zip_rangeFrom hd, beq_iff_eq, and_comm]

end

/-! ## The core's own scratchpad (R152) -/

/-- A part that ends within 64 aligned bytes is one arrival. -/
theorem portPart_of_le {a left : Nat} (h : left ≤ 64 - a % 64) : portPart a left = left := Nat.min_eq_left h

section
variable {s : State} {x i a : Nat} {t : Xfer} {p : Piece}

theorem State.readLocal_whole {bytes : List Byte} (hd : p.data = []) (hlen : p.len ≤ 64 - (localParts a).2.2 % 64)
    (hl : (s.core (localParts a).1).lcl.load (localParts a).2.1 (localParts a).2.2 p.len = some bytes) (hb : bytes.length = p.len) :
    s.readLocal x i p a = s.setPiece x i { p with data := bytes, phase := 2 } := by
  unfold State.readLocal
  dsimp only
  rw [hd, List.length_nil, Nat.add_zero, Nat.sub_zero, portPart_of_le hlen, hl]
  dsimp only
  rw [List.nil_append, if_pos hb]

theorem State.landNext_whole {s1 : State} (hm : p.landed = 0) (hh : p.holes = []) (hlen : p.len ≤ 64 - (localParts a).2.2 % 64)
    (hl : s.landBytes t i (localParts a).1 (localParts a).2.1 (localParts a).2.2 (p.data.take p.len) = (true, s1)) :
    s.landNext x i t p a = s1.setPiece x i { p with landed := p.len, phase := 4 } := by
  unfold State.landNext
  dsimp only
  rw [hm, Nat.add_zero, Nat.sub_zero, portPart_of_le hlen, Piece.sound, hh, List.foldl_nil, List.foldl_cons, List.foldl_nil, Nat.add_zero,
    List.drop_zero, hl]
  dsimp only
  rw [Nat.zero_add, if_pos rfl, Bool.and_self]

end

/-! ## Steps of a piece, by its source and destination -/

section
variable {s : State} {x i : Nat} {t : Xfer} {p : Piece}

theorem State.pieceRead_global {va pa : Nat} {s1 : State} (hsrc : p.src = .global va) (hat : s.pieceAt t false va = .ok pa s1)
    (data : List Byte) : s.pieceRead x i t p data = s1.porterRead x i t p pa := by
  simp only [State.pieceRead, hsrc, hat]

theorem State.pieceRead_fails {va e : Nat} (hsrc : p.src = .global va) (hat : s.pieceAt t false va = .fail e) (data : List Byte) :
    s.pieceRead x i t p data = s.failXfer x e := by
  simp only [State.pieceRead, hsrc, hat]

theorem State.pieceRead_far {a : Nat} (hsrc : p.src = .scratch a) (hl : t.isLocal true = false) (data : List Byte) :
    s.pieceRead x i t p data = (s.setPiece x i { p with phase := 1 }).send (.core t.core) (.core (localParts a).1) .request
      (.piece x i t.req a none false none) := by
  simp only [State.pieceRead, hsrc, hl, Bool.false_eq_true, if_false]

theorem State.pieceRead_local {a : Nat} (hsrc : p.src = .scratch a) (hl : t.isLocal true = true) (data : List Byte) :
    s.pieceRead x i t p data = s.readLocal x i p a := by
  simp only [State.pieceRead, hsrc, hl, if_true]

theorem State.pieceRead_fill {b : List Byte} (hsrc : p.src = .fill b) (data : List Byte) :
    s.pieceRead x i t p data = s.setPiece x i { p with data := b, phase := 2 } := by
  simp only [State.pieceRead, hsrc]

variable (hb : t.addBlocked i p = false)
include hb

theorem State.pieceWrite_misaligned (hm : t.addMisaligned p = true) (data : List Byte) : s.pieceWrite x i t p data = s.failXfer x 7 := by
  simp only [State.pieceWrite, hb, hm, Bool.false_eq_true, if_false, if_true]

variable (hm : t.addMisaligned p = false)
include hm

theorem State.pieceWrite_fill {b : List Byte} (hdst : p.dst = .fill b) (data : List Byte) :
    s.pieceWrite x i t p data = s.setPiece x i { p with phase := 4 } := by
  simp only [State.pieceWrite, hb, hm, hdst, Bool.false_eq_true, if_false]

theorem State.pieceWrite_local {a : Nat} (hdst : p.dst = .scratch a) (hl : t.isLocal false = true) (data : List Byte) :
    s.pieceWrite x i t p data = s.landNext x i t p a := by
  simp only [State.pieceWrite, hb, hm, hdst, hl, Bool.false_eq_true, if_false, if_true]

theorem State.pieceWrite_far {a : Nat} (hdst : p.dst = .scratch a) (hl : t.isLocal false = false) (data : List Byte) :
    s.pieceWrite x i t p data = (s.setPiece x i { p with phase := 3 }).send (.core t.core) (.core (localParts a).1) .bulk
      (.piece x i t.req a (some p.data) t.full t.add) := by
  simp only [State.pieceWrite, hb, hm, hdst, hl, Bool.false_eq_true, if_false]

theorem State.pieceWrite_fails {va e : Nat} (hdst : p.dst = .global va) (hat : s.pieceAt t true va = .fail e) (data : List Byte) :
    s.pieceWrite x i t p data = s.failXfer x e := by
  simp only [State.pieceWrite, hb, hm, hdst, hat, Bool.false_eq_true, if_false]

theorem State.pieceWrite_global {va pa : Nat} {s1 : State} (hdst : p.dst = .global va) (hat : s.pieceAt t true va = .ok pa s1)
    (data : List Byte) : s.pieceWrite x i t p data = s1.porterWrite x i t p pa := by
  simp only [State.pieceWrite, hb, hm, hdst, hat, Bool.false_eq_true, if_false]

end

/-- A translation for an engine at most fills TLBs. -/
theorem State.xfers_engineTranslate {s s1 : State} {c asid root va pa : Nat} {user write : Bool}
    (h : s.engineTranslate c asid root user write va = .ok pa s1) : s1.xfers = s.xfers := by
  unfold State.engineTranslate at h
  dsimp only at h
  split at h
  · split at h
    · cases h
    · cases h
      rfl
  · split at h
    · split at h
      · cases h
      · cases h
        rfl
    · cases h
    · cases h

theorem State.xfers_pieceAt {s s1 : State} {t : Xfer} {w : Bool} {va pa : Nat} (h : s.pieceAt t w va = .ok pa s1) : s1.xfers = s.xfers := by
  unfold State.pieceAt at h
  split at h
  · next htr =>
    cases h
    exact State.xfers_engineTranslate htr
  all_goals cases h

theorem pieceSteps : PieceSteps := by
  refine ⟨fun s x i t p h => ⟨fun hs => exec_transferPiece_idle h hs, fun hf hs hph => ⟨fun b data hsrc => ?_,
      fun a bytes data hsrc hl hd hlen hload hb => ?_, fun a data hsrc hl => ?_, fun va pa s1 data hsrc hat hr => ⟨fun hb hp => ?_,
      fun hlt hp hc => ?_⟩, fun va data hsrc e hat => ?_⟩⟩,
    fun s x i t p h hf hs hph hblk => ⟨fun hm data => ?_, fun hm => ⟨fun b data hdst => ?_, fun a s1 data hdst hl hland hlen hh hle hok => ?_,
      fun a data hdst hl => ?_, fun va e data hdst hat => ?_, fun va pa s1 data hdst hat hr ha hh hlen hd => ?_⟩⟩,
    fun s x i pa t gs => ⟨fun g hg => ?_, s.ctl_askPiece x i t pa gs [], s.mem_askPiece .., s.xfers_askPiece ..⟩,
    fun s x i t p q h ha => h.setPiece_eq ha q⟩
  · rw [exec_transferPiece_read h hf hs hph, State.pieceRead_fill hsrc]
  · rw [exec_transferPiece_read h hf hs hph, State.pieceRead_local hsrc hl, State.readLocal_whole hd hlen hload hb]
  · rw [exec_transferPiece_read h hf hs hph, State.pieceRead_far hsrc hl]
  · obtain ⟨m, n, hx⟩ := State.porterRead_held (x := x) (i := i) (t := t) hr hb hp
    exact ⟨m, n, by rw [exec_transferPiece_read h hf hs hph, State.pieceRead_global hsrc hat, hx]⟩
  · rw [exec_transferPiece_read h hf hs hph, State.pieceRead_global hsrc hat, State.porterRead_absent hr hlt hp hc]
  · rw [exec_transferPiece_read h hf hs hph, State.pieceRead_fails hsrc hat]
  · rw [exec_transferPiece_write h hf hs hph, State.pieceWrite_misaligned hblk hm]
  · rw [exec_transferPiece_write h hf hs hph, State.pieceWrite_fill hblk hm hdst]
  · rw [exec_transferPiece_write h hf hs hph, State.pieceWrite_local hblk hm hdst hl, State.landNext_whole hland hh hle hok]
  · rw [exec_transferPiece_write h hf hs hph, State.pieceWrite_far hblk hm hdst hl]
  · rw [exec_transferPiece_write h hf hs hph, State.pieceWrite_fails hblk hm hdst hat]
  · obtain ⟨sectors, cores, hput⟩ := State.porterWrite_plain (x := x) (i := i) hr ha hh hd
    have hex : exec (.transferPiece x i data) s = .next _ :=
      (exec_transferPiece_write h hf hs hph data).trans (by rw [State.pieceWrite_global hblk hm hdst hat, hput])
    have hx : PieceOf (s1.pullBytes pa p.len) x i t p := by
      rwa [PieceOf, (Recalls.pullBytes s1 pa p.len).frame, State.xfers_pieceAt hat]
    exact ⟨fun hb hp => ⟨_, hex, State.porterPut_held hx hd hb hp⟩, fun hlt hp => ⟨_, hex, State.porterPut_absent hd hlen hlt hp⟩⟩
  · obtain ⟨r, hr, hg, hw, ho, hdl⟩ := s.mem_ctl_askPiece x i t pa [] hg
    exact ⟨r, hr, hg, hw, ho, hdl⟩

end Sys2Proof.Machine

/-! PROOFS. The end of a transfer, and DONE (R73–R77). -/

namespace Sys2Proof.Machine

/-! ## What a transfer that ends leaves (R73, R76, R77) -/

/-- A core's registers when transfer `t` of it ends: its elements out of bounds counted, and its XFER trap in the list. -/
def Regs.ended (r : Regs) (t : Xfer) : Regs :=
  let counted := { r with oobcnt := w64 (Nat.min (r.oobcnt.toNat + t.oob) (2 ^ 64 - 1)) }
  match t.err with
  | none => counted
  | some e => counted.addPending ⟨cXFER, xferValue t e⟩

/-- Whether its XFER trap is lost. -/
def Xfer.losesTrap (t : Xfer) (r : Regs) : Bool := t.err.isSome && decide (Config.pendSize ≤ r.pend.length)

/-- The state in which transfer `x` has ended, before DONE passes it. -/
def State.endedXfer (s : State) (x : Nat) (t : Xfer) : State :=
  (s.onCore t.core fun k => { k with regs := k.regs.ended t }).setXfer x { t with fin := true, lost := t.losesTrap (s.core t.core).regs }

/-- A trap that joins the pending list, or is lost, changes no other register. -/
theorem Regs.addPending_frame (r : Regs) (t : Trap) :
    (r.addPending t).oobcnt = r.oobcnt ∧ (r.addPending t).cdone = r.cdone ∧ (r.addPending t).cnext = r.cnext := by
  unfold Regs.addPending
  split <;> exact ⟨rfl, rfl, rfl⟩

section
variable (r : Regs) (t : Xfer)

theorem Regs.oobcnt_ended : (r.ended t).oobcnt = w64 (Nat.min (r.oobcnt.toNat + t.oob) (2 ^ 64 - 1)) := by
  unfold Regs.ended
  split
  · rfl
  · exact (Regs.addPending_frame _ _).1

theorem Regs.cdone_ended : (r.ended t).cdone = r.cdone := by
  unfold Regs.ended
  split
  · rfl
  · exact (Regs.addPending_frame _ _).2.1

theorem Regs.cnext_ended : (r.ended t).cnext = r.cnext := by
  unfold Regs.ended
  split
  · rfl
  · exact (Regs.addPending_frame _ _).2.2

variable {t}

theorem Regs.pend_ended_sound (h : t.err = none) : (r.ended t).pend = r.pend := by
  rw [Regs.ended, h]

theorem Regs.pend_ended {e : Nat} (h : t.err = some e) (hn : r.pend.length < 32) : (r.ended t).pend = r.pend ++ [⟨cXFER, xferValue t e⟩] := by
  rw [Regs.ended, h]
  dsimp only
  rw [Regs.addPending, if_pos (show r.pend.length < Config.pendSize from hn)]

theorem Regs.pend_ended_full {e : Nat} (h : t.err = some e) (hn : 32 ≤ r.pend.length) : (r.ended t).pend = r.pend ∧ (r.ended t).lost = true := by
  rw [Regs.ended, h]
  dsimp only
  rw [Regs.addPending, if_neg (show ¬r.pend.length < Config.pendSize from Nat.not_lt.mpr hn)]
  exact ⟨rfl, rfl⟩

end

/-- A transfer that is not ready does not end. -/
theorem exec_transferCompletion_unready {s : State} {x : Nat} {t : Xfer} (h : XferAt s x t) (hr : t.ready = false) :
    exec (.transferCompletion x) s = .next s := by
  have h : s.xfers[x]? = some t := h
  change Host.Outcome.next (s.completeXfer x) = _
  simp only [State.completeXfer, h, hr, Bool.not_false, if_true]

/-- One that is ready ends, and DONE passes what is complete. -/
theorem exec_transferCompletion_ready {s : State} {x : Nat} {t : Xfer} (h : XferAt s x t) (hr : t.ready = true) :
    exec (.transferCompletion x) s = .next ((s.endedXfer x t).advanceDone t.core t.ch s.xfers.length) := by
  have h : s.xfers[x]? = some t := h
  change Host.Outcome.next (s.completeXfer x) = _
  unfold State.completeXfer State.endedXfer Xfer.losesTrap
  rw [h]
  dsimp only
  rw [hr, Bool.not_true, if_neg (by decide), State.core_onCore_self]
  cases he : t.err with
  | none =>
    have hk (r : Regs) : r.ended t = { r with oobcnt := w64 (Nat.min (r.oobcnt.toNat + t.oob) (2 ^ 64 - 1)) } := by rw [Regs.ended, he]
    simp only [hk]
    rfl
  | some e =>
    have hk (r : Regs) : r.ended t = Regs.addPending { r with oobcnt := w64 (Nat.min (r.oobcnt.toNat + t.oob) (2 ^ 64 - 1)) }
        ⟨cXFER, xferValue t e⟩ := by rw [Regs.ended, he]
    simp only [hk, State.pending, State.onCore_onCore]
    rfl

/-! ## DONE (R74) -/

/-- `u` is `s`, but for DONE of channel `ch` of core `c`. -/
structure Advances (s u : State) (c ch : Nat) : Prop where
  frame : u = { s with cores := u.cores }
  others : ∀ d, d ≠ c → u.core d = s.core d
  core : u.core c = { s.core c with regs := { (s.core c).regs with cdone := (u.core c).regs.cdone } }
  channels : ∀ j, j ≠ ch → Tbl.getD (u.core c).regs.cdone j 0 = Tbl.getD (s.core c).regs.cdone j 0

theorem Advances.refl (s : State) (c ch : Nat) : Advances s s c ch := ⟨rfl, fun _ _ => rfl, rfl, fun _ _ => rfl⟩

theorem Advances.trans {s t u : State} {c ch : Nat} (h : Advances s t c ch) (k : Advances t u c ch) : Advances s u c ch where
  frame := k.frame.trans (by rw [h.frame])
  others d hd := (k.others d hd).trans (h.others d hd)
  core := k.core.trans (by rw [h.core])
  channels j hj := (k.channels j hj).trans (h.channels j hj)

/-- DONE of a channel, and NEXT. -/
def State.doneOf (s : State) (c ch : Nat) : Nat := Tbl.getD (s.core c).regs.cdone ch 0
def State.nextOf (s : State) (c ch : Nat) : Nat := Tbl.getD (s.core c).regs.cnext ch 0

/-- DONE passes one ID. -/
def State.passDone (s : State) (c ch : Nat) : State :=
  s.onCore c fun k => { k with regs := { k.regs with cdone := Tbl.put 0 k.regs.cdone ch ((s.doneOf c ch + 1) % 2 ^ 48) } }

theorem State.advanceDone_succ (s : State) (c ch n : Nat) : s.advanceDone c ch (n + 1) =
    if s.doneOf c ch ≠ s.nextOf c ch ∧ s.idDone c ch (s.doneOf c ch) = true then (s.passDone c ch).advanceDone c ch n else s := rfl

theorem Advances.passDone (s : State) (c ch : Nat) : Advances s (s.passDone c ch) c ch where
  frame := rfl
  others _ hd := State.core_onCore_ne _ _ hd
  core := by rw [State.passDone, State.core_onCore_self]
  channels j hj := by rw [State.passDone, State.core_onCore_self]; exact Tbl.getD_put_ne _ _ _ hj

theorem State.doneOf_passDone (s : State) (c ch : Nat) : (s.passDone c ch).doneOf c ch = (s.doneOf c ch + 1) % 2 ^ 48 := by
  rw [State.doneOf, State.passDone, State.core_onCore_self]
  exact Tbl.getD_put_self ..

section
variable {s u : State} {c ch : Nat} (h : Advances s u c ch)
include h

theorem Advances.nextOf : u.nextOf c ch = s.nextOf c ch := by rw [State.nextOf, h.core]; rfl
theorem Advances.xfers : u.xfers = s.xfers := by rw [h.frame]
theorem Advances.idDone (id : Nat) : u.idDone c ch id = s.idDone c ch id := by rw [State.idDone, h.xfers]; rfl

end

/-- Passing IDs changes nothing but DONE. -/
theorem Advances.advanceDone (s : State) (c ch fuel : Nat) : Advances s (s.advanceDone c ch fuel) c ch := by
  induction fuel generalizing s with
  | zero => exact Advances.refl s c ch
  | succ fuel ih =>
    rw [State.advanceDone_succ]
    split
    · exact (Advances.passDone s c ch).trans (ih _)
    · exact Advances.refl s c ch

/-- Where DONE stops: it has passed `n` IDs, each complete, and then the fuel, the channel or the completed IDs end. -/
theorem State.advanceDone_spec (s : State) (c ch fuel : Nat) (hd : s.doneOf c ch < 2 ^ 48) :
    ∃ n, (s.advanceDone c ch fuel).doneOf c ch = (s.doneOf c ch + n) % 2 ^ 48 ∧
      (∀ i, i < n → (s.doneOf c ch + i) % 2 ^ 48 ≠ s.nextOf c ch ∧ s.idDone c ch ((s.doneOf c ch + i) % 2 ^ 48) = true) ∧
      (n = fuel ∨ (s.advanceDone c ch fuel).doneOf c ch = s.nextOf c ch ∨
        s.idDone c ch ((s.advanceDone c ch fuel).doneOf c ch) = false) := by
  induction fuel generalizing s with
  | zero => exact ⟨0, (Nat.mod_eq_of_lt hd).symm, fun i hi => absurd hi (Nat.not_lt_zero i), .inl rfl⟩
  | succ fuel ih =>
    rw [State.advanceDone_succ]
    split
    · next hgo =>
      have hpass := Advances.passDone s c ch
      obtain ⟨n, hn, hall, hend⟩ := ih (s.passDone c ch) (by rw [State.doneOf_passDone]; exact Nat.mod_lt _ (by decide))
      simp only [State.doneOf_passDone, hpass.nextOf, hpass.idDone, Nat.mod_add_mod] at hn hall hend
      refine ⟨n + 1, by rw [hn]; congr 1; omega, fun i hi => ?_, hend.imp (congrArg Nat.succ) id⟩
      cases i with
      | zero => rwa [Nat.add_zero, Nat.mod_eq_of_lt hd]
      | succ i =>
        rw [show s.doneOf c ch + (i + 1) = s.doneOf c ch + 1 + i by omega]
        exact hall i (by omega)
    · next hstop =>
      refine ⟨0, (Nat.mod_eq_of_lt hd).symm, fun i hi => absurd hi (Nat.not_lt_zero i), .inr ?_⟩
      by_cases hnext : s.doneOf c ch = s.nextOf c ch
      · exact .inl hnext
      · exact .inr (Bool.eq_false_iff.mpr fun h => hstop ⟨hnext, h⟩)

/-- An ID that is complete is one of the transfers'. -/
theorem State.mem_ids_of_idDone {s : State} {c ch id : Nat} (h : s.idDone c ch id = true) : id ∈ s.xfers.map (·.id) := by
  obtain ⟨x, hx⟩ : ∃ x, (s.xfers.reverse.find? fun x => x.core == c && x.ch == ch && x.id == id) = some x := by
    refine Option.isSome_iff_exists.mp (Option.isSome_iff_ne_none.mpr fun hnone => ?_)
    simp [State.idDone, hnone] at h
  have hp := List.find?_some hx
  simp only [Bool.and_eq_true, beq_iff_eq] at hp
  exact List.mem_map.mpr ⟨x, List.mem_reverse.mp (List.mem_of_find?_eq_some hx), hp.2⟩

/-- IDs that follow each other are no more than the transfers, where they are all complete. -/
theorem State.run_le_length {s : State} {c ch d n : Nat} (h : ∀ i, i < n → s.idDone c ch ((d + i) % 2 ^ 48) = true) (hn : n ≤ 2 ^ 48) :
    n ≤ s.xfers.length := by
  have hinj : Set.InjOn (fun i => (d + i) % 2 ^ 48) (Finset.range n : Finset Nat) := fun i hi j hj he => by
    simp only [Finset.coe_range, Set.mem_Iio] at hi hj
    simp only at he
    omega
  calc n = ((Finset.range n).image fun i => (d + i) % 2 ^ 48).card := by rw [Finset.card_image_of_injOn hinj, Finset.card_range]
    _ ≤ (s.xfers.map (·.id)).toFinset.card := Finset.card_le_card fun id hid => by
        obtain ⟨i, hi, rfl⟩ := Finset.mem_image.mp hid
        exact List.mem_toFinset.mpr (State.mem_ids_of_idDone (h i (Finset.mem_range.mp hi)))
    _ ≤ (s.xfers.map (·.id)).length := List.toFinset_card_le _
    _ = s.xfers.length := List.length_map _

/-- With as much fuel as there are transfers, DONE stops at NEXT or at an ID that is not complete. -/
theorem State.advanceDone_stops (s : State) (c ch : Nat) (hd : s.doneOf c ch < 2 ^ 48) (hl : s.xfers.length < 2 ^ 48) :
    ∃ n, (s.advanceDone c ch s.xfers.length).doneOf c ch = (s.doneOf c ch + n) % 2 ^ 48 ∧
      (∀ i, i < n → (s.doneOf c ch + i) % 2 ^ 48 ≠ s.nextOf c ch ∧ s.idDone c ch ((s.doneOf c ch + i) % 2 ^ 48) = true) ∧
      ((s.advanceDone c ch s.xfers.length).doneOf c ch = s.nextOf c ch ∨
        s.idDone c ch ((s.advanceDone c ch s.xfers.length).doneOf c ch) = false) := by
  obtain ⟨n, hn, hall, hend⟩ := s.advanceDone_spec c ch s.xfers.length hd
  refine ⟨n, hn, hall, hend.elim (fun hfull => .inr (Bool.eq_false_iff.mpr fun hlast => ?_)) id⟩
  have hrun : ∀ i, i < n + 1 → s.idDone c ch ((s.doneOf c ch + i) % 2 ^ 48) = true := fun i hi => by
    obtain hi | rfl := Nat.lt_succ_iff_lt_or_eq.mp hi
    · exact (hall i hi).2
    · rwa [← hn]
  have := State.run_le_length hrun (by omega)
  omega

/-! ## The transfer's end -/

section
variable {s : State} {x : Nat} {t : Xfer}

theorem State.core_setXfer (s : State) (x : Nat) (v : Xfer) (d : Nat) : (s.setXfer x v).core d = s.core d := rfl

theorem State.regs_endedXfer : ((s.endedXfer x t).core t.core).regs = (s.core t.core).regs.ended t := by
  rw [State.endedXfer, State.core_setXfer, State.core_onCore_self]

theorem State.doneOf_endedXfer : (s.endedXfer x t).doneOf t.core t.ch = s.doneOf t.core t.ch := by
  rw [State.doneOf, State.regs_endedXfer, Regs.cdone_ended]
  rfl

theorem State.nextOf_endedXfer : (s.endedXfer x t).nextOf t.core t.ch = s.nextOf t.core t.ch := by
  rw [State.nextOf, State.regs_endedXfer, Regs.cnext_ended]
  rfl

theorem State.length_endedXfer : (s.endedXfer x t).xfers.length = s.xfers.length := List.length_set

theorem State.lcl_endedXfer (d : Nat) : ((s.endedXfer x t).core d).lcl = (s.core d).lcl := by
  rw [State.endedXfer, State.core_setXfer]
  obtain rfl | hd := eq_or_ne d t.core
  · rw [State.core_onCore_self]
  · rw [State.core_onCore_ne _ _ hd]

theorem State.core_endedXfer_ne {d : Nat} (hd : d ≠ t.core) : (s.endedXfer x t).core d = s.core d := by
  rw [State.endedXfer, State.core_setXfer, State.core_onCore_ne _ _ hd]

/-- Two states with the same memories and local memories have the same bytes. -/
theorem SameBytes.of_lcl {s u : State} (hm : u.mem = s.mem) (hh : u.hostMem = s.hostMem) (hl : ∀ d, (u.core d).lcl = (s.core d).lcl) :
    SameBytes s u :=
  ⟨fun _ => by rw [hm], fun _ => by rw [hh], fun c _ => by rw [hl c], fun c _ => by rw [hl c], fun c _ => by rw [hl c]⟩

theorem Advances.lcl {u : State} {c ch : Nat} (h : Advances s u c ch) (d : Nat) : (u.core d).lcl = (s.core d).lcl := by
  obtain rfl | hd := eq_or_ne d c
  · rw [h.core]
  · rw [h.others d hd]

theorem Advances.pend {u : State} {c ch : Nat} (h : Advances s u c ch) : (u.core c).regs.pend = (s.core c).regs.pend := by rw [h.core]
theorem Advances.lost {u : State} {c ch : Nat} (h : Advances s u c ch) : (u.core c).regs.lost = (s.core c).regs.lost := by rw [h.core]
theorem Advances.oobcnt {u : State} {c ch : Nat} (h : Advances s u c ch) : (u.core c).regs.oobcnt = (s.core c).regs.oobcnt := by rw [h.core]

theorem transferCompletes (h : XferAt s x t) (hr : t.ready = true) :
    ∃ s' l, exec (.transferCompletion x) s = .next s' ∧ XferAt s' x { t with fin := true, lost := l } ∧
      (t.err = none → (s'.core t.core).regs.pend = (s.core t.core).regs.pend ∧ l = false) ∧
      (∀ e, t.err = some e → (s.core t.core).regs.pend.length < 32 → l = false ∧
        (s'.core t.core).regs.pend = (s.core t.core).regs.pend ++ [⟨0x21, w64 (t.ch * 2 ^ 60 + e * 2 ^ 56 + t.id)⟩]) ∧
      (∀ e, t.err = some e → 32 ≤ (s.core t.core).regs.pend.length → l = true ∧ (s'.core t.core).regs.pend = (s.core t.core).regs.pend ∧
        (s'.core t.core).regs.lost = true) ∧
      (s'.core t.core).regs.oobcnt = w64 (Nat.min ((s.core t.core).regs.oobcnt.toNat + t.oob) (2 ^ 64 - 1)) ∧
      (s.doneOf t.core t.ch < 2 ^ 48 → s.xfers.length < 2 ^ 48 → ∃ n, s'.doneOf t.core t.ch = (s.doneOf t.core t.ch + n) % 2 ^ 48 ∧
        (∀ i, i < n → (s.doneOf t.core t.ch + i) % 2 ^ 48 ≠ s.nextOf t.core t.ch ∧
          s'.idDone t.core t.ch ((s.doneOf t.core t.ch + i) % 2 ^ 48) = true) ∧
        (s'.doneOf t.core t.ch = s.nextOf t.core t.ch ∨ s'.idDone t.core t.ch (s'.doneOf t.core t.ch) = false)) ∧
      (∀ j, j ≠ t.ch → Tbl.getD (s'.core t.core).regs.cdone j 0 = Tbl.getD (s.core t.core).regs.cdone j 0) ∧
      SameBytes s s' ∧ OtherCoresSame s s' t.core := by
  have hadv := Advances.advanceDone (s.endedXfer x t) t.core t.ch s.xfers.length
  refine ⟨_, t.losesTrap (s.core t.core).regs, exec_transferCompletion_ready h hr, ?_, fun he => ⟨?_, ?_⟩, fun e he hn => ⟨?_, ?_⟩,
    fun e he hn => ⟨?_, ?_, ?_⟩, ?_, fun hd hl => ?_, fun j hj => ?_, ?_, fun d hd => ?_⟩
  · rw [XferAt, hadv.xfers]
    exact XferAt.setXfer (s := s.onCore t.core _) (t := t) h _
  · rw [hadv.pend, State.regs_endedXfer, Regs.pend_ended_sound _ he]
  · rw [Xfer.losesTrap, he]; rfl
  · rw [Xfer.losesTrap, decide_eq_false (show ¬Config.pendSize ≤ _ from Nat.not_le.mpr hn), Bool.and_false]
  · rw [hadv.pend, State.regs_endedXfer, Regs.pend_ended _ he hn]
    rfl
  · rw [Xfer.losesTrap, decide_eq_true (show Config.pendSize ≤ _ from hn), he]; rfl
  · rw [hadv.pend, State.regs_endedXfer, (Regs.pend_ended_full _ he hn).1]
  · rw [hadv.lost, State.regs_endedXfer, (Regs.pend_ended_full _ he hn).2]
  · rw [hadv.oobcnt, State.regs_endedXfer, Regs.oobcnt_ended]
  · have hstop := (s.endedXfer x t).advanceDone_stops t.core t.ch (by rwa [State.doneOf_endedXfer]) (by rwa [State.length_endedXfer])
    rw [State.length_endedXfer, State.doneOf_endedXfer, State.nextOf_endedXfer] at hstop
    simpa only [hadv.idDone] using hstop
  · rw [hadv.channels j hj, State.regs_endedXfer, Regs.cdone_ended]
  · refine SameBytes.of_lcl ?_ ?_ fun d => (hadv.lcl d).trans (State.lcl_endedXfer d)
    · rw [hadv.frame]
      rfl
    · rw [hadv.frame]
      rfl
  · rw [hadv.others d hd, State.core_endedXfer_ne hd]

end

end Sys2Proof.Machine

/-! PROOFS. The bytes of a transfer at a core's port, and their full bits (R86, R152). -/

namespace Sys2Proof.Machine

/-! ## Stores of the scratchpad, word by word (R152) -/

/-- The bytes of a store at `off` that fall in word `w`. -/
def bytesInWord (off n w : Nat) : List Nat := (List.range n).filter fun i => (off + i) / 8 == w

/-- The words that a store touches. -/
def spadWordsOf (off n : Nat) : List Nat := rangeFrom (off / 8) ((off + n - 1) / 8 + 1 - off / 8)

theorem mem_spadWordsOf {off n w : Nat} (hn : 0 < n) : w ∈ spadWordsOf off n ↔ off / 8 ≤ w ∧ w ≤ (off + n - 1) / 8 := by
  rw [spadWordsOf, mem_rangeFrom]
  omega

/-- A store that covers a word has its eight bytes. -/
theorem length_bytesInWord {off n w : Nat} (h1 : off ≤ 8 * w) (h2 : 8 * w + 8 ≤ off + n) : (bytesInWord off n w).length = 8 := by
  have hset : (bytesInWord off n w).toFinset = Finset.Ico (8 * w - off) (8 * w - off + 8) := by
    ext i
    simp only [bytesInWord, List.mem_toFinset, List.mem_filter, List.mem_range, beq_iff_eq, Finset.mem_Ico]
    omega
  have hnodup : (bytesInWord off n w).Nodup := List.nodup_range.filter _
  rw [← List.toFinset_card_of_nodup hnodup, hset, Nat.card_Ico]
  omega

/-- Bytes of a store, written one after the other. -/
def Memory.writeAt (m : Memory) (off : Nat) (bytes : List Byte) (is : List Nat) : Memory :=
  is.foldl (fun m i => m.write (off + i) (bytes.getD i 0)) m

theorem Memory.writeAt_eq (m : Memory) (off : Nat) (bytes : List Byte) (is : List Nat) :
    m.writeAt off bytes is = (is.map fun i => (off + i, bytes.getD i 0)).foldl (fun m e => m.write e.1 e.2) m := by
  rw [Memory.writeAt, List.foldl_map]

theorem Memory.writeAt_append (m : Memory) (off : Nat) (bytes : List Byte) (is js : List Nat) :
    m.writeAt off bytes (is ++ js) = (m.writeAt off bytes is).writeAt off bytes js := List.foldl_append

theorem Memory.read_writeAt_in (m : Memory) (off : Nat) (bytes : List Byte) {is : List Nat} {j : Nat} (h : j ∈ is) :
    (m.writeAt off bytes is).read (off + j) = bytes.getD j 0 := by
  rw [Memory.writeAt_eq]
  refine Memory.read_foldl_write_of_mem (fun e he hea => ?_) m (.inr ⟨(off + j, bytes.getD j 0), List.mem_map.mpr ⟨j, h, rfl⟩, rfl⟩)
  obtain ⟨i, -, rfl⟩ := List.mem_map.mp he
  obtain rfl : i = j := Nat.add_left_cancel hea
  rfl

theorem Memory.read_writeAt_out (m : Memory) (off : Nat) (bytes : List Byte) {is : List Nat} {o : Nat} (h : ∀ i ∈ is, off + i ≠ o) :
    (m.writeAt off bytes is).read o = m.read o := by
  rw [Memory.writeAt_eq]
  refine Memory.read_foldl_write_of_not_mem (fun e he => ?_) m
  obtain ⟨i, hi, rfl⟩ := List.mem_map.mp he
  exact h i hi

/-- A word that a store may write takes the store's part of it: a sound word, or one that the store covers. -/
theorem Local.writeWord_of_sound {l : Local} {w off : Nat} {bytes : List Byte}
    (h : Tbl.getD l.poison w false = false ∨ (bytesInWord off bytes.length w).length = 8) :
    ∃ q, l.writeWord w off bytes = { l with poison := q, spad := l.spad.writeAt off bytes (bytesInWord off bytes.length w) } ∧
      ∀ j, Tbl.getD l.poison j false = false → Tbl.getD q j false = false := by
  unfold Local.writeWord
  dsimp only
  split
  · refine ⟨_, rfl, fun j hj => ?_⟩
    obtain rfl | hne := eq_or_ne j w
    · exact Tbl.getD_put_self ..
    · rwa [Tbl.getD_put_ne _ _ _ hne]
  · next hlen =>
    rw [h.resolve_right hlen]
    exact ⟨_, rfl, fun _ hj => hj⟩

/-- So does each of several words. -/
theorem Local.foldl_writeWord {l : Local} {off : Nat} {bytes : List Byte} {ws : List Nat}
    (h : ∀ w ∈ ws, Tbl.getD l.poison w false = false ∨ (bytesInWord off bytes.length w).length = 8) :
    ∃ q, ws.foldl (fun l w => l.writeWord w off bytes) l =
      { l with poison := q, spad := l.spad.writeAt off bytes (ws.flatMap (bytesInWord off bytes.length)) } := by
  induction ws generalizing l with
  | nil => exact ⟨_, rfl⟩
  | cons w ws ih =>
    obtain ⟨q, hq, hkeep⟩ := Local.writeWord_of_sound (h w List.mem_cons_self)
    obtain ⟨q', hq'⟩ := ih (l := l.writeWord w off bytes) fun v hv => by
      rw [hq]
      exact (h v (List.mem_cons_of_mem _ hv)).imp (hkeep v) id
    refine ⟨q', ?_⟩
    rw [List.foldl_cons, hq', hq, List.flatMap_cons, Memory.writeAt_append]

/-- A store that meets no poisoned word but those that it covers writes its bytes, and changes nothing else but poison. -/
theorem Local.writeSpad_of_sound {l : Local} {off : Nat} {bytes : List Byte} (hn : 0 < bytes.length)
    (hm : l.mergeFails off bytes.length = false) :
    ∃ q m, l.writeSpad off bytes = { l with poison := q, spad := m } ∧
      (∀ j, j < bytes.length → m.read (off + j) = bytes.getD j 0) ∧
      (∀ o, o < off ∨ off + bytes.length ≤ o → m.read o = l.spad.read o) := by
  have hsound : ∀ w ∈ spadWordsOf off bytes.length, Tbl.getD l.poison w false = false ∨ (bytesInWord off bytes.length w).length = 8 := fun w hw => by
    have hne : (bytes.length != 0) = true := bne_iff_ne.mpr (by omega)
    rw [Local.mergeFails, hne, Bool.true_and, List.any_eq_false] at hm
    have hw := hm w hw
    simp only [Bool.and_eq_true, Bool.not_eq_true', Bool.and_eq_false_iff, decide_eq_false_iff_not, not_and, not_or, not_not] at hw
    by_cases hp : Tbl.getD l.poison w false = false
    · exact .inl hp
    · obtain ⟨h1, h2⟩ := hw (Bool.eq_true_of_not_eq_false hp)
      exact .inr (length_bytesInWord h1 h2)
  have hne : bytes.isEmpty = false := by
    cases bytes with
    | nil => exact absurd hn (Nat.lt_irrefl 0)
    | cons => rfl
  obtain ⟨q, hq⟩ := Local.foldl_writeWord hsound
  refine ⟨q, l.spad.writeAt off bytes ((spadWordsOf off bytes.length).flatMap (bytesInWord off bytes.length)), ?_,
    fun j hj => Memory.read_writeAt_in _ _ _ ?_, fun o ho => Memory.read_writeAt_out _ _ _ fun i hi => ?_⟩
  · rw [← hq, Local.writeSpad, hne]
    rfl
  · refine List.mem_flatMap.mpr ⟨(off + j) / 8, (mem_spadWordsOf hn).mpr ⟨by omega, by omega⟩, ?_⟩
    exact List.mem_filter.mpr ⟨List.mem_range.mpr hj, beq_self_eq_true _⟩
  · obtain ⟨w, -, hi⟩ := List.mem_flatMap.mp hi
    have := List.mem_range.mp (List.mem_filter.mp hi).1
    omega

/-! ## Full bits (R51, R86) -/

/-- The full bit of a word after that of word `w` is set. -/
theorem Local.isFull_setFull (l : Local) (w j : Nat) : (l.setFull w true).isFull j = (l.isFull j || j == w) := by
  unfold Local.setFull Local.isFull
  dsimp only
  by_cases hb : j / 8 = w / 8
  · rw [hb, Memory.read_write_self, if_pos rfl, BitVec.getLsbD_ofNat, Nat.testBit_or, Nat.testBit_two_pow]
    have hj : j % 8 < 8 := Nat.mod_lt _ (by decide)
    have heq : (w % 8 = j % 8) ↔ j = w := by omega
    simp only [hj, decide_true, Bool.true_and, heq, Bool.beq_eq_decide_eq]
    rfl
  · have hne : (j == w) = false := beq_eq_false_iff_ne.mpr fun h => hb (by rw [h])
    rw [Memory.read_write_ne _ _ hb, hne, Bool.or_false]

/-- Setting full bits changes nothing else. -/
theorem Local.foldl_setFull (l : Local) (ws : List Nat) :
    ∃ m, ws.foldl (fun l w => l.setFull w true) l = { l with full := m } ∧
      ∀ j, Local.isFull { l with full := m } j = true ↔ l.isFull j = true ∨ j ∈ ws := by
  induction ws generalizing l with
  | nil => exact ⟨l.full, rfl, fun j => by simp⟩
  | cons w ws ih =>
    obtain ⟨m, hm, hfull⟩ := ih (l.setFull w true)
    refine ⟨m, hm, fun j => ?_⟩
    have h : Local.isFull { l with full := m } j = true ↔ (l.setFull w true).isFull j = true ∨ j ∈ ws := hfull j
    rw [h, Local.isFull_setFull, Bool.or_eq_true, beq_iff_eq, List.mem_cons, or_assoc]

/-! ## Bytes that land (R86) -/

/-- Where no access waits for a full bit, serving the waiters changes nothing. -/
theorem State.lcl_serveFull {s : State} {c : Nat} (h : (s.core c).lcl.fullWait = []) : ((s.serveFull c).core c).lcl = (s.core c).lcl := by
  rw [State.serveFull, h, List.foldl_nil, State.core_onCore_self, ← h]

section
variable {s : State} {t : Xfer} {i c w off : Nat} {bytes : List Byte} (hm : (s.core c).lcl.mergeFails off bytes.length = false)
include hm

theorem State.landBytes_of_sound : (s.landBytes t i c w off bytes).1 = true := by
  unfold State.landBytes
  rw [hm, if_neg (by simp)]
  dsimp only
  split <;> rfl

/-- The words that get their full bits. -/
def Xfer.filledWords (t : Xfer) (i c off n : Nat) : List Nat :=
  if t.full then (spadWordsOf off n).filter fun q => t.restWritten i q c (off + n) else []

/-- What bytes that land make of the core's local memory. -/
theorem State.lcl_landBytes (hw : w ≤ 12) (hwait : (s.core c).lcl.fullWait = []) (hn : 0 < bytes.length) :
    (((s.landBytes t i c w off bytes).2).core c).lcl =
      (t.filledWords i c off bytes.length).foldl (fun l q => l.setFull q true) ((s.core c).lcl.writeSpad off bytes) := by
  have h13 : w ≠ 13 := by omega
  have h15 : w ≠ 15 := by omega
  obtain ⟨q, m, hspad, -, -⟩ := Local.writeSpad_of_sound hn hm
  have hstore : s.portStore c w off bytes = s.onCore c fun k => { k with lcl := k.lcl.writeSpad off bytes } := by
    simp only [State.portStore, Core.store, h13, h15, if_false]
  unfold State.landBytes Xfer.filledWords
  rw [hm, if_neg (by simp), hstore]
  dsimp only
  cases hf : t.full with
  | false =>
    simp only [Bool.false_eq_true, false_and, if_false, State.core_onCore_self]
    rfl
  | true =>
    rw [if_pos ⟨rfl, hw⟩, if_pos rfl]
    obtain ⟨f, hfold, -⟩ := ((s.core c).lcl.writeSpad off bytes).foldl_setFull (t.filledWords i c off bytes.length)
    rw [Xfer.filledWords, hf, if_pos rfl] at hfold
    refine (State.lcl_serveFull ?_).trans ?_
    · rw [State.core_onCore_self, State.core_onCore_self]
      dsimp only
      refine (congrArg Local.fullWait hfold).trans ?_
      rw [hspad]
      exact hwait
    · rw [State.core_onCore_self, State.core_onCore_self]
      rfl

end

/-- Of a transfer of one piece, the rest of a word is written once the piece reaches the word's end or its own (R86). -/
theorem Xfer.restWritten_single {t : Xfer} {p : Piece} {a q hi : Nat} (hp : t.pieces = [p]) (hg : t.group = none) (hd : p.dst = .scratch a)
    (hh : p.holes = []) : t.restWritten 0 q (localParts a).1 hi = true ↔
      (localParts a).2.2 + p.len ≤ hi ∨ (localParts a).2.2 + p.len ≤ 8 * q ∨ 8 * q + 8 ≤ hi := by
  simp [Xfer.restWritten, hp, hg, hd, hh, or_assoc]

theorem transferEnds : TransferEnds := by
  refine ⟨fun s x t h => ⟨exec_transferCompletion_unready h, transferCompletes h⟩, fun s t i c w off q bytes hw hn _ hwait hm => ?_,
    fun t p a q hi hp hg hd hh => Xfer.restWritten_single hp hg hd hh⟩
  obtain ⟨z, m, hspad, hin, hout⟩ := Local.writeSpad_of_sound hn hm
  obtain ⟨f, hfold, hfull⟩ := ((s.core c).lcl.writeSpad off bytes).foldl_setFull (t.filledWords i c off bytes.length)
  have hlcl := (State.lcl_landBytes (t := t) (i := i) hm hw hwait hn).trans hfold
  refine ⟨State.landBytes_of_sound hm, fun j hj => ?_, fun o ho => ?_, ?_⟩
  · rw [hlcl, hspad]
    exact hin j hj
  · rw [hlcl, hspad]
    exact hout o ho
  · have hkeep : ((s.core c).lcl.writeSpad off bytes).isFull q = (s.core c).lcl.isFull q := by
      rw [hspad]
      rfl
    have hwords : q ∈ t.filledWords i c off bytes.length ↔
        t.full = true ∧ off / 8 ≤ q ∧ q ≤ (off + bytes.length - 1) / 8 ∧ t.restWritten i q c (off + bytes.length) = true := by
      unfold Xfer.filledWords
      split
      · next h => rw [List.mem_filter, mem_spadWordsOf hn, and_assoc]; simp [h]
      · next h => simp [h]
    rw [hlcl, hfull q, hkeep, hwords]

end Sys2Proof.Machine

/-! PROOFS. Pieces and barrier decrements at the owner's port (R53, R75, R81, R85, R292). -/

namespace Sys2Proof.Machine

@[simp] theorem State.drop_xfers (s : State) (k : Nat) : (s.drop k).xfers = s.xfers := s.drop_frame (·.xfers) (fun _ _ _ => rfl) k

section
variable {s : State} {k c x i addr : Nat} {src : Endpoint} {r : Requester} {write : Option (List Byte)} {full : Bool} {add : Option Nat}
  {t : Xfer} {p : Piece} (h : Delivers s k src (.core c) (.piece x i r addr write full add)) (hx : PieceOf s x i t p)
include h hx

theorem exec_ownerPortPiece_refused {code : Nat} (hbad : (s.core c).arrivalCheck r .porter addr p.len = some code) :
    exec (.ownerPortPiece k) s =
      .next ((((s.drop k).setPiece x i { p with phase := 0 }).failXfer x (pieceCause code)).portTurn c) := by
  obtain ⟨ht, hp⟩ := hx
  refine packetStep_atPort h rfl fun pl => ?_
  simp only [State.drop_core, State.drop_xfers, ht, Option.bind_some, hp, hbad]

variable (hok : (s.core c).arrivalCheck r .porter addr p.len = none)
include hok

theorem exec_ownerPortPiece_read {bytes : List Byte} (hw : write = none)
    (hl : (s.core c).lcl.load (bitsOf addr 49 46) (bitsOf addr 17 0) p.len = some bytes) :
    exec (.ownerPortPiece k) s = .next (((s.drop k).setPiece x i { p with data := bytes, phase := 2 }).portTurn c) := by
  obtain ⟨ht, hp⟩ := hx
  refine packetStep_atPort h rfl fun pl => ?_
  simp only [State.drop_core, State.drop_xfers, ht, Option.bind_some, hp, hok, hw, localParts, hl]

theorem exec_ownerPortPiece_poisoned (hw : write = none) (hl : (s.core c).lcl.load (bitsOf addr 49 46) (bitsOf addr 17 0) p.len = none) :
    exec (.ownerPortPiece k) s = .next ((((s.drop k).setPiece x i { p with phase := 0 }).failXfer x 4).portTurn c) := by
  obtain ⟨ht, hp⟩ := hx
  refine packetStep_atPort h rfl fun pl => ?_
  simp only [State.drop_core, State.drop_xfers, ht, Option.bind_some, hp, hok, hw, localParts, hl]

variable {bytes : List Byte} {s1 : State} (hw : write = some bytes) (hs : t.stop = false)
include hw hs

section
variable (ha : add = none) (hf : (s.core c).fullRefused c r addr p.len = false)
include ha hf

theorem exec_ownerPortPiece_write (hl : (s.drop k).landBytes t i c (bitsOf addr 49 46) (bitsOf addr 17 0) bytes = (true, s1)) :
    exec (.ownerPortPiece k) s = .next ((s1.setPiece x i { p with phase := 4, landed := p.len }).portTurn c) := by
  obtain ⟨ht, hp⟩ := hx
  refine packetStep_atPort h rfl fun pl => ?_
  simp only [State.drop_core, State.drop_xfers, ht, Option.bind_some, hp, hok, hw, hs, ha, hf, localParts, hl, Bool.false_and,
    Bool.false_eq_true, if_false]

theorem exec_ownerPortPiece_unmerged (hl : (s.drop k).landBytes t i c (bitsOf addr 49 46) (bitsOf addr 17 0) bytes = (false, s1)) :
    exec (.ownerPortPiece k) s = .next (((s1.setPiece x i { p with phase := 0 }).failXfer x 4).portTurn c) := by
  obtain ⟨ht, hp⟩ := hx
  refine packetStep_atPort h rfl fun pl => ?_
  simp only [State.drop_core, State.drop_xfers, ht, Option.bind_some, hp, hok, hw, hs, ha, hf, localParts, hl, Bool.false_and,
    Bool.false_eq_true, if_false]

end

theorem exec_ownerPortPiece_add {old : List Byte} {rty : Nat} (ha : add = some rty)
    (ho : (s.core c).lcl.load (bitsOf addr 49 46) (bitsOf addr 17 0) p.len = some old)
    (hl : (s.drop k).landBytes t i c (bitsOf addr 49 46) (bitsOf addr 17 0) (combBytes 0 rty old bytes) = (true, s1)) :
    exec (.ownerPortPiece k) s = .next ((s1.setPiece x i { p with phase := 4, landed := p.len }).portTurn c) := by
  obtain ⟨ht, hp⟩ := hx
  refine packetStep_atPort h rfl fun pl => ?_
  simp only [State.drop_core, State.drop_xfers, ht, Option.bind_some, hp, hok, hw, hs, ha, ho, localParts, hl, Option.isNone_some, Bool.and_false,
    Bool.false_eq_true, if_false, Option.map_some]

end

/-! ## Barrier decrements (R75, R292) -/

section
variable {s : State} {k c x addr n : Nat} {src : Endpoint} {t : Xfer} {bytes : List Byte}
  (h : Delivers s k src (.core c) (.barDec x addr none n)) (hx : XferAt s x t)
  (hok : (s.core c).arrivalCheck t.req .atomic addr 16 = none) (hl : (s.core c).lcl.load 0 (bitsOf addr 17 0) 16 = some bytes)
include h hx hok hl

theorem exec_barrierDecrement_bad (hb : recordBad (leNat bytes % 2 ^ 64) = true) :
    exec (.barrierDecrement k) s = .next ((((s.drop k).setXfer x { t with decDone := true }).faultXfer x 11).portTurn c) := by
  have hx : s.xfers[x]? = some t := hx
  refine waitingStep_atPort h rfl fun pl => ?_
  simp only [State.drop_xfers, hx, State.recordRefused, State.drop_core, hok, Option.isSome_none, Bool.false_eq_true, if_false, recordAt,
    localParts, Endpoint.coreNo, State.readRecord, hl, Option.map_some, hb, if_true]

theorem exec_barrierDecrement (hb : recordBad (leNat bytes % 2 ^ 64) = false) :
    let a := recordDec (leNat bytes % 2 ^ 64) (leNat bytes / 2 ^ 64) n
    let stored := (s.drop k).portStore c 0 (bitsOf addr 17 0) (leBytes 16 (a.1 + 2 ^ 64 * a.2.1))
    exec (.barrierDecrement k) s = .next (((if a.2.2 then stored.wakeRecord (.port c (bitsOf addr 49 46) (bitsOf addr 17 0)) a.1 else stored).setXfer x
      { t with decDone := true }).portTurn c) := by
  have hx : s.xfers[x]? = some t := hx
  refine waitingStep_atPort h rfl fun pl => ?_
  simp only [State.drop_xfers, hx, State.recordRefused, State.drop_core, hok, Option.isSome_none, Bool.false_eq_true, if_false, recordAt,
    localParts, Endpoint.coreNo, State.updateRecord, State.readRecord, hl, Option.map_some, hb, State.writeRecord]

end

theorem ownerPieces : OwnerPieces := by
  refine ⟨fun s k c x i addr src r write full add t p h hx => ⟨fun code => exec_ownerPortPiece_refused h hx, fun hok =>
      ⟨fun bytes => exec_ownerPortPiece_read h hx hok, exec_ownerPortPiece_poisoned h hx hok, fun bytes hw hs ha hf =>
        ⟨fun s1 => exec_ownerPortPiece_write h hx hok hw hs ha hf, fun s1 => exec_ownerPortPiece_unmerged h hx hok hw hs ha hf⟩,
        fun bytes old rty s1 hw hs => exec_ownerPortPiece_add h hx hok hw hs⟩⟩,
    fun s k c x addr n v src t bytes h hx hok hl hv => ?_⟩
  subst hv
  exact ⟨exec_barrierDecrement_bad h hx hok hl, exec_barrierDecrement h hx hok hl⟩

end Sys2Proof.Machine

/-! PROOFS. SLOTRET, SBIND and CWAIT (R74, R83–R85). -/

namespace Sys2Proof.Machine

/-- An instruction that may issue and stays where it is has issued. -/
theorem Ret.finish_stay {s : State} {c : Nat} {t : Task} (hs : Issues s c t) (n : Need) :
    (Ret.stay (s.cx c t).s).finish (s.cx c t) n = .next (s.stalledOn c (s.core c) t t.wait) :=
  congrArg Host.Outcome.next (State.issue_eq hs.task)

theorem exec_slotret {f : SlotretForm} {s : State} {c : Nat} {t : Task} (hs : Issues s c t) (hg : guardPasses f.g t = true)
    (hc : t.carried = false) (ha : (t.reg f.a).toNat < 1024) :
    let s' := s.send (.core c) (.core (t.reg f.a).toNat) .request (.slotRet c (f.n.toNat + 1))
    exec (.slotret f) s = .next (s'.retire c (s'.core c) t (t.pc + 2)) := by
  change execSlotret f s = _
  unfold execSlotret
  refine (scalar_runs hs _ _ (by simp [hc]) (by simp [Need.stores, Need.plain]) (by simp [Need.stores, Need.plain]) ?_).trans ?_
  · exact hg
  have hhi : ¬ ((s.cx c t).x f.a).bits 63 10 ≠ 0 := by
    rw [bits_eq_div (by decide), State.cx_x, Nat.div_eq_of_lt (show _ < 2 ^ 10 from ha)]
    simp
  rw [if_neg hhi]
  exact (TaskBlind.send s c _ _ _ _).finish_done hs _

/-- A binding of the vector unit's streams is apart from the running task. -/
theorem TaskBlind.bind (s : State) (c n : Nat) (b : Binding) :
    TaskBlind (·.onCore c fun k => { k with vu := { k.vu with s := Tbl.insert k.vu.s n b } }) s c :=
  TaskBlind.onCore (fun u => by cases (s.core c).inHi <;> rfl) rfl rfl

theorem exec_sbind {f : SbindForm} {x : Xfer} {s : State} {c : Nat} {t : Task} (hs : Issues s c t) (hg : guardPasses f.g t = true)
    (hc : t.carried = false) (hhi : (s.core c).inHi = false)
    (h1 : 1 ≤ (Tbl.getD (s.core c).regs.cnext f.ch.toNat 0 + 2 ^ 48 - (t.reg f.a).bits 47 0) % 2 ^ 48)
    (h32 : (Tbl.getD (s.core c).regs.cnext f.ch.toNat 0 + 2 ^ 48 - (t.reg f.a).bits 47 0) % 2 ^ 48 ≤ 32) (hop : x.op = 0 ∨ x.op = 2)
    (hx : s.xfers.reverse.find? (fun x => x.core == c && x.ch == f.ch.toNat && x.id == (t.reg f.a).bits 47 0) = some x) :
    let b : Binding := { ch := f.ch.toNat, id := (t.reg f.a).bits 47 0, base := x.base, len := x.len, pos := 0, reader := 0 }
    let s' := s.onCore c fun k => { k with vu := { k.vu with s := Tbl.insert k.vu.s f.n.toNat b } }
    exec (.sbind f) s = .next (s'.retire c (s'.core c) t (t.pc + 2)) := by
  change execSbind f s = _
  unfold execSbind
  refine (scalar_runs hs _ _ (by simp [hc]) (by simp [Need.fence, Need.plain]) (fun _ => hhi) ?_).trans ?_
  · exact hg
  have hx : (s.cx c t).s.xfers.reverse.find? (fun x => x.core == (s.cx c t).c && x.ch == f.ch.toNat &&
    x.id == ((s.cx c t).x f.a).bits 47 0) = some x := hx
  have hregs : (s.cx c t).k.regs = (s.core c).regs := by rw [hs.cx_k, Core.setTask_regs]
  have hage : ¬((Tbl.getD (s.cx c t).k.regs.cnext f.ch.toNat 0 + 2 ^ 48 - ((s.cx c t).x f.a).bits 47 0) % 2 ^ 48 = 0 ∨
      32 < (Tbl.getD (s.cx c t).k.regs.cnext f.ch.toNat 0 + 2 ^ 48 - ((s.cx c t).x f.a).bits 47 0) % 2 ^ 48 ∨
      (!(x.op == 0 || x.op == 2)) = true) := by
    rw [hregs, State.cx_x]
    have hread : (!(x.op == 0 || x.op == 2)) = false := by obtain h | h := hop <;> simp [h]
    rw [hread]
    simp only [Bool.false_eq_true, or_false, not_or]
    omega
  dsimp only
  rw [hx]
  dsimp only
  rw [if_neg hage]
  exact (TaskBlind.bind s c _ _).finish_done hs _

/-- The ID that CWAIT waits for: one that is not issued yet counts as the newest (R85). -/
def awaitedId (id next : Nat) : Nat :=
  if id = (next + 2 ^ 48 - 1) % 2 ^ 48 ∨ idBefore id ((next + 2 ^ 48 - 1) % 2 ^ 48) = true then id else (next + 2 ^ 48 - 1) % 2 ^ 48

/-- CWAIT's own part: it goes on once DONE has passed the ID. -/
theorem exec_cwait {f : ChForm} {s : State} {c : Nat} {t : Task} (hs : Issues s c t) (hg : guardPasses f.g t = true) (hc : t.carried = false) :
    exec (.cwait f) s =
      if s.doneOf c f.ch.toNat = s.nextOf c f.ch.toNat ∨
        idBefore (awaitedId ((t.reg f.a).bits 47 0) (s.nextOf c f.ch.toNat)) (s.doneOf c f.ch.toNat) = true then
        .next (s.retire c (s.core c) t (t.pc + 2))
      else .next (s.stalledOn c (s.core c) t t.wait) := by
  have hregs : (s.cx c t).k.regs = (s.core c).regs := by rw [hs.cx_k, Core.setTask_regs]
  change execCwait f s = _
  unfold execCwait
  refine (scalar_runs hs _ _ (by simp [hc]) (by simp [Need.plain]) (by simp [Need.plain]) ?_).trans ?_
  · exact hg
  have hdone : Tbl.getD (s.cx c t).k.regs.cdone f.ch.toNat 0 = s.doneOf c f.ch.toNat := by rw [hregs]; rfl
  have hnext : Tbl.getD (s.cx c t).k.regs.cnext f.ch.toNat 0 = s.nextOf c f.ch.toNat := by rw [hregs]; rfl
  dsimp only
  rw [hdone, hnext]
  by_cases heq : s.doneOf c f.ch.toNat = s.nextOf c f.ch.toNat
  · rw [if_pos heq, if_pos (.inl heq)]
    exact Ret.finish_off _ hs
  · rw [if_neg heq]
    change Ret.finish (if idBefore (awaitedId ((t.reg f.a).bits 47 0) (s.nextOf c f.ch.toNat)) (s.doneOf c f.ch.toNat) = true then
      Ret.done (s.cx c t).s else Ret.stay (s.cx c t).s) _ _ = _
    by_cases hb : idBefore (awaitedId ((t.reg f.a).bits 47 0) (s.nextOf c f.ch.toNat)) (s.doneOf c f.ch.toNat) = true
    · rw [if_pos hb, if_pos (.inr hb)]
      exact Ret.finish_off _ hs
    · rw [if_neg hb, if_neg (not_or.mpr ⟨heq, hb⟩)]
      exact Ret.finish_stay hs _

theorem idBefore_iff (x y : Nat) : idBefore x y = true ↔ 1 ≤ (y + 2 ^ 48 - x) % 2 ^ 48 ∧ (y + 2 ^ 48 - x) % 2 ^ 48 ≤ 2 ^ 47 := by
  rw [idBefore, Bool.and_eq_true, decide_eq_true_eq, decide_eq_true_eq]

/-! ## Slots that come back (R83) -/

/-- The credits of multicast channel `j` after `n` slots of core `from_` came back. -/
def Regs.slotsBack (r : Regs) (from_ n j v : Nat) : Nat :=
  if bitOf (r.mcrAt j) 15 = true ∧ bitsOf (r.mcrAt j) 9 0 = from_ then Nat.min (v + n) (bitsOf (r.mcrAt j) 14 11) else v

/-- One channel of it: its entry is replaced where its member is that core. -/
def Regs.slotBack (r : Regs) (from_ n : Nat) (m : Tbl Nat) (j : Nat) : Tbl Nat :=
  if bitOf (r.mcrAt j) 15 = true ∧ bitsOf (r.mcrAt j) 9 0 = from_ then Tbl.put 0 m j (Nat.min (Tbl.getD m j 0 + n) (bitsOf (r.mcrAt j) 14 11)) else m

theorem Regs.getD_slotBack_self (r : Regs) (from_ n : Nat) (m : Tbl Nat) (j : Nat) :
    Tbl.getD (r.slotBack from_ n m j) j 0 = r.slotsBack from_ n j (Tbl.getD m j 0) := by
  unfold Regs.slotBack Regs.slotsBack
  split
  · exact Tbl.getD_put_self ..
  · rfl

theorem Regs.getD_slotBack_ne (r : Regs) (from_ n : Nat) (m : Tbl Nat) {i j : Nat} (h : j ≠ i) :
    Tbl.getD (r.slotBack from_ n m i) j 0 = Tbl.getD m j 0 := by
  unfold Regs.slotBack
  split
  · exact Tbl.getD_put_ne _ _ _ h
  · rfl

/-- The channels one after the other. -/
theorem Regs.getD_foldl_slotBack (r : Regs) (from_ n : Nat) (m : Tbl Nat) (k j : Nat) :
    Tbl.getD ((List.range k).foldl (r.slotBack from_ n) m) j 0 = if j < k then r.slotsBack from_ n j (Tbl.getD m j 0) else Tbl.getD m j 0 := by
  induction k with
  | zero => rfl
  | succ k ih =>
    rw [List.range_succ, List.foldl_append, List.foldl_cons, List.foldl_nil]
    obtain rfl | hne := eq_or_ne j k
    · rw [Regs.getD_slotBack_self, ih, if_neg (Nat.lt_irrefl _), if_pos (Nat.lt_succ_self _)]
    · have hiff : j < k ↔ j < k + 1 := by omega
      rw [Regs.getD_slotBack_ne _ _ _ _ hne, ih]
      simp only [hiff]

theorem exec_slotReturn {s : State} {k c n from_ : Nat} {src : Endpoint} (h : Delivers s k src (.core c) (.slotRet from_ n)) :
    exec (.slotReturn k) s = .next ((s.drop k).onSched c fun k =>
      { k with regs := { k.regs with mcs := (List.range 16).foldl ((s.core c).regs.slotBack from_ n) (s.core c).regs.mcs } }) := by
  refine packetStep_delivers h rfl fun pl => ?_
  simp only [State.drop_core]
  rfl

/-- Settles O42: a piece by the place it reads or writes, the end of a transfer by what it leaves of its core and then by DONE's run of
complete IDs, which the number of transfers bounds. -/
theorem transferProgress : Obligations.TransferProgress := by
  refine ⟨pieceSteps, transferEnds, ownerPieces, fun f s c t hs hg ⟨hc, ha⟩ => exec_slotret hs hg hc ha, fun s k c n from_ src h => ?_,
    fun f x s c t hs hg ⟨hc, hhi, h1, h32, hop, hx⟩ => exec_sbind hs hg hc hhi h1 h32 hop hx,
    fun f => ⟨fun s c t hs hg ⟨hc, hor⟩ => (exec_cwait hs hg hc).trans (if_pos hor),
      fun s c t hs hg ⟨hc, hne, hb⟩ => (exec_cwait hs hg hc).trans (if_neg ?_)⟩, idBefore_iff⟩
  · refine ⟨_, exec_slotReturn h, fun j hj => ?_⟩
    rw [Regs.getD_foldl_slotBack, if_pos hj]
    rfl
  · rintro (h | h)
    · exact hne h
    · exact Bool.false_ne_true (hb.symm.trans h)

end Sys2Proof.Machine
